-- ==== Sys2Proof/Word.lean ====
section
/-!
DEFINITION. Words and tables of the IZR-9180 model: byte and word types (spec/00 R6) and the association list that holds
every sparse table of the device as plain data.
-/
namespace Sys2Proof

/-- A byte of memory, registers, descriptors and messages (R6: little-endian throughout). -/
abbrev Byte := BitVec 8
/-- A 32-bit register or field. -/
abbrev Word32 := BitVec 32
/-- A 64-bit register, counter or accumulator element. -/
abbrev Word64 := BitVec 64

/-- A sparse table: the entries listed; a key not listed has the table's default, which each reader names. -/
abbrev Map (κ α : Type) := List (κ × α)

/-- The entry of `k`, or the default `d`. -/
def Map.get {κ α : Type} [DecidableEq κ] (m : Map κ α) (d : α) (k : κ) : α :=
  match m with
  | [] => d
  | (k', a) :: rest => if k' = k then a else Map.get rest d k

/-- The entry of `k`, if listed. -/
def Map.find {κ α : Type} [DecidableEq κ] (m : Map κ α) (k : κ) : Option α :=
  match m with
  | [] => none
  | (k', a) :: rest => if k' = k then some a else Map.find rest k

/-- The table with `k` set to `a`: in place where listed, at the end otherwise. -/
def Map.put {κ α : Type} [DecidableEq κ] (m : Map κ α) (k : κ) (a : α) : Map κ α :=
  match m with
  | [] => [(k, a)]
  | (k', b) :: rest => if k' = k then (k, a) :: rest else (k', b) :: Map.put rest k a

/-- The table without `k`. -/
def Map.del {κ α : Type} [DecidableEq κ] (m : Map κ α) (k : κ) : Map κ α :=
  match m with
  | [] => []
  | (k', b) :: rest => if k' = k then Map.del rest k else (k', b) :: Map.del rest k

end Sys2Proof
end

