-- ==== Sys2Proof/Syntax.lean ====
section
/-!
DEFINITION. The commands of the IZR-9180 block: one constructor per row of spec/opcode_table.json (234 rows). The table gives no
row any operand fields, so each constructor's operands are what the row's rule says comes from outside the device with the event
(notes/assumptions 3): the function, address and value of a register access, the body of a message, the reading of a sensor, the
unit, port, ring, core or stage slot at which the event takes place. Everything else is read from State.
-/
namespace Sys2Proof

/-- The four views of a register page (spec/00 Table 0.9). -/
inductive View where
  | plain | set | clear | toggle
deriving DecidableEq, Repr

/-- Who sends a Weloc or SPDM request (spec/15 R404, spec/16 Table 16.1): the transport and whether a secured session, Secure by
owner, or none carries it. -/
inductive Transport where
  | i3c (bus : Nat) | vdm | doe | link (devid : Nat)
deriving DecidableEq, Repr

/-- A manager of the dictionary: its transport, its endpoint or device number on it, and the SPDM session that carries the
message, if any (spec/15 R409, spec/16 R445). -/
structure Manager where
  via : Transport
  eid : Nat
  session : Option Nat
deriving DecidableEq, Repr

/-- How a completion from the host ends (spec/14 R382). -/
inductive Completion where
  | data | unsupported | abort | poison
deriving DecidableEq, Repr

/-- What a memory controller finds when it reads a line (spec/10 R269). -/
inductive EccResult where
  | clean | corrected | corrected_again | uncorrected
deriving DecidableEq, Repr

/-- Who makes a memory request (spec/16 R430): world, function number, stage slot where a stage makes it. -/
structure Requester where
  secure : Bool
  fn : Nat
  stage : Option Nat
deriving DecidableEq, Repr

/-- The causes of a fall of an ACTIVE port into RETRAIN (spec/11 R304). -/
inductive RetrainCause where
  | lockLost | errorRatio | tagFailures | lowFeed | frameLimit
deriving DecidableEq, Repr

/-- Structures in control SRAM (spec/18 Table 18.2): the state bits of a Granary line; a core's slots, chain program, lanes or retained
map (0 to 3); a codec stream; a paced-output channel; a structure whose loss is fatal, with its code of R492, an address, and the stage
slot that lost its contents, where one did. -/
inductive SramKind where
  | granary (line : Nat) | core (core part : Nat) | codec (encode : Bool) (slot : Nat) | pace (channel : Nat)
  | fatal (code address : Nat) (slot : Option Nat)
deriving DecidableEq, Repr

/-- What a request to configuration space names (spec/14 R377, R380, R383): the identifiers, and the registers of the features of Table
14.1. The PCI Express base specification lays them out in the space (PRESUMED, log 54); `other` is a word of a feature whose state
the spec does not use, by its byte offset. -/
inductive ConfigReg where
  | ids | revision | command | deviceControl | linkControl | powerControl | msixControl | bar4Size | vfControl
  | bar (dword : Nat) | vfBar (dword : Nat)     -- the BARs, and those of the VFs in the SR-IOV capability, two words each
  | aerUncorrectable | aerCorrectable | other (offset : Nat)
deriving DecidableEq, Repr

/-- A request to a register of configuration space: the value that a write brings. -/
structure ConfigAccess where
  register : ConfigReg
  write : Option Word32
deriving DecidableEq, Repr

/-- A read of a word through a BAR: its offset as the request has it, and whether it came over the bound IDE stream. -/
structure BarRead where
  bar : Nat
  offset : Nat
  ide : Bool
deriving DecidableEq, Repr

/-- Commands of the block, in the order of the table. -/
inductive Instr where
  -- Host interface (spec/14)
  | hifDbSqTail (fn page : Nat) (view : View) (value : Word32) (ide : Bool)
  | hifDbCqHead (fn page : Nat) (view : View) (value : Word32) (ide : Bool)
  | enable (fn page : Nat) (ide : Bool)
  | resume (fn page : Nat) (ide : Bool)
  | drain (fn page : Nat) (ide : Bool)
  | reset (fn page : Nat) (ide : Bool)
  | functionLevelReset (fn : Nat)
  | pcieHotReset
  | ringResetComplete (ring : Nat)
  | fetchDescriptors
  | fetchAllowanceTick
  | descriptorArrival (ring : Nat) (bytes : List Byte)
  | descriptorFetchFault (ring : Nat) (how : Completion)
  | admitStage (slot : Nat)
  | chainBlockCheck (slot : Nat)
  | stageStart (slot : Nat)
  | stageComplete (slot : Nat)
  | cqEntryWrite (ring : Nat)
  | cqWriteFault (ring : Nat)
  | irqDelayExpiry (ring : Nat)
  | pcieConfigRequest (fn : Nat) (access : ConfigAccess)
  | bar4Read (fn offset length : Nat) (ide : Bool)
  | bar4Write (fn offset : Nat) (bytes : List Byte) (ide : Bool)
  | registerWrite (fn bar page offset : Nat) (value : Word32) (ide : Bool)   -- a page of 4 KiB, an offset in it
  | registerLowWordRead (fn : Nat) (access : BarRead)
  | hifFnTableWrite (fn entry register : Nat) (view : View) (value : Word32)
  | dspReprio (view : View) (value : Word32)
  | hifVfReprio (fn : Nat) (view : View) (value : Word32) (ide : Bool)
  | vidKeyReq (view : View) (value : Word32)
  | hifVfKeyReq (fn : Nat) (view : View) (value : Word32) (ide : Bool)
  | memUeAckWrite (view : View) (value : Word32)
  | regCtrlWrite (descriptor : Nat) (view : View) (value : Word32)
  -- Placement and field cores (spec/02 to 06, 08, 09)
  | placeTask
  | taskStart (core : Nat)
  | arrayPassComplete (core : Nat)
  | taskPassesEnd (core : Nat)
  | harrowRowEnd (core : Nat)
  | spillComplete (core : Nat)
  | restoreComplete (core : Nat) (headerOk : Bool)
  | taskDrainStart (core : Nat)
  | taskDrainEnd (core : Nat)
  | arrayClockStop (core array : Nat)
  | gleanRequest (core : Nat)
  | gleanServe (victim : Nat)
  | gleanTransferComplete (core : Nat)
  | gleanExclusionExpiry (core victim : Nat)
  | fenceComplete (slot : Nat)
  | barrierArrive (slot : Nat)
  | spillHintRun (slot : Nat)
  | arrivalTimeout (slot : Nat)
  | laneContextTakeover (core : Nat)
  -- Key-value store (spec/07)
  | kvAppendStart (slot : Nat)
  | kvAppendComplete (slot : Nat)
  | kvReleaseStart (slot : Nat)
  | kvReleaseComplete (slot : Nat)
  -- Memory (spec/10)
  | memoryRead (who : Requester) (addr length hint : Nat)
  | memoryWrite (who : Requester) (addr : Nat) (bytes : List Byte) (hint : Nat)
  | missFillComplete (line : Nat) (ecc : EccResult)
  | atomicRequest (who : Requester) (addr op fmt : Nat) (wrap : Bool) (bytes : List Byte)
  | atomicApplyMc (line : Nat) (ecc : EccResult)
  | rowRemapComplete (unit : Nat)
  | scrubRead (unit : Nat) (ecc : EccResult) (forced : Bool)
  | memTempRead (unit : Nat) (celsius : Option Nat)
  | ceRateTick
  | unitRetrainStart (unit cause : Nat)
  | unitRetrainAttemptEnd (unit : Nat) (passed : Bool)
  -- Light links (spec/11)
  | linkFrameRx (port corrected : Nat) (uncorrectable types : List Nat)
  | dataFlitWrite (port : Nat) (bytes : List Byte)
  | dataFlitAtomic (port : Nat) (bytes : List Byte)
  | dataFlitReadData (port : Nat) (bytes : List Byte)
  | dataFlitReadPoison (port : Nat) (bytes : List Byte)
  | controlFlitRx (port : Nat) (bytes : List Byte)
  | controlReplayTimeout (peer : Nat)
  | creditReturn (port : Nat)
  | hello (port src : Nat) (body : List Byte)
  | leave (src : Nat)
  | time (src : Nat) (body : List Byte)
  | winReq (src : Nat) (body : List Byte)
  | winGrant (src : Nat) (body : List Byte)
  | winDeny (src : Nat) (body : List Byte)
  | winEnd (src : Nat) (body : List Byte)
  | winDone (src : Nat) (body : List Byte)
  | winDoneTimeout (window : Nat)
  | readReq (src : Nat) (body : List Byte)
  | readEnd (src : Nat) (body : List Byte)
  | coll (src : Nat) (body : List Byte)
  | weloc (src : Nat) (body : List Byte)
  | key (port : Nat) (body : List Byte)
  | routeDrop (src : Nat) (body : List Byte)
  | helloPeriodTimer
  | timeExchangeTimer
  | peerTimeout (peer : Nat)
  | retrainGraceExpiry (peer : Nat)
  | peerAbsentTimeout (peer : Nat)
  | portCalibrateEnd (port : Nat) (passed : Bool)
  | portAlignEnd (port : Nat) (passed : Bool)
  | portVerifyEnd (port : Nat) (passed : Bool)
  | portAuthEnd (port : Nat) (passed : Bool)
  | portTrainTimeout (port : Nat)
  | portRetryTimer (port : Nat)
  | portRetrainEntry (port : Nat) (cause : RetrainCause)
  | microringRecal (port : Nat)
  | microringRecalEnd (port : Nat)
  | laserModuleInsert (module : Nat)
  | laserModuleRemove (module : Nat)
  | laserPresenceTimer (module : Nat)
  -- Copies and collectives (spec/11)
  | copyStart (slot : Nat)
  | copyPieceComplete (slot : Nat)
  | collectiveStart (slot : Nat)
  | collectiveJoinTimeout (slot : Nat)
  | collectiveBlockReduce (slot block : Nat)
  | collectivePartialTimeout (slot : Nat)
  | collectiveComplete (slot : Nat)
  -- Ingest and pyramids (spec/12)
  | ingestStart (slot : Nat)
  | liveQueuePoll (slot entry : Nat)
  | ingestWaitTimeout (slot entry : Nat)
  | ingestEntryComplete (slot entry : Nat)
  | ingestComplete (slot : Nat)
  | pyramidStart (slot : Nat)
  | pyramidLevelComplete (slot : Nat)
  -- Video coding and pacing (spec/13)
  | vdecOpen (slot : Nat)
  | vdecDecode (slot : Nat)
  | vdecRelease (slot : Nat)
  | vdecClose (slot : Nat)
  | decodePictureOutput (slot : Nat)
  | vidPoolWaitTimeout (slot : Nat)
  | vencOpen (slot : Nat)
  | vencEncode (slot : Nat)
  | vencClose (slot : Nat)
  | encodeUnitWritten (slot : Nat)
  | paceStart (slot : Nat)
  | paceCommit (slot : Nat)
  | paceStop (slot : Nat)
  | paceLatch (channel : Nat)
  | paceCopyComplete (channel : Nat)
  -- Dictionary, management and store (spec/15)
  | read (from_ : Manager) (segment : List Byte)
  | uploadNext (from_ : Manager) (segment : List Byte)
  | write (from_ : Manager) (segment : List Byte)
  | writeInit (from_ : Manager) (segment : List Byte)
  | writeSeg (from_ : Manager) (segment : List Byte)
  | writeEnd (from_ : Manager) (segment : List Byte)
  | abort (from_ : Manager) (segment : List Byte)
  | welocUnknownCmd (from_ : Manager) (segment : List Byte)
  | welocContextTimeout (context : Nat)
  | welocDuplicateExpiry (manager : Manager)
  | setEndpointId (via : Transport) (operation eid : Nat)
  | getEndpointId (via : Transport)
  | getEndpointUuid (via : Transport)
  | getMctpVersionSupport (via : Transport) (messageType : Nat)
  | getMessageTypeSupport (via : Transport)
  | getVendorDefinedMessageSupport (via : Transport) (selector : Nat)
  | mctpUnsupportedCmd (via : Transport) (command : Nat)
  | entdaa (bus address : Nat)
  | setnewda (bus address : Nat)
  | rstdaa (bus : Nat)
  | setmwl (bus length : Nat)
  | setmrl (bus length : Nat)
  | i3cPrivateRead (bus : Nat)
  | i3cHotJoinTimer (bus : Nat)
  | storeCommitStart
  | storeCommitEnd (verified : Bool)
  | storeTokenTick
  | fwSlotEraseComplete (slot : Nat)
  | fnImageWrite (from_ : Manager) (function : Nat) (image : List Byte)
  | restoreDefaults (from_ : Manager) (value : Nat)
  | brRestore (from_ : Manager) (value : Nat)
  | brClear (from_ : Manager) (value : Nat)
  | secOwnerClaim (from_ : Manager) (digest : List Byte)
  | secOwnerRevoke (from_ : Manager) (value : Nat)
  | regionRunWrite (from_ : Manager) (descriptor sub : Nat) (value : Word32)
  | logCursorWrite (from_ : Manager) (value : Word64)
  -- SPDM, TDISP and IDE (spec/16)
  | getVersion (via : Transport)
  | getCapabilities (via : Transport)
  | negotiateAlgorithms (via : Transport) (body : List Byte)
  | getDigests (via : Transport)
  | getCertificate (via : Transport) (slot offset length : Nat)
  | challenge (via : Transport) (slot : Nat) (nonce : List Byte)
  | getMeasurements (via : Transport) (index : Nat) (signed : Bool) (nonce : List Byte)
  | keyExchange (via : Transport) (body : List Byte)
  | finish (session : Nat) (ownerRoot : Option (List Byte)) (verified : Bool)
  | heartbeat (session : Nat)
  | keyUpdate (session operation : Nat)
  | endSession (session : Nat)
  | chunkSend (via : Transport) (handle number : Nat) (last : Bool) (total : Nat) (bytes : List Byte)
  | chunkGet (via : Transport) (handle number : Nat)
  | vendorDefinedRequest (session : Option Nat) (protocol : Nat) (body : List Byte)
  | spdmUnsupportedRequest (via : Transport) (code : Nat)
  | getTdispVersion (session vf : Nat)
  | getTdispCapabilities (session vf : Nat)
  | lockInterfaceRequest (session vf : Nat)
  | getDeviceInterfaceReport (session vf : Nat)
  | getDeviceInterfaceState (session vf : Nat)
  | startInterfaceRequest (session vf : Nat)
  | stopInterfaceRequest (session vf : Nat)
  | tdispUnsupportedRequest (session vf code : Nat)
  | ideKmKeyProg (session stream keySet : Nat) (vfs : List Nat) (key : List Byte)
  | ideStreamFail (stream : Nat)
  | doeDiscovery (index : Nat)
  | regionClearComplete (descriptor : Nat)
  | entropyHealthFail
  -- Power and clocks (spec/17, 20)
  | domainClockGate (domain : Nat)
  | domainDrainStart (domain : Nat)
  | domainDrainComplete (domain : Nat)
  | domainPowerOffComplete (domain : Nat)
  | gatePacketArrival (domain packet : Nat)
  | domainWakeComplete (domain : Nat)
  | domainWakeWindow
  | headlandClockIdleStop
  | dvfsTick (power : List Nat)
  | pstateChangeComplete (die : Nat)
  | avsReadback (millivolts : Option Nat)
  | currentLimitTrip
  | currentLimitRelease
  | dieTempSample (readings : List Nat)
  | thermalTrip (die : Nat)
  | supplyWarning (rail millivolts : Nat)
  | supplyWarningRecover
  | supplyResetLevel (rail millivolts : Nat)
  | powerOnReset
  | rstNAssert
  | perstAssert
  | perstDeassert
  | tapResetRelease
  | bringupStepRun (step unit : Nat)
  | bringupAttemptEnd (step unit : Nat) (passed : Bool) (result : Nat) (micros : Nat)
  | bringupAttemptTimeout (step unit : Nat)
  -- Faults (spec/18) and later rows
  | controlSramCe (where_ : SramKind)
  | controlSramUe (where_ : SramKind)
  | bridgeLossTimeout
  | hostWindowCompletion (addr : Nat) (how : Completion) (bytes : List Byte)
  | rstNDeassert
  | tapReset
  | bridgeLoss
  | dupDevidExpiry
deriving DecidableEq, Repr

end Sys2Proof
end

