-- ==== Sys2Proof/Decode.lean ====
section
/-! DEFINITION. The command that a word spells by the table's bits. The table gives no row any bits: a command is an event at the
device, not a word in a memory, so no word spells one (notes/assumptions 3). -/
namespace Sys2Proof

/-- The command of a table word: none, for want of any row with bits. -/
def decodeTableWord (_nbits _w : Nat) : Option Instr := none

end Sys2Proof
end

