-- ==== Sys2Proof/Machine/Bits.lean ====
section
/-!
DEFINITION. Bit fields, byte order, CRC-32C (spec/00 R6, R17) and small list helpers used by every meaning.
-/
namespace Sys2Proof.Machine

/-- Bits `[lo + w - 1 : lo]` of a number (R6). -/
def bits (x lo w : Nat) : Nat := (x >>> lo) % 2 ^ w

/-- Bit `i` of a number. -/
def bit (x i : Nat) : Bool := x.testBit i

/-- The number with bits `[lo + w - 1 : lo]` replaced by `v`. -/
def setBits (x lo w v : Nat) : Nat :=
  x - (bits x lo w) * 2 ^ lo + (v % 2 ^ w) * 2 ^ lo

/-- A Boolean as a bit. -/
def b2n (b : Bool) : Nat := if b then 1 else 0

/-- Rounded-up quotient. -/
def ceilDiv (a b : Nat) : Nat := (a + b - 1) / b

/-- `a` rounded up to a multiple of `b`. -/
def roundUp (a b : Nat) : Nat := ceilDiv a b * b

/-- The little-endian number held by bytes (R6). -/
def ofLE : List Byte → Nat
  | [] => 0
  | b :: bs => b.toNat + 256 * ofLE bs

/-- `n` bytes of a number, little-endian (R6). -/
def toLE : Nat → Nat → List Byte
  | 0, _ => []
  | n + 1, x => BitVec.ofNat 8 x :: toLE n (x / 256)

/-- The unsigned field of `n` bytes at offset `off` of a structure; bytes past the end count as zero. -/
def field (bs : List Byte) (off n : Nat) : Nat := ofLE ((bs.drop off).take n)

/-- Overwrite bytes of a structure at `off`. -/
def putBytes (bs : List Byte) (off : Nat) (v : List Byte) : List Byte :=
  bs.take off ++ v ++ bs.drop (off + v.length)

/-- Two's complement value of the low `w` bits. -/
def signed (x w : Nat) : Int :=
  if x % 2 ^ w < 2 ^ (w - 1) then (x % 2 ^ w : Int) else (x % 2 ^ w : Int) - (2 ^ w : Int)

/-- The low `w` bits of an integer, as the unsigned number that encodes it. -/
def unsigned (i : Int) (w : Nat) : Nat := (i % (2 ^ w : Int)).toNat

/-- One bit of the reflected CRC-32C register (R17, polynomial 0x82F6_3B78). -/
def crcBit (c : Nat) : Nat := if c % 2 = 1 then (c / 2) ^^^ 0x82F63B78 else c / 2

/-- One byte through the reflected CRC-32C register. -/
def crcByte (c : Nat) (b : Byte) : Nat :=
  let c := c ^^^ b.toNat
  crcBit (crcBit (crcBit (crcBit (crcBit (crcBit (crcBit (crcBit c)))))))

/-- CRC-32C of R17. -/
def crc32c (bs : List Byte) : Nat := (bs.foldl crcByte 0xFFFFFFFF) ^^^ 0xFFFFFFFF

/-- The numbers `a, a + 1, …` of a run of length `n`. -/
def range (a n : Nat) : List Nat := (List.range n).map (· + a)

/-- The smallest number of a list, if any. -/
def minNat : List Nat → Option Nat
  | [] => none
  | x :: xs => match minNat xs with
    | none => some x
    | some y => some (min x y)

/-- Insert in ascending order of a key; equal keys keep their order of arrival. -/
def insertBy {α : Type} (key : α → Nat) (a : α) : List α → List α
  | [] => [a]
  | b :: bs => if key a < key b then a :: b :: bs else b :: insertBy key a bs

/-- Sort in ascending order of a key, stable. -/
def sortBy {α : Type} (key : α → Nat) (l : List α) : List α := l.foldl (fun acc a => insertBy key a acc) []

/-- The list without repeats, first occurrence kept. -/
def dedup {α : Type} [DecidableEq α] : List α → List α
  | [] => []
  | a :: as => a :: (dedup as).filter (· ≠ a)

/-- The list cut into pieces of `n` (the last may be shorter); `fuel` bounds the number of pieces. -/
def chunks {α : Type} (n : Nat) : Nat → List α → List (List α)
  | 0, _ => []
  | _, [] => []
  | fuel + 1, l => l.take n :: chunks n fuel (l.drop n)

/-- The integer square root (largest `r` with `r * r ≤ n`), by bisection from the bit `2^k` downwards. -/
def isqrtAux (n : Nat) : Nat → Nat → Nat
  | 0, r => r
  | k + 1, r => let r' := r + 2 ^ k
                isqrtAux n k (if r' * r' ≤ n then r' else r)

/-- Integer square root. -/
def isqrt (n : Nat) : Nat := isqrtAux n (Nat.log2 n / 2 + 1) 0

/-- ASCII bytes of a text. -/
def ascii (t : List Char) : List Byte := t.map (fun c => BitVec.ofNat 8 c.toNat)

end Sys2Proof.Machine
end

