-- ==== Sys2Proof/Machine/Lanes.lean ====
section
/-!
DEFINITION. The random-number lanes (spec/09 R230-R234): the shift register, the seed of a draw context, the jump between
lanes and the order of draws.
-/
namespace Sys2Proof.Machine

/-- One step of a lane (R230). -/
def laneStep (x : Nat) : Nat :=
  let f := ((x >>> 127) ^^^ (x >>> 125) ^^^ (x >>> 100) ^^^ (x >>> 98)) % 2
  (x <<< 1) % 2 ^ 128 + f

/-- `n` steps of a lane. -/
def laneSteps : Nat → Nat → Nat
  | 0, x => x
  | n + 1, x => laneSteps n (laneStep x)

/-- The word a lane delivers and its state after it (R230). -/
def laneWord (x : Nat) : Nat × Nat := (x >>> 96, laneSteps 32 x)

/-- mix64 of R232. -/
def mix64 (z : Nat) : Nat :=
  let z := z % 2 ^ 64
  let z := ((z ^^^ (z >>> 30)) * 0xBF58476D1CE4E5B9) % 2 ^ 64
  let z := ((z ^^^ (z >>> 27)) * 0x94D049BB133111EB) % 2 ^ 64
  z ^^^ (z >>> 31)

/-- context_seed of R232. -/
def contextSeed (seed r c k : Nat) : Nat :=
  let a := mix64 (r * 2 ^ 32 + c)
  let b := mix64 (a + k + 1)
  let lo := mix64 (seed + b)
  let hi := mix64 (seed + b + 0x9E3779B97F4A7C15)
  let s := hi * 2 ^ 64 + lo
  if s = 0 then 1 else s

/-- Multiply a polynomial over GF(2) by x modulo the characteristic polynomial of the lane (R230). -/
def polyX (p : Nat) : Nat :=
  let q := p <<< 1
  if q.testBit 128 then (q ^^^ (2 ^ 128 + 2 ^ 29 + 2 ^ 27 + 2 ^ 2 + 1)) else q

/-- Product of two polynomials modulo the characteristic polynomial; `n` counts the bits of `a` still to take. -/
def polyMulAux (a b : Nat) : Nat → Nat → Nat
  | 0, acc => acc
  | n + 1, acc => polyMulAux a b n ((polyX acc) ^^^ (if a.testBit n then b else 0))

def polyMul (a b : Nat) : Nat := polyMulAux a b 128 0

/-- x^(2^n) modulo the characteristic polynomial. -/
def polyPow2 : Nat → Nat → Nat
  | 0, p => p
  | n + 1, p => polyPow2 n (polyMul p p)

/-- The state reached from `x` by the steps that the polynomial `p` stands for. -/
def polyApply (p : Nat) : Nat → Nat → Nat → Nat
  | 0, _, acc => acc
  | n + 1, x, acc => polyApply (p >>> 1) n (laneStep x) (if p % 2 = 1 then acc ^^^ x else acc)

/-- The jump of 2^64 steps from one lane to the next (R232, R233). -/
def laneJump (p x : Nat) : Nat := polyApply p 128 x 0

/-- The states of `n` lanes from `x` on, each 2^64 steps after the one before. -/
def lanesFrom (p : Nat) : Nat → Nat → List Nat
  | 0, _ => []
  | n + 1, x => x :: lanesFrom p n (laneJump p x)

/-- A draw context (R232-R234): the 128 lane states and the number of draws made. -/
structure DrawCtx where
  lanes : List Nat
  drawn : Nat
deriving DecidableEq, Repr

/-- A freshly seeded context (R232, R233). -/
def seedContext (seed r c k : Nat) : DrawCtx :=
  ⟨lanesFrom (polyPow2 64 2) 128 (contextSeed seed r c k), 0⟩

/-- The next draw (R234): the next word of lane e mod 128. -/
def DrawCtx.draw (d : DrawCtx) : Nat × DrawCtx :=
  let i := d.drawn % 128
  let (w, x) := laneWord (d.lanes.getD i 0)
  (w, ⟨d.lanes.set i x, d.drawn + 1⟩)

/-- `n` draws in order. -/
def DrawCtx.draws : Nat → DrawCtx → List Nat × DrawCtx
  | 0, d => ([], d)
  | n + 1, d =>
    let (w, d) := d.draw
    let (ws, d) := DrawCtx.draws n d
    (w :: ws, d)

end Sys2Proof.Machine
end

