-- ==== Sys2Proof/Config.lean ====
section
/-!
DEFINITION. What an implementation fixes and the free values of the model: constants without a body, so that no proof can
see a value of them (notes/assumptions 5 and 6). A statement about a free value holds for every value.
-/
namespace Sys2Proof

/-- A fresh value of the device that the spec does not fix: nonces, drawn keys, encoder choices, what a failed check leaves.
The first argument is the state's counter of free values, the second tells uses of one command apart (log 5). -/
opaque Config.freeValue : Nat → Nat → Word64

/-- Free bytes: the counter, the use and the index of the byte (log 5). -/
opaque Config.freeByte : Nat → Nat → Nat → Byte

/-- SHA-384 of a byte string, as 48 bytes (spec/16; the algorithm is outside the spec, log 6). -/
opaque Config.sha384 : List Byte → List Byte

/-- An ECDSA P-384 signature by the attestation key over a byte string (spec/16 R442, R445; log 6). -/
opaque Config.akSign : List Byte → List Byte

/-- The certificate area of the fuses and the PSP store: the slot 0 chain (spec/16 R442; log 6). -/
opaque Config.certChain : List Byte

/-- The measurement digests of blocks the spec defines over contents it does not give (spec/16 Table 16.7; log 6). -/
opaque Config.measurement : Nat → List Byte → List Byte

/-- The version text of the firmware in a slot, the UUID derived from a serial number, the MCTP versions of a message type, the body
of an SPDM answer that SPDM 1.3 or TDISP defines beyond what the spec gives, by its code and a seed (spec/15 R406, Table 15.10; log 6). -/
opaque Config.fwVersion : List Byte → List Byte
opaque Config.uuid : List Byte → List Byte
opaque Config.mctpVersions : Nat → List Byte
opaque Config.answerBody : Nat → List Byte → List Byte

/-- AV1 and HEVC decoding (spec/13 R355, R356; the standards are outside the spec, log 6). Each takes what the stream has been
given so far, its OPEN settings first, and the next bytes or the unit taken: bytes of the first unit, 0 where the bytes end within it;
pictures coded and pictures output by the unit; a field of a coded picture (0 width, 1 height, 2 bit depth, 3 chroma format: 0
monochrome, 1 4:2:0, others of the standard; 4 profile by the standard's number; 5 an AV1 key frame or an HEVC IRAP picture; 6 its data
breaks the syntax or the semantics; 7 large-scale tiles or a tool of an extension; 8 it carries film grain parameters; 9 and 10 crop
width and height); the coded pictures it refers to, the nearest first; the coded picture that an output shows. -/
opaque Config.unitLength : List Byte → List Byte → Nat
opaque Config.unitCoded : List Byte → List Byte → Nat
opaque Config.unitShown : List Byte → List Byte → Nat
opaque Config.codedField : List Byte → List Byte → Nat → Nat → Nat
opaque Config.codedRefs : List Byte → List Byte → Nat → List Nat
opaque Config.shownPic : List Byte → List Byte → Nat → Nat

/-- A byte of a coded picture in NV12 or P010, with film grain or without, and whether its block cannot be decoded (log 6). -/
opaque Config.decodedByte : List Byte → List Byte → Nat → Bool → Nat → Byte
opaque Config.byteLost : List Byte → List Byte → Nat → Nat → Bool

/-- Whether a coded picture stands in a reference slot or the decoded picture buffer once a number of the unit's pictures are complete
(spec/13 Table 13.6; log 6). -/
opaque Config.keepsRef : List Byte → List Byte → Nat → Nat → Bool

/-- AV1 encoding with the tools of spec/13 Table 13.2 (log 6): the temporal delimiter; the sequence header of its signalled settings;
the coded bytes of a frame, and the frame as its decoder reconstructs it, of the frame's settings, the reconstructed references LAST,
LAST2 and GOLDEN, none for a key frame, and its codes. -/
opaque Config.delimiter : List Byte
opaque Config.sequenceHeader : List Nat → List Byte
opaque Config.codedFrame : List Nat → List (List Byte) → List Byte → List Byte
opaque Config.codedRecon : List Nat → List (List Byte) → List Byte → List Byte

/-- The value of a function of Table 8.1, of Φ^-1 or of -ln(-ln U) when the model's enclosures do not settle it within their
last precision: the function, the argument's bits (spec/08 R211; log 5). Under 0x200 and 0x201: what the exponent of a SPLIT of ±0, ±Inf
or NaN is, and what a TBL reads from an empty table (spec/08 Table 8.4; log 53). -/
opaque Config.undecided : Nat → Word64 → Word64

/-- AES-256-CMAC of a message under a key (spec/16 R448; log 6). -/
opaque Config.cmac : List Byte → List Byte → List Byte

/-- The data transfer size of SPDM, above which an answer is fetched in chunks (spec/16 R445; log 6). -/
opaque Config.dataTransferSize : Nat

/-- The sealing key SK (spec/16 R442, R447; log 6). -/
opaque Config.sealKey : List Byte

/-- The accumulator offset of the carried tile of a task, of which the spec gives no allocation (spec/06 Table 6.6): by stage slot and order
of placement (log 59). -/
opaque Config.accOffset : Nat → Nat → Nat

/-- One AES-256 block under a link key: the key, the counter block (spec/11 R295; log 6). -/
opaque Config.aesBlock : List Byte → Nat → List Byte

/-- AES-256-XTS of a line under a memory key (spec/10 R282; log 6): the generation of the keys, the world, the tweak, the line. -/
opaque Config.xts : Nat → Bool → Nat → List Byte → List Byte

/-- A byte of a line that is read under another key than that of its last write (spec/10 R283; log 5): generation of the keys, address. -/
opaque Config.otherKey : Nat → Nat → Byte

/-- A drawn or derived key, by its generation (log 5 and 6). -/
opaque Config.keyBytes : Nat → List Byte

end Sys2Proof
end

