-- ==== Sys2Proof/Machine/Numbers.lean ====
section
/-!
DEFINITION. Storage formats, exact values, the accumulator element, rounding and conversion (spec/02 R32-R50, R55).
-/
namespace Sys2Proof.Machine

/-- Format codes of Table 2.1 (R32). -/
inductive Fmt where
  | e4m3 | e5m2 | e2m1 | bf16 | fp16 | fp32 | fp64 | int4 | int8 | uint8 | int32 | int64 | acc
deriving DecidableEq, Repr

/-- The format a code names; codes 0xD to 0xF name none (R32). -/
def Fmt.ofCode : Nat → Option Fmt
  | 0 => some .e4m3 | 1 => some .e5m2 | 2 => some .e2m1 | 3 => some .bf16 | 4 => some .fp16
  | 5 => some .fp32 | 6 => some .fp64 | 7 => some .int4 | 8 => some .int8 | 9 => some .uint8
  | 10 => some .int32 | 11 => some .int64 | 12 => some .acc | _ => none

/-- Width in bits (Table 2.1). -/
def Fmt.width : Fmt → Nat
  | .e4m3 | .e5m2 | .int8 | .uint8 => 8
  | .e2m1 | .int4 => 4
  | .bf16 | .fp16 => 16
  | .fp32 | .int32 => 32
  | .fp64 | .int64 | .acc => 64

/-- Integer formats (Table 2.1). -/
def Fmt.isInt : Fmt → Bool
  | .int4 | .int8 | .uint8 | .int32 | .int64 => true
  | _ => false

/-- Formats the arrays take as operands (Table 2.1). -/
def Fmt.isArray : Fmt → Bool
  | .e4m3 | .e5m2 | .e2m1 | .bf16 | .fp16 | .int4 | .int8 | .uint8 => true
  | _ => false

/-- The pairing of array operands (R37). -/
def Fmt.pairs (a b : Fmt) : Bool :=
  a.isArray && b.isArray && a.isInt == b.isInt && a.width == b.width

/-- Flags of Table 2.9 (R51). -/
abbrev Flags := BitVec 32
def flagInvalid : Flags := 1#32
def flagDivZero : Flags := 2#32
def flagOverflow : Flags := 4#32
def flagUnderflow : Flags := 8#32
def flagInexact : Flags := 16#32
def flagIntSat : Flags := 64#32
def flagIntWrap : Flags := 128#32
def flagEmptyRow : Flags := 256#32

/-- Rounding modes of Table 2.6 (R46). -/
inductive Round where
  | rne | rtz | rup | rdn | sr
deriving DecidableEq, Repr

/-- The mode a ROUND code names (R46); 5 to 7 name none. -/
def Round.ofCode : Nat → Option Round
  | 0 => some .rne | 1 => some .rtz | 2 => some .rup | 3 => some .rdn | 4 => some .sr | _ => none

/-- SR replaced by RNE (R54, R56, R38). -/
def Round.noSr : Round → Round
  | .sr => .rne
  | r => r

/-- A floating-point value, exact: `fin neg m e` is `(-1)^neg * m * 2^e`; a zero keeps its sign. -/
inductive Fp where
  | nan
  | inf (neg : Bool)
  | fin (neg : Bool) (m : Nat) (e : Int)
deriving DecidableEq, Repr

namespace Fp

/-- Positive zero. -/
def zero : Fp := .fin false 0 0

def isZero : Fp → Bool
  | .fin _ m _ => m == 0
  | _ => false

def isNan : Fp → Bool
  | .nan => true
  | _ => false

def isInf : Fp → Bool
  | .inf _ => true
  | _ => false

def isFin : Fp → Bool
  | .fin _ _ _ => true
  | _ => false

/-- Sign; a NaN counts as positive. -/
def neg? : Fp → Bool
  | .nan => false
  | .inf s => s
  | .fin s _ _ => s

def negate : Fp → Fp
  | .nan => .nan
  | .inf s => .inf (!s)
  | .fin s m e => .fin (!s) m e

def abs : Fp → Fp
  | .nan => .nan
  | .inf _ => .inf false
  | .fin _ m e => .fin false m e

/-- The signed integer `v` times `2^e`, with sign `s` where `v` is zero. -/
def ofInt (s : Bool) (v : Int) (e : Int) : Fp :=
  if v = 0 then .fin s 0 0 else .fin (decide (v < 0)) v.natAbs e

/-- Signed significand of a finite value scaled to exponent `lo` (`lo` at most its own exponent). -/
def scaled (neg : Bool) (m : Nat) (e lo : Int) : Int :=
  let v : Int := (m <<< (e - lo).toNat : Nat)
  if neg then -v else v

/-- Sign of an exact sum that is zero: both addends zero of one sign keep it, otherwise +0, or -0 under RDN (R126). -/
def zeroSign (a b : Fp) (rdn : Bool) : Bool :=
  if a.isZero && b.isZero && a.neg? == b.neg? then a.neg? else rdn

/-- Exact sum of two finite values; specials by Table 5.8. -/
def addX (a b : Fp) (rdn : Bool := false) : Fp × Flags :=
  match a, b with
  | .nan, _ | _, .nan => (.nan, 0)
  | .inf s, .inf t => if s = t then (.inf s, 0) else (.nan, flagInvalid)
  | .inf s, _ => (.inf s, 0)
  | _, .inf t => (.inf t, 0)
  | .fin s m e, .fin t n f =>
    let lo := min e f
    (ofInt (zeroSign a b rdn) (scaled s m e lo + scaled t n f lo) lo, 0)

/-- Exact product; specials by Tables 2.5 and 5.8. -/
def mulX (a b : Fp) : Fp × Flags :=
  match a, b with
  | .nan, _ | _, .nan => (.nan, 0)
  | .inf s, .inf t => (.inf (s != t), 0)
  | .inf s, .fin t n _ => if n = 0 then (.nan, flagInvalid) else (.inf (s != t), 0)
  | .fin s m _, .inf t => if m = 0 then (.nan, flagInvalid) else (.inf (s != t), 0)
  | .fin s m e, .fin t n f => (.fin (s != t) (m * n) (if m * n = 0 then 0 else e + f), 0)

/-- Exact fused multiply-add `a * b + c`; a quiet NaN addend with an infinity times zero raises nothing (Table 2.10). -/
def fmaX (a b c : Fp) (rdn : Bool := false) : Fp × Flags :=
  match c with
  | .nan => (.nan, 0)
  | _ =>
    let (p, f) := mulX a b
    let (r, g) := addX p c rdn
    (r, f ||| g)

/-- Order of two finite or infinite values: `none` when a NaN takes part. -/
def cmp (a b : Fp) : Option Ordering :=
  match a, b with
  | .nan, _ | _, .nan => none
  | .inf s, .inf t => some (if s = t then .eq else if s then .lt else .gt)
  | .inf s, _ => some (if s then .lt else .gt)
  | _, .inf t => some (if t then .gt else .lt)
  | .fin s m e, .fin t n f =>
    let lo := min e f
    some (compare (scaled s m e lo) (scaled t n f lo))

def lt (a b : Fp) : Bool := cmp a b == some .lt
def eq (a b : Fp) : Bool := cmp a b == some .eq

/-- Minimum as MIN in R126: one operand, -0 below +0, a NaN gives NaN. -/
def minF (a b : Fp) : Fp :=
  match cmp a b with
  | none => .nan
  | some .lt => a
  | some .gt => b
  | some .eq => if a.neg? then a else b

/-- Maximum as MAX in R126: one operand, +0 above -0, a NaN gives NaN. -/
def maxF (a b : Fp) : Fp :=
  match cmp a b with
  | none => .nan
  | some .gt => a
  | some .lt => b
  | some .eq => if a.neg? then b else a

/-- Binary exponent of a nonzero significand: `2^x ≤ m * 2^e < 2^(x+1)`. -/
def expo (m : Nat) (e : Int) : Int := e + (Nat.log2 m : Int)

end Fp

/-- Parameters of a floating-point format: exponent and fraction widths, bias (Tables 2.1, 2.2). -/
structure FpParams where
  ebits : Nat
  fbits : Nat
  bias : Nat
deriving DecidableEq, Repr

def Fmt.params : Fmt → FpParams
  | .e4m3 => ⟨4, 3, 7⟩
  | .e5m2 => ⟨5, 2, 15⟩
  | .e2m1 => ⟨2, 1, 1⟩
  | .bf16 => ⟨8, 7, 127⟩
  | .fp16 => ⟨5, 10, 15⟩
  | .fp32 => ⟨8, 23, 127⟩
  | _ => ⟨11, 52, 1023⟩

/-- The value of a floating-point encoding (R33, R34); ACC is read as binary64 (R38). -/
def decodeFp (f : Fmt) (x : Nat) : Fp :=
  let p := f.params
  let neg := bit x (p.ebits + p.fbits)
  let ex := bits x p.fbits p.ebits
  let fr := bits x 0 p.fbits
  let ones := 2 ^ p.ebits - 1
  let finite : Fp :=
    if ex = 0 then .fin neg fr (if fr = 0 then 0 else 1 - (p.bias : Int) - (p.fbits : Int))
    else .fin neg (2 ^ p.fbits + fr) ((ex : Int) - (p.bias : Int) - (p.fbits : Int))
  match f with
  | .e2m1 => finite
  | .e4m3 => if ex = ones ∧ fr = 7 then .nan else finite
  | _ => if ex = ones then (if fr = 0 then .inf neg else .nan) else finite

/-- The value of an integer encoding (R36). -/
def decodeInt (f : Fmt) (x : Nat) : Int :=
  match f with
  | .uint8 => (x % 256 : Nat)
  | .int4 => signed x 4
  | .int8 => signed x 8
  | .int32 => signed x 32
  | _ => signed x 64

/-- Canonical quiet NaN of a format (Table 2.2); E2M1 has none and takes +0 (Table 2.8). -/
def Fmt.nanCode : Fmt → Nat
  | .e4m3 => 0x7F
  | .e5m2 => 0x7E
  | .e2m1 => 0
  | .bf16 => 0x7FC0
  | .fp16 => 0x7E00
  | .fp32 => 0x7FC00000
  | _ => 0x7FF8000000000000

/-- Largest finite encoding with sign 0 (Table 2.2). -/
def Fmt.maxCode : Fmt → Nat
  | .e4m3 => 0x7E
  | .e5m2 => 0x7B
  | .e2m1 => 0x7
  | .bf16 => 0x7F7F
  | .fp16 => 0x7BFF
  | .fp32 => 0x7F7FFFFF
  | _ => 0x7FEFFFFFFFFFFFFF

/-- Positive infinity encoding, in the formats that have one. -/
def Fmt.infCode : Fmt → Nat
  | .e5m2 => 0x7C
  | .bf16 => 0x7F80
  | .fp16 => 0x7C00
  | .fp32 => 0x7F800000
  | _ => 0x7FF0000000000000

/-- An encoding with the sign bit of the format. -/
def Fmt.signed (f : Fmt) (neg : Bool) (code : Nat) : Nat :=
  if neg then code + 2 ^ (f.width - 1) else code

/-- Divide by `2^k` (`k` may be negative) and round an exact magnitude under a mode (R46, R47): the quotient and whether
it differs. -/
def roundShift (mode : Round) (neg : Bool) (u : Nat) (m : Nat) (k : Int) : Nat × Bool :=
  if k ≤ 0 then (m <<< (-k).toNat, false)
  else
    let n := k.toNat
    let q := m >>> n
    let r := m % 2 ^ n
    let up : Bool :=
      match mode with
      | .rne => decide (2 ^ n < 2 * r) || (decide (2 * r = 2 ^ n) && q % 2 == 1)
      | .rtz => false
      | .rup => !neg && r != 0
      | .rdn => neg && r != 0
      | .sr => decide (u < (r * 2 ^ 16) / 2 ^ n)
    (if up then q + 1 else q, r != 0)

/-- The result of Table 2.7 for a finite value that overflows. -/
def overflowCode (f : Fmt) (mode : Round) (sat neg : Bool) : Nat :=
  let largest := f.signed neg f.maxCode
  let beyond := match f with
    | .e4m3 => 0x7F
    | _ => f.signed neg f.infCode
  let clamp := match f with
    | .e2m1 => true
    | .e4m3 | .e5m2 => sat
    | _ => false
  if clamp then largest
  else match mode with
    | .rne => beyond
    | .rtz => largest
    | .rup => if neg then largest else beyond
    | .rdn => if neg then beyond else largest
    | .sr => largest

/-- Conversion of a floating-point value to a floating-point format (R45-R49): the encoding and the flags. `u` is the
16-bit word of R47, used under SR only. -/
def encodeFp (f : Fmt) (mode : Round) (sat : Bool) (u : Nat) (x : Fp) : Nat × Flags :=
  match x with
  | .nan => (f.nanCode, match f with | .e2m1 => flagInvalid | _ => 0)
  | .inf s =>
    match f with
    | .e2m1 => (f.signed s f.maxCode, flagOverflow)
    | .e4m3 => if sat then (f.signed s f.maxCode, 0) else (f.nanCode, flagInvalid)
    | .e5m2 => if sat then (f.signed s f.maxCode, 0) else (f.signed s f.infCode, 0)
    | _ => (f.signed s f.infCode, 0)
  | .fin s m e =>
    if m = 0 then (f.signed s 0, 0)
    else
      let p := f.params
      let emin : Int := 1 - (p.bias : Int)
      let qmin : Int := emin - (p.fbits : Int)
      let ex := Fp.expo m e
      let qn : Int := ex - (p.fbits : Int)
      let q := max qn qmin
      let (r, inexact) := roundShift mode s u m (q - e)
      -- encoding of r * 2^q: the exponent field counts from the subnormal position
      let code := ((q - qmin).toNat <<< p.fbits) + r
      if f.maxCode < code then (overflowCode f mode sat s, flagOverflow ||| flagInexact)
      else
        let tiny : Bool :=
          match mode with
          | .sr => decide (code < 2 ^ p.fbits)
          | _ =>
            let (r', _) := roundShift mode s u m (qn - e)
            -- r' * 2^qn < 2^emin
            decide (qn + (Nat.log2 r' : Int) < emin)
        (f.signed s code,
          (if inexact then flagInexact else 0) ||| (if inexact && tiny then flagUnderflow else 0))

/-- Round an exact magnitude `m * 2^e` (nonzero), with `sticky` set when nonzero bits lie below it, to odd at `p` bits, in
accumulator form (R40, R52, R211). Flags: INEXACT, OVERFLOW, UNDERFLOW. -/
def roundOdd (p : Nat) (neg : Bool) (m : Nat) (e : Int) (sticky : Bool) : Fp × Flags :=
  let ex := Fp.expo m e
  let q := ex - ((p : Int) - 1)
  let k := q - e
  let kept := if k ≤ 0 then m <<< (-k).toNat else m >>> k.toNat
  let lost := sticky || (decide (0 < k) && m % 2 ^ k.toNat != 0)
  let kept := if lost && kept % 2 == 0 then kept + 1 else kept
  if 1023 < ex then (.inf neg, flagOverflow ||| flagInexact)
  else if ex < -1022 then
    let sh := (-1074 : Int) - q
    let r := if sh ≤ 0 then kept else kept >>> sh.toNat
    let lost2 := decide (0 < sh) && kept % 2 ^ sh.toNat != 0
    let r := if lost2 && r % 2 == 0 then r + 1 else r
    let q' := if sh ≤ 0 then q else -1074
    (.fin neg r (if r = 0 then 0 else q'),
      if lost || lost2 then flagInexact ||| flagUnderflow else 0)
  else (.fin neg kept q, if lost then flagInexact else 0)

/-- Round an exact value to odd at 53 bits (R52). -/
def odd53 (x : Fp) : Fp × Flags :=
  match x with
  | .fin s m e => if m = 0 then (x, 0) else roundOdd 53 s m e false
  | _ => (x, 0)

/-- The accumulator element of a value exactly representable there (R38). -/
def toAcc (x : Fp) : Word64 := BitVec.ofNat 64 (encodeFp .fp64 .rtz false 0 x).1

/-- The value of an accumulator element (R38). -/
def ofAcc (w : Word64) : Fp := decodeFp .fp64 w.toNat

/-- Round a finite value to an integer (R50). -/
def roundToInt (mode : Round) (u : Nat) (neg : Bool) (m : Nat) (e : Int) : Int × Bool :=
  let (r, ix) := roundShift mode neg u m (-e)
  (if neg then -(r : Int) else (r : Int), ix)

/-- Range of an integer format (Table 2.3). -/
def Fmt.intRange : Fmt → Int × Int
  | .int4 => (-8, 7)
  | .int8 => (-128, 127)
  | .uint8 => (0, 255)
  | .int32 => (-(2 ^ 31 : Int), 2 ^ 31 - 1)
  | _ => (-(2 ^ 63 : Int), 2 ^ 63 - 1)

/-- An exact integer into an integer format, saturating or wrapping (R44, R50); the encoding and the flags. -/
def encodeInt (f : Fmt) (wrap : Bool) (v : Int) : Nat × Flags :=
  let (lo, hi) := f.intRange
  if lo ≤ v ∧ v ≤ hi then (unsigned v f.width, 0)
  else if wrap then (unsigned v f.width, flagIntWrap)
  else (unsigned (if v < lo then lo else hi) f.width, flagIntSat)

/-- A floating-point value into an integer format (R49, R50). -/
def encodeFpToInt (f : Fmt) (mode : Round) (wrap : Bool) (u : Nat) (x : Fp) : Nat × Flags :=
  match x with
  | .nan => (0, flagInvalid)
  | .inf s =>
    if wrap then (0, flagInvalid)
    else (unsigned (if s then f.intRange.1 else f.intRange.2) f.width, flagIntSat)
  | .fin s m e =>
    let (v, ix) := roundToInt mode u s m e
    let (c, fl) := encodeInt f wrap v
    (c, fl ||| (if ix then flagInexact else 0))

/-- An exact integer as a floating-point value; zero is +0. -/
def fpOfInt (v : Int) : Fp := Fp.ofInt false v 0

/-- The settings of one conversion: rounding mode, saturate bit, integer-wrap bit. -/
structure ConvMode where
  round : Round
  sat : Bool
  wrap : Bool
deriving DecidableEq, Repr

/-- Final conversion of a floating-point stage's value to a destination format (R45). Format codes 0x6 and 0xC take the
accumulator element unchanged, NaN canonical. -/
def convFp (f : Fmt) (c : ConvMode) (u : Nat) (x : Fp) : Nat × Flags :=
  match f with
  | .fp64 | .acc => ((toAcc x).toNat, 0)
  | _ => if f.isInt then encodeFpToInt f c.round c.wrap u x else encodeFp f c.round c.sat u x

/-- Final conversion of an integer stage's value (R45, R50). Format codes 0xB and 0xC take the INT64 bits unchanged. -/
def convInt (f : Fmt) (c : ConvMode) (u : Nat) (v : Int) : Nat × Flags :=
  match f with
  | .int64 | .acc => (unsigned v 64, 0)
  | _ => if f.isInt then encodeInt f c.wrap v else encodeFp f c.round c.sat u (fpOfInt v)

/-- A converted write into a floating-point accumulator (R38): floating-point exactly, an INT64 source beyond 2^53 rounded
to odd at 53 bits. -/
def widenFp (f : Fmt) (x : Nat) : Fp × Flags :=
  if f.isInt then odd53 (fpOfInt (decodeInt f x)) else (decodeFp f x, 0)

/-- A converted write into an integer accumulator (R38): SR is read as RNE. -/
def widenInt (f : Fmt) (c : ConvMode) (x : Nat) : Int × Flags :=
  if f.isInt then (decodeInt f x, 0)
  else
    let (v, fl) := encodeFpToInt .int64 c.round.noSr c.wrap 0 (decodeFp f x)
    (Machine.signed v 64, fl)

/-- A signalling NaN encoding of the harrow's IEEE formats (R55): quiet bit clear. -/
def isSignalling (f : Fmt) (x : Nat) : Bool :=
  (decodeFp f x).isNan && !bit x (f.params.fbits - 1)

/-- IEEE 754 rounding of an exact harrow result to binary32 or binary64 (R55). -/
def roundIeee (f : Fmt) (mode : Round) (x : Fp) : Fp × Flags :=
  let (c, fl) := encodeFp f mode.noSr false 0 x
  (decodeFp f c, fl)

/-- IEEE 754 addition, multiplication and fused multiply-add of the harrow (R55). -/
def ieeeAdd (f : Fmt) (mode : Round) (a b : Fp) : Fp × Flags :=
  let (x, fl) := Fp.addX a b (mode == .rdn)
  let (r, fr) := roundIeee f mode x
  (r, fl ||| fr)

def ieeeFma (f : Fmt) (mode : Round) (a b c : Fp) : Fp × Flags :=
  let (x, fl) := Fp.fmaX a b c (mode == .rdn)
  let (r, fr) := roundIeee f mode x
  (r, fl ||| fr)

/-- An exact quotient of nonzero significands as a value with a sticky bit: 130 quotient bits. -/
def divX (a b : Fp) : Fp × Bool × Flags :=
  match a, b with
  | .nan, _ | _, .nan => (.nan, false, 0)
  | .inf _, .inf _ => (.nan, false, flagInvalid)
  | .inf s, .fin t _ _ => (.inf (s != t), false, 0)
  | .fin s _ _, .inf t => (.fin (s != t) 0 0, false, 0)
  | .fin s m e, .fin t n f =>
    if n = 0 then (if m = 0 then (.nan, false, flagInvalid) else (.inf (s != t), false, flagDivZero))
    else if m = 0 then (.fin (s != t) 0 0, false, 0)
    else
      let k := 130 + Nat.log2 n
      let q := (m <<< k) / n
      (.fin (s != t) q (e - f - (k : Int)), (m <<< k) % n != 0, 0)

/-- A value with a sticky bit below it, as an exact value that rounds alike (one more bit, set). -/
def withSticky (x : Fp) (sticky : Bool) : Fp :=
  match x with
  | .fin s m e => if sticky then .fin s (2 * m + 1) (e - 1) else x
  | _ => x

/-- IEEE 754 division of the harrow (R55). -/
def ieeeDiv (f : Fmt) (mode : Round) (a b : Fp) : Fp × Flags :=
  let (q, st, fl) := divX a b
  let (r, fr) := roundIeee f mode (withSticky q st)
  (r, fl ||| fr)

end Sys2Proof.Machine
end

