-- ==== Sys2Proof/Machine/Functions.lean ====
section
/-!
DEFINITION. The built-in functions rounded to odd at 24 bits for every argument (spec/08 R210-R212), the Gaussian and Gumbel
maps of spec/09 R240, and the interpreter of loaded functions (spec/08 R216, R217).

A transcendental value is enclosed between two dyadic numbers, with the precision raised until both ends name the same
24-bit result (R211 asks the exact side). The value lies strictly inside the enclosure, because it is irrational for every
argument that reaches an enclosure (log 13).
-/
namespace Sys2Proof.Machine

/-- An enclosure in fixed point: the value lies between `lo` and `hi`, both scaled by `2^p` with `p` kept by the caller. -/
structure Iv where
  lo : Int
  hi : Int
deriving DecidableEq, Repr

namespace Iv

def exact (v : Int) : Iv := ⟨v, v⟩
def add (a b : Iv) : Iv := ⟨a.lo + b.lo, a.hi + b.hi⟩
def neg (a : Iv) : Iv := ⟨-a.hi, -a.lo⟩
def sub (a b : Iv) : Iv := a.add b.neg
/-- Floor and ceiling of a division by `2^p`. -/
def dn (v : Int) (p : Nat) : Int := v >>> p
def up (v : Int) (p : Nat) : Int := -((-v) >>> p)
/-- Floor and ceiling of a division by a positive number. -/
def fdiv (a : Int) (b : Nat) : Int := Int.fdiv a b
def cdiv (a : Int) (b : Nat) : Int := -(Int.fdiv (-a) b)
def mul (p : Nat) (a b : Iv) : Iv :=
  let w := a.lo * b.lo; let x := a.lo * b.hi; let y := a.hi * b.lo; let z := a.hi * b.hi
  ⟨dn (min (min w x) (min y z)) p, up (max (max w x) (max y z)) p⟩
/-- Multiply by an integer. -/
def scale (k : Int) (a : Iv) : Iv := if 0 ≤ k then ⟨k * a.lo, k * a.hi⟩ else ⟨k * a.hi, k * a.lo⟩
/-- Quotient of a nonnegative enclosure by a positive one. -/
def quo (p : Nat) (a b : Iv) : Iv :=
  ⟨Int.fdiv (a.lo <<< p) (max 1 b.hi), -(Int.fdiv (-(a.hi <<< p)) (max 1 b.lo))⟩

end Iv

/-- Sum of `1 / ((2j+1) q^(2j+1))`, with signs alternating when `alt`: atanh(1/q) or atan(1/q) scaled by `2^p`. -/
def invSeries (alt : Bool) (q : Nat) : Nat → Nat → Nat → Int → Int → Iv
  | 0, _, _, lo, hi => ⟨lo - 2, hi + 2⟩
  | fuel + 1, j, t, lo, hi =>
    if t = 0 then ⟨lo - 2, hi + 2⟩
    else
      let a : Int := ((t / (2 * j + 1) : Nat) : Int)
      let b : Int := a + 2
      let t' := t / (q * q)
      if alt && j % 2 == 1 then invSeries alt q fuel (j + 1) t' (lo - b) (hi - a)
      else invSeries alt q fuel (j + 1) t' (lo + a) (hi + b)

/-- ln 2 scaled by `2^p`. -/
def ln2Iv (p : Nat) : Iv := (invSeries false 3 (p + 2) 0 (2 ^ p / 3) 0 0).scale 2

/-- π scaled by `2^p` (Machin). -/
def piIv (p : Nat) : Iv :=
  ((invSeries true 5 (p + 2) 0 (2 ^ p / 5) 0 0).scale 16).sub
    ((invSeries true 239 (p + 2) 0 (2 ^ p / 239) 0 0).scale 4)

/-- Taylor sum of e^r for `0 ≤ r < 1`, scaled by `2^p`: `n` the next index, `t` the current term, `s` the sum so far. -/
def expTaylor (p : Nat) (r : Iv) : Nat → Nat → Iv → Iv → Iv
  | 0, _, t, s => ⟨s.lo, s.hi + 4 * t.hi + 4⟩
  | fuel + 1, n, t, s =>
    if t.hi ≤ 1 then ⟨s.lo, s.hi + 4 * t.hi + 4⟩
    else
      let t' : Iv := ⟨Iv.fdiv (Iv.dn (t.lo * r.lo) p) n, Iv.cdiv (Iv.up (t.hi * r.hi) p) n⟩
      expTaylor p r fuel (n + 1) t' (s.add t')

/-- e^x for an enclosure `x` scaled by `2^p`: an enclosure and a binary exponent `k` (value is `iv * 2^(k - p)`). -/
def expIv (p : Nat) (x : Iv) : Iv × Int :=
  let l := ln2Iv p
  let k := Int.fdiv x.lo (max 1 l.lo)
  let r := x.sub (l.scale k)
  -- the reduced argument is kept nonnegative by one more step where the enclosure of k ln 2 crosses it
  let (r, k) := if r.lo < 0 then (r.add l, k - 1) else (r, k)
  let h : Iv := ⟨Iv.dn r.lo 1, Iv.up r.hi 1⟩
  let e := expTaylor p h (p + 8) 1 (Iv.exact (2 ^ p)) (Iv.exact (2 ^ p))
  (Iv.mul p e e, k)

/-- Odd powers sum of atanh(y) for `0 ≤ y < 1/2`, scaled by `2^p`. -/
def atanhTaylor (p : Nat) (y2 : Iv) : Nat → Nat → Iv → Iv → Iv
  | 0, _, t, s => ⟨s.lo, s.hi + 4 * t.hi + 4⟩
  | fuel + 1, j, t, s =>
    if t.hi ≤ 1 then ⟨s.lo, s.hi + 4 * t.hi + 4⟩
    else
      let s' := s.add ⟨Iv.fdiv t.lo (2 * j + 1), Iv.cdiv t.hi (2 * j + 1)⟩
      atanhTaylor p y2 fuel (j + 1) ⟨Iv.dn (t.lo * y2.lo) p, Iv.up (t.hi * y2.hi) p⟩ s'

/-- ln of the positive dyadic number `m * 2^e`, scaled by `2^p`. -/
def lnDyad (p : Nat) (m : Nat) (e : Int) : Iv :=
  let n0 := Nat.log2 m
  let n := if 3 * 2 ^ n0 ≤ 2 * m then n0 + 1 else n0
  let num : Int := (m : Int) - (2 ^ n : Int)
  let den : Nat := m + 2 ^ n
  let a : Int := num.natAbs
  let y : Iv := ⟨Int.fdiv (a <<< p) den, Iv.cdiv (a <<< p) den⟩
  let s := (atanhTaylor p (Iv.mul p y y) (p + 8) 0 y (Iv.exact 0)).scale 2
  let s := if num < 0 then s.neg else s
  s.add ((ln2Iv p).scale (e + (n : Int)))

/-- ln of an enclosure of positive numbers `iv * 2^(-p)`. -/
def lnIv (p : Nat) (x : Iv) : Iv :=
  ⟨(lnDyad p x.lo.toNat (-(p : Int))).lo, (lnDyad p x.hi.toNat (-(p : Int))).hi⟩

/-- Alternating Taylor sum with terms multiplied by `x2 / (n (n+1))`: sine from `t = x`, `n = 2`; cosine from `t = 1`, `n = 1`. -/
def trigTaylor (p : Nat) (x2 : Iv) : Nat → Nat → Bool → Iv → Iv → Iv
  | 0, _, _, t, s => ⟨s.lo - 4 * t.hi - 4, s.hi + 4 * t.hi + 4⟩
  | fuel + 1, n, plus, t, s =>
    if t.hi ≤ 1 then ⟨s.lo - 4 * t.hi - 4, s.hi + 4 * t.hi + 4⟩
    else
      let d := n * (n + 1)
      let t' : Iv := ⟨Iv.fdiv (Iv.dn (t.lo * x2.lo) p) d, Iv.cdiv (Iv.up (t.hi * x2.hi) p) d⟩
      trigTaylor p x2 fuel (n + 2) (!plus) t' (if plus then s.add t' else s.sub t')

/-- The sum over n of `(-1)^n x^(2n+1) / (c^n n! (2n+1))` for `x ≥ 0`, scaled by `2^p`: the error function series. -/
def erfTaylor (p : Nat) (x2 : Iv) (c : Nat) : Nat → Nat → Bool → Iv → Iv → Iv
  | 0, _, _, t, s => ⟨s.lo - 4 * t.hi - 4, s.hi + 4 * t.hi + 4⟩
  | fuel + 1, n, plus, t, s =>
    if t.hi ≤ 1 then ⟨s.lo - 4, s.hi + 4⟩
    else
      let u : Iv := ⟨Iv.fdiv t.lo (2 * n + 1), Iv.cdiv t.hi (2 * n + 1)⟩
      let s' := if plus then s.add u else s.sub u
      let d := c * (n + 1)
      let t' : Iv := ⟨Iv.fdiv (Iv.dn (t.lo * x2.lo) p) d, Iv.cdiv (Iv.up (t.hi * x2.hi) p) d⟩
      erfTaylor p x2 c fuel (n + 1) (!plus) t' s'

/-- Square root of an enclosure scaled by `2^p`. -/
def sqrtIv (p : Nat) (x : Iv) : Iv :=
  ⟨(isqrt (x.lo.toNat <<< p) : Nat), (isqrt (x.hi.toNat <<< p) + 1 : Nat)⟩

/-- A dyadic number `m * 2^e` as an enclosure scaled by `2^p`. -/
def dyadIv (p : Nat) (m : Nat) (e : Int) : Iv :=
  let k := e + (p : Int)
  if 0 ≤ k then Iv.exact ((m <<< k.toNat : Nat) : Int)
  else let n := (-k).toNat
       ⟨((m >>> n : Nat) : Int), ((m >>> n : Nat) : Int) + 1⟩

/-- A positive enclosure with a binary exponent, read as the 24-bit odd result of a value strictly inside it: none when the
enclosure holds a point of the 24-bit grid inside (R211). -/
def decide24 (neg : Bool) (x : Iv) (e : Int) : Option (Fp × Flags) :=
  if x.lo ≤ 0 then none
  else
    let lo := x.lo.toNat
    let n := Nat.log2 lo
    let sh : Int := (n : Int) - 23
    let k := if sh ≤ 0 then lo <<< (-sh).toNat else lo >>> sh.toNat
    -- the next grid point is (k + 1) * 2^sh
    let next : Int := ((k + 1 : Nat) : Int)
    let inside : Bool :=
      if 0 ≤ sh then decide (x.hi ≤ next <<< sh.toNat) else decide (x.hi <<< (-sh).toNat ≤ next)
    if inside then some (roundOdd 24 neg k (sh + e) true) else none

/-- Function numbers of Table 8.1 (R210) that are built in. -/
def builtinFn (n : Nat) : Bool := decide (n ≤ 0x0D) || (decide (0x10 ≤ n) && decide (n ≤ 0x14))

/-- Core cycles per group of a built-in function (Table 8.1). -/
def builtinCost (n : Nat) : Nat :=
  if n = 8 ∨ n = 9 then 4 else if n = 0xA ∨ n = 0xC ∨ n = 0xD ∨ n = 0x12 then 2 else 1

/-- Table space in KiB of a built-in function (Table 8.1). -/
def builtinTable (n : Nat) : Nat :=
  if n = 0 ∨ n = 0x13 ∨ n = 0x14 then 0
  else if 5 ≤ n ∧ n ≤ 7 then 2
  else if n = 8 ∨ n = 9 ∨ n = 0xD ∨ n = 0x11 ∨ n = 0x12 then 8
  else 4

/-- One enclosure of the magnitude of a transcendental function at precision `p` for the finite nonzero argument
`(-1)^s m 2^e`: sign of the result, enclosure, exponent of the enclosure's scale. -/
def enclose (fn : Nat) (s : Bool) (m : Nat) (e : Int) (p : Nat) : Bool × Iv × Int :=
  let sc : Int := -(p : Int)
  let one : Iv := Iv.exact (2 ^ p)
  let ex := Fp.expo m e
  let ax := dyadIv p m e
  let x := if s then ax.neg else ax
  let tiny : Iv := ⟨0, 1⟩
  -- e^-|x| as a fixed-point enclosure below one
  let expNeg : Iv → Iv := fun y =>
    if (3 * (p : Int) + 8) <<< p < y.lo then tiny
    else
      let (v, k) := expIv p y.neg
      let n := (-k).toNat
      ⟨Iv.dn v.lo n, Iv.up v.hi n + 1⟩
  let sigmoid : Bool → Iv → Iv := fun ng y =>
    let t := expNeg y
    if ng then Iv.quo p t (one.add t) else Iv.quo p one (one.add t)
  match fn with
  | 1 => let (v, k) := expIv p x; (false, v, k + sc)
  | 2 =>
    let (v, k) := expIv p (Iv.mul p x (ln2Iv p)); (false, v, k + sc)
  | 3 => let v := lnDyad p m e; if v.hi < 0 then (true, v.neg, sc) else (false, v, sc)
  | 4 =>
    let v := lnDyad p m e
    let l := ln2Iv p
    if v.hi < 0 then (true, Iv.quo p v.neg l, sc) else (false, Iv.quo p v l, sc)
  | 8 | 9 =>
    let q := p + 1100
    let y := dyadIv q m e
    let h : Iv := let t := piIv q; ⟨Iv.dn t.lo 1, Iv.up t.hi 1⟩
    let k := Int.fdiv (y.lo + Int.fdiv h.lo 2) (max 1 h.lo)
    let r0 := y.sub (h.scale k)
    let rneg := decide (r0.hi ≤ 0)
    let r1 := if rneg then r0.neg else r0
    let r : Iv := ⟨Iv.dn r1.lo 1100, Iv.up r1.hi 1100⟩
    let r2 := Iv.mul p r r
    let sn := trigTaylor p r2 (p + 8) 2 false r r
    let cs := trigTaylor p r2 (p + 8) 1 false one one
    let quad := (Int.emod k 4).toNat
    let quad := if fn = 9 then (quad + 1) % 4 else quad
    let (v, ng) : Iv × Bool := match quad with
      | 0 => (sn, rneg) | 1 => (cs, false) | 2 => (sn, !rneg) | _ => (cs, true)
    (if fn = 8 then ng != s else ng, v, sc)
  | 0xA =>
    let t := expNeg (ax.scale 2)
    (s, Iv.quo p (one.sub t) (one.add t), sc)
  | 0xB => (false, sigmoid s ax, sc)
  | 0xC =>
    let t := expNeg ax
    let l := lnIv p (one.add t)
    (false, if s then l else ax.add l, sc)
  | 0xD =>
    if 3 ≤ ex then (s, ⟨2 ^ p - 2 ^ (p - 40), 2 ^ p⟩, sc)
    else
      let q := p + 160
      let y := dyadIv q m e
      let v := erfTaylor q (Iv.mul q y y) 1 (q + 200) 0 true y (Iv.exact 0)
      let w := Iv.quo q (v.scale 2) (sqrtIv q (piIv q))
      (s, ⟨Iv.dn w.lo 160, Iv.up w.hi 160⟩, sc)
  | 0x10 =>
    (s, Iv.mul p ax (sigmoid s ax), sc)
  | 0x11 =>
    -- beyond 64 the positive side is x less a part below 2^-(2p), and the negative side underflows before it
    if 6 ≤ ex then (s, if s then tiny else ⟨ax.lo - Iv.up (ax.hi) (min p 100) , ax.hi⟩, sc)
    else
      let q := p + 3200
      let y := dyadIv q m e
      let v := erfTaylor q (Iv.mul q y y) 2 (q + 5000) 0 true y (Iv.exact 0)
      let w := Iv.quo q v (sqrtIv q ((piIv q).scale 2))
      let half : Iv := Iv.exact (2 ^ (q - 1))
      let ph := if s then half.sub w else half.add w
      let z := Iv.mul q y ph
      (s, ⟨Iv.dn z.lo 3200, Iv.up z.hi 3200⟩, sc)
  | 0x12 =>
    -- 0.5 x (1 + tanh y) is x times the sigmoid of 2y
    let q := p + 8
    let y := dyadIv q m e
    let c : Iv := ⟨Int.fdiv (44715 * 2 ^ q) 1000000, Iv.cdiv (44715 * 2 ^ q) 1000000⟩
    let y3 := Iv.mul q (Iv.mul q y y) y
    let k := sqrtIv q (Iv.quo q (Iv.exact (2 ^ (q + 1))) (piIv q))
    let z := (Iv.mul q k (y.add (Iv.mul q c y3))).scale 2
    let z : Iv := ⟨Iv.dn z.lo 8, Iv.up z.hi 8⟩
    (s, Iv.mul p ax (sigmoid s z), sc)
  | _ => (s, ⟨0, 1⟩, sc)

/-- Rising precisions of an enclosure. -/
def precisions : List Nat := [96, 192, 400, 800, 1400, 2400, 4400]

/-- The first precision whose enclosure settles the 24-bit result. -/
def settle24 (f : Nat → Bool × Iv × Int) : List Nat → Option (Fp × Flags)
  | [] => none
  | p :: ps =>
    let (s, v, e) := f p
    match decide24 s v e with
    | some r => some r
    | none => settle24 f ps

/-- The smallest subnormal, delivered for a nonzero value below it (R211: odd at the subnormal position). -/
def underflow24 (neg : Bool) : Fp × Flags := (.fin neg 1 (-1074), flagInexact ||| flagUnderflow)

/-- Overflow of a built-in function (R211). -/
def overflow24 (neg : Bool) : Fp × Flags := (.inf neg, flagInexact ||| flagOverflow)

/-- A correctly enclosed algebraic value: an exact dyadic with a sticky bit, at 24 bits. -/
def odd24 (neg : Bool) (m : Nat) (e : Int) (sticky : Bool) : Fp × Flags :=
  if m = 0 then (.fin neg 0 0, 0) else roundOdd 24 neg m e sticky

/-- RECIP, SQRT and RSQRT of a positive finite value by exact integer arithmetic. -/
def algebraic24 (fn : Nat) (s : Bool) (m : Nat) (e : Int) : Fp × Flags :=
  match fn with
  | 5 =>
    let k := 64 + Nat.log2 m
    odd24 s (2 ^ k / m) (-(k : Int) - e) (2 ^ k % m != 0)
  | 6 =>
    let (m, e) := if e % 2 = 0 then (m, e) else (2 * m, e - 1)
    let n := m <<< 128
    let r := isqrt n
    odd24 false r (e / 2 - 64) (r * r != n)
  | _ =>
    let (m, e) := if e % 2 = 0 then (m, e) else (2 * m, e - 1)
    -- 1 / sqrt(m 2^e) = sqrt(2^k / m) 2^(-e/2 - k/2)
    let k := 2 * (Nat.log2 m + 64)
    let n := 2 ^ k / m
    let r := isqrt n
    odd24 false r (-(e / 2) - ((k / 2 : Nat) : Int)) (r * r != n || 2 ^ k % m != 0)

/-- The value of a power of two or an integer argument where the result is exact (R212, last sentence). -/
def exactCase (fn : Nat) (s : Bool) (m : Nat) (e : Int) : Option (Fp × Flags) :=
  let pow2 := m == 2 ^ Nat.log2 m
  match fn with
  | 2 =>
    -- 2^x with x an integer
    let isInt := decide (0 ≤ e) || m % 2 ^ (-e).toNat == 0
    if isInt && decide (Fp.expo m e ≤ 12) then
      let v : Int := if 0 ≤ e then (m <<< e.toNat : Nat) else (m >>> (-e).toNat : Nat)
      some (roundOdd 24 false 1 (if s then -v else v) false)
    else none
  | 3 => if pow2 && Fp.expo m e == 0 then some (.zero, 0) else none
  | 4 => if pow2 then some (fpOfInt (Fp.expo m e), 0) else none
  | _ => none

/-- A built-in function of a finite nonzero argument inside its domain (R211). -/
def builtinFinite (fn : Nat) (s : Bool) (m : Nat) (e : Int) (raw : Word64) : Fp × Flags :=
  let ex := Fp.expo m e
  let und : Fp × Flags := (decodeFp .fp64 (Config.undecided fn raw).toNat, flagInexact)
  let run : Unit → Fp × Flags := fun _ => (settle24 (enclose fn s m e) precisions).getD und
  match fn with
  | 0 => odd24 s m e false
  | 0x14 => odd24 false m e false
  | 0x13 => odd24 false (m * m) (2 * e) false
  | 5 | 6 | 7 => algebraic24 fn s m e
  | 1 | 2 =>
    match exactCase fn s m e with
    | some r => r
    | none => if 12 ≤ ex then (if s then underflow24 false else overflow24 false) else run ()
  | 3 | 4 => (exactCase fn s m e).getD (run ())
  | 0xA => if 5 ≤ ex then odd24 s (2 ^ 24 - 1) (-24) true else run ()
  | 0xB => if 10 ≤ ex then (if s then underflow24 false else odd24 false (2 ^ 24 - 1) (-24) true) else run ()
  | 0xC =>
    if 12 ≤ ex then (if s then underflow24 false else odd24 false (2 * m) (e - 1) true)
    else if 10 ≤ ex ∧ s then underflow24 false else run ()
  | 0x10 | 0x11 | 0x12 =>
    if 10 ≤ ex then
      (if s then underflow24 true else odd24 false ((m <<< 64) - 1) (e - 64) true)
    else if (fn = 0x11 ∧ s ∧ 6 ≤ ex) ∨ (fn = 0x12 ∧ s ∧ 5 ≤ ex) then underflow24 true
    else run ()
  | _ => run ()

/-- Table 8.2: special arguments; `none` where the function is defined by its value. -/
def builtinSpecial (fn : Nat) (x : Fp) : Option (Fp × Flags) :=
  let nanI : Fp × Flags := (.nan, flagInvalid)
  let one : Fp := .fin false 1 0
  match x with
  | .nan => some (.nan, 0)
  | .inf s =>
    some <| match fn with
    | 0 => (x, 0)
    | 0x13 | 0x14 => (.inf false, 0)
    | 1 | 2 | 0xC => (if s then .zero else .inf false, 0)
    | 3 | 4 => if s then nanI else (.inf false, 0)
    | 5 => (.fin s 0 0, 0)
    | 6 => if s then nanI else (.inf false, 0)
    | 7 => if s then nanI else (.zero, 0)
    | 8 | 9 => nanI
    | 0xA | 0xD => (.fin s 1 0, 0)
    | 0xB => (if s then .zero else one, 0)
    | _ => (if s then .fin true 0 0 else .inf false, 0)
  | .fin s m _ =>
    if m = 0 then
      match fn with
      | 0x13 | 0x14 => some (.zero, 0)
      | 1 | 2 | 9 => some (one, 0)
      | 3 | 4 => some (.inf true, flagDivZero)
      | 5 | 7 => some (.inf s, flagDivZero)
      | 0xB => some (.fin false 1 (-1), 0)
      | 0xC =>
        some ((settle24 (fun p => (false, ln2Iv p, -(p : Int))) precisions).getD (.nan, 0))
      | _ => some (x, 0)
    else if s && (fn == 3 || fn == 4 || fn == 6 || fn == 7) then some nanI
    else none

/-- A built-in function of an accumulator-form value: value and flags (R211, R212). -/
def builtin (fn : Nat) (x : Fp) : Fp × Flags :=
  match builtinSpecial fn x with
  | some r => r
  | none =>
    match x with
    | .fin s m e => builtinFinite fn s m e (toAcc x)
    | _ => (.nan, 0)

/-- Φ(z) - 1/2 of the nonnegative dyadic `m * 2^e`, scaled by `2^p`. -/
def phiHalf (p : Nat) (m : Nat) (e : Int) : Iv :=
  let q := p + 80
  let y := dyadIv q m e
  let v := erfTaylor q (Iv.mul q y y) 2 (q + 200) 0 true y (Iv.exact 0)
  let w := Iv.quo q v (sqrtIv q ((piIv q).scale 2))
  ⟨Iv.dn w.lo 80, Iv.up w.hi 80⟩

/-- Whether the 24-bit grid point with index `c` (fraction in the low 23 bits, exponent from -40 above) lies below the
magnitude whose Φ - 1/2 is `n / 2^33`. -/
def gridBelow (c n : Nat) : Bool :=
  let m := 2 ^ 23 + c % 2 ^ 23
  let e : Int := ((c / 2 ^ 23 : Nat) : Int) - 40 - 23
  let p := 140
  decide ((phiHalf p m e).hi ≤ (n : Int) * 2 ^ (p - 33))

/-- Bisection for the last grid index below. -/
def gridSearch (n : Nat) : Nat → Nat → Nat
  | 0, c => c
  | k + 1, c => gridSearch n k (if gridBelow (c + 2 ^ k) n then c + 2 ^ k else c)

/-- Φ^-1(U) of R240 with U = (2w + 1) / 2^33, rounded to odd at 24 bits. -/
def gaussian (w : Nat) : Fp :=
  let num : Int := 2 * (w : Int) + 1 - 2 ^ 32
  let neg := decide (num < 0)
  let n := num.natAbs
  let c := gridSearch n 29 0
  (roundOdd 24 neg (2 ^ 23 + c % 2 ^ 23) (((c / 2 ^ 23 : Nat) : Int) - 63) true).1

/-- -ln(-ln U) of R240, rounded to odd at 24 bits. -/
def gumbel (w : Nat) : Fp :=
  let f : Nat → Bool × Iv × Int := fun p =>
    let a := (lnDyad p (2 * w + 1) (-33)).neg
    let b := (lnIv p a).neg
    if b.hi < 0 then (true, b.neg, -(p : Int)) else (false, b, -(p : Int))
  ((settle24 f precisions).getD (decodeFp .fp64 (Config.undecided 0x100 (BitVec.ofNat 64 w)).toNat, 0)).1

/-- U of R240. -/
def uniform (w : Nat) : Fp := .fin false (2 * w + 1) (-33)

/-- The state of a loaded function's program (R217): registers, whether a step rounded, divided by zero, had an infinite or
NaN operand. -/
structure FnRun where
  w : List Fp
  rounded : Bool
  divZero : Bool
  finiteOnly : Bool
deriving DecidableEq, Repr

/-- The image fields a program reads (R216). -/
def imgSteps (img : List Byte) : Nat := field img 1 1
def imgTableBytes (img : List Byte) : Nat := field img 2 2

/-- Slots of a step operation (Table 8.4); 0 for an operation not listed. -/
def stepSlots (op : Nat) : Nat :=
  if op = 6 then 4 else if 1 ≤ op ∧ op ≤ 0x10 then 1 else 0

/-- One step word of Table 8.4; `none` when RES ends the program with a value. -/
def fnStep (img : List Byte) (word : Nat) (r : FnRun) : FnRun × Option Fp :=
  let reg : Nat → Fp := fun i => r.w.getD i .zero
  let a := reg (bits word 11 3); let b := reg (bits word 14 3); let c := reg (bits word 17 3)
  let dst := bits word 8 3
  let imm := bits word 32 32
  let op := bits word 0 8
  let put : Fp → Bool → List Fp → FnRun × Option Fp := fun v rd args =>
    ({ r with w := r.w.set dst v, rounded := r.rounded || rd,
              finiteOnly := r.finiteOnly && args.all Fp.isFin }, none)
  let putOdd : Fp → List Fp → FnRun × Option Fp := fun v args =>
    let (x, f) := odd53 v
    put x (f &&& flagInexact != 0) args
  -- no exponent satisfies the definition of SPLIT: any leaves the value as it is, and which one the register holds is free (log 53)
  let noExpo : FnRun × Option Fp :=
    let (r', o) := put a false [a]
    ({ r' with w := r'.w.set ((dst + 1) % 8) (decodeFp .fp64 (Config.undecided 0x200 (toAcc a)).toNat) }, o)
  match op with
  | 1 => put a false [a]
  | 2 => put (decodeFp .fp32 imm) false []
  | 3 => putOdd (Fp.addX a b).1 [a, b]
  | 4 => putOdd (Fp.mulX a b).1 [a, b]
  | 5 => putOdd (Fp.fmaX a b c).1 [a, b, c]
  | 6 =>
    let (q, st, f) := divX a b
    let (x, fx) := odd53 (withSticky q st)
    let (r', o) := put x (fx &&& flagInexact != 0) [a, b]
    ({ r' with divZero := r'.divZero || f == flagDivZero }, o)
  | 7 => put a.negate false [a]
  | 8 => put a.abs false [a]
  | 9 =>
    match a with
    | .fin s m e =>
      if m = 0 then noExpo
      else
        let x := Fp.expo m e
        ({ r with w := (r.w.set dst (.fin s m (e - x))).set ((dst + 1) % 8) (fpOfInt x) }, none)
    | _ => noExpo
  | 10 =>
    match a, b with
    | .fin s m e, .fin t n f =>
      let (k, _) := roundToInt .rne 0 t n f
      let k := max (-5000) (min 5000 k)
      if m = 0 then put a false [a, b] else putOdd (.fin s m (e + k)) [a, b]
    | .fin _ m _, .inf t => if m = 0 then (if t then put a false [a, b] else put .nan false [a, b])
                            else put (if t then .fin a.neg? 0 0 else .inf a.neg?) false [a, b]
    | _, .nan => put .nan false [a, b]
    | .inf _, .inf t => if t then put .nan false [a, b] else put a false [a, b]
    | _, _ => put a false [a, b]
  | 11 =>
    match a with
    | .fin s m e =>
      if m = 0 then put a false [a]
      else
        let (k, ix) := roundToInt .rne 0 s m e
        put (Fp.ofInt s k 0) ix [a]
    | _ => put a false [a]
  | 12 =>
    let n := imgTableBytes img / 8
    let idx : Int := match a with
      | .nan => 0
      | .inf s => if s then 0 else (n : Int)
      | .fin s m e => (roundToInt .rdn 0 s m e).1 + (imm : Int)
    let i := if a.isNan then 0 else (max 0 (min idx ((n : Int) - 1))).toNat
    put (decodeFp .fp64 (if n = 0 then (Config.undecided 0x201 (toAcc a)).toNat else field img (64 + 8 * imgSteps img + 8 * i) 8))
      false [a]
  | 13 => put (if Fp.lt c .zero then a else b) false [a, b, c]
  | 14 => put (Fp.minF a b) false [a, b]
  | 15 => put (Fp.maxF a b) false [a, b]
  | _ => (r, some a)

/-- Run the steps in order; the last register W0 is delivered where no RES ends the program (R217). -/
def fnSteps (img : List Byte) : Nat → Nat → FnRun → FnRun × Fp
  | 0, _, r => (r, r.w.getD 0 .zero)
  | fuel + 1, i, r =>
    match fnStep img (field img (64 + 8 * i) 8) r with
    | (r', some v) => (r', v)
    | (r', none) => fnSteps img fuel (i + 1) r'

/-- A loaded function of an argument (R217). -/
def loadedFn (img : List Byte) (x : Fp) : Fp × Flags :=
  let spec : Nat → Fp × Flags := fun i =>
    (decodeFp .fp32 (field img (4 + 4 * i) 4), BitVec.ofNat 32 (bits (field img 0x14 4) (5 * i) 5))
  match x with
  | .nan => (.nan, 0)
  | .inf s => spec (if s then 3 else 2)
  | .fin s m _ =>
    if m = 0 then spec (if s then 1 else 0)
    else
      let r0 : FnRun := ⟨x :: List.replicate 7 .zero, false, false, true⟩
      let (r, v) := fnSteps img (imgSteps img) 0 r0
      let (y, f) : Fp × Flags := match v with
        | .fin t n e => if n = 0 then (v, 0) else roundOdd 24 t n e false
        | _ => (v, 0)
      let tiny : Bool := match y with
        | .fin _ n e => n != 0 && decide (Fp.expo n e < -1022)
        | _ => false
      let inexact := r.rounded || f &&& flagInexact != 0
      (y, (if inexact then flagInexact else 0)
        ||| (if r.divZero then flagDivZero else 0)
        ||| (if y.isInf && r.finiteOnly then flagOverflow else 0)
        ||| (if y.isNan then flagInvalid else 0)
        ||| (if tiny && inexact then flagUnderflow else 0))

/-- Whether an image is legal (R216): length, version, counts, CRC, operations and slots. -/
def imgLegal (img : List Byte) : Bool :=
  let n := imgSteps img
  let tb := imgTableBytes img
  let len := 64 + 8 * n + tb + 4
  let ops := (List.range n).map (fun i => field img (64 + 8 * i) 1)
  field img 0 1 == 1 && decide (1 ≤ n) && decide (n ≤ 64) && decide (tb ≤ 16384) && tb % 8 == 0
    && img.length == len && field img (len - 4) 4 == crc32c (img.take (len - 4))
    && ops.all (fun o => stepSlots o != 0) && decide ((ops.map stepSlots).sum ≤ 64)

/-- c of a loaded function (R217). -/
def imgCost (img : List Byte) : Nat :=
  ceilDiv ((List.range (imgSteps img)).map (fun i => stepSlots (field img (64 + 8 * i) 1))).sum 16

end Sys2Proof.Machine
end

