-- ==== Sys2Proof/Machine/Flags.lean ====
section
/-!
DEFINITION. Every computation that raises flags of the stage flag word (spec/02 R51): group sums and the other cell operations
(spec/02 R40-R44, spec/03 R69-R72), chain steps (spec/05 R126), the harrow's row statistics (spec/08 R220).
-/
namespace Sys2Proof.Machine

/-- Cell operations of Table 3.6 (R69). -/
inductive CellOp where
  | mulAdd | absDiffAdd | sqDiffAdd | minPlus | maxPlus | eqCount
deriving DecidableEq, Repr

def CellOp.ofCode : Nat → Option CellOp
  | 0 => some .mulAdd | 1 => some .absDiffAdd | 2 => some .sqDiffAdd
  | 3 => some .minPlus | 4 => some .maxPlus | 5 => some .eqCount | _ => none

/-- The largest exponent of the nonzero finite terms (R40). -/
def emaxOf (ts : List Fp) : Option Int :=
  ts.foldl (fun acc t => match t with
    | .fin _ m e => if m = 0 then acc else
        match acc with
        | none => some (Fp.expo m e)
        | some x => some (max x (Fp.expo m e))
    | _ => acc) none

/-- One finite term truncated to the window at `2^lo`: its signed window value and whether bits lie below (R40). -/
def windowTerm (lo : Int) (t : Fp) : Int × Bool :=
  match t with
  | .fin s m e =>
    if lo ≤ e then (if s then -((m <<< (e - lo).toNat : Nat) : Int) else ((m <<< (e - lo).toNat : Nat) : Int), false)
    else
      let k := (lo - e).toNat
      (if s then -((m >>> k : Nat) : Int) else ((m >>> k : Nat) : Int), m % 2 ^ k != 0)
  | _ => (0, false)

/-- The group sum of R40 over finite terms. -/
def groupSumFinite (ts : List Fp) : Fp × Flags :=
  match emaxOf ts with
  | none => (.fin (ts.all (fun t => t.neg?)) 0 0, 0)
  | some emax =>
    let lo := emax - 79
    let ws := ts.map (windowTerm lo)
    let sum : Int := (ws.map Prod.fst).sum
    let sticky := ws.any Prod.snd
    if sum = 0 then (.zero, if sticky then flagInexact else 0)
    else roundOdd 53 (decide (sum < 0)) sum.natAbs lo sticky

/-- A sum of terms that may be infinite: Tables 2.5 and 3.7, rows after the NaN rows, then R40. -/
def sumTerms (ts : List Fp) : Fp × Flags :=
  let pos := ts.any (fun t => t == .inf false)
  let neg := ts.any (fun t => t == .inf true)
  if pos && neg then (.nan, flagInvalid)
  else if pos then (.inf false, 0)
  else if neg then (.inf true, 0)
  else groupSumFinite ts

/-- One term of a cell operation (Tables 3.6, 3.7), with the INVALID it raises. -/
def cellTerm (op : CellOp) (a b : Fp) : Fp × Flags :=
  match op with
  | .mulAdd => Fp.mulX a b
  | .absDiffAdd => let (d, f) := Fp.addX a b.negate; (d.abs, f)
  | .sqDiffAdd => let (d, f) := Fp.addX a b.negate; ((Fp.mulX d d).1, f)
  | .minPlus | .maxPlus => let (d, f) := Fp.addX a b; if f = 0 then odd53 d else (d, f)
  | .eqCount => (if Fp.eq a b then .fin false 1 0 else .zero, 0)

/-- One K group of a cell operation in a floating-point stage: operand pairs at positions below K, the number of excluded or
padded positions, the incoming accumulator value (R40, R41, R69-R72). -/
def groupFp (op : CellOp) (ps : List (Fp × Fp)) (padding : Nat) (inc : Fp) : Fp × Flags :=
  let nanOperand := ps.any (fun p => p.1.isNan || p.2.isNan)
  if inc.isNan then (.nan, 0)
  else if nanOperand && op != .eqCount then (.nan, 0)
  else
    let ts := ps.map (fun p => cellTerm op p.1 p.2)
    if ts.any (fun t => t.2 &&& flagInvalid != 0) then (.nan, flagInvalid)
    else
      let vs := ts.map Prod.fst
      let fl := ts.foldl (fun acc t => acc ||| t.2) (0 : Flags)
      match op with
      | .minPlus => (vs.foldl Fp.minF inc, fl)
      | .maxPlus => (vs.foldl Fp.maxF inc, fl)
      | _ => sumTerms (vs ++ (if padding = 0 then [] else [.zero]) ++ [inc])

/-- One term of a cell operation in an integer stage (R70). -/
def cellTermInt (op : CellOp) (a b : Int) : Int :=
  match op with
  | .mulAdd => a * b
  | .absDiffAdd => (a - b).natAbs
  | .sqDiffAdd => (a - b) * (a - b)
  | .minPlus | .maxPlus => a + b
  | .eqCount => if a = b then 1 else 0

/-- An exact integer into the INT64 accumulator (R44). -/
def fitInt64 (wrap : Bool) (v : Int) : Int × Flags :=
  let (c, f) := encodeInt .int64 wrap v
  (signed c 64, f)

/-- One K group of a cell operation in an integer stage (R44, R70). -/
def groupInt (op : CellOp) (wrap : Bool) (ps : List (Int × Int)) (inc : Int) : Int × Flags :=
  let ts := ps.map (fun p => cellTermInt op p.1 p.2)
  match op with
  | .minPlus => fitInt64 wrap (ts.foldl min inc)
  | .maxPlus => fitInt64 wrap (ts.foldl max inc)
  | _ => fitInt64 wrap (ts.sum + inc)

/-- The cleared start value of an element (R71, R75). -/
def clearedFp (op : CellOp) : Fp :=
  match op with
  | .minPlus => .inf false
  | .maxPlus => .inf true
  | _ => .zero

def clearedInt (op : CellOp) : Int :=
  match op with
  | .minPlus => 2 ^ 63 - 1
  | .maxPlus => -(2 ^ 63 : Int)
  | _ => 0

/-- How a chain rounds each step (R52-R54): native, or staged under a format, a mode and a saturate bit. -/
inductive StepRound where
  | native
  | staged (f : Fmt) (mode : Round) (sat : Bool)
deriving DecidableEq, Repr

/-- Round the exact result of a step (R126, Table 5.8 rows 5 and 6). -/
def roundStep (r : StepRound) (x : Fp) : Fp × Flags :=
  match r with
  | .native => odd53 x
  | .staged f mode sat =>
    match f with
    | .acc => odd53 x
    | _ => let (c, fl) := encodeFp f mode.noSr sat 0 x; (decodeFp f c, fl)

/-- Whether a zero sum of cancelling addends is -0: staged mode under RDN (R126). -/
def StepRound.rdn : StepRound → Bool
  | .native => false
  | .staged _ mode _ => mode == .rdn

/-- NORM_MOD of Table 5.5, exact (R126). A zero that arises in x − μ or in 1 + γ from addends that cancel is +0 in every mode: R126 fixes the
sign of the final sum alone (DESIGN CHOICE, log 62). -/
def normMod (rdn : Bool) (x mu rho gamma beta : Fp) : Fp × Flags :=
  let (d, f1) := Fp.addX x mu.negate
  let (g, f2) := Fp.addX (.fin false 1 0) gamma
  let (p, f3) := Fp.mulX d rho
  let (q, f4) := Fp.mulX p g
  let (r, f5) := Fp.addX q beta rdn
  -- a NaN operand raises nothing (Table 5.8 row 1)
  if [x, mu, rho, gamma, beta].any Fp.isNan then (.nan, 0) else (r, f1 ||| f2 ||| f3 ||| f4 ||| f5)

/-- A step of Table 5.5 other than FUNC in a floating-point stage (R126). -/
def stepFp (r : StepRound) (op : Nat) (x s s2 gamma beta : Fp) : Fp × Flags :=
  let (v, f) : Fp × Flags :=
    match op with
    | 1 => Fp.addX x s r.rdn
    | 2 => Fp.addX x s.negate r.rdn
    | 3 => Fp.mulX x s
    | 4 => (Fp.minF x s, 0)
    | 5 => (Fp.maxF x s, 0)
    | _ => normMod r.rdn x s s2 gamma beta
  match r, op with
  | .native, 4 | .native, 5 => (v, f)
  | _, _ => let (y, g) := roundStep r v; (y, f ||| g)

/-- A step of Table 5.5 in an integer stage (R126). -/
def stepInt (wrap : Bool) (op : Nat) (x s : Int) : Int × Flags :=
  fitInt64 wrap <| match op with
    | 1 => x + s
    | 2 => x - s
    | 3 => x * s
    | 4 => min x s
    | _ => max x s

/-- Divide a sum by a count under odd53 (spec/05 MEAN; spec/07 R198): infinities and NaN pass. -/
def meanOdd53 (x : Fp) (n : Nat) : Fp × Flags :=
  match x with
  | .fin _ m _ => if m = 0 ∨ n = 0 then (x, 0) else
      let (q, sticky, f) := divX x (.fin false n 0)
      let (y, g) := odd53 (withSticky q sticky)
      (y, f ||| g)
  | _ => (x, 0)

/-- A sum in groups of 128 consecutive terms by R40 (spec/07 R198, R199). -/
def sumGroups (xs : List Fp) : Fp × Flags :=
  (chunks 128 (xs.length / 128 + 1) xs).foldl (fun acc g =>
    let (y, f) := groupFp .mulAdd (g.map (fun x => (x, .fin false 1 0))) 0 acc.1
    (y, acc.2 ||| f)) (.zero, 0)

/-- A mean rounded to BF16 by RNE (spec/07 R198, R199): code and flags. -/
def meanBf16 (xs : List Fp) : Nat × Flags :=
  let (y, f) := sumGroups xs
  let (y, g) := meanOdd53 y xs.length
  let (c, h) := encodeFp .bf16 .rne false 0 y
  (c, f ||| g ||| h)

/-- INVALID where an IEEE operation of the harrow reads a signalling NaN (R55). -/
def sigFlag (sig : Bool) : Flags := if sig then flagInvalid else 0

/-- One fused multiply-add of harrow matrix work in the stage's format (R56): three operands with their signalling marks. -/
def harrowFma (f : Fmt) (mode : Round) (a b c : Fp × Bool) : Fp × Flags :=
  let (r, fl) := ieeeFma f mode a.1 b.1 c.1
  (r, fl ||| sigFlag (a.2 || b.2 || c.2))

/-- Running statistics of a NORM row (R220): x0, s1, s2 as binary32 values. -/
structure NormRow where
  x0 : Fp
  s1 : Fp
  s2 : Fp
deriving DecidableEq, Repr

/-- One element into a row's statistics (R220). -/
def normElem (r : NormRow) (x : Fp × Bool) : NormRow × Flags :=
  let (d, f1) := ieeeAdd .fp32 .rne x.1 r.x0.negate
  let (s1, f2) := ieeeAdd .fp32 .rne r.s1 d
  let (s2, f3) := ieeeFma .fp32 .rne d d r.s2
  ({ r with s1 := s1, s2 := s2 }, f1 ||| f2 ||| f3 ||| sigFlag x.2)

/-- μ and ρ of a row of `n` elements (R220). -/
def normFinish (rms : Bool) (eps : Fp) (n : Nat) (r : NormRow) : Fp × Fp × Flags :=
  let nf : Fp := .fin false n 0
  let (m1, f1) := ieeeDiv .fp32 .rne r.s1 nf
  let (m2, f2) := ieeeDiv .fp32 .rne r.s2 nf
  let (mu, f3) : Fp × Flags := if rms then (.zero, 0) else ieeeAdd .fp32 .rne r.x0 m1
  let (v, f4) : Fp × Flags := if rms then (m2, 0) else ieeeFma .fp32 .rne m1.negate m1 m2
  let v := if v.isNan then v else if Fp.lt v .zero || v.isZero then .zero else v
  let (a, f5) := ieeeAdd .fp32 .rne v eps
  let (rho, f6) := builtin 7 a
  (mu, rho, f1 ||| f2 ||| f3 ||| f4 ||| f5 ||| f6)

/-- Rank order of the thresher (R222): whether candidate `(x, i)` comes before `(y, j)`. -/
def ranksBefore (smallest : Bool) (x : Fp) (i : Nat) (y : Fp) (j : Nat) : Bool :=
  match x.isNan, y.isNan with
  | true, true => decide (i < j)
  | true, false => false
  | false, true => true
  | false, false =>
    if Fp.eq x y then decide (i < j)
    else if smallest then Fp.lt x y else Fp.lt y x

/-- Rank order of integer candidates (R222). -/
def ranksBeforeInt (smallest : Bool) (x : Int) (i : Nat) (y : Int) (j : Nat) : Bool :=
  if x = y then decide (i < j) else if smallest then decide (x < y) else decide (y < x)

/-- A candidate into a selection of at most `k` entries, best first (R222, R223). -/
def selInsert {α : Type} (before : α → α → Bool) (k : Nat) (c : α) : List α → List α
  | [] => if k = 0 then [] else [c]
  | d :: ds => if k = 0 then [] else if before c d then (c :: d :: ds).take k else d :: selInsert before (k - 1) c ds

end Sys2Proof.Machine
end

