-- ==== Sys2Proof/Machine/Operands.lean ====
section
/-!
DEFINITION. Operand forms: the stage descriptor, tensor descriptors, the chain block, tiles, plans, windows and broadcast forms
(spec/03 R66, R67; spec/04 R90-R111; spec/05 R122-R125), as functions of the bytes the dispatcher read.
-/
namespace Sys2Proof.Machine

/-- A tensor descriptor (Table 4.4), decoded. Sizes are true sizes; strides are in bytes. -/
structure TDesc where
  raw : List Byte
  base : Nat
  n : Nat
  t : Nat
  h : Nat
  w : Nat
  c : Nat
  fmtCode : Nat
  hint : Nat
  pad : Nat
  secure : Bool
  sw : Nat
  sh : Nat
  st : Nat
  sn : Nat
deriving DecidableEq, Repr

/-- Decode 40 bytes of a tensor descriptor (R93); address bits [63:58] are reserved (R7). -/
def tdOf (b : List Byte) : TDesc :=
  let attr := field b 0x14 4
  let u := if bit attr 12 then 256 else 1
  { raw := b.take 40
    base := bits (field b 0 8) 0 58
    n := field b 8 2 + 1, t := field b 0xA 2 + 1, h := field b 0xC 2 + 1, w := field b 0xE 2 + 1
    c := bits (field b 0x10 4) 0 24 + 1
    fmtCode := bits attr 0 4, hint := bits attr 4 2, pad := bits attr 8 3, secure := bit attr 11
    sw := u * field b 0x18 4, sh := u * field b 0x1C 4, st := u * field b 0x20 4, sn := u * field b 0x24 4 }

namespace TDesc

/-- The format of a descriptor that passed check 4; E4M3 stands for a code that names none. -/
def fmt (d : TDesc) : Fmt := (Fmt.ofCode d.fmtCode).getD .e4m3
/-- Rows of the matrix view (R103). -/
def rows (d : TDesc) : Nat := d.n * d.t * d.h * d.w
/-- Bytes of one row (R94). -/
def rowBytes (d : TDesc) : Nat := ceilDiv (d.c * d.fmt.width) 8
/-- Owner device of the base address (R7). -/
def devid (d : TDesc) : Nat := d.base >>> 48
/-- Local part of the base address (R7). -/
def lbase (d : TDesc) : Nat := d.base % 2 ^ 48
/-- Bytes from the lowest to past the highest addressed byte, exact (R97, R99). -/
def span (d : TDesc) : Nat :=
  (d.n - 1) * d.sn + (d.t - 1) * d.st + (d.h - 1) * d.sh + (d.w - 1) * d.sw + d.rowBytes
/-- Address of the row of the index tuple (n, t, h, w), within the device (R94). -/
def rowAddr (d : TDesc) (n t h w : Nat) : Nat := d.lbase + n * d.sn + t * d.st + h * d.sh + w * d.sw
/-- The index tuple of a row of the matrix view (R103). -/
def tuple (d : TDesc) (r : Nat) : Nat × Nat × Nat × Nat :=
  let w := r % d.w; let r := r / d.w
  let h := r % d.h; let r := r / d.h
  let t := r % d.t
  (r / d.t, t, h, w)
/-- Address of a row of the matrix view. -/
def rowAt (d : TDesc) (r : Nat) : Nat :=
  let (n, t, h, w) := d.tuple r
  d.rowAddr n t h w
/-- Sample (N index) of a row of the matrix view. -/
def sampleOf (d : TDesc) (r : Nat) : Nat := (d.tuple r).1
/-- Equal five sizes. -/
def sameSizes (a b : TDesc) : Bool := a.n == b.n && a.t == b.t && a.h == b.h && a.w == b.w && a.c == b.c
/-- Equal N, T, H, W sizes. -/
def sameRows (a b : TDesc) : Bool := a.n == b.n && a.t == b.t && a.h == b.h && a.w == b.w

/-- Alignment of R95. -/
def aligned (d : TDesc) : Bool :=
  let e := d.fmt.width / 8
  decide (e ≤ 1) ||
    (d.base % e == 0 && (d.w == 1 || d.sw % e == 0) && (d.h == 1 || d.sh % e == 0)
      && (d.t == 1 || d.st % e == 0) && (d.n == 1 || d.sn % e == 0))

/-- Nesting of a destination (R96). -/
def nested (d : TDesc) : Bool :=
  let r0 := d.rowBytes
  let r1 := (d.w - 1) * d.sw + r0
  let r2 := (d.h - 1) * d.sh + r1
  let r3 := (d.t - 1) * d.st + r2
  (d.w == 1 || decide (r0 ≤ d.sw)) && (d.h == 1 || decide (r1 ≤ d.sh))
    && (d.t == 1 || decide (r2 ≤ d.st)) && (d.n == 1 || decide (r3 ≤ d.sn))

/-- Whether the byte ranges of two tensors overlap (R97). -/
def overlaps (a b : TDesc) : Bool := decide (a.base < b.base + b.span) && decide (b.base < a.base + a.span)

/-- The agreement of R97 that makes an in-place stage legal. -/
def agrees (a b : TDesc) : Bool :=
  a.base == b.base && a.sameSizes b && a.fmtCode == b.fmtCode
    && (a.w == 1 || a.sw == b.sw) && (a.h == 1 || a.sh == b.sh)
    && (a.t == 1 || a.st == b.st) && (a.n == 1 || a.sn == b.sn)

/-- A field of a present, used slot is in range at check 4: format (R32) and alignment (R95). PAD_RULE is checked where it is
read. -/
def fieldsOk (d : TDesc) : Bool := (Fmt.ofCode d.fmtCode).isSome && d.aligned

/-- PAD_RULE in range; only operand A of a MATMUL reads it (R106). -/
def padOk (d : TDesc) : Bool := decide (d.pad ≤ 2)

end TDesc

/-- The WINDOW of a matrix stage (Table 4.8), zeros read as one. -/
structure Window where
  wh : Nat
  ww : Nat
  sh : Nat
  sw : Nat
  dh : Nat
  dw : Nat
  top : Nat
  left : Nat
deriving DecidableEq, Repr

def windowOf (d : List Byte) : Window :=
  let g := fun o => let v := field d o 1; if v = 0 then 1 else v
  ⟨g 0x38, g 0x39, g 0x3A, g 0x3B, g 0x3C, g 0x3D, field d 0x3E 1, field d 0x3F 1⟩

/-- A window of 1 x 1 with step 1 and no padding (R97, R103). -/
def Window.plain (w : Window) : Bool :=
  w.wh == 1 && w.ww == 1 && w.sh == 1 && w.sw == 1 && w.top == 0 && w.left == 0

/-! ### Descriptor fields (Tables 4.1, 4.2) -/

def dOpcode (d : List Byte) : Nat := field d 0 1
def dVersion (d : List Byte) : Nat := field d 1 1
def dCtrl (d : List Byte) : Nat := field d 2 2
def dTileM (d : List Byte) : Nat := field d 4 2
def dTileN (d : List Byte) : Nat := field d 6 2
def dTileK (d : List Byte) : Nat := field d 8 2
def dHome (d : List Byte) : Nat := field d 0xA 1
def dTdValid (d : List Byte) (i : Nat) : Bool := bit (field d 0xB 1) i
def dMask (d : List Byte) : Nat := field d 0xC 12
def dTag (d : List Byte) : Nat := field d 0x18 8
def dSeed (d : List Byte) : Nat := field d 0x20 8
def dChain (d : List Byte) : Nat := bits (field d 0x28 8) 0 58
def dBatch (d : List Byte) : Nat := bits (field d 0x30 8) 0 58
def dTd (d : List Byte) (i : Nat) : TDesc := tdOf ((d.drop (0x40 + 40 * i)).take 40)
def dOverlap (d : List Byte) : Bool := bit (dCtrl d) 15
def dIrq (d : List Byte) : Bool := bit (dCtrl d) 14
def dStart (d : List Byte) : Nat := bits (dCtrl d) 12 2
def dCellOp (d : List Byte) : Nat := bits (dCtrl d) 9 3
def dRound (d : List Byte) : Nat := bits (dCtrl d) 6 3
def dWrap (d : List Byte) : Bool := bit (dCtrl d) 5
def dRowMajor (d : List Byte) : Bool := bit (dCtrl d) 4
def dContinue (d : List Byte) : Bool := bit (dCtrl d) 3
def dPriority (d : List Byte) : Nat := bits (dCtrl d) 0 3
def dCrcOk (d : List Byte) : Bool := field d 0xFC 4 == crc32c (d.take 252)

/-- Opcodes run by the tile walker (Table 4.3). -/
def tileWalker (op : Nat) : Bool := (decide (1 ≤ op) && decide (op ≤ 8)) || op == 0x0A

/-- Opcodes that read ROUND (R46). -/
def readsRound (op : Nat) : Bool :=
  (decide (1 ≤ op) && decide (op ≤ 8)) || op == 0x0C || op == 0x0D || op == 0x0F || op == 0x10 || op == 0x11

/-! ### The chain block (Table 5.3) -/

/-- A chain step (Table 5.4). -/
structure ChainStep where
  op : Nat
  fmtCode : Nat
  src : Nat
  srcBc : Nat
  src2 : Nat
  src2Bc : Nat
  param : Nat
  imm : Nat
deriving DecidableEq, Repr

def chainStepOf (b : List Byte) : ChainStep :=
  let s1 := field b 2 1; let s2 := field b 3 1
  ⟨field b 0 1, bits (field b 1 1) 0 4, bits s1 0 4, bits s1 4 2, bits s2 0 4, bits s2 4 2,
   bits (field b 4 4) 0 16, field b 8 8⟩

def cVersion (b : List Byte) : Nat := field b 0 1
def cMode (b : List Byte) : Nat := field b 1 1
def cStaged (b : List Byte) : Bool := bit (cMode b) 0
def cSaturate (b : List Byte) : Bool := bit (cMode b) 1
def cProSat (b : List Byte) : Bool := bit (cMode b) 2
def cDrainTo (b : List Byte) : Nat := bits (cMode b) 3 2
def cWriteThrough (b : List Byte) : Bool := bit (cMode b) 5
def cRelease (b : List Byte) : Bool := bit (cMode b) 6
def cNPro (b : List Byte) : Nat := field b 2 1
def cNDrain (b : List Byte) : Nat := field b 3 1
def cBlockLen (b : List Byte) : Nat := field b 4 2
def cNAux (b : List Byte) : Nat := field b 6 1
def cProFmt (b : List Byte) : Nat := bits (field b 7 1) 0 4
def cProRound (b : List Byte) : Nat := bits (field b 7 1) 4 3
def cRetOut (b : List Byte) : Nat := field b 8 2
def cRetIn (b : List Byte) : Nat := field b 0xA 2
def cRetSlot (b : List Byte) : Nat := field b 0xC 1
def cArrival (b : List Byte) : Bool := bit (field b 0x10 1) 0
def cArrPeer (b : List Byte) : Nat := bits (field b 0x12 2) 0 10
def cArrTimeout (b : List Byte) : Nat := field b 0x14 4
def cAux (b : List Byte) (i : Nat) : TDesc := tdOf ((b.drop (64 + 40 * i)).take 40)
def cProStep (b : List Byte) (i : Nat) : ChainStep :=
  chainStepOf ((b.drop (64 + 40 * cNAux b + 16 * i)).take 16)
def cDrainStep (b : List Byte) (i : Nat) : ChainStep :=
  chainStepOf ((b.drop (64 + 40 * cNAux b + 16 * cNPro b + 16 * i)).take 16)
def cProSteps (b : List Byte) : List ChainStep := (List.range (cNPro b)).map (cProStep b)
def cDrainSteps (b : List Byte) : List ChainStep := (List.range (cNDrain b)).map (cDrainStep b)

/-- The chain of a stage: its block, or all zero bytes with no prologue pipe where CHAIN_ADDR is 0. -/
def noChain : List Byte := [1, 0, 0, 0, 68, 0, 0, 0x0F]

/-- The length R122 gives a block. -/
def cTrueLen (b : List Byte) : Nat := 64 + 40 * cNAux b + 16 * (cNPro b + cNDrain b) + 4

/-- Whether an auxiliary tensor has the sizes of its broadcast form against the worked tensor (Table 5.6). -/
def auxFits (a wk : TDesc) (bc : Nat) (normSrc normMod2 : Bool) : Bool :=
  match bc with
  | 0 => a.sameSizes wk
  | 1 => a.n == 1 && a.t == 1 && a.h == 1 && a.w == 1 && a.c == wk.c
  | 2 => a.sameRows wk && a.c == (if normSrc then 2 else 1)
  | _ => a.n == wk.n && a.t == 1 && a.h == 1 && a.w == 1 && a.c == (if normMod2 then 2 * wk.c else wk.c)

/-- The element of an auxiliary source that element (row tuple, c) of the worked tensor reads (Table 5.6). -/
def auxIndex (bc : Nat) (i : Nat × Nat × Nat × Nat) (c : Nat) : (Nat × Nat × Nat × Nat) × Nat :=
  match bc with
  | 0 => (i, c)
  | 1 => ((0, 0, 0, 0), c)
  | 2 => (i, 0)
  | _ => ((i.1, 0, 0, 0), c)

/-! ### Tiles (R105-R110) -/

/-- The cut of a stage (R105): M, N, K, tile sizes, chain length. -/
structure Grid where
  m : Nat
  n : Nat
  k : Nat
  tm : Nat
  tn : Nat
  tk : Nat
deriving DecidableEq, Repr

namespace Grid
def l (g : Grid) : Nat := ceilDiv g.k g.tk
def r (g : Grid) : Nat := ceilDiv g.m g.tm
def c (g : Grid) : Nat := ceilDiv g.n g.tn
end Grid

/-- R105 with a depth unit of 128 (512 for NORM, TOPK and SAMPLE chains). -/
def gridOf (unit m n k tileM tileN tileK : Nat) : Grid :=
  let tm := min tileM m
  let tn0 := min tileN n
  let tk := if k ≤ tileK then k else unit * max 1 (tileK / unit)
  let l := ceilDiv k tk
  ⟨m, n, k, tm, if 1 < l then (if unit = 128 then min tn0 (128 * (1024 / tm)) else tn0) else tn0, tk⟩

/-- Position on a Hilbert curve of side `2^n`: `s` doubles from 1 (R109). -/
def hilbert : Nat → Nat → Nat → Nat → Nat → Nat × Nat
  | 0, _, _, x, y => (x, y)
  | n + 1, s, t, x, y =>
    let rx := (t / 2) % 2
    let ry := (t ^^^ rx) % 2
    let (x, y) :=
      if ry = 0 then
        let (x, y) := if rx = 1 then (s - 1 - x, s - 1 - y) else (x, y)
        (y, x)
      else (x, y)
    hilbert n (2 * s) (t / 4) (x + s * rx) (y + s * ry)

/-- The visiting order of output tiles (R109). -/
def visitOrder (rowMajor : Bool) (rr cc : Nat) : List (Nat × Nat) :=
  if rowMajor then (List.range rr).flatMap (fun r => (List.range cc).map (fun c => (r, c)))
  else
    let tr := decide (cc < rr)
    let p := if tr then cc else rr
    let q := if tr then rr else cc
    let ls := Nat.log2 p
    let s := 2 ^ ls
    (List.range (ceilDiv p s)).flatMap fun bp =>
      (List.range (ceilDiv q s)).flatMap fun bq =>
        (List.range (s * s)).filterMap fun d =>
          let (x, y) := hilbert ls 1 d 0 0
          let pp := bp * s + y
          let qq := bq * s + x
          if pp < p ∧ qq < q then some (if tr then (qq, pp) else (pp, qq)) else none

/-- One sub-pass of a plan (R67): first column, columns, arrays in a cascade, plan code of Table 3.14. -/
structure SubPass where
  col0 : Nat
  cols : Nat
  groups : Nat
  plan : Nat
deriving DecidableEq, Repr

def planOf (col0 cols : Nat) : SubPass :=
  let nr := roundUp cols 128
  if nr = 512 then ⟨col0, cols, 1, 3⟩
  else if nr = 384 then ⟨col0, cols, 1, 2⟩
  else if nr = 256 then ⟨col0, cols, 2, 1⟩
  else ⟨col0, cols, 4, 0⟩

/-- The sub-passes of a task (R67). -/
def subPasses (m n : Nat) : List SubPass :=
  if 131072 < m * roundUp n 128 then
    (List.range (ceilDiv n 256)).map (fun i => planOf (256 * i) (min 256 (n - 256 * i)))
  else [planOf 0 n]

/-- The passes of a task in order: sub-pass and first K group (R67, Table 3.4). -/
def passList (m n k : Nat) : List (SubPass × Nat) :=
  let g := ceilDiv k 128
  (subPasses m n).flatMap (fun sp => (List.range (ceilDiv g sp.groups)).map (fun i => (sp, i * sp.groups)))

/-- Streaming cycles of a pass of `m` rows (Table 3.2). -/
def streamCycles (width m : Nat) : Nat :=
  if width = 4 then ceilDiv m 2 else if width = 16 then 2 * m else m

/-- Map an index of one axis into the tensor by PAD_RULE (R106): none is a ZERO halo. -/
def haloIndex (rule : Nat) (i : Int) (s : Nat) : Option Nat :=
  if 0 ≤ i ∧ i < (s : Int) then some i.toNat
  else match rule with
    | 1 => some (if i < 0 then 0 else s - 1)
    | 2 =>
      let j : Int := if i < 0 then -i else 2 * (s : Int) - 2 - i
      some (if j < 0 then 0 else if (s : Int) ≤ j then s - 1 else j.toNat)
    | _ => none

/-- The element of A that depth index `k` of output row `r` reads (R104): its row tuple and channel, or a ZERO halo. -/
def windowIndex (win : Window) (a d : TDesc) (r k : Nat) : Option ((Nat × Nat × Nat × Nat) × Nat) :=
  let (n, t, h, w) := d.tuple r
  if win.plain then some ((n, t, h, w), k)
  else
    let ch := k % a.c
    let ij := k / a.c
    let i := ij / win.ww
    let j := ij % win.ww
    let hi : Int := (h * win.sh + i * win.dh : Nat) - (win.top : Int)
    let wi : Int := (w * win.sw + j * win.dw : Nat) - (win.left : Int)
    match haloIndex a.pad hi a.h, haloIndex a.pad wi a.w with
    | some hh, some ww => some ((n, t, hh, ww), ch)
    | _, _ => none

/-- Whether (R104) a position is a halo position. -/
def isHalo (win : Window) (a d : TDesc) (r k : Nat) : Bool :=
  let (_, _, h, w) := d.tuple r
  if win.plain then false
  else
    let ij := k / a.c
    let hi : Int := (h * win.sh + (ij / win.ww) * win.dh : Nat) - (win.top : Int)
    let wi : Int := (w * win.sw + (ij % win.ww) * win.dw : Nat) - (win.left : Int)
    decide (hi < 0) || decide ((a.h : Int) ≤ hi) || decide (wi < 0) || decide ((a.w : Int) ≤ wi)

/-- Elements of a packed row of bytes (R35, R94). -/
def elemOf (f : Fmt) (row : List Byte) (c : Nat) : Nat :=
  match f.width with
  | 4 => bits (field row (c / 2) 1) (4 * (c % 2)) 4
  | w => field row (c * (w / 8)) (w / 8)

/-- A packed row of element codes (R35: the odd high nibble is zero). -/
def packRow (f : Fmt) (cs : List Nat) : List Byte :=
  match f.width with
  | 4 => (List.range (ceilDiv cs.length 2)).map
      (fun i => BitVec.ofNat 8 (cs.getD (2 * i) 0 % 16 + 16 * (cs.getD (2 * i + 1) 0 % 16)))
  | w => cs.flatMap (fun x => toLE (w / 8) x)

end Sys2Proof.Machine
end

