-- ==== Sys2Proof/Machine/State.lean ====
section
/-!
DEFINITION. The state of the device as plain data, every piece the spec names (INVENTORY.md, State), and the state after reset.
Each structure's field defaults are the reset values; a default the spec does not give is named in notes/assumptions.
-/
namespace Sys2Proof.Machine

/-- A fault of the model. No meaning ends in one: the device reports every error and goes on (spec/14 R393). The one
constructor is kept for an address outside the 64-bit range of a command's operand; none raises it. Safe. -/
inductive Fault where
  | outsideAddressSpace
deriving DecidableEq, Repr

/-- A refusal of the model. -/
inductive Refusal where
  /-- Raised by an arm of exec that has no meaning yet; safe: the run stops. -/
  | notModelled (mnemonic : String)
deriving DecidableEq, Repr

/-! ### Fuses, identity and resets (spec/00, 16, 17) -/

/-- An owner slot of the fuses (spec/16 R444). -/
structure OwnerSlot where
  digest : Option (List Byte) := none
  revoked : Bool := false
deriving DecidableEq, Repr

/-- What the fuses hold (log 4). -/
structure Fuses where
  gradeB : Bool := false
  serial : List Byte := List.replicate 16 0#8
  trimMv : Int := 0
  owners : List OwnerSlot := List.replicate 4 {}
  production : Bool := true
deriving DecidableEq, Repr

/-! ### Host interface (spec/14) -/

/-- States of a ring (Table 14.4). -/
inductive RingState where
  | disabled | running | stopped | draining | resetting
deriving DecidableEq, Repr

/-- A ring (Tables 14.3, 14.4) with its fetch, completion and fence bookkeeping. -/
structure Ring where
  log2 : Nat := 4
  locCq : Bool := false
  locSq : Bool := false
  cqFault : Bool := false
  fetchFault : Bool := false
  cfgErr : Bool := false
  secure : Bool := false
  st : RingState := .disabled
  next : Word32 := 0
  sqBase : Word64 := 0
  cqBase : Word64 := 0
  irq : Word32 := 0
  sqHead : Nat := 0
  cqTail : Nat := 0
  tail : Nat := 0
  head : Nat := 0
  stopSeq : Word32 := 0
  allowance : Nat := 0
  /-- Descriptors requested and not yet arrived (R388). -/
  fetching : Nat := 0
  /-- Sequence number of the entry at HEAD (R388). -/
  headSeq : Word32 := 0
  /-- Sequence number of the next entry to write (R391). -/
  writeSeq : Word32 := 0
  /-- A CQ entry whose write failed, kept for RESUME (R394). -/
  kept : Option (List Byte) := none
  /-- Counted entries that have not caused a message, whether one carries STOPPED, and when the first was written (R392). -/
  unsignalled : Nat := 0
  unsigStopped : Bool := false
  unsigSince : Nat := 0
  /-- Sequence numbers of the stages since the latest FENCE or BARRIER that completed with a status other than OK (spec/04
  R117). -/
  failed : List Word32 := []
  /-- Stages up to the next FENCE are aborted (spec/04 R117). -/
  aborting : Bool := false
  /-- Sequence number of the latest FENCE or BARRIER that completed (spec/04 R117). -/
  lastFence : Option Word32 := none
deriving DecidableEq, Repr

/-- A function-table entry (Table 14.11). -/
structure FnEntry where
  ringBase : Nat := 0
  ringCount : Nat := 0
  slots : Nat := 2048
  bar4 : Nat := 0
deriving DecidableEq, Repr

/-- Interface states of a VF (spec/16 Table 16.4). -/
inductive TdState where
  | unlocked | locked | run | error
deriving DecidableEq, Repr

/-- An MSI-X table entry (R383): address, data, mask, pending. Masked at reset: PRESUMED, PCIe MSI-X (log 8). -/
structure MsixEntry where
  addr : Word64 := 0
  data : Word32 := 0
  masked : Bool := true
  pending : Bool := false
deriving DecidableEq, Repr

/-- The host interface. -/
structure Hif where
  rings : Map Nat Ring := []
  fns : Map Nat FnEntry := []
  td : Map Nat TdState := []
  msix : Map (Nat × Nat) MsixEntry := []
  /-- NOT_READY and SAFE_MODE of HIF_STAT (Table 14.11). -/
  notReady : Bool := true
  safeMode : Bool := false
  linkRate : Nat := 0
  linkWidth : Nat := 0
  drsSent : Bool := false
  /-- The ring the fetch visited last: 65,535 makes ring 0 the first (log 9). -/
  lastVisited : Nat := 65535
  /-- The shadow of R13, one per function (log 9). -/
  shadow : Map Nat Word32 := []
  /-- Size of the PF's BAR4 in bytes (Table 14.2). -/
  bar4Size : Nat := 64 * 2 ^ 30
  /-- Registers of configuration space that software has written or an error has set, by function (R377, R383; log 54). -/
  cfg : Map (Nat × ConfigReg) Word32 := []
deriving DecidableEq, Repr

/-! ### Stages (spec/04, 05, 14) -/

/-- Phases of a stage in its slot. -/
inductive StPhase where
  | fetched | chainWait | admitted | running | complete
deriving DecidableEq, Repr

/-- The arrival window of a stage (spec/05 R138): bytes counted per unit. -/
structure Arrival where
  counts : List Nat
deriving DecidableEq, Repr

/-- A stage slot (spec/04 R98, R101; spec/14 R391). -/
structure Stage where
  ring : Nat
  seq : Word32
  secure : Bool
  fn : Nat
  /-- The 256 descriptor bytes; none where the fetch failed (spec/14 R394). -/
  desc : List Byte
  chain : List Byte := noChain
  /-- The level table of a PYRAMID (spec/12 R349). -/
  table : List Byte := []
  phase : StPhase := .fetched
  status : Nat := 0
  whr : Nat := 15
  check : Nat := 0
  fetchFailed : Bool := false
  /-- The stage slot lost its contents (spec/18 R479). -/
  lost : Bool := false
  /-- The entry stops the ring whatever CONTINUE holds (spec/10 Table 10.13, spec/14 R394). -/
  forceStop : Bool := false
  flags : Flags := 0
  /-- Statuses met while running that the end of the stage reports (spec/04 R102, spec/10 R280). -/
  met : List Nat := []
  /-- Class after a class change (spec/06 R156). -/
  cls : Nat := 0
  /-- The batch validity mask as read at the start; none where no mask is read (spec/04 R111). -/
  mask : Option (List Byte) := none
  /-- Order of admission, and device time of admission and start in ns. -/
  admOrder : Nat := 0
  admTime : Nat := 0
  startTime : Nat := 0
  /-- Device time in ns at which the outcome was decided (spec/14 Table 14.6). -/
  doneTime : Nat := 0
  /-- Output tiles issued by the tile walker, and those whose drain has ended (spec/04 R105-R109). -/
  issued : List (Nat × Nat) := []
  drained : Nat := 0
  held : Bool := false
  /-- No further tile is issued (spec/05 R140, spec/14 R395). -/
  noIssue : Bool := false
  /-- The stage is to end at its next pre-emption point under a reset of its ring (spec/14 R395). -/
  ending : Bool := false
  arrival : Option Arrival := none
  /-- Versions of the loaded functions the stage took at check 9 (spec/08 R218): number, version, image. -/
  fnVers : List (Nat × Word32 × List Byte) := []
  /-- A remote write of the stage is not yet acknowledged (spec/04 R116, spec/11 R318): windows outstanding. -/
  remote : List Nat := []
  /-- A lower class was pre-empted for the stage; its first task has had its first pass at a time (spec/06 Table 6.12). -/
  preempted : Bool := false
  firstPass : Option Nat := none
deriving DecidableEq, Repr

/-- One tile of a retained set (spec/05 R133): where it is. -/
inductive TileHome where
  | kept (core : Nat) | backed | spilled (core frame off : Nat) | lost
deriving DecidableEq, Repr

structure RetTile where
  r : Nat
  c : Nat
  /-- Packed rows of the converted tile and the space it takes, a multiple of 4 KiB. -/
  data : List (List Byte)
  size : Nat
  home : TileHome
  /-- Order in which it was written (spec/06 R159). -/
  order : Nat := 0
deriving DecidableEq, Repr

/-- A retained set (spec/05 R133-R137), keyed by world and identifier. -/
structure RetSet where
  td2 : List Byte
  producer : Nat
  ring : Nat
  cls : Nat
  producing : Bool
  /-- Rows and columns of the producer's output tiles. -/
  tm : Nat
  tn : Nat
  tiles : List RetTile := []
deriving DecidableEq, Repr

/-- A generation of a barrier identifier (spec/04 R118): COUNT and the slots that have arrived. -/
structure BarrierGen where
  count : Nat
  arrived : List Nat
deriving DecidableEq, Repr

/-- The dispatcher. -/
structure Dsp where
  stages : Map Nat Stage := []
  admCount : Nat := 0
  sets : Map (Bool × Nat) RetSet := []
  barriers : Map (Bool × Nat) BarrierGen := []
deriving DecidableEq, Repr

/-! ### Field cores (spec/03, 05, 06, 08, 09) -/

/-- States of a task in its slot (spec/06 Table 6.1), with the transfer of R150. -/
inductive TaskState where
  | waiting | passes | draining | suspended | inTransit
deriving DecidableEq, Repr

/-- A token: key, value, position. -/
structure KvToken where
  key : List Byte
  val : List Byte
  pos : Nat
deriving DecidableEq, Repr

/-- Where a key of an ATTEND chain stands (spec/07 R173): a slot of a page, a tail token as its windrow held it when the chain
started (R193, R202), a local row. The candidates of a KV_RETRIEVE chain are pages. -/
inductive KeyRef where
  | page (page slot : Nat) | tail (token : KvToken) | own (row : Nat)
deriving DecidableEq, Repr

/-- A tile task and its progress (spec/04 Table 4.9; spec/06 R142, R157). Sizes and origins follow from its stage and place. -/
structure Task where
  stage : Nat
  r : Nat
  c : Nat
  /-- Position in its K chain, and tasks of the chain. -/
  k : Nat := 0
  len : Nat
  st : TaskState := .waiting
  /-- Order of placement and of suspension (spec/06 R153). -/
  order : Nat := 0
  susOrder : Nat := 0
  /-- The chain's first task has started. -/
  begun : Bool := false
  /-- Array passes, or rows, ended in the present task; the last task's passes have ended. -/
  pass : Nat := 0
  ended : Bool := false
  /-- What the chain carries in accumulator memory (spec/03 R73, spec/07 R180, spec/08 R221, R224, spec/09 R244). -/
  acc : List Word64 := []
  /-- Elements of a carried tile that stands in the spill frame. -/
  accLen : Nat := 0
  /-- Words a SAMPLE task has drawn for its final conversion (spec/09 Table 9.1). -/
  words : List Nat := []
  /-- Spill frame of a suspended task, whether its carried tile stands there, the lane state saved. -/
  frame : Option Nat := none
  spilled : Bool := false
  savedLanes : Option DrawCtx := none
  /-- The task waits for spills (spec/06 R159) or for its restore (R160). -/
  spillWait : Bool := false
  restoring : Bool := false
  /-- ATTEND: keys of the chain, and whether its scores are kept (spec/07 R173, R178). -/
  keys : List KeyRef := []
  keep : Bool := false
  scores : List Word32 := []
  /-- Scores that stand in the spill frame. -/
  scoresSpilled : Option Nat := none
  /-- The chain ends without its drain (spec/06 R162, spec/07 R202). -/
  abandoned : Bool := false
  /-- Device time at which its transfer to a thief ends (spec/06 R150); its suspension was refused (spec/06 R158). -/
  arrives : Nat := 0
  refused : Bool := false
deriving DecidableEq, Repr

/-- What an array does (spec/03 R65, R84, R88): no pass, held by a pass, the last results of its last pass still on their way with
no further pass ready, clock stopped. -/
inductive ArrayPhase where
  | idle | inPass | emptying | clockStopped
deriving DecidableEq, Repr

/-- Contents of a spill frame (spec/06 R161): kind and owner. -/
inductive Frame where
  | task (slot : Nat) (secure : Bool) (cls : Nat) (time : Nat)
  | tiles (secure : Bool) (set : Nat) (cls : Nat) (time : Nat)
deriving DecidableEq, Repr

/-- A field core. -/
structure Core where
  slots : Map Nat Task := []
  arrays : List ArrayPhase := List.replicate 4 .idle
  /-- Core cycles the present pass has loaded and streamed, those it streams, and whether it works under row release (spec/03 R64,
  R74). -/
  passCyc : Nat := 0
  passStream : Nat := 0
  rowRelease : Bool := false
  /-- Core cycles that the preload of the present pass still takes, its plan, and those of the latency that nothing overlaps (spec/03
  R65, R76, R88). -/
  passFeed : Nat := 0
  plan : Nat := 0
  tail : Nat := 0
  /-- Auxiliary values that the pipes hold, by pipe, auxiliary tensor, broadcast form, row or sample, first column (spec/05 R131). -/
  held : List ((Bool × Nat × Nat × Nat × Nat) × List Word64) := []
  lanes : Option (Nat × DrawCtx) := none
  staging : Option (Nat × DrawCtx) := none
  /-- States of the 128 lanes as the last context left them (spec/09 R236). -/
  laneRegs : List Nat := List.replicate 128 0
  frames : List (Option Frame) := List.replicate 8 none
  /-- Published waiting counts at class 0: device time and the count that stands from it, the latest last (spec/06 R148). -/
  counts : List (Nat × Nat) := []
  /-- Victims that returned an empty glean (spec/06 R149). -/
  excluded : List Nat := []
  /-- Glean requests waiting to be served here, thief core numbers in order of arrival (spec/06 R150). -/
  gleanReqs : List Nat := []
  withdrawn : Bool := false
deriving DecidableEq, Repr

/-- The cores together with the orders of placement and suspension. -/
structure Cores where
  core : Map Nat Core := []
  placeOrder : Nat := 0
  susOrder : Nat := 0
deriving DecidableEq, Repr

/-! ### Memory (spec/10) -/

/-- Classes of a Granary line (spec/10 R252). -/
inductive LineClass where
  | normal | stream | keep
deriving DecidableEq, Repr

/-- A valid line of the Granary (spec/10 R252). `dirty` holds the bytes written since the line was allocated: the line's bytes
are the memory's overlaid with them. Least recently used is the head of the list of lines. -/
structure GLine where
  line : Nat
  secure : Bool
  cls : LineClass
  poison : Bool := false
  mark : Option Nat := none
  dirty : List Host.Cell := []
deriving DecidableEq, Repr

/-- Service states of a memory unit (Table 10.16). -/
inductive UnitSt where
  | service | retraining | out | granaryOnly
deriving DecidableEq, Repr

/-- A stack M0-M7 (units 0 to 7) or channel G0-G15 (units 8 to 23). -/
structure MemUnit where
  temp : Nat := 0
  refresh : Nat := 0
  st : UnitSt := .granaryOnly
  timing : Nat := 0
  spares : Nat := 0
  cool : Nat := 0
  /-- Retraining attempts of the present retraining and times of the recent ones (spec/18 R482). -/
  attempts : Nat := 0
  recent : List Nat := []
  /-- Remap list: row, spare row, KEPT (Table 10.18). -/
  remap : List (Nat × Nat × Bool) := []
  /-- Rows to remap, the first being copied (spec/10 R272). -/
  copying : List Nat := []
  /-- Lines corrected, with the time (spec/10 R271, R276). -/
  corrected : List (Nat × Nat) := []
  /-- Line index the patrol scrub reads next (log 9). -/
  scrubPos : Nat := 0
  poisonTable : List Nat := []
deriving DecidableEq, Repr

/-- A request waiting at a memory controller (spec/10 R261, R263; spec/18 R483). -/
inductive Waiting where
  | read (who : Requester) (addr length hint : Nat)
  | write (who : Requester) (addr hint : Nat) (bytes : List Byte)
  | atomic (who : Requester) (addr op fmt : Nat) (wrap : Bool) (bytes : List Byte)
  /-- A BAR4 read that waits for a line, whole. -/
  | bar4 (who : Requester) (line addr length : Nat)
deriving DecidableEq, Repr

/-- What a stage of a ring has written in an aligned 64-byte block (spec/04 R114); no stage once that one has completed. -/
structure Share where
  block : Nat
  ring : Nat
  stage : Option Nat
  cells : List Host.Cell
deriving DecidableEq, Repr

/-- The memory tiers and the Granary. -/
structure Mem where
  cells : List Host.Cell := []
  lines : List GLine := []
  poison : List Nat := []
  units : Map Nat MemUnit := []
  /-- Requests that wait for a line of a unit, in arrival order. -/
  waiting : List (Nat × Waiting) := []
  /-- Memory of each hub die in service (spec/10 R264). -/
  inService : List Bool := [false, false]
  /-- Corrected errors of the present second by unit, the limit in force for it, and whether the last whole second exceeded its
  limit (Table 10.14, R287). -/
  ceSecond : Map Nat Nat := []
  ceLimit : Nat := 1000
  ceRate : Bool := false
  /-- Host-window lines whose last access failed or was poisoned (spec/14 R382). -/
  hostBad : List Nat := []
  /-- Spill areas of the two hubs as latched at the last start (spec/06 R161, R169): the highest 1,152 MiB below the spare bands. -/
  spillBase : List Nat := [2 ^ 38 - 2 ^ 24 - 1152 * 2 ^ 20, 2 ^ 39 - 2 ^ 24 - 1152 * 2 ^ 20]
  /-- KV_WINDROW_MIB and KV_WINDROW_SECURE_MIB as latched at the last start (spec/10 R258, spec/07 R208). -/
  windrowMib : Nat := 32
  windrowSecureMib : Nat := 0
  g7Density : List Nat := [0, 0]
  g7Rate : List Nat := [0, 0]
  /-- An access of the command under way has met a line that is out of reach for now (spec/10 R264): the command waits (log 65). -/
  stalled : Bool := false
  /-- Blocks that running stages have written in part, least recently written first (spec/04 R114). -/
  shares : List Share := []
  /-- The last period of the scrubber that was configured, in hours (R276). -/
  scrubHours : Nat := 24
  /-- Extents, as base and bytes, whose lines at rest were written under another key than their owner's of now (R283). -/
  rekeyed : List (Nat × Nat) := []
deriving DecidableEq, Repr

/-! ### Key-value store (spec/07) -/

/-- States of a page and of a sequence (Table 7.5). -/
inductive PageSt where
  | free | held | releasing
deriving DecidableEq, Repr

inductive SeqSt where
  | free | live | frozen | releasing
deriving DecidableEq, Repr

/-- A page: its state and what its frame holds of its owner (Table 7.4). `relAt` is the count of admissions when its release
began (R196, R203). -/
structure KvPage where
  st : PageSt := .free
  gen : Word32 := 0
  seq : Nat := 0
  layer : Nat := 0
  head : Nat := 0
  first : Nat := 0
  fill : Nat := 0
  sink : Bool := false
  /-- The largest position of its tokens, or the largest time field in three axes (R196). -/
  top : Nat := 0
  relAt : Nat := 0
deriving DecidableEq, Repr

/-- The windrow of a (layer, head) (R191): index of its first token, its tokens, the order in which its first was appended; its
tokens below `visible` are visible, those below `settled` stand in visible pages (R193). -/
structure Windrow where
  first : Nat := 0
  toks : List KvToken := []
  /-- The Granary half of each of its chunks (spec/10 R258). -/
  halves : List Nat := []
  since : Nat := 0
  sink : Bool := false
  visible : Nat := 0
  settled : Nat := 0
deriving DecidableEq, Repr

/-- A sequence (R189). -/
structure KvSeq where
  st : SeqSt := .free
  secure : Bool := false
  gen : Word32 := 0
  layers : Nat := 0
  heads : Nat := 0
  posMode : Bool := false
  tierG7 : Bool := false
  fn : Nat := 0
  winds : Map (Nat × Nat) Windrow := []
  relAt : Nat := 0
deriving DecidableEq, Repr

/-- A queue of free numbers that at reset holds `0, 1, …` in ascending order (R189, R191): the first still untouched, the end,
those freed since, oldest first. -/
structure FreeQueue where
  next : Nat := 0
  stop : Nat := 0
  freed : List Nat := []
deriving DecidableEq, Repr

/-- A pool (R185): its two extents as (base, pages), its free queues, its pages. -/
structure KvPool where
  hbm : Nat × Nat := (0, 0)
  g7 : Nat × Nat := (0, 0)
  freeHbm : FreeQueue := {}
  freeG7 : FreeQueue := {}
  pages : Map Nat KvPage := []
  cfgFault : Bool := false
deriving DecidableEq, Repr

/-- What one head of a sequence showed when a KV_RETRIEVE started (R193, R200): pages as (number, first token, sink), the tail. -/
structure KvView where
  pages : List (Nat × Nat × Bool)
  tailFirst : Nat
  tailCount : Nat
deriving DecidableEq, Repr

/-- A key-value stage between its start and its completion: its sequence table with the results so far (R195), the views of a
KV_RETRIEVE by (entry, head). -/
structure KvRun where
  table : List Byte
  views : Map (Nat × Nat) KvView := []
deriving DecidableEq, Repr

/-- A release in progress (R196): the stage's slot while it waits, its world, the readers it waits for, its pages and sequences. -/
structure KvRelease where
  stage : Option Nat
  secure : Bool
  readers : List Nat
  pages : List Nat
  seqs : List Nat
deriving DecidableEq, Repr

structure Kv where
  /-- Settings as latched at the last start (R208): P, KV_FORMAT, D, and the parts of the partition in chunks. -/
  p : Nat := 256
  fmt : Nat := 0
  d : Nat := 128
  chunksOpen : Nat := 8192
  chunksSecure : Nat := 0
  openPool : KvPool := {}
  secPool : KvPool := {}
  seqs : Map Nat KvSeq := []
  freeSlots : FreeQueue := { stop := 65536 }
  runs : Map Nat KvRun := []
  releases : List KvRelease := []
  /-- Order of windrow starts. -/
  since : Nat := 0
deriving DecidableEq, Repr

/-- A function slot (spec/08 R215-R218): image and version; stages in progress hold the versions they took. -/
structure FnSlot where
  image : List Byte := []
  version : Word32 := 0
deriving DecidableEq, Repr

/-! ### Regions and security (spec/16) -/

/-- A region descriptor of the running table (Table 16.2). -/
structure Region where
  valid : Bool := false
  secure : Bool := false
  shared : Bool := false
  clearing : Bool := false
  owner : Nat := 0
  base : Nat := 0
  size : Nat := 0
deriving DecidableEq, Repr

/-- An SPDM session (spec/16 R445). -/
structure Session where
  via : Transport
  established : Bool := false
  secure : Bool := false
  keyGen : Nat := 0
deriving DecidableEq, Repr

/-- A selective IDE stream (spec/16 R441): key sets, VFs bound, whether it has failed. -/
structure IdeStream where
  keys : List (Nat × List Byte) := []
  vfs : List Nat := []
  failed : Bool := false
deriving DecidableEq, Repr

structure Sec where
  regions : Map Nat Region := []
  regionErr : Bool := false
  entropyFail : Bool := false
  sealFail : Bool := false
  sessions : Map Nat Session := []
  /-- Large requests arriving in chunks, as transport, handle, next chunk number, bytes so far; large answers by transport and handle
  (spec/16 R445). -/
  chunkIn : List (Transport × Nat × Nat × List Byte) := []
  chunkOut : List (Transport × Nat × List Byte) := []
  ide : Map Nat IdeStream := []
  /-- Memory keys drawn at BS12, by generation (spec/16 R442); 0 before. -/
  memKeyGen : Nat := 0
  /-- Denials logged: requester function, world, descriptor, entry of the log they merge into (spec/16 R437). -/
  denials : List (Nat × Bool × Nat × Nat) := []
deriving DecidableEq, Repr

/-! ### Light links, copies and collectives (spec/11) -/

/-- Port states (Table 11.6). -/
inductive PortSt where
  | disabled | calibrate | align | verify | auth | active | retrain
deriving DecidableEq, Repr

/-- A port (R302-R306, R330). -/
structure Port where
  st : PortSt := .disabled
  alt : Nat := 0
  attempt : Nat := 0
  /-- The work of a RETRAIN in progress. -/
  sub : PortSt := .calibrate
  /-- Frames of the ACTIVE period (R293), credits to send by, buffers freed and not yet returned (R298). -/
  frame : Nat := 0
  credits : Nat := 0
  owed : Nat := 0
  /-- Under four wavelengths, whether they are λ4 to λ7 (Table 11.7). -/
  high : Bool := false
  /-- The flits of the frame received last that no command has brought yet: type, frame, place in it, whether it lies in a codeword that
  could not be corrected (R292, R293); the next place of a flit sent, as 20 (or 10) F + n (R295). -/
  arriving : List (Nat × Nat × Nat × Bool) := []
  place : Nat := 0
  /-- Times at which control flits have failed their TAG (R304); the port that the peer named in its HELLO. -/
  tagFails : List Nat := []
  farPort : Nat := 0
  /-- Generation of the link keys of the ACTIVE period (R295, spec/16 R448). -/
  key : Option Nat := none
  /-- What the last HELLO on the port said (R309, R330): DEVID, tray position; whether it disagrees with R289 or its checks. -/
  peer : Option Nat := none
  tpos : Nat := 0
  miswired : Bool := false
  mismatched : Bool := false
  recal : Bool := false
  /-- Fragments of KEY messages received in this AUTH: step, index, data; the SHARE and CERT data sent (spec/16 R448). -/
  keyIn : List (Nat × Nat × List Byte) := []
  keyOut : List Byte := []
  proved : Bool := false
  /-- The port has passed VERIFY and waits for BS16 (spec/17 Table 17.9). -/
  waitAuth : Bool := false
deriving DecidableEq, Repr

/-- Peer states (Table 11.8). -/
inductive PeerSt where
  | absent | joining | present | lost
deriving DecidableEq, Repr

/-- A peer: its entry (R307), its control stream (R299, R300) and its time offer (R310). -/
structure Peer where
  st : PeerSt := .absent
  incarnation : Nat := 0
  serial : Nat := 0
  ports : List Nat := []
  /-- The control port in use (R299). -/
  ctrl : Option Nat := none
  /-- SEQ of the next control flit to send; flits not yet acknowledged as SEQ, port, credits, messages; messages waiting for one
  of 512 places. -/
  sendSeq : Nat := 0
  sent : List (Nat × Nat × Nat × List Byte) := []
  queued : List (List Byte) := []
  /-- Next SEQ expected; a flit with messages has come since the last flit sent. -/
  recvSeq : Nat := 0
  ackDue : Bool := false
  /-- A NAK waits for one of 512 places (R299). -/
  nakDue : Bool := false
  master : Nat := 0
  hops : Nat := 0
  /-- Their send stamp last received and when (R310). -/
  stamp : Nat × Nat := (0, 0)
deriving DecidableEq, Repr

/-- Where the payload of a window goes: memory; the destination of a COPY by stage slot; the partials or results of a
COLLECTIVE by stage slot and sender's rank. -/
inductive WinHome where
  | memory | copy (slot : Nat) | partials (slot rank : Nat) | results (slot rank : Nat)
deriving DecidableEq, Repr

/-- A window this device has opened (R314). Kinds are 0 WRITE, 1 ATOMIC, 2 READ_DATA. -/
structure LinkWindow where
  peer : Nat
  base : Nat
  length : Nat
  secure : Bool
  cls : Nat
  kind : Nat
  home : WinHome := .memory
  tag : Nat := 0
  applied : Nat := 0
  total : Option Nat := none
  flags : Flags := 0
  poison : Bool := false
deriving DecidableEq, Repr

/-- A window opened at a peer by a stage whose WIN_DONE a SYSTEM fence may wait for (R318). -/
structure OutWin where
  ring : Nat
  seq : Word32
  peer : Nat
  handle : Nat
  status : Option Nat := none
  flags : Flags := 0
deriving DecidableEq, Repr

/-- Progress of a COPY (R316-R319): pieces done; for a remote destination the window's handle once granted and the tag of its
request; for a remote source the runs not yet whole as tag, offset, length and whether READ_END has come, the bytes arrived, the
rows written. -/
structure CopyRun where
  piece : Nat := 0
  peer : Option Nat := none
  reading : Bool := false
  tag : Nat := 0
  handle : Option Nat := none
  sent : Nat := 0
  window : Nat := 0
  runs : List (Nat × Nat × Nat × Bool) := []
  parts : List (Nat × List Byte) := []
  rows : List Nat := []
  /-- Pieces on engines now (R316); the peer has denied the window (R317). -/
  busy : Nat := 0
  denied : Bool := false
deriving DecidableEq, Repr

/-- Progress of a COLLECTIVE (R322-R327): members, digest; the windows opened for each rank's partials and results; JOINs by rank
as digest and the two windows opened there; pieces of partials by rank and offset; blocks reduced; elements of TD2 written; final
rounds by rank; a member reported PARTIAL. -/
structure CollRun where
  members : List Nat
  digest : Nat
  opened : Map Nat (Nat × Nat) := []
  joins : Map Nat (Nat × Nat × Nat) := []
  data : Bool := false
  parts : List (Nat × Nat × List Byte) := []
  blocks : List Nat := []
  written : Nat := 0
  finals : List Nat := []
  finalSent : Bool := false
deriving DecidableEq, Repr

/-- A JOIN that came before its collective started here (R325). -/
structure EarlyJoin where
  secure : Bool
  id : Nat
  src : Nat
  rank : Nat
  digest : Nat
  partials : Nat
  results : Nat
  /-- A MISMATCH in place of a JOIN: the collective has ended there before it started here. -/
  mismatch : Bool := false
deriving DecidableEq, Repr

/-- A laser module (R291, spec/20 R517, R518): seated, reported ready, reset released, outputs enabled. -/
structure Laser where
  seated : Bool := false
  ready : Bool := false
  released : Bool := false
  outputs : Bool := false
deriving DecidableEq, Repr

structure Lnk where
  ports : Map Nat Port := []
  peers : Map Nat Peer := []
  windows : Map Nat LinkWindow := []
  /-- WIN_REQs waiting for a free window: source, header TAG, body (R314). -/
  winWait : List (Nat × Nat × List Byte) := []
  outWins : List OutWin := []
  /-- Data flits that wait for a port or a credit (R298, R304): destination and bytes. -/
  held : List (Nat × List Byte) := []
  /-- Messages that wait for an ACTIVE port of their route (R311): DEVID and message; the sender that each port served last at its egress
  (spec/06 R154); flits whose engine's gate has not taken them: domain, port, bytes in clear (R298). -/
  heldMsgs : List (Nat × List Byte) := []
  turns : Map Nat Nat := []
  gated : List (Nat × Nat × List Byte) := []
  early : List EarlyJoin := []
  copies : Map Nat CopyRun := []
  colls : Map Nat CollRun := []
  lasers : List Laser := List.replicate 4 {}
  /-- DEVID and fabric domain in use, tray position read at BS00 (R289, R309). -/
  devid : Nat := 0
  domain : Nat := 0
  tpos : Nat := 0
  dupDevid : Bool := false
  /-- Correction of device time still to be slewed, and ns since the last step of it (R310). -/
  slew : Int := 0
  slewPhase : Nat := 0
  /-- Device time has followed a master since this device joined its domain (R310). -/
  synced : Bool := false
  /-- TAG of the next request. -/
  nextTag : Nat := 0
deriving DecidableEq, Repr

/-! ### Ingest and pyramids (spec/12) -/

/-- Progress of an entry of an INGEST stage: waiting for its source, ready for an engine, on an engine, ended. -/
inductive IngSt where
  | waiting | ready | busy (engine : Nat) | ended
deriving DecidableEq, Repr

/-- An entry (R342-R346): outcome once known, stale frames dropped, lines and capture time for its record; the frame it converts as
pixel format, address, lines, pitch; the queue it takes from until CONS is written; the picture it holds, as stream slot, generation
and frame. -/
structure IngEntry where
  st : IngSt := .waiting
  outcome : Option Nat := none
  drops : Nat := 0
  lines : Nat := 0
  capture : Nat := 0
  pix : Nat := 0
  addr : Nat := 0
  pitch : Nat := 0
  queue : Option Nat := none
  hold : Option (Nat × Word32 × Nat × Nat) := none
deriving DecidableEq, Repr

/-- An INGEST stage in progress: its sample table and entries. -/
structure IngRun where
  table : List Byte
  entries : List IngEntry
deriving DecidableEq, Repr

/-- A PYRAMID stage in progress: engine, next level, the last level in accumulator form. -/
structure PyrRun where
  engine : Nat
  level : Nat := 0
  held : List Word64 := []
deriving DecidableEq, Repr

structure Ing where
  runs : Map Nat IngRun := []
  pyrs : Map Nat PyrRun := []
deriving DecidableEq, Repr

/-! ### Video (spec/13 R354-R368) -/

/-- A frame of a decode stream with its marks (Table 13.6): the coded picture it holds, picture outputs that hold OUT on it, read
holds. -/
structure VFrame where
  cur : Bool := false
  ref : Bool := false
  pic : Nat := 0
  outs : List Nat := []
  reads : Nat := 0
  /-- The picture it holds: size, ten-bit, marked ERROR, key, film grain applied, crop size. -/
  width : Nat := 0
  height : Nat := 0
  tenBit : Bool := false
  err : Bool := false
  key : Bool := false
  grain : Bool := false
  cropW : Nat := 0
  cropH : Nat := 0
deriving DecidableEq, Repr

/-- A picture output whose OUT mark stands: number, frame, size, ten-bit, marked ERROR, device time of output. -/
structure VPicture where
  number : Nat
  frame : Nat
  width : Nat
  height : Nat
  tenBit : Bool
  error : Bool
  time : Nat
deriving DecidableEq, Repr

/-- A decode stream (R358-R364): `fed` holds its OPEN settings and the unit bytes taken so far; coded and output pictures. -/
structure DecStream where
  secure : Bool
  fn : Nat
  engine : Nat
  autoRelease : Bool
  hevc : Bool := false
  filmGrain : Bool := false
  maxW : Nat
  maxH : Nat
  base : Nat
  record : Nat
  frames : List VFrame
  fed : List Byte := []
  pics : List VPicture := []
  coded : Nat := 0
  count : Nat := 0
  /-- UNITS and BYTES of its record's header. -/
  units : Nat := 0
  bytes : Nat := 0
deriving DecidableEq, Repr

/-- An encode stream (R357, R365-R368). -/
structure EncStream where
  secure : Bool
  fn : Nat
  engine : Nat
  cbr : Bool
  tenBit : Bool
  bt2020 : Bool
  qp : Nat
  width : Nat
  height : Nat
  keyInterval : Nat
  target : Nat
  record : Nat
  /-- Frames encoded, base index for the next frame, frames since the last key frame, a key request waits. -/
  count : Nat := 0
  qNext : Nat
  sinceKey : Nat := 0
  keyReq : Bool := false
  /-- UNITS and BYTES of its record's header. -/
  units : Nat := 0
  bytes : Nat := 0
  /-- Its references, as its decoder reconstructs them (Table 13.2). -/
  lastRef : List Byte := []
  last2Ref : List Byte := []
  golden : List Byte := []
deriving DecidableEq, Repr

/-- A DECODE in progress (R362, R363): bytes and units taken; the unit on the engine with what was given before it, its pictures to
code and those coded, its pictures to output and those still to output, whether it was cut off; an ERROR picture was output; since when
the stream waits for a frame. -/
structure DecRun where
  stream : Nat
  bytes : Nat := 0
  units : Nat := 0
  before : List Byte := []
  unit : List Byte := []
  need : Nat := 0
  coded : Nat := 0
  shown : Nat := 0
  left : Nat := 0
  cut : Bool := false
  error : Bool := false
  waitSince : Option Nat := none
deriving DecidableEq, Repr

/-- An ENCODE in progress: next frame of TD0, bytes written to TD2, the first frame is forced to be a key frame; a frame is in
coding, with its key flag and whether it took a key request (R368). -/
structure EncRun where
  stream : Nat
  frame : Nat := 0
  bytes : Nat := 0
  force : Bool := false
  coding : Option (Bool × Bool) := none
deriving DecidableEq, Repr

structure Vid where
  decs : Map Nat DecStream := []
  encs : Map Nat EncStream := []
  decGen : Map Nat Word32 := []
  encGen : Map Nat Word32 := []
  decRuns : Map Nat DecRun := []
  encRuns : Map Nat EncRun := []
  /-- The stream each engine served last (R353). -/
  decLast : Map Nat Nat := []
  encLast : Map Nat Nat := []
  /-- Pool runs of closed streams still under read holds, by slot and generation: secure, base, bytes, holds. -/
  held : Map (Nat × Word32) (Bool × Nat × Nat × Nat) := []
deriving DecidableEq, Repr

/-! ### Paced output (spec/13 R370-R374) -/

/-- A copy in progress (R373): the commit's stage slot, or none for a repeat; raster frame and presentation time; its rows and the
header fields LINES, WIDTH, PITCH, PIXFMT; world, function and queue of the START it was latched under. -/
structure PaceCopy where
  stage : Option Nat
  frame : Nat
  shown : Nat
  rows : List (List Byte)
  lines : Nat
  width : Nat
  pitch : Nat
  pix : Nat
  secure : Bool
  fn : Nat
  queue : Nat
  slots : Nat
  slotBytes : Nat
  slotBase : Nat
deriving DecidableEq, Repr

/-- A channel: settings of its START, raster frame of the next latch, the pending commit's stage slot, a commit that arrived at or
after the time of that latch and before its command, copies in progress, what it latched last, and the slot it emitted last. -/
structure PaceChan where
  running : Bool := false
  secure : Bool := false
  fn : Nat := 0
  rep : Bool := false
  total : Nat := 2
  active : Nat := 1
  num : Nat := 0
  den : Nat := 1
  start : Nat := 0
  queue : Nat := 0
  slots : Nat := 1
  slotBytes : Nat := 256
  slotBase : Nat := 0
  frame : Nat := 0
  pending : Option Nat := none
  later : Option Nat := none
  copies : List PaceCopy := []
  last : Option PaceCopy := none
  lastAt : Nat := 0
deriving DecidableEq, Repr

/-! ### Power and clocks (spec/17) -/

/-- Domain states (Table 17.2). -/
inductive DomSt where
  | on | clockGated | draining | poweringOff | fallow | waking | heldOff
deriving DecidableEq, Repr

/-- A rail below its warning level or within its 50 µs (R465): lowest reading, and since when. -/
structure RailWarn where
  lowest : Nat
  since : Nat
deriving DecidableEq, Repr

/-- Thermal state of a die (Table 17.6): an action holds, and since when the die has been cool enough to end it. -/
structure Hot where
  active : Bool := false
  coolSince : Option Nat := none
deriving DecidableEq, Repr

structure Pwr where
  /-- Domains D0 to D211; a domain not listed is FALLOW (Table 17.11). -/
  doms : Map Nat DomSt := []
  /-- Packets held by the gate of a domain, oldest first (R458). -/
  gates : Map Nat (List Nat) := []
  /-- Domains knocked that have not begun WAKING, in order, and wakes begun per die share in this window (R459). -/
  knocks : List Nat := []
  begun : List Nat := List.replicate 8 0
  /-- Operating point of each field die and the one it is changing to (R461). -/
  point : List Nat := List.replicate 8 0
  target : List Nat := List.replicate 8 0
  /-- Set point in force in mV; the regulator answers (R508). -/
  setMv : Nat := 0
  avsOk : Bool := true
  currentLimit : Option Nat := none
  /-- Hottest sensor of F0 to F7, H0, H1 and the thermal rows that hold (R463). -/
  temps : List Nat := List.replicate 10 0
  throttle : List Hot := List.replicate 8 {}
  hard : List Hot := List.replicate 10 {}
  trip : Bool := false
  /-- Rails below warning, by the order of Table 20.4 (R465). -/
  rails : Map Nat RailWarn := []
  /-- Average package power of the last 10 ms in W; the dies are held below their ceiling by it (R462). -/
  pkgPower : Nat := 0
  powerHeld : Bool := false
  /-- The headland controller's fast clock runs (Table 17.4). -/
  fastClock : Bool := false
deriving DecidableEq, Repr

/-- The reset lines (spec/20 Table 20.3): RST_N high, PERST# asserted, TAP out of reset. -/
structure Lines where
  rstN : Bool := true
  perst : Bool := false
  tapOut : Bool := false
deriving DecidableEq, Repr

/-! ### What the device sends, and the event log -/

/-- One thing the device has sent (log 7). -/
inductive OutMsg where
  | hostWrite (fn addr : Nat) (bytes : List Byte) (ide : Option Nat)
  | hostRead (fn addr length : Nat) (ide : Option Nat)
  | msix (fn vector : Nat) (addr : Word64) (data : Word32)
  | pcieData (fn : Nat) (how : Completion) (bytes : List Byte)
  | configData (fn : Nat) (register : ConfigReg) (retry : Bool) (value : Word32)
  | drs
  | memData (who : Requester) (addr : Nat) (bytes : List Byte)
  | flit (port : Nat) (bytes : List Byte)
  | hello (port : Nat) (body : List Byte)
  | keyFlit (port : Nat) (body : List Byte)
  | weloc (dst : Manager) (segment : List Byte)
  | mctp (via : Transport) (bytes : List Byte)
  | i3c (bus : Nat) (kind : Nat) (bytes : List Byte)
  | spdm (via : Transport) (bytes : List Byte)
  | frame (channel : Nat) (bytes : List Byte)
  | pin (name : Nat) (level : Bool)
deriving DecidableEq, Repr

/-- An entry of the event log (spec/18 Table 18.6); the severity follows from the code (Table 18.7). -/
structure LogEntry where
  seq : Nat
  time : Nat
  code : Nat
  secure : Bool
  count : Nat
  source : Nat
  data : Nat
deriving DecidableEq, Repr

/-- The event log (spec/18 R489-R491). -/
structure EvLog where
  entries : List LogEntry := []
  next : Nat := 0
  overwritten : Nat := 0
  dropped : Nat := 0
  lastTime : Option Nat := none
deriving DecidableEq, Repr

/-- Fault state (spec/18 R478, R479, R492): the fatal event, the bridge. -/
structure Faults where
  diagFatal : Nat := 0
  diagFatalTime : Nat := 0
  bridgeLost : Bool := false
  /-- Rings whose next entry is the first after the fatal event and carries STOPPED (R479). -/
  stopNext : List Nat := []
deriving DecidableEq, Repr

/-! ### Dictionary, management transports and the store (spec/15) -/

/-- A transfer context (R411-R413): manager and TAG, object, whether it writes; the bytes served or staged, the declared length, bytes
done; the last SEQ accepted with its answer; the opening segment and whether it came from Secure; when it was last used; whether it has
ended. -/
structure Xfer where
  manager : Manager
  tag : Nat
  index : Nat
  sub : Nat
  write : Bool
  data : List Byte := []
  total : Nat := 0
  done : Nat := 0
  seq : Nat := 0
  opener : List Byte := []
  secure : Bool := false
  answer : List Byte := []
  used : Nat := 0
  ended : Bool := false
deriving DecidableEq, Repr

/-- What the device keeps of a manager (R409, R413, spec/18 R491): log cursor; last expedited request, its answer, its time and
whether it came from Secure. -/
structure ManagerSt where
  manager : Manager
  cursor : Nat := 0
  last : Option (List Byte × List Byte × Nat × Bool) := none
deriving DecidableEq, Repr

structure Dict where
  /-- Managers, the one silent longest first. -/
  managers : List ManagerSt := []
  /-- The 8 contexts by number. -/
  xfers : Map Nat Xfer := []
  discards : Nat := 0
  busy : Nat := 0
  /-- Dynamic addresses of MGMT0 and MGMT1; EIDs of MGMT0, MGMT1 and PCIe; 0 none. -/
  addrs : List Nat := [0, 0]
  eids : List Nat := [0, 0, 0]
  /-- Maximum write and read lengths of the two buses (R407). -/
  mwl : List Nat := [256, 256]
  mrl : List Nat := [256, 256]
  /-- Answers announced on a bus and not yet fetched (R407). -/
  waiting : List (Nat × OutMsg) := []
deriving DecidableEq, Repr

/-- A firmware slot (R428): FW_x_STATE, its image, blocks erased for the next image, whether the device last started it. -/
structure FwSlot where
  st : Nat := 0
  image : List Byte := []
  blocks : Nat := 0
  erasing : Nat := 0
  started : Bool := false
deriving DecidableEq, Repr

/-- The store (R420-R427). A bank holds the bytes of its record, none where it holds no whole record. -/
structure Store where
  banks : List (List Byte) := [[], []]
  winner : Option Nat := none
  seq : Nat := 0
  absent : Bool := false
  failed : Bool := false
  pending : Bool := false
  /-- The commit being written: target, SEQ, image; it has been repeated once. -/
  writing : Option (Nat × Nat × List Byte) := none
  again : Bool := false
  tokens : Nat := 64
  load : Nat := 0
  fw : List FwSlot := [{ st := 3, started := true }, {}]
  fwActive : Nat := 0
deriving DecidableEq, Repr

/-! ### Bring-up (spec/17 R468-R475) -/

/-- A record of a step or unit (R470). -/
structure BrRec where
  last : Nat := 0
  alt : Nat := 0
  tries : Nat := 0
  fails : Nat := 0
  skip : Bool := false
deriving DecidableEq, Repr

/-- The bring-up sequencer. Records and runs are keyed by step and 0 for the step, 1 + unit for a unit of it. -/
structure Boot where
  recs : Map (Nat × Nat) BrRec := []
  /-- Alternative and attempt of what runs, PWR_WARN_NS when the attempt began; what has ended in this start; time taken by a step in
  us. -/
  running : Map (Nat × Nat) (Nat × Nat) := []
  warnAt : Map (Nat × Nat) Nat := []
  ended : List (Nat × Nat) := []
  duration : Map Nat Nat := []
  starts : Nat := 0
  lastReset : Nat := 0
  readyUs : Nat := 0
  startTime : Nat := 0
  safe : Bool := false
  restore : Bool := false
  clear : Bool := false
  /-- The dictionary serves every object (R415). -/
  full : Bool := false
  /-- A core reset follows the commit in progress (R470). -/
  restart : Bool := false
  /-- SPDM answers (BS21). -/
  spdm : Bool := false
  /-- BS16 has started: ports that pass VERIFY go on to AUTH. -/
  authOpen : Bool := false
deriving DecidableEq, Repr

/-- The whole device. -/
structure State where
  /-- The commands waiting, first in, first out. -/
  pending : List Instr := []
  /-- The model's own counter of free values (log 5). -/
  freeCount : Nat := 0
  /-- Device time in ns (spec/17 R467). -/
  time : Nat := 0
  /-- Fraction of a core cycle elapsed per field die, in thousandths (log 1). -/
  phase : List Nat := List.replicate 8 0
  fuses : Fuses := {}
  hif : Hif := {}
  dsp : Dsp := {}
  cores : Cores := {}
  mem : Mem := {}
  kv : Kv := {}
  /-- Loaded functions by slot 0 to 255 (spec/08 R229). -/
  fnSlots : Map Nat FnSlot := []
  /-- Frame-buffer pools as (base, bytes): Open, Secure (spec/13 R360). -/
  framePools : (Nat × Nat) × (Nat × Nat) := ((0, 0), (0, 0))
  sec : Sec := {}
  pwr : Pwr := {}
  lnk : Lnk := {}
  ing : Ing := {}
  vid : Vid := {}
  /-- Paced-output channels by number (spec/13 R370). -/
  pace : Map Nat PaceChan := []
  lines : Lines := {}
  /-- Plain RW registers by BAR0 address: the interrupt enables, the interrupt vectors, MEM_UE_ACK. -/
  regs : Map Nat Word32 := []
  /-- 64-bit counters by BAR0 address, and the dictionary's own by 0x1_0000_0000 + index * 256 + subindex. -/
  ctrs : Map Nat Word64 := []
  /-- Values of RW dictionary objects that differ from their defaults, by index and subindex. -/
  objs : Map (Nat × Nat) (List Byte) := []
  dict : Dict := {}
  store : Store := {}
  boot : Boot := {}
  evlog : EvLog := {}
  flt : Faults := {}
  /-- What the device has sent, oldest first (log 7). -/
  out : List OutMsg := []
deriving DecidableEq, Repr

/-- The device right after a power-on reset, before BS00: every field at its default. -/
def State.reset : State := {}

/-- The outcome of a command of this model. -/
abbrev Out := Host.Outcome State Fault Refusal

end Sys2Proof.Machine
end

