-- ==== Sys2Proof/Machine/Ops.lean ====
section
/-!
DEFINITION. The named operations over counters, registers, rings, regions, memory and the Granary that the meanings share
(spec/00 R10-R14; spec/10 R246-R259, R279-R281; spec/14 R380-R383; spec/16 R429-R437; spec/18 R489, R490).
-/
namespace Sys2Proof.Machine

/-! ### Addresses of the counters (BAR0; Tables 3.15, 5.12, 6.12, 8.10, 9.6, 10.17, 14.12, 16.10, 16.11) -/

def hifDbWrites : Nat := 0x4000
def hifDbDropped : Nat := 0x4008
def hifDbBad : Nat := 0x4010
def hifDescFetched : Nat := 0x4018
def hifCplWritten : Nat := 0x4020
def hifIrqSent : Nat := 0x4028
def hifIrqNovec : Nat := 0x4030
def hifRingStops : Nat := 0x4038
def hifCmdIgnored : Nat := 0x4040
def dspPlaced : Nat := 0x103008
def dspHeldCyc : Nat := 0x103010
def dspGleaned : Nat := 0x103018
def dspGleanedFar : Nat := 0x103020
def dspGleanEmpty : Nat := 0x103028
def dspSuspends : Nat := 0x103030
def dspPreemptRefused : Nat := 0x103038
def dspSpillBytes : Nat := 0x103040
def dspRestoreBytes : Nat := 0x103048
def dspPreemptLatMax : Nat := 0x103050
def dspReprioDenied : Nat := 0x103058
def grnHit : Nat := 0x202000
def grnMiss : Nat := 0x202008
def grnWriteback : Nat := 0x202010
def grnLastDrop : Nat := 0x202018
def atomGrn : Nat := 0x202020
def atomMc : Nat := 0x202028
def memCe : Nat := 0x202030
def memUeOpenCnt : Nat := 0x202038
def memPoisonRead : Nat := 0x202040
def memRemap : Nat := 0x202048
def scrubLines : Nat := 0x202050
def scrubForced : Nat := 0x202058
/-- Ingest, pyramid, codec and paced-output counters (spec/12 Table 12.11; spec/13 Table 13.10, R375). -/
def ingFrames : Nat := 0x508100
def ingPixels : Nat := 0x508108
def ingShort : Nat := 0x508110
def ingLong : Nat := 0x508118
def ingStaleDrops : Nat := 0x508120
def ingMissing : Nat := 0x508128
def ingCorrupt : Nat := 0x508130
def ingWaitNs : Nat := 0x508138
def pyrElems : Nat := 0x508140
def vdPictures : Nat := 0x500100
def vdErrorPictures : Nat := 0x500108
def vdPoolWaitNs : Nat := 0x500110
def veFrames : Nat := 0x500118
def veKeyFrames : Nat := 0x500120
def veBytes : Nat := 0x500128
def vidKeyReqDenied : Nat := 0x500130
def paceCtr (c off : Nat) : Nat := 0x50C100 + c * 0x40 + off
def paceEmitted : Nat := 0x00
def paceRepeated : Nat := 0x08
def paceDropped : Nat := 0x10
def paceOverrun : Nat := 0x18
def paceLate : Nat := 0x20
def pwrWakes : Nat := 0x600100
def pwrDrainCancel : Nat := 0x600108
def pwrGateFullNs : Nat := 0x600110
def pwrWarnEvents : Nat := 0x600118
def pwrWarnNs : Nat := 0x600120
def pwrThrottleNs : Nat := 0x600128
def pwrCurrentLimit : Nat := 0x600130
def pwrEnergyMj : Nat := 0x600138
def secDeniedOpen : Nat := 0x700100
def secRegionRefused : Nat := 0x700108
def secClearBytes : Nat := 0x700110
/-- A counter of port `p`, and one of the device (spec/11 Table 11.18). -/
def lnkPort (p off : Nat) : Nat := 0x402000 + p * 0x80 + off
def lnkTx : Nat := 0x00
def lnkRx : Nat := 0x08
def lnkFecCorr : Nat := 0x10
def lnkFecUncorr : Nat := 0x18
def lnkCrcFail : Nat := 0x20
def lnkAuthFail : Nat := 0x28
def lnkReplay : Nat := 0x30
def lnkRetrain : Nat := 0x38
def lnkHelloEarly : Nat := 0x40
def lnkBadType : Nat := 0x48
def lnkWinDrop : Nat := 0x404000
def lnkBadMsg : Nat := 0x404008
def lnkRouteDrop : Nat := 0x404010
def lnkDomainMismatch : Nat := 0x404018
def lnkFwdFlits : Nat := 0x404020
def lnkPeersLost : Nat := 0x404028
def copyBytes : Nat := 0x404030
def collDone : Nat := 0x404038
/-- A register of core `c`'s window (spec/03 R87). -/
def coreReg (c off : Nat) : Nat := 0x1000000 + c * 0x10000 + off
def coreCycStream : Nat := 0x1000
def coreCycLoad : Nat := 0x1008
def coreCycFeedWait : Nat := 0x1010
def coreCycDrainWait : Nat := 0x1018
def coreCycIdle : Nat := 0x1020
def coreCycHarrow : Nat := 0x1028
def coreTasksDone : Nat := 0x1030
def harProElems : Nat := 0x2008
def harDrainElems : Nat := 0x2010
def harRetKept : Nat := 0x2018
def harRetBacked : Nat := 0x2020
def harRetServed : Nat := 0x2028
def thrCandidates : Nat := 0x3008
def thrRows : Nat := 0x3010
def thrPartials : Nat := 0x3018
def harFuncElems : Nat := 0x3020
def harNormRows : Nat := 0x3028
def rngWords : Nat := 0x4008
def rngContexts : Nat := 0x4010
def rngSeedWait : Nat := 0x4018
def rngSampleRows : Nat := 0x4020
/-- A 64-bit object of the dictionary that counts. -/
def objCtr (idx sub : Nat) : Nat := 0x100000000 + idx * 256 + sub
def secUe : Nat := objCtr 0x7300 1
def secPoisonRead : Nat := objCtr 0x7300 2
def secDeniedIn : Nat := objCtr 0x7300 3
def secDeniedOut : Nat := objCtr 0x7300 4
def secClearBytesS : Nat := objCtr 0x7300 8
def telSramCe : Nat := objCtr 0x8010 1
def telSramUe : Nat := objCtr 0x8010 2
def telStagesFailed : Nat := objCtr 0x8010 3

/-- Counters that saturate at 2^64 - 1 (Tables 10.17, 14.12, R452, R453, R492). -/
def saturating (a : Nat) : Bool :=
  [hifDbDropped, hifDbBad, hifIrqNovec, hifCmdIgnored, memCe, memUeOpenCnt, memPoisonRead,
   secDeniedOpen, secRegionRefused, secClearBytes].contains a || decide (0x100000000 ≤ a)
    || (decide (0x402000 ≤ a) && decide (a < 0x403000) && [0x10, 0x18, 0x20, 0x28, 0x48].contains ((a - 0x402000) % 0x80))
    || [0x404000, 0x404008, 0x404010, 0x404018, 0x508120, 0x508128, 0x508130, 0x500108, 0x500130].contains a
    || (decide (0x50C100 ≤ a) && decide (a < 0x50C500) && decide (0x10 ≤ (a - 0x50C100) % 0x40))

/-- A counter's value. -/
def State.ctr (s : State) (a : Nat) : Word64 := s.ctrs.get 0 a

/-- The value of a counter after `n` more. -/
def ctrAdd (a : Nat) (v : Word64) (n : Nat) : Word64 :=
  if saturating a then BitVec.ofNat 64 (min (v.toNat + n) (2 ^ 64 - 1)) else v + BitVec.ofNat 64 n

/-- Add `n` to a counter. -/
def State.bump (s : State) (a n : Nat) : State :=
  { s with ctrs := s.ctrs.put a (ctrAdd a (s.ctr a) n) }

def State.tick1 (s : State) (a : Nat) : State := s.bump a 1

/-- Send something out of the device (log 7). -/
def State.emit (s : State) (m : OutMsg) : State := { s with out := s.out ++ [m] }

/-- A fresh index of free values (log 5). -/
def State.fresh (s : State) : Nat × State := (s.freeCount, { s with freeCount := s.freeCount + 1 })

/-! ### The event log (spec/18 R489, R490) -/

/-- The log after an event: merged into an entry of the last 1 ms, a new entry, an overwrite, or dropped. -/
def EvLog.record (l : EvLog) (now code source data : Nat) (secure : Bool) : EvLog :=
  let same := fun (e : LogEntry) =>
    e.code == code && e.source == source && e.data == data && e.secure == secure && decide (now ≤ e.time + 1000000)
  if l.entries.any same then
    { l with entries := l.entries.map (fun e => if same e then { e with count := min 65535 (e.count + 1) } else e) }
  else if (match l.lastTime with | none => false | some t => decide (now < t + 1000)) then
    { l with dropped := l.dropped + 1 }
  else
    let e : LogEntry := ⟨l.next, now, code, secure, 1, source, data⟩
    let full := decide (16384 ≤ l.entries.length)
    { l with
      entries := (if full then l.entries.drop 1 else l.entries) ++ [e]
      next := l.next + 1
      overwritten := if full then l.overwritten + 1 else l.overwritten
      lastTime := some now }

def State.log (s : State) (code source data : Nat) (secure : Bool := false) : State :=
  { s with evlog := s.evlog.record s.time code source data secure }

/-- The store becomes PENDING by a change of a persistent object (spec/15 R424). -/
def State.touchStore (s : State) : State :=
  if s.store.absent ∨ s.store.failed then s else { s with store := { s.store with pending := true } }

/-! ### Dictionary values (spec/15; the full table stands in Dictionary.lean) -/

/-- The value of an RW object, as a number, or its default. -/
def State.obj (s : State) (idx sub dflt : Nat) : Nat :=
  match s.objs.find (idx, sub) with
  | none => dflt
  | some b => ofLE b

def placeDepth (s : State) : Nat := s.obj 0x4010 1 2
def gleanDepth (s : State) : Nat := s.obj 0x4010 2 2
def gleanReach (s : State) : Nat := s.obj 0x4010 3 1
def gleanEnable (s : State) : Bool := s.obj 0x4010 4 1 != 0

/-! ### Grade (spec/00 R1-R3) -/

/-- Number of enabled cores. -/
def State.coreCount (s : State) : Nat := if s.fuses.gradeB then 88 else 96

/-! ### Registers (spec/00 R10-R14) -/

/-- The value of a register after a write through a view; `rw` marks its RW bits (R10, R11). -/
def viewWrite (v : View) (old value rw : Word32) : Word32 :=
  let new := match v with
    | .plain => value
    | .set => old ||| value
    | .clear => old &&& ~~~value
    | .toggle => old ^^^ value
  (old &&& ~~~rw) ||| (new &&& rw)

def State.reg (s : State) (a : Nat) : Word32 := s.regs.get 0 a
def State.setReg (s : State) (a : Nat) (v : Word32) : State := { s with regs := s.regs.put a v }

/-! ### Functions and rings (spec/14 R380-R383, spec/16 R429) -/

def State.ring (s : State) (r : Nat) : Ring := s.hif.rings.get {} r
def State.setRing (s : State) (r : Nat) (x : Ring) : State :=
  { s with hif := { s.hif with rings := s.hif.rings.put r x } }
def State.fn (s : State) (f : Nat) : FnEntry := s.hif.fns.get {} f
def State.tdi (s : State) (f : Nat) : TdState := s.hif.td.get .unlocked f

/-- The function that owns a ring (R381): the VF whose range holds it, else the PF. -/
def State.owner (s : State) (r : Nat) : Nat :=
  match s.hif.fns.find? (fun p => p.1 != 0 && decide (p.2.ringBase ≤ r) && decide (r < p.2.ringBase + p.2.ringCount)) with
  | some p => p.1
  | none => 0

/-- Rings with a table entry other than the default, owned by a function. -/
def State.ringsOf (s : State) (f : Nat) : List Nat :=
  (s.hif.rings.map Prod.fst).filter (fun r => s.owner r == f)

/-- The world a function holds (Table 16.1). -/
def State.fnSecure (s : State) (f : Nat) : Bool := f != 0 && s.tdi f == .run

/-- The ring a BAR2 page of a function reaches (Table 14.2), if any. -/
def State.pageRing (s : State) (f page : Nat) : Option Nat :=
  if f = 0 then (if page < 65536 then some page else none)
  else if page < (s.fn f).ringCount then some ((s.fn f).ringBase + page) else none

/-- Whether a request of a function in RUN is refused because it does not arrive on its bound IDE stream (R441). -/
def State.ideRefused (s : State) (f : Nat) (ide : Bool) : Bool :=
  s.fnSecure f && !(ide && s.sec.ide.any (fun p => p.2.vfs.contains f && !p.2.failed))

/-- Entries of a ring (R384). -/
def Ring.entries (r : Ring) : Nat := 2 ^ r.log2

/-- A register of a function's configuration space; every bit that software sets is 0 after reset (PRESUMED, log 54). -/
def State.cfgReg (s : State) (f : Nat) (r : ConfigReg) : Word32 := s.hif.cfg.get 0 (f, r)
def State.setCfg (s : State) (f : Nat) (r : ConfigReg) (v : Word32) : State :=
  { s with hif := { s.hif with cfg := s.hif.cfg.put (f, r) v } }

/-- MSI-X Enable and Function Mask of a function (R383): bits 31 and 30 of the word that holds Message Control (PRESUMED, log 54). -/
def State.msixEnabled (s : State) (f : Nat) : Bool := (s.cfgReg f .msixControl).getLsbD 31
def State.msixMasked (s : State) (f : Nat) : Bool := (s.cfgReg f .msixControl).getLsbD 30

/-- Note an error in a function's uncorrectable error status (Table 14.1, Advanced Error Reporting). -/
def State.aer (s : State) (f i : Nat) : State :=
  s.setCfg f .aerUncorrectable (s.cfgReg f .aerUncorrectable ||| BitVec.ofNat 32 (2 ^ i))

/-- Poisoned TLP Received and Unsupported Request Error of that status (PRESUMED, log 54). -/
def aerPoisoned : Nat := 12
def aerUnsupported : Nat := 20

/-- Count a request refused under R441: it is completed with Unsupported Request. -/
def State.ideRefuse (s : State) (f : Nat) : State := (s.tick1 secDeniedOpen).aer f aerUnsupported

/-- Send an MSI-X message on an entry of a function (R383): not sent while MSI-X is not enabled; pending while the entry or the
function is masked. -/
def State.msix (s : State) (f v : Nat) : State :=
  if (if f = 0 then 2048 else 32) ≤ v then s.tick1 hifIrqNovec
  else if !s.msixEnabled f then s
  else
    let e := s.hif.msix.get {} (f, v)
    if e.masked || s.msixMasked f then
      { s with hif := { s.hif with msix := s.hif.msix.put (f, v) { e with pending := true } } }
    else (s.tick1 hifIrqSent).emit (.msix f v e.addr e.data)

/-! ### Stages -/

def State.stage (s : State) (n : Nat) : Option Stage := s.dsp.stages.find n
def State.setStage (s : State) (n : Nat) (x : Stage) : State :=
  { s with dsp := { s.dsp with stages := s.dsp.stages.put n x } }
def State.core (s : State) (c : Nat) : Core := s.cores.core.get {} c
def State.setCore (s : State) (c : Nat) (x : Core) : State :=
  { s with cores := { s.cores with core := s.cores.core.put c x } }

/-- Raise flags of a stage (spec/02 R51). -/
def State.raise (s : State) (n : Nat) (f : Flags) : State :=
  match s.stage n with
  | none => s
  | some st => if f = 0 then s else s.setStage n { st with flags := st.flags ||| f }

/-- Note a status that the end of a stage reports (spec/04 R102). -/
def State.meet (s : State) (n : Option Nat) (status : Nat) : State :=
  match n with
  | none => s
  | some n => match s.stage n with
    | none => s
    | some st => if st.met.contains status then s else s.setStage n { st with met := st.met ++ [status] }

/-! ### The address map (spec/10 R246-R250) -/

/-- Where a local address lies (Table 10.1). -/
inductive Place where
  | hbm (hub : Nat) | gddr (hub : Nat) | reserved | host
deriving DecidableEq, Repr

/-- Bytes of a hub's GDDR7 range less the spare band, for its density (Tables 10.1, 10.11); none when not in service. -/
def State.g7Bytes (s : State) (hub : Nat) : Nat :=
  let d := if s.mem.g7Rate.getD hub 0 = 0 then 0 else s.mem.g7Density.getD hub 0
  if d = 16 then 2 ^ 35 - 2 ^ 26 else if d = 24 then 3 * 2 ^ 34 - 2 ^ 26 else if d = 32 then 2 ^ 36 - 2 ^ 26 else 0

def State.place (s : State) (a : Nat) : Place :=
  if 2 ^ 47 ≤ a then (if a < 2 ^ 48 then .host else .reserved)
  else if a < 2 ^ 38 - 2 ^ 24 then .hbm 0
  else if a < 2 ^ 38 then .reserved
  else if a < 2 ^ 39 - 2 ^ 24 then .hbm 1
  else if a < 2 ^ 39 then .reserved
  else if a < 2 ^ 39 + s.g7Bytes 0 then .gddr 0
  else if a < 2 ^ 39 + 2 ^ 36 then .reserved
  else if a < 2 ^ 39 + 2 ^ 36 + s.g7Bytes 1 then .gddr 1
  else .reserved

/-- Hub die of an address. -/
def hubOf (a : Nat) : Nat :=
  if a < 2 ^ 38 then 0 else if a < 2 ^ 39 then 1 else if a < 2 ^ 39 + 2 ^ 36 then 0 else 1

/-- Memory unit of a line number (R249, R250, R285). -/
def unitOf (l : Nat) : Nat :=
  let a := l * 256
  if a < 2 ^ 39 then 4 * hubOf a + ((bits l 0 2) ^^^ (bits l 8 2) ^^^ (bits l 16 2))
  else 8 + 8 * hubOf a + ((bits l 0 3) ^^^ (bits l 8 3) ^^^ (bits l 16 3))

/-- Row number of a line within its unit (R250). -/
def rowOf (l : Nat) : Nat :=
  if l * 256 < 2 ^ 39 then
    ((bits l 2 6) ^^^ (bits l 10 6) ^^^ (bits l 18 6)) * 2 ^ 20 + (bits l 8 22) / 4
  else (((l * 256 - 2 ^ 39) % 2 ^ 36) / 2048) / 8

/-- Set of a line in its Granary half (R252). -/
def setOf (l : Nat) : Nat := (l ^^^ (l >>> 15) ^^^ (l >>> 30)) % 32768

def State.unit (s : State) (u : Nat) : MemUnit := s.mem.units.get {} u
def State.setUnit (s : State) (u : Nat) (x : MemUnit) : State :=
  { s with mem := { s.mem with units := s.mem.units.put u x } }

/-! ### Bytes of memory -/

/-- What a byte that nothing has written reads as (log 10). -/
def unlisted : Byte := 0#8

/-- A byte of memory at rest. -/
def cellGet : List Host.Cell → Nat → Byte
  | [], _ => unlisted
  | (b, v) :: rest, a => if b = a then v else if a < b then unlisted else cellGet rest a

/-- Write a byte of memory at rest, keeping the canonical form: rising addresses, no byte equal to what an unlisted one
reads as. -/
def cellPut : List Host.Cell → Nat → Byte → List Host.Cell
  | [], a, v => if v = unlisted then [] else [(a, v)]
  | (b, w) :: rest, a, v =>
    if a < b then (if v = unlisted then (b, w) :: rest else (a, v) :: (b, w) :: rest)
    else if a = b then (if v = unlisted then rest else (a, v) :: rest)
    else (b, w) :: cellPut rest a v

/-- Write bytes from an address on. -/
def cellsPut (m : List Host.Cell) (a : Nat) (bs : List Byte) : List Host.Cell :=
  match bs with
  | [] => m
  | b :: rest => cellsPut (cellPut m a b) (a + 1) rest

/-- Set every byte of `[a, a + n)` to zero: drop the listed cells of the range. -/
def cellsZero (m : List Host.Cell) (a n : Nat) : List Host.Cell :=
  m.filter (fun c => !(decide (a ≤ c.1) && decide (c.1 < a + n)))

/-- Rising addresses, the first above `lo` when given. -/
def cellsRising : Option Nat → List Host.Cell → Bool
  | _, [] => true
  | lo, (a, v) :: rest =>
    (match lo with | none => true | some x => decide (x < a)) && v != unlisted && cellsRising (some a) rest

/-- The canonical form of memory. -/
def Memory.wf (m : List Host.Cell) : Bool := cellsRising none m

/-- The resident line of a line number, if any. -/
def State.resident (s : State) (l : Nat) : Option GLine := s.mem.lines.find? (fun g => g.line == l)

/-- The newest write of a byte within a line's dirty bytes. -/
def dirtyGet : List Host.Cell → Nat → Option Byte
  | [], _ => none
  | (b, v) :: rest, a => if b = a then some v else dirtyGet rest a

/-- A byte as every requester finds it (R251, R259): the resident line first, then memory. -/
def State.peek (s : State) (a : Nat) : Byte :=
  match s.resident (a / 256) with
  | none => cellGet s.mem.cells a
  | some g => (dirtyGet g.dirty a).getD (cellGet s.mem.cells a)

/-- Bytes as every requester finds them. -/
def State.peeks (s : State) (a n : Nat) : List Byte := (List.range n).map (fun i => s.peek (a + i))

/-- Whether a line is poisoned, resident or at rest (R279). -/
def State.poisoned (s : State) (l : Nat) : Bool :=
  match s.resident l with
  | some g => g.poison
  | none => s.mem.poison.contains l

/-! ### Regions and the hedgerow (spec/16 R432-R437) -/

def State.region (s : State) (i : Nat) : Region := s.sec.regions.get {} i
def State.setRegion (s : State) (i : Nat) (x : Region) : State :=
  { s with sec := { s.sec with regions := s.sec.regions.put i x } }

def Region.lo (r : Region) : Nat := r.base * 2 ^ 21
def Region.hi (r : Region) : Nat := (r.base + r.size) * 2 ^ 21

/-- The VALID descriptor that holds an address. -/
def State.regionAt (s : State) (a : Nat) : Option (Nat × Region) :=
  s.sec.regions.find? (fun p => p.2.valid && decide (p.2.lo ≤ a) && decide (a < p.2.hi))

/-- Whether a function number passes row 6 of Table 16.3. -/
def ownerPasses (owner fn : Nat) : Bool :=
  fn == 0x7F || owner == 0 || (owner == 0x41 && fn == 0) || (owner == fn && decide (1 ≤ fn) && decide (fn ≤ 64))

/-- Rows 2 to 6 of Table 16.3 for one address: 0 passes, else the status. -/
def hedge (r : Option Region) (secure : Bool) (fn : Nat) : Nat :=
  match r with
  | none => 3
  | some g =>
    if g.clearing then 4
    else if !secure && g.secure then 4
    else if secure && !g.secure && !g.shared then 4
    else if !ownerPasses g.owner fn then 4
    else 0

/-! ### Extents held by the device (spec/07 R186, spec/13 R360) -/

/-- Bytes of a page frame (spec/07 R187). -/
def State.kvFrame (s : State) : Nat := s.kv.p * (2 * s.kv.d * (if s.kv.fmt = 3 then 2 else 1) + 8) + 512

/-- The extents that no stage, host or peer reaches, as (base, bytes): the accepted key-value extents and the spill areas
(spec/06 R161). -/
def State.kvExtents (s : State) : List (Nat × Nat) :=
  [s.kv.openPool.hbm, s.kv.openPool.g7, s.kv.secPool.hbm, s.kv.secPool.g7].map (fun e => (e.1, e.2 * s.kvFrame))
    ++ s.mem.spillBase.map (fun b => (b, 1152 * 2 ^ 20))

def State.poolExtents (s : State) : List (Nat × Nat) := [s.framePools.1, s.framePools.2]

/-- Whether `[a, a + n)` touches one of some extents. -/
def touches (es : List (Nat × Nat)) (a n : Nat) : Bool :=
  es.any (fun e => decide (0 < e.2) && decide (a < e.1 + e.2) && decide (e.1 < a + n))

/-- Send the Secure notification of R451. -/
def State.notifySecure (s : State) : State :=
  let f := s.obj 0x7030 1 0
  if 1 ≤ f ∧ f ≤ 64 ∧ s.tdi f = .run then s.msix f (s.obj 0x7030 2 0) else s

/-- Log a denial, merged with one of the same requester against the same descriptor within 1 ms (R437). -/
def State.logDenial (s : State) (fn : Nat) (secure : Bool) (desc addr : Nat) : State :=
  let old := s.sec.denials.find? (fun d =>
    d.1 == fn && d.2.1 == secure && d.2.2.1 == desc &&
      s.evlog.entries.any (fun e => e.seq == d.2.2.2 && decide (s.time ≤ e.time + 1000000)))
  match old with
  | some d =>
    { s with evlog := { s.evlog with entries := s.evlog.entries.map (fun e =>
        if e.seq == d.2.2.2 then { e with count := min 65535 (e.count + 1) } else e) } }
  | none =>
    let n := s.evlog.next
    let s := s.log 0x0301 fn addr secure
    { s with sec := { s.sec with denials :=
        (fn, secure, desc, n) :: s.sec.denials.filter (fun d => !(d.1 == fn && d.2.1 == secure && d.2.2.1 == desc)) } }

/-- Count and log a denial of Table 16.3 (R437, R451, R452): Open requests at Open targets, at Secure targets, and Secure
requests. -/
def State.deny (s : State) (secure : Bool) (fn addr : Nat) : State :=
  match s.regionAt addr with
  | none => s
  | some (i, g) =>
    let s := s.logDenial fn secure i addr
    if secure then (s.tick1 secDeniedOut).notifySecure
    else if g.secure then (s.tick1 secDeniedIn).notifySecure
    else s.tick1 secDeniedOpen

/-- The world of the spill frame that holds an address of a spill area (spec/06 R161): Secure where the frame is free. -/
def State.frameSecure (s : State) (hub a : Nat) : Bool :=
  let off := a - s.mem.spillBase.getD hub 0
  match (s.core (48 * hub + off / (24 * 2 ^ 20))).frames.getD (off / (3 * 2 ^ 20) % 8) none with
  | some (.task _ secure _ _) => secure
  | some (.tiles secure _ _ _) => secure
  | none => true

/-- The world that owns a line (spec/10 R278): that of the key-value pool, the spill frame or the region that holds it, Secure in
none. -/
def State.lineSecure (s : State) (l : Nat) : Bool :=
  let a := l * 256
  if touches ([s.kv.openPool.hbm, s.kv.openPool.g7].map (fun e => (e.1, e.2 * s.kvFrame))) a 256 then false
  else if touches ([s.kv.secPool.hbm, s.kv.secPool.g7].map (fun e => (e.1, e.2 * s.kvFrame))) a 256 then true
  else if touches (s.mem.spillBase.map (fun b => (b, 1152 * 2 ^ 20))) a 256 then s.frameSecure (hubOf a) a
  else match s.regionAt a with
    | none => true
    | some (_, g) => g.secure

/-! ### The Granary (spec/10 R252-R258) -/

/-- What a way of a set holds (R258): a world's part of the windrow partition, the Secure part first, from way 11 downward and set 0
upward in each half; none for the cache. -/
def State.wayPart (s : State) (set way : Nat) : Option Bool :=
  let mib := (11 - way) * 8 + set / 4096
  if mib < s.mem.windrowSecureMib / 2 then some true else if mib < s.mem.windrowMib / 2 then some false else none

/-- Ways of a set left to the cache (R253, R258). -/
def State.cacheWays (s : State) (set : Nat) : Nat := ((List.range 12).filter (fun w => (s.wayPart set w).isNone)).length

/-- Poison leaves a line at rest (R281). -/
def State.clearPoison (s : State) (l : Nat) : State :=
  { s with mem := { s.mem with
      poison := s.mem.poison.filter (· != l)
      units := s.mem.units.map (fun p => (p.1, { p.2 with poisonTable := p.2.poisonTable.filter (· != l) })) } }

/-- Write a line's dirty bytes back to memory, whole, which clears poison at its place; GRN_WRITEBACK counts it. A line of a unit
out of service is discarded and logged (spec/18 R484). -/
def State.writeback (s : State) (g : GLine) : State :=
  if g.dirty = [] then s
  else if (s.unit (unitOf g.line)).st = .out then s.log 0x0107 (unitOf g.line) 1
  else
    let cells := g.dirty.foldr (fun c m => cellPut m c.1 c.2) s.mem.cells
    (({ s with mem := { s.mem with cells := cells } }).clearPoison g.line).tick1 grnWriteback

/-- The line with the given number leaves the Granary. -/
def State.dropLine (s : State) (l : Nat) : State :=
  { s with mem := { s.mem with lines := s.mem.lines.filter (fun g => g.line != l) } }

/-- The victim of an allocation in a full set (R253): STREAM, NORMAL, KEEP, least recently used first; a dirty line of a unit
out of service last (spec/18 R484). -/
def State.victim (s : State) (ls : List GLine) : Option GLine :=
  let free := ls.filter (fun g => g.dirty = [] || (s.unit (unitOf g.line)).st != .out)
  let ls := if free = [] then ls else free
  match ls.find? (fun g => g.cls == .stream) with
  | some g => some g
  | none => match ls.find? (fun g => g.cls == .normal) with
    | some g => some g
    | none => ls.head?

/-- Evict a line: written back when dirty, dropped. -/
def State.evict (s : State) (g : GLine) : State := (s.writeback g).dropLine g.line

/-- Make room for a line of a class in its set (R253). -/
def State.makeRoom (s : State) (l : Nat) (cls : LineClass) : State :=
  let set := setOf l
  let hub := hubOf (l * 256)
  let ls := s.mem.lines.filter (fun g => setOf g.line == set && hubOf (g.line * 256) == hub)
  let ways := s.cacheWays set
  let keepLimit := min (s.obj 0x6000 2 8) (ways - 1)
  let keeps := ls.filter (fun g => g.cls == .keep)
  if cls = .keep ∧ keepLimit ≤ keeps.length then
    match keeps.head? with | some g => s.evict g | none => s
  else if ways ≤ ls.length then
    match s.victim ls with | some g => s.evict g | none => s
  else s

/-- The class a hint allocates (Table 10.6); KEEP acts as none with MEM_KEEP_MAX_WAYS at 0 (R253). -/
def State.hintClass (s : State) (hint : Nat) : Option LineClass :=
  if hint = 1 then some .stream
  else if hint = 2 ∧ s.obj 0x6000 2 8 ≠ 0 then some .keep
  else none

/-- Place a line in the recency order: STREAM least, others most recently used (Table 10.6). -/
def placeLine (g : GLine) (ls : List GLine) : List GLine :=
  if g.cls = .stream then g :: ls else ls ++ [g]

/-- A line becomes resident, clean (R253, R255); `reader` marks it when read with LAST (R256). -/
def State.allocate (s : State) (l hint : Nat) (mark : Option Nat) : State :=
  let cls := (s.hintClass hint).getD .normal
  let s := s.makeRoom l cls
  let g : GLine := { line := l, secure := s.lineSecure l, cls := cls, poison := s.mem.poison.contains l
                     mark := mark }
  { s with mem := { s.mem with lines := placeLine g s.mem.lines } }

/-- A hit: recency, class and mark by Table 10.6; a write without LAST clears another stage's mark (R256). -/
def State.hit (s : State) (g : GLine) (hint : Nat) (who : Option Nat) (isWrite : Bool) : State :=
  let cls := (s.hintClass hint).getD g.cls
  let mark :=
    if hint = 3 ∧ who.isSome then who
    else if isWrite && g.mark.isSome && g.mark != who then none else g.mark
  let g' := { g with cls := cls, mark := mark }
  let rest := s.mem.lines.filter (fun x => x.line != g.line)
  { s with mem := { s.mem with lines := if s.hintClass hint = some .stream then g' :: rest else rest ++ [g'] } }

/-- A read of a line by a permitted requester, as far as the Granary goes: counters, allocation, recency, mark. -/
def State.touchRead (s : State) (l hint : Nat) (who : Option Nat) : State :=
  match s.resident l with
  | some g => (s.tick1 grnHit).hit g hint who false
  | none => (s.tick1 grnMiss).allocate l hint (if hint = 3 then who else none)

/-- Store the bytes that lie in a resident line: they become its newest dirty bytes. -/
def State.storeLine (s : State) (l a : Nat) (bs : List Byte) (clean : Bool) : State :=
  let new := ((List.range bs.length).map (fun i => (a + i, bs.getD i 0))).filter (fun c => c.1 / 256 == l)
  { s with mem := { s.mem with
      lines := s.mem.lines.map (fun g =>
        if g.line == l then
          { g with dirty := new ++ (g.dirty.filter (fun c => !(decide (a ≤ c.1) && decide (c.1 < a + bs.length))))
                   poison := if clean then false else g.poison }
        else g) } }

/-- A write within one line by a permitted requester (R254, R281): the bytes, or nothing where a partial write meets poison.
The Boolean tells whether it was discarded. -/
def State.touchWrite (s : State) (l a : Nat) (bs : List Byte) (hint : Nat) (who : Option Nat) : Bool × State :=
  let whole := a % 256 == 0 && bs.length == 256
  if s.poisoned l && !whole then (true, s)
  else
    let s := match s.resident l with
      | some g => (s.tick1 grnHit).hit g hint who true
      | none => (s.tick1 grnMiss).allocate l hint none
    let s := if whole then s.clearPoison l else s
    (false, s.storeLine l a bs whole)

/-- Count a read of a poisoned line (R286, R451; spec/18 Table 18.7). -/
def State.poisonRead (s : State) (secure : Bool) (fn a : Nat) : State :=
  let s := s.log 0x0102 fn a secure
  if secure then (s.tick1 secPoisonRead).notifySecure else s.tick1 memPoisonRead

/-- The pieces of an extent that lie in one line each: address and length; `fuel` bounds the lines. -/
def linePieces : Nat → Nat → Nat → List (Nat × Nat)
  | 0, _, _ => []
  | fuel + 1, a, n =>
    if n = 0 then []
    else
      let k := min n (256 - a % 256)
      (a, k) :: linePieces fuel (a + k) (n - k)

/-- The IDE stream, with its T bit, on which a request of a function to the host window leaves: that of a VF in RUN (spec/16 R441). -/
def State.hostStream (s : State) (fn : Nat) : Option Nat :=
  if fn != 0 && s.tdi fn == .run then (s.sec.ide.find? (fun p => p.2.vfs.contains fn && !p.2.failed)).map Prod.fst else none

/-- Host-window requests of a VF in RUN with no bound IDE stream are handled as rejected (spec/16 R441). -/
def State.hostBlocked (s : State) (fn : Nat) : Bool := fn != 0 && s.tdi fn == .run && (s.hostStream fn).isNone

/-- Requests to a line's unit wait: it retrains, or the line's row is being copied (R264, R272). -/
def State.lineHeld (s : State) (l : Nat) : Bool :=
  let x := s.unit (unitOf l)
  x.st == .retraining || (x.st != .out && x.copying.head? == some (rowOf l))

/-- A line that is not resident and whose unit does not answer for now, and one whose unit has left service (spec/18 R484). -/
def State.lineAway (s : State) (l : Nat) : Bool := s.lineHeld l && (s.resident l).isNone
def State.lineOut (s : State) (l : Nat) : Bool := (s.unit (unitOf l)).st == .out && (s.resident l).isNone

/-- The command under way waits for a line (log 65). -/
def State.stall (s : State) : State := { s with mem := { s.mem with stalled := true } }

/-- Bytes as the home half decrypts them: those of a line that is not resident and stands under another key are unrelated to what was
written (R283). -/
def State.plain (s : State) (a n : Nat) : List Byte :=
  if touches s.mem.rekeyed a n ∧ (s.resident (a / 256)).isNone then (List.range n).map (fun i => Config.otherKey s.sec.memKeyGen (a + i))
  else s.peeks a n

/-- A line as its stack or channel holds it: under the key of the world that owns it, its local address the tweak (R282). -/
def State.cipherLine (s : State) (l : Nat) : List Byte :=
  Config.xts s.sec.memKeyGen (s.lineSecure l) (l * 256) ((List.range 256).map (fun i => cellGet s.mem.cells (l * 256 + i)))

/-- Read one piece within a line through its home half (R251, R254): its bytes, whether it met poison, the state. A unit that has left
service answers with poison. -/
def State.lineGet (s : State) (a n hint : Nat) (mark : Option Nat) : List Byte × Bool × State :=
  let l := a / 256
  let zeros := List.replicate n 0#8
  if s.lineAway l then (zeros, false, s.stall)
  else if s.lineOut l then (zeros, true, s.tick1 grnMiss)
  else if s.poisoned l then (zeros, true, s.touchRead l hint mark)
  else (s.plain a n, false, s.touchRead l hint mark)

/-- Bytes that stage `n` reads outside the hedgerow: key-value pages and spill frames (R251, R437; Table 10.13). Zeros where a line is
poisoned, which is logged, counted and reported. -/
def State.innerRead (s : State) (n a len hint : Nat) : List Byte × State :=
  (linePieces (len / 256 + 2) a len).foldl (fun (acc : List Byte × State) p =>
    let (bs, bad, s) := acc.2.lineGet p.1 p.2 hint (some n)
    (acc.1 ++ bs, if bad then
        (match s.stage n with
          | none => s
          | some st => s.poisonRead st.secure st.fn p.1).meet (some n) 8
      else s)) ([], s)

/-- A byte range of a line is written by stage `n` (spec/04 R114): where a stage of another ring has written in the same 64-byte block
since this one did, what this one wrote there before is written again, so that the bytes both wrote are of one stage. -/
def State.shareBlock (s : State) (n a : Nat) (bs : List Byte) : State :=
  let ring := ((s.stage n).map Stage.ring).getD 0
  let here := fun (x : Share) => x.block == a / 64
  let mine := fun (x : Share) => here x && x.stage == some n
  let foreign := fun (x : Share) => here x && x.ring != ring
  let old := ((s.mem.shares.find? mine).map Share.cells).getD []
  let old := old.filter (fun c => c.1 / 64 == a / 64 && !(decide (a ≤ c.1) && decide (c.1 < a + bs.length)))
  let late := (s.mem.shares.dropWhile (fun x => !mine x)).any foreign
  let rest := s.mem.shares.filter (fun x => !mine x)
  let new := (List.range bs.length).map (fun i => (a + i, bs.getD i 0))
  let s := { s with mem := { s.mem with shares :=
      if bs.length == 64 && !(rest.any foreign) then rest else rest ++ [⟨a / 64, ring, some n, old ++ new⟩] } }
  if late then old.foldl (fun s c => s.storeLine (a / 256) c.1 [c.2] false) s else s

/-- The pieces of an extent that lie in one aligned 64-byte block each. -/
def blockPieces : Nat → Nat → Nat → List (Nat × Nat)
  | 0, _, _ => []
  | fuel + 1, a, n =>
    if n = 0 then []
    else
      let k := min n (64 - a % 64)
      (a, k) :: blockPieces fuel (a + k) (n - k)

/-- The blocks of a write within a line by a requester. -/
def State.share (s : State) (who : Option Nat) (a : Nat) (bs : List Byte) : State :=
  match who with
  | none => s
  | some n => (blockPieces (bs.length / 64 + 2) a bs.length).foldl (fun s p => s.shareBlock n p.1 ((bs.drop (p.1 - a)).take p.2)) s

/-- A completed stage writes no more: its blocks stay as long as another stage that runs has written in them. -/
def State.endShares (s : State) (n : Nat) : State :=
  let xs := s.mem.shares.map (fun x => if x.stage = some n then { x with stage := none } else x)
  { s with mem := { s.mem with shares := xs.filter (fun x => xs.any (fun y => y.block == x.block && y.stage.isSome)) } }

/-- Read one piece within a line for a requester (R280, R437; spec/14 R382): bytes, the status met, the state. -/
def State.readPiece (s : State) (who : Requester) (a n hint : Nat) : List Byte × Nat × State :=
  let l := a / 256
  let zeros := List.replicate n 0#8
  match s.place a with
  | .host =>
    if s.hostBlocked who.fn then (zeros, 8, s.poisonRead who.secure who.fn a)
    else
      let s := s.emit (.hostRead who.fn (a - 2 ^ 47) n (s.hostStream who.fn))
      if s.mem.hostBad.contains l then (zeros, 8, s.poisonRead who.secure who.fn a) else (s.peeks a n, 0, s)
  | .reserved => (zeros, 3, s)
  | _ =>
    let st := if touches s.kvExtents a n then 3 else hedge ((s.regionAt a).map Prod.snd) who.secure who.fn
    if st ≠ 0 then (zeros, st, if st = 4 then s.deny who.secure who.fn a else s)
    else
      let (bs, bad, s) := s.lineGet a n hint who.stage
      (bs, if bad then 8 else 0, if bad then s.poisonRead who.secure who.fn a else s)

/-- Read an extent for a stage or engine; statuses met are noted at the stage (R102, R280). -/
def State.readFor (s : State) (who : Requester) (a n hint : Nat) : List Byte × State :=
  (linePieces (n / 256 + 2) a n).foldl (fun (acc : List Byte × State) p =>
    let (bs, st, s') := acc.2.readPiece who p.1 p.2 hint
    (acc.1 ++ bs, if st = 0 then s' else s'.meet who.stage st)) ([], s)

/-- Write one piece within a line for a requester (R281, R437; spec/14 R382): the status met and the state. -/
def State.writePiece (s : State) (who : Requester) (a : Nat) (bs : List Byte) (hint : Nat) : Nat × State :=
  let l := a / 256
  match s.place a with
  | .host =>
    if s.mem.hostBad.contains l || s.hostBlocked who.fn then (8, s)
    else (0, ({ s with mem := { s.mem with cells := cellsPut s.mem.cells a bs } }).emit (.hostWrite who.fn (a - 2 ^ 47) bs (s.hostStream who.fn)))
  | .reserved => (3, s)
  | _ =>
    let st := if touches s.kvExtents a bs.length || touches s.poolExtents a bs.length then 3
      else hedge ((s.regionAt a).map Prod.snd) who.secure who.fn
    if st ≠ 0 then (st, if st = 4 then s.deny who.secure who.fn a else s)
    else if s.lineAway l then (0, s.stall)
    else if s.lineOut l then (8, s)
    else
      let (discarded, s') := s.touchWrite l a bs hint who.stage
      (if discarded then 8 else 0, if discarded then s' else s'.share who.stage a bs)

/-- Write an extent for a stage or engine; statuses met are noted at the stage. -/
def State.writeFor (s : State) (who : Requester) (a : Nat) (bs : List Byte) (hint : Nat) : State :=
  (linePieces (bs.length / 256 + 2) a bs.length).foldl (fun s p =>
    let (st, s') := s.writePiece who p.1 ((bs.drop (p.1 - a)).take p.2) hint
    if st = 0 then s' else s'.meet who.stage st) s

/-- The requester a stage is (R430). -/
def Stage.who (st : Stage) (n : Nat) : Requester := ⟨st.secure, st.fn, some n⟩

/-- A device-internal write of memory outside the hedgerow (R437): spill frames, key-value pages, clearing, status records. -/
def State.writeRaw (s : State) (a : Nat) (bs : List Byte) : State :=
  (linePieces (bs.length / 256 + 2) a bs.length).foldl (fun s p =>
    if s.lineAway (p.1 / 256) then s.stall
    else if s.lineOut (p.1 / 256) then s
    else (s.touchWrite (p.1 / 256) p.1 ((bs.drop (p.1 - a)).take p.2) 0 none).2) s

/-- Whether a range meets a poisoned line. -/
def State.poisonIn (s : State) (a n : Nat) : Bool :=
  (linePieces (n / 256 + 2) a n).any (fun p => s.poisoned (p.1 / 256) || s.mem.hostBad.contains (p.1 / 256))

/-! ### Extents (spec/04 R98 checks 5 to 7; spec/10 R248; spec/16 R437) -/

/-- The descriptors that cover `[a, e)` one after another; `none` where a gap is met. -/
def State.covering (s : State) : Nat → Nat → Nat → Option (List Region)
  | 0, _, _ => none
  | fuel + 1, a, e =>
    if e ≤ a then some []
    else match s.regionAt a with
      | none => none
      | some (_, g) => (s.covering fuel g.hi e).map (g :: ·)

/-- Whether a local extent lies wholly in device memory in service or wholly in the host window (R248). -/
def State.inMemory (s : State) (a n : Nat) : Bool :=
  let e := a + n
  if 2 ^ 47 ≤ a then decide (e ≤ 2 ^ 48)
  else
    let p := s.place a
    let hub := hubOf a
    p != .reserved && s.place (e - 1) == p && decide (e ≤ 2 ^ 47) && s.mem.inService.getD hub false

/-- Checks 6 and 7 of Table 4.6 for one local extent: 0, or REGION_FAULT 3, or WORLD_DENIED 4. `tag` is the tensor's world tag,
`dest` marks a destination (spec/13 R360). -/
def State.extentCheck (s : State) (secure tag : Bool) (fn a n : Nat) (dest : Bool := false) : Nat :=
  if !s.inMemory a n || touches s.kvExtents a n || (dest && touches s.poolExtents a n) then 3
  else if 2 ^ 47 ≤ a then (if tag && !secure then 4 else 0)
  else match s.covering 257 a (a + n) with
    | none => 3
    | some gs =>
      if tag && !secure then 4
      else if gs.any (fun g => g.clearing || !ownerPasses g.owner fn) then 4
      else if tag then (if gs.all (fun g => g.secure || g.shared) then 0 else 4)
      else if secure then (if gs.all (fun g => !g.secure && g.shared) then 0 else 4)
      else (if gs.any (fun g => g.secure) then 4 else 0)

end Sys2Proof.Machine
end

