-- ==== Sys2Proof/Machine/Status.lean ====
section
/-!
DEFINITION. The status words of the device's blocks and the interrupts they raise (spec/00 R14; spec/07 R209; spec/10 R284; spec/11
R329; spec/14 R396; spec/16 R451, R452; spec/17 R474).
-/
namespace Sys2Proof.Machine

/-- Bits of a word, least significant first. -/
def wordOf : List Bool → Nat
  | [] => 0
  | b :: bs => b2n b + 2 * wordOf bs

/-! ### Key-value store (spec/07 R185, R191, R209) -/

def FreeQueue.count (q : FreeQueue) : Nat := (q.stop - q.next) + q.freed.length

def State.kvPool (s : State) (secure : Bool) : KvPool := if secure then s.kv.secPool else s.kv.openPool
/-- Free pages of a pool. -/
def KvPool.free (p : KvPool) : Nat := p.freeHbm.count + p.freeG7.count

/-- Bytes of an element of the pool format, and of one key. -/
def State.kvB (s : State) : Nat := if s.kv.fmt = 3 then 2 else 1
def State.kvKey (s : State) : Nat := s.kv.d * s.kvB

/-- Tokens of a chunk, chunks of a world's part and those in use (R191). -/
def State.kvTpc (s : State) : Nat := 4096 / (2 * s.kvKey + 8)
def State.kvChunks (s : State) (secure : Bool) : Nat := if secure then s.kv.chunksSecure else s.kv.chunksOpen
def KvSeq.chunks (q : KvSeq) (tpc : Nat) : Nat := (q.winds.map (fun w => ceilDiv w.2.toks.length tpc)).sum
def State.kvChunksUsed (s : State) (secure : Bool) : Nat :=
  ((s.kv.seqs.filter (fun p => p.2.st != .free && p.2.secure == secure)).map (fun p => p.2.chunks s.kvTpc)).sum

/-- Chunks of a world's part in use in one Granary half, and the half that the next one is taken from: the one with more free chunks of
the part, H0 on a tie (spec/10 R258). -/
def State.kvHalfUsed (s : State) (secure : Bool) (h : Nat) : Nat :=
  ((s.kv.seqs.filter (fun p => p.2.st != .free && p.2.secure == secure)).map
    (fun p => (p.2.winds.map (fun w => (w.2.halves.filter (· == h)).length)).sum)).sum
def State.chunkHalf (s : State) (secure : Bool) : Nat := if s.kvHalfUsed secure 1 < s.kvHalfUsed secure 0 then 1 else 0

def State.kvWatermark (s : State) (secure : Bool) : Nat := s.obj (if secure then 0x6102 else 0x6101) 5 4096

/-- KV_STAT's bits for a world (Table 7.12). -/
def State.kvStat (s : State) (secure : Bool) : Nat :=
  let p := s.kvPool secure
  wordOf [decide (p.free < s.kvWatermark secure), p.free == 0, s.kv.seqs.any (fun q => q.2.st == .frozen && q.2.secure == secure),
    decide (s.kvChunks secure ≤ s.kvChunksUsed secure), p.cfgFault]

/-! ### Memory (Table 10.14) -/

/-- Places of a GDDR7 poison table (spec/10 R279). -/
def poisonPlaces : Nat := 4096

def State.memStat (s : State) : Nat :=
  let u := s.mem.units.map Prod.snd
  wordOf [s.mem.ceRate, bits (s.ctr memUeOpenCnt).toNat 0 32 != (s.reg 0x20000C).toNat,
    u.any (fun x => decide (poisonPlaces ≤ x.poisonTable.length)), u.any (fun x => decide (4096 ≤ x.spares)),
    u.any (fun x => decide (1 ≤ x.refresh)), u.any (fun x => decide (100 ≤ x.temp) && x.temp != 255), u.any (fun x => x.st == .retraining),
    s.mem.inService.any (fun b => !b)]

/-! ### Links (Table 11.16) -/

def State.port (s : State) (p : Nat) : Port := s.lnk.ports.get {} p

def State.peer (s : State) (d : Nat) : Peer := s.lnk.peers.get {} d

/-- The route-table entry of a DEVID as a mask (R311): the ports its HELLOs arrive on, else the fabric manager's. -/
def State.routeMask (s : State) (d : Nat) : Nat :=
  let ps := (s.peer d).ports
  if ps.isEmpty then s.obj (0x5400 + d) 1 0 else (ps.map (fun p => 2 ^ p)).sum

/-- A port enabled in PORT_ENABLE (R332). -/
def State.portEnabled (s : State) (p : Nat) : Bool := bit (s.obj 0x5001 1 0xFFFFFFFF) p

/-- A laser module that LASER_STATE calls ready: CMIS reports it ready and its outputs are enabled (spec/20 R517, R518). -/
def Laser.up (l : Laser) : Bool := l.seated && l.ready && l.outputs

def State.lnkStat (s : State) : Nat :=
  wordOf [s.lnk.ports.any (fun p => p.2.st == .active && p.2.alt != 0), s.lnk.lasers.any (fun l => !l.up),
    (List.range 32).any (fun p => s.portEnabled p && (s.port p).st != .active), s.lnk.peers.any (fun p => p.2.st == .lost),
    s.lnk.dupDevid, s.lnk.ports.any (fun p => p.2.miswired)]

/-! ### Host interface (Table 14.11) -/

/-- The link is trained below 64 GT/s x16. -/
def State.linkDegraded (s : State) : Bool := s.hif.linkRate != 0 && (s.hif.linkRate != 6 || s.hif.linkWidth != 16)

def State.hifStat (s : State) : Nat :=
  wordOf [s.hif.notReady, s.linkDegraded, s.hif.rings.any (fun r => r.2.st == .stopped), s.hif.safeMode]

/-- HIF_VF_STAT of VF `f`. -/
def State.vfStat (s : State) (f : Nat) : Nat :=
  wordOf [s.hif.notReady, s.hif.rings.any (fun r => r.2.st == .stopped && s.owner r.1 == f)]

/-! ### Power (Table 17.11) -/

/-- A field die is held below its ceiling by its temperature (Table 17.6). -/
def State.heldHot (s : State) : Bool := s.pwr.throttle.any Hot.active || (s.pwr.hard.take 8).any Hot.active

def State.pwrStat (s : State) : Nat :=
  wordOf [s.hif.notReady, s.pwr.rails.any (fun r => r.1 == 0), s.pwr.rails.any (fun r => r.1 != 0), s.pwr.currentLimit.isSome,
    s.pwr.powerHeld, s.heldHot, s.pwr.temps.any (fun t => decide (105 ≤ t))]

/-! ### Open-visible security (Table 16.9) -/

/-- The active owner slot (spec/16 R444): the lowest programmed and not revoked. -/
def State.ownerSlot (s : State) : Option Nat :=
  (List.range 4).find? (fun i => let o := s.fuses.owners.getD i {}; o.digest.isSome && !o.revoked)

def State.secStat (s : State) : Nat :=
  wordOf [s.ownerSlot.isNone, s.sec.regionErr, s.sec.regions.any (fun r => r.2.clearing), s.sec.entropyFail, s.sec.sealFail]

/-! ### Interrupts -/

/-- The blocks that interrupt: status word, address of the enables, address of the vector. -/
def statBlocks : List ((State → Nat) × Nat × Nat) :=
  [(State.hifStat, 0x4, 0x8), (fun s => s.kvStat false, 0x300004, 0x300008), (State.memStat, 0x200004, 0x200008),
    (State.lnkStat, 0x400008, 0x40000C), (State.pwrStat, 0x600004, 0x600008), (State.secStat, 0x700004, 0x700008)]

/-- The bits of (status AND enable) of a block that have a rising edge (R14): of an 8-bit status word at most. -/
def risingEdges (stat : State → Nat) (en : Nat) (old new : State) : List Nat :=
  (List.range 8).filter (fun i => bit (stat new) i && bit (new.reg en).toNat i && !(bit (stat old) i && bit (old.reg en).toNat i))

/-- The messages a change of status sends, one for each bit that rises, and the Secure notification of a change of the Secure pool's
status bits (R451). Where an access of the command has met a line that is out of reach for now, the command waits: nothing of it has
happened (spec/10 R264; log 65). -/
def State.settle (new old : State) : State :=
  if new.mem.stalled && !old.mem.stalled then old
  else
  let s := statBlocks.foldl (fun s b =>
    (risingEdges b.1 b.2.1 old new).foldl (fun s _ => s.msix 0 (bits (new.reg b.2.2).toNat 0 12)) s) new
  if new.kvStat true = old.kvStat true then s else s.notifySecure

/-- The outcome of a command: its effect, with the interrupts that the change raises. -/
def answer (old new : State) : Out := .next (new.settle old)

end Sys2Proof.Machine
end

