-- ==== Sys2Proof/Machine/StageOps.lean ====
section
/-!
DEFINITION. Operations over stages and rings that several families share: the order of a ring, deciding a stage's outcome,
stopping a ring, ending the stages of a ring under RESETTING (spec/04 R113-R118, spec/05 R133-R138, spec/10 R256, spec/14
R391-R395).
-/
namespace Sys2Proof.Machine

/-- Sequence number `a` precedes `b` on one ring (R389: numbers are taken modulo 2^32). -/
def seqBefore (a b : Word32) : Bool := a != b && decide ((b - a).toNat < 2 ^ 31)

/-- The stages of a ring, with their slots. -/
def State.stagesOf (s : State) (r : Nat) : List (Nat × Stage) := s.dsp.stages.filter (fun p => p.2.ring == r)

/-- FENCE and BARRIER (R113). -/
def Stage.opcode (st : Stage) : Nat := if st.fetchFailed then 0 else dOpcode st.desc
def Stage.isFence (st : Stage) : Bool := st.opcode == 0x13
def Stage.isBarrier (st : Stage) : Bool := st.opcode == 0x14
def Stage.done (st : Stage) : Bool := st.phase == .complete

/-- A status that stops a ring without CONTINUE (spec/14 R393). -/
def failing (status : Nat) : Bool := status != 0 && status != 0x0C && status != 0x07

/-- The outcome of a stage stops its ring when its entry is written (spec/14 R394). -/
def Stage.stopping (st : Stage) : Bool := st.forceStop || (failing st.status && (st.fetchFailed || !dContinue st.desc))

/-- The ordering conditions of R113: with OVERLAP 0 every earlier stage of the ring complete; otherwise every earlier FENCE and
BARRIER. A FENCE and a BARRIER wait for every earlier stage (R116, R118). Behind a failure that stops the ring nothing that waited
for it starts (R117, R394), so an entry still to be written holds it back. -/
def State.orderMet (s : State) (st : Stage) : Bool :=
  let earlier := (s.stagesOf st.ring).filter (fun p => seqBefore p.2.seq st.seq)
  if dOverlap st.desc && !st.isFence && !st.isBarrier then
    !(earlier.any (fun p => !p.2.done && (p.2.isFence || p.2.isBarrier)))
  else earlier.all (fun p => p.2.done && !p.2.stopping)

/-- Whether a ring lets held stages start (R394). -/
def Ring.starts (r : Ring) : Bool := r.st == .running || r.st == .draining

/-- Invalidate without writeback every line that still holds a stage's LAST mark (spec/10 R256). -/
def State.discardMarked (s : State) (n : Nat) : State :=
  let k := (s.mem.lines.filter (fun g => g.mark == some n)).length
  if k = 0 then s
  else ({ s with mem := { s.mem with lines := s.mem.lines.filter (fun g => g.mark != some n) } }).bump grnLastDrop k

/-- Free the spill frames that hold tiles of a set. -/
def Core.freeSetFrames (c : Core) (secure : Bool) (id : Nat) : Core :=
  { c with frames := c.frames.map (fun f => match f with
      | some (.tiles w i _ _) => if w = secure ∧ i = id then none else f
      | _ => f) }

/-- Release a retained set: its tiles are discarded without being written to memory (spec/05 R137), its frames are freed. -/
def State.releaseSet (s : State) (secure : Bool) (id : Nat) : State :=
  { s with
    dsp := { s.dsp with sets := s.dsp.sets.del (secure, id) }
    cores := { s.cores with core := s.cores.core.map (fun p => (p.1, p.2.freeSetFrames secure id)) } }

/-- What the chain of a completing stage releases: a consumer that was admitted releases its set whatever its status (spec/05 R134,
R137). -/
def State.settleSets (s : State) (n : Nat) (st : Stage) (status : Nat) : State :=
  if st.phase != .running && st.phase != .admitted then s
  else
    let s := if cRetIn st.chain ≠ 0 ∧ cRelease st.chain then s.releaseSet st.secure (cRetIn st.chain) else s
    let out := cRetOut st.chain
    if out = 0 then s
    else match s.dsp.sets.find (st.secure, out) with
      | none => s
      | some x =>
        if x.producer != n || !x.producing then s
        else if status ≠ 0 then s.releaseSet st.secure out
        else { s with dsp := { s.dsp with sets := s.dsp.sets.put (st.secure, out) { x with producing := false } } }

/-- The address of a key-value stage's sequence table (Tables 7.6, 7.8, 7.9). -/
def seqTable (d : List Byte) : Nat := bits (field d (if dOpcode d = 0x0A then 0xE8 else 0xEC) 6 * 1024) 0 48

/-- A key-value stage writes its sequence table back with a new CRC, and its run is over (spec/07 R195). -/
def State.settleTable (s : State) (n : Nat) (st : Stage) : State :=
  match s.kv.runs.find n with
  | none => s
  | some r => { s with kv := { s.kv with runs := s.kv.runs.del n } }.writeFor (st.who n) (seqTable st.desc)
      (r.table ++ toLE 4 (crc32c r.table)) 0

/-- Releases no longer wait for a stage, nor report to it (spec/07 R196, R197). -/
def State.leaveReleases (s : State) (n : Nat) : State :=
  { s with kv := { s.kv with releases := s.kv.releases.map (fun (r : KvRelease) =>
      { r with readers := r.readers.filter (· != n), stage := if r.stage = some n then none else r.stage }) } }

/-- The FROZEN sequences of a world's pool thaw to LIVE (spec/07 R206). -/
def State.thaw (s : State) (secure : Bool) : State :=
  { s with kv := { s.kv with seqs := s.kv.seqs.map (fun p =>
      if p.2.st = .frozen ∧ p.2.secure = secure then (p.1, { p.2 with st := .live }) else p) } }

/-- The completion of an admitted KV_RELEASE thaws its world's pool, whatever its status; one whose release still waits for readers,
under RESETTING, leaves that to the release's end (spec/07 R197, R206). -/
def State.thawAfter (s : State) (n : Nat) (st : Stage) : State :=
  if st.opcode = 0x0B ∧ st.phase ≠ .fetched ∧ !(s.kv.releases.any (fun r => r.stage == some n)) then s.thaw st.secure else s

/-- Decide a stage's outcome (R391): LAST lines are discarded, sets settled, the arrival window released, and the entry waits
for its turn. The failing stage is noted for the ring's next fence (R117); DESIGN CHOICE (log 63): a FENCE refused at its admission is
noted so as well, and is no previous FENCE for the one after it. -/
def State.finish (s : State) (n status : Nat) : State :=
  match s.stage n with
  | none => s
  | some st =>
    if st.done then s
    else
      let s := (((((s.settleTable n st).thawAfter n st).leaveReleases n).discardMarked n).endShares n).settleSets n st status
      let st := (s.stage n).getD st
      let s := s.setStage n { st with phase := .complete, status := status, arrival := none, doneTime := s.time }
      if status = 0 ∨ status = 0x0C then s
      else
        let r := s.ring st.ring
        s.setRing st.ring { r with failed := r.failed ++ [st.seq] }

/-- Refuse a stage at a check of Table 4.6 (R98, Table 14.7). -/
def State.refuse (s : State) (n status check whr : Nat) : State :=
  match s.stage n with
  | none => s
  | some st => (s.setStage n { st with check := check, whr := whr }).finish n status

/-- The status a running stage ends with: WORLD_DENIED before REGION_FAULT before CHECK_FAIL before POISON_READ before the
status its own work gives, PARTIAL last (R102, R280; spec/06 R162; spec/07 R202, R203). -/
def worstOf (met : List Nat) (own : Nat) : Nat :=
  if met.contains 4 then 4
  else if met.contains 3 then 3
  else match met.find? (fun x => x == 1 || x == 2) with
  | some x => x
  | none =>
  if met.contains 8 then 8
  else if own ≠ 0 then own
  else match met.find? (fun x => x != 0x0B) with
    | some x => x
    | none => met.headD 0


/-- A ring becomes STOPPED by the entry with a sequence number (R394). -/
def State.stopRing (s : State) (r : Nat) (seq : Word32) (status : Nat) : State :=
  let x := s.ring r
  if x.st = .running ∨ x.st = .draining then
    ((s.setRing r { x with st := .stopped, stopSeq := seq }).tick1 hifRingStops).log 0x0701 r (seq.toNat + status * 2 ^ 32)
      x.secure
  else s

/-- A DRAINING ring whose fetched stages all have their entries written becomes DISABLED (Table 14.5). -/
def State.drainRing (s : State) (r : Nat) : State :=
  let x := s.ring r
  if x.st = .draining ∧ (s.stagesOf r).isEmpty ∧ x.kept.isNone ∧ x.fetching = 0 then s.setRing r { x with st := .disabled } else s

/-! ### Tasks of a stage -/

/-- Tasks of a stage on every core: core, slot, task. -/
def State.tasksOf (s : State) (n : Nat) : List (Nat × Nat × Task) :=
  s.cores.core.flatMap (fun p => (p.2.slots.filter (fun q => q.2.stage == n)).map (fun q => (p.1, q.1, q.2)))

/-- A spill frame becomes free (spec/06 R160). -/
def Core.freeFrame (c : Core) (j : Option Nat) : Core :=
  match j with
  | none => c
  | some j => { c with frames := c.frames.set j none }

/-- No context draws from the lanes any more: their states stay as they are (spec/09 R231, R236). -/
def Core.leaveLanes (c : Core) : Core :=
  match c.lanes with
  | none => c
  | some (_, d) => { c with lanes := none, laneRegs := d.lanes }

/-- A task leaves its slot; its frame and its draw context with it. -/
def Core.dropTask (c : Core) (slot : Nat) : Core :=
  match c.slots.find slot with
  | none => c
  | some t =>
    let c := c.freeFrame t.frame
    let c := match c.lanes with | some (i, _) => if i = slot then c.leaveLanes else c | none => c
    { c with slots := c.slots.del slot
             staging := match c.staging with | some (i, x) => if i = slot then none else some (i, x) | none => none }

/-- Drop every task of a stage in a state that `p` picks, on every core. -/
def State.dropTasks (s : State) (n : Nat) (p : Task → Bool) : State :=
  { s with cores := { s.cores with core := s.cores.core.map (fun q =>
      (q.1, ((q.2.slots.filter (fun e => e.2.stage == n && p e.2)).map Prod.fst).foldl Core.dropTask q.2)) } }

/-- Withdraw a waiting BARRIER's arrival (R118): the generation keeps the others; left with no arrival it is dropped with its
COUNT. -/
def State.withdrawBarrier (s : State) (n : Nat) (secure : Bool) : State :=
  { s with dsp := { s.dsp with barriers :=
      ((s.dsp.barriers.map (fun p => if p.1.1 = secure then (p.1, { p.2 with arrived := p.2.arrived.filter (· != n) }) else p)).filter
        (fun p => !p.2.arrived.isEmpty)) } }

/-- The device has had a fatal event since its last reset (spec/18 R479). -/
def State.fatal (s : State) : Bool := s.flt.diagFatal != 0

/-- Status of a stage that is ended early: PARTIAL by a fatal event, PREEMPTED by its ring's reset (R395, spec/18 R479). -/
def State.endedBy (s : State) : Nat := if s.fatal then 0x0B else 0x07

/-- End a stage with the status its work gives, or a worse one it met; a stage that is ended early by its ring's reset or a fatal event
ends with the status of that, whatever it met (R395 step 3, spec/18 R479). -/
def State.finishWorst (s : State) (n own : Nat) : State :=
  match s.stage n with
  | none => s
  | some st =>
    let s := if st.done then s else s.settleTable n st
    s.finish n (if st.ending && own == s.endedBy then own else worstOf ((s.stage n).getD st).met own)

/-- End one stage of a ring that enters RESETTING (R395 steps 2 and 3): unstarted stages complete PREEMPTED; a waiting BARRIER
withdraws; waiting and suspended tasks go, and a stage with nothing left running completes. KV_APPEND, engine stages and stages
with running tasks end at their next unit. -/
def State.endStage (s : State) (n : Nat) : State :=
  match s.stage n with
  | none => s
  | some st =>
    if st.done then s
    else if st.isBarrier ∧ st.phase = .running then (s.withdrawBarrier n st.secure).finish n s.endedBy
    else if st.phase ≠ .running then s.finish n (if st.phase = .admitted then s.endedBy else 0x07)
    else
      let s := s.setStage n { st with ending := true, noIssue := true }
      if tileWalker st.opcode then
        let s := s.dropTasks n (fun t => t.st == .waiting || t.st == .suspended || t.st == .inTransit)
        if (s.tasksOf n).isEmpty then s.finish n s.endedBy else s
      else if st.isFence ∨ st.opcode = 0x15 then s.finish n s.endedBy
      else if st.opcode = 0x0B ∨ st.opcode = 0x09 then
        match s.kv.runs.find n with
        | none => s.finish n s.endedBy
        | some _ => if st.opcode = 0x0B then s.finish n 0 else s
      else s

/-- A ring enters RESETTING (R395). -/
def State.resetRing (s : State) (r : Nat) : State :=
  let x := s.ring r
  if x.st = .running ∨ x.st = .stopped ∨ x.st = .draining then
    let s := s.setRing r { x with st := .resetting, tail := x.sqHead, fetching := 0, aborting := false }
    (s.stagesOf r).foldl (fun s p => s.endStage p.1) s
  else s

/-- The batch validity of sample `i` under a stage's mask (R111). -/
def Stage.valid (st : Stage) (i : Nat) : Bool :=
  match st.mask with
  | none => true
  | some m => bit (field m (i / 8) 1) (i % 8)

/-- Core mask of a stage: cores enabled, not fused off, not withdrawn (spec/00 R2, spec/18 R478). -/
def State.maskHas (s : State) (mask c : Nat) : Bool :=
  bit mask c && decide (c < s.coreCount) && !(s.core c).withdrawn

end Sys2Proof.Machine
end

