-- ==== Sys2Proof/Machine/Admission.lean ====
section
/-!
DEFINITION. The admission of a stage: the checks of Table 4.6 with the fields of every opcode (spec/04 R90-R105, R115; spec/05 R122-R125;
spec/06 R165; spec/07 R171, R194-R199; spec/08 R213-R226; spec/09 R240, R242; spec/11 R313, R315, R322, R323; spec/12 R333, R334, R349;
spec/13 R354, R358-R365, R370-R373).
-/
namespace Sys2Proof.Machine

/-- A check: none passes; else the status, the number of the check and WHERE (spec/14 Table 14.7). -/
abbrev Chk := Option (Nat × Nat × Nat)

/-- A condition of a check. -/
def req (status check whr : Nat) (ok : Bool) : Chk := if ok then none else some (status, check, whr)

/-- The first failing check. -/
def firstChk : List Chk → Chk
  | [] => none
  | none :: cs => firstChk cs
  | some r :: _ => some r

/-- A condition of check 4 (LENGTH_RANGE). -/
def need (whr : Nat) (ok : Bool) : Chk := req 2 4 whr ok

/-! ### OPARAM -/

/-- A field of OPARAM by its descriptor offset. -/
def op1 (d : List Byte) (o : Nat) : Nat := field d o 1
def op2 (d : List Byte) (o : Nat) : Nat := field d o 2
def op4 (d : List Byte) (o : Nat) : Nat := field d o 4
def op6 (d : List Byte) (o : Nat) : Nat := field d o 6
def op8 (d : List Byte) (o : Nat) : Nat := field d o 8

/-- An address held in OPARAM divided by 1,024, as a 58-bit address (spec/00 R7). -/
def opAddr (d : List Byte) (o : Nat) : Nat := bits (op6 d o * 1024) 0 58

/-- Bits of the FLAGS byte of ATTEND (Table 7.1). -/
def atShare (d : List Byte) : Bool := bit (op1 d 0xE0) 0
def atAxes (d : List Byte) : Bool := bit (op1 d 0xE0) 1
def atPaged (d : List Byte) : Bool := bit (op1 d 0xE0) 2
def atLocal (d : List Byte) : Bool := bit (op1 d 0xE0) 3
def atBias (d : List Byte) : Bool := bit (op1 d 0xE0) 4
def headsQ (d : List Byte) : Nat := if dOpcode d = 2 then op1 d 0xE2 else op1 d 0xE6
def headsKv (d : List Byte) : Nat := if dOpcode d = 2 then op1 d 0xE3 else op1 d 0xE7

/-- SOURCE of TOPK and SAMPLE: partial records (Tables 8.7, 9.3). -/
def selRecords (d : List Byte) : Bool := if dOpcode d = 6 then bit (op1 d 0xE2) 1 else bit (op1 d 0xE0) 1
def selTiles (d : List Byte) : Nat := if dOpcode d = 6 then op2 d 0xEA else op2 d 0xF2
def selE (d : List Byte) : Nat := if dOpcode d = 6 then op2 d 0xEC else op2 d 0xF4
def selArea (d : List Byte) : Nat := if dOpcode d = 6 then opAddr d 0xE4 else opAddr d 0xEC
def recInt (d : List Byte) : Bool := bit (op1 d 0xE2) 2 && selRecords d

/-- METHOD of SAMPLE, and TOP_K as read (Table 9.3). -/
def topkp (d : List Byte) : Bool := bit (op1 d 0xE0) 0
def topK (d : List Byte) : Nat := if topkp d ∧ op2 d 0xE2 = 0 then 1024 else op2 d 0xE2

/-- REDUCE selects (Table 8.8). -/
def redArg (d : List Byte) : Bool := dOpcode d == 5 && (op1 d 0xE0 == 5 || op1 d 0xE0 == 6)

/-! ### Slots (R103, R171, R199, R213-R226, R240, R242, R315, R323, R334, R349, R363, R365, R373) -/

/-- Tensor slots the opcode uses, with whether each is a destination. -/
def usedSlots (d : List Byte) : List (Nat × Bool) :=
  match dOpcode d with
  | 0x01 => [(0, false), (1, false), (2, true)] ++ (if dStart d = 1 ∨ dStart d = 2 then [(3, false)] else [])
  | 0x02 => [(0, false)] ++ (if atLocal d then [(1, false), (2, false)] else []) ++ [(3, true)]
  | 0x03 | 0x04 => [(0, false), (2, true)]
  | 0x05 => [(0, false), (2, true)] ++ (if redArg d then [(3, true)] else [])
  | 0x06 => (if selRecords d then [] else [(0, false)]) ++ (if dTdValid d 2 then [(2, true)] else [])
      ++ (if dTdValid d 3 then [(3, true)] else [])
  | 0x07 => (if selRecords d then [] else [(0, false)]) ++ (if dTdValid d 2 then [(2, true)] else []) ++ [(3, true)]
  | 0x08 => [(2, true)]
  | 0x09 => [(0, false), (1, false)]
  | 0x0A => [(0, false)]
  | 0x0C => [(0, false), (2, true)]
  | 0x0D => if op1 d 0xE0 = 5 then [] else [(0, false), (2, true)]
  | 0x0E => if op1 d 0xE0 = 1 then [(0, false)] else []
  | 0x0F => if op1 d 0xE0 = 1 then [(0, false), (2, true)] else []
  | 0x10 => [(2, true)]
  | 0x11 => [(0, false)]
  | 0x12 => if op1 d 0xE0 = 1 then [(0, false)] else []
  | _ => []

/-- The tensor whose rows are the stage's output rows and whose N is N_D (R111). -/
def outTd (d : List Byte) : TDesc :=
  match dOpcode d with
  | 0x02 => dTd d 3
  | 0x06 => if dTdValid d 2 then dTd d 2 else dTd d 3
  | 0x07 => dTd d 3
  | 0x09 | 0x0A | 0x11 => dTd d 0
  | _ => dTd d 2

/-- The tensor the drain chain works on (Table 5.6). -/
def chainTd (d : List Byte) : TDesc :=
  match dOpcode d with
  | 0x02 => dTd d 3
  | 0x06 | 0x07 => if dTdValid d 2 then dTd d 2 else dTd d 3
  | _ => dTd d 2

/-- Opcodes that read the batch validity mask (R111). -/
def readsMask (op : Nat) : Bool :=
  tileWalker op || op == 0x09 || op == 0x0C || op == 0x11

/-- INGEST writes the mask (spec/12 R347): its extent is checked alike. -/
def namesMask (op : Nat) : Bool := readsMask op || op == 0x10

/-- Bytes of the mask. -/
def maskBytes (d : List Byte) : Nat := ceilDiv (outTd d).n 8

/-- Whether the opcode's chain block is fetched (R124). -/
def usesChain (d : List Byte) : Bool := tileWalker (dOpcode d) && dOpcode d != 0x0A && dChain d != 0

/-- An integer stage (R36, R126; spec/08 R223, R227). -/
def intStage (d : List Byte) : Bool :=
  match dOpcode d with
  | 0x01 => (dTd d 0).fmt.isInt || (dTd d 1).fmt.isInt
  | 0x05 => (dTd d 0).fmt.isInt
  | 0x06 => if selRecords d then recInt d else (dTd d 0).fmt.isInt
  | _ => false

/-! ### Tiles -/

/-- Rows per sample of the queries, tile rows and query blocks of ATTEND and KV_RETRIEVE (spec/07 R172). -/
def queryRows (d : List Byte) : Nat := (dTd d 0).t * (dTd d 0).h * (dTd d 0).w
def queryTm (d : List Byte) : Nat := min (dTileM d) (queryRows d)
def queryBlocks (d : List Byte) : Nat := ceilDiv (queryRows d) (queryTm d)

/-- Depth of a MATMUL (R103). -/
def matK (d : List Byte) : Nat := (dTd d 1).rows

/-- Columns of a tile of a MATMUL (R105). -/
def matGrid (d : List Byte) : Grid :=
  gridOf 128 (dTd d 2).rows (dTd d 2).c (matK d) (dTileM d) (dTileN d) (dTileK d)

/-- Tile fields in range: which of TILE_M, TILE_N, TILE_K are read (R92, R99, R172, R214, R221, R241). -/
def tilesOk (s : State) (d : List Byte) : Bool :=
  let op := dOpcode d
  if !tileWalker op then true
  else
    let n := !(op == 2 || op == 3)
    let k := !(op == 4 || op == 8)
    decide (1 ≤ dTileM d) && decide (dTileM d ≤ 512)
      && (!n || (decide (1 ≤ dTileN d) && decide (dTileN d ≤ 512)))
      && (!k || (decide (1 ≤ dTileK d) && decide (dTileK d ≤ 8192)))
      && decide (dHome d ≤ 95)
      && (List.range 96).any (fun c => s.maskHas (dMask d) c)

/-! ### Functions (spec/08 R210, R215, R218) -/

/-- Table bytes of a built-in function (Table 8.1); none where the number names none. -/
def builtinBytes (n : Nat) : Option Nat := if builtinFn n then some (1024 * builtinTable n) else none

/-- The image of a loaded function open to a world. -/
def State.fnImage (s : State) (secure : Bool) (n : Nat) : Option FnSlot :=
  let i := n - 0x100
  if n < 0x100 ∨ 0x200 ≤ n then none
  else if secure != decide (0x80 ≤ i) then none
  else
    let x := s.fnSlots.get {} i
    if x.image.isEmpty then none else some x

def State.fnLoaded (s : State) (secure : Bool) (n : Nat) : Bool :=
  (builtinBytes n).isSome || (s.fnImage secure n).isSome

/-- Table bytes a function takes in the staging banks (spec/05 R131). -/
def State.fnTable (s : State) (secure : Bool) (n : Nat) : Nat :=
  match builtinBytes n with
  | some b => b
  | none => match s.fnImage secure n with
    | some x => imgTableBytes x.image
    | none => 0

/-- The functions a stage names: its own and those of its chain steps, each once. -/
def stageFns (d ch : List Byte) : List Nat :=
  dedup ((if dOpcode d = 4 then [op2 d 0xE0] else [])
    ++ ((cProSteps ch ++ cDrainSteps ch).filter (fun x => x.op == 6)).map ChainStep.param)

/-! ### Check 4 -/

/-- The formats of the operands of a matrix product pair (R37, R56). -/
def pairFmts (a b : Fmt) : Bool :=
  if a.isArray && b.isArray then a.pairs b
  else (a == .fp32 || a == .fp64 || b == .fp32 || b == .fp64) && !a.isInt && !b.isInt && a != .acc && b != .acc

/-- Pairing of the operands of a matrix product, with the cell operation that it allows (R56). -/
def pairOk (a b : Fmt) (cellOp : Nat) : Bool := pairFmts a b && ((a.isArray && b.isArray) || cellOp == 0)

/-- The descriptor alone shows that a MATMUL runs on the harrow (R56): B, which no prologue converts, is FP32 or FP64; A is FP64,
which no prologue takes (spec/05 Table 5.7); or A is FP32 and there is no chain block. -/
def matOnHarrow (d : List Byte) : Bool :=
  let a := (dTd d 0).fmt; let b := (dTd d 1).fmt
  b == .fp32 || b == .fp64 || a == .fp64 || (a == .fp32 && dChain d == 0)

def matOk (d : List Byte) : Chk :=
  let a := dTd d 0; let b := dTd d 1; let o := dTd d 2
  let win := windowOf d
  firstChk [
    need 15 (decide (dStart d ≠ 3) && (CellOp.ofCode (dCellOp d)).isSome),
    need 2 (decide (o.rows ≤ 2 ^ 32)),
    need 1 (decide (b.rows ≤ 2 ^ 24) && a.c * win.wh * win.ww == b.rows),
    need 2 (b.c == o.c && (if win.plain then a.sameRows o else a.n == o.n && a.t == o.t)),
    need 3 (match dStart d with
      | 1 => let t := dTd d 3; t.rows == 1 && t.c == o.c
      | 2 => (dTd d 3).sameSizes o
      | _ => true),
    need 1 (dChain d != 0 || pairFmts a.fmt b.fmt),
    need 15 (!matOnHarrow d || dCellOp d == 0)]

/-- A position base with its farthest row fits (spec/07 R181). -/
def posOk (axes : Bool) (pos0 t h w : Nat) : Bool :=
  if axes then
    decide (bits pos0 24 24 + t ≤ 2 ^ 24) && decide (bits pos0 12 12 + h ≤ 2 ^ 12) && decide (bits pos0 0 12 + w ≤ 2 ^ 12)
  else decide (pos0 + t * h * w ≤ 2 ^ 48)

/-- The pool format (spec/07 R208). -/
def State.kvFmt (s : State) : Fmt := (Fmt.ofCode s.kv.fmt).getD .e4m3

/-- Query heads and head size of ATTEND and KV_RETRIEVE; the size is checked against KV_HEAD_DIM where `paged`. -/
def headsOk (s : State) (d : List Byte) (paged : Bool) : Bool :=
  let hq := headsQ d; let hk := headsKv d
  let dim := (dTd d 0).c / hq
  decide (1 ≤ hq) && decide (hq ≤ 128) && decide (1 ≤ hk) && decide (hk ≤ 128)
    && (dTd d 0).c % hq == 0 && (dim == 64 || dim == 128) && (!paged || dim == s.kv.d) && hq % hk == 0

def attendOk (s : State) (d : List Byte) : Chk :=
  let q := dTd d 0; let k := dTd d 1; let v := dTd d 2; let o := dTd d 3
  let dim := q.c / headsQ d
  let pf := (Fmt.ofCode (op1 d 0xE1)).getD .acc
  let scale := decodeFp .fp32 (op4 d 0xEC)
  firstChk [
    need 3 (o.sameSizes q && decide (o.rows ≤ 2 ^ 32)),
    need 10 (headsOk s d (atPaged d)),
    need 1 (!atLocal d || (k.n == q.n && k.sameRows v && k.c == headsKv d * dim)),
    need 2 (!atLocal d || (v.n == q.n && v.c == headsKv d * dim)),
    need 1 (!atLocal d || q.fmt.pairs k.fmt), need 0 (!atPaged d || q.fmt.pairs s.kvFmt),
    need 10 ([0, 1, 3, 4].contains (op1 d 0xE1)),
    need 10 ((!atLocal d || pf.pairs v.fmt) && (!atPaged d || pf.pairs s.kvFmt)),
    need 10 (!atPaged d || decide (op2 d 0xE4 ≤ 255)),
    need 10 (scale.isFin && !scale.isZero),
    need 10 (posOk (atAxes d) (op6 d 0xE6) q.t q.h q.w && (!atLocal d || posOk (atAxes d) (op6 d 0xE6) k.t k.h k.w))]

def normOk (d : List Byte) : Chk :=
  let a := dTd d 0; let o := dTd d 2
  let eps := decodeFp .fp32 (op4 d 0xE4)
  firstChk [
    need 0 (!a.fmt.isInt && a.fmt != .acc && decide (a.rows ≤ 2 ^ 32)),
    need 2 (o.sameRows a && o.c == 2 && o.fmt == .fp32),
    need 10 (eps.isFin && (eps.isZero || !eps.neg?)),
    need 10 (!(bit (op1 d 0xE0) 0 && bit (op1 d 0xE0) 1))]

def funcOk (s : State) (secure : Bool) (d : List Byte) : Chk :=
  let a := dTd d 0; let o := dTd d 2
  firstChk [
    need 2 (o.sameSizes a && decide (o.rows ≤ 2 ^ 32)),
    need 0 (!a.fmt.isInt && a.fmt != .acc),
    need 10 (s.fnLoaded secure (op2 d 0xE0))]

/-- Rows of a selection: TM, and the candidates of a row fit (R223). -/
def reduceOk (d : List Byte) : Chk :=
  let a := dTd d 0; let o := dTd d 2; let ax := op1 d 0xE1
  firstChk [
    need 10 (decide (op1 d 0xE0 ≤ 6) && decide (ax ≤ 1)),
    need 10 (!(redArg d && ax == 1)),
    need 0 (!(op1 d 0xE0 == 1 && a.fmt.isInt)),
    need 2 (if ax = 0 then o.sameRows a && o.c == 1 else o.n == a.n && o.t == 1 && o.h == 1 && o.w == 1 && o.c == a.c),
    need 2 (decide (o.rows ≤ 2 ^ 32)),
    need 0 (redArg d || decide ((if ax = 0 then a.c else a.t * a.h * a.w) ≤ 2 ^ 24)),
    need 0 (!redArg d || decide (a.c ≤ 2 ^ 20)),
    need 3 (!redArg d || ((dTd d 3).sameSizes o && (dTd d 3).fmt == .int32))]

/-- A source of partial records in range (Tables 8.7, 9.3). -/
def recordsOk (d : List Byte) : Bool :=
  !selRecords d || (decide (1 ≤ selTiles d) && decide (selTiles d ≤ 2048) && decide (1 ≤ selE d) && decide (selE d ≤ 512)
    && decide (selTiles d * selE d ≤ 2 ^ 20))

/-- An output of a selection: the row count of the stage and its columns. With SOURCE 1 the outputs set the row count. -/
def selOutOk (d : List Byte) (i cols : Nat) : Bool :=
  !dTdValid d i || ((dTd d i).c == cols && (dTd d i).rows == (if selRecords d then (outTd d).rows else (dTd d 0).rows))

def topkOk (d : List Byte) : Chk :=
  let k := op2 d 0xE0
  firstChk [
    need 10 (decide (1 ≤ k) && decide (k ≤ 1024) && recordsOk d),
    need 2 (dTdValid d 2 || dTdValid d 3),
    need 0 (selRecords d || decide ((dTd d 0).c ≤ 2 ^ 20)),
    need 2 (selOutOk d 2 k && decide ((outTd d).rows ≤ 2 ^ 32)),
    need 3 (selOutOk d 3 k && (!dTdValid d 3 || (dTd d 3).fmt == .int32)),
    need 10 (decide (min (dTileM d) (outTd d).rows * k ≤ 65536))]

def sampleOk (d : List Byte) : Chk :=
  let t := decodeFp .fp32 (op4 d 0xE8)
  firstChk [
    need 3 ((dTd d 3).fmt == .int32 && selOutOk d 3 1 && decide ((outTd d).rows ≤ 2 ^ 32)),
    need 2 (selOutOk d 2 1),
    need 0 (selRecords d || (!(dTd d 0).fmt.isInt && decide ((dTd d 0).c ≤ 2 ^ 20))),
    need 10 (decide (op2 d 0xE2 ≤ 1024) && (topkp d || op2 d 0xE4 == 0)),
    need 10 (t.isFin && !t.isZero && !t.neg?),
    need 10 (recordsOk d && (!selRecords d || (op2 d 0xE2 != 0 && decide (op2 d 0xE2 ≤ selE d)))),
    need 10 (!topkp d || decide (min (dTileM d) (outTd d).rows * topK d ≤ 65536))]

def noiseOk (d : List Byte) : Chk :=
  firstChk [
    need 10 (decide (op1 d 0xE0 ≤ 2)),
    need 2 (!(dTd d 2).fmt.isInt && decide ((dTd d 2).rows ≤ 2 ^ 32))]

def appendOk (d : List Byte) : Chk :=
  let k := dTd d 0; let v := dTd d 1
  let ok := fun (f : Fmt) => [Fmt.e4m3, .e5m2, .bf16, .fp16, .fp32].contains f
  firstChk [
    need 1 (k.sameSizes v),
    need 0 (ok k.fmt), need 1 (ok v.fmt),
    need 10 (posOk (bit (op1 d 0xF3) 0) (op6 d 0xE6) k.t k.h k.w)]

def retrieveOk (s : State) (d : List Byte) : Chk :=
  let q := dTd d 0
  firstChk [
    need 0 ([Fmt.e4m3, .e5m2, .bf16].contains q.fmt && decide (q.rows ≤ 2 ^ 32)),
    need 10 (headsOk s d true),
    need 10 (decide (op1 d 0xE1 ≤ 64) && decide (1 ≤ op2 d 0xE2) && decide (op2 d 0xE2 ≤ 512))]

def releaseOk (d : List Byte) : Chk :=
  need 10 (decide (op1 d 0xE0 ≤ 1) && decide (1 ≤ op2 d 0xE2) && decide (op2 d 0xE2 ≤ 4096))

/-- Elements of a tensor. -/
def TDesc.elems (t : TDesc) : Nat := t.rows * t.c

/-- An address lies in the host window. -/
def TDesc.inHost (t : TDesc) : Bool := decide (2 ^ 47 ≤ t.lbase)

def copyOk (s : State) (d : List Byte) : Chk :=
  let a := dTd d 0; let o := dTd d 2
  let remA := a.devid != s.lnk.devid
  let remO := o.devid != s.lnk.devid
  firstChk [
    need 2 (a.sameSizes o),
    need 15 (dRound d != 4),
    need 2 (!(remA && remO)),
    need (if remA then 2 else 0) (!((remA && o.inHost) || (remO && a.inHost))),
    need 10 (decide (bits (op1 d 0xE0) 0 2 ≤ 1) && (bits (op1 d 0xE0) 0 2 == 0 || decide (op1 d 0xE1 ≤ 2))),
    need 2 (bits (op1 d 0xE0) 0 2 == 0 || [Fmt.fp32, .bf16, .int32, .int64].contains o.fmt)]

def collOk (d : List Byte) : Chk :=
  let kind := op1 d 0xE0; let m := op2 d 0xE2
  let e := (dTd d 0).elems; let o := (dTd d 2).elems
  let reducing := kind == 0 || kind == 1 || kind == 4
  let rooted := kind == 3 || kind == 4
  firstChk [
    need 10 (decide (kind ≤ 5) && (!reducing || decide (op1 d 0xE1 ≤ 2))),
    need 10 (decide (1 ≤ m) && decide (m ≤ 256) && decide (op2 d 0xE4 < m) && (!rooted || decide (op2 d 0xE6 < m))),
    need 15 (dRound d != 4),
    need 2 (match kind with
      | 1 => e % m == 0 && o == e / m
      | 2 => o == m * e
      | 5 => true
      | _ => o == e),
    need 2 (kind == 5 || (dTd d 0).fmt.isInt == (dTd d 2).fmt.isInt)]

/-- A byte string tensor: UINT8 with N = T = H = W = 1 (spec/13 R363, R367). -/
def TDesc.isBytes (t : TDesc) : Bool := t.fmt == .uint8 && t.rows == 1

/-- A picture side of OPEN in range. -/
def sideOk (v hi : Nat) : Bool := decide (16 ≤ v) && decide (v ≤ hi) && v % 2 == 0

/-- Whether every domain of an engine kind is held off by a bring-up alternative (spec/12 R333, spec/13 R354). -/
def State.enginesOff (s : State) (offset : Nat) : Bool :=
  s.pwr.doms.get .fallow (200 + offset) == .heldOff && s.pwr.doms.get .fallow (206 + offset) == .heldOff

def vdecOk (s : State) (d : List Byte) : Chk :=
  let act := op1 d 0xE0
  firstChk [
    need 15 (!s.enginesOff 0),
    need 10 (decide (act ≤ 3)),
    need 10 (act != 0 || (decide (op1 d 0xE1 ≤ 1) && (op1 d 0xE1 != 0 || decide (op1 d 0xE3 ≤ 31))
      && sideOk (op2 d 0xEC) 8192 && sideOk (op2 d 0xEE) 4352
      && decide ((if op1 d 0xE1 = 0 then 10 else 18) ≤ op1 d 0xF0) && decide (op1 d 0xF0 ≤ 64))),
    need 0 (act != 1 || (dTd d 0).isBytes)]

/-- Width and height of the encode stream a handle names; none for a handle that names none (R358). -/
def State.encodeSize (s : State) (h : Nat) : Option (Nat × Nat) :=
  match s.vid.encs.find (bits h 0 16) with
  | none => none
  | some x => if (s.vid.encGen.get 0 (bits h 0 16)).toNat = bits h 16 32 then some (x.width, x.height) else none

def vencOk (s : State) (d : List Byte) : Chk :=
  let act := op1 d 0xE0; let a := dTd d 0
  let size := s.encodeSize (op8 d 0xE4)
  firstChk [
    need 15 (!s.enginesOff 1 && dRound d != 4),
    need 10 (decide (act ≤ 2)),
    need 10 (act != 0 || (decide (bits (op1 d 0xE1) 0 2 ≤ 1) && decide (1 ≤ op1 d 0xE3)
      && sideOk (op2 d 0xEC) 8192 && sideOk (op2 d 0xEE) 4352
      && (bits (op1 d 0xE1) 0 2 == 0 || decide (64 ≤ op4 d 0xF2)))),
    need 0 (act != 1 || (a.n == 1 && a.c == 3 && decide (a.t ≤ 64) && (a.fmt == .uint8 || (!a.fmt.isInt && a.fmt != .acc))
      && (match size with | none => true | some (w, h) => a.w == w && a.h == h))),
    need 2 (act != 1 || (dTd d 2).isBytes)]

def ingestOk (s : State) (d : List Byte) : Chk :=
  let o := dTd d 2
  firstChk [
    need 15 (!s.enginesOff 2 && dRound d != 4),
    need 2 ((o.c == 3 || o.c == 1) && !o.fmt.isInt && o.fmt != .acc)]

def pyramidOk (s : State) (d : List Byte) : Chk :=
  firstChk [
    need 15 (!s.enginesOff 2 && dRound d != 4),
    need 0 (!(dTd d 0).fmt.isInt && (dTd d 0).fmt != .acc),
    need 10 (decide (1 ≤ op1 d 0xE0) && decide (op1 d 0xE0 ≤ 8) && decide (op1 d 0xE1 ≤ 1) && decide (op1 d 0xE2 ≤ 2)),
    need 10 (op1 d 0xE2 == 0 || (decide (1 ≤ op2 d 0xEA) && decide (1 ≤ op2 d 0xEC))),
    need 10 (op1 d 0xE2 != 2 || ((dTd d 0).h % op2 d 0xEA == 0 && (dTd d 0).w % op2 d 0xEC == 0))]

def paceOk (d : List Byte) : Chk :=
  let act := op1 d 0xE0; let a := dTd d 0; let num := op4 d 0xE8; let den := op2 d 0xEC
  firstChk [
    need 10 (decide (act ≤ 2) && decide (op1 d 0xE1 ≤ 15)),
    need 10 (act != 0 || (decide (2 ≤ op2 d 0xE4) && decide (1 ≤ op2 d 0xE6) && decide (op2 d 0xE6 < op2 d 0xE4)
      && decide (1 ≤ den) && decide (4000000 * den ≤ num) && decide (num ≤ 1000000000 * den))),
    need 10 (act != 1 || decide (op1 d 0xE2 ≤ 5) || (op1 d 0xE2 == 0xE0 && op2 d 0xE6 == 1)),
    need 0 (act != 1 || (a.fmt == .uint8 && a.n == 1 && a.t == 1 && a.w == 1))]

def fenceOk (d : List Byte) : Chk := need 10 (decide (op1 d 0xE0 ≤ 1) && decide (op1 d 0xE1 ≤ 1))

def barrierOk (d : List Byte) : Chk :=
  need 10 (decide (op2 d 0xE0 ≤ 4095) && decide (1 ≤ op2 d 0xE2) && decide (op2 d 0xE2 ≤ 2048))

def hintOk (s : State) (d : List Byte) : Chk :=
  need 10 (decide (1 ≤ op1 d 0xE0) && decide (op1 d 0xE0 ≤ 7) && (List.range 96).any (fun c => s.maskHas (field d 0xE4 12) c))

/-- The fields and shapes of an opcode. -/
def opFieldsOk (s : State) (secure : Bool) (d : List Byte) : Chk :=
  match dOpcode d with
  | 0x01 => matOk d
  | 0x02 => attendOk s d
  | 0x03 => normOk d
  | 0x04 => funcOk s secure d
  | 0x05 => reduceOk d
  | 0x06 => topkOk d
  | 0x07 => sampleOk d
  | 0x08 => noiseOk d
  | 0x09 => appendOk d
  | 0x0A => retrieveOk s d
  | 0x0B => releaseOk d
  | 0x0C => copyOk s d
  | 0x0D => collOk d
  | 0x0E => vdecOk s d
  | 0x0F => vencOk s d
  | 0x10 => ingestOk s d
  | 0x11 => pyramidOk s d
  | 0x12 => paceOk d
  | 0x13 => fenceOk d
  | 0x14 => barrierOk d
  | _ => hintOk s d

/-- OPARAM areas of a stage: address, bytes, whether the stage writes it (Tables 7.1, 7.6, 7.8, 7.9, 8.7, 9.3, 11.12, 12.9, 13.3, 13.4,
13.7; R171, R195, R201, R225, R324, R334, R349, R359). -/
def areas (d : List Byte) : List (Nat × Nat × Bool) :=
  let sheaves := (dTd d 0).n * queryBlocks d * headsKv d * 4160
  match dOpcode d with
  | 0x02 =>
    (if atPaged d then [(opAddr d 0xF0, sheaves, false)] else [])
      ++ (if atBias d then [(opAddr d 0xF6, headsQ d * (if atAxes d then 3072 else 8192), false)] else [])
  | 0x06 | 0x07 =>
    if selRecords d then [(selArea d, (outTd d).rows * selTiles d * selE d * 16, false)] else []
  | 0x09 => [(opAddr d 0xEC, 16 * (dTd d 0).n + 4, true)]
  | 0x0A => [(opAddr d 0xE8, 16 * (dTd d 0).n + 4, true), (opAddr d 0xEE, sheaves, true)]
  | 0x0B => [(opAddr d 0xEC, 16 * op2 d 0xE2 + 4, true)]
  | 0x0D => [(opAddr d 0xF0, 2 * op2 d 0xE2 + 4, false)]
  | 0x0E | 0x0F => if op1 d 0xE0 = 0 then [(opAddr d 0xF6, 8256, true)] else []
  | 0x10 => [(opAddr d 0xE0, 64 + 32 * ((dTd d 2).n * (dTd d 2).t) + 4, false)]
  | 0x11 => [(opAddr d 0xE4, 40 * op1 d 0xE0 + 4, false)]
  | 0x12 => if op1 d 0xE0 = 0 then [(opAddr d 0xF6, 64, true)] else []
  | _ => []

/-- Slots are present, in range, nested where written, and overlap only in place (R95-R97, R103). R97's window condition is read
for MATMUL alone, the one opcode whose window moves its operand (DEDUCED, log 57). -/
def slotChecks (s : State) (d : List Byte) : Chk :=
  let slots := usedSlots d
  let win : Bool := dOpcode d != 1 || (windowOf d).plain
  let srcs := slots.filter (fun p => !p.2)
  firstChk (slots.map (fun p =>
    let t := dTd d p.1
    need p.1 (dTdValid d p.1 && t.fieldsOk && (dOpcode d != 1 || p.1 != 0 || t.padOk) && (!p.2 || t.nested) && (dOpcode d == 0x0C || t.devid == s.lnk.devid)
      && (!p.2 || srcs.all (fun q => !t.overlaps (dTd d q.1) || (t.agrees (dTd d q.1) && win))))))

/-- Every address outside a COPY names this device, and CHAIN_ADDR is a multiple of 64 (R122, R313). -/
def addrChecks (s : State) (d : List Byte) : Chk :=
  firstChk ([
    need 4 (!usesChain d || (dChain d % 64 == 0 && dChain d >>> 48 == s.lnk.devid)),
    need 9 (!(namesMask (dOpcode d)) || dBatch d == 0 || dBatch d >>> 48 == s.lnk.devid)]
    ++ (areas d).map (fun a => need 10 (a.1 >>> 48 == s.lnk.devid)))

def check4 (s : State) (secure : Bool) (d : List Byte) : Chk :=
  firstChk [
    need 15 (!readsRound (dOpcode d) || (Round.ofCode (dRound d)).isSome),
    need 15 (tilesOk s d),
    slotChecks s d,
    opFieldsOk s secure d,
    addrChecks s d]

/-! ### Checks 5 to 7 -/

/-- A device of the domain is PRESENT (R98 check 5, spec/11 R307). -/
def State.peerPresent (s : State) (dev : Nat) : Bool := (s.lnk.peers.get {} dev).st == .present

def check5 (s : State) (d : List Byte) : Chk :=
  if dOpcode d = 0x0C then
    firstChk ((usedSlots d).map (fun p =>
      let v := (dTd d p.1).devid
      req 9 5 p.1 (v == s.lnk.devid || s.peerPresent v)))
  else none

/-- The local extents of a stage with WHERE, tag and whether written: slots, chain block, mask, areas. -/
def extents (s : State) (secure : Bool) (d : List Byte) : List (Nat × Bool × Bool × Nat × Nat) :=
  ((usedSlots d).filter (fun p => (dTd d p.1).devid == s.lnk.devid)).map (fun p =>
      let t := dTd d p.1
      (p.1, t.secure, p.2, t.lbase, t.span))
    ++ (if usesChain d then [(4, secure, false, dChain d % 2 ^ 48, 1024)] else [])
    ++ (if namesMask (dOpcode d) && dBatch d != 0 then [(9, secure, dOpcode d == 0x10, dBatch d % 2 ^ 48, maskBytes d)] else [])
    ++ (areas d).map (fun a => (10, secure, a.2.2, a.1 % 2 ^ 48, a.2.1))

/-- Checks 6 and 7 over extents, under the number `n6` and `n7` they are reported with; check 6 decides over all of them first. An
empty extent passes. -/
def extentChecks (s : State) (secure : Bool) (fn n6 n7 : Nat) (es : List (Nat × Bool × Bool × Nat × Nat)) : Chk :=
  let r := (es.filter (fun e => e.2.2.2.2 != 0)).map (fun e => (e.1, s.extentCheck secure e.2.1 fn e.2.2.2.1 e.2.2.2.2 e.2.2.1))
  firstChk (r.map (fun e => req 3 n6 e.1 (e.2 != 3)) ++ r.map (fun e => req 4 n7 e.1 (e.2 != 4)))

/-- The tag of a remote tensor is permitted to the ring's world (check 7). -/
def remoteTags (s : State) (secure : Bool) (d : List Byte) : Chk :=
  firstChk (((usedSlots d).filter (fun p => (dTd d p.1).devid != s.lnk.devid)).map (fun p =>
    req 4 7 p.1 (secure || !(dTd d p.1).secure)))

/-- Checks 1 to 7 of Table 4.6. -/
def admissionChecks (s : State) (st : Stage) : Chk :=
  let d := st.desc
  let op := dOpcode d
  match firstChk [req 1 1 15 (dCrcOk d), req 1 2 15 (dVersion d == 1), req 2 3 15 (decide (1 ≤ op) && decide (op ≤ 0x15))] with
  | some r => some r
  | none => match check4 s st.secure d with
    | some r => some r
    | none => match check5 s d with
      | some r => some r
      | none => match extentChecks s st.secure st.fn 6 7 (extents s st.secure d) with
        | some r => some r
        | none => remoteTags s st.secure d

/-- The address of the extent a WHERE of check 7 names, for the denial (spec/16 R437). -/
def whereAddr (d : List Byte) (whr : Nat) : Nat :=
  if whr ≤ 3 then (dTd d whr).lbase
  else if whr = 4 then dChain d % 2 ^ 48
  else if whr = 9 then dBatch d % 2 ^ 48
  else ((areas d).map (fun a => a.1 % 2 ^ 48)).headD 0

/-- A stage passes its last check: it takes its place among the admitted (R98, R113, spec/08 R218, spec/05 R138). -/
def State.accept (s : State) (n : Nat) (st : Stage) (counts : Option Arrival) : State :=
  let vers := (stageFns st.desc st.chain).filterMap (fun f =>
    (s.fnImage st.secure f).map (fun x => (f, x.version, x.image)))
  let s := s.setStage n { st with
    phase := .admitted, cls := dPriority st.desc, admOrder := s.dsp.admCount, admTime := s.time, fnVers := vers, arrival := counts }
  { s with dsp := { s.dsp with admCount := s.dsp.admCount + 1 } }

/-- A refusal, with the denial of check 7 counted and logged where it names a region (spec/16 R437). -/
def State.refuseWith (s : State) (n : Nat) (st : Stage) (r : Nat × Nat × Nat) (addr : Nat) : State :=
  let s := s.refuse n r.1 r.2.1 r.2.2
  if r.1 = 4 then s.deny st.secure st.fn addr else s

/-- ADMIT_STAGE (R98, R100, R117). -/
def execAdmitStage (slot : Nat) (s : State) : Out :=
  answer s (match s.stage slot with
    | none => s
    | some st =>
      if st.phase ≠ .fetched ∨ st.fetchFailed then s
      else
        let x := s.ring st.ring
        match admissionChecks s st with
        | some r =>
          if x.aborting then s.finish slot 0x0C else s.refuseWith slot st r (whereAddr st.desc r.2.2)
        | none =>
          if x.aborting ∧ ¬ st.isFence then s.finish slot 0x0C
          else
            let s := if x.aborting then s.setRing st.ring { x with aborting := false } else s
            if usesChain st.desc ∨ dOpcode st.desc = 0x11 then s.setStage slot { st with phase := .chainWait }
            else s.accept slot st none)

/-! ### Checks 8 and 9 (spec/05 R123, R125) -/

/-- Read the bytes of a control structure: the worst status met, the bytes. -/
def State.ctrlRead (s : State) (who : Requester) (a n : Nat) : List Byte × Nat × State :=
  (linePieces (n / 256 + 2) a n).foldl (fun (acc : List Byte × Nat × State) p =>
    let (bs, st, s') := acc.2.2.readPiece who p.1 p.2 0
    (acc.1 ++ bs, if st = 4 ∨ acc.2.1 = 4 then 4 else if st = 3 ∨ acc.2.1 = 3 then 3 else max st acc.2.1, s')) ([], 0, s)

/-- A chain block in memory: its bytes where check 8 accepts it. -/
def chainOk (b : List Byte) : Bool :=
  let n := cBlockLen b
  n % 4 == 0 && decide (68 ≤ n) && decide (n ≤ 1024) && cVersion b == 1
    && field b (n - 4) 4 == crc32c (b.take (n - 4))

/-- A source of a step fits (Table 5.7). -/
def srcOk (ch : List Byte) (isInt : Bool) (wk : TDesc) (src bc : Nat) (normSrc normMod2 : Bool) : Bool :=
  if src = 0 then true
  else decide (src ≤ 4) && decide (src ≤ cNAux ch) && auxFits (cAux ch (src - 1)) wk bc normSrc normMod2
    && (!isInt || (cAux ch (src - 1)).fmt.isInt || (cAux ch (src - 1)).fmt == .acc)

/-- A step of a chain is legal (Table 5.7). -/
def stepOk (s : State) (secure : Bool) (ch : List Byte) (isInt : Bool) (wk : TDesc) (x : ChainStep) : Bool :=
  decide (1 ≤ x.op) && decide (x.op ≤ 7)
    && (!cStaged ch || [0, 1, 3, 4, 5, 0xC].contains x.fmtCode)
    && (if x.op = 6 then !isInt && s.fnLoaded secure x.param
        else if x.op = 7 then
          !isInt && x.src != 0 && x.srcBc == 2 && x.src2 != 0 && x.src2Bc == 3
            && srcOk ch isInt wk x.src 2 true false && srcOk ch isInt wk x.src2 3 false true
        else srcOk ch isInt wk x.src x.srcBc false false)

/-- The refusals of Table 5.7. -/
def chainFieldsOk (s : State) (secure : Bool) (d ch : List Byte) : Bool :=
  let mat := dOpcode d == 1
  let isInt := intStage d
  let pf := cProFmt ch
  let a := dTd d 0
  decide (cNPro ch ≤ 8) && decide (cNDrain ch ≤ 15) && decide (cNAux ch ≤ 4) && cBlockLen ch == cTrueLen ch
    && cDrainTo ch != 3 && !(cDrainTo ch == 1 && cRetOut ch != 0) && (mat || cDrainTo ch == 0)
    && (pf == 0xF || ((Fmt.ofCode pf).any Fmt.isArray && mat && !isInt))
    && (pf != 0xF || cNPro ch == 0) && decide (cProRound ch ≤ 3)
    && (pf == 0xF || !(a.fmt == .fp64 || a.fmt.isInt || a.fmt == .acc))
    && !(cStaged ch && isInt)
    && (cProSteps ch).all (stepOk s secure ch isInt a) && (cDrainSteps ch).all (stepOk s secure ch isInt (chainTd d))
    && decide (((stageFns d ch).map (s.fnTable secure)).sum ≤ 65536)
    && decide (cRetOut ch ≤ 4095) && decide (cRetIn ch ≤ 4095) && !(cRetOut ch != 0 && cRetOut ch == cRetIn ch)
    && (mat || (cRetOut ch == 0 && cRetIn ch == 0)) && decide (cRetSlot ch ≤ 1)
    && (!cArrival ch || (mat && (windowOf d).plain && !(cRetIn ch != 0 && cRetSlot ch == 0) && a.devid == s.lnk.devid))

/-- Entries of a partial record and its area for a drain (spec/08 R225). -/
def drainE (d : List Byte) : Nat := min (op2 d 0xE0) (matGrid d).tn
def drainArea (d : List Byte) : Nat × Nat := (opAddr d 0xE4, (dTd d 2).rows * (matGrid d).c * drainE d * 16)

/-- An auxiliary tensor through checks 4 to 7, each with its own status. -/
def auxChecks (s : State) (st : Stage) (i : Nat) : Chk :=
  let t := cAux st.chain i
  let d := st.desc
  let win : Bool := dOpcode d != 1 || (windowOf d).plain
  let dests := ((usedSlots d).filter Prod.snd).map (fun p => dTd d p.1)
  match req 2 9 (5 + i) (t.fieldsOk && t.devid == s.lnk.devid && dests.all (fun o => !o.overlaps t || (o.agrees t && win))) with
  | some r => some r
  | none => extentChecks s st.secure st.fn 9 9 [(5 + i, t.secure, false, t.lbase, t.span)]

/-- Check 9 for a chain block. -/
def check9 (s : State) (st : Stage) : Chk :=
  let d := st.desc; let ch := st.chain
  let a := (dTd d 0).fmt; let b := (dTd d 1).fmt
  let mat := dOpcode d == 1
  let toThr := cDrainTo ch == 1 || cDrainTo ch == 2
  match firstChk [
      req 2 9 4 (chainFieldsOk s st.secure d ch),
      (if cProFmt ch = 0xF then req 2 9 0 (!mat || pairOk a b (dCellOp d))
       else req 2 9 4 (((Fmt.ofCode (cProFmt ch)).getD .e4m3).pairs b)),
      req 2 9 10 (!(mat && toThr) || (decide (1 ≤ op2 d 0xE0) && decide (op2 d 0xE0 ≤ 1024)
        && (drainArea d).1 >>> 48 == s.lnk.devid))] with
  | some r => some r
  | none =>
    match (if mat && toThr then extentChecks s st.secure st.fn 9 9
        [(10, st.secure, true, (drainArea d).1 % 2 ^ 48, (drainArea d).2)] else none) with
    | some r => some r
    | none => firstChk ((List.range (cNAux ch)).map (auxChecks s st))

/-- A level tensor of a PYRAMID (spec/12 R349). -/
def levelTd (tab : List Byte) (k : Nat) : TDesc := tdOf ((tab.drop (40 * k)).take 40)

/-- Height and width of a level. -/
def levelSize (d : List Byte) : Nat → Nat × Nat
  | 0 => if op1 d 0xE2 = 0 then ((dTd d 0).h, (dTd d 0).w) else (op2 d 0xEA, op2 d 0xEC)
  | k + 1 => let (h, w) := levelSize d k; (ceilDiv h 2, ceilDiv w 2)

/-- Check 9 for a level table: sizes, then each level through checks 4 to 7 as a destination. -/
def levelChecks (s : State) (st : Stage) (tab : List Byte) : Chk :=
  let a := dTd st.desc 0
  firstChk ((List.range (op1 st.desc 0xE0)).map (fun k =>
    let t := levelTd tab k
    let (h, w) := levelSize st.desc k
    match req 2 9 10 (t.n == a.n && t.t == a.t && t.c == a.c && t.h == h && t.w == w && !t.fmt.isInt && t.fmt != .acc
        && t.fieldsOk && t.nested && t.devid == s.lnk.devid && (!t.overlaps a || t.agrees a)) with
    | some r => some r
    | none => extentChecks s st.secure st.fn 9 9 [(10, t.secure, true, t.lbase, t.span)]))

/-- Arrival windows registered (spec/05 R138). -/
def State.arrivalWindows (s : State) : Nat := (s.dsp.stages.filter (fun p => p.2.arrival.isSome)).length

/-- The end of check 9: refused, held for an arrival window, or admitted. -/
def State.settleCheck9 (s : State) (n : Nat) (st : Stage) (c : Chk) : State :=
  match c with
  | some r =>
    let addr := if 5 ≤ r.2.2 ∧ r.2.2 ≤ 8 then (cAux st.chain (r.2.2 - 5)).lbase else (drainArea st.desc).1 % 2 ^ 48
    s.refuseWith n st r addr
  | none =>
    if dOpcode st.desc = 1 ∧ cArrival st.chain then
      if s.arrivalWindows < 256 then s.accept n st (some ⟨List.replicate (matGrid st.desc).r 0⟩) else s.setStage n st
    else s.accept n st none

/-- What check 8 reads and accepts: the bytes, or a status; a block already read is not read again (R100). -/
def State.readChain (s : State) (n : Nat) (st : Stage) : (List Byte ⊕ Nat) × State :=
  if 68 ≤ st.chain.length then (.inl st.chain, s)
  else
    let a := dChain st.desc % 2 ^ 48
    let (h, st1, s) := s.ctrlRead (st.who n) a 64
    let len := cBlockLen h
    if st1 ≠ 0 then (.inr st1, s)
    else if len < 68 ∨ 1024 < len then (.inr 1, s)
    else
      let (t, st2, s) := s.ctrlRead (st.who n) (a + 64) (len - 64)
      if st2 ≠ 0 then (.inr st2, s) else if chainOk (h ++ t) then (.inl (h ++ t), s) else (.inr 1, s)

/-- The level table of a PYRAMID, read alike (spec/12 R349). -/
def State.readLevels (s : State) (n : Nat) (st : Stage) : (List Byte ⊕ Nat) × State :=
  let len := 40 * op1 st.desc 0xE0
  let (b, status, s) := s.ctrlRead (st.who n) (opAddr st.desc 0xE4 % 2 ^ 48) (len + 4)
  if status ≠ 0 then (.inr status, s)
  else if field b len 4 = crc32c (b.take len) then (.inl (b.take len), s) else (.inr 1, s)

/-- A failure of check 8: poison stops the ring (spec/10 Table 10.13). -/
def State.failCheck8 (s : State) (n : Nat) (st : Stage) (status whr : Nat) : State :=
  (s.setStage n { st with check := 8, whr := whr, forceStop := st.forceStop || status == 8 }).finish n status

/-- CHAIN_BLOCK_CHECK (R123; spec/12 R349). -/
def execChainBlockCheck (slot : Nat) (s : State) : Out :=
  answer s (match s.stage slot with
    | none => s
    | some st =>
      if st.phase ≠ .chainWait then s
      else if dOpcode st.desc = 0x11 then
        match s.readLevels slot st with
        | (.inr status, s) => s.failCheck8 slot st status 10
        | (.inl tab, s) => s.settleCheck9 slot { st with table := tab } (levelChecks s st tab)
      else
        match s.readChain slot st with
        | (.inr status, s) => s.failCheck8 slot st status 4
        | (.inl b, s) =>
          let st := { st with chain := b }
          s.settleCheck9 slot st (check9 s st))

end Sys2Proof.Machine
end

