-- ==== Sys2Proof/Machine/Atomics.lean ====
section
/-!
DEFINITION. Atomic operations on memory (spec/10 R260-R263; spec/19 R496) and the converted elements of tensors that the engines
read and write (spec/02 R45; spec/11 R315, R326; spec/12 R346).
-/
namespace Sys2Proof.Machine

/-- The format of an atomic by its code (spec/11 Table 11.3). -/
def atomFmt : Nat → Fmt
  | 0 => .fp32
  | 1 => .bf16
  | 2 => .int32
  | _ => .int64

/-- One element of an atomic (Table 10.7): operation 0 ADD, 1 MIN, 2 MAX; the code in memory, the code of the request. -/
def atomElem (f : Fmt) (op : Nat) (wrap : Bool) (a b : Nat) : Nat × Flags :=
  if f.isInt then
    let x := decodeInt f a; let y := decodeInt f b
    if op = 0 then encodeInt f wrap (x + y)
    else (unsigned (if op = 1 then min x y else max x y) f.width, 0)
  else
    let x := decodeFp f a; let y := decodeFp f b
    if op = 0 then
      let (z, fl) := Fp.addX x y
      let (c, fc) := encodeFp f .rne false 0 z
      (c, fl ||| fc ||| sigFlag (isSignalling f a || isSignalling f b))
    else ((encodeFp f .rne false 0 (if op = 1 then Fp.minF x y else Fp.maxF x y)).1, 0)

/-- An atomic over consecutive elements: the new bytes and the flags. -/
def atomBytes (f : Fmt) (op : Nat) (wrap : Bool) (old new : List Byte) : List Byte × Flags :=
  let w := f.width / 8
  (List.range (new.length / w)).foldl (fun acc i =>
    let (c, fl) := atomElem f op wrap (field old (i * w) w) (field new (i * w) w)
    (acc.1 ++ toLE w c, acc.2 ||| fl)) ([], 0)

/-- Write bytes at rest, past the Granary (R261: the controller's read-modify-write). -/
def State.storeRest (s : State) (a : Nat) (bs : List Byte) : State :=
  { s with mem := { s.mem with cells := cellsPut s.mem.cells a bs } }

/-- The status an atomic meets before it is applied (Table 16.3 rows 1 to 6, Table 10.8 rows 1 to 5): 0 passes. -/
def State.atomicStatus (s : State) (who : Requester) (a n : Nat) : Nat :=
  match s.place a with
  | .host | .reserved => 3
  | _ =>
    if touches s.kvExtents a n || touches s.poolExtents a n then 3
    else
      let h := hedge ((s.regionAt a).map Prod.snd) who.secure who.fn
      if h ≠ 0 then h
      else if s.poisoned (a / 256) || ((s.unit (unitOf (a / 256))).st == .out && (s.resident (a / 256)).isNone) then 8
      else if !s.mem.inService.getD (hubOf a) false then 3
      else 0

/-- Apply an atomic that passed: in the Granary where the line is resident, at the controller otherwise (R261). It takes one bank access
(R252), which hits or misses (Table 10.17; DEDUCED, log 65). -/
def State.atomicApply (s : State) (who : Requester) (a op : Nat) (f : Fmt) (wrap : Bool) (bs : List Byte) : Flags × State :=
  let (new, fl) := atomBytes f op wrap (s.peeks a bs.length) bs
  match s.resident (a / 256) with
  | some g => (fl, ((((s.tick1 grnHit).tick1 atomGrn).hit g 0 who.stage true).storeLine (a / 256) a new false))
  | none => (fl, ((s.tick1 grnMiss).tick1 atomMc).storeRest a new)

/-- One atomic request of a stage, an engine or a peer, within one 64-byte block (R263): status, flags, state. -/
def State.atomicFor (s : State) (who : Requester) (a op : Nat) (f : Fmt) (wrap : Bool) (bs : List Byte) : Nat × Flags × State :=
  let st := s.atomicStatus who a bs.length
  if st = 4 then (4, 0, s.deny who.secure who.fn a)
  else if st ≠ 0 then (st, 0, s)
  else if s.lineAway (a / 256) then (0, 0, s.stall)
  else let (fl, s) := s.atomicApply who a op f wrap bs; (0, fl, s)

/-- Atomics over an extent, block by block: for each piece its address, length and status; the flags. -/
def State.atomicsFor (s : State) (who : Requester) (a op : Nat) (f : Fmt) (wrap : Bool) (bs : List Byte) :
    List (Nat × Nat × Nat) × Flags × State :=
  (blockPieces (bs.length / 64 + 2) a bs.length).foldl (fun acc p =>
    let (st, fl, s) := acc.2.2.atomicFor who p.1 op f wrap ((bs.drop (p.1 - a)).take p.2)
    (acc.1 ++ [(p.1, p.2, st)], acc.2.1 ||| fl, s)) ([], 0, s)

/-! ### Elements of a tensor -/

/-- Convert an element code between formats (R45); no random bits are drawn. Outside a tile stage the spec does not say which form a 0xC
element has (DESIGN CHOICE, log 62): as a source it is read as binary64; as the destination of an integer source it takes the INT64 bits,
of a floating-point source the binary64 bits. -/
def convElem (src dst : Fmt) (c : ConvMode) (x : Nat) : Nat × Flags :=
  if src.isInt then convInt dst c 0 (decodeInt src x) else convFp dst c 0 (decodeFp src x)

def convElems (src dst : Fmt) (c : ConvMode) (xs : List Nat) : List Nat × Flags :=
  xs.foldl (fun acc x => let (y, fl) := convElem src dst c x; (acc.1 ++ [y], acc.2 ||| fl)) ([], 0)

/-- Bytes that hold elements `e0` to `e0 + n - 1` of a row, as first byte and count. -/
def elemSpan (f : Fmt) (e0 n : Nat) : Nat × Nat :=
  let lo := e0 * f.width / 8
  (lo, ceilDiv ((e0 + n) * f.width) 8 - lo)

/-- Elements of bytes that start at the byte holding element `e0`. -/
def elemsOf (f : Fmt) (bs : List Byte) (e0 n : Nat) : List Nat :=
  let skip := if f.width = 4 then e0 % 2 else 0
  (List.range n).map (fun i => elemOf f bs (skip + i))

/-- Read `n` elements of row `r` of a tensor from element `e0`. -/
def State.readElems (s : State) (who : Requester) (t : TDesc) (r e0 n : Nat) : List Nat × State :=
  let (lo, k) := elemSpan t.fmt e0 n
  let (bs, s) := s.readFor who (t.rowAt r + lo) k t.hint
  (elemsOf t.fmt bs e0 n, s)

/-- The bytes of elements of a row from element `e0`; a nibble next to them keeps what memory holds. -/
def State.elemBytes (s : State) (t : TDesc) (r e0 : Nat) (cs : List Nat) : Nat × List Byte :=
  let lo := (elemSpan t.fmt e0 cs.length).1
  if t.fmt.width = 4 then
    let head := if e0 % 2 = 1 then [bits (s.peek (t.rowAt r + lo)).toNat 0 4] else []
    let e := e0 + cs.length
    let tail := if e % 2 = 1 ∧ e < t.c then [bits (s.peek (t.rowAt r + e / 2)).toNat 4 4] else []
    (t.rowAt r + lo, packRow t.fmt (head ++ cs ++ tail))
  else (t.rowAt r + lo, packRow t.fmt cs)

/-- Write elements of a row from element `e0`. -/
def State.writeElems (s : State) (who : Requester) (t : TDesc) (r e0 : Nat) (cs : List Nat) : State :=
  let (a, bs) := s.elemBytes t r e0 cs
  s.writeFor who a bs t.hint

/-- Elements `k` to `k + n - 1` in lexicographic order (spec/11 R323), cut by rows: row, first element, count. -/
def elemRuns : Nat → Nat → Nat → Nat → List (Nat × Nat × Nat)
  | 0, _, _, _ => []
  | fuel + 1, c, k, n =>
    if n = 0 then []
    else
      let m := min n (c - k % c)
      (k / c, k % c, m) :: elemRuns fuel c (k + m) (n - m)

/-- Read elements in lexicographic order. -/
def State.readStream (s : State) (who : Requester) (t : TDesc) (k n : Nat) : List Nat × State :=
  (elemRuns (n / t.c + 2) t.c k n).foldl (fun acc p =>
    let (xs, s) := acc.2.readElems who t p.1 p.2.1 p.2.2
    (acc.1 ++ xs, s)) ([], s)

/-- Write elements in lexicographic order from element `k`. -/
def State.writeStream (s : State) (who : Requester) (t : TDesc) (k : Nat) (cs : List Nat) : State :=
  (elemRuns (cs.length / t.c + 2) t.c k cs.length).foldl (fun s p =>
    s.writeElems who t p.1 p.2.1 ((cs.drop (p.1 * t.c + p.2.1 - k)).take p.2.2)) s

/-- The conversion settings of an engine stage: ROUND, SATURATE, INT_MODE. -/
def engineConv (d : List Byte) (sat : Bool) : ConvMode := ⟨(Round.ofCode (dRound d)).getD .rne, sat, dWrap d⟩

end Sys2Proof.Machine
end

