-- ==== Sys2Proof/Machine/Kv.lean ====
section
/-!
DEFINITION. The paged key-value store: pools, pages, windrows, sequences, KV_APPEND and KV_RELEASE, and what a KV_RETRIEVE sees at
its start (spec/07 R185-R209).
-/
namespace Sys2Proof.Machine

/-! ### Counters (Tables 7.14, 16.11) -/

def kvTokens : Nat := 0x300100
def kvBales : Nat := 0x300108
def kvBalesForced : Nat := 0x300110
def kvPagesFreed : Nat := 0x300118
def kvRefusedCnt : Nat := 0x300120
def kvFullCnt : Nat := 0x300128
def kvStale : Nat := 0x300130
def kvSinkDropped : Nat := 0x300138
def kvAttKept : Nat := 0x300140
def kvAttRecomputed : Nat := 0x300148
def kvSheafPages : Nat := 0x300150

/-- Count an event of the store: the BAR0 page counts Open events only (R209); Secure refusals and fulls count in the telemetry of
spec/16 R453. -/
def State.kvCount (s : State) (secure : Bool) (a n : Nat) : State :=
  if n = 0 then s
  else if !secure then s.bump a n
  else if a = kvRefusedCnt then s.bump (objCtr 0x7300 6) n
  else if a = kvFullCnt then s.bump (objCtr 0x7300 7) n
  else s

/-! ### Queues, pools and pages (R185-R191) -/

/-- The number at the head of a queue. -/
def FreeQueue.pop (q : FreeQueue) : Option (Nat × FreeQueue) :=
  if q.next < q.stop then some (q.next, { q with next := q.next + 1 })
  else match q.freed with
    | [] => none
    | a :: rest => some (a, { q with freed := rest })

def FreeQueue.push (q : FreeQueue) (n : Nat) : FreeQueue := { q with freed := q.freed ++ [n] }

def State.setKvPool (s : State) (secure : Bool) (p : KvPool) : State :=
  { s with kv := if secure then { s.kv with secPool := p } else { s.kv with openPool := p } }
def State.kvSeq (s : State) (slot : Nat) : KvSeq := s.kv.seqs.get {} slot
def State.setKvSeq (s : State) (slot : Nat) (q : KvSeq) : State := { s with kv := { s.kv with seqs := s.kv.seqs.put slot q } }

/-- A page from the first tier, or from the other when it has none (R191). -/
def KvPool.take (p : KvPool) (g7First : Bool) : Option (Nat × KvPool) :=
  let hbm := p.freeHbm.pop.map (fun x => (x.1, { p with freeHbm := x.2 }))
  let g7 := p.freeG7.pop.map (fun x => (x.1, { p with freeG7 := x.2 }))
  if g7First then (if g7.isSome then g7 else hbm) else (if hbm.isSome then hbm else g7)

/-- Address of a page's frame (R187). -/
def State.pageAddr (s : State) (secure : Bool) (num : Nat) : Nat :=
  let p := s.kvPool secure
  if num < p.hbm.2 then p.hbm.1 + num * s.kvFrame else p.g7.1 + (num - p.hbm.2) * s.kvFrame

/-- A page handle and a sequence handle (R188). -/
def pageHandle (secure : Bool) (num : Nat) (gen : Word32) : Nat := num + 2 ^ 24 * b2n secure + 2 ^ 32 * gen.toNat
def seqHandle (slot : Nat) (gen : Word32) : Nat := slot + 2 ^ 16 * gen.toNat

/-! ### Bales (R191, R192, R198) -/

/-- The values of a key or a value row as held. -/
def kvValues (s : State) (b : List Byte) : List Fp := (List.range s.kv.d).map (fun i => decodeFp s.kvFmt (elemOf s.kvFmt b i))

/-- The summary key of filled keys (R198): its codes and flags. -/
def summaryKey (s : State) (toks : List KvToken) : List Nat × Flags :=
  let rows := toks.map (fun t => kvValues s t.key)
  (List.range s.kv.d).foldl (fun acc i =>
    let (c, f) := meanBf16 (rows.map (fun r => r.getD i .zero))
    (acc.1 ++ [c], acc.2 ||| f)) ([], 0)

/-- The trailer of a page frame (Table 7.4), 512 bytes. -/
def pageTrailer (sum : List Nat) (first fill : Nat) (sink : Bool) (gen : Word32) : List Byte :=
  let b := packRow .bf16 sum ++ toLE 8 first ++ toLE 2 fill ++ toLE 1 (b2n sink) ++ toLE 4 gen.toNat
  b ++ List.replicate (512 - b.length) 0#8

/-- Write a page's frame: the filled keys, values and positions, and the trailer. -/
def State.writePage (s : State) (a : Nat) (toks : List KvToken) (trailer : List Byte) : State :=
  let n := s.kv.p * s.kvKey
  let s := s.writeRaw a (toks.flatMap KvToken.key)
  let s := s.writeRaw (a + n) (toks.flatMap KvToken.val)
  let s := s.writeRaw (a + 2 * n) (toks.flatMap (fun t => toLE 8 t.pos))
  s.writeRaw (a + 2 * n + 8 * s.kv.p) trailer

/-- What MODE 1 of a release compares (R196). -/
def posField (axes : Bool) (pos : Nat) : Nat := if axes then bits pos 24 24 else pos

/-- Bale a windrow of a sequence for the append of stage `n`: a page is taken and written, the windrow is EMPTY (R191, R192). -/
def State.bale (s : State) (n slot : Nat) (key : Nat × Nat) (forced : Bool) : State :=
  let q := s.kvSeq slot
  let w := q.winds.get {} key
  match (s.kvPool q.secure).take q.tierG7 with
  | none => s
  | some (num, pool) =>
    let gen := (pool.pages.get {} num).gen
    let page : KvPage := { st := .held, gen := gen, seq := slot, layer := key.1, head := key.2, first := w.first
                           fill := w.toks.length, sink := w.sink
                           top := (w.toks.map (fun t => posField q.posMode t.pos)).foldl max 0 }
    let (sum, fl) := summaryKey s w.toks
    let s := s.setKvPool q.secure { pool with pages := pool.pages.put num page }
    let s := s.writePage (s.pageAddr q.secure num) w.toks (pageTrailer sum w.first w.toks.length w.sink gen)
    let e := w.first + w.toks.length
    let w' : Windrow := { w with first := e, toks := [], halves := [], sink := false, settled := if e ≤ w.visible then e else w.settled }
    ((s.setKvSeq slot { q with winds := q.winds.put key w' }).raise n fl).kvCount q.secure
      (if forced then kvBalesForced else kvBales) 1

/-! ### Accounting (R204, R205) -/

/-- Windrows that R192 may bale for an append to a layer of a sequence, oldest first: slot, layer, head, chunks. -/
def State.baleable (s : State) (slot layer : Nat) : List (Nat × Nat × Nat × Nat) :=
  let q0 := s.kvSeq slot
  let all := s.kv.seqs.flatMap (fun p =>
    if p.2.st == .free || p.2.st == .releasing || p.2.secure != q0.secure then []
    else (p.2.winds.filter (fun w => !w.2.toks.isEmpty && !(p.1 == slot && w.1.1 == layer))).map
      (fun w => (((w.2.since * 65536 + p.1) * 256 + w.1.1) * 128 + w.1.2, p.1, w.1.1, w.1.2, ceilDiv w.2.toks.length s.kvTpc)))
  (sortBy Prod.fst all).map Prod.snd

/-- The first of them that free `k` chunks; none where they cannot. -/
def pickForced (k : Int) : List (Nat × Nat × Nat × Nat) → Option (List (Nat × Nat × Nat))
  | [] => if k ≤ 0 then some [] else none
  | w :: ws => if k ≤ 0 then some [] else (pickForced (k - w.2.2.2) ws).map ((w.1, w.2.1, w.2.2.1) :: ·)

/-- Pages and chunks that an append of `t` tokens to every head of a layer needs. -/
def State.appendNeeds (s : State) (slot layer t : Nat) : Nat × Int :=
  let q := s.kvSeq slot
  (List.range q.heads).foldl (fun acc g =>
    let f := (q.winds.get {} (layer, g)).toks.length
    (acc.1 + (f + t) / s.kv.p, acc.2 + (ceilDiv ((f + t) % s.kv.p) s.kvTpc : Int) - (ceilDiv f s.kvTpc : Int))) (0, 0)

/-- `account` of R204 for a sequence that is LIVE: the windrows to bale first, or none where the append is FULL. -/
def State.account (s : State) (slot layer t : Nat) : Option (List (Nat × Nat × Nat)) :=
  let q := s.kvSeq slot
  let (need, chunks) := s.appendNeeds slot layer t
  let short := chunks - ((s.kvChunks q.secure : Int) - (s.kvChunksUsed q.secure : Int))
  match pickForced short (s.baleable slot layer) with
  | none => none
  | some forced => if (s.kvPool q.secure).free < need + forced.length then none else some forced

/-! ### Appending (R194) -/

/-- Sinks of a head: its pages and its windrow. DESIGN CHOICE (log 64): a sink page that is RELEASING counts until it is FREE. -/
def State.kvSinks (s : State) (slot : Nat) (key : Nat × Nat) : Nat :=
  let q := s.kvSeq slot
  ((s.kvPool q.secure).pages.filter (fun p =>
    p.2.st != .free && p.2.seq == slot && p.2.layer == key.1 && p.2.head == key.2 && p.2.sink)).length
    + b2n (q.winds.get {} key).sink

/-- Mark the windrow that receives a head's first token as a sink, at most 16 to a head (R194). -/
def State.markSink (s : State) (slot : Nat) (key : Nat × Nat) : State :=
  let q := s.kvSeq slot
  let w := q.winds.get {} key
  if w.sink then s
  else if 16 ≤ s.kvSinks slot key then s.kvCount q.secure kvSinkDropped 1
  else s.setKvSeq slot { q with winds := q.winds.put key { w with sink := true } }

/-- Append one token to a windrow, in a new chunk where the last is full; a windrow of P tokens is baled (R191; spec/10 R258). -/
def State.pushToken (s : State) (n slot : Nat) (key : Nat × Nat) (t : KvToken) : State :=
  let q := s.kvSeq slot
  let w := q.winds.get {} key
  let halves := if w.toks.length % s.kvTpc = 0 then w.halves ++ [s.chunkHalf q.secure] else w.halves
  let w := { w with toks := w.toks ++ [t], halves := halves, since := if w.toks.isEmpty then s.kv.since else w.since }
  let s := s.setKvSeq slot { q with winds := q.winds.put key w }
  if w.toks.length = s.kv.p then s.bale n slot key false else s

/-- Position of row `r` of a sample of a tensor under POS_MODE (R181). -/
def posOf (axes : Bool) (pos0 : Nat) (t : TDesc) (r : Nat) : Nat :=
  if axes then
    let (_, ti, hi, wi) := t.tuple r
    (bits pos0 24 24 + ti) * 2 ^ 24 + (bits pos0 12 12 + hi) * 2 ^ 12 + (bits pos0 0 12 + wi)
  else pos0 + r % (t.t * t.h * t.w)

/-- Read a row of TD0 or TD1 in the pool format (R194): the codes, raising the conversion's flags. -/
def State.kvRow (s : State) (n : Nat) (who : Requester) (t : TDesc) (r : Nat) : List Nat × State :=
  let (xs, s) := s.readElems who t r 0 t.c
  let (ys, fl) := convElems t.fmt s.kvFmt ⟨.rne, true, false⟩ xs
  (ys, s.raise n fl)

/-- Append row `r` of the tensors to every head of a layer. -/
def State.appendRow (s : State) (n slot r : Nat) (st : Stage) : State :=
  let d := st.desc
  let (ks, s) := s.kvRow n (st.who n) (dTd d 0) r
  let (vs, s) := s.kvRow n (st.who n) (dTd d 1) r
  let pos := posOf (bit (op1 d 0xF3) 0) (op6 d 0xE6) (dTd d 0) r
  let part := fun (xs : List Nat) (g : Nat) => packRow s.kvFmt ((xs.drop (g * s.kv.d)).take s.kv.d)
  (List.range (s.kvSeq slot).heads).foldl (fun s g => s.pushToken n slot (op2 d 0xE4, g) ⟨part ks g, part vs g, pos⟩) s

/-- Append sample `i` to a sequence for which the accounting found room. -/
def State.appendSample (s : State) (n slot i : Nat) (st : Stage) (forced : List (Nat × Nat × Nat)) : State :=
  let d := st.desc
  let per := (dTd d 0).t * (dTd d 0).h * (dTd d 0).w
  let heads := (s.kvSeq slot).heads
  let secure := (s.kvSeq slot).secure
  let s := forced.foldl (fun s w => s.bale n w.1 w.2 true) s
  let s := { s with kv := { s.kv with since := s.kv.since + 1 } }
  let s := if bit (op1 d 0xE0) 0 then (List.range heads).foldl (fun s g => s.markSink slot (op2 d 0xE4, g)) s else s
  let s := (range (i * per) per).foldl (fun s r => s.appendRow n slot r st) s
  s.kvCount secure kvTokens (per * heads)

/-! ### Sequence tables (R195) -/

def resDone : Nat := 0
def resRefused : Nat := 1
def resFull : Nat := 2
def resSkipped : Nat := 3
def resMismatch : Nat := 4
def resWorld : Nat := 5

/-- Steps 3 to 5 of an entry's result: the slot a handle names, or a result. DESIGN CHOICE (log 64): a handle whose generation is the
current one of a slot that is free is REFUSED, though R188 does not call it stale. -/
def State.kvLook (s : State) (secure : Bool) (h : Nat) : Nat ⊕ Nat :=
  let slot := bits h 0 16
  let q := s.kvSeq slot
  if q.st == .free || q.gen.toNat != bits h 16 32 then .inr resRefused
  else if q.secure != secure then .inr resWorld
  else if q.st == .releasing then .inr resRefused
  else .inl slot

/-- Handle and action of an entry of a table. -/
def entHandle (t : List Byte) (i : Nat) : Nat := field t (16 * i) 8
def entAction (t : List Byte) (i : Nat) : Nat := field t (16 * i + 8) 1
def entResult (t : List Byte) (i : Nat) : Nat := field t (16 * i + 9) 1
def setResult (t : List Byte) (i res : Nat) : List Byte := putBytes t (16 * i + 9) (toLE 1 res)

/-- The status the entries of a table give (R195, step 3). -/
def tableStatus (t : List Byte) : Nat :=
  let has := fun r => (List.range (t.length / 16)).any (fun i => entResult t i == r)
  if has resFull then 6 else if has resRefused then 5 else if has resWorld then 4 else if has resMismatch then 2 else 0

/-- Read a sequence table of `k` entries: the entries, or the status that ends the stage. -/
def State.readTable (s : State) (n : Nat) (st : Stage) (k : Nat) : (List Byte ⊕ Nat) × State :=
  let (b, status, s) := s.ctrlRead (st.who n) (seqTable st.desc) (16 * k + 4)
  if status ≠ 0 then (.inr status, s)
  else if field b (16 * k) 4 = crc32c (b.take (16 * k)) then (.inl (b.take (16 * k)), s) else (.inr 1, s)

/-- End a stage whose table could not be read: poison stops the ring (spec/10 Table 10.13). -/
def State.failTable (s : State) (n : Nat) (st : Stage) (status : Nat) : State :=
  (s.setStage n { st with forceStop := st.forceStop || status == 8 }).finishWorst n status

def State.setTable (s : State) (n : Nat) (t : List Byte) : State :=
  { s with kv := { s.kv with runs := match s.kv.runs.find n with
      | some r => s.kv.runs.put n { r with table := t }
      | none => s.kv.runs.put n { table := t } } }

/-- Count a result in the store's counters. -/
def State.countResult (s : State) (secure : Bool) (res : Nat) : State :=
  if res = resRefused then s.kvCount secure kvRefusedCnt 1
  else if res = resFull then s.kvCount secure kvFullCnt 1
  else s

/-- A created sequence (R189): its slot and the state; none where no slot is free. -/
def State.createSeq (s : State) (st : Stage) : Option (Nat × State) :=
  let d := st.desc
  match s.kv.freeSlots.pop with
  | none => none
  | some (slot, fq) =>
    let q := s.kvSeq slot
    let q' : KvSeq := { st := .live, secure := st.secure, gen := q.gen, layers := op2 d 0xE2, heads := op1 d 0xF2
                        posMode := bit (op1 d 0xF3) 0, tierG7 := bit (op1 d 0xF3) 1, fn := st.fn }
    some (slot, ({ s with kv := { s.kv with freeSlots := fq } }).setKvSeq slot q')

/-- The slot an append entry works on, or its result (R195, R204). -/
def State.appendTarget (s : State) (st : Stage) (t : List Byte) (i : Nat) : (Nat ⊕ Nat) × State :=
  let d := st.desc
  let layer := op2 d 0xE4; let c := (dTd d 0).c
  if entAction t i = 2 ∨ !st.valid i then (.inr resSkipped, s)
  else if 2 < entAction t i then (.inr resMismatch, s)
  else if entAction t i = 1 then
    let layers := op2 d 0xE2; let heads := op1 d 0xF2
    if layers < 1 ∨ 256 < layers ∨ heads < 1 ∨ 128 < heads ∨ layers ≤ layer ∨ c ≠ heads * s.kv.d then (.inr resMismatch, s)
    else if (s.kvPool st.secure).free < s.kvWatermark st.secure then (.inr resRefused, s)
    else match s.createSeq st with
      | none => (.inr resRefused, s)
      | some (slot, s) => (.inl slot, s)
  else match s.kvLook st.secure (entHandle t i) with
    | .inr r => (.inr r, s)
    | .inl slot =>
      let q := s.kvSeq slot
      if q.layers ≤ layer ∨ c ≠ q.heads * s.kv.d ∨ q.posMode ≠ bit (op1 d 0xF3) 0 then (.inr resMismatch, s) else (.inl slot, s)

/-- One entry of an append: the table with its result and, for a created sequence, its handle. -/
def State.appendEntry (s : State) (n : Nat) (st : Stage) (t : List Byte) (i : Nat) : List Byte × State :=
  match s.appendTarget st t i with
  | (.inr r, s) => (setResult t i r, s.countResult st.secure r)
  | (.inl slot, s) =>
    let q := s.kvSeq slot
    let t := if entAction t i = 1 then putBytes t (16 * i) (toLE 8 (seqHandle slot q.gen)) else t
    let tokens := (dTd st.desc 0).t * (dTd st.desc 0).h * (dTd st.desc 0).w
    if q.st = .frozen then (setResult t i resFull, s.countResult st.secure resFull)
    else match s.account slot (op2 st.desc 0xE4) tokens with
      | none => (setResult t i resFull, (s.setKvSeq slot { q with st := .frozen }).countResult st.secure resFull)
      | some forced => (setResult t i resDone, s.appendSample n slot i st forced)

/-- A key-value stage waits for the engine: an append or a release that has started as a stage and not in the engine, or a retrieval
that only the engine keeps from starting (R207). -/
def State.kvWaits (s : State) (n : Nat) (st : Stage) : Bool :=
  if st.opcode = 0x0A then st.phase == .admitted && s.orderMet st && (s.ring st.ring).starts
  else (st.opcode == 0x09 || st.opcode == 0x0B) && st.phase == .running && (s.kv.runs.find n).isNone

/-- The key-value engine serves by class: nothing begins while an append is under way, nor before a waiting stage of a higher class. A
release that waits for its readers holds nothing back (R204, R207; spec/06 R164). -/
def State.kvTurn (s : State) (n : Nat) (st : Stage) : Bool :=
  (s.kv.runs.find n).isNone
    && !(s.dsp.stages.any (fun p => p.2.phase == .running && p.2.opcode == 0x09 && (s.kv.runs.find p.1).isSome))
    && !(s.dsp.stages.any (fun p => s.kvWaits p.1 p.2 && decide (st.cls < p.2.cls)))

def execKvAppendStart (slot : Nat) (s : State) : Out :=
  answer s (match s.stage slot with
    | none => s
    | some st =>
      if st.phase ≠ .running ∨ st.opcode ≠ 0x09 ∨ !s.kvTurn slot st then s
      else match s.readTable slot st (dTd st.desc 0).n with
        | (.inr status, s) => s.failTable slot ((s.stage slot).getD st) status
        | (.inl t, s) =>
          let (t, s) := (List.range (dTd st.desc 0).n).foldl
            (fun (acc : List Byte × State) i => acc.2.appendEntry slot st acc.1 i) (t, s)
          s.setTable slot t)

/-- Every appended token is visible, every page with it (R193). -/
def Windrow.shown (w : Windrow) : Windrow := { w with visible := w.first + w.toks.length, settled := w.first }

def State.showAppended (s : State) : State :=
  { s with kv := { s.kv with seqs := s.kv.seqs.map (fun p =>
      (p.1, { p.2 with winds := p.2.winds.map (fun w => (w.1, w.2.shown)) })) } }

def execKvAppendComplete (slot : Nat) (s : State) : Out :=
  answer s (match s.stage slot, s.kv.runs.find slot with
    | some st, some r => if st.phase = .running ∧ st.opcode = 0x09 then s.showAppended.finishWorst slot (tableStatus r.table) else s
    | _, _ => s)

/-! ### Releases (R196, R197, R206) -/

/-- Pages of a sequence that a release names: every HELD page, or those below a limit (R196). -/
def State.namedPages (s : State) (slot : Nat) (below : Option (Nat × Bool)) : List Nat :=
  let q := s.kvSeq slot
  ((s.kvPool q.secure).pages.filter (fun p => p.2.st == .held && p.2.seq == slot && (match below with
    | none => true
    | some (limit, sinks) => (sinks || !p.2.sink) && decide (p.2.top < (if q.posMode then bits limit 0 24 else limit))))).map Prod.fst

/-- A page enters RELEASING. -/
def State.releasePage (s : State) (secure : Bool) (num : Nat) : State :=
  let p := s.kvPool secure
  let x := p.pages.get {} num
  s.setKvPool secure { p with pages := p.pages.put num { x with st := .releasing, relAt := s.dsp.admCount } }

/-- ATTEND and KV_RETRIEVE stages of a world admitted and not completed. -/
def State.kvReaders (s : State) (secure : Bool) : List Nat :=
  (s.dsp.stages.filter (fun p => (p.2.phase == .admitted || p.2.phase == .running) && p.2.secure == secure
    && (p.2.opcode == 0x02 || p.2.opcode == 0x0A))).map Prod.fst

/-- A release starts: named pages and sequences enter RELEASING, and it waits for its readers. -/
def State.startRelease (s : State) (stage : Option Nat) (secure : Bool) (pages seqs : List Nat) : State :=
  let s := pages.foldl (fun s n => s.releasePage secure n) s
  let s := seqs.foldl (fun s k => s.setKvSeq k { s.kvSeq k with st := .releasing, relAt := s.dsp.admCount }) s
  { s with kv := { s.kv with releases := s.kv.releases ++ [⟨stage, secure, s.kvReaders secure, pages, seqs⟩] } }

/-- One entry of a release: the table, the pages and the sequences it names. -/
def State.releaseEntry (s : State) (st : Stage) (acc : List Byte × List Nat × List Nat) (i : Nat) :
    List Byte × List Nat × List Nat :=
  let (t, pages, seqs) := acc
  let d := st.desc
  if entAction t i = 2 then (setResult t i resSkipped, pages, seqs)
  else if entAction t i ≠ 0 then (setResult t i resMismatch, pages, seqs)
  else match s.kvLook st.secure (entHandle t i) with
    | .inr r => (setResult t i r, pages, seqs)
    | .inl slot =>
      if op1 d 0xE0 = 0 then
        if seqs.contains slot then (setResult t i resRefused, pages, seqs)
        else (setResult t i resDone, pages ++ s.namedPages slot none, seqs ++ [slot])
      else (setResult t i resDone, dedup (pages ++ s.namedPages slot (some (op6 d 0xE4, bit (op1 d 0xE1) 0))), seqs)

/-- Results a table holds are counted. -/
def State.countTable (s : State) (secure : Bool) (t : List Byte) : State :=
  (List.range (t.length / 16)).foldl (fun s i => s.countResult secure (entResult t i)) s

def execKvReleaseStart (slot : Nat) (s : State) : Out :=
  answer s (match s.stage slot with
    | none => s
    | some st =>
      if st.phase ≠ .running ∨ st.opcode ≠ 0x0B ∨ !s.kvTurn slot st then s
      else match s.readTable slot st (op2 st.desc 0xE2) with
        | (.inr status, s) => s.failTable slot ((s.stage slot).getD st) status
        | (.inl t, s) =>
          let (t, pages, seqs) := (List.range (op2 st.desc 0xE2)).foldl (fun acc i => s.releaseEntry st acc i) (t, [], [])
          ((s.setTable slot t).countTable st.secure t).startRelease (some slot) st.secure pages seqs)

/-- A page becomes FREE and joins the queue of its tier (R191, R196). -/
def State.freePage (s : State) (secure : Bool) (num : Nat) : State :=
  let p := s.kvPool secure
  let x := p.pages.get {} num
  let p := { p with pages := p.pages.put num { gen := x.gen + 1 } }
  (s.setKvPool secure (if num < p.hbm.2 then { p with freeHbm := p.freeHbm.push num } else { p with freeG7 := p.freeG7.push num })).kvCount
    secure kvPagesFreed 1

/-- A sequence's slot becomes free; its windrow tokens are discarded. -/
def State.freeSeq (s : State) (slot : Nat) : State :=
  let q := s.kvSeq slot
  let s := s.setKvSeq slot { gen := q.gen + 1 }
  { s with kv := { s.kv with freeSlots := s.kv.freeSlots.push slot } }

/-- A release whose readers have completed is carried out (R196, R197). DESIGN CHOICE (log 64): its pages, then its sequences, join
their free queues in the order of the release's page map and of its entries. -/
def State.endRelease (s : State) (r : KvRelease) : State :=
  let s := r.pages.foldl (fun s n => s.freePage r.secure n) s
  let s := (r.seqs.foldl State.freeSeq s).thaw r.secure
  match r.stage with
  | none => s
  | some n => s.finishWorst n (tableStatus ((s.kv.runs.get { table := [] } n).table))

/-- The release of stage `slot`, and every release that has lost its stage, completes where its readers have (R196, R197). -/
def execKvReleaseComplete (slot : Nat) (s : State) : Out :=
  answer s (
    let due := fun (r : KvRelease) => r.readers.isEmpty && (r.stage == some slot || r.stage.isNone)
    let now := s.kv.releases.filter due
    let s := { s with kv := { s.kv with releases := s.kv.releases.filter (fun r => !due r) } }
    now.foldl State.endRelease s)

/-! ### What a KV_RETRIEVE sees at its start (R193, R199, R200) -/

/-- The candidates and the tail of one head for a stage admitted as number `adm`. -/
def State.kvViewOf (s : State) (adm slot : Nat) (key : Nat × Nat) : KvView :=
  let q := s.kvSeq slot
  let w := q.winds.get {} key
  let ps := (s.kvPool q.secure).pages.filter (fun p =>
    p.2.seq == slot && p.2.layer == key.1 && p.2.head == key.2 && decide (p.2.first + p.2.fill ≤ w.visible)
      && (p.2.st == .held || (p.2.st == .releasing && decide (adm < p.2.relAt))))
  ⟨(sortBy (fun p => p.2.first) ps).map (fun p => (p.1, p.2.first, p.2.sink)), w.settled, w.visible - w.settled⟩

/-- One entry of a retrieval: its result, and its views where it is DONE. -/
def State.retrieveEntry (s : State) (st : Stage) (t : List Byte) (i : Nat) : Nat × Map (Nat × Nat) KvView :=
  let d := st.desc
  if entAction t i = 2 ∨ !st.valid i then (resSkipped, [])
  else if entAction t i ≠ 0 then (resMismatch, [])
  else match s.kvLook st.secure (entHandle t i) with
    | .inr r => (r, [])
    | .inl slot =>
      let q := s.kvSeq slot
      if q.layers ≤ op2 d 0xE4 ∨ headsKv d ≠ q.heads ∨ (dTd d 0).c / headsQ d ≠ s.kv.d then (resMismatch, [])
      else (resDone, (List.range q.heads).map (fun g => ((i, g), s.kvViewOf st.admOrder slot (op2 d 0xE4, g))))

/-- A KV_RETRIEVE starts: its table is read and the views are taken; false where the stage ended instead. -/
def State.startRetrieve (s : State) (n : Nat) (st : Stage) : State :=
  let k := (dTd st.desc 0).n
  match s.readTable n st k with
  | (.inr status, s) => s.failTable n ((s.stage n).getD st) status
  | (.inl t, s) =>
    let (t, vs) := (List.range k).foldl (fun (acc : List Byte × Map (Nat × Nat) KvView) i =>
      let (r, v) := s.retrieveEntry st t i
      (setResult acc.1 i r, acc.2 ++ v)) (t, [])
    ({ s with kv := { s.kv with runs := s.kv.runs.put n ⟨t, vs⟩ } }).countTable st.secure t

end Sys2Proof.Machine
end

