-- ==== Sys2Proof/Machine/Tiles.lean ====
section
/-!
DEFINITION. Tile tasks: the grid of every tile-walker opcode, the rows, columns and depth of a task, operands with their prologue,
chain steps and the start values of an accumulator tile (spec/03 R61-R77; spec/04 R103-R112; spec/05 R119-R132; spec/07 R172;
spec/08 R214-R227; spec/09 R241, R244).
-/
namespace Sys2Proof.Machine

/-! ### What runs where (R83) -/

/-- A MATMUL on the harrow (spec/02 R56). -/
def harrowMat (st : Stage) : Bool :=
  let a := if cProFmt st.chain = 0xF then (dTd st.desc 0).fmt else (Fmt.ofCode (cProFmt st.chain)).getD .e4m3
  !(a.isArray && (dTd st.desc 1).fmt.isArray)

/-- A task that uses the harrow alone (R83, spec/08 R227). -/
def Stage.alone (st : Stage) : Bool :=
  match st.opcode with
  | 0x01 => harrowMat st
  | 0x02 | 0x0A => false
  | 0x05 => redArg st.desc || !(dTd st.desc 0).fmt.isArray
  | _ => true

/-- A harrow-alone task whose output rows end one by one (spec/06 R157). -/
def Stage.byRow (st : Stage) : Bool := st.alone && !([0x03, 0x06, 0x07].contains st.opcode) && !redArg st.desc

/-- The stage rounds stochastically at a final conversion. -/
def Stage.sr (st : Stage) : Bool := dRound st.desc == 4

/-- GUMBEL without TOP_K: the candidates stream (spec/09 R244). -/
def smpStream (d : List Byte) : Bool := dOpcode d == 7 && !topkp d && op2 d 0xE2 == 0

/-- Whether task `k` of a chain of `len` draws words (spec/09 R231, R234, R239, R244). -/
def Stage.draws (st : Stage) (k len : Nat) : Bool :=
  let last := k + 1 == len
  match st.opcode with
  | 0x01 => st.sr && last && cDrainTo st.chain != 1
  | 0x06 => st.sr && last && dTdValid st.desc 2
  | 0x07 => last || smpStream st.desc
  | 0x08 => true
  | 0x0A => false
  | _ => st.sr && last

/-! ### Grids -/

/-- Candidates of a row of TOPK, SAMPLE and the ARG reductions. -/
def candCount (d : List Byte) : Nat := if dOpcode d != 5 && selRecords d then selTiles d * selE d else (dTd d 0).c

/-- Runs of up to 512 query blocks per sample of a KV_RETRIEVE (spec/07 R199). -/
def retRuns (d : List Byte) : Nat := ceilDiv (queryBlocks d) 512

/-- The grid of a stage (R105 and the opcode's rule). -/
def gridFor (d : List Byte) : Grid :=
  let tm := dTileM d; let tn := dTileN d; let tk := dTileK d
  let a := dTd d 0
  match dOpcode d with
  | 0x01 => matGrid d
  | 0x02 => ⟨a.n * queryBlocks d, headsQ d, 1, 1, 1, 1⟩
  | 0x03 => gridOf 512 a.rows 2 a.c tm 2 tk
  | 0x05 =>
    if redArg d then gridOf 512 a.rows 1 a.c tm 1 tk
    else if op1 d 0xE1 = 0 then gridOf 128 a.rows 1 a.c tm tn tk
    else gridOf 128 a.n a.c (a.t * a.h * a.w) tm tn tk
  | 0x06 => gridOf 512 (outTd d).rows (op2 d 0xE0) (candCount d) tm (op2 d 0xE0) tk
  | 0x07 => gridOf 512 (outTd d).rows 1 (candCount d) tm 1 tk
  | 0x0A => ⟨a.n * retRuns d, headsKv d, 1, 1, 1, 1⟩
  | _ => gridOf 128 (dTd d 2).rows (dTd d 2).c 1 tm tn 1

/-- First row and rows of an output tile: output rows; for ATTEND the query rows of one block, for KV_RETRIEVE query blocks. -/
def tileRows (d : List Byte) (r : Nat) : Nat × Nat :=
  match dOpcode d with
  | 0x02 =>
    let b := r % queryBlocks d
    (r / queryBlocks d * queryRows d + b * queryTm d, min (queryTm d) (queryRows d - b * queryTm d))
  | 0x0A => let b := r % retRuns d * 512; (b, min 512 (queryBlocks d - b))
  | _ => let g := gridFor d; (r * g.tm, min g.tm (g.m - r * g.tm))

/-- First column and columns of an output tile; for ATTEND those of its head. -/
def tileCols (d : List Byte) (c : Nat) : Nat × Nat :=
  match dOpcode d with
  | 0x02 => let dim := (dTd d 0).c / headsQ d; (c * dim, dim)
  | 0x0A => (c, 1)
  | _ => let g := gridFor d; (c * g.tn, min g.tn (g.n - c * g.tn))

/-- First depth index and depth of task `k`. -/
def tileDepth (d : List Byte) (k : Nat) : Nat × Nat := let g := gridFor d; (k * g.tk, min g.tk (g.k - k * g.tk))

/-- The sample of an output row. -/
def rowSample (d : List Byte) (row : Nat) : Nat := (outTd d).sampleOf row

/-- Accumulator elements a task takes (R73): the largest sub-pass of an array task; what a chain carries otherwise. An ATTEND task
takes TM × N_r value sums by R73 and its TM maxima and TM probability sums beside them (DEDUCED: R73 names N_r, spec/07 R180 the carried
TM × (D + 2); log 58). -/
def footprint (st : Stage) (t : Task) : Nat :=
  let m := (tileRows st.desc t.r).2; let n := (tileCols st.desc t.c).2
  match st.opcode with
  | 0x02 => m * (roundUp n 128 + 2)
  | 0x03 => 3 * m
  | 0x06 => 2 * m * op2 st.desc 0xE0
  | 0x07 => m * (if smpStream st.desc then 3 else 2 * topK st.desc)
  | 0x04 | 0x08 | 0x0A => 0
  | 0x05 => if redArg st.desc then 2 * m else if 131072 < m * roundUp n 128 then m * 256 else m * roundUp n 128
  | _ => if 131072 < m * roundUp n 128 then m * 256 else m * roundUp n 128

/-- Passes of an array task (R67; spec/07 R179, R199; spec/08 R227): first row and rows of the tile, sub-pass, first K group, width
of the operands in bits (R62). -/
structure PassSpec where
  row0 : Nat
  rows : Nat
  sp : SubPass
  g0 : Nat
  width : Nat
deriving DecidableEq, Repr

/-- Tasks of pass 1 of an ATTEND chain, and key blocks of 512 in one task. -/
def attTk (d : List Byte) : Nat := 512 * max 1 (dTileK d / 512)
def attHalf (d : List Byte) (keys : Nat) : Nat := ceilDiv keys (attTk d)
def attBlocks (d : List Byte) (keys half k : Nat) : Nat :=
  let i := if k < half then k else k - half
  ceilDiv (min (attTk d) (keys - i * attTk d)) 512

/-- The format the arrays multiply for A. -/
def streamFmt (st : Stage) : Fmt :=
  if cProFmt st.chain = 0xF then (dTd st.desc 0).fmt else (Fmt.ofCode (cProFmt st.chain)).getD .e4m3

/-- The passes of a task. The value products of an ATTEND multiply PROB_FMT by V, its score products Q by K (R62, spec/07 R175). -/
def passesOf (st : Stage) (t : Task) : List PassSpec :=
  let d := st.desc
  let m := (tileRows d t.r).2; let n := (tileCols d t.c).2; let k := (tileDepth d t.k).2
  let w := (streamFmt st).width
  match st.opcode with
  | 0x02 =>
    let half := attHalf d t.keys.length
    let nb := attBlocks d t.keys.length half t.k
    let all : PassSpec := ⟨0, m, planOf 0 512, 0, (dTd d 0).fmt.width⟩
    if t.keys.isEmpty then []
    else if t.k < half then List.replicate nb all
    else List.replicate nb ⟨0, m, planOf 0 n, 0, ((Fmt.ofCode (op1 d 0xE1)).getD .e4m3).width⟩
      ++ (if t.keep then [] else List.replicate nb all)
  | 0x05 =>
    if op1 d 0xE1 = 0 then (passList m n k).map (fun p => ⟨0, m, p.1, p.2, (dTd d 0).fmt.width⟩)
    else (List.range m).flatMap (fun i => (passList 1 n k).map (fun p => ⟨i, 1, p.1, p.2, (dTd d 0).fmt.width⟩))
  | 0x0A => List.replicate (ceilDiv (min 4096 (t.keys.length - 4096 * t.k)) 128) ⟨0, m, planOf 0 128, 0, 16⟩
  | _ => (passList m n k).map (fun p => ⟨0, m, p.1, p.2, w⟩)

/-! ### Words of accumulator memory (R38) -/

def ofInt64 (v : Int) : Word64 := BitVec.ofNat 64 (unsigned v 64)
def toInt64 (w : Word64) : Int := signed w.toNat 64

/-- A write into an accumulator element of a stage (R38): raw from format 0xC, converted from every other format. -/
def widen (int : Bool) (c : ConvMode) (f : Fmt) (x : Nat) : Word64 × Flags :=
  if f = .acc then (BitVec.ofNat 64 x, 0)
  else if int then let (v, fl) := widenInt f c x; (ofInt64 v, fl)
  else let (v, fl) := widenFp f x; (toAcc v, fl)

def widens (int : Bool) (c : ConvMode) (f : Fmt) (xs : List Nat) : List Word64 × Flags :=
  xs.foldl (fun acc x => let (y, fl) := widen int c f x; (acc.1 ++ [y], acc.2 ||| fl)) ([], 0)

/-- The final conversion's settings of a stage (R45, R46, R128). -/
def stageConv (st : Stage) : ConvMode := ⟨(Round.ofCode (dRound st.desc)).getD .rne, cSaturate st.chain, dWrap st.desc⟩

/-- One element through the final conversion; `u` is the stochastic term. -/
def finalConv (st : Stage) (f : Fmt) (u : Nat) (w : Word64) : Nat × Flags :=
  if intStage st.desc then convInt f (stageConv st) u (toInt64 w) else convFp f (stageConv st) u (ofAcc w)

/-! ### Retained sets as operands (R135-R137) -/

/-- The frame `j` of core `c` (spec/06 R161). -/
def State.frameAddr (s : State) (c j : Nat) : Nat := s.mem.spillBase.getD (c / 48) 0 + (c % 48) * (24 * 2 ^ 20) + j * (3 * 2 ^ 20)

/-- Bytes of a frame: zeros where a line is poisoned, which the stage reports (spec/06 R162). -/
def State.frameRead (s : State) (n a len : Nat) : List Byte × State := s.innerRead n a len 0

/-- Elements of a retained tensor within one tile: row, first column, count. HAR_RET_SERVED counts the bytes of every such read, and a
task reads its operand once for each run of a row that its arithmetic takes; the spec states neither how often a task reads a retained
operand nor which reads merge (DESIGN CHOICE, log 50). -/
def State.retRun (s : State) (n : Nat) (st : Stage) (x : RetSet) (row e0 k : Nat) : List Nat × State :=
  let td := tdOf x.td2
  let i := row % x.tm; let j := e0 % x.tn
  match x.tiles.find? (fun t => t.r == row / x.tm && t.c == e0 / x.tn) with
  | none => s.readElems (st.who n) td row e0 k
  | some t =>
    let (lo, len) := elemSpan td.fmt j k
    match t.home with
    | .backed => s.readElems (st.who n) td row e0 k
    | .lost => (elemsOf td.fmt (List.replicate len 0#8) j k, s.meet (some n) 0x0B)
    | .kept core =>
      let bs := ((t.data.getD i []).drop lo).take len
      (elemsOf td.fmt bs j k, s.bump (coreReg core harRetServed) len)
    | .spilled core frame off =>
      let rb := ceilDiv (min x.tn (td.c - t.c * x.tn) * td.fmt.width) 8
      let (bs, s) := s.frameRead n (s.frameAddr core frame + off * 4096 + i * rb + lo) len
      (elemsOf td.fmt bs j k, s)

/-- The runs of a row's elements cut at tile columns. -/
def tileRuns : Nat → Nat → Nat → Nat → List (Nat × Nat)
  | 0, _, _, _ => []
  | fuel + 1, tn, e0, k =>
    if k = 0 then []
    else
      let m := min k (tn - e0 % tn)
      (e0, m) :: tileRuns fuel tn (e0 + m) (k - m)

/-- Elements of operand slot `i` (0 or 1) of a MATMUL, from the retained set where RET_IN names the slot. -/
def State.operand (s : State) (n : Nat) (st : Stage) (i row e0 k : Nat) : List Nat × State :=
  let own := s.readElems (st.who n) (dTd st.desc i) row e0 k
  if st.opcode = 1 ∧ cRetIn st.chain ≠ 0 ∧ cRetSlot st.chain = i then
    match s.dsp.sets.find (st.secure, cRetIn st.chain) with
    | none => own
    | some x => (tileRuns (k / (max x.tn 1) + 2) (max x.tn 1) e0 k).foldl (fun acc p =>
        let (xs, s) := acc.2.retRun n st x row p.1 p.2
        (acc.1 ++ xs, s)) ([], s)
  else own

/-! ### Chain steps (R124, R126, R128) -/

/-- The version of a function a stage took at check 9 (spec/08 R218), applied. -/
def stageFn (st : Stage) (num : Nat) (x : Fp) : Fp × Flags :=
  match st.fnVers.find? (fun v => v.1 == num) with
  | some v => loadedFn v.2.2 x
  | none => builtin num x

/-- Values of an auxiliary source for `k` elements of row `row` from column `c0` of the worked tensor, read (Table 5.6); `per` is 2
for NORM_MOD. -/
def State.auxRead (s : State) (n : Nat) (st : Stage) (aux bc : Nat) (wk : TDesc) (row c0 k per : Nat) : List Word64 × State :=
  let t := cAux st.chain aux
  let who := st.who n
  let (cs, s) := match bc with
    | 0 => s.readElems who t row c0 k
    | 1 => s.readElems who t 0 c0 k
    | 2 => s.readElems who t row 0 per
    | _ => s.readElems who t (wk.sampleOf row) (per * c0) (per * k)
  let (ws, fl) := widens (intStage st.desc) ⟨.rne, false, dWrap st.desc⟩ t.fmt cs
  (if bc = 2 ∧ per = 1 then List.replicate k (ws.getD 0 0) else ws, s.raise n fl)

/-- Values of an auxiliary source as a step takes them (R131): held in the pipe once read, for the columns of the task, or of the
task and the sample, and for the row in hand; steps that name one auxiliary tensor in one form share the read. -/
def State.auxRow (s : State) (core : Nat) (pro : Bool) (n : Nat) (st : Stage) (aux bc : Nat) (wk : TDesc) (row c0 k per : Nat) :
    List Word64 × State :=
  let key := (pro, aux, 2 * bc + (per - 1), (if bc = 1 then 0 else if bc = 3 then wk.sampleOf row else row), c0)
  let have_ := ((s.core core).held.find? (fun e => e.1 == key)).map Prod.snd
  match have_ with
  | some ws => if ws.length = (if bc = 2 ∧ per = 2 then 2 else per * k) then (ws, s) else s.auxRead n st aux bc wk row c0 k per
  | none =>
    let (ws, s) := s.auxRead n st aux bc wk row c0 k per
    let x := s.core core
    (ws, s.setCore core { x with held := (key, ws) :: x.held })

/-- A pipe lets go what it holds for one row (R131): COLUMN and SAMPLE_COLUMN values stay. -/
def Core.nextRow (x : Core) (pro : Bool) : Core :=
  { x with held := x.held.filter (fun e => e.1.1 != pro || e.1.2.2.1 / 2 == 1 || e.1.2.2.1 / 2 == 3) }

/-- A pipe is empty. -/
def Core.emptyPipe (x : Core) (pro : Bool) : Core := { x with held := x.held.filter (fun e => e.1.1 != pro) }

/-- One step over `k` elements (R126); `sr` is how the pipe rounds. -/
def State.stepRow (s : State) (core : Nat) (pro : Bool) (n : Nat) (st : Stage) (wk : TDesc) (sr : StepRound) (x : ChainStep)
    (row c0 : Nat) (xs : List Word64) : List Word64 × State :=
  let k := xs.length
  if x.op = 6 then
    let rs := xs.map (fun w =>
      let (y, f) := stageFn st x.param (ofAcc w)
      match sr with
      | .native => (y, f)
      | _ => let (z, g) := roundStep sr y; (z, f ||| g))
    (rs.map (fun p => toAcc p.1), (s.raise n (rs.foldl (fun a p => a ||| p.2) 0)).bump (coreReg core harFuncElems) k)
  else if x.op = 7 then
    let (mr, s) := s.auxRow core pro n st (x.src - 1) 2 wk row c0 k 2
    let (gb, s) := s.auxRow core pro n st (x.src2 - 1) 3 wk row c0 k 2
    let rs := xs.zipIdx.map (fun p => stepFp sr 7 (ofAcc p.1) (ofAcc (mr.getD 0 0)) (ofAcc (mr.getD 1 0))
      (ofAcc (gb.getD (2 * p.2) 0)) (ofAcc (gb.getD (2 * p.2 + 1) 0)))
    (rs.map (fun p => toAcc p.1), s.raise n (rs.foldl (fun a p => a ||| p.2) 0))
  else
    let (ss, s) := if x.src = 0 then (List.replicate k (BitVec.ofNat 64 x.imm), s)
      else s.auxRow core pro n st (x.src - 1) x.srcBc wk row c0 k 1
    if intStage st.desc then
      let rs := (xs.zip ss).map (fun p => stepInt (dWrap st.desc) x.op (toInt64 p.1) (toInt64 p.2))
      (rs.map (fun p => ofInt64 p.1), s.raise n (rs.foldl (fun a p => a ||| p.2) 0))
    else
      let rs := (xs.zip ss).map (fun p => stepFp sr x.op (ofAcc p.1) (ofAcc p.2) .zero .zero .zero)
      (rs.map (fun p => toAcc p.1), s.raise n (rs.foldl (fun a p => a ||| p.2) 0))

/-- How a step of a pipe rounds (Table 5.9). -/
def pipeRound (st : Stage) (prologue : Bool) (x : ChainStep) : StepRound :=
  if !cStaged st.chain then .native
  else .staged ((Fmt.ofCode x.fmtCode).getD .acc)
    (if prologue then (Round.ofCode (cProRound st.chain)).getD .rne else (stageConv st).round)
    (if prologue then cProSat st.chain else cSaturate st.chain)

/-- The steps of a pipe over elements of one row. -/
def State.stepsRow (s : State) (core n : Nat) (st : Stage) (prologue : Bool) (row c0 : Nat) (xs : List Word64) :
    List Word64 × State :=
  let wk := if prologue then dTd st.desc 0 else chainTd st.desc
  let steps := if prologue then cProSteps st.chain else cDrainSteps st.chain
  if steps.isEmpty then (xs, s)
  else steps.foldl (fun acc x => acc.2.stepRow core prologue n st wk (pipeRound st prologue x) x row c0 acc.1)
    (xs, s.setCore core ((s.core core).nextRow prologue))

/-! ### Streamed operand (R104, R106, R129, R130) -/

/-- `k` elements of row `row` of A from channel `c0`, through the prologue: codes in the stream's format. -/
def State.streamRow (s : State) (core n : Nat) (st : Stage) (row c0 k : Nat) : List Nat × State :=
  let (xs, s) := s.operand n st 0 row c0 k
  if cProFmt st.chain = 0xF then (xs, s)
  else
    let ws := xs.map (fun x => toAcc (widenFp (dTd st.desc 0).fmt x).1)
    let (ws, s) := s.stepsRow core n st true row c0 ws
    let conv : ConvMode := ⟨(Round.ofCode (cProRound st.chain)).getD .rne, cProSat st.chain, false⟩
    let rs := ws.map (fun w => convFp (streamFmt st) conv 0 (ofAcc w))
    (rs.map Prod.fst, s.raise n (rs.foldl (fun a p => a ||| p.2) 0))

/-- Row number of an index tuple. -/
def TDesc.rowOf (t : TDesc) (i : Nat × Nat × Nat × Nat) : Nat := ((i.1 * t.t + i.2.1) * t.h + i.2.2.1) * t.w + i.2.2.2

/-- The prologue has converted the elements of A at some depth indices of an output row: those of a halo are supplied after it (R130).
Elements of an invalid sample enter it as +0 (R127). -/
def State.countPro (s : State) (core : Nat) (st : Stage) (row k0 k : Nat) : State :=
  if st.opcode ≠ 1 ∨ cProFmt st.chain = 0xF then s
  else
    let a := dTd st.desc 0; let o := dTd st.desc 2; let win := windowOf st.desc
    s.bump (coreReg core harProElems) (if win.plain then k else ((range k0 k).filter (fun i => !isHalo win a o row i)).length)

/-- Depth indices `k0` to `k0 + k - 1` of output row `row`: codes in the stream's format, zeros for a ZERO halo. -/
def State.streamDepth (s : State) (core n : Nat) (st : Stage) (row k0 k : Nat) : List Nat × State :=
  let a := dTd st.desc 0; let o := dTd st.desc 2; let win := windowOf st.desc
  let s := s.countPro core st row k0 k
  if win.plain then s.streamRow core n st row k0 k
  else (range k0 k).foldl (fun acc i =>
    match windowIndex win a o row i with
    | none => (acc.1 ++ [0], acc.2)
    | some (t, ch) =>
      let (xs, s) := acc.2.streamRow core n st (a.rowOf t) ch 1
      (acc.1 ++ xs, s)) ([], s)

/-! ### Group sums of a row (R57, R61, R66) -/

/-- One K group applied to the columns of one row: streamed values, stationary rows, incoming values. -/
def groupCols {α : Type} (d : α) (group : List (α × α) → Nat → α → α × Flags) (as : List α) (bs : List (List α)) (inc : List α) :
    List α × Flags :=
  inc.zipIdx.foldl (fun acc p =>
    let (y, f) := group (as.zip (bs.map (fun b => b.getD p.2 d))) (128 - as.length) p.1
    (acc.1 ++ [y], acc.2 ||| f)) ([], 0)

/-- The same on accumulator words, with operand codes of given formats. -/
def groupWords (int wrap : Bool) (op : CellOp) (fa fb : Fmt) (as : List Nat) (bs : List (List Nat)) (inc : List Word64) :
    List Word64 × Flags :=
  if int then
    let (ys, f) := groupCols (0 : Int) (fun ps _ x => groupInt op wrap ps x) (as.map (decodeInt fa))
      (bs.map (fun b => b.map (decodeInt fb))) (inc.map toInt64)
    (ys.map ofInt64, f)
  else
    let (ys, f) := groupCols Fp.zero (groupFp op) (as.map (fun x => (widenFp fa x).1))
      (bs.map (fun b => b.map (fun x => (widenFp fb x).1))) (inc.map ofAcc)
    (ys.map toAcc, f)

/-! ### Start values (R71, R75) -/

/-- The cell operation of a stage (R69, spec/08 Table 8.8). -/
def stageCell (d : List Byte) : CellOp :=
  if dOpcode d = 5 then
    (match op1 d 0xE0 with | 2 => .sqDiffAdd | 3 => .maxPlus | 4 => .minPlus | _ => .mulAdd)
  else (CellOp.ofCode (dCellOp d)).getD .mulAdd

/-- The word of a cleared accumulator element (R71, R75). -/
def clearWord (d : List Byte) : Word64 :=
  if intStage d then ofInt64 (clearedInt (stageCell d)) else toAcc (clearedFp (stageCell d))

/-- A MATMUL preloads its accumulator tile (R75). -/
def preloads (st : Stage) : Bool := st.opcode == 1 && (dStart st.desc == 1 || dStart st.desc == 2)

/-- Accumulator words of `cols` columns from column `c` of the tile that an array or REDUCE task starts from, row by row. -/
def State.startWords (s : State) (n : Nat) (st : Stage) (t : Task) (c cols : Nat) : List Word64 × State :=
  let d := st.desc
  let (row0, m) := tileRows d t.r
  let col0 := (tileCols d t.c).1 + c; let nc := cols
  let int := intStage d
  let clear := clearWord d
  let conv := { stageConv st with round := (stageConv st).round.noSr }
  if st.opcode = 1 ∧ dStart d = 1 then
    let (cs, s) := s.readElems (st.who n) (dTd d 3) 0 col0 nc
    let (ws, fl) := widens int conv (dTd d 3).fmt cs
    ((List.range m).flatMap (fun _ => ws), if (range row0 m).any (fun row => st.valid (rowSample d row)) then s.raise n fl else s)
  else if st.opcode = 1 ∧ dStart d = 2 then
    (range row0 m).foldl (fun acc row =>
      if !st.valid (rowSample d row) then (acc.1 ++ List.replicate nc clear, acc.2)
      else
        let (cs, s) := acc.2.readElems (st.who n) (dTd d 3) row col0 nc
        let (ws, fl) := widens int conv (dTd d 3).fmt cs
        (acc.1 ++ ws, s.raise n fl)) ([], s)
  else (List.replicate (m * nc) clear, s)

/-- Overwrite words of a tile from an offset. -/
def putWords (acc : List Word64) (off : Nat) (ws : List Word64) : List Word64 :=
  acc.take off ++ ws ++ acc.drop (off + ws.length)

/-- Overwrite `cols` columns of a tile of `nc` columns, from column `c`, by words given row by row. -/
def putCols (acc : List Word64) (nc c cols : Nat) (ws : List Word64) : List Word64 :=
  (List.range (ceilDiv ws.length (max 1 cols))).foldl (fun acc i => putWords acc (i * nc + c) ((ws.drop (i * cols)).take cols)) acc

/-- Set a task in its slot. -/
def State.setTask (s : State) (c slot : Nat) (t : Task) : State :=
  let x := s.core c
  s.setCore c { x with slots := x.slots.put slot t }

/-- A tile of a stage has ended: its task leaves the slot (R142). -/
def State.tileDone (s : State) (c slot n : Nat) : State :=
  let s := s.setCore c ((s.core c).dropTask slot)
  match s.stage n with
  | none => s
  | some st => s.setStage n { st with drained := st.drained + 1 }

end Sys2Proof.Machine
end

