-- ==== Sys2Proof/Machine/Tick.lean ====
section
/-!
DEFINITION. What 1 ns of device time does with no command waiting: device time counts, and each field die's core clock carries its
cycle counters on (spec/03 R64, R89; spec/06 Table 6.12; spec/09 R233; spec/17 R456-R467; log 1). Nothing else is driven by time
here: every timer of the spec that ends in an event is a command.
-/
namespace Sys2Proof.Machine

/-! ### Clocks (spec/17 Tables 17.4, 17.5) -/

/-- Core clock of an operating point in MHz. -/
def pointMhz (gradeB : Bool) (p : Nat) : Nat :=
  (if gradeB then [400, 750, 950, 1100, 1300, 1500, 1650, 1720, 1800]
   else [400, 800, 1000, 1200, 1400, 1600, 1800, 1900, 2000]).getD p 0

/-- Clocks are halved by a supply warning (R465). -/
def State.warned (s : State) : Bool := !s.pwr.rails.isEmpty

def State.domain (s : State) (d : Nat) : DomSt := s.pwr.doms.get .fallow d
def State.setDomain (s : State) (d : Nat) (x : DomSt) : State :=
  { s with pwr := { s.pwr with doms := s.pwr.doms.put d x } }

/-- A domain that has power and does not stand in a wake. -/
def DomSt.powered : DomSt → Bool
  | .on | .clockGated | .draining => true
  | _ => false

/-- The field die whose share of VDD_CORE feeds a domain; the engines' domains of the hub dies are on no share (R459). -/
def domShare (d : Nat) : Option Nat := if d < 192 then some (d / 24) else if d < 200 then some (d - 192) else none

/-- Wakes that may begin on a share in 100 ns (R459, spec/19 R500). -/
def State.wakeLimit (s : State) : Nat := if s.warned then 12 else 24

/-- A knocked domain that is FALLOW begins WAKING where its share has room in this window (R459). -/
def State.beginWake (s : State) (d : Nat) : State :=
  let used := ((domShare d).map (fun f => s.pwr.begun.getD f 0)).getD 0
  if s.domain d ≠ .fallow ∨ ((domShare d).isSome ∧ s.wakeLimit ≤ used) then s
  else
    let begun := match domShare d with | none => s.pwr.begun | some f => s.pwr.begun.set f (used + 1)
    ({ s with pwr := { s.pwr with doms := s.pwr.doms.put d .waking, begun := begun, knocks := s.pwr.knocks.filter (· != d) } }).tick1
      pwrWakes

/-- The domains that wait for their wake, in the order of their knocks. -/
def State.startWakes (s : State) : State := s.pwr.knocks.foldl State.beginWake s

/-- A packet reaches the gate of a domain from within the device (R458): a stopped clock restarts, a drain is cancelled, a domain
without power is knocked. -/
def State.knock (s : State) (d : Nat) : State :=
  match s.domain d with
  | .clockGated => s.setDomain d .on
  | .draining => (s.setDomain d .on).tick1 pwrDrainCancel
  | .poweringOff | .fallow =>
    if s.pwr.knocks.contains d then s
    else ({ s with pwr := { s.pwr with knocks := s.pwr.knocks ++ [d] } }).startWakes
  | _ => s

/-- Core clock of a field die in MHz: the lower of two points during a change, halved by the current limit or a warning; 0 while
its uncore has no power (R457, R461, R462, R465). -/
def State.coreMhz (s : State) (die : Nat) : Nat :=
  if !(s.domain (192 + die)).powered then 0
  else
    let m := pointMhz s.fuses.gradeB (min (s.pwr.point.getD die 0) (s.pwr.target.getD die 0))
    if s.pwr.currentLimit.isSome || s.warned then m / 2 else m

/-! ### Core cycles -/

/-- Under row release the pass waits for the rows that a draining tile holds (spec/03 R74; log 58). -/
def Core.rowsHeld (c : Core) : Bool := c.rowRelease && c.slots.any (fun p => p.2.st == .draining)

/-- The running task waits for spills: of its first pass only the stationary load runs (spec/06 R159). -/
def Core.spillHeld (c : Core) : Bool := c.slots.any (fun p => p.2.st == .passes && p.2.spillWait)

/-- The counter that a cycle of an array adds to (Table 3.15): the load runs first; then come the waits for a drain, and for a preload
or a spill; then the streamed rows; then the latency that nothing overlaps. Without power it is idle. -/
def Core.arrayCounter (c : Core) (powered : Bool) (i : Nat) : Nat :=
  match c.arrays.getD i .idle with
  | .inPass =>
    if !powered then coreCycIdle
    else if c.passCyc < 128 then coreCycLoad
    else if c.rowsHeld then coreCycDrainWait
    else if c.spillHeld || decide (0 < c.passFeed) then coreCycFeedWait
    else if c.passCyc < 128 + c.passStream then coreCycStream
    else coreCycFeedWait
  | .emptying => if powered then coreCycFeedWait else coreCycIdle
  | _ => coreCycIdle

/-- What a powered core cycle carries on: the load and the stream, the preload beside the load once the rows are free (spec/03 R76), the
latency of the last pass (spec/03 R65). -/
def Core.cycle (c : Core) : Core :=
  let free := !c.rowsHeld && !c.spillHeld
  let c := if !c.arrays.contains .inPass then c
    else { c with passCyc := if c.passCyc < 128 ∨ (free ∧ c.passFeed = 0) then c.passCyc + 1 else c.passCyc
                  passFeed := if free then c.passFeed - 1 else c.passFeed }
  if !c.arrays.contains .emptying then c
  else if 1 < c.tail then { c with tail := c.tail - 1 }
  else { c with tail := 0, arrays := c.arrays.map (fun a => if a = .emptying then .idle else a) }

/-- A consumer waits for seeding (spec/09 R233): its context is the one in staging. -/
def Core.seedWait (c : Core) : Bool := c.staging.isSome && c.lanes.isNone

/-- One core cycle of core `n`; `harrowAlone` tells whether its running task uses the harrow alone. -/
def State.coreCycle (s : State) (n : Nat) (harrowAlone : Bool) : State :=
  let c := s.core n
  let powered := (s.domain (2 * n)).powered
  let s := (List.range 4).foldl (fun s i => s.tick1 (coreReg n (c.arrayCounter powered i))) s
  let s := if harrowAlone then s.tick1 (coreReg n coreCycHarrow) else s
  let s := if c.seedWait then s.tick1 (coreReg n rngSeedWait) else s
  if powered && (c.arrays.contains .inPass || c.arrays.contains .emptying) then s.setCore n c.cycle else s

/-- The task of a core that stands in its passes. -/
def Core.running (c : Core) : Option (Nat × Task) := c.slots.find? (fun p => p.2.st == .passes)

/-- The harrow of a core runs a harrow-alone task (spec/03 R83). -/
def State.harrowAlone (s : State) (c : Nat) : Bool :=
  match (s.core c).running with
  | none => false
  | some (_, t) => ((s.stage t.stage).map Stage.alone).getD false && !t.ended && !t.spillWait && !t.restoring

/-- Core cycles of a die in 1 ns, and the fraction that remains. -/
def State.dieCycles (s : State) (die : Nat) : Nat × Nat :=
  let t := s.phase.getD die 0 + s.coreMhz die
  (t / 1000, t % 1000)

/-- `n` core cycles of every enabled core of a die. -/
def State.runDie (s : State) (die : Nat) : Nat → State
  | 0 => s
  | n + 1 =>
    let s := ((range (12 * die) 12).filter (fun c => decide (c < s.coreCount))).foldl
      (fun s c => s.coreCycle c (s.harrowAlone c)) s
    s.runDie die n

/-- One nanosecond on one die. DSP_HELD_CYC counts by the clock of F0 (log 1). -/
def State.tickDie (s : State) (die : Nat) : State :=
  let (n, frac) := s.dieCycles die
  let s := { s with phase := s.phase.set die frac }
  let s := if die = 0 ∧ s.dsp.stages.any (fun p => p.2.held && p.2.phase == .running && !p.2.noIssue) then s.bump dspHeldCyc n else s
  if n = 0 then s else s.runDie die n

/-- A field die is held below its ceiling (Table 17.12). -/
def State.throttled (s : State) : Bool :=
  s.pwr.powerHeld || s.heldHot

/-- The device-time counter over one nanosecond (spec/11 R310): one, or under a slew of at most 100 ppm one more or one less in
10,000. -/
def State.tickTime (s : State) : State :=
  if s.lnk.slew = 0 then { s with time := s.time + 1 }
  else if s.lnk.slewPhase + 1 < 10000 then
    { s with time := s.time + 1, lnk := { s.lnk with slewPhase := s.lnk.slewPhase + 1 } }
  else if 0 < s.lnk.slew then
    { s with time := s.time + 2, lnk := { s.lnk with slewPhase := 0, slew := s.lnk.slew - 1 } }
  else { s with lnk := { s.lnk with slewPhase := 0, slew := s.lnk.slew + 1 } }

/-! ### Published counts (spec/06 R143, R148) -/

/-- Class of a task: that of its stage (spec/06 R156). -/
def State.taskClass (s : State) (t : Task) : Nat := ((s.stage t.stage).map Stage.cls).getD 0

/-- Tasks of a core that count as waiting (Table 6.1). -/
def Core.waiters (c : Core) : List (Nat × Task) := c.slots.filter (fun p => p.2.st == .waiting || p.2.st == .suspended)

/-- The waiting count of a core at a class (R143). -/
def State.waitCount (s : State) (c p : Nat) : Nat := ((s.core c).waiters.filter (fun q => decide (p ≤ s.taskClass q.2))).length

/-- Publish a count that has changed; entries that no core can still see are dropped (the longest delay is 640 ns at the lowest
clock). -/
def Core.publish (c : Core) (time k : Nat) : Core :=
  if ((c.counts.getLast?).map Prod.snd).getD 0 = k then c
  else { c with counts := ((c.counts.filter (fun e => decide (e.1 + 1000 ≤ time))).getLast?).toList
                  ++ c.counts.filter (fun e => decide (time < e.1 + 1000)) ++ [(time, k)] }

/-- Each core publishes its waiting count at class 0. -/
def State.publishCounts (s : State) : State :=
  { s with cores := { s.cores with core := s.cores.core.map (fun p => (p.1, p.2.publish s.time (s.waitCount p.1 0))) } }

/-- One nanosecond of device time. -/
def State.tickNs (s : State) : State :=
  let s := s.publishCounts.tickTime
  let s := (List.range 8).foldl State.tickDie s
  let s := if s.warned then s.tick1 pwrWarnNs else s
  let s := if s.throttled then s.tick1 pwrThrottleNs else s
  let full := (s.pwr.gates.filter (fun p => decide (16 ≤ p.2.length))).length
  if full = 0 then s else s.bump pwrGateFullNs full

end Sys2Proof.Machine
end

