-- ==== Sys2Proof/Machine/Placement.lean ====
section
/-!
DEFINITION. Placement of tile tasks on cores and gleaning between cores (spec/06 R142-R152; spec/05 R139).
-/
namespace Sys2Proof.Machine

/-- Whether a core takes a placed task of a class (R143): one of its 64 slots is free (spec/01 R27, R142). -/
def State.coreTakes (s : State) (mask cls c : Nat) : Bool :=
  s.maskHas mask c && s.waitCount c (cls + 1) == 0 && decide (s.waitCount c cls < placeDepth s)
    && decide ((s.core c).slots.length < 64)

/-- The first core of the scan from HOME_CORE (R143). -/
def State.findCore (s : State) (d : List Byte) (cls : Nat) : Option Nat :=
  ((List.range 96).map (fun i => (dHome d + i) % 96)).find? (s.coreTakes (dMask d) cls)

/-- The lowest free slot of a core. -/
def Core.freeSlot (c : Core) : Nat := ((List.range 64).find? (fun i => (c.slots.find i).isNone)).getD 64

/-- The unit of row tile `r` of A has arrived (spec/05 R138, R139). -/
def unitComplete (st : Stage) (r : Nat) : Bool :=
  match st.arrival with
  | none => true
  | some a => decide ((tileRows st.desc r).2 * (dTd st.desc 0).rowBytes ≤ a.counts.getD r 0)

/-- The next tile a stage issues (R109, R139). -/
def nextTile (st : Stage) : Option (Nat × Nat) :=
  let g := gridFor st.desc
  (visitOrder (dRowMajor st.desc) g.r g.c).find? (fun p => !st.issued.contains p && unitComplete st p.1)

/-- Stages with a ready task, in the order of R145. -/
def State.ready (s : State) : List (Nat × Stage) :=
  let ps := s.dsp.stages.filter (fun p => p.2.phase == .running && tileWalker p.2.opcode && !p.2.noIssue && (nextTile p.2).isSome)
  sortBy (fun p => 7 - p.2.cls) (sortBy (fun p => p.2.admOrder) ps)

/-- Tasks of a tile's chain as far as the descriptor tells (R105, spec/07 R199); an ATTEND chain's keys are known at its start. -/
def State.chainLen (s : State) (n : Nat) (st : Stage) (rc : Nat × Nat) : Nat :=
  match st.opcode with
  | 0x02 => 1
  | 0x0A =>
    match s.kv.runs.find n with
    | none => 1
    | some run => match run.views.find (rc.1 / retRuns st.desc, rc.2) with
      | none => 1
      | some v => max 1 (ceilDiv v.pages.length 4096)
  | _ => (gridFor st.desc).l

/-- Place a tile of a stage on a core; the gates of a core without power hold the task and knock (R146). -/
def State.placeOn (s : State) (n : Nat) (st : Stage) (rc : Nat × Nat) (c : Nat) : State :=
  let t : Task := { stage := n, r := rc.1, c := rc.2, len := s.chainLen n st rc, order := s.cores.placeOrder }
  let x := s.core c
  let s := s.setCore c { x with slots := x.slots.put x.freeSlot t }
  let s := { s with cores := { s.cores with placeOrder := s.cores.placeOrder + 1 } }
  let s := s.setStage n { st with issued := st.issued ++ [rc], held := false }
  ((s.tick1 dspPlaced).knock (192 + c / 12)).knock (2 * c + 1)

/-- Try the ready stages in order: the first that finds a core is placed; those before it are held (R145). -/
def State.placeFirst (s : State) : List (Nat × Stage) → State
  | [] => s
  | (n, st) :: rest =>
    match nextTile st with
    | none => s.placeFirst rest
    | some rc =>
      match s.findCore st.desc st.cls with
      | some c => s.placeOn n st rc c
      | none => (s.setStage n { st with held := true }).placeFirst rest

def execPlaceTask (s : State) : Out := answer s (s.placeFirst s.ready)

/-! ### Gleaning -/

/-- Positions of tier 0 from position `i` (Table 6.2). -/
def neighbours (i : Nat) : List Nat :=
  ((List.range 5).flatMap (fun k => [(i + k + 1) % 12, (i + 11 - k) % 12])) ++ [(i + 6) % 12]

/-- The cores of a tier in neighbour order (Table 6.2). -/
def tierCores (c tier : Nat) : List Nat :=
  let f := c / 12; let i := c % 12
  if tier = 0 then (neighbours i).map (fun p => 12 * f + p)
  else (if tier = 1 then [f ^^^ 1, f ^^^ 2, f ^^^ 3] else [f ^^^ 4, f ^^^ 5, f ^^^ 6, f ^^^ 7]).flatMap
    (fun d => (i :: neighbours i).map (fun p => 12 * d + p))

/-- Tasks on their way to a core, and its requests that wait at a victim: its 6 spare slots take no more (R144, R150). -/
def State.gleaning (s : State) (c : Nat) : Nat :=
  ((s.core c).slots.filter (fun p => p.2.st == .inTransit)).length
    + ((List.range 96).filter (fun v => (s.core v).gleanReqs.contains c)).length

/-- Whether a core gleans (R147). -/
def State.gleans (s : State) (c : Nat) : Bool :=
  let x := s.core c
  let asked := ((List.range 96).filter (fun v => (s.core v).gleanReqs.contains c)).length
  gleanEnable s && s.maskHas (2 ^ 96 - 1) c && x.slots.all (fun p => p.2.st != .waiting) && decide (s.gleaning c < 6)
    && decide (x.slots.length + asked < 64)
    && (match x.running with
      | none => true
      | some (_, t) => match s.stage t.stage with
        | none => true
        | some st => if st.alone then decide ((tileRows st.desc t.r).2 ≤ t.pass + 2)
            else decide ((passesOf st t).length ≤ t.pass + 2))

/-- Core cycles by which a tier's counts are late, and those a record takes on its way (Table 6.2). -/
def tierDelay (tier : Nat) : Nat := [4, 32, 128].getD tier 128
def tierTransfer (tier : Nat) : Nat := [24, 64, 160].getD tier 160

/-- The tier of core `v` for core `c`. -/
def tierOf (c v : Nat) : Nat := if c / 12 = v / 12 then 0 else if c / 48 = v / 48 then 1 else 2

/-- `n` core cycles of core `c`'s die in ns, at 1 MHz while its clock stands (log 11). -/
def State.cyclesNs (s : State) (c n : Nat) : Nat := ceilDiv (n * 1000) (max 1 (s.coreMhz (c / 12)))

/-- The count of core `v` that core `c` sees: the one published a delay of their tier ago (R148). -/
def State.seenCount (s : State) (c v : Nat) : Nat :=
  let d := s.cyclesNs c (tierDelay (tierOf c v))
  ((((s.core v).counts.filter (fun e => decide (e.1 + d ≤ s.time))).getLast?).map Prod.snd).getD 0

/-- The largest seen count of a tier, the earlier core first (R149). -/
def State.tierBest (s : State) (c : Nat) (cs : List Nat) : Option Nat :=
  (cs.foldl (fun (best : Option (Nat × Nat)) v =>
    let k := s.seenCount c v
    if !s.maskHas (2 ^ 96 - 1) v || (s.core c).excluded.contains v || decide (k < gleanDepth s) then best
    else match best with
      | none => some (v, k)
      | some b => if b.2 < k then some (v, k) else best) none).map Prod.fst

/-- The candidate of the first tier that holds one (R148, R149). -/
def State.gleanVictim (s : State) (c : Nat) : Option Nat :=
  ((List.range (gleanReach s + 1)).filterMap (fun t => s.tierBest c (tierCores c t))).head?

def execGleanRequest (core : Nat) (s : State) : Out :=
  answer s (if !s.gleans core then s
    else match s.gleanVictim core with
      | none => s
      | some v =>
        let x := s.core v
        if x.gleanReqs.contains core then s else s.setCore v { x with gleanReqs := x.gleanReqs ++ [core] })

/-- Tasks a thief may take from a victim (R149, R151). -/
def State.gleanable (s : State) (victim thief : Nat) : List (Nat × Task) :=
  (s.core victim).slots.filter (fun p => p.2.st == .waiting && !p.2.begun
    && (match s.stage p.2.stage with | some st => s.maskHas (dMask st.desc) thief | none => false))

/-- The task given up: the highest class, of equal class the one that would start last (R149). -/
def State.gleanPick (s : State) (ps : List (Nat × Task)) : Option (Nat × Task) :=
  let key := fun (t : Task) =>
    let st := s.stage t.stage
    ((st.map Stage.cls).getD 0, (st.map Stage.admOrder).getD 0, t.order)
  let later := fun (a b : Nat × Nat × Nat) =>
    decide (a.1 > b.1) || (a.1 == b.1 && (decide (a.2.1 > b.2.1) || (a.2.1 == b.2.1 && decide (a.2.2 > b.2.2))))
  ps.foldl (fun best p => match best with
    | none => some p
    | some b => if later (key p.2) (key b.2) then some p else best) none

/-- Serve one request of a thief at a victim (R150). -/
def State.serveGlean (s : State) (victim thief : Nat) : State :=
  match s.gleanPick (s.gleanable victim thief) with
  | none =>
    let x := s.core thief
    (s.setCore thief { x with excluded := x.excluded ++ [victim] }).tick1 dspGleanEmpty
  | some (slot, t) =>
    let v := s.core victim
    let s := s.setCore victim { v with slots := v.slots.del slot }
    let x := s.core thief
    let arrives := s.time + s.cyclesNs thief (tierTransfer (tierOf thief victim))
    let s := s.setCore thief { x with slots := x.slots.put x.freeSlot { t with st := .inTransit, arrives := arrives } }
    let s := s.tick1 dspGleaned
    if victim / 12 = thief / 12 then s else s.tick1 dspGleanedFar

def execGleanServe (victim : Nat) (s : State) : Out :=
  answer s (let x := s.core victim
    match minNat x.gleanReqs with
    | none => s
    | some thief => (s.setCore victim { x with gleanReqs := x.gleanReqs.filter (· != thief) }).serveGlean victim thief)

/-- The task in transit whose transfer ends first (R150). -/
def Core.firstArrival (x : Core) : Option (Nat × Task) :=
  (x.slots.filter (fun p => p.2.st == .inTransit)).foldl (fun best p => match best with
    | none => some p
    | some b => if p.2.arrives < b.2.arrives then some p else best) none

/-- A transfer to a core completes: the task whose transfer ends first is Waiting there (R150). -/
def execGleanTransferComplete (core : Nat) (s : State) : Out :=
  answer s (let x := s.core core
    match x.firstArrival with
    | none => s
    | some (slot, t) =>
      ((s.setCore core { x with slots := x.slots.put slot { t with st := .waiting } }).knock (192 + core / 12)).knock (2 * core + 1))

def execGleanExclusionExpiry (core victim : Nat) (s : State) : Out :=
  answer s (let x := s.core core
    s.setCore core { x with excluded := x.excluded.filter (· != victim) })

end Sys2Proof.Machine
end

