-- ==== Sys2Proof/Machine/Spill.lean ====
section
/-!
DEFINITION. Retained space, suspension, spill frames, spills and restores (spec/05 R133; spec/06 R158-R165; spec/07 R178).
-/
namespace Sys2Proof.Machine

/-! ### Space (R73, R79, R159) -/

/-- Bytes of the retained area of core `c` taken by kept tiles. -/
def State.keptTiles (s : State) (c : Nat) : Nat :=
  ((s.dsp.sets.flatMap (fun p => p.2.tiles)).map (fun t => if t.home = .kept c then t.size else 0)).sum

/-- The row-block size B of an ATTEND chain in bytes: the space its kept scores take (R178). -/
def scoreBlock (st : Stage) (t : Task) : Nat := queryTm st.desc * t.keys.length * 4

/-- Bytes of the retained area that the kept scores of a chain take. -/
def Task.scoreSpace (t : Task) (st : Stage) : Nat := if t.keep && t.scoresSpilled.isNone then scoreBlock st t else 0

/-- Free bytes of the retained area. -/
def State.retFree (s : State) (c : Nat) : Nat :=
  let scores := ((s.core c).slots.map (fun p => match s.stage p.2.stage with
    | some st => p.2.scoreSpace st
    | none => 0)).sum
  3 * 2 ^ 19 - s.keptTiles c - scores

/-- Carried tile of a task in accumulator memory: the scores of a KV_RETRIEVE stand in the thresher (R199). -/
def State.carries (s : State) (t : Task) : Bool :=
  t.st == .suspended && !t.acc.isEmpty && ((s.stage t.stage).map Stage.opcode) != some 0x0A

/-- Accumulator elements not held by carried tiles of Suspended tasks. -/
def State.accFree (s : State) (c : Nat) : Nat :=
  131072 - (((s.core c).slots.filter (fun p => s.carries p.2)).map (fun p => p.2.acc.length)).sum

/-! ### Frames (R161) -/

/-- First depth index and depth of a task's record (R108): keys of an ATTEND task (R172), candidate pages of a KV_RETRIEVE task
(R199; log 59). -/
def State.recordDepth (_s : State) (st : Stage) (t : Task) : Nat × Nat :=
  let d := st.desc
  match st.opcode with
  | 0x02 =>
    let half := attHalf d t.keys.length
    let k0 := (if t.k < half then t.k else t.k - half) * attTk d
    (k0, min (attTk d) (t.keys.length - k0))
  | 0x0A => (4096 * t.k, min 4096 (t.keys.length - 4096 * t.k))
  | _ => tileDepth d t.k

/-- A tile task record (spec/04 Table 4.9). PROGRESS is zero before the task starts; the accumulator offset of its carried tile is a
free value (log 59). -/
def State.taskRecord (s : State) (t : Task) : List Byte :=
  match s.stage t.stage with
  | none => List.replicate 64 0#8
  | some st =>
    let d := st.desc
    let (row0, m) := tileRows d t.r; let (col0, nc) := tileCols d t.c
    let (k0, k) := s.recordDepth st t
    let row0 := if st.opcode = 0x0A then t.r / retRuns d * queryBlocks d + row0 else row0
    let bad := if st.opcode = 0x0A then !st.valid (t.r / retRuns d) else (range row0 m).any (fun r => !st.valid (rowSample d r))
    toLE 2 t.stage ++ toLE 2 (b2n (t.k == 0) + 2 * b2n (t.k + 1 == t.len) + 4 * b2n bad) ++ toLE 4 t.r ++ toLE 4 t.c ++ toLE 4 t.k
      ++ toLE 2 m ++ toLE 2 nc ++ toLE 2 k ++ toLE 1 st.cls ++ toLE 1 0 ++ toLE 8 row0 ++ toLE 4 col0 ++ toLE 4 k0
      ++ (if t.begun then toLE 4 t.k ++ toLE 4 (if st.byRow then t.pass else 0) ++ toLE 4 (Config.accOffset t.stage t.order)
            ++ toLE 1 (b2n t.spilled) ++ List.replicate 11 0#8
          else List.replicate 24 0#8)

/-- The 4 KiB header of a frame (Table 6.6); units are offset and size in 4 KiB units, kind, index. -/
def frameHeader (kind : Nat) (secure : Bool) (cls setId time : Nat) (task : List Byte) (units : List (Nat × Nat × Nat × Nat)) :
    List Byte :=
  let b := toLE 1 kind ++ toLE 1 (b2n secure) ++ toLE 1 cls ++ toLE 1 0 ++ toLE 2 units.length ++ toLE 2 setId ++ toLE 8 time
    ++ List.replicate 48 0#8 ++ task
    ++ units.flatMap (fun u => toLE 2 u.1 ++ toLE 2 u.2.1 ++ toLE 1 u.2.2.1 ++ toLE 3 u.2.2.2)
  let b := b ++ List.replicate (4092 - b.length) 0#8
  b ++ toLE 4 (crc32c b)

/-- Units of a Suspended task's frame: the carried tile, its unit 0, from 0x2000; the score block, its unit 1, 1 MiB after it (Table 6.6;
log 59). -/
def Task.units (t : Task) : List (Nat × Nat × Nat × Nat) :=
  (if t.spilled then [(2, ceilDiv (8 * t.accLen) 4096, 1, 0)] else [])
    ++ (match t.scoresSpilled with | some k => [(258, ceilDiv (4 * k) 4096, 2, 1)] | none => [])

/-- Write the header of a Suspended task's frame. -/
def State.writeHeader (s : State) (c j : Nat) (t : Task) : State :=
  match (s.core c).frames.getD j none with
  | some (.task _ secure cls time) =>
    s.writeRaw (s.frameAddr c j) (frameHeader 1 secure cls 0 time (s.taskRecord t) t.units)
  | _ => s

/-- The lowest free frame of a core. -/
def Core.freeFrameNo (c : Core) : Option Nat := c.frames.findIdx? Option.isNone

/-- Lane states as bytes, and back (spec/09 R236). -/
def laneBytes (lanes : List Nat) : List Byte := lanes.flatMap (toLE 16)

/-- The states of a core's lanes as they stand: those of the context that draws, else as the last one left them (spec/09 R236). -/
def Core.laneStand (x : Core) : List Nat := match x.lanes with | some (_, d) => d.lanes | none => x.laneRegs

def laneStates (b : List Byte) : List Nat := (List.range 128).map (fun i => field b (16 * i) 16)

/-- A task stops at a pre-emption point into frame `j` (R158): record and lane state are written, the carried tile stays. -/
def State.suspend (s : State) (c slot j : Nat) (t : Task) : State :=
  match s.stage t.stage with
  | none => s
  | some st =>
    let x := s.core c
    let own := match x.lanes, x.staging with
      | some (i, d), some (j, e) => if i = slot then some d else if j = slot then some e else none
      | some (i, d), none => if i = slot then some d else none
      | none, some (j, e) => if j = slot then some e else none
      | none, none => none
    let drop := fun (y : Option (Nat × DrawCtx)) => match y with | some (i, _) => if i = slot then none else y | none => y
    let stand := match own with | some d => d.lanes | none => x.laneStand
    let x := match x.lanes with | some (i, _) => if i = slot then x.leaveLanes else x | none => x
    let t := { t with st := .suspended, frame := some j, savedLanes := own, susOrder := s.cores.susOrder }
    let x := { x with slots := x.slots.put slot t, frames := x.frames.set j (some (.task slot st.secure st.cls s.time))
                      staging := drop x.staging }
    let s := s.setCore c x
    let s := { s with cores := { s.cores with susOrder := s.cores.susOrder + 1 } }
    let s := (s.writeHeader c j t).writeRaw (s.frameAddr c j + 0x1000) (laneBytes stand)
    (s.tick1 dspSuspends).bump dspSpillBytes 2048

/-! ### Spills (R159) -/

/-- Spill the carried tile of a Suspended task into its frame. -/
def State.spillCarried (s : State) (c slot : Nat) : State :=
  match (s.core c).slots.find slot with
  | none => s
  | some t => match t.frame with
    | none => s
    | some j =>
      let s := s.writeRaw (s.frameAddr c j + 0x2000) (t.acc.flatMap (fun w => toLE 8 w.toNat))
      let t' := { t with acc := [], accLen := t.acc.length, spilled := true }
      ((s.setTask c slot t').writeHeader c j t').bump dspSpillBytes (8 * t.acc.length)

/-- Spill the kept scores of a Suspended ATTEND chain. -/
def State.spillScores (s : State) (c slot : Nat) : State :=
  match (s.core c).slots.find slot with
  | none => s
  | some t => match t.frame with
    | none => s
    | some j =>
      let s := s.writeRaw (s.frameAddr c j + 0x102000) (t.scores.flatMap (fun w => toLE 4 w.toNat))
      let t' := { t with scores := [], scoresSpilled := some t.scores.length }
      ((s.setTask c slot t').writeHeader c j t').bump dspSpillBytes (4 * t.scores.length)

/-- Tiles of a set in a frame: index in the set, tile. -/
def RetSet.inFrame (x : RetSet) (c j : Nat) : List (Nat × RetTile) :=
  (x.tiles.zipIdx.map (fun p => (p.2, p.1))).filter (fun p => match p.2.home with
    | .spilled c' j' _ => c' == c && j' == j
    | _ => false)

/-- Spill one retained tile of a set from core `c`; unchanged where no frame is free. -/
def State.spillTile (s : State) (c : Nat) (key : Bool × Nat) (idx : Nat) : State :=
  match s.dsp.sets.find key with
  | none => s
  | some x =>
    let co := s.core c
    let own := co.frames.findIdx? (fun f => match f with | some (.tiles w i _ _) => w == key.1 && i == key.2 | _ => false)
    match (if own.isSome then own else co.freeFrameNo), x.tiles[idx]? with
    | some j, some t =>
      let time := match co.frames.getD j none with | some (.tiles _ _ _ u) => u | _ => s.time
      let cls := match co.frames.getD j none with | some (.tiles _ _ k _) => k | _ => x.cls
      let there := x.inFrame c j
      let off := 2 + (there.map (fun p => p.2.size / 4096)).sum
      let x' := { x with tiles := x.tiles.set idx { t with home := .spilled c j off, data := [] } }
      let s := s.setCore c { co with frames := co.frames.set j (some (.tiles key.1 key.2 cls time)) }
      let s := { s with dsp := { s.dsp with sets := s.dsp.sets.put key x' } }
      let bytes := t.data.flatten
      let units := (there ++ [(idx, { t with home := .spilled c j off })]).map (fun (p : Nat × RetTile) => match p.2.home with
        | .spilled _ _ o => (o, p.2.size / 4096, 3, p.1)
        | _ => (0, 0, 3, p.1))
      let s := s.writeRaw (s.frameAddr c j + off * 4096) bytes
      (s.writeRaw (s.frameAddr c j) (frameHeader 2 key.1 cls key.2 time (List.replicate 64 0#8) units)).bump dspSpillBytes
        bytes.length
    | _, _ => s

/-- A spill unit of retained space. -/
inductive RetUnit where
  | tile (key : Bool × Nat) (idx : Nat)
  | scores (slot : Nat)
deriving DecidableEq, Repr

/-- Retained tiles on core `c` of sets below a class, with class and age. A tile that a task is still draining is no unit yet (R165). -/
def State.retTiles (s : State) (c cls : Nat) : List (Nat × Nat × RetUnit) :=
  s.dsp.sets.flatMap (fun p => if cls ≤ p.2.cls then [] else
    (p.2.tiles.zipIdx.filter (fun t => t.1.home == .kept c && !t.1.data.isEmpty)).map (fun t => (p.2.cls, t.1.order, RetUnit.tile p.1 t.2)))

/-- Kept score blocks on core `c` of Suspended chains below a class. -/
def State.retScores (s : State) (c cls : Nat) : List (Nat × Nat × RetUnit) :=
  ((s.core c).slots.filter (fun p => p.2.st == .suspended && p.2.keep && p.2.scoresSpilled.isNone && decide (s.taskClass p.2 < cls))).map
    (fun p => (s.taskClass p.2, (match p.2.frame with
      | some j => (match (s.core c).frames.getD j none with | some (.task _ _ _ t) => t | _ => 0)
      | none => 0), RetUnit.scores p.1))

/-- Units in the order they are spilled: lowest class first, within a class the oldest. -/
def spillOrder {α : Type} (us : List (Nat × Nat × α)) : List α :=
  (sortBy Prod.fst (sortBy (fun u => u.2.1) us)).map (fun u => u.2.2)

/-- Carried tiles on core `c` of Suspended tasks below a class. -/
def State.carried (s : State) (c cls : Nat) : List Nat :=
  spillOrder (((s.core c).slots.filter (fun p =>
    s.carries p.2 && decide (s.taskClass p.2 < cls))).map
      (fun p => (s.taskClass p.2, p.2.susOrder, p.1)))

def State.retUnits (s : State) (c cls : Nat) : List RetUnit := spillOrder (s.retTiles c cls ++ s.retScores c cls)

/-- Free space for an incoming task: carried tiles until `acc` elements are free, retained units until `ret` bytes are (Table 6.5). -/
def State.makeSpace (s : State) (c cls acc ret : Nat) : State :=
  let s := (s.carried c cls).foldl (fun s slot => if acc ≤ s.accFree c then s else s.spillCarried c slot) s
  (s.retUnits c cls).foldl (fun s u =>
    if ret ≤ s.retFree c then s
    else match u with
      | .tile key idx => s.spillTile c key idx
      | .scores slot => s.spillScores c slot) s

/-- Whether an incoming task has to wait for spills of units of lower classes (R159). -/
def State.mustSpill (s : State) (c cls acc ret : Nat) : Bool :=
  (decide (s.accFree c < acc) && !(s.carried c cls).isEmpty) || (decide (s.retFree c < ret) && !(s.retUnits c cls).isEmpty)

/-- Bytes of the retained space a tile of a MATMUL takes (R133). -/
def retTileBytes (st : Stage) (t : Task) : Nat :=
  roundUp ((tileRows st.desc t.r).2 * ceilDiv ((tileCols st.desc t.c).2 * (dTd st.desc 2).fmt.width) 8) 4096

/-- Accumulator elements and retained bytes an incoming task needs. -/
def taskNeeds (st : Stage) (t : Task) : Nat × Nat :=
  let acc := if t.st = .suspended ∧ ¬ t.spilled then 0 else footprint st t
  let ret := match t.scoresSpilled with
    | some _ => scoreBlock st t
    | none =>
      if t.st = .suspended then 0
      else if st.opcode = 0x02 ∧ t.k = 0 then scoreBlock st t
      else if st.opcode = 1 ∧ cRetOut st.chain ≠ 0 then retTileBytes st t
      else 0
  (acc, ret)

/-! ### Restores (R160, R162) -/

/-- The lane state read back from a frame: in the context that was saved, else into the lanes that no context draws from (R160, spec/09
R236). -/
def State.restoreLanes (s : State) (c n a len : Nat) (saved : Option DrawCtx) : Option DrawCtx × State :=
  let r := s.frameRead n a len
  match saved with
  | some d => (some { d with lanes := laneStates r.1 }, r.2)
  | none => (none, if ((r.2).core c).lanes.isSome then r.2 else r.2.setCore c { r.2.core c with laneRegs := laneStates r.1 })

/-- Words and scores read back from a frame; `ctx` is the draw context that takes the lanes again. -/
def State.restoreUnits (s : State) (c slot j : Nat) (t : Task) (ctx : Option DrawCtx) : State :=
  let a := s.frameAddr c j
  let (ab, s) := if t.spilled then s.frameRead t.stage (a + 0x2000) (8 * t.accLen) else ([], s)
  let ns := t.scoresSpilled.getD 0
  let (sb, s) := if t.scoresSpilled.isSome then s.frameRead t.stage (a + 0x102000) (4 * ns) else ([], s)
  let t' := { t with
    acc := if t.spilled then (List.range t.accLen).map (fun i => BitVec.ofNat 64 (field ab (8 * i) 8)) else t.acc
    scores := if t.scoresSpilled.isSome then (List.range ns).map (fun i => BitVec.ofNat 32 (field sb (4 * i) 4)) else t.scores
    spilled := false, scoresSpilled := none, restoring := false, frame := none, savedLanes := none }
  let x := (s.core c).freeFrame (some j)
  let x := { x with slots := x.slots.put slot t'
                    lanes := match ctx with | some d => some (slot, d) | none => x.lanes }
  (s.setCore c x).bump dspRestoreBytes (2048 + ab.length + sb.length)

/-- A task is restored from its frame. -/
def State.restoreTask (s : State) (c slot j : Nat) (t : Task) : State :=
  let r := s.restoreLanes c t.stage (s.frameAddr c j + 0x1000) 2048 t.savedLanes
  r.2.restoreUnits c slot j t r.1

end Sys2Proof.Machine
end

