-- ==== Sys2Proof/Machine/Work.lean ====
section
/-!
DEFINITION. What array passes and harrow rows do to the accumulator tile of a task: matrix products, reductions, functions, noise
and normalisation (spec/02 R56, R57; spec/03 R61-R77; spec/08 R213-R227; spec/09 R234-R241).
-/
namespace Sys2Proof.Machine

/-- Draw words from the lanes for the task in a slot of core `c` (spec/09 R234). -/
def State.drawWords (s : State) (c slot k : Nat) : List Nat × State :=
  let x := s.core c
  match x.lanes with
  | some (i, d) =>
    if i = slot then
      let (ws, d) := d.draws k
      (ws, (s.setCore c { x with lanes := some (slot, d) }).bump (coreReg c rngWords) k)
    else (List.replicate k 0, s)
  | none => (List.replicate k 0, s)

/-! ### Group sums of a task's rows -/

/-- K groups of a pass that hold indices below the depth (R66: the others are bypassed). -/
def groupsIn (g0 n k : Nat) : List Nat := (range g0 n).filter (fun g => decide (128 * g < k))

/-- The stationary block of a MATMUL: the rows of B for one K group, columns of a sub-pass. -/
def State.stationary (s : State) (n : Nat) (st : Stage) (k0 len col cols : Nat) : List (List Nat) × State :=
  (range k0 len).foldl (fun (acc : List (List Nat) × State) k =>
    let (xs, s) := acc.2.operand n st 1 k col cols
    (acc.1 ++ [xs], s)) ([], s)

/-- Apply a K group's stationary block to the rows of a pass of a MATMUL; the tile's words. -/
def State.matGroup (s : State) (core n : Nat) (st : Stage) (t : Task) (p : PassSpec) (acc : List Word64) (g : Nat) :
    List Word64 × State :=
  let d := st.desc
  let (row0, _) := tileRows d t.r; let (col0, nc) := tileCols d t.c; let (k0, k) := tileDepth d t.k
  let len := min 128 (k - 128 * g)
  let (bs, s) := s.stationary n st (k0 + 128 * g) len (col0 + p.sp.col0) p.sp.cols
  (range p.row0 p.rows).foldl (fun acc i =>
    if !st.valid (rowSample d (row0 + i)) then (acc.1, acc.2.countPro core st (row0 + i) (k0 + 128 * g) len)
    else
      let (as, s) := acc.2.streamDepth core n st (row0 + i) (k0 + 128 * g) len
      let off := i * nc + p.sp.col0
      let (ys, fl) := groupWords (intStage d) (dWrap d) (stageCell d) (streamFmt st) (dTd d 1).fmt as bs
        ((acc.1.drop off).take p.sp.cols)
      (putWords acc.1 off ys, s.raise n fl)) (acc, s)

/-- The constant operand of a REDUCE (Table 8.8), as a code of INT8 or FP32. -/
def redConst (d : List Byte) : Nat :=
  if op1 d 0xE0 ≤ 1 then (if intStage d then 1 else 0x3F800000) else 0
def redFmt (d : List Byte) : Fmt := if intStage d then .int8 else .fp32

/-- Apply one K group of a REDUCE to row `i` of a tile (R227). -/
def State.redGroup (s : State) (n : Nat) (st : Stage) (t : Task) (i col cols : Nat) (acc : List Word64) (g : Nat) :
    List Word64 × State :=
  let d := st.desc; let a := dTd d 0
  let (row0, _) := tileRows d t.r; let (col0, nc) := tileCols d t.c; let (k0, k) := tileDepth d t.k
  let len := min 128 (k - 128 * g)
  let row := row0 + i
  let const := List.replicate len (redConst d)
  if !st.valid (rowSample d row) then (acc, s)
  else
    let off := i * nc + col
    let inc := (acc.drop off).take cols
    let sum := groupWords (intStage d) (dWrap d) (stageCell d)
    let (ys, fl, s) :=
      if op1 d 0xE1 = 0 then
        let (as, s) := s.readElems (st.who n) a row (k0 + 128 * g) len
        let (ys, fl) := sum a.fmt (redFmt d) as (const.map (fun x => [x])) inc
        (ys, fl, s)
      else
        let (bs, s) := (range (row * (a.t * a.h * a.w) + k0 + 128 * g) len).foldl (fun (acc : List (List Nat) × State) r =>
          let (xs, s) := acc.2.readElems (st.who n) a r (col0 + col) cols
          (acc.1 ++ [xs], s)) ([], s)
        let (ys, fl) := sum (redFmt d) a.fmt const bs inc
        (ys, fl, s)
    (putWords acc off ys, s.raise n fl)

/-- The group sums of one array pass land in the accumulator (R61). -/
def State.passWork (s : State) (core n : Nat) (st : Stage) (t : Task) (p : PassSpec) : List Word64 × State :=
  let gs := groupsIn p.g0 p.sp.groups (tileDepth st.desc t.k).2
  if st.opcode = 1 then gs.foldl (fun acc g => acc.2.matGroup core n st t p acc.1 g) (t.acc, s)
  else gs.foldl (fun acc g => (range p.row0 p.rows).foldl (fun acc i =>
    acc.2.redGroup n st t i p.sp.col0 p.sp.cols acc.1 g) acc) (t.acc, s)

/-! ### Rows on the harrow -/

/-- One output row of a harrow MATMUL: an ordered chain of fused multiply-adds (spec/02 R56). -/
def State.fmaRow (s : State) (core n : Nat) (st : Stage) (t : Task) (i : Nat) : List Word64 × State :=
  let d := st.desc
  let fa := streamFmt st; let fb := (dTd d 1).fmt
  let f := if fa = .fp64 ∨ fb = .fp64 then Fmt.fp64 else .fp32
  let (row0, _) := tileRows d t.r; let (col0, nc) := tileCols d t.c; let (k0, k) := tileDepth d t.k
  if !st.valid (rowSample d (row0 + i)) then (t.acc, s)
  else
    let (as, s) := s.streamDepth core n st (row0 + i) k0 k
    let (ys, fl, s) := as.zipIdx.foldl (fun (acc : List Word64 × Flags × State) a =>
      let (bs, s) := acc.2.2.operand n st 1 (k0 + a.2) col0 nc
      let x := (decodeFp fa a.1, isSignalling fa a.1)
      let rs := (acc.1.zip bs).map (fun p => harrowFma f (stageConv st).round x (decodeFp fb p.2, isSignalling fb p.2)
        (ofAcc p.1, isSignalling .fp64 p.1.toNat))
      (rs.map (fun r => toAcc r.1), rs.foldl (fun a r => a ||| r.2) acc.2.1, s)) ((t.acc.drop (i * nc)).take nc, 0, s)
    (putWords t.acc (i * nc) ys, s.raise n fl)

/-- One output row of a harrow REDUCE (R227). -/
def State.redRow (s : State) (n : Nat) (st : Stage) (t : Task) (i : Nat) : List Word64 × State :=
  let nc := (tileCols st.desc t.c).2
  (groupsIn 0 (ceilDiv (tileDepth st.desc t.k).2 128) (tileDepth st.desc t.k).2).foldl (fun acc g =>
    acc.2.redGroup n st t i 0 nc acc.1 g) (t.acc, s)

/-! ### Delivery of a row (R112, R128, R131, spec/09 R239) -/

/-- The final conversion of a row; `words` are the draws under SR. -/
def convRow (st : Stage) (f : Fmt) (xs : List Word64) (words : List Nat) : List Nat × Flags :=
  xs.zipIdx.foldl (fun acc p =>
    let (c, fl) := finalConv st f (words.getD p.2 0 >>> 16) p.1
    (acc.1 ++ [c], acc.2 ||| fl)) ([], 0)

/-- The codes of a row of a destination, and the row after the drain steps: zeros where the sample is invalid. The final conversion
raises no flag where it is `quiet` (spec/09 R243). HAR_DRAIN_ELEMS counts the zeros of an invalid sample here, where the tile has passed
its task, and not in FUNC and NOISE, whose invalid rows are written without it (R141 does not say; DESIGN CHOICE, log 50). -/
def State.deliverRow (s : State) (core n : Nat) (st : Stage) (f : Fmt) (row col0 : Nat) (xs : List Word64) (words : List Nat)
    (quiet : Bool := false) : List Nat × List Word64 × State :=
  let s := s.bump (coreReg core harDrainElems) xs.length
  if !st.valid (rowSample st.desc row) then (List.replicate xs.length 0, xs, s)
  else
    let (ys, s) := s.stepsRow core n st false row col0 xs
    let (cs, fl) := convRow st f ys words
    (cs, ys, if quiet then s else s.raise n fl)

/-- One output row of a FUNC (R213, R214): widened, through the function, delivered. -/
def State.funcRow (s : State) (core slot n : Nat) (st : Stage) (t : Task) (i : Nat) : State :=
  let d := st.desc; let a := dTd d 0; let o := dTd d 2
  let (row0, _) := tileRows d t.r; let (col0, nc) := tileCols d t.c
  let row := row0 + i
  let (ws, s) := if st.sr then s.drawWords core slot nc else ([], s)
  if !st.valid (rowSample d row) then s.writeElems (st.who n) o row col0 (List.replicate nc 0)
  else
    let (xs, s) := s.readElems (st.who n) a row col0 nc
    let rs := xs.map (fun x => stageFn st (op2 d 0xE0) (widenFp a.fmt x).1)
    let s := (s.raise n (rs.foldl (fun f r => f ||| r.2) 0)).bump (coreReg core harFuncElems) nc
    let (cs, _, s) := s.deliverRow core n st o.fmt row col0 (rs.map (fun r => toAcc r.1)) ws
    s.writeElems (st.who n) o row col0 cs

/-- A NOISE value (Table 9.2). -/
def noiseValue (dist w : Nat) : Fp × Flags :=
  if dist = 0 then (gaussian w, flagInexact) else if dist = 1 then (uniform w, 0) else (gumbel w, flagInexact)

/-- One output row of a NOISE (R240, Table 9.1). -/
def State.noiseRow (s : State) (core slot n : Nat) (st : Stage) (t : Task) (i : Nat) : State :=
  let d := st.desc; let o := dTd d 2
  let (row0, _) := tileRows d t.r; let (col0, nc) := tileCols d t.c
  let row := row0 + i
  let (ws, s) := s.drawWords core slot (if st.sr then 2 * nc else nc)
  if !st.valid (rowSample d row) then s.writeElems (st.who n) o row col0 (List.replicate nc 0)
  else
    let at_ := fun j => ws.getD (if st.sr then 2 * j else j) 0
    let rs := (List.range nc).map (fun j => noiseValue (op1 d 0xE0) (at_ j))
    let s := s.raise n (rs.foldl (fun f r => f ||| r.2) 0)
    let (cs, _, s) := s.deliverRow core n st o.fmt row col0 (rs.map (fun r => toAcc r.1))
      ((List.range nc).map (fun j => ws.getD (2 * j + 1) 0))
    s.writeElems (st.who n) o row col0 cs

/-- What the end of harrow row `i` has done (R157): the tile's words. -/
def State.rowWork (s : State) (core slot n : Nat) (st : Stage) (t : Task) (i : Nat) : List Word64 × State :=
  match st.opcode with
  | 0x01 => s.fmaRow core n st t i
  | 0x04 => (t.acc, s.funcRow core slot n st t i)
  | 0x08 => (t.acc, s.noiseRow core slot n st t i)
  | _ => s.redRow n st t i

/-! ### Normalisation (R220, R221) -/

/-- An element read as binary32 (R220): value, whether it is signalling, flags. -/
def normRead (f : Fmt) (x : Nat) : (Fp × Bool) × Flags :=
  match f with
  | .fp64 =>
    let (y, fl) := roundIeee .fp32 .rne (decodeFp f x)
    ((y, false), fl ||| sigFlag (isSignalling f x))
  | _ => ((decodeFp f x, isSignalling f x), 0)

/-- The statistics of a row from its three accumulator elements, and back. -/
def normOfWords (ws : List Word64) : NormRow := ⟨ofAcc (ws.getD 0 0), ofAcc (ws.getD 1 0), ofAcc (ws.getD 2 0)⟩
def normWords (r : NormRow) : List Word64 := [toAcc r.x0, toAcc r.s1, toAcc r.s2]

/-- Row `i` of a NORM task: its part of the row into the carried statistics. -/
def State.normPart (s : State) (n : Nat) (st : Stage) (t : Task) (i : Nat) : List Word64 × State :=
  let d := st.desc; let a := dTd d 0
  let (row0, _) := tileRows d t.r; let (k0, k) := tileDepth d t.k
  let old := (t.acc.drop (3 * i)).take 3
  if !st.valid (rowSample d (row0 + i)) then (old, s)
  else
    let (xs, s) := s.readElems (st.who n) a (row0 + i) k0 k
    let es := xs.map (normRead a.fmt)
    let r := normOfWords old
    let r := if t.k = 0 ∧ bit (op1 d 0xE0) 1 then { r with x0 := (es.head?.map (fun e => e.1.1)).getD .zero } else r
    let (r, fl) := es.foldl (fun (acc : NormRow × Flags) e =>
      let (r, f) := normElem acc.1 e.1
      (r, acc.2 ||| f ||| e.2)) (r, 0)
    (normWords r, s.raise n fl)

/-- The whole of a NORM task. -/
def State.normWork (s : State) (n : Nat) (st : Stage) (t : Task) : List Word64 × State :=
  (List.range (tileRows st.desc t.r).2).foldl (fun acc i =>
    let (ws, s) := acc.2.normPart n st t i
    (acc.1 ++ ws, s)) ([], s)

/-- μ and ρ of a row (R220). -/
def State.normRowEnd (s : State) (core n : Nat) (st : Stage) (ws : List Word64) : List Word64 × State :=
  let d := st.desc
  let (mu, rho, fl) := normFinish (bit (op1 d 0xE0) 0) (decodeFp .fp32 (op4 d 0xE4)) (dTd d 0).c (normOfWords ws)
  ([toAcc mu, toAcc rho], (s.raise n fl).tick1 (coreReg core harNormRows))

end Sys2Proof.Machine
end

