-- ==== Sys2Proof/Machine/Thresher.lean ====
section
/-!
DEFINITION. The thresher and the sampler: candidates of a row, carried selections, SAMPLE, partial records (spec/08 R222-R226; spec/09
R242-R244).
-/
namespace Sys2Proof.Machine

/-- A candidate: its value in accumulator form and its position. -/
abbrev Cand := Word64 × Nat

/-- The position of an empty place. -/
def noPos : Nat := 0xFFFFFFFF

/-- Whether one candidate ranks before another (R222). -/
def candBefore (int smallest : Bool) (a b : Cand) : Bool :=
  if int then ranksBeforeInt smallest (toInt64 a.1) a.2 (toInt64 b.1) b.2
  else ranksBefore smallest (ofAcc a.1) a.2 (ofAcc b.1) b.2

/-- A carried selection of `k` places as accumulator elements, two to a place (R224), and back. -/
def selWords (k : Nat) (cs : List Cand) : List Word64 :=
  (cs.take k).flatMap (fun c => [c.1, BitVec.ofNat 64 c.2])
    ++ (List.replicate (k - cs.length) [(0 : Word64), BitVec.ofNat 64 noPos]).flatten
def selOf (ws : List Word64) : List Cand :=
  ((chunks 2 (ws.length / 2 + 1) ws).map (fun p => (p.getD 0 0, (p.getD 1 0).toNat))).filter (fun c => c.2 != noPos)

/-- The best `k` of a selection and further candidates. -/
def selMerge (int smallest : Bool) (k : Nat) (sel more : List Cand) : List Cand :=
  more.foldl (fun acc c => selInsert (candBefore int smallest) k c acc) sel

/-- SMALLEST of a selecting stage. -/
def selSmallest (d : List Byte) : Bool :=
  match dOpcode d with
  | 0x05 => op1 d 0xE0 == 6
  | 0x06 => bit (op1 d 0xE2) 0
  | _ => false

/-- Places of a selection: K of TOPK, 1 of an ARG reduction, TOP_K of SAMPLE. -/
def selPlaces (d : List Byte) : Nat :=
  match dOpcode d with
  | 0x05 => 1
  | 0x06 => op2 d 0xE0
  | _ => topK d

/-- One entry of a partial record (R225). -/
def recEntry (b : List Byte) (i : Nat) : Cand := (BitVec.ofNat 64 (field b (16 * i) 8), field b (16 * i + 8) 4)

/-- The candidates of row `row` that task `t` reads, in order of place (R223, R225). -/
def State.candRow (s : State) (core n : Nat) (st : Stage) (t : Task) (row : Nat) : List Cand × State :=
  let d := st.desc
  let (k0, k) := tileDepth d t.k
  let (cs, s) :=
    if dOpcode d != 5 && selRecords d then
      let a := selArea d % 2 ^ 48 + (row * candCount d + k0) * 16
      let (b, s) := s.readFor (st.who n) a (16 * k) 0
      (((List.range k).map (recEntry b)).filter (fun (c : Cand) => c.2 != noPos), s)
    else
      let (xs, s) := s.readElems (st.who n) (dTd d 0) row k0 k
      (xs.zipIdx.map (fun (p : Nat × Nat) => ((widen (intStage d) ⟨.rne, false, false⟩ (dTd d 0).fmt p.1).1, k0 + p.2)), s)
  (cs, s.bump (coreReg core thrCandidates) cs.length)

/-- Words of a row of the carried tile. -/
def rowWords (acc : List Word64) (per i : Nat) : List Word64 := (acc.drop (per * i)).take per

/-- The whole of a TOPK or ARG task: every row's selection. -/
def State.topkWork (s : State) (core n : Nat) (st : Stage) (t : Task) : List Word64 × State :=
  let d := st.desc
  let k := selPlaces d
  let (row0, m) := tileRows d t.r
  (List.range m).foldl (fun (acc : List Word64 × State) i =>
    let old := if t.k = 0 then [] else selOf (rowWords t.acc (2 * k) i)
    if !st.valid (rowSample d (row0 + i)) then (acc.1 ++ selWords k old, acc.2)
    else
      let (cs, s) := acc.2.candRow core n st t (row0 + i)
      (acc.1 ++ selWords k (selMerge (intStage d) (selSmallest d) k old cs), s)) ([], s)

/-! ### SAMPLE (R243, R244) -/

/-- x of a score (R243). -/
def smpScale (d : List Byte) (s : Word64) : Fp × Flags :=
  let (x, f) := Fp.mulX (ofAcc s) (decodeFp .fp32 (op4 d 0xE8))
  let (y, g) := odd53 x
  (y, f ||| g)

/-- The key of a candidate with a word (R243, Table 9.2). -/
def smpKey (x : Fp) (w : Nat) : Fp × Flags :=
  let (y, f) := Fp.addX x (gumbel w)
  let (z, g) := odd53 y
  (z, f ||| g ||| flagInexact)

/-- The best of keyed candidates: key, position, x. -/
abbrev Keyed := Fp × Nat × Fp

def keyedBest (best : Option Keyed) (c : Keyed) : Option Keyed :=
  match best with
  | none => some c
  | some b => if ranksBefore false c.1 c.2.1 b.1 b.2.1 then some c else some b

/-- Weights of TOPKP with their running sums (R243). -/
def topkpSums (xs : List Fp) : List Fp × Flags :=
  let x0 := xs.headD .zero
  xs.zipIdx.foldl (fun (acc : List Fp × Flags) p =>
    let one : Fp := .fin false 1 0
    let (wt, f) : Fp × Flags :=
      if x0 == .inf false then (if p.1 == .inf false then one else .zero, 0)
      else if x0 == .inf true || x0.isNan then (if p.2 = 0 then one else .zero, 0)
      else if p.1.isNan then (.zero, 0)
      else
        let (e, f1) := Fp.addX p.1 x0.negate
        let (e, f2) := odd53 e
        let (w, f3) := builtin 1 e
        (w, f1 ||| f2 ||| f3)
    let (c, g) := Fp.addX (acc.1.getLastD .zero) wt
    let (c, h) := odd53 c
    (acc.1 ++ [c], acc.2 ||| f ||| g ||| h)) ([], 0)

/-- The rank TOPKP chooses with a word (R243). -/
def topkpPick (topP : Nat) (xs : List Fp) (w : Nat) : Nat × Flags :=
  let (cs, f) := topkpSums xs
  let last := cs.length - 1
  let (m, f1) : Nat × Flags :=
    if topP = 0 then (last, 0)
    else
      let (t, g) := Fp.mulX (.fin false topP (-16)) (cs.getD last .zero)
      let (t, h) := odd53 t
      (((List.range cs.length).find? (fun q => !(Fp.lt (cs.getD q .zero) t))).getD last, g ||| h)
  let (u, g) := Fp.mulX (uniform w) (cs.getD m .zero)
  let (u, h) := odd53 u
  (((List.range (m + 1)).find? (fun q => Fp.lt u (cs.getD q .zero))).getD m, f ||| f1 ||| g ||| h)

/-- What a row of SAMPLE carries from task to task, or its result in the last task, and the words for its final conversion. -/
structure SmpRow where
  words : List Word64
  srWords : List Nat
deriving DecidableEq, Repr

/-- The result of a row: x and position (R242-R244); −Inf and position −1 where a valid row has no candidate. -/
def smpResult (best : Option (Nat × Fp)) : List Word64 :=
  match best with
  | some (p, x) => [toAcc x, BitVec.ofNat 64 p]
  | none => [toAcc (.inf true), BitVec.ofNat 64 noPos]

/-- The SR word of a row's TD2 value, drawn in the last task. -/
def State.smpSr (s : State) (core slot : Nat) (st : Stage) : List Nat × State :=
  if st.sr && dTdValid st.desc 2 then s.drawWords core slot 1 else ([], s)

/-- Row `i` of a streaming GUMBEL task: one word per candidate position. -/
def State.smpStreamRow (s : State) (core slot n : Nat) (st : Stage) (t : Task) (i : Nat) : SmpRow × State :=
  let d := st.desc
  let row := (tileRows d t.r).1 + i
  let (ws, s) := s.drawWords core slot (tileDepth d t.k).2
  let old := rowWords t.acc 3 i
  let best : Option Keyed := if t.k = 0 ∨ (old.getD 1 0).toNat = noPos then none
    else some (ofAcc (old.getD 0 0), (old.getD 1 0).toNat, ofAcc (old.getD 2 0))
  let (best, s) :=
    if !st.valid (rowSample d row) then (best, s)
    else
      let (cs, s) := s.candRow core n st t row
      let (best, fl) := (cs.zip ws).foldl (fun (acc : Option Keyed × Flags) p =>
        let (x, f) := smpScale d p.1.1
        let (k, g) := smpKey x p.2
        (keyedBest acc.1 (k, p.1.2, x), acc.2 ||| f ||| g)) (best, 0)
      (best, s.raise n fl)
  if t.k + 1 = t.len then
    let (sr, s) := s.smpSr core slot st
    (⟨smpResult (best.map (fun b => (b.2.1, b.2.2))), sr⟩, s)
  else
    (⟨match best with
      | some b => [toAcc b.1, BitVec.ofNat 64 b.2.1, toAcc b.2.2]
      | none => [0, BitVec.ofNat 64 noPos, 0], []⟩, s)

/-- Row `i` of the other forms: the best TOP_K by x are carried; the last task draws and samples. -/
def State.smpRow (s : State) (core slot n : Nat) (st : Stage) (t : Task) (i : Nat) : SmpRow × State :=
  let d := st.desc
  let k := topK d
  let row := (tileRows d t.r).1 + i
  let old := if t.k = 0 then [] else selOf (rowWords t.acc (2 * k) i)
  let (sel, s) :=
    if !st.valid (rowSample d row) then (old, s)
    else
      let (cs, s) := s.candRow core n st t row
      let xs := cs.map (fun c => let (x, f) := smpScale d c.1; ((toAcc x, c.2), f))
      (selMerge false false k old (xs.map Prod.fst), s.raise n (xs.foldl (fun f x => f ||| x.2) 0))
  if t.k + 1 < t.len then (⟨selWords k sel, []⟩, s)
  else
    let (ws, s) := s.drawWords core slot (if topkp d then 1 else min k (candCount d))
    let (best, fl) : Option (Nat × Fp) × Flags :=
      if sel.isEmpty then (none, 0)
      else if topkp d then
        let (q, f) := topkpPick (op2 d 0xE4) (sel.map (fun c => ofAcc c.1)) (ws.getD 0 0)
        (sel[q]?.map (fun c => (c.2, ofAcc c.1)), f)
      else
        let (b, f) := (sel.zip ws).foldl (fun (acc : Option Keyed × Flags) p =>
          let (key, g) := smpKey (ofAcc p.1.1) p.2
          (keyedBest acc.1 (key, p.1.2, ofAcc p.1.1), acc.2 ||| g)) (none, 0)
        (b.map (fun b => (b.2.1, b.2.2)), f)
    let (sr, s) := s.smpSr core slot st
    (⟨smpResult best, sr⟩, s.raise n fl)

/-- The whole of a SAMPLE task: carried words or results, words for the final conversion. -/
def State.smpWork (s : State) (core slot n : Nat) (st : Stage) (t : Task) : List Word64 × List Nat × State :=
  let m := (tileRows st.desc t.r).2
  let r := (List.range m).foldl (fun (acc : List Word64 × List Nat × State) i =>
    let (x, s) := if smpStream st.desc then acc.2.2.smpStreamRow core slot n st t i else acc.2.2.smpRow core slot n st t i
    (acc.1 ++ x.words, acc.2.1 ++ x.srWords, s)) ([], [], s)
  if t.k + 1 = t.len then (r.1, r.2.1, r.2.2.bump (coreReg core rngSampleRows) m) else r

/-! ### Partial records (R225) -/

/-- The value of an empty place: −Inf or +Inf, or the end of the INT64 range. -/
def emptyValue (int smallest : Bool) : Word64 :=
  if int then ofInt64 (if smallest then 2 ^ 63 - 1 else -(2 ^ 63 : Int)) else toAcc (.inf (!smallest))

/-- A record of `e` entries. -/
def recBytes (int smallest : Bool) (e : Nat) (cs : List Cand) : List Byte :=
  (cs.take e).flatMap (fun c => toLE 8 c.1.toNat ++ toLE 4 c.2 ++ toLE 4 0)
    ++ (List.replicate (e - cs.length) (toLE 8 (emptyValue int smallest).toNat ++ toLE 4 noPos ++ toLE 4 0)).flatten

/-- Write the partial record of a drained row of a MATMUL: its values after the last step, or none for an invalid sample. -/
def State.writeRecord (s : State) (core n : Nat) (st : Stage) (row c : Nat) (xs : List Word64) : State :=
  let d := st.desc
  let int := intStage d
  let small := bit (op1 d 0xE2) 0
  let e := drainE d
  let col0 := (tileCols d c).1
  let sel := selMerge int small e [] (xs.zipIdx.map (fun p => (p.1, col0 + p.2)))
  let a := (drainArea d).1 % 2 ^ 48 + (row * (matGrid d).c + c) * e * 16
  ((s.writeFor (st.who n) a (recBytes int small e sel) 0).bump (coreReg core thrCandidates) xs.length).tick1 (coreReg core thrPartials)

end Sys2Proof.Machine
end

