-- ==== Sys2Proof/Machine/Attend.lean ====
section
/-!
DEFINITION. ATTEND and KV_RETRIEVE on the cores: sheaves, keys, scores, the three-pass soft maximum, biases, the selection of pages
(spec/07 R171-R184, R198-R203).
-/
namespace Sys2Proof.Machine

/-! ### Reading pages (R202, Table 10.13) -/

/-- Bytes of a page for a stage: read with the STREAM hint outside the hedgerow; zeros where a line is poisoned. -/
def State.pageRead (s : State) (n a len : Nat) : List Byte × State := s.innerRead n a len 1

/-! ### The chain of a tile (R172, R173) -/

/-- Sample, query block and key-value head of an ATTEND or KV_RETRIEVE tile (R171, R172). -/
def attSample (d : List Byte) (r : Nat) : Nat := r / queryBlocks d
def attBlock (d : List Byte) (r : Nat) : Nat := r % queryBlocks d
def attHead (d : List Byte) (c : Nat) : Nat := c * headsKv d / headsQ d

/-- Address of the sheaf record of (n, r, g) (R201). -/
def sheafAddr (d : List Byte) (n r g : Nat) : Nat :=
  (opAddr d (if dOpcode d = 2 then 0xF0 else 0xEE) % 2 ^ 48) + ((n * queryBlocks d + r) * headsKv d + g) * 4160

/-- CRC of a sheaf record: every byte but its own four. -/
def sheafCrc (b : List Byte) : Nat := crc32c (b.take 0x3C ++ b.drop 0x40)

/-- The first failed check of R202 for a sheaf: a status, 0 where all pass. -/
def State.sheafCheck (s : State) (st : Stage) (b : List Byte) (n r g : Nat) : Nat :=
  let d := st.desc
  let flags := field b 0x0B 1
  let pages := field b 0x0E 2
  let poolBit := fun i => bit (field b (0x40 + 8 * i) 8) 24
  if field b 0x3C 4 ≠ sheafCrc b then 1
  else if field b 0x14 4 ≠ n ∨ field b 0x10 4 ≠ r ∨ field b 0x0C 2 ≠ queryTm d ∨ field b 0x08 2 ≠ op2 d 0xE4
      ∨ field b 0x0A 1 ≠ g ∨ (!bit flags 2 ∧ bit flags 1 ≠ atAxes d) ∨ 512 < pages ∨ s.kv.p - 1 < field b 0x20 2 then 2
  else if s.kvLook st.secure (field b 0 8) = .inr resWorld
      ∨ (List.range pages).any (fun i => poolBit i != st.secure) then 4
  else 0

/-- Whether a page is skipped: a stale handle, or a release that began before the stage's admission (R203). -/
def pageSkipped (st : Stage) (gen : Option Nat) (p : KvPage) : Bool :=
  (match gen with | some g => p.gen.toNat != g | none => false) || (p.st == .releasing && decide (p.relAt ≤ st.admOrder))

/-- Keys of one page handle, or none where it is skipped. -/
def State.pageKeys (s : State) (st : Stage) (h : Nat) : Option (List KeyRef) :=
  let num := bits h 0 24
  let p := (s.kvPool st.secure).pages.get {} num
  if pageSkipped st (some (bits h 32 32)) p then none else some ((List.range p.fill).map (KeyRef.page num))

/-- The key of a tail token: in its windrow, or in the page that now holds it; none where it is skipped. -/
def State.tailKey (s : State) (st : Stage) (slot g token : Nat) : Option KeyRef :=
  let w := (s.kvSeq slot).winds.get {} (op2 st.desc 0xE4, g)
  if w.first ≤ token ∧ token < w.first + w.toks.length then w.toks[token - w.first]?.map KeyRef.tail
  else match (s.kvPool st.secure).pages.find? (fun p =>
      p.2.st != .free && p.2.seq == slot && p.2.layer == op2 st.desc 0xE4 && p.2.head == g
        && decide (p.2.first ≤ token) && decide (token < p.2.first + p.2.fill)) with
    | none => none
    | some (num, p) => if pageSkipped st none p then none else some (.page num (token - p.first))

/-- Keys of the pages and the tail a sheaf names. -/
def State.sheafNamed (s : State) (n : Nat) (st : Stage) (b : List Byte) (g pages tail : Nat) : List KeyRef × State :=
  let slot := bits (field b 0 8) 0 16
  let ps := (List.range pages).map (fun i => s.pageKeys st (field b (0x40 + 8 * i) 8))
  let ts := (List.range tail).map (fun i => s.tailKey st slot g (field b 0x18 8 + i))
  let stale := (ps.filter Option.isNone).length
  let s := s.kvCount st.secure kvStale stale
  let s := if stale = 0 ∧ ts.all Option.isSome then s else s.meet (some n) 0x0B
  ((ps.filterMap id).flatten ++ ts.filterMap id, s)

/-- Keys a sheaf that passes its checks supplies (R202, R203). -/
def State.sheafKeys (s : State) (n : Nat) (st : Stage) (b : List Byte) (g : Nat) : List KeyRef × State :=
  let pages := field b 0x0E 2; let tail := field b 0x20 2
  if bit (field b 0x0B 1) 2 then ([], s.meet (some n) 0x0B)
  else match s.kvLook st.secure (field b 0 8) with
    | .inr r =>
      if r = resRefused ∧ ((s.kvSeq (bits (field b 0 8) 0 16)).st = .free
          ∨ (s.kvSeq (bits (field b 0 8) 0 16)).gen.toNat ≠ bits (field b 0 8) 16 32) then
        ([], (s.meet (some n) 0x0B).kvCount st.secure kvStale pages)
      else s.sheafNamed n st b g pages tail
    | .inl _ => s.sheafNamed n st b g pages tail

/-- Note the status of a failed sheaf check: only that of the first counts (R202). -/
def State.meetSheaf (s : State) (n status : Nat) : State :=
  match s.stage n with
  | none => s
  | some st => if st.met.any (fun x => x == 1 || x == 2 || x == 4) then s else s.meet (some n) status

/-- The paged keys of a chain: none where its tile is to be left unwritten. -/
def State.pagedKeys (s : State) (n : Nat) (st : Stage) (t : Task) : Option (List KeyRef) × State :=
  let d := st.desc
  let smp := attSample d t.r; let blk := attBlock d t.r; let g := attHead d t.c
  let (b, status, s) := s.ctrlRead (st.who n) (sheafAddr d smp blk g) 4160
  if status = 8 then
    (none, match s.stage n with
      | some st => (s.setStage n { st with forceStop := true }).meet (some n) 8
      | none => s)
  else if status ≠ 0 then (none, s.meet (some n) status)
  else match s.sheafCheck st b smp blk g with
    | 0 => let (ks, s) := s.sheafKeys n st b g; (some ks, s)
    | k + 1 => (none, s.meetSheaf n (k + 1))

/-- The keys of an ATTEND chain, as its first task starts (R173, R177, R202). -/
def State.attKeys (s : State) (n : Nat) (st : Stage) (t : Task) : Option (List KeyRef) × State :=
  let d := st.desc
  let smp := attSample d t.r
  if !st.valid smp then (some [], s)
  else
    let (ks, s) := if atPaged d then s.pagedKeys n st t else (some [], s)
    let per := (dTd d 1).t * (dTd d 1).h * (dTd d 1).w
    (ks.map (fun ks => ks ++ (if atLocal d then (range (smp * per) per).map KeyRef.own else [])), s)

/-! ### Scores (R174, R181-R183) -/

/-- A key or value row of `D` elements of head `g`: its values. -/
def State.keyRow (s : State) (n : Nat) (st : Stage) (g : Nat) (value : Bool) (k : KeyRef) : List Fp × State :=
  let d := st.desc
  match k with
  | .page num slot =>
    let a := s.pageAddr st.secure num + (if value then s.kv.p * s.kvKey else 0) + slot * s.kvKey
    let (b, s) := s.pageRead n a s.kvKey
    (kvValues s b, s)
  | .tail t => (kvValues s (if value then t.val else t.key), s)
  | .own row =>
    let td := dTd d (if value then 2 else 1)
    let dim := (dTd d 0).c / headsQ d
    let (xs, s) := s.readElems (st.who n) td row (g * dim) dim
    (xs.map (fun x => (widenFp td.fmt x).1), s)

/-- The position of a key. -/
def State.keyPos (s : State) (n : Nat) (st : Stage) (k : KeyRef) : Nat × State :=
  match k with
  | .page num slot =>
    let (b, s) := s.pageRead n (s.pageAddr st.secure num + 2 * s.kv.p * s.kvKey + 8 * slot) 8
    (bits (field b 0 8) 0 48, s)
  | .tail t => (t.pos, s)
  | .own row => (posOf (atAxes st.desc) (op6 st.desc 0xE6) (dTd st.desc 1) row, s)

/-- Entry of a bias table for a distance (R182): exact limit, bits per octave, half. -/
def biasIdx (d : Int) (e b half : Nat) : Nat :=
  let a := d.natAbs
  let i := if a < e then a
    else
      let x := Nat.log2 a
      e + (x - Nat.log2 e) * 2 ^ b + (a >>> (x - b)) % 2 ^ b
  if 0 ≤ d then i else half + i

/-- A BF16 entry of the bias tables of head `h`, counted in entries. -/
def biasEntry (tab : List Byte) (i : Nat) : Fp := decodeFp .bf16 (field tab (2 * i) 2)

/-- The bias of a pair of positions from the tables of a head (R182, R183). -/
def biasOf (axes : Bool) (tab : List Byte) (pq pk : Nat) : Fp × Flags :=
  if axes then
    let f := fun (lo w off : Nat) => biasEntry tab (off + biasIdx ((bits pq lo w : Int) - (bits pk lo w : Int)) 128 2 256)
    let a := f 24 24 0; let b := f 12 12 512; let c := f 0 12 1024
    if a.isNan || b.isNan || c.isNan then (.nan, 0)
    else
      let (x, g) := Fp.addX a b
      let (y, h) := Fp.addX x c
      (y, g ||| h)
  else (biasEntry tab (biasIdx ((pq : Int) - (pk : Int)) 1024 4 2048), 0)

/-- The bias tables of a head, read with the KEEP hint when a task starts (R184). -/
def State.biasTables (s : State) (n : Nat) (st : Stage) (h : Nat) : List Byte × State :=
  if atBias st.desc then
    let size := if atAxes st.desc then 3072 else 8192
    s.readFor (st.who n) (opAddr st.desc 0xF6 % 2 ^ 48 + h * size) size 2
  else ([], s)

/-- The score of a query row and a key (R174): FP32. -/
def scoreOf (scale : Fp) (q k : List Fp) (bias : Fp × Flags) : Fp × Flags :=
  let (dot, f) := groupFp .mulAdd (q.zip k) (128 - q.length) .zero
  let (x, g) := Fp.fmaX dot scale bias.1
  let (c, h) := encodeFp .fp32 .rne false 0 x
  (decodeFp .fp32 c, f ||| g ||| h ||| bias.2)

/-- The query rows of a tile: values and positions. -/
def State.queries (s : State) (n : Nat) (st : Stage) (t : Task) : List (List Fp × Nat) × State :=
  let d := st.desc
  let (row0, m) := tileRows d t.r; let (col0, dim) := tileCols d t.c
  (range row0 m).foldl (fun (acc : List (List Fp × Nat) × State) row =>
    let (xs, s) := acc.2.readElems (st.who n) (dTd d 0) row col0 dim
    (acc.1 ++ [(xs.map (fun x => (widenFp (dTd d 0).fmt x).1), posOf (atAxes d) (op6 d 0xE6) (dTd d 0) row)], s)) ([], s)

/-- Scores of some keys against the query rows of a tile, key by key: one list of `m` scores per key; `tab` holds the bias tables. -/
def State.scoresOf (s : State) (n : Nat) (st : Stage) (t : Task) (tab : List Byte) (ks : List KeyRef) : List (List Fp) × State :=
  let d := st.desc
  let scale := decodeFp .fp32 (op4 d 0xEC)
  let (qs, s) := s.queries n st t
  ks.foldl (fun (acc : List (List Fp) × State) k =>
    let (kr, s) := acc.2.keyRow n st (attHead d t.c) false k
    let (pk, s) := if atBias d then s.keyPos n st k else (0, s)
    let rs := qs.map (fun q => scoreOf scale q.1 kr (if atBias d then biasOf (atAxes d) tab q.2 pk else (.zero, 0)))
    (acc.1 ++ [rs.map Prod.fst], s.raise n (rs.foldl (fun f r => f ||| r.2) 0))) ([], s)

/-! ### The soft maximum (R175, R176) -/

/-- A row's maximum as the carried tile holds it: NaN after a NaN score, +Inf after a +Inf score. -/
def maxStep (m s : Fp) : Fp := if m.isNan || s.isNan then .nan else if Fp.lt m s then s else m

/-- Sums, maxima and probability sums of a carried tile of `m` rows and `dim` columns (R180). -/
def attSums (acc : List Word64) (m dim : Nat) : List Word64 := acc.take (m * dim)
def attMax (acc : List Word64) (m dim : Nat) : List Word64 := (acc.drop (m * dim)).take m
def attProb (acc : List Word64) (m dim : Nat) : List Word64 := (acc.drop (m * dim + m)).take m

/-- The tile an ATTEND chain starts from. -/
def attStart (m dim : Nat) : List Word64 :=
  List.replicate (m * dim) 0 ++ List.replicate m (toAcc (.inf true)) ++ List.replicate m 0

/-- The probability of a score in a row with maximum `m`: its code in the probability format. -/
def probOf (f : Fmt) (share : Bool) (m s : Fp) : Nat × Flags :=
  let one := (encodeFp f .rne false 0 (.fin false 1 0)).1
  match m with
  | .inf false => (if share && s == .inf false then one else 0, 0)
  | _ =>
    let (x, g) := Fp.addX s m.negate
    let (x, h) := odd53 x
    let (y, k) := builtin 1 x
    let (c, l) := encodeFp f .rne false 0 y
    (c, g ||| h ||| k ||| l)

/-- Whether a row accumulates: it holds a finite maximum, or shares at infinity. -/
def rowLive (share : Bool) (m : Fp) : Bool :=
  match m with
  | .nan | .inf true => false
  | .inf false => share
  | _ => true

/-- Keys of task `k` of a chain, and the number of the first. -/
def attTaskKeys (d : List Byte) (t : Task) : Nat × List KeyRef :=
  let half := attHalf d t.keys.length
  let i := if t.k < half then t.k else t.k - half
  (i * attTk d, (t.keys.drop (i * attTk d)).take (attTk d))

/-- A pass 1 task: maxima, and the scores where they are kept. -/
def State.attPass1 (s : State) (n : Nat) (st : Stage) (t : Task) (tab : List Byte) : Task × State :=
  let d := st.desc
  let m := (tileRows d t.r).2; let dim := (tileCols d t.c).2
  let (rows, s) := s.scoresOf n st t tab (attTaskKeys d t).2
  let mx := rows.foldl (fun mx r => (mx.zip r).map (fun p => maxStep p.1 p.2)) ((attMax t.acc m dim).map ofAcc)
  ({ t with
      acc := attSums t.acc m dim ++ mx.map toAcc ++ attProb t.acc m dim
      scores := if t.keep then
          t.scores ++ rows.flatMap (fun r => r.map (fun x => BitVec.ofNat 32 (encodeFp .fp32 .rne false 0 x).1))
        else t.scores }, s)

/-- Scores of a pass 2 task: read back, or computed again (R178). -/
def State.attScores (s : State) (n : Nat) (st : Stage) (t : Task) (tab : List Byte) (k0 : Nat) (ks : List KeyRef) :
    List (List Fp) × State :=
  if t.keep then
    let m := (tileRows st.desc t.r).2
    ((List.range ks.length).map (fun i =>
      ((t.scores.drop ((k0 + i) * m)).take m).map (fun w => decodeFp .fp32 w.toNat)), s)
  else s.scoresOf n st t tab ks

/-- One group of up to 128 keys of pass 2: probabilities by row, values by key; new sums and probability sums. -/
def attGroup (f : Fmt) (share : Bool) (mx : List Fp) (vs : List (List Fp)) (ss : List (List Fp)) (dim : Nat)
    (sums probs : List Word64) : List Word64 × List Word64 × Flags :=
  let pad := 128 - vs.length
  mx.zipIdx.foldl (fun acc r =>
    let (m, i) := r
    let old := (sums.drop (i * dim)).take dim
    let p0 := ofAcc (probs.getD i 0)
    if !rowLive share m then (acc.1 ++ old, acc.2.1 ++ [toAcc p0], acc.2.2)
    else
      let ps := ss.map (fun row => probOf f share m (row.getD i .zero))
      let pv := ps.map (fun p => decodeFp f p.1)
      let fl := ps.foldl (fun a p => a ||| p.2) acc.2.2
      let (p1, f1) := groupFp .mulAdd (pv.map (fun x => (x, .fin false 1 0))) pad p0
      let cols := old.zipIdx.map (fun w => groupFp .mulAdd (pv.zip (vs.map (fun v => v.getD w.2 .zero))) pad (ofAcc w.1))
      (acc.1 ++ cols.map (fun c => toAcc c.1), acc.2.1 ++ [toAcc p1], cols.foldl (fun a c => a ||| c.2) (fl ||| f1))) ([], [], 0)

/-- A pass 2 task: sums of probabilities and of weighted values, in groups of 128 keys. -/
def State.attPass2 (s : State) (n : Nat) (st : Stage) (t : Task) (tab : List Byte) : Task × State :=
  let d := st.desc
  let m := (tileRows d t.r).2; let dim := (tileCols d t.c).2
  let f := (Fmt.ofCode (op1 d 0xE1)).getD .e4m3
  let (k0, ks) := attTaskKeys d t
  let (ss, s) := s.attScores n st t tab k0 ks
  let mx := (attMax t.acc m dim).map ofAcc
  let (vs, s) := ks.foldl (fun (acc : List (List Fp) × State) k =>
    let (v, s) := acc.2.keyRow n st (attHead d t.c) true k
    (acc.1 ++ [v], s)) ([], s)
  let gs := chunks 128 (ks.length / 128 + 1) (ss.zip vs)
  let (sums, probs, fl) := gs.foldl (fun acc g =>
    let (a, p, fl) := attGroup f (atShare d) mx (g.map Prod.snd) (g.map Prod.fst) dim acc.1 acc.2.1
    (a, p, acc.2.2 ||| fl)) (attSums t.acc m dim, attProb t.acc m dim, 0)
  ({ t with acc := sums ++ mx.map toAcc ++ probs }, s.raise n fl)

/-- The whole of an ATTEND task; each task reads the tables of its head (R184). -/
def State.attWork (s : State) (n : Nat) (st : Stage) (t : Task) : Task × State :=
  let (tab, s) := s.biasTables n st t.c
  if t.keys.isEmpty then (t, s)
  else if t.k < attHalf st.desc t.keys.length then s.attPass1 n st t tab else s.attPass2 n st t tab

/-- acc / S under odd53 (R175). -/
def attQuotient (x p : Fp) : Fp × Flags :=
  match x with
  | .fin _ 0 _ => (x, 0)
  | .fin _ _ _ =>
    let (q, sticky, f) := divX x p
    let (y, g) := odd53 (withSticky q sticky)
    (y, f ||| g)
  | _ => (x, 0)

/-- Row `i` of an ATTEND tile as its drain begins (R175 pass 3, R176, R177). -/
def State.attRow (s : State) (n : Nat) (st : Stage) (t : Task) (i : Nat) : List Word64 × State :=
  let d := st.desc
  let m := (tileRows d t.r).2; let dim := (tileCols d t.c).2
  let fill := fun (x : Fp) => List.replicate dim (toAcc x)
  let p := ofAcc ((attProb t.acc m dim).getD i 0)
  match ofAcc ((attMax t.acc m dim).getD i (toAcc (.inf true))) with
  | .nan => (fill .nan, s)
  | .inf true => (fill .zero, s.raise n flagEmptyRow)
  | mx =>
    if mx = .inf false ∧ !atShare d then (fill .nan, s.raise n flagInvalid)
    else
      let rs := ((t.acc.drop (i * dim)).take dim).map (fun w => attQuotient (ofAcc w) p)
      (rs.map (fun r => toAcc r.1), s.raise n (rs.foldl (fun a r => a ||| r.2) 0))

/-! ### KV_RETRIEVE (R198-R201) -/

/-- The query of block `b` of sample `smp` for key-value head `g`: its values (R199). -/
def State.blockQuery (s : State) (n : Nat) (st : Stage) (smp b g : Nat) : List Fp × State :=
  let d := st.desc
  let dim := (dTd d 0).c / headsQ d
  let row0 := smp * queryRows d + b * queryTm d
  let heads := (List.range (headsQ d)).filter (fun h => attHead d h == g)
  let (terms, s) := (range row0 (min (queryTm d) (queryRows d - b * queryTm d))).foldl (fun (acc : List (List Fp) × State) row =>
    heads.foldl (fun (acc : List (List Fp) × State) h =>
      let (xs, s) := acc.2.readElems (st.who n) (dTd d 0) row (h * dim) dim
      (acc.1 ++ [xs.map (fun x => (widenFp (dTd d 0).fmt x).1)], s)) acc) ([], s)
  let cs := (List.range dim).map (fun c => meanBf16 (terms.map (fun r => r.getD c .zero)))
  (cs.map (fun c => decodeFp .bf16 c.1), s.raise n (cs.foldl (fun f c => f ||| c.2) 0))

/-- The score of a query against a page's summary (R199). -/
def pageScore (dist : Bool) (q k : List Fp) : Fp × Flags :=
  let (x, f) := groupFp (if dist then .sqDiffAdd else .mulAdd) (q.zip k) (128 - q.length) .zero
  (if dist then x.negate else x, f)

/-- Sample, first query block and blocks of a KV_RETRIEVE tile. -/
def retSample (d : List Byte) (r : Nat) : Nat := r / retRuns d

/-- The whole of a KV_RETRIEVE task: scores of its candidates, candidate by candidate, one per block. -/
def State.retWork (s : State) (n : Nat) (st : Stage) (t : Task) : Task × State :=
  let d := st.desc
  let (b0, m) := tileRows d t.r
  let ks := (t.keys.drop (4096 * t.k)).take 4096
  let (qs, s) := (range b0 m).foldl (fun (acc : List (List Fp) × State) b =>
    let (q, s) := acc.2.blockQuery n st (retSample d t.r) b t.c
    (acc.1 ++ [q], s)) ([], s)
  ks.foldl (fun (acc : Task × State) k => match k with
    | .page num _ =>
      let (b, s) := acc.2.pageRead n (acc.2.pageAddr st.secure num + s.kv.p * (2 * s.kvKey + 8)) (2 * s.kv.d)
      let key := elemsOf .bf16 b 0 s.kv.d
      let rs := qs.map (fun q => pageScore (bit (op1 d 0xE0) 0) q (key.map (decodeFp .bf16)))
      ({ acc.1 with acc := acc.1.acc ++ rs.map (fun r => toAcc r.1) }, s.raise n (rs.foldl (fun f r => f ||| r.2) 0))
    | _ => acc) (t, s)

/-- The pages of a sheaf by ordinal (R200): the candidates as (sink), their scores. -/
def sheafPick (sheafMax recent : Nat) (sinks : List Bool) (scores : List Fp) : List Nat :=
  let all := List.range sinks.length
  if sinks.length ≤ sheafMax then all
  else
    let sink := all.filter (fun i => sinks.getD i false)
    let others := all.filter (fun i => !sinks.getD i false)
    let first := (sink ++ (others.reverse.take recent)).take sheafMax
    let rest := others.filter (fun i => !first.contains i)
    let best := rest.foldl (fun acc i =>
      selInsert (fun a b => ranksBefore false (scores.getD a .nan) a (scores.getD b .nan) b) (sheafMax - first.length) i acc) []
    all.filter (fun i => first.contains i || best.contains i)

/-- A sheaf record (Table 7.10); `handles` are its pages. -/
def sheafRecord (d : List Byte) (handle n r g : Nat) (axes notDone : Bool) (handles : List Nat) (tailFirst tailCount : Nat) :
    List Byte :=
  let b := toLE 8 handle ++ toLE 2 (op2 d 0xE4) ++ toLE 1 g
    ++ toLE 1 (b2n (bit (op1 d 0xE0) 0) + 2 * b2n axes + 4 * b2n notDone) ++ toLE 2 (queryTm d) ++ toLE 2 handles.length
    ++ toLE 4 r ++ toLE 4 n ++ toLE 8 tailFirst ++ toLE 2 tailCount ++ List.replicate 26 0#8 ++ List.replicate 4 0#8
    ++ handles.flatMap (toLE 8) ++ List.replicate (8 * (512 - handles.length)) 0#8
  putBytes b 0x3C (toLE 4 (sheafCrc b))

/-- Write the sheaf of block `b0 + i` of a KV_RETRIEVE tile (R200, R201). -/
def State.writeSheaf (s : State) (n : Nat) (st : Stage) (t : Task) (i : Nat) : State :=
  let d := st.desc
  let (b0, m) := tileRows d t.r
  let smp := retSample d t.r
  let run := s.kv.runs.get { table := [] } n
  let h := entHandle run.table smp
  let (b, k) := match run.views.find (smp, t.c) with
    | none => (sheafRecord d h smp (b0 + i) t.c false true [] 0 0, 0)
    | some v =>
      let scores := (List.range v.pages.length).map (fun j => ofAcc (t.acc.getD (j * m + i) 0))
      let pick := sheafPick (op2 d 0xE2) (op1 d 0xE1) (v.pages.map (fun p => p.2.2)) scores
      let pool := s.kvPool st.secure
      let handles := pick.map (fun j =>
        let num := (v.pages.getD j (0, 0, false)).1
        pageHandle st.secure num (pool.pages.get {} num).gen)
      (sheafRecord d h smp (b0 + i) t.c (s.kvSeq (bits h 0 16)).posMode false handles v.tailFirst v.tailCount, handles.length)
  (s.writeFor (st.who n) (sheafAddr d smp (b0 + i) t.c) b 0).kvCount st.secure kvSheafPages k

/-- The candidates of a KV_RETRIEVE chain. -/
def State.retKeys (s : State) (n : Nat) (st : Stage) (t : Task) : List KeyRef :=
  match (s.kv.runs.get { table := [] } n).views.find (retSample st.desc t.r, t.c) with
  | none => []
  | some v => v.pages.map (fun p => .page p.1 0)

end Sys2Proof.Machine
end

