-- ==== Sys2Proof/Machine/Tasks.lean ====
section
/-!
DEFINITION. A task on its core: start, array passes, harrow rows, the end of its passes with pre-emption, spills, restores, array
clocks and the takeover of the random-number lanes (spec/03 R61-R84; spec/06 R153-R164; spec/07 R178, R202; spec/09 R233).
-/
namespace Sys2Proof.Machine

/-! ### The choice of a task (R153, R157) -/

/-- A task between two tasks of its chain. -/
def Task.midChain (t : Task) : Bool := t.begun && t.st == .waiting

/-- Whether task `a` starts before task `b` on a core. A chain between its tasks goes first: what may come between them is decided
where its task ends (R157, R158). -/
def State.startsBefore (s : State) (a b : Task) : Bool :=
  let adm := fun (t : Task) => ((s.stage t.stage).map Stage.admOrder).getD 0
  if a.midChain != b.midChain then a.midChain
  else if s.taskClass a ≠ s.taskClass b then decide (s.taskClass b < s.taskClass a)
  else match a.st, b.st with
    | .suspended, .suspended => decide (b.susOrder < a.susOrder)
    | .suspended, _ => true
    | _, .suspended => false
    | _, _ => decide (adm a < adm b) || (adm a == adm b && decide (a.order < b.order))

/-- The task a core starts next. -/
def State.nextTask (s : State) (c : Nat) : Option (Nat × Task) :=
  (s.core c).waiters.foldl (fun best p => match best with
    | none => some p
    | some b => if s.startsBefore p.2 b.2 then some p else best) none

/-- A task whose stage is ending, or whose tile is given up, leaves its core (R162; spec/07 R202; spec/14 R395). -/
def State.dropEnding (s : State) (c slot n : Nat) : State :=
  let s := s.setCore c ((s.core c).dropTask slot)
  if (s.tasksOf n).isEmpty then s.finish n s.endedBy else s

/-! ### Passes (R61-R68, R84) -/

/-- The arrays once a pass holds its own (Table 3.4): all four, or three under INDEPENDENT3, which leaves A3 and its clock as they
are (R84). -/
def passArrays (p : PassSpec) (old : List ArrayPhase) : List ArrayPhase :=
  if p.sp.plan = 2 then [.inPass, .inPass, .inPass, old.getD 3 .idle] else List.replicate 4 .inPass

/-- Arrays come to rest: those that held a pass are idle. -/
def Core.restArrays (x : Core) : Core :=
  { x with arrays := x.arrays.map (fun a => if a = .inPass then .idle else a), passCyc := 0, passStream := 0, passFeed := 0 }

/-- A pass has streamed its last row: its latency of 256 core cycles overlaps whatever pass comes next (R65). -/
def Core.endPass (x : Core) : Core :=
  if x.arrays.contains .inPass then
    { x with arrays := x.arrays.map (fun a => if a = .inPass then .emptying else a), passCyc := 0, passStream := 0, passFeed := 0, tail := 256 }
  else x

/-- The pass is the first of a column sub-pass that preloads its columns (R76). -/
def preloadsNow (st : Stage) (t : Task) (p : PassSpec) : Bool := preloads st && t.k == 0 && p.g0 == 0

/-- Core cycles of the preload of a pass: 512 elements each (R76). -/
def preloadCycles (st : Stage) (t : Task) (p : PassSpec) : Nat :=
  if preloadsNow st t p then ceilDiv (p.rows * roundUp p.sp.cols 128) 512 else 0

/-- A pass holds its arrays: their clocks run, its counts begin (R64, R66, R84). -/
def Core.beginPass (x : Core) (st : Stage) (t : Task) (p : PassSpec) : Core :=
  { x.emptyPipe true with
    arrays := passArrays p x.arrays, passCyc := 0, passStream := streamCycles p.width p.rows, plan := p.sp.plan
    passFeed := preloadCycles st t p, rowRelease := decide (65536 < footprint st t) }

/-- The start values of a sub-pass's columns are written (R75, R76). -/
def State.preload (s : State) (c slot : Nat) (st : Stage) (t : Task) (p : PassSpec) : State :=
  if !preloadsNow st t p then s
  else
    let nc := (tileCols st.desc t.c).2
    let (ws, s) := s.startWords t.stage st t p.sp.col0 p.sp.cols
    s.setTask c slot { t with acc := putCols t.acc nc p.sp.col0 p.sp.cols ws }

/-- The next pass of the array task in a slot begins, or its last has ended. -/
def State.startPass (s : State) (c slot : Nat) (st : Stage) (t : Task) : State :=
  match (passesOf st t)[t.pass]? with
  | none => s.setCore c (s.core c).endPass
  | some p => (s.setCore c ((s.core c).beginPass st t p)).preload c slot st t p

/-- The first pass of a stage's first task, and the latency of a stage that pre-empted (Table 6.12). -/
def State.markFirst (s : State) (n : Nat) : State :=
  match s.stage n with
  | none => s
  | some st =>
    let time := st.firstPass.getD s.time
    let s := s.setStage n { st with firstPass := some time }
    if st.preempted ∧ (s.ctr dspPreemptLatMax).toNat < time - st.admTime then
      { s with ctrs := s.ctrs.put dspPreemptLatMax (BitVec.ofNat 64 (time - st.admTime)) }
    else s

/-- A stage has pre-empted a lower class. -/
def State.markPreempted (s : State) (n : Nat) : State :=
  match s.stage n with
  | none => s
  | some st =>
    let s := s.setStage n { st with preempted := true }
    if st.firstPass.isSome then s.markFirst n else s

/-! ### Start (R75, R153, spec/07 R173, R178, spec/09 R233) -/

/-- The choice between kept and recomputed scores, as the first task of an ATTEND chain starts (spec/07 R178). -/
def State.decideKeep (s : State) (c slot : Nat) (st : Stage) : State :=
  match (s.core c).slots.find slot with
  | none => s
  | some t =>
    if st.opcode ≠ 0x02 ∨ t.k ≠ 0 then s
    else
      let keep := decide (scoreBlock st t ≤ s.retFree c)
      (s.setTask c slot { t with keep := keep }).kvCount st.secure (if keep then kvAttKept else kvAttRecomputed) 1

/-- What the first task of a chain sets up: keys and start values, those of an array task that preloads by its passes (R76); none where
the tile is given up. -/
def State.beginChain (s : State) (n : Nat) (st : Stage) (t : Task) : Option Task × State :=
  let m := (tileRows st.desc t.r).2
  match st.opcode with
  | 0x02 =>
    match s.attKeys n st t with
    | (none, s) => (none, s)
    | (some ks, s) =>
      (some { t with keys := ks, len := max 1 (2 * attHalf st.desc ks.length), acc := attStart m (tileCols st.desc t.c).2 }, s)
  | 0x0A => (some { t with keys := s.retKeys n st t }, s)
  | 0x03 => (some { t with acc := List.replicate (3 * m) 0 }, s)
  | 0x01 | 0x05 =>
    if redArg st.desc then (some t, s)
    else
      let nc := (tileCols st.desc t.c).2
      if preloads st && !st.alone then (some { t with acc := List.replicate (m * nc) (clearWord st.desc) }, s)
      else let (ws, s) := s.startWords n st t 0 nc; (some { t with acc := ws }, s)
  | _ => (some t, s)

/-- Seed the context of a task in the staging copy (spec/09 R232, R233). -/
def State.seed (s : State) (c slot : Nat) (st : Stage) (t : Task) : State :=
  let x := s.core c
  (s.setCore c { x with staging := some (slot, seedContext (dSeed st.desc) t.r t.c t.k) }).tick1 (coreReg c rngContexts)

/-- The first pass of the array task in a slot begins: its feeder's fetch restarts the clocks of its arrays and knocks their domain. -/
def State.firstPass (s : State) (c slot : Nat) (st : Stage) : State :=
  match (s.core c).slots.find slot with
  | none => s
  | some t => if st.alone then s else (s.startPass c slot st t).knock (2 * c)

/-- Put a task in its passes: spills it must wait for, its context, its first pass. `old` is the task as it waited. A task that is
restored has its first pass then (spec/06 R160). -/
def State.enterPasses (s : State) (c slot : Nat) (st : Stage) (old t : Task) : State :=
  let n := t.stage
  let (acc, ret) := taskNeeds st { t with st := old.st }
  let spill := !old.midChain && s.mustSpill c st.cls acc ret
  let restoring := old.st == .suspended && old.frame.isSome
  let t := { t with st := .passes, begun := true, ended := false, spillWait := spill, restoring := restoring }
  let s := s.setTask c slot t
  let s := if spill || old.st == .suspended then s else s.decideKeep c slot st
  let s := if st.alone && st.draws t.k t.len && old.savedLanes.isNone then s.seed c slot st t else s
  let s := s.setCore c (if st.alone then ((s.core c).emptyPipe true).emptyPipe false else (s.core c).emptyPipe true)
  let s := if restoring then s else s.firstPass c slot st
  if spill then s else s.markFirst n

/-- Whether a core can start a task: its rest-of-core domain and its die's uncore have power, and nothing stands in Passes. -/
def State.canStart (s : State) (c : Nat) : Bool :=
  (s.domain (2 * c + 1)).powered && (s.domain (192 + c / 12)).powered && (s.core c).running.isNone

/-- A harrow-alone task takes both pipes: it starts or resumes only when the drain pipe holds no work (spec/05 R119, spec/09 R235). -/
def State.drainHoldsBack (s : State) (c : Nat) (st : Stage) : Bool :=
  st.alone && (s.core c).slots.any (fun p => p.2.st == .draining)

def execTaskStart (core : Nat) (s : State) : Out :=
  answer s (if !s.canStart core then s
    else match s.nextTask core with
      | none => s
      | some (slot, t) => match s.stage t.stage with
        | none => s
        | some st =>
          if s.drainHoldsBack core st then s
          else if t.begun ∨ t.st = .suspended then s.enterPasses core slot st t { t with pass := if t.st = .suspended then t.pass else 0 }
          else match s.beginChain t.stage st t with
            | (none, s) => s.tileDone core slot t.stage
            | (some t', s) => s.enterPasses core slot ((s.stage t.stage).getD st) t t')

/-! ### Passes and rows -/

/-- The running task of a core whose work is not held up by a spill or a restore. -/
def State.atWork (s : State) (c : Nat) : Option (Nat × Task × Stage) :=
  match (s.core c).running with
  | none => none
  | some (slot, t) => match s.stage t.stage with
    | none => none
    | some st => if t.ended || t.spillWait || t.restoring then none else some (slot, t, st)

/-- A pass of the running array task ends (R61, R66); not while a drain holds the rows it writes (R74). The passes of ATTEND and KV_RETRIEVE
do their work at the end of the task. -/
def execArrayPassComplete (core : Nat) (s : State) : Out :=
  answer s (match s.atWork core with
    | none => s
    | some (slot, t, st) =>
      if st.alone ∨ !(s.domain (2 * core)).powered ∨ (s.core core).rowsHeld then s
      else match (passesOf st t)[t.pass]? with
        | none => s
        | some p =>
          let (acc, s) := if st.opcode = 0x02 ∨ st.opcode = 0x0A then (t.acc, s) else s.passWork core t.stage st t p
          let t := { t with acc := acc, pass := t.pass + 1 }
          (s.setTask core slot t).startPass core slot st t)

/-- The context of the task in a slot has taken over the lanes. -/
def Core.ownsLanes (x : Core) (slot : Nat) : Bool := match x.lanes with | some (i, _) => i == slot | none => false

/-- The highest Waiting task of a class strictly above `cls` on a core (R157). -/
def State.preemptor (s : State) (c cls : Nat) : Option Task :=
  ((s.core c).slots.filter (fun p => p.2.st == .waiting && decide (cls < s.taskClass p.2))).foldl (fun best p => match best with
    | none => some p.2
    | some b => if s.startsBefore p.2 b then some p.2 else best) none

/-- At a pre-emption point between tasks or rows: suspended for a higher Waiting task where a frame is free, counted as refused
where none is; a chain once refused goes on to its end (R157, R158). `t` is the task as it would go on. -/
def State.preemptAt (s : State) (c slot : Nat) (st : Stage) (t : Task) : State :=
  match s.preemptor c st.cls with
  | none => s.setTask c slot t
  | some h => match (if t.refused then none else (s.core c).freeFrameNo) with
    | none => if t.refused then s.setTask c slot t else (s.setTask c slot { t with refused := true }).tick1 dspPreemptRefused
    | some j => (s.suspend c slot j t).markPreempted h.stage

/-- A harrow row ends (R157). A FUNC or NOISE row that draws waits for its context. The rows of a task that works as a whole are no
pre-emption points: they only count (R147). -/
def execHarrowRowEnd (core : Nat) (s : State) : Out :=
  answer s (match s.atWork core with
    | none => s
    | some (slot, t, st) =>
      let rows := (tileRows st.desc t.r).2
      let draws := (st.opcode == 0x04 || st.opcode == 0x08) && st.draws t.k t.len
      if !st.alone ∨ rows ≤ t.pass ∨ (draws ∧ !(s.core core).ownsLanes slot) then s
      else if !st.byRow then s.setTask core slot { t with pass := t.pass + 1 }
      else
        let (acc, s) := s.rowWork core slot t.stage st t t.pass
        let t := { t with acc := acc, pass := t.pass + 1 }
        if st.ending then s.dropEnding core slot t.stage
        else if t.pass < rows then s.preemptAt core slot st t
        else s.setTask core slot t)

/-- The work of an opcode whose tasks end as a whole. -/
def State.wholeWork (s : State) (c slot n : Nat) (st : Stage) (t : Task) : Task × State :=
  match st.opcode with
  | 0x02 => s.attWork n st t
  | 0x0A =>
    let (t', s) := s.retWork n st t
    (t', s.bump (coreReg c thrCandidates) ((tileRows st.desc t.r).2 * ((t.keys.drop (4096 * t.k)).take 4096).length))
  | 0x03 => let (ws, s) := s.normWork n st t; ({ t with acc := ws }, s)
  | 0x06 => let (ws, s) := s.topkWork c n st t; ({ t with acc := ws }, s)
  | 0x07 => let (ws, us, s) := s.smpWork c slot n st t; ({ t with acc := ws, words := us }, s)
  | _ => if redArg st.desc then let (ws, s) := s.topkWork c n st t; ({ t with acc := ws }, s) else (t, s)

/-- All passes or rows of the running task have ended, and a SAMPLE task that draws has its context. -/
def State.passesOver (s : State) (c slot : Nat) (st : Stage) (t : Task) : Bool :=
  if !st.alone then decide ((passesOf st t).length ≤ t.pass)
  else if st.byRow then decide ((tileRows st.desc t.r).2 ≤ t.pass)
  else st.opcode != 0x07 || !st.draws t.k t.len || (s.core c).ownsLanes slot

/-- The lanes are given up by a task that will draw no more. -/
def Core.freeLanes (x : Core) (slot : Nat) : Core := if x.ownsLanes slot then x.leaveLanes else x

/-- The end of a task's passes (R157): between tasks of a chain a pre-emption point; after its last the chain waits to drain. -/
def execTaskPassesEnd (core : Nat) (s : State) : Out :=
  answer s (match s.atWork core with
    | none => s
    | some (slot, t, st) =>
      if !s.passesOver core slot st t then s
      else
        let n := t.stage
        let (t, s) := s.wholeWork core slot n st t
        let s := s.setCore core (s.core core).restArrays
        if st.ending then s.dropEnding core slot n
        else if t.k + 1 < t.len then
          let s := s.setCore core ((s.core core).freeLanes slot)
          s.preemptAt core slot st { t with k := t.k + 1, pass := 0, st := .waiting }
        else s.setTask core slot { t with ended := true })

/-! ### Spills, restores, clocks, lanes -/

/-- The spills an incoming task waits for are written (R159). -/
def execSpillComplete (core : Nat) (s : State) : Out :=
  answer s (match (s.core core).running with
    | none => s
    | some (slot, t) => match s.stage t.stage with
      | none => s
      | some st =>
        if !t.spillWait then s
        else
          let (acc, ret) := taskNeeds st { t with st := if t.restoring then .suspended else .waiting }
          let s := s.makeSpace core st.cls acc ret
          let s := s.setTask core slot { t with spillWait := false }
          let s := if t.restoring then s else s.decideKeep core slot st
          s.markFirst t.stage)

/-- A header that cannot be used abandons its task: the tile is left unwritten (R162; spec/10 Table 10.13). -/
def State.abandon (s : State) (c slot n status : Nat) : State :=
  let s := s.setCore c (s.core c).restArrays
  let s := match s.stage n with
    | some st => if status = 8 then s.setStage n { st with forceStop := true } else s
    | none => s
  (s.meet (some n) status).tileDone c slot n

/-- A resumed task is restored (R160, R162): not while another task's context holds the lanes it needs. -/
def execRestoreComplete (core : Nat) (headerOk : Bool) (s : State) : Out :=
  answer s (match (s.core core).running with
    | none => s
    | some (slot, t) =>
      if !t.restoring ∨ t.spillWait then s
      else match t.frame with
        | none => s
        | some j =>
          let bad := s.poisonIn (s.frameAddr core j) 4096
          let header := (s.frameRead t.stage (s.frameAddr core j) 4096).2
          if bad then header.abandon core slot t.stage 8
          else if !headerOk then header.abandon core slot t.stage 1
          else if t.savedLanes.isSome ∧ (s.core core).lanes.isSome then s
          else match header.stage t.stage with
            | none => s
            | some st => (header.restoreTask core slot j t).firstPass core slot st)

/-- An array with nothing to stream or load stops its clock (R84). -/
def execArrayClockStop (core array : Nat) (s : State) : Out :=
  answer s (let x := s.core core
    let a := x.arrays.getD array .inPass
    if a = .idle ∨ a = .emptying then s.setCore core { x with arrays := x.arrays.set array .clockStopped } else s)

/-- A seeded context takes over lanes that no context draws from (spec/09 R233). -/
def execLaneContextTakeover (core : Nat) (s : State) : Out :=
  answer s (let x := s.core core
    match x.staging, x.lanes with
    | some d, none => s.setCore core { x with lanes := some d, staging := none }
    | _, _ => s)

end Sys2Proof.Machine
end

