-- ==== Sys2Proof/Machine/Drain.lean ====
section
/-!
DEFINITION. The drain of a tile: the drain chain over its rows, the final conversion, retained tiles, partial records, positions (spec/03
R74, R83; spec/05 R128-R133; spec/07 R175; spec/08 R223-R227; spec/09 R234, R239; spec/06 R142).
-/
namespace Sys2Proof.Machine

/-! ### Where a drained tile goes (R133) -/

/-- The retained set a stage produces. -/
def State.producing (s : State) (n : Nat) (st : Stage) : Option RetSet :=
  if st.opcode ≠ 1 ∨ cRetOut st.chain = 0 then none
  else match s.dsp.sets.find (st.secure, cRetOut st.chain) with
    | none => none
    | some x => if x.producer = n then some x else none

def State.putSet (s : State) (st : Stage) (x : RetSet) : State :=
  { s with dsp := { s.dsp with sets := s.dsp.sets.put (st.secure, cRetOut st.chain) x } }

/-- The home of a tile as its drain starts: kept where it fits in the free retained space, backed otherwise. -/
def State.homeTile (s : State) (c n : Nat) (st : Stage) (t : Task) : State :=
  match s.producing n st with
  | none => s
  | some x =>
    let size := retTileBytes st t
    let kept := decide (size ≤ s.retFree c)
    let y : RetTile := { r := t.r, c := t.c, data := [], size := if kept then size else 0
                         home := if kept then .kept c else .backed, order := s.time }
    (s.putSet st { x with tiles := x.tiles ++ [y] }).tick1 (coreReg c (if kept then harRetKept else harRetBacked))

/-- A row of a drained MATMUL tile in its retained home; whether the row goes to TD2 as well. -/
def State.keepRow (s : State) (n : Nat) (st : Stage) (t : Task) (row : List Byte) : Bool × State :=
  match s.producing n st with
  | none => (true, s)
  | some x =>
    let mine := fun (y : RetTile) => y.r == t.r && y.c == t.c
    let kept := x.tiles.any (fun y => mine y && y.home != .backed)
    if kept then
      (cWriteThrough st.chain,
        s.putSet st { x with tiles := x.tiles.map (fun y => if mine y then { y with data := y.data ++ [row] } else y) })
    else (true, s)

/-! ### Rows of each opcode -/

/-- Words of `k` stochastic conversions at a drain (R239). -/
def State.srWords (s : State) (c slot : Nat) (st : Stage) (k : Nat) : List Nat × State :=
  if st.sr then s.drawWords c slot k else ([], s)

/-- Row `i` of a MATMUL tile. -/
def State.drainMat (s : State) (c slot n : Nat) (st : Stage) (t : Task) (i : Nat) : State :=
  let d := st.desc; let o := dTd d 2
  let (row0, _) := tileRows d t.r; let (col0, nc) := tileCols d t.c
  let row := row0 + i
  let mode := cDrainTo st.chain
  let (ws, s) := if mode = 1 then ([], s) else s.srWords c slot st nc
  let (cs, ys, s) := s.deliverRow c n st (if mode = 1 then .acc else o.fmt) row col0 ((t.acc.drop (i * nc)).take nc) ws
  let s := if mode = 0 then s else s.writeRecord c n st row t.c (if st.valid (rowSample d row) then ys else [])
  if mode = 1 then s
  else
    let (out, s) := s.keepRow n st t (packRow o.fmt cs)
    if out then s.writeElems (st.who n) o row col0 cs else s

/-- Row `i` of a REDUCE tile that selects nothing; MEAN divides first (spec/08 Table 8.8). -/
def State.drainRed (s : State) (c slot n : Nat) (st : Stage) (t : Task) (i : Nat) : State :=
  let d := st.desc; let o := dTd d 2; let a := dTd d 0
  let (row0, _) := tileRows d t.r; let (col0, nc) := tileCols d t.c
  let row := row0 + i
  let xs := (t.acc.drop (i * nc)).take nc
  let count := if op1 d 0xE1 = 0 then a.c else a.t * a.h * a.w
  let (xs, s) :=
    if op1 d 0xE0 = 1 ∧ st.valid (rowSample d row) then
      let rs := xs.map (fun w => meanOdd53 (ofAcc w) count)
      (rs.map (fun r => toAcc r.1), s.raise n (rs.foldl (fun f r => f ||| r.2) 0))
    else (xs, s)
  let (ws, s) := s.srWords c slot st nc
  let (cs, _, s) := s.deliverRow c n st o.fmt row col0 xs ws
  s.writeElems (st.who n) o row col0 cs

/-- Row `i` of a NORM tile: μ and ρ (spec/08 R220). -/
def State.drainNorm (s : State) (c slot n : Nat) (st : Stage) (t : Task) (i : Nat) : State :=
  let d := st.desc; let o := dTd d 2
  let row := (tileRows d t.r).1 + i
  let (ws, s) := s.srWords c slot st 2
  let (xs, s) := if st.valid (rowSample d row) then s.normRowEnd c n st (rowWords t.acc 3 i) else ([0, 0], s)
  let (cs, _, s) := s.deliverRow c n st o.fmt row 0 xs ws
  s.writeElems (st.who n) o row 0 cs

/-- The code of the value of an excess place (spec/08 R223): no flag, no step. -/
def excessCode (st : Stage) (f : Fmt) (smallest : Bool) : Nat :=
  let int := intStage st.desc
  let conv := { stageConv st with wrap := false }
  if int && (f.isInt || f == .acc) then (convInt f conv 0 (toInt64 (emptyValue true smallest))).1
  else (convFp f conv 0 (.inf (!smallest))).1

/-- Row `i` of a TOPK tile or of an ARG reduction: values to TD2, positions to TD3. -/
def State.drainTop (s : State) (c slot n : Nat) (st : Stage) (t : Task) (i : Nat) : State :=
  let d := st.desc; let k := selPlaces d; let o := dTd d 2
  let row := (tileRows d t.r).1 + i
  let ok := st.valid (rowSample d row)
  let sel := if ok then selOf (rowWords t.acc (2 * k) i) else []
  let values := st.opcode = 5 ∨ dTdValid d 2
  let s :=
    if values then
      let (ws, s) := s.srWords c slot st k
      let (cs, _, s) := s.deliverRow c n st o.fmt row 0 (sel.map Prod.fst) ws
      let rest := List.replicate (k - sel.length) (if ok then excessCode st o.fmt (selSmallest d) else 0)
      s.writeElems (st.who n) o row 0 (cs ++ rest)
    else s
  if st.opcode = 5 ∨ dTdValid d 3 then
    s.writeElems (st.who n) (dTd d 3) row 0
      (sel.map Prod.snd ++ List.replicate (k - sel.length) (if ok then noPos else 0))
  else s

/-- Row `i` of a SAMPLE tile: position to TD3, x to TD2 where present (spec/09 R242). -/
def State.drainSmp (s : State) (c n : Nat) (st : Stage) (t : Task) (i : Nat) : State :=
  let d := st.desc
  let row := (tileRows d t.r).1 + i
  let w := rowWords t.acc 2 i
  let ok := st.valid (rowSample d row)
  let s :=
    if dTdValid d 2 then
      let (cs, _, s) := s.deliverRow c n st (dTd d 2).fmt row 0 (w.take 1) [t.words.getD i 0]
        ((w.getD 1 0).toNat == noPos)
      s.writeElems (st.who n) (dTd d 2) row 0 cs
    else s
  s.writeElems (st.who n) (dTd d 3) row 0 [if ok then (w.getD 1 0).toNat else 0]

/-- Row `i` of an ATTEND tile (spec/07 R175). -/
def State.drainAtt (s : State) (c slot n : Nat) (st : Stage) (t : Task) (i : Nat) : State :=
  let d := st.desc; let o := dTd d 3
  let (row0, _) := tileRows d t.r; let (col0, nc) := tileCols d t.c
  let row := row0 + i
  let (xs, s) := if st.valid (rowSample d row) then s.attRow n st t i else (List.replicate nc 0, s)
  let (ws, s) := s.srWords c slot st nc
  let (cs, _, s) := s.deliverRow c n st o.fmt row col0 xs ws
  s.writeElems (st.who n) o row col0 cs

/-- Everything the drain of a tile does. FUNC and NOISE rows have been written as they ended. -/
def State.drainWork (s : State) (c slot n : Nat) (st : Stage) (t : Task) : State :=
  let m := (tileRows st.desc t.r).2
  let rows := fun (f : State → Nat → State) => (List.range m).foldl f s
  match st.opcode with
  | 0x01 => rows (fun s i => s.drainMat c slot n st t i)
  | 0x02 => rows (fun s i => s.drainAtt c slot n st t i)
  | 0x03 => rows (fun s i => s.drainNorm c slot n st t i)
  | 0x05 => if redArg st.desc then (rows (fun s i => s.drainTop c slot n st t i)).bump (coreReg c thrRows) m
    else rows (fun s i => s.drainRed c slot n st t i)
  | 0x06 => (rows (fun s i => s.drainTop c slot n st t i)).bump (coreReg c thrRows) m
  | 0x07 => rows (fun s i => s.drainSmp c n st t i)
  | 0x0A =>
    let made := ((s.kv.runs.get { table := [] } n).views.find (retSample st.desc t.r, t.c)).isSome
    (rows (fun s i => s.writeSheaf n st t i)).bump (coreReg c thrRows) (if made then m else 0)
  | _ => s

/-! ### The two commands -/

/-- The task of a core that drains. -/
def Core.draining (x : Core) : Option (Nat × Task) := x.slots.find? (fun p => p.2.st == .draining)

def execTaskDrainStart (core : Nat) (s : State) : Out :=
  answer s (match (s.core core).running, (s.core core).draining with
    | some (slot, t), none => match s.stage t.stage with
      | none => s
      | some st =>
        if !t.ended then s
        else
          let s := s.homeTile core t.stage st t
          let s := s.setTask core slot { t with st := .draining }
          let s := s.setCore core ((s.core core).emptyPipe false)
          if !st.alone && st.draws t.k t.len then s.seed core slot st t else s
    | _, _ => s)

/-- The drain has ended: its tile is delivered and its slot is free (R142). A drain that converts stochastically waits for its
context. -/
def execTaskDrainEnd (core : Nat) (s : State) : Out :=
  answer s (match (s.core core).draining with
    | none => s
    | some (slot, t) => match s.stage t.stage with
      | none => s
      | some st =>
        let draws := st.draws t.k t.len && !([0x04, 0x07, 0x08].contains st.opcode)
        if draws && !(s.core core).ownsLanes slot then s
        else ((s.drainWork core slot t.stage st t).tick1 (coreReg core coreTasksDone)).tileDone core slot t.stage)

end Sys2Proof.Machine
end

