-- ==== Sys2Proof/Machine/HostIf.lean ====
section
/-!
DEFINITION. The rings of the host interface: doorbells, ring commands, fetching, completion entries and their messages
(spec/14 R384-R395; spec/18 R479).
-/
namespace Sys2Proof.Machine

/-- Where a write to a BAR2 page of a function leads (R379, R380, R381, R441): in safe mode every BAR write is dropped. -/
inductive PageReach where
  | ring (r : Nat) | notOwner | dropped | ide | none
deriving DecidableEq, Repr

def State.reach (s : State) (f page : Nat) (ide : Bool) : PageReach :=
  if s.hif.safeMode then .dropped
  else if s.ideRefused f ide then .ide
  else match s.pageRing f page with
    | none => .none
    | some r => if s.owner r = f then .ring r else .notOwner

/-! ### Doorbells (R387) -/

/-- A doorbell of a ring: `apply` answers the ring after a value it accepts. A doorbell written while the device is not READY is
dropped and counted (R387). -/
def State.doorbell (s : State) (f page : Nat) (view : View) (ide : Bool) (apply : Ring → Option Ring) : State :=
  match s.reach f page ide with
  | .ide => s.ideRefuse f
  | .none => s
  | .dropped => if view = .plain then s.tick1 hifDbDropped else s
  | .notOwner => if view = .plain then s.tick1 hifDbDropped else s
  | .ring r =>
    let x := s.ring r
    if view ≠ .plain then s
    else if x.st = .disabled ∨ x.st = .resetting ∨ s.hif.notReady ∨ s.fatal then s.tick1 hifDbDropped
    else match apply x with
      | none => s.tick1 hifDbBad
      | some x' => (s.setRing r x').tick1 hifDbWrites

/-- TAIL: a place below E. -/
def Ring.withTail (x : Ring) (v : Nat) : Option Ring :=
  if v < x.entries then some { x with tail := v } else none

/-- HEAD: within the written range, from HEAD to CQ_TAIL modulo E; the sequence number at HEAD moves with it. -/
def Ring.withHead (x : Ring) (v : Nat) : Option Ring :=
  let e := x.entries
  let k := (v + e - x.head) % e
  if v < e ∧ k ≤ (x.cqTail + e - x.head) % e then
    some { x with head := v, headSeq := x.headSeq + BitVec.ofNat 32 k }
  else none

def execHifDbSqTail (fn page : Nat) (view : View) (value : Word32) (ide : Bool) (s : State) : Out :=
  answer s (s.doorbell fn page view ide (fun x => x.withTail (bits value.toNat 0 16)))

def execHifDbCqHead (fn page : Nat) (view : View) (value : Word32) (ide : Bool) (s : State) : Out :=
  answer s (s.doorbell fn page view ide (fun x => x.withHead (bits value.toNat 0 16)))

/-! ### Ring commands (R386) -/

/-- A queue is valid: it ends within the bus's 2^64, or within local memory open to the ring's world (R384, R386). -/
def State.queueOk (s : State) (loc : Bool) (base n : Nat) (secure : Bool) (fn : Nat) : Bool :=
  if loc then decide (base + n ≤ 2 ^ 48) && s.extentCheck secure secure fn base n == 0
  else decide (base + n ≤ 2 ^ 64)

/-- The settings of a ring are valid for ENABLE (Table 14.5). -/
def State.settingsOk (s : State) (r : Nat) : Bool :=
  let x := s.ring r
  let f := s.owner r
  decide (4 ≤ x.log2) && decide (x.log2 ≤ 16)
    && s.queueOk x.locSq x.sqBase.toNat (256 * x.entries) (s.fnSecure f) f
    && s.queueOk x.locCq x.cqBase.toNat (32 * x.entries) (s.fnSecure f) f

/-- A ring command written by a function: `act` on the ring it reaches; `none` where its state does not take the command. -/
def State.ringCmd (s : State) (f page : Nat) (ide : Bool) (act : Nat → Ring → Option State) : State :=
  match s.reach f page ide with
  | .ide => s.ideRefuse f
  | .ring r => (act r (s.ring r)).getD (s.tick1 hifCmdIgnored)
  | _ => s

/-- ENABLE of a function's ring. -/
def State.enableRing (s : State) (fn r : Nat) (x : Ring) : Option State :=
  if x.st = .disabled ∧ ¬ s.fatal then
    some (if s.settingsOk r then
      s.setRing r { x with
        st := .running, secure := s.fnSecure fn, cfgErr := false
        sqHead := 0, cqTail := 0, tail := 0, head := 0, headSeq := x.next, writeSeq := x.next
        allowance := 4096, failed := [], aborting := false, lastFence := none }
    else s.setRing r { x with cfgErr := true })
  else none

def execEnable (fn page : Nat) (ide : Bool) (s : State) : Out := answer s (s.ringCmd fn page ide (s.enableRing fn))

/-! ### Messages of a ring (R392) -/

/-- Send the ring's message and forget the counted entries. -/
def State.ringMessage (s : State) (r : Nat) : State :=
  let x := s.ring r
  if x.unsignalled = 0 then s
  else (s.setRing r { x with unsignalled := 0, unsigStopped := false }).msix (s.owner r) (bits x.irq.toNat 0 12)

/-- The conditions that do not wait for the delay. -/
def Ring.messageDue (x : Ring) : Bool :=
  decide (bits x.irq.toNat 24 8 + 1 ≤ x.unsignalled) || bits x.irq.toNat 12 12 == 0 || x.unsigStopped

/-- Count an entry just written. -/
def State.countEntry (s : State) (r : Nat) (stopped irq : Bool) : State :=
  if !(stopped || irq) then s
  else
    let x := s.ring r
    let x := { x with
      unsigSince := if x.unsignalled = 0 then s.time else x.unsigSince
      unsignalled := x.unsignalled + 1
      unsigStopped := x.unsigStopped || stopped }
    let s := s.setRing r x
    if x.messageDue then s.ringMessage r else s

def execIrqDelayExpiry (ring : Nat) (s : State) : Out := answer s (s.ringMessage ring)

/-! ### Completion entries (R390, R391, R394) -/

/-- Whether the entry of a stage carries STOPPED on its ring as it stands (R394; spec/18 R479, R485). -/
def State.entryStops (s : State) (st : Stage) : Bool :=
  let x := s.ring st.ring
  s.flt.stopNext.contains st.ring
    || ((x.st == .running || x.st == .draining) && st.stopping)

/-- The 32 bytes of a stage's completion entry (Tables 14.6, 14.7); a lost slot has no OPCODE and no STAGE_TAG (spec/18 R479). -/
def State.entryBytes (s : State) (st : Stage) : List Byte :=
  let blank := st.fetchFailed || st.lost
  let irq := !blank && dIrq st.desc
  let continued := failing st.status && !blank && dContinue st.desc && !st.forceStop
  let flags := b2n (s.entryStops st) + 2 * b2n continued + 4 * b2n st.fetchFailed + 8 * b2n irq
  let body := toLE 4 st.seq.toNat ++ toLE 1 st.status ++ toLE 1 (if blank then 0 else st.opcode) ++ toLE 2 flags
    ++ toLE 8 (if blank then 0 else dTag st.desc) ++ toLE 4 st.flags.toNat
    ++ toLE 4 (st.check + 256 * st.whr) ++ toLE 4 (st.doneTime / 1000)
  body ++ toLE 4 (crc32c body)

/-- Write the bytes of an entry at the ring's CQ place: false where the write fails (R394). -/
def State.storeEntry (s : State) (r : Nat) (e : List Byte) : Bool × State :=
  let x := s.ring r
  let f := s.owner r
  let a := x.cqBase.toNat + 32 * x.cqTail
  if x.locCq then
    let (status, s) := s.writePiece ⟨x.secure, f, none⟩ a e 0
    (status = 0, s)
  else if s.hostBlocked f then (false, s)
  else
    (true, (if a + 32 ≤ 2 ^ 47 then { s with mem := { s.mem with cells := cellsPut s.mem.cells (2 ^ 47 + a) e } } else s).emit
      (.hostWrite f a e (s.hostStream f)))

/-- The failed write of an entry (R394): it is kept, CQ_FAULT is set and the ring stops without a STOPPED entry. -/
def State.cqFault (s : State) (r : Nat) (e : List Byte) : State :=
  let s := s.setRing r { s.ring r with kept := some e, cqFault := true }
  s.stopRing r (BitVec.ofNat 32 (field e 0 4)) (field e 4 1)

/-- What follows the write of an entry: its stage slot is freed, the ring stops where it carries STOPPED, a message may go. -/
def State.entryWritten (s : State) (r slot : Nat) (e : List Byte) : State :=
  let x := s.ring r
  let stopped := bit (field e 6 2) 0
  let status := field e 4 1
  let s := { s with dsp := { s.dsp with stages := s.dsp.stages.del slot }
                    flt := { s.flt with stopNext := s.flt.stopNext.filter (· != r) } }
  let s := s.setRing r { x with cqTail := (x.cqTail + 1) % x.entries, writeSeq := x.writeSeq + 1, kept := none }
  let s := s.tick1 hifCplWritten
  let s := if status != 0 && !x.secure then s.tick1 telStagesFailed else s
  let s := if stopped then
      (if x.st = .running ∨ x.st = .draining then s.stopRing r (BitVec.ofNat 32 (field e 0 4)) status
       else s.setRing r { s.ring r with stopSeq := BitVec.ofNat 32 (field e 0 4) })
    else s
  (s.countEntry r stopped (bit (field e 6 2) 3)).drainRing r

/-- The complete stage whose entry is the next of its ring (R391). -/
def State.nextEntry (s : State) (r : Nat) : Option (Nat × Stage) :=
  s.dsp.stages.find? (fun p => p.2.ring == r && p.2.seq == (s.ring r).writeSeq && p.2.done)

/-- Write the next entry of a ring, or the kept one again. -/
def State.writeEntry (s : State) (r : Nat) : State :=
  match s.nextEntry r with
  | none => s
  | some (slot, st) =>
    let e := (s.ring r).kept.getD (s.entryBytes st)
    let (ok, s) := s.storeEntry r e
    if ok then s.entryWritten r slot e else s.cqFault r e

def execCqEntryWrite (ring : Nat) (s : State) : Out :=
  answer s (if (s.ring ring).kept.isSome ∧ (s.ring ring).st = .stopped then s else s.writeEntry ring)

def execCqWriteFault (ring : Nat) (s : State) : Out :=
  answer s (match s.nextEntry ring with
    | none => s
    | some (_, st) => s.cqFault ring ((s.ring ring).kept.getD (s.entryBytes st)))

/-- RESUME: RING_STOPPED falls before a kept entry is written, so a write that fails again raises it anew (spec/00 R14). -/
def State.resumeRing (s : State) (r : Nat) (x : Ring) : Option State :=
  if x.st = .stopped ∧ ¬ s.fatal then
    let s' := (s.setRing r { x with st := .running, fetchFault := false, cqFault := false }).settle s
    some (if x.kept.isSome then (s'.writeEntry r).settle s' else s')
  else none

def execResume (fn page : Nat) (ide : Bool) (s : State) : Out := answer s (s.ringCmd fn page ide s.resumeRing)

/-- DRAIN. -/
def State.drainCmd (s : State) (r : Nat) (x : Ring) : Option State :=
  if x.st = .running then some ((s.setRing r { x with st := .draining }).drainRing r) else none

def execDrain (fn page : Nat) (ide : Bool) (s : State) : Out := answer s (s.ringCmd fn page ide s.drainCmd)

/-- RESET. -/
def State.resetCmd (s : State) (r : Nat) (x : Ring) : Option State :=
  if x.st = .running ∨ x.st = .stopped ∨ x.st = .draining then some (s.resetRing r) else none

def execReset (fn page : Nat) (ide : Bool) (s : State) : Out := answer s (s.ringCmd fn page ide s.resetCmd)

/-- A value left in HIF_RING_CMD (Table 14.4): other values are ignored. -/
def State.ringCommand (s : State) (fn page : Nat) (ide : Bool) (v : Nat) : State :=
  match bits v 0 3 with
  | 1 => s.ringCmd fn page ide (s.enableRing fn)
  | 2 => s.ringCmd fn page ide s.resumeRing
  | 3 => s.ringCmd fn page ide s.drainCmd
  | 4 => s.ringCmd fn page ide s.resetCmd
  | _ => s

/-- R395 steps 5 and 6. -/
def execRingResetComplete (ring : Nat) (s : State) : Out :=
  answer s (
    let x := s.ring ring
    if x.st = .resetting ∧ (s.stagesOf ring).isEmpty then
      let s := (s.dsp.sets.filter (fun p => p.2.ring == ring)).foldl (fun s p => s.releaseSet p.1.1 p.1.2) s
      s.setRing ring { x with st := .disabled, sqHead := 0, cqTail := 0, tail := 0, head := 0 }
    else s)

/-! ### Fetching (R388, R389, R394) -/

/-- Descriptors that wait in a ring, from SQ_HEAD up to TAIL (R387). -/
def Ring.waiting (x : Ring) : Nat := (x.tail + x.entries - x.sqHead) % x.entries

/-- The place of the next descriptor to ask for: those of outstanding fetches come first. -/
def Ring.fetchPlace (x : Ring) : Nat := (x.sqHead + x.fetching) % x.entries

/-- Stage slots held, with those that an outstanding fetch will take. -/
def State.slotsHeld (s : State) : Nat := s.dsp.stages.length + (s.hif.rings.map (fun p => p.2.fetching)).sum

/-- Stage slots a function holds. -/
def State.slotsOfFn (s : State) (f : Nat) : Nat :=
  (s.dsp.stages.filter (fun p => p.2.fn == f)).length
    + ((s.hif.rings.filter (fun p => s.owner p.1 == f)).map (fun p => p.2.fetching)).sum

/-- Descriptors that a visit to a ring fetches now; 0 where it is passed over. Those asked for and not arrived count as fetched. A
ring whose failed fetch has no entry yet is passed over: the ring stops by that entry (R394; log 55). -/
def State.fetchCount (s : State) (r : Nat) : Nat :=
  let x := s.ring r
  if x.st ≠ .running ∨ (s.stagesOf r).any (fun p => p.2.fetchFailed) then 0
  else
    let f := s.owner r
    let slots := max 1 (s.fn f).slots
    min 16 (min (x.waiting - x.fetching) (min (x.allowance - x.fetching)
      (min (x.entries - 1 - ((x.next - x.headSeq).toNat + x.fetching)) (min (slots - s.slotsOfFn f) (2048 - s.slotsHeld)))))

/-- The ring a round-robin visit reaches: the lowest above the last visited, else the lowest (R388). -/
def nextInTurn (last : Nat) (rs : List Nat) : Option Nat :=
  let above := rs.filter (fun r => decide (last < r))
  (if above.isEmpty then rs else above).min?

def execFetchDescriptors (s : State) : Out :=
  answer s (match nextInTurn s.hif.lastVisited ((s.hif.rings.map Prod.fst).filter (fun r => decide (0 < s.fetchCount r))) with
    | none => s
    | some r =>
      let x := s.ring r
      let k := s.fetchCount r
      let s := { s with hif := { s.hif with lastVisited := r } }
      let s := s.setRing r { x with fetching := x.fetching + k }
      if x.locSq || s.hostBlocked (s.owner r) then s
      else
        -- places that lie after the end of the queue are read from its beginning
        let first := min k (x.entries - x.fetchPlace)
        let s := s.emit (.hostRead (s.owner r) (x.sqBase.toNat + 256 * x.fetchPlace) (256 * first) (s.hostStream (s.owner r)))
        if k = first then s else s.emit (.hostRead (s.owner r) x.sqBase.toNat (256 * (k - first)) (s.hostStream (s.owner r))))

def execFetchAllowanceTick (s : State) : Out :=
  answer s { s with hif := { s.hif with rings := s.hif.rings.map (fun p =>
    (p.1, { p.2 with allowance := min 4096 (p.2.allowance + 1) })) } }

/-- The lowest free stage slot. -/
def State.freeSlot (s : State) : Nat :=
  ((List.range 2048).find? (fun i => !(s.dsp.stages.any (fun p => p.1 == i)))).getD 2048

/-- A stage takes the ring's next sequence number and a slot (R389). -/
def State.takeStage (s : State) (r : Nat) (bytes : List Byte) : Nat × State :=
  let x := s.ring r
  let n := s.freeSlot
  let st : Stage := { ring := r, seq := x.next, secure := x.secure, fn := s.owner r, desc := bytes }
  let s := s.setRing r { x with next := x.next + 1, allowance := x.allowance - 1 }
  (n, (s.setStage n st).tick1 hifDescFetched)

/-- One descriptor arrives. -/
def State.arrive (s : State) (r : Nat) (bytes : List Byte) : State :=
  let s := (s.takeStage r bytes).2
  let x := s.ring r
  s.setRing r { x with sqHead := (x.sqHead + 1) % x.entries, fetching := x.fetching - 1 }

/-- A descriptor fetch fails (R394): its number is consumed, its entry carries FETCH and STOPPED, the place stays. -/
def State.fetchFails (s : State) (r status : Nat) : State :=
  let (n, s) := s.takeStage r []
  let s := match s.stage n with
    | none => s
    | some st => s.setStage n { st with fetchFailed := true, forceStop := true }
  let s := s.setRing r { s.ring r with fetchFault := true, fetching := 0 }
  let s := if status = 8 then s.aer (s.owner r) aerPoisoned else s
  s.finish n status

/-- Read a local SQ place: the bytes, or the status of the fetch fault. -/
def State.readPlace (s : State) (r : Nat) : (List Byte ⊕ Nat) × State :=
  let x := s.ring r
  let (bs, status, s) := s.readPiece ⟨x.secure, s.owner r, none⟩ (x.sqBase.toNat + 256 * x.sqHead) 256 0
  (if status = 0 then .inl bs else .inr (if status = 8 then 8 else 3), s)

/-- The descriptors of a local queue, one place after another. -/
def State.arriveLocal (s : State) (r : Nat) : Nat → State
  | 0 => s
  | k + 1 =>
    if (s.ring r).fetching = 0 then s
    else match s.readPlace r with
      | (.inl bs, s) => (s.arrive r bs).arriveLocal r k
      | (.inr status, s) => s.fetchFails r status

def execDescriptorArrival (ring : Nat) (bytes : List Byte) (s : State) : Out :=
  answer s (
    let x := s.ring ring
    if x.locSq then s.arriveLocal ring x.fetching
    else if s.hostBlocked (s.owner ring) then (if x.fetching = 0 then s else s.fetchFails ring 8)
    else (List.range (min x.fetching (bytes.length / 256))).foldl
      (fun s i => s.arrive ring ((bytes.drop (256 * i)).take 256)) s)

def execDescriptorFetchFault (ring : Nat) (how : Completion) (s : State) : Out :=
  answer s (if (s.ring ring).fetching = 0 ∨ how = .data then s
    else s.fetchFails ring (if how = .poison then 8 else 3))

end Sys2Proof.Machine
end

