-- ==== Sys2Proof/Machine/Links.lean ====
section
/-!
DEFINITION. Ports, control streams, frames, flits and routes of the light links (spec/11 R288-R306, R311, R328-R332; spec/16 R448, R449;
spec/20 R517, R518). Message bodies hold the fields of Table 11.5 packed in the order listed (log 21).
-/
namespace Sys2Proof.Machine

def State.setPort (s : State) (p : Nat) (x : Port) : State :=
  { s with lnk := { s.lnk with ports := s.lnk.ports.put p x } }
def State.setPeer (s : State) (d : Nat) (x : Peer) : State :=
  { s with lnk := { s.lnk with peers := s.lnk.peers.put d x } }
def State.present (s : State) (d : Nat) : Bool := (s.peer d).st == .present

/-! ### Routes and ports (R299, R311) -/

/-- Bits that are set in a 32-bit mask. -/
def maskList (m : Nat) : List Nat := (List.range 32).filter (fun i => bit m i)

/-- Ports of that entry; nothing goes through a peer that is LOST (R311, Table 11.14). -/
def State.routePorts (s : State) (d : Nat) : List Nat :=
  (maskList (s.routeMask d)).filter (fun p => match (s.port p).peer with
    | some q => (s.peer q).st != .lost
    | none => true)

def State.isActive (s : State) (p : Nat) : Bool := (s.port p).st == .active

/-- The far end of a port: its peer, or 1,024 + p for the device that a mismatched port p reaches (R309), whose control stream stands
in `peers` under that number. -/
def State.farEnd (s : State) (p : Nat) : Option Nat :=
  let x := s.port p
  if x.mismatched then some (1024 + p) else x.peer

/-- The control port of a pair (R299): the one in use while it is ACTIVE, else the lowest-numbered ACTIVE one. -/
def State.ctrlPort (s : State) (d : Nat) : Option Nat :=
  if 1024 ≤ d then [d - 1024].find? (fun p => s.isActive p && (s.port p).mismatched)
  else
    let ps := (s.peer d).ports.filter s.isActive
    match (s.peer d).ctrl with
    | some q => if ps.contains q then some q else minNat ps
    | none => minNat ps

/-- Record the control port of a pair. -/
def State.keepCtrl (s : State) (d : Option Nat) : State :=
  match d with
  | none => s
  | some d => s.setPeer d { s.peer d with ctrl := s.ctrlPort d }

/-- The direct peer that a message for a DEVID goes to (R311). -/
def State.nextHop (s : State) (d : Nat) : Option Nat :=
  if (s.peer d).ports.isEmpty then
    match (s.routePorts d).filter (fun p => s.isActive p && !(s.port p).mismatched) with
    | [] => none
    | p :: _ => (s.port p).peer
  else some d

/-- The far end of a mismatched port whose HELLO named a DEVID (R309). -/
def State.strayHop (s : State) (d : Nat) : Option Nat :=
  ((List.range 32).find? (fun p => s.isActive p && (s.port p).mismatched && (s.port p).peer == some d)).map (1024 + ·)

/-- After a fatal event, and on a mismatched port, only WELOC and KEY messages pass (R309, spec/18 R479). -/
def State.carriesAll (s : State) (p : Nat) : Bool := !s.fatal && !(s.port p).mismatched

/-! ### Control flits (R296-R300) -/

/-- A counter's 64-bit extension of a 16-bit sequence number near `base`, and the one at or below `top`. -/
def extSeq (base low : Nat) : Nat :=
  let d := (low + 65536 - base % 65536) % 65536
  if d < 32768 then base + d else base + d - 65536
def extAck (top low : Nat) : Nat := top - (top + 65536 - low) % 65536

/-- The 16-byte TAG of a control flit (spec/16 R448). -/
def ctrlTag (key : Option Nat) (seq : Nat) (body : List Byte) : List Byte :=
  ((Config.cmac (Config.keyBytes (key.getD 0)) (toLE 8 seq ++ body)) ++ List.replicate 16 0#8).take 16

/-- The bytes of a control flit (Table 11.4). -/
def ctrlFlit (key : Option Nat) (nak : Bool) (seq ack credits : Nat) (msg : List Byte) : List Byte :=
  let head := toLE 1 (b2n nak) ++ toLE 1 msg.length ++ toLE 2 seq ++ toLE 2 ack ++ toLE 2 credits
    ++ (msg ++ List.replicate (224 - msg.length) 0#8)
  let body := head ++ ctrlTag key seq head ++ toLE 4 0
  body ++ toLE 4 (crc32c body)

/-- Flits of a frame: 20, or 10 with four wavelengths (R292, Table 11.7). -/
def Port.perFrame (x : Port) : Nat := if x.alt < 2 then 20 else 10

/-- Take the next place of a flit on a port, as frame and place in it: places rise, and none lies before the frame now on the fibre (R293,
R295; log 20). -/
def State.takePlace (s : State) (p : Nat) : Nat × Nat × State :=
  let x := s.port p
  let i := max x.place (x.perFrame * x.frame)
  (i / x.perFrame, i % x.perFrame, s.setPort p { x with place := i + 1 })

/-- Put a flit of the stream with a peer on its control port, or on the port whose credits it returns while that is ACTIVE; nothing
leaves while the pair has none. -/
def State.emitCtrl (s : State) (d : Nat) (nak : Bool) (x : Nat × Nat × Nat × List Byte) : State :=
  match if 0 < x.2.2.1 ∧ s.isActive x.2.1 then some x.2.1 else s.ctrlPort d with
  | none => s
  | some q =>
    let credits := if x.2.1 = q then x.2.2.1 else 0
    ((s.takePlace q).2.2.tick1 (lnkPort q lnkTx)).emit
      (.flit q (ctrlFlit (s.port q).key nak x.1 (s.peer d).recvSeq credits x.2.2.2))

/-- Send the next flit of the stream with a peer, with the credits owed on its control port, or on a given port of the pair. -/
def State.transmit (s : State) (d : Nat) (msg : List Byte) (nak : Bool := false) (on : Option Nat := none) : State :=
  let p := s.peer d
  let q := (on.or (s.ctrlPort d)).getD 32
  let x := (p.sendSeq, q, (s.port q).owed, msg)
  let s := if q < 32 then s.setPort q { s.port q with owed := 0 } else s
  (s.setPeer d { p with sendSeq := p.sendSeq + 1, sent := p.sent ++ [x], ackDue := false }).emitCtrl d nak x

/-- A message to a direct peer: sent, or kept while 512 flits wait for their acknowledgement. -/
def State.queueMsg (s : State) (d : Nat) (msg : List Byte) : State :=
  let p := s.peer d
  if p.sent.length < 512 ∧ p.queued.isEmpty then s.transmit d msg
  else s.setPeer d { p with queued := p.queued ++ [msg] }

/-- A discard is answered with the SEQ expected, once one of the 512 places is free (R299). -/
def State.sendNak (s : State) (d : Nat) : State :=
  let p := s.peer d
  if p.sent.length < 512 then (s.setPeer d { p with nakDue := false }).transmit d [] true else s.setPeer d { p with nakDue := true }

/-- Send messages that waited, as far as places are free. -/
def State.sendQueued (s : State) (d : Nat) : Nat → State
  | 0 => s
  | k + 1 =>
    let p := s.peer d
    match p.queued with
    | [] => s
    | m :: ms => if p.sent.length < 512 then ((s.setPeer d { p with queued := ms }).transmit d m).sendQueued d k else s

/-- LEN of a message kind (Table 11.5); none for a kind not listed. -/
def msgLen (kind : Nat) : Option Nat :=
  if [0x01, 0x03, 0x04, 0x08, 0x09, 0x0B, 0x0C, 0x0D].contains kind then some 32
  else if [0x02, 0x05, 0x06, 0x07, 0x0A, 0x0E].contains kind then some 16
  else none

/-- The bytes of a message (R297). -/
def message (kind dst src tag : Nat) (body : List Byte) : List Byte :=
  let len := (msgLen kind).getD 16
  toLE 1 kind ++ toLE 1 len ++ toLE 2 dst ++ toLE 2 src ++ toLE 2 tag ++ (body ++ List.replicate 24 0#8).take (len - 8)

/-- A message for which no port of its route is ACTIVE waits for one, and one with no route is dropped and counted (R311). -/
def State.strand (s : State) (dst : Nat) (m : List Byte) : State :=
  if (s.routePorts dst).isEmpty then s.tick1 lnkRouteDrop
  else { s with lnk := { s.lnk with heldMsgs := s.lnk.heldMsgs ++ [(dst, m)] } }

/-- Send a message to a DEVID (R311). A mismatched port takes WELOC alone, a device after a
fatal event sends WELOC and its LEAVE alone. -/
def State.sendMsg (s : State) (dst kind tag : Nat) (body : List Byte) : State :=
  if s.fatal && kind != 0x0C && kind != 0x02 then s
  else match (s.nextHop dst).or (if kind = 0x0C then s.strayHop dst else none) with
  | none => s.strand dst (message kind dst s.lnk.devid tag body)
  | some h => s.queueMsg h (message kind dst s.lnk.devid tag body)

/-- Whether a message's bytes from TAG on have the length of its kind; the tag, the body (R297). -/
def msgOk (kind : Nat) (body : List Byte) : Bool := body.length == (msgLen kind).getD 16 - 6
def msgTag (body : List Byte) : Nat := field body 0 2
def msgBody (body : List Byte) : List Byte := body.drop 2

/-- Answer a message; one of the wrong length is discarded and counted. The stream of a LOST peer is discarded (R328), and after a fatal
event the ports carry WELOC and KEY only (spec/18 R479). -/
def State.onMsg (s : State) (src kind : Nat) (body : List Byte) (act : Nat → List Byte → State) : State :=
  if !msgOk kind body then s.tick1 lnkBadMsg
  else if (s.peer src).st = .lost ∨ s.fatal then s
  else act (msgTag body) (msgBody body)

/-! ### Data flits out (R294, R298, R304, R306, R486) -/

/-- The bytes of a data flit before encryption (Table 11.3). -/
def dataFlit (win dst src kind attr cls off : Nat) (payload : List Byte) : List Byte :=
  toLE 2 win ++ toLE 2 dst ++ toLE 2 src ++ toLE 1 kind ++ toLE 1 attr ++ toLE 1 (payload.length - 1) ++ toLE 1 cls
    ++ toLE 6 off ++ (payload ++ List.replicate (240 - payload.length) 0#8)

/-- The counter block of AES block `j` of the n-th flit of frame `frame` (R295). -/
def counterBlock (frame n s d j : Nat) : Nat := frame * 2 ^ 80 + n * 2 ^ 72 + s * 2 ^ 67 + d * 2 ^ 66 + j

/-- A data flit under counter mode, either way (R295). -/
def flitCipher (key : List Byte) (frame n s d : Nat) (bytes : List Byte) : List Byte :=
  bytes.mapIdx (fun i b => b ^^^ (Config.aesBlock key (counterBlock frame n s d (i / 16))).getD (i % 16) 0)

/-- A data flit on a port under the key of its ACTIVE period: `out` tells the direction. The number of the port is that at the end of the
lower DEVID. -/
def State.linkCipher (s : State) (p frame n : Nat) (out : Bool) (bytes : List Byte) : List Byte :=
  let x := s.port p
  let lower := match x.peer with | some q => decide (s.lnk.devid < q) | none => true
  flitCipher (Config.keyBytes (x.key.getD 0)) frame n (if lower then p else x.farPort) (if out = lower then 0 else 1) bytes

/-- A port may send a data flit: ACTIVE, not in recalibration, holding a credit, before the last 2,048 frames. -/
def State.mayCarry (s : State) (p : Nat) : Bool :=
  let x := s.port p
  x.st == .active && !x.recal && decide (0 < x.credits) && decide (x.frame < 2 ^ 44 - 2048) && s.carriesAll p

/-- Class and sender of a waiting flit: a stage sends to a window of one DEVID (spec/06 R154). -/
def flitClass (e : Nat × List Byte) : Nat := bits (field e.2 9 1) 0 3
def flitSender (e : Nat × List Byte) : Nat := (e.1 * 1024 + bits (field e.2 4 2) 0 10) * 4096 + bits (field e.2 0 2) 0 12

/-- The port that may carry a waiting flit, the lowest-numbered of its route. -/
def State.egress (s : State) (e : Nat × List Byte) : Option Nat := minNat ((s.routePorts e.1).filter s.mayCarry)

/-- The flit that leaves next, and its port (Table 6.3): of the highest class that some port may carry, the senders of one port by turns,
each in its order. -/
def State.nextFlit (s : State) : Option (Nat × (Nat × List Byte)) :=
  let able := s.lnk.held.filter (fun e => (s.egress e).isSome)
  let top := able.foldl (fun m e => max m (flitClass e)) 0
  match able.find? (fun e => flitClass e == top) with
  | none => none
  | some first =>
    match s.egress first with
    | none => none
    | some p =>
      let mine := able.filter (fun e => flitClass e == top && s.egress e == some p)
      let last := s.lnk.turns.get 0 p
      let above := mine.filter (fun e => decide (last < flitSender e))
      match minNat ((if above.isEmpty then mine else above).map flitSender) with
      | none => none
      | some k => (mine.find? (fun e => flitSender e == k)).map (fun e => (p, e))

/-- A data flit leaves on a port: a credit and a place are taken, a forwarded one is counted. -/
def State.flitOut (s : State) (p : Nat) (e : Nat × List Byte) : State :=
  let s := { s with lnk := { s.lnk with held := s.lnk.held.erase e, turns := s.lnk.turns.put p (flitSender e) } }
  let (frame, n, s) := s.takePlace p
  let s := if bits (field e.2 4 2) 0 10 = s.lnk.devid then s else s.tick1 lnkFwdFlits
  ((s.setPort p { s.port p with credits := (s.port p).credits - 1 }).tick1 (lnkPort p lnkTx)).emit
    (.flit p (s.linkCipher p frame n true e.2))

/-- Send waiting flits while a port may carry one. -/
def State.drainHeld (s : State) : Nat → State
  | 0 => s
  | k + 1 => match s.nextFlit with
    | none => s
    | some (p, e) => (s.flitOut p e).drainHeld k

/-- Send what waits for a port: data flits, and messages whose route is up again. -/
def State.flushHeld (s : State) : State :=
  let msgs := s.lnk.heldMsgs
  let s := msgs.foldl (fun s e => match s.nextHop e.1 with
    | some h => s.queueMsg h e.2
    | none => { s with lnk := { s.lnk with heldMsgs := s.lnk.heldMsgs ++ [e] } }) { s with lnk := { s.lnk with heldMsgs := [] } }
  s.drainHeld s.lnk.held.length

/-- Send a data flit, or hold it until a port of its route may carry it and its turn comes. -/
def State.sendFlit (s : State) (dst : Nat) (bytes : List Byte) : State :=
  let s := { s with lnk := { s.lnk with held := s.lnk.held ++ [(dst, bytes)] } }
  s.drainHeld s.lnk.held.length

/-- Flits of a sender of this device still wait (R298): to the window `h` of a DEVID. -/
def State.holding (s : State) (dst h : Nat) : Bool :=
  s.lnk.held.any (fun e => e.1 == dst && bits (field e.2 4 2) 0 10 == s.lnk.devid && bits (field e.2 0 2) 0 12 == h)

/-- A flit or message for a DEVID cannot be delivered (R311). -/
def State.routeDrop (s : State) (src dst : Nat) : State :=
  let s := s.tick1 lnkRouteDrop
  if src = s.lnk.devid then s else s.sendMsg src 0x0E 0 (toLE 2 dst)

/-- Forward a data flit (R311). -/
def State.forwardFlit (s : State) (bytes : List Byte) : State :=
  let w := field bytes 2 2
  let dst := bits w 0 10; let hops := bits w 14 2
  if hops = 3 ∨ (s.routePorts dst).isEmpty then s.routeDrop (bits (field bytes 4 2) 0 10) dst
  else s.sendFlit dst (putBytes bytes 2 (toLE 2 (w + 2 ^ 14)))

/-- Alternatives of Table 11.7 in order (R303). -/
def State.alternatives (s : State) : List Nat := if s.obj 0x5001 2 0 = 1 then [1, 3] else [0, 1, 2, 3]

/-! ### Frames and control flits in (R292, R293, R296, R299, R304) -/

/-- Resend flits of a peer's stream from a sequence number on. -/
def State.resendFrom (s : State) (d seq : Nat) : State :=
  ((s.peer d).sent.filter (fun x => decide (seq ≤ x.1))).foldl (fun s x =>
    let s := match s.ctrlPort d with | some q => s.tick1 (lnkPort q lnkReplay) | none => s
    s.emitCtrl d false x) s

/-- Codewords that flit `n` of a frame lies in, and flits that begin in codeword `w` (R292). -/
def codewordsOf (n : Nat) : List Nat := range (256 * n / 640) ((256 * n + 255) / 640 - 256 * n / 640 + 1)
def flitsIn (w : Nat) : List Nat := (List.range 20).filter (fun n => 256 * n / 640 == w)

/-- The framing bits of codeword `w` on wavelength `wl` (Table 11.2). -/
def framingBits (wl w frame : Nat) (types : List Nat) : Nat :=
  wl * 2 ^ 17 + frame % 32 * 2 ^ 12 + ((flitsIn w).zipIdx.map (fun p => types.getD p.1 0 % 4 * 2 ^ (10 - 2 * p.2))).sum

/-- The types of the flits of a frame, read from the TYPES of its codewords' framing bits (Table 11.2). -/
def frameTypes (framing : List Nat) : List Nat :=
  framing.zipIdx.flatMap (fun p => (List.range (flitsIn p.2).length).map (fun k => bits p.1 (10 - 2 * k) 2))

/-- An ACTIVE port enters RETRAIN with the configuration of its last ACTIVE period, but for what PORT_ENABLE and LINK_RATE_MAX rule out by
now (R304, R332). -/
def State.portRetrain (s : State) (p cause : Nat) : State :=
  let x := s.port p
  if x.st ≠ .active then s
  else
    let d := s.farEnd p
    let was := d.bind s.ctrlPort
    let alts := s.alternatives
    let s := ((s.setPort p { x with
      st := if s.portEnabled p then .retrain else .disabled, alt := if alts.contains x.alt then x.alt else alts.headD 0
      sub := .calibrate, attempt := 0, key := none, recal := false, arriving := [], tagFails := [] }).tick1
      (lnkPort p lnkRetrain)).log 0x0201 p cause
    match d with
    | none => s
    | some d => if was = some p then (s.keepCtrl (some d)).resendFrom d 0 else s

/-- A frame arrives: its flits are those that follow, and those of them that lie in an uncorrectable codeword are damaged (R293). At frame
2^44 the port retrains (R304). -/
def execLinkFrameRx (port corrected : Nat) (uncorrectable types : List Nat) (s : State) : Out :=
  answer s (
    let x := s.port port
    if x.st ≠ .active then s
    else
      let flits := (List.range x.perFrame).map (fun n =>
        (types.getD n 0, x.frame, n, (codewordsOf n).any (fun w => uncorrectable.contains w)))
      let s := s.setPort port { x with
        frame := x.frame + 1, arriving := flits.filter (fun f => f.1 == 1 || f.1 == 2) }
      let s := s.bump (lnkPort port lnkFecCorr) corrected
      let s := s.bump (lnkPort port lnkFecUncorr) uncorrectable.length
      let s := s.bump (lnkPort port lnkBadType) (types.filter (· == 3)).length
      if 2 ^ 44 ≤ x.frame + 1 then s.portRetrain port 4 else s)

/-- The flit of a type that arrives next on a port, as frame, place and damage; one that no frame announced counts as the first of the
frame received last (log 20). -/
def State.arrival (s : State) (port type : Nat) : (Nat × Nat × Bool) × State :=
  let x := s.port port
  match x.arriving.find? (fun f => f.1 == type) with
  | some f => (f.2, s.setPort port { x with arriving := x.arriving.erase f })
  | none => ((x.frame - 1, 0, false), s)

/-- The messages packed in a control flit; `fuel` bounds their number. After a LEN that no message has, the next begins where one of the
kind would end, or 16 bytes on for a kind not listed (R297; DESIGN CHOICE, log 21). -/
def messagesOf : Nat → List Byte → List (List Byte)
  | 0, _ => []
  | fuel + 1, bs =>
    let stated := field bs 1 1
    let len := if stated = 16 ∨ stated = 32 then stated else (msgLen (field bs 0 1)).getD 16
    if bs.length < 16 then [] else bs.take len :: messagesOf fuel (bs.drop len)

/-- A message of an accepted flit: a bad one is counted, one for another device is forwarded; one for this device is delivered by
the command of its kind. -/
def State.routeMsg (s : State) (m : List Byte) : State :=
  let dst := field m 2 2
  if msgLen (field m 0 1) ≠ some (field m 1 1) then s.tick1 lnkBadMsg
  else if dst = 0xFFFF ∨ dst = s.lnk.devid then s
  else match s.nextHop dst with
    | none =>
      if (s.routePorts dst).isEmpty then s.routeDrop (field m 4 2) dst
      else { s with lnk := { s.lnk with heldMsgs := s.lnk.heldMsgs ++ [(dst, m)] } }
    | some h => s.queueMsg h m

/-- What an accepted flit acknowledges and returns (R298, R299). -/
def State.takeAck (s : State) (port d : Nat) (bytes : List Byte) : State :=
  let p := s.peer d
  let a := extAck p.sendSeq (field bytes 4 2)
  let s := s.setPeer d { p with sent := p.sent.filter (fun x => decide (a ≤ x.1)) }
  let x := s.port port
  let s := s.setPort port { x with credits := min 2048 (x.credits + field bytes 6 2) }
  let s := if bit (field bytes 0 1) 0 then s.resendFrom d a else s
  let s := if (s.peer d).nakDue then s.sendNak d else s
  (s.sendQueued d 512).flushHeld

/-- A peer becomes PRESENT (R307). -/
def State.makePresent (s : State) (d : Nat) : State :=
  let p := s.peer d
  if p.st = .joining then
    let first := !(s.lnk.peers.any (fun q => q.2.st == .present))
    let s := if first then { s with lnk := { s.lnk with synced := false } } else s
    (s.setPeer d { p with st := .present }).log 0x0204 d p.incarnation
  else s

/-- A control flit fails its TAG; the sixteenth within 1 s makes the port retrain (R304). -/
def State.tagFail (s : State) (port : Nat) : State :=
  let x := s.port port
  let ts := x.tagFails.filter (fun t => decide (s.time < t + 10 ^ 9)) ++ [s.time]
  let s := (s.setPort port { x with tagFails := ts }).tick1 (lnkPort port lnkAuthFail)
  if 16 ≤ ts.length then s.portRetrain port 2 else s

def execControlFlitRx (port : Nat) (bytes : List Byte) (s : State) : Out :=
  answer s (
    let x := s.port port
    match x.st, s.farEnd port with
    | .active, some d =>
      let all := s.carriesAll port
      let ((_, _, damaged), s) := s.arrival port 1
      let s := s.tick1 (lnkPort port lnkRx)
      let p := s.peer d
      let seq := extSeq p.recvSeq (field bytes 2 2)
      if p.st = .lost then s
      else if damaged then s.sendNak d
      else if field bytes 0xFC 4 ≠ crc32c (bytes.take 0xFC) then (s.tick1 (lnkPort port lnkCrcFail)).sendNak d
      else if (bytes.drop 0xE8).take 16 ≠ ctrlTag x.key seq (bytes.take 0xE8) then
        (s.tagFail port).sendNak d
      else if seq ≠ p.recvSeq then s.sendNak d
      else
        let msgs := messagesOf 14 ((bytes.drop 8).take (min 224 (field bytes 1 1)))
        let s := s.setPeer d { p with recvSeq := p.recvSeq + 1, ackDue := p.ackDue || !msgs.isEmpty }
        (if all then msgs else msgs.filter (fun m => field m 0 1 == 0x0C && (field m 2 2 == 0xFFFF || field m 2 2 == s.lnk.devid))).foldl
          State.routeMsg ((s.makePresent d).takeAck port d bytes)
    | _, _ => s)

/-- The streams of mismatched ports whose HELLO named the DEVID resend with it. -/
def execControlReplayTimeout (peer : Nat) (s : State) : Out :=
  answer s (((List.range 32).filter (fun p => (s.port p).mismatched && (s.port p).peer == some peer)).foldl
    (fun s p => s.resendFrom (1024 + p) 0) (s.resendFrom peer 0))

def execCreditReturn (port : Nat) (s : State) : Out :=
  answer s (
    let x := s.port port
    match s.farEnd port with
    | none => s
    | some d =>
      if x.st ≠ .active ∨ 512 ≤ (s.peer d).sent.length then s
      else if 0 < x.owed then s.transmit d [] false (some port)
      else if (s.peer d).ackDue then s.transmit d []
      else s)

/-! ### Peers (R307-R310, R328) -/

/-- The time master (R310): the lowest DEVID among this device and its PRESENT peers. -/
def State.timeMaster (s : State) : Nat :=
  (s.lnk.peers.filter (fun p => p.2.st == .present)).foldl (fun m p => min m p.1) s.lnk.devid

/-- Hops to the time master, and the direct peer that offers the fewest. -/
def State.timeHops (s : State) : Nat × Option Nat :=
  if s.timeMaster = s.lnk.devid then (0, none)
  else (s.lnk.peers.filter (fun p => p.2.st == .present && p.2.master == s.timeMaster && !p.2.ports.isEmpty)).foldl
    (fun acc p => if acc.2.isNone || decide (p.2.hops + 1 < acc.1) then (p.2.hops + 1, some p.1) else acc) (255, none)

def State.incarnation (s : State) : Nat := s.obj 0x5000 5 0

/-! ### Training (R302-R304, spec/16 R448, R449) -/


def State.laserOf (s : State) (p : Nat) : Laser := s.lnk.lasers.getD (p / 8) {}

/-- A port that holds light and is enabled begins an attempt; otherwise its engine is off. With four wavelengths the first attempt is on λ0 to
λ3, and those after its failure on λ4 to λ7 (Table 11.7; DESIGN CHOICE, log 66: which attempts these are). -/
def State.portBegin (s : State) (p alt attempt : Nat) : State :=
  let x := s.port p
  if s.portEnabled p && (s.laserOf p).outputs then
    s.setPort p { x with st := .calibrate, alt := alt, attempt := attempt, high := decide (2 ≤ alt) && decide (1 ≤ attempt) }
  else s.setPort p { x with st := .disabled, key := none }

/-- Start training from the first alternative. -/
def State.portTrain (s : State) (p : Nat) : State := s.portBegin p (s.alternatives.headD 0) 0

/-- An attempt fails (R303): the next attempt, the next alternative, or DISABLED. At BS15 the bring-up sequencer decides what follows
(spec/17 R470). -/
def State.portFail (s : State) (p : Nat) : State :=
  let x := s.port p
  if (s.boot.running.find (15, 1 + p)).isSome then s
  else if x.attempt < 2 then s.portBegin p x.alt (x.attempt + 1)
  else match s.alternatives.find? (fun a => decide (x.alt < a)) with
    | some a => s.portBegin p a 0
    | none => (s.setPort p { x with st := .disabled, key := none }).log 0x0202 p x.alt

/-- The work a port does: its state, or the part of a RETRAIN. -/
def Port.work (x : Port) : PortSt := if x.st = .retrain then x.sub else x.st

/-- Fragments of 20 bytes of a KEY step (R448). -/
def keyFragments (step : Nat) (data : List Byte) : List (List Byte) :=
  (List.range (ceilDiv data.length 20)).map (fun i =>
    toLE 1 step ++ toLE 1 0 ++ toLE 2 i ++ ((data.drop (20 * i)).take 20 ++ List.replicate 20 0#8).take 20)

def State.sendKey (s : State) (p step : Nat) (data : List Byte) : State :=
  (keyFragments step data).foldl (fun s b => (s.tick1 (lnkPort p lnkTx)).emit (.keyFlit p b)) s

/-- A port enters AUTH: a fresh key, and its SHARE and CERT go out. -/
def State.enterAuth (s : State) (p : Nat) : State :=
  let (n, s) := s.fresh
  let share := (List.range 129).map (Config.freeByte n 0)
  let cert := toLE 4 Config.certChain.length ++ Config.certChain
  let s := s.setPort p { s.port p with key := some n, keyIn := [], keyOut := share ++ cert, proved := false }
  (s.sendKey p 1 share).sendKey p 2 cert

/-- A port moves on to the next part of its training. -/
def State.portNext (s : State) (p : Nat) (w : PortSt) : State :=
  let x := s.port p
  let s := s.setPort p (if x.st = .retrain then { x with sub := w } else { x with st := w })
  if w = .auth then s.enterAuth p else s

def execPortCalibrateEnd (port : Nat) (passed : Bool) (s : State) : Out :=
  answer s (if (s.port port).work ≠ .calibrate then s else if passed then s.portNext port .align else s.portFail port)

def execPortAlignEnd (port : Nat) (passed : Bool) (s : State) : Out :=
  answer s (if (s.port port).work ≠ .align then s else if passed then s.portNext port .verify else s.portFail port)

/-- Before BS16 a port that passes waits for it (spec/17 Table 17.9). -/
def execPortVerifyEnd (port : Nat) (passed : Bool) (s : State) : Out :=
  answer s (
    if (s.port port).work ≠ .verify ∨ (s.port port).waitAuth then s
    else if !passed then s.portFail port
    else if s.boot.authOpen then s.portNext port .auth
    else s.setPort port { s.port port with waitAuth := true })

/-- A port becomes ACTIVE: frame number and credits start anew, waiting control flits and data flits move to it. -/
def State.portActive (s : State) (p : Nat) : State :=
  let x := s.port p
  let far := s.farEnd p
  let s := s.keepCtrl far
  let s := s.setPort p { x with st := .active, frame := 0, credits := 2048, owed := 0, recal := false, keyIn := [],
                                  arriving := [], place := 0, tagFails := [] }
  (match far with
    | none => s
    | some d => if s.ctrlPort d = some p then (s.keepCtrl (some d)).resendFrom d 0 else s).flushHeld

/-- After an entropy failure no port completes AUTH (spec/16 R443). -/
def execPortAuthEnd (port : Nat) (passed : Bool) (s : State) : Out :=
  answer s (if (s.port port).work ≠ .auth then s
    else if passed then (if s.sec.entropyFail then s else s.portActive port)
    else (s.tick1 (lnkPort port lnkAuthFail)).portFail port)

/-- A training state exceeds its limit; in AUTH the failure counts (Table 11.6). -/
def execPortTrainTimeout (port : Nat) (s : State) : Out :=
  answer s (
    let w := (s.port port).work
    if w = .disabled ∨ w = .active ∨ (s.port port).waitAuth then s
    else if w = .auth then (s.tick1 (lnkPort port lnkAuthFail)).portFail port
    else s.portFail port)

/-- A DISABLED port trains again 1 s later, once BS23 has completed (R303, spec/17 R468). -/
def execPortRetryTimer (port : Nat) (s : State) : Out :=
  answer s (if (s.port port).st = .disabled ∧ !s.hif.notReady then s.portTrain port else s)

/-- Causes of R304 in their order. -/
def causeCode : RetrainCause → Nat
  | .lockLost => 0 | .errorRatio => 1 | .tagFailures => 2 | .lowFeed => 3 | .frameLimit => 4

def execPortRetrainEntry (port : Nat) (cause : RetrainCause) (s : State) : Out := answer s (s.portRetrain port (causeCode cause))

def execMicroringRecal (port : Nat) (s : State) : Out :=
  answer s (if s.isActive port then s.setPort port { s.port port with recal := true } else s)

def execMicroringRecalEnd (port : Nat) (s : State) : Out :=
  answer s (s.setPort port { s.port port with recal := false }).flushHeld

/-- Bytes of a KEY step received so far, in fragment order. -/
def Port.keyData (x : Port) (step : Nat) : List Byte :=
  (sortBy (fun e => e.2.1) (x.keyIn.filter (fun e => e.1 == step))).flatMap (fun e => e.2.2)

/-- The data of SHARE and CERT have arrived whole. -/
def Port.certIn (x : Port) : Option (List Byte) :=
  let share := x.keyData 1; let cert := x.keyData 2
  let n := 4 + field cert 0 4
  if 129 ≤ share.length ∧ 4 ≤ cert.length ∧ n ≤ cert.length then some (share.take 129 ++ cert.take n) else none

/-- Send PROOF and DONE once the far end's SHARE and CERT are whole (R448). -/
def State.sendProof (s : State) (p : Nat) : State :=
  let x := s.port p
  match x.certIn with
  | none => s
  | some theirs =>
    if x.proved then s
    else
      let lower := match x.peer with | some d => decide (s.lnk.devid < d) | none => true
      let th := Config.sha384 (if lower then x.keyOut ++ theirs else theirs ++ x.keyOut)
      let s := s.setPort p { x with proved := true }
      (s.sendKey p 3 (Config.akSign th)).sendKey p 4 (Config.cmac (Config.keyBytes (x.key.getD 0)) th)

def execKey (port : Nat) (body : List Byte) (s : State) : Out :=
  answer s (
    let x := s.port port
    let b := msgBody body
    let s := s.tick1 (lnkPort port lnkRx)
    if !msgOk 0x0D body then s.tick1 lnkBadMsg
    else if x.work ≠ .auth then s
    else
      (s.setPort port { x with keyIn := x.keyIn ++ [(field b 0 1, field b 2 2, (b.drop 4).take 20)] }).sendProof port)

/-! ### Laser modules (R291, spec/20 R517, R518) -/

def State.setLaser (s : State) (k : Nat) (x : Laser) : State :=
  { s with lnk := { s.lnk with lasers := s.lnk.lasers.set k x } }

/-- Outputs of a seated, ready module are enabled while one of its ports is enabled (R518). -/
def State.laserOutputs (s : State) (k : Nat) : State :=
  let x := s.lnk.lasers.getD k {}
  s.setLaser k { x with outputs := x.ready && (range (8 * k) 8).any s.portEnabled }

def execLaserModuleInsert (module : Nat) (s : State) : Out :=
  answer s ((s.setLaser module { seated := true }).log 0x0206 module 1)

def execLaserModuleRemove (module : Nat) (s : State) : Out :=
  answer s ((range (8 * module) 8).foldl (fun s p => s.portRetrain p 3) ((s.setLaser module {}).log 0x0206 module 0))

/-- LM_PRES_N has been low for 100 ms: the reset is released; once BS14 is over the module is enabled and its ports train (R291,
R517). -/
def execLaserPresenceTimer (module : Nat) (s : State) : Out :=
  answer s (
    let x := s.lnk.lasers.getD module {}
    if !x.seated || x.released then s
    else
      let s := s.setLaser module { x with released := true, ready := true }
      if !s.boot.ended.contains (14, 1 + module) then s
      else (range (8 * module) 8).foldl (fun s p => if (s.port p).st = .disabled then s.portTrain p else s) (s.laserOutputs module))

end Sys2Proof.Machine
end

