-- ==== Sys2Proof/Machine/VideoStream.lean ====
section
/-!
DEFINITION. Video streams: pools, frames and their marks, read holds, stream records, and the units a decode engine takes (spec/13
R353-R364). What the standards decide is opaque (log 6).
-/
namespace Sys2Proof.Machine

/-! ### Read holds on pictures (R344, R361) -/

/-- Set a stream's frame. -/
def DecStream.setFrame (x : DecStream) (f : Nat) (y : VFrame) : DecStream := { x with frames := x.frames.set f y }

/-- A read hold begins. -/
def State.holdFrame (s : State) (slot f : Nat) : State :=
  match s.vid.decs.find slot with
  | none => s
  | some x =>
    let y := x.frames.getD f {}
    { s with vid := { s.vid with decs := s.vid.decs.put slot (x.setFrame f { y with reads := y.reads + 1 }) } }

/-- A read hold on picture `num` ends; with AUTO_RELEASE the first read ends its OUT mark. -/
def State.releaseHold (s : State) (slot : Nat) (gen : Word32) (f num : Nat) : State :=
  match s.vid.held.find (slot, gen) with
  | some (w, b, k, h) =>
    { s with vid := { s.vid with held := if h ≤ 1 then s.vid.held.del (slot, gen) else s.vid.held.put (slot, gen) (w, b, k, h - 1) } }
  | none => match s.vid.decs.find slot with
    | none => s
    | some x =>
      if s.vid.decGen.get 0 slot ≠ gen then s
      else
        let y := x.frames.getD f {}
        let y := { y with reads := y.reads - 1, outs := if x.autoRelease then y.outs.filter (· != num) else y.outs }
        let x := x.setFrame f y
        let x := if x.autoRelease then { x with pics := x.pics.filter (fun p => p.number != num) } else x
        { s with vid := { s.vid with decs := s.vid.decs.put slot x } }

/-- The decode stream a handle names in a world. -/
def State.decStream (s : State) (h : Nat) : Option (Nat × DecStream) :=
  match s.vid.decs.find (bits h 0 16) with
  | none => none
  | some x => if (s.vid.decGen.get 0 (bits h 0 16)).toNat = bits h 16 32 then some (bits h 0 16, x) else none

/-- PITCH of a stream's pictures, and the address of a frame of its run (R360; log 35). -/
def decPitch (maxW : Nat) (ten : Bool) : Nat := roundUp (maxW * (if ten then 2 else 1)) 256
def decFrameBytes (maxW maxH : Nat) : Nat := decPitch maxW true * (maxH + maxH / 2)
def DecStream.frameAt (x : DecStream) (f : Nat) : Nat := x.base + f * decFrameBytes x.maxW x.maxH

/-! ### Handles and order (R358) -/

/-- The handle a VDEC or VENC stage names. -/
def vidHandle (d : List Byte) : Nat := op8 d 0xE4

/-- The handle names a stream: none, or a status that ends the stage; `owner` is the stream's world, where it exists. -/
def handleStatus (owner : Option Bool) (secure : Bool) : Nat :=
  match owner with
  | none => 2
  | some w => if w = secure then 0 else 4

/-- The stages of one stream are taken one at a time, in admission order. -/
def State.vidTurn (s : State) (st : Stage) : Bool :=
  !(s.dsp.stages.any (fun p => (p.2.phase == .admitted || p.2.phase == .running) && p.2.opcode == st.opcode
    && op1 p.2.desc 0xE0 != 0 && bits (vidHandle p.2.desc) 0 48 == bits (vidHandle st.desc) 0 48
    && decide (p.2.admOrder < st.admOrder)))

/-! ### Records (R359, Table 13.5) -/

/-- Write a stream record's header. -/
def State.writeHead (s : State) (who : Requester) (record handle count units bytes : Nat) : State :=
  let b := toLE 8 handle ++ toLE 4 count ++ toLE 4 units ++ toLE 8 bytes ++ List.replicate 36 0#8
  s.writeFor who record (b ++ toLE 4 (crc32c b)) 0

/-- Write entry `p` of a stream record: 28 bytes and their CRC. -/
def State.writeEnt (s : State) (who : Requester) (record p : Nat) (b : List Byte) : State :=
  s.writeFor who (record + 0x40 + 32 * (p % 256)) (b ++ toLE 4 (crc32c b)) 0

/-- A DECODE, RELEASE or CLOSE completes: the header is rewritten. -/
def State.endVdec (s : State) (n slot : Nat) (st : Stage) (own : Nat) : State :=
  match s.vid.decs.find slot with
  | none => s.finishWorst n own
  | some x => (s.writeHead (st.who n) x.record (seqHandle' slot (s.vid.decGen.get 0 slot)) x.count x.units x.bytes).finishWorst n own
where
  /-- A stream handle (R358). -/
  seqHandle' (slot : Nat) (gen : Word32) : Nat := slot + 2 ^ 16 * gen.toNat

/-! ### Units on the decode engines (R353, R361-R363) -/

/-- A frame that holds no mark. -/
def VFrame.free (f : VFrame) : Bool := !f.cur && !f.ref && f.outs.isEmpty && f.reads == 0

/-- Frames that stand as references (R361): at most 8 of an AV1 stream and 16 of an HEVC stream, the latest coded. -/
def DecStream.refLimit (x : DecStream) : Nat := if x.hevc then 16 else 8
def DecStream.trimRefs (x : DecStream) : DecStream :=
  { x with frames := x.frames.map (fun f =>
      if f.ref ∧ x.refLimit ≤ (x.frames.filter (fun g => g.ref && decide (f.pic < g.pic))).length then { f with ref := false } else f) }

/-- `k` pictures of a unit are complete (Table 13.6): CUR is cleared, REF is what the stream's own reference process keeps. -/
def DecStream.complete (x : DecStream) (r : DecRun) (k : Nat) : DecStream :=
  DecStream.trimRefs { x with frames := x.frames.map (fun f =>
    { f with cur := false, ref := (f.ref || f.cur) && Config.keepsRef r.before r.unit k f.pic }) }

/-- Marks at the end of a unit. -/
def DecStream.endUnit (x : DecStream) (r : DecRun) : DecStream := x.complete r r.need

/-- A coded picture uses what R355 or R356 excludes: a profile, a bit depth, a sampling, large-scale tiles or an extension. -/
def excludedPic (hevc : Bool) (field : Nat → Nat) : Bool :=
  let depth := field 2; let chroma := field 3; let profile := field 4
  field 7 != 0
    || (if hevc then !([1, 2, 3].contains profile) || chroma != 1 || decide (10 < depth)
        else profile != 0 || decide (1 < chroma) || (depth != 8 && depth != 10))

/-- End a DECODE: its run is over, its header names the units and bytes taken. A unit that got no frame for one of its pictures is not
taken, and its frames keep no CUR (R362). -/
def State.endDecode (s : State) (n : Nat) (own : Nat) : State :=
  match s.stage n, s.vid.decRuns.find n with
  | some st, some r =>
    let s := match r.waitSince with | some t => s.bump vdPoolWaitNs (s.time - t) | none => s
    let decs := match s.vid.decs.find r.stream with
      | some x => s.vid.decs.put r.stream
          { x with units := r.units, bytes := r.bytes, frames := x.frames.map (fun f => { f with cur := false }) }
      | none => s.vid.decs
    let s := { s with vid := { s.vid with decs := decs, decRuns := s.vid.decRuns.del n } }
    s.endVdec n r.stream st own
  | _, _ => s

/-- Rows of a picture of `h` lines at an address, as address and bytes: luma lines, then chroma lines (R363). -/
def pictureRows (pitch addr w h b : Nat) (byte : Nat → Byte) : List (Nat × List Byte) :=
  let luma := w * b; let chroma := 2 * ceilDiv w 2 * b
  (List.range h).map (fun y => (addr + pitch * y, (List.range luma).map (fun i => byte (luma * y + i))))
    ++ (List.range (ceilDiv h 2)).map (fun y =>
      (addr + pitch * (h + y), (List.range chroma).map (fun i => byte (luma * h + chroma * y + i))))

/-- Mid-grey in every plane: code 2^(n-1) (R364). -/
def greyByte (ten : Bool) (off : Nat) : Byte := if ten ∧ off % 2 = 0 then 0#8 else 128#8

/-- The bytes of a picture in a frame, in the order of `pictureRows`. -/
def State.frameBytes (s : State) (n : Nat) (x : DecStream) (f : Nat) : List Byte × State :=
  let y := x.frames.getD f {}
  let b := if y.tenBit then 2 else 1
  (pictureRows (decPitch x.maxW y.tenBit) (x.frameAt f) y.width y.height b (fun _ => 0)).foldl (fun (acc : List Byte × State) row =>
    let (bs, s) := acc.2.innerRead n row.1 row.2.length 0
    (acc.1 ++ bs, s)) ([], s)

/-- The decoder starts the unit's next coded picture in a free frame, and writes it there (R361, R363, R364): where blocks of an ERROR
picture cannot be decoded they are copied from the nearest reference that stands, else mid-grey; an oversize picture is mid-grey at
MAX_W × MAX_H. -/
def State.codePicture (s : State) (n : Nat) (r : DecRun) (x : DecStream) (f : Nat) : DecStream × State :=
  let j := r.coded
  let field := Config.codedField r.before r.unit j
  let key := field 5 != 0
  let refs := if key then [] else Config.codedRefs r.before r.unit j
  let stands := fun (p : Nat) => (List.range x.frames.length).find? (fun i => (x.frames.getD i {}).ref && (x.frames.getD i {}).pic == p)
  let big := x.maxW < field 0 ∨ x.maxH < field 1
  let excluded := excludedPic x.hevc field
  let err : Bool := decide big || excluded || field 6 != 0 || r.cut
    || refs.any (fun p => match stands p with | none => true | some i => (x.frames.getD i {}).err)
  let w := if big then x.maxW else field 0
  let h := if big then x.maxH else field 1
  let ten : Bool := field 2 != 8
  let grain : Bool := !x.hevc && x.filmGrain && field 8 != 0
  let (near, s) := match refs.filterMap stands with
    | i :: _ => if err ∧ ¬ big then s.frameBytes n x i else ([], s)
    | [] => ([], s)
  let byte := fun (off : Nat) =>
    if big then greyByte ten off
    else if err && (excluded || Config.byteLost r.before r.unit j off) then near.getD off (greyByte ten off)
    else Config.decodedByte r.before r.unit j grain off
  let y : VFrame := { cur := true, pic := x.coded, width := w, height := h, tenBit := ten, err := err, key := key, grain := grain
                      cropW := field 9, cropH := field 10 }
  let s := (pictureRows (decPitch x.maxW ten) (x.frameAt f) w h (if ten then 2 else 1) byte).foldl (fun s row => s.writeRaw row.1 row.2) s
  ({ x.setFrame f y with coded := x.coded + 1 }, s)

/-- The unit's coded pictures take free frames one after another, each once the picture before it is complete; where none is free the
stream waits (R362). The run and the stream as they then stand. -/
def State.codePictures (s : State) (n : Nat) : Nat → DecRun → DecStream → DecRun × DecStream × State
  | 0, r, x => (r, x, s)
  | fuel + 1, r, x =>
    if r.need ≤ r.coded then (r, x, s)
    else
      let x := if r.coded = 0 then x else x.complete r r.coded
      match (List.range x.frames.length).find? (fun i => (x.frames.getD i {}).free) with
      | none => (r, x, s)
      | some f =>
        let (x, s) := s.codePicture n r x f
        s.codePictures n fuel { r with coded := r.coded + 1 } x

/-- A run with the unit it takes from its bytes of TD0. -/
def DecRun.next (r : DecRun) (x : DecStream) (rest : List Byte) : DecRun :=
  let k := Config.unitLength x.fed rest
  let cut := k = 0 ∨ rest.length < k
  let unit := if cut then rest else rest.take k
  { r with before := x.fed, unit := unit, need := Config.unitCoded x.fed unit, coded := 0
           shown := Config.unitShown x.fed unit, cut := cut }

/-- A stream's DECODE takes its next unit, or goes on with the unit that waits for a frame: the state, and whether a whole unit was
taken or the stage ended. -/
def State.takeUnit (s : State) (n : Nat) (r : DecRun) : Bool × State :=
  match s.stage n, s.vid.decs.find r.stream with
  | some st, some x =>
    let td := dTd st.desc 0
    if st.ending then (false, s)
    else if r.waitSince.isNone ∧ td.c ≤ r.bytes then (true, s.endDecode n (if r.error then 0x0B else 0))
    else
      let s := s.knock (200 + 6 * (x.engine / 4))
      let (r, s) := if r.waitSince.isSome then (r, s)
        else
          let (rest, s) := s.readElems (st.who n) td 0 r.bytes (td.c - r.bytes)
          (r.next x (rest.map (BitVec.ofNat 8)), s)
      let (r, x, s) := s.codePictures n (r.need + 1) r x
      let put := fun (s : State) (r : DecRun) (x : DecStream) =>
        { s with vid := { s.vid with decs := s.vid.decs.put r.stream x, decRuns := s.vid.decRuns.put n r } }
      if r.coded < r.need then (false, put s { r with waitSince := some (r.waitSince.getD s.time) } x)
      else
        let s := match r.waitSince with | some t => s.bump vdPoolWaitNs (s.time - t) | none => s
        let x := { x with fed := x.fed ++ r.unit }
        let x := if r.shown = 0 then x.endUnit r else x
        let r := { r with bytes := r.bytes + r.unit.length, units := r.units + 1, left := r.shown, waitSince := none }
        let s := put s r x
        (true, { s with vid := { s.vid with decLast := s.vid.decLast.put x.engine r.stream } })
  | _, _ => (false, s)

/-- DECODEs bound to an engine, in the order it serves them between units (R353): by class, then the streams in turn. -/
def State.decQueue (s : State) (g : Nat) : List (Nat × DecRun) :=
  let last := s.vid.decLast.get 255 g
  let mine := s.vid.decRuns.filter (fun p => match s.vid.decs.find p.2.stream with | some x => x.engine == g | none => false)
  sortBy (fun (p : Nat × DecRun) => 7 - ((s.stage p.1).map Stage.cls).getD 0)
    (sortBy (fun (p : Nat × DecRun) => (p.2.stream + 255 - last) % 256) mine)

/-- An engine takes units while none of its streams has a picture to output; `fuel` bounds them. -/
def State.serveDec (s : State) (g : Nat) : Nat → State
  | 0 => s
  | fuel + 1 =>
    let q := s.decQueue g
    if q.any (fun p => decide (0 < p.2.left)) then s
    else
      let (took, s) := q.foldl (fun (acc : Bool × State) p => if acc.1 then acc else acc.2.takeUnit p.1 p.2) (false, s)
      if took then s.serveDec g fuel else s

/-- Every decode engine serves its streams: frames may have become free. -/
def State.serveAll (s : State) : State :=
  let fuel := (s.vid.decRuns.map (fun p => ((s.stage p.1).map (fun st => (dTd st.desc 0).c + 2)).getD 1)).sum
  (List.range 8).foldl (fun s g => s.serveDec g fuel) s

end Sys2Proof.Machine
end

