-- ==== Sys2Proof/Machine/Ingest.lean ====
section
/-!
DEFINITION. INGEST and PYRAMID: sample tables, sources, pixel conversion, outcomes, records, the validity mask; resampling
(spec/12 R333-R352).
-/
namespace Sys2Proof.Machine

/-! ### Pixel arithmetic (R337; also spec/13 R365) -/

/-- The binary64 value nearest `a / b`. -/
def coef (a b : Nat) : Fp :=
  let (q, sticky, _) := divX (.fin false a 0) (.fin false b 0)
  (roundIeee .fp64 .rne (withSticky q sticky)).1

/-- A value with the flags raised so far. -/
abbrev FF := Fp × Flags

def ffAdd (x y : FF) : FF :=
  let (z, f) := Fp.addX x.1 y.1
  let (z, g) := odd53 z
  (z, x.2 ||| y.2 ||| f ||| g)
def ffSub (x y : FF) : FF := ffAdd x (y.1.negate, y.2)
def ffMul (x y : FF) : FF :=
  let (z, f) := Fp.mulX x.1 y.1
  let (z, g) := odd53 z
  (z, x.2 ||| y.2 ||| f ||| g)
def ffDiv (x y : FF) : FF :=
  let (q, sticky, f) := divX x.1 y.1
  match q with
  | .fin _ _ _ => let (z, g) := odd53 (withSticky q sticky); (z, x.2 ||| y.2 ||| f ||| g)
  | _ => (q, x.2 ||| y.2 ||| f)
def ffInt (v : Int) : FF := (fpOfInt v, 0)

/-- Matrix coefficients Kr, Kg, Kb, 2(1 − Kr), 2(1 − Kb) of BT.709 or BT.2020 (R337). -/
def kr (m : Nat) : FF := (coef (if m = 0 then 2126 else 2627) 10000, 0)
def kg (m : Nat) : FF := (coef (if m = 0 then 7152 else 6780) 10000, 0)
def kb (m : Nat) : FF := (coef (if m = 0 then 722 else 593) 10000, 0)
def kr2 (m : Nat) : FF := (coef (if m = 0 then 15748 else 14746) 10000, 0)
def kb2 (m : Nat) : FF := (coef (if m = 0 then 18556 else 18814) 10000, 0)

/-- A luma or RGB code normalised (R337, step 1). -/
def normLuma (limited : Bool) (n v : Nat) : FF :=
  if limited then ffDiv (ffInt ((v : Int) - 16 * 2 ^ (n - 8))) (ffInt (219 * 2 ^ (n - 8)))
  else ffDiv (ffInt v) (ffInt (2 ^ n - 1))
def normChroma (limited : Bool) (n v : Nat) : FF :=
  if limited then ffDiv (ffInt ((v : Int) - 128 * 2 ^ (n - 8))) (ffInt (224 * 2 ^ (n - 8)))
  else ffDiv (ffInt ((v : Int) - 2 ^ (n - 1))) (ffInt (2 ^ n - 1))

/-- A frame as bytes with its geometry: format of Table 12.3, lines, pitch, width. -/
structure Pix where
  fmt : Nat
  lines : Nat
  pitch : Nat
  width : Nat
  data : List Byte
deriving DecidableEq, Repr

/-- Bytes of a pixel of the luma plane, and bits of a code (Table 12.3). -/
def pixBytes (f : Nat) : Nat := if f = 0 then 3 else if f = 1 ∨ f = 2 then 4 else if f = 5 then 2 else 1
def pixBits (f : Nat) : Nat := if f = 5 then 10 else 8
def pix420 (f : Nat) : Bool := f == 4 || f == 5

/-- Bytes of a frame of `l` lines `w` pixels wide: luma lines, then the chroma lines of a 4:2:0 format at the same pitch (R336). The
pairs of the last chroma line belong to it where they reach past its pitch, as they do for an odd width (log 67). -/
def pixExtent (f w l pitch : Nat) : Nat :=
  pitch * l + (if pix420 f then pitch * (ceilDiv l 2 - 1) + max pitch (2 * ceilDiv w 2 * pixBytes f) else 0)

/-- A code of a plane at a byte offset. -/
def Pix.code (p : Pix) (off : Nat) : Nat := if p.fmt = 5 then field p.data off 2 >>> 6 else field p.data off 1

/-- Line `y` as the destination sees it: the last line repeats (R343). -/
def Pix.luma (p : Pix) (x y : Nat) : Nat := p.code (p.pitch * min y (p.lines - 1) + x * pixBytes p.fmt)
def Pix.rgb (p : Pix) (x y c : Nat) : Nat :=
  p.code (p.pitch * min y (p.lines - 1) + x * pixBytes p.fmt + (if p.fmt = 2 then 2 - c else c))

/-- Chroma component `c` of pair (i, j), clamped to the plane. -/
def Pix.pair (p : Pix) (limited : Bool) (c : Nat) (i j : Int) : FF :=
  let i := min i.toNat (ceilDiv p.width 2 - 1)
  let j := min j.toNat (ceilDiv p.lines 2 - 1)
  normChroma limited (pixBits p.fmt) (p.code (p.pitch * p.lines + p.pitch * j + (2 * i + c) * pixBytes p.fmt))

/-- Chroma at luma position (x, y) (R337, step 2): replicated, or interpolated horizontally, then vertically. -/
def Pix.chroma (p : Pix) (limited bilinear : Bool) (c x y : Nat) : FF :=
  if !bilinear then p.pair limited c (x / 2) (y / 2)
  else
    let row := fun (j : Int) =>
      if x % 2 = 0 then p.pair limited c (x / 2) j
      else
        let half : FF := (.fin false 1 (-1), 0)
        ffAdd (ffMul half (p.pair limited c (x / 2) j)) (ffMul half (p.pair limited c (x / 2 + 1) j))
    let near := row (y / 2)
    let far := row (if y % 2 = 0 then (y / 2 : Int) - 1 else y / 2 + 1)
    ffAdd (ffMul (.fin false 3 (-2), 0) near) (ffMul (.fin false 1 (-2), 0) far)

/-- Clamp to [0, 1] (R337, step 4). -/
def clamp01 (x : FF) : FF :=
  if Fp.lt x.1 .zero then (.zero, x.2) else if Fp.lt (.fin false 1 0) x.1 then (.fin false 1 0, x.2) else x

/-- R′, G′, B′ of a pixel, or grey (R337, steps 1 to 4). -/
def Pix.value (p : Pix) (conv : Nat) (grey : Bool) (x y : Nat) : List FF :=
  let m := bits conv 0 2
  let limited := bit conv 2
  if p.fmt ≤ 2 then
    let r := normLuma false 8 (p.rgb x y 0); let g := normLuma false 8 (p.rgb x y 1); let b := normLuma false 8 (p.rgb x y 2)
    if grey then [ffAdd (ffAdd (ffMul (kr m) r) (ffMul (kg m) g)) (ffMul (kb m) b)]
    else [r, g, b].map (fun v => if bit conv 4 then clamp01 v else v)
  else
    let yy := normLuma limited (pixBits p.fmt) (p.luma x y)
    if grey then [yy]
    else
      -- past the last line the chroma plane, too, repeats its own last line (R343)
      let (cb, cr) : FF × FF := if p.fmt = 3 then (ffInt 0, ffInt 0)
        else (p.chroma limited (bit conv 3) 0 x y, p.chroma limited (bit conv 3) 1 x y)
      let r := ffAdd yy (ffMul (kr2 m) cr)
      let b := ffAdd yy (ffMul (kb2 m) cb)
      let g := ffDiv (ffSub (ffSub yy (ffMul (kr m) r)) (ffMul (kb m) b)) (kg m)
      [r, g, b].map (fun v => if bit conv 4 then clamp01 v else v)

/-- The final conversion of an engine: the saturate bit is set (R337, R350). -/
def ingConv (d : List Byte) : ConvMode := engineConv d true

/-- The codes of an output pixel in written order (R337). -/
def pixelCodes (d tab : List Byte) (p : Pix) (x y : Nat) : List Nat × Flags :=
  let o := dTd d 2
  let conv := field tab 1 1
  let vs := p.value conv (o.c == 1) x y
  let vs := if o.c = 3 ∧ bit conv 5 then vs.reverse else vs
  vs.zipIdx.foldl (fun acc v =>
    let z := ffMul (ffSub v.1 (decodeFp .fp32 (field tab (0x10 + 4 * v.2) 4), 0)) (decodeFp .fp32 (field tab (0x1C + 4 * v.2) 4), 0)
    let (c, f) := convFp o.fmt (ingConv d) 0 z.1
    (acc.1 ++ [c], acc.2 ||| z.2 ||| f)) ([], 0)

/-! ### The sample table (R335) -/

def tabCount (tab : List Byte) : Nat := field tab 2 2
def tabEntry (tab : List Byte) (i : Nat) : List Byte := (tab.drop (64 + 32 * i)).take 32
def tabStatus (tab : List Byte) : Nat := bits (field tab 0x28 8) 0 58
def entKind (e : List Byte) : Nat := field e 0 1
def entT (e : List Byte) : Nat := field e 2 2
def entN (e : List Byte) : Nat := field e 4 4
def entSrc (e : List Byte) : Nat := bits (field e 8 8) 0 58

/-- Queues a table names. -/
def tabQueues (tab : List Byte) : List Nat :=
  dedup (((List.range (tabCount tab)).map (tabEntry tab)).filter (fun e => entKind e == 1) |>.map entSrc)

/-- The LENGTH_RANGE conditions of R335. -/
def tabOk (d tab : List Byte) : Bool :=
  let o := dTd d 2
  let es := (List.range (o.n * o.t)).map (tabEntry tab)
  let places := es.map (fun e => (entN e, entT e))
  tabCount tab == o.n * o.t && decide (1 ≤ tabCount tab) && decide (tabCount tab ≤ 4096)
    && es.all (fun e => decide (entN e < o.n) && decide (entT e < o.t) && decide (entKind e ≤ 3)
        && (entKind e != 0 || decide (field e 1 1 ≤ 5)))
    && (dedup places).length == places.length
    && decide (bits (field tab 1 1) 0 2 ≤ 1)
    && (List.range (if o.c = 1 then 1 else 3)).all (fun c => (decodeFp .fp32 (field tab (0x1C + 4 * c) 4)).isFin
        && !(decodeFp .fp32 (field tab (0x10 + 4 * c) 4)).isNan)
    && decide ((tabQueues tab).length ≤ 256)

/-! ### Runs and entries -/

def State.putIng (s : State) (n : Nat) (r : IngRun) : State := { s with ing := { s.ing with runs := s.ing.runs.put n r } }
def State.setEntry (s : State) (n i : Nat) (e : IngEntry) : State :=
  match s.ing.runs.find n with
  | none => s
  | some r => s.putIng n { r with entries := r.entries.set i e }

/-- Every entry in progress, with the order in which R342 and R346 serve it: stages by class and admission, entries ascending. -/
def State.ingEntries (s : State) : List (Nat × Nat × IngEntry) :=
  let ns := sortBy (fun (p : Nat × IngRun) => 7 - ((s.stage p.1).map Stage.cls).getD 0)
    (sortBy (fun (p : Nat × IngRun) => ((s.stage p.1).map Stage.admOrder).getD 0) s.ing.runs)
  ns.flatMap (fun p => p.2.entries.zipIdx.map (fun e => (p.1, e.2, e.1)))

/-- Ingest engines that can take an entry: not held off by an alternative, not busy. -/
def State.freeEngines (s : State) : List Nat :=
  (List.range 4).filter (fun g => s.pwr.doms.get .fallow (202 + 6 * (g / 2)) != .heldOff
    && !(s.ingEntries.any (fun e => e.2.2.st == .busy g)))

/-- Ready entries go to free engines in the order of R346; those of a stage that is ending go to none (spec/14 R395). -/
def State.assignEngines (s : State) : State :=
  s.ingEntries.foldl (fun s e =>
    if e.2.2.st = .ready ∧ !((s.stage e.1).map Stage.ending).getD false then
      match s.freeEngines with
      | [] => s
      | g :: _ => (s.setEntry e.1 e.2.1 { e.2.2 with st := .busy g }).knock (202 + 6 * (g / 2))
    else s) s

/-- The source of an entry has become ready: the wait is counted. -/
def State.readyEntry (s : State) (n i : Nat) (e : IngEntry) : State :=
  let start := ((s.stage n).map Stage.startTime).getD s.time
  (s.setEntry n i { e with st := .ready }).bump ingWaitNs (s.time - start)

/-- A waiting DECODED entry looks at its stream (R344, R361). -/
def State.lookDecoded (s : State) (n i : Nat) (e : IngEntry) : State :=
  match s.stage n, s.ing.runs.find n with
  | some st, some r =>
    let b := tabEntry r.table i
    let num := field b 0x18 4
    let o := dTd st.desc 2
    match s.decStream (field b 8 8) with
    | none => s.readyEntry n i { e with outcome := some 5 }
    | some (slot, x) =>
      if x.secure ≠ st.secure then s.readyEntry n i { e with outcome := some 5 }
      else match x.pics.find? (fun p => p.number == num) with
        | none => if num < x.count then s.readyEntry n i { e with outcome := some 4 } else s
        | some p =>
          let e := { e with lines := p.height }
          if p.error ∨ p.width ≠ o.w ∨ p.height = 0 then s.readyEntry n i { e with outcome := some 5 }
          else
            let s := s.holdFrame slot p.frame
            s.readyEntry n i { e with
              pix := if p.tenBit then 5 else 4, addr := x.frameAt p.frame, pitch := decPitch x.maxW p.tenBit
              hold := some (slot, s.vid.decGen.get 0 slot, p.frame, num) }
  | _, _ => s

/-- Every waiting DECODED entry looks again, after a picture, a release or a close. -/
def State.lookAll (s : State) : State :=
  (s.ingEntries.foldl (fun s e =>
    match s.ing.runs.find e.1 with
    | none => s
    | some r => if e.2.2.st = .waiting ∧ entKind (tabEntry r.table e.2.1) = 2 then s.lookDecoded e.1 e.2.1 e.2.2 else s)
    s).assignEngines

/-- Waiting entries on a stream that closes end MISSING (R361). -/
def State.missAll (s : State) (h : Nat) : State :=
  (s.ingEntries.foldl (fun s e =>
    match s.ing.runs.find e.1 with
    | none => s
    | some r =>
      let b := tabEntry r.table e.2.1
      if e.2.2.st = .waiting ∧ entKind b = 2 ∧ bits (field b 8 8) 0 48 = h
        then s.readyEntry e.1 e.2.1 { e.2.2 with outcome := some 4 } else s) s).assignEngines

/-! ### INGEST_START -/

/-- How an entry begins (R338, R344, R345). -/
def State.beginEntry (s : State) (n : Nat) (st : Stage) (tab : List Byte) (i : Nat) : State :=
  let e := tabEntry tab i
  let o := dTd st.desc 2
  match entKind e with
  | 0 =>
    let lines := field e 0x10 4; let pitch := field e 0x14 4
    let x : IngEntry := { lines := lines, pix := field e 1 1, addr := entSrc e, pitch := pitch }
    if lines = 0 ∨ pitch < o.w * pixBytes (field e 1 1) then s.readyEntry n i { x with outcome := some 5 }
    else s.readyEntry n i x
  | 1 => s
  | 2 => s.lookDecoded n i {}
  | _ => s.readyEntry n i { outcome := some 6 }

def execIngestStart (slot : Nat) (s : State) : Out :=
  answer s (match s.stage slot with
    | none => s
    | some st =>
      let d := st.desc; let k := (dTd d 2).n * (dTd d 2).t
      if st.phase ≠ .running ∨ st.opcode ≠ 0x10 ∨ (s.ing.runs.find slot).isSome then s
      else
        let (b, s) := s.readFor (st.who slot) (opAddr d 0xE0 % 2 ^ 48) (64 + 32 * k + 4) 0
        let tab := b.take (64 + 32 * k)
        let st := (s.stage slot).getD st
        if field b (64 + 32 * k) 4 ≠ crc32c tab ∨ field tab 0 1 ≠ 1 then s.finishWorst slot 1
        else if !tabOk d tab then s.finishWorst slot 2
        else
          let a := tabStatus tab
          let chk := if a = 0 then 0
            else if a >>> 48 ≠ s.lnk.devid then 3
            else s.extentCheck st.secure st.secure st.fn (a % 2 ^ 48) (16 * k) true
          if chk ≠ 0 then (if chk = 4 then s.deny st.secure st.fn (a % 2 ^ 48) else s).finishWorst slot chk
          else
            let s := s.putIng slot ⟨tab, List.replicate k {}⟩
            ((List.range k).foldl (fun s i => s.beginEntry slot st tab i) s).assignEngines)

/-! ### Live queues (R339-R342) -/

/-- A queue header (Table 12.4): SLOTS, SLOT_BYTES, SLOT_BASE; none where it cannot be used. -/
def queueHeader (b : List Byte) : Option (Nat × Nat × Nat) :=
  let slots := field b 0 4; let size := field b 4 4
  if field b 0x10 4 = crc32c (b.take 16) ∧ 1 ≤ slots ∧ slots ≤ 4096 ∧ size % 256 = 0 ∧ 64 ≤ size then
    some (slots, size, bits (field b 8 8) 0 58)
  else none

/-- A queue header whose slots lie on this device (spec/11 R313). -/
def State.localQueue (s : State) (b : List Byte) : Option (Nat × Nat × Nat) :=
  (queueHeader b).filter (fun h => h.2.2 >>> 48 == s.lnk.devid)

/-- Whether the entry is the next to take from its queue: no take is in progress and no entry goes before it (R342). -/
def State.queueTurn (s : State) (n i q : Nat) : Bool :=
  let mine := s.ingEntries.filter (fun e => match s.ing.runs.find e.1 with
    | none => false
    | some r => entKind (tabEntry r.table e.2.1) == 1 && entSrc (tabEntry r.table e.2.1) == q
        && (e.2.2.queue.isSome || (e.2.2.st == .waiting && !((s.stage e.1).map Stage.ending).getD false)))
  match mine.find? (fun e => e.2.2.queue.isSome) with
  | some _ => false
  | none => match mine.head? with
    | some e => e.1 == n && e.2.1 == i
    | none => false

/-- Write CONS of a queue (R342). -/
def State.writeCons (s : State) (who : Requester) (q cons : Nat) : State := s.writeFor who (q % 2 ^ 48 + 0x80) (toLE 4 cons) 0

/-- A frame header (Table 12.5) is valid for a destination `w` pixels wide and a slot of `size` bytes (R340). A PIXFMT that Table 12.3
does not list and a PITCH below a line's bytes are read as R338 reads the latter of a raw frame: CORRUPT (DESIGN CHOICE, log 67). -/
def frameOk (h : List Byte) (w size : Nat) : Bool :=
  let pix := field h 0x18 1; let lines := field h 0x0C 4; let pitch := field h 0x14 4
  field h 0x3C 4 == crc32c (h.take 0x3C) && !bit (field h 0x19 1) 0 && field h 0x10 4 == w && decide (1 ≤ lines)
    && decide (pix ≤ 5) && decide (w * pixBytes pix ≤ pitch) && decide (64 + pixExtent pix w lines pitch ≤ size)

/-- Take from a queue: stale frames are dropped, then a frame is taken or the entry goes on waiting; `fuel` bounds the drops. -/
def State.takeFrame (s : State) (n i : Nat) (st : Stage) (tab : List Byte) (q : Nat) (hd : Nat × Nat × Nat) :
    Nat → IngEntry → State
  | 0, e => s.setEntry n i e
  | fuel + 1, e =>
    let who := st.who n
    let (b, s) := s.readFor who (q % 2 ^ 48 + 0x40) 4 0
    let (c, s) := s.readFor who (q % 2 ^ 48 + 0x80) 4 0
    let prod := ofLE b; let cons := ofLE c
    if prod = cons then s.setEntry n i e
    else
      let slot := hd.2.2 % 2 ^ 48 + (cons % hd.1) * hd.2.1
      let (h, status, s) := s.ctrlRead who slot 64
      let s := if status = 0 then s else s.meet (some n) status
      let cons' := (cons + 1) % 2 ^ 32
      let stale := field tab 4 4
      let valid := status = 0 ∧ frameOk h (dTd st.desc 2).w hd.2.1 = true
      if valid ∧ stale ≠ 0 ∧ stale * 1000 < s.time - field h 0 8 then
        ((s.writeCons who q cons').tick1 ingStaleDrops).takeFrame n i st tab q hd fuel { e with drops := min 65535 (e.drops + 1) }
      else
        let e := { e with lines := field h 0x0C 4, capture := field h 0 8 }
        if ¬ valid then (s.writeCons who q cons').readyEntry n i { e with outcome := some 5 }
        else s.readyEntry n i { e with
          pix := field h 0x18 1, addr := slot + 64, pitch := field h 0x14 4, queue := some q }

/-- One look of a waiting LIVE entry at its queue, in its turn (R342). -/
def State.pollQueue (s : State) (slot entry : Nat) : State :=
  match s.stage slot, s.ing.runs.find slot with
  | some st, some r =>
    let b := tabEntry r.table entry
    match r.entries[entry]? with
    | none => s
    | some e =>
      let q := entSrc b
      if e.st ≠ .waiting ∨ entKind b ≠ 1 ∨ st.ending ∨ !s.queueTurn slot entry q then s
      else
        let (h, status, s) := if q >>> 48 = s.lnk.devid then s.ctrlRead (st.who slot) (q % 2 ^ 48) 64 else ([], 3, s)
        let s := if status = 0 then s else s.meet (some slot) status
        match (if status = 0 then s.localQueue h else none) with
        | none => s.readyEntry slot entry { e with outcome := some 5 }
        | some hd => s.takeFrame slot entry st r.table q hd 65537 e
  | _, _ => s

def execLiveQueuePoll (slot entry : Nat) (s : State) : Out := answer s (s.pollQueue slot entry).assignEngines

/-- The queue that a table entry names holds a frame (R339). -/
def State.queueHolds (s : State) (who : Requester) (q : Nat) : Bool :=
  decide (q >>> 48 = s.lnk.devid)
    && (s.readFor who (q % 2 ^ 48 + 0x40) 4 0).1 != (s.readFor who (q % 2 ^ 48 + 0x80) 4 0).1

/-- WAIT_US has passed for a waiting entry. A LIVE entry looks at its queue once more, as the loop of R342 does before it ends; where
the queue holds a frame that another entry is to take first, it goes on waiting for its turn (log 67). Else the entry ends: STALE where
frames were dropped for it, MISSING otherwise (R342, R344). -/
def execIngestWaitTimeout (slot entry : Nat) (s : State) : Out :=
  answer s (match s.stage slot, s.ing.runs.find slot with
    | some st, some r =>
      if field r.table 8 4 = 0 then s
      else
        let b := tabEntry r.table entry
        let s := s.pollQueue slot entry
        match (s.ing.runs.find slot).bind (fun r => r.entries[entry]?) with
        | none => s
        | some e =>
          if e.st ≠ .waiting ∨ (entKind b = 1 ∧ s.queueHolds (st.who slot) (entSrc b)) then s.assignEngines
          else (s.readyEntry slot entry { e with outcome := some (if 0 < e.drops then 3 else 4) }).assignEngines
    | _, _ => s)

/-! ### Conversion and records (R343-R346) -/

/-- Write the frame of an entry: converted pixels, or zeros. -/
def State.writeFrame (s : State) (n : Nat) (st : Stage) (e tab : List Byte) (p : Option Pix) : State :=
  let o := dTd st.desc 2
  let row0 := (entN e * o.t + entT e) * o.h * o.w
  let s := (List.range (o.h * o.w)).foldl (fun s j =>
    let (cs, fl) := match p with
      | some p => pixelCodes st.desc tab p (j % o.w) (j / o.w)
      | none => (List.replicate o.c 0, 0)
    (s.writeElems (st.who n) o (row0 + j) 0 cs).raise n fl) s
  s.bump ingPixels (o.h * o.w)

/-- A status record (R346). -/
def State.writeRec (s : State) (n : Nat) (st : Stage) (tab : List Byte) (i : Nat) (e : IngEntry) (outcome : Nat) : State :=
  let a := tabStatus tab
  if a = 0 then s
  else s.writeFor (st.who n) (a % 2 ^ 48 + 16 * i)
    (toLE 1 outcome ++ toLE 1 0 ++ toLE 2 e.drops ++ toLE 4 e.lines ++ toLE 8 e.capture) 0

/-- Read an entry's frame: its bytes, or the status of a refusal or of poison. -/
def State.readFrame (s : State) (n : Nat) (st : Stage) (e : IngEntry) : List Byte × Nat × State :=
  let k := pixExtent e.pix (dTd st.desc 2).w e.lines e.pitch
  let a := e.addr % 2 ^ 48
  let chk := if e.addr >>> 48 ≠ s.lnk.devid ∧ e.queue.isNone ∧ e.hold.isNone then 3
    else s.extentCheck st.secure st.secure st.fn a k
  if chk ≠ 0 then ([], chk, if chk = 4 then s.deny st.secure st.fn a else s) else s.ctrlRead (st.who n) a k

/-- Count an outcome (Table 12.11). -/
def State.countOutcome (s : State) (o : Nat) : State :=
  let s := if o ≤ 2 then s.tick1 ingFrames else s
  match o with
  | 1 => s.tick1 ingShort
  | 2 => s.tick1 ingLong
  | 3 | 4 => s.tick1 ingMissing
  | 5 => s.tick1 ingCorrupt
  | _ => s

/-- The engine finishes an entry: the frame, then its record; CONS of its queue and its read hold are settled. -/
def State.endEntry (s : State) (n i : Nat) (st : Stage) (tab : List Byte) (e : IngEntry) : State :=
  let b := tabEntry tab i
  let (p, outcome, s) : Option Pix × Nat × State := match e.outcome with
    | some o => (none, o, s)
    | none =>
      let (bs, status, s) := s.readFrame n st e
      if status ≠ 0 then (none, 5, s.meet (some n) status)
      else
        let h := (dTd st.desc 2).h
        (some ⟨e.pix, e.lines, e.pitch, (dTd st.desc 2).w, bs⟩, if e.lines < h then 1 else if h < e.lines then 2 else 0, s)
  let s := match e.queue with
    | none => s
    | some q =>
      let (c, s) := s.readFor (st.who n) (q % 2 ^ 48 + 0x80) 4 0
      s.writeCons (st.who n) q ((ofLE c + 1) % 2 ^ 32)
  let s := match e.hold with | some (k, g, f, p) => s.releaseHold k g f p | none => s
  let s := s.writeFrame n st b tab p
  let s := s.writeRec n st tab i e outcome
  (s.setEntry n i { e with st := .ended, outcome := some outcome, queue := none, hold := none }).countOutcome outcome

def execIngestEntryComplete (slot entry : Nat) (s : State) : Out :=
  answer s (match s.stage slot, s.ing.runs.find slot with
    | some st, some r => match r.entries[entry]? with
      | none => s
      | some e => match e.st with
        | .busy _ => (s.endEntry slot entry st r.table e).serveAll.lookAll
        | _ => s
    | _, _ => s)

/-! ### Completion (R345, R347, R348) -/

/-- Whether a sample is valid: all of its entries DONE, SHORT or LONG. -/
def IngRun.valid (r : IngRun) (smp : Nat) : Bool :=
  r.entries.zipIdx.all (fun e => entN (tabEntry r.table e.2) != smp || decide (e.1.outcome.getD 6 ≤ 2))

/-- Converted frames of invalid samples are zeroed, and their records rewritten after. -/
def State.zeroInvalid (s : State) (n : Nat) (st : Stage) (r : IngRun) : State :=
  r.entries.zipIdx.foldl (fun s e =>
    let b := tabEntry r.table e.2
    if e.1.outcome.getD 6 ≤ 2 ∧ !r.valid (entN b) then
      (s.writeFrame n st b r.table none).writeRec n st r.table e.2 e.1 (e.1.outcome.getD 6)
    else s) s

/-- The batch validity mask (R347). -/
def State.writeMask (s : State) (n : Nat) (st : Stage) (r : IngRun) : State :=
  if dBatch st.desc = 0 then s
  else
    let k := (dTd st.desc 2).n
    let v := ((List.range k).map (fun i => if r.valid i then 2 ^ i else 0)).sum
    s.writeFor (st.who n) (dBatch st.desc % 2 ^ 48) (toLE (ceilDiv k 8) v) 0

/-- The status the outcomes give (R348). -/
def IngRun.status (r : IngRun) : Nat :=
  let has := fun o => r.entries.any (fun e => e.outcome == some o)
  if has 4 || has 5 then 0x0B else if has 3 then 0x0A else 0

def State.endIngest (s : State) (n own : Nat) : State :=
  let holds := ((s.ing.runs.get ⟨[], []⟩ n).entries.filterMap IngEntry.hold)
  let s := holds.foldl (fun s h => s.releaseHold h.1 h.2.1 h.2.2.1 h.2.2.2) s
  ({ s with ing := { s.ing with runs := s.ing.runs.del n } }).finishWorst n own

def execIngestComplete (slot : Nat) (s : State) : Out :=
  answer s (match s.stage slot, s.ing.runs.find slot with
    | some st, some r =>
      if !r.entries.all (fun e => e.st == .ended) then s
      else if st.ending then s.endIngest slot s.endedBy
      else
        (((s.zeroInvalid slot st r).writeMask slot st r).endIngest slot r.status).serveAll.lookAll
    | _, _ => s)

/-! ### PYRAMID (R349-R351) -/

/-- An exact sum of weighted terms, rounded once to odd; `div` divides first (AREA). Terms that are all −0 sum to −0 (spec/02 R42). -/
def weighted (ts : List (Fp × Fp)) (div : Nat) : Fp × Flags :=
  if ts.any (fun t => t.2.isNan) then (.nan, 0)
  else
    let ps := ts.map (fun t => Fp.mulX t.1 t.2)
    let f := ps.foldl (fun (f : Flags) p => f ||| p.2) 0
    let (x, f) := (ps.drop 1).foldl (fun (acc : Fp × Flags) p =>
      let (y, h) := Fp.addX acc.1 p.1
      (y, acc.2 ||| h)) ((ps.head?.map Prod.fst).getD .zero, f)
    if div = 1 then let (y, g) := odd53 x; (y, f ||| g)
    else let (y, g) := meanOdd53 x div; (y, f ||| g)

/-- A plane of values: rows by columns, indices outside clamped to the edge. -/
def planeAt (h w : Nat) (vs : List Fp) (y x : Int) : Fp :=
  vs.getD (min y.toNat (h - 1) * w + min x.toNat (w - 1)) .zero

/-- Source coordinate of a BILINEAR output (R350): first index, and the fraction in units of 2^-16. -/
def bilinearAt (y inn out : Nat) : Nat × Nat :=
  let num : Int := (2 * y + 1 : Nat) * (inn : Int) - out
  let den : Nat := 2 * out
  let top : Int := (inn - 1 : Nat) * (den : Int)
  let s := (max 0 (min num top)).toNat
  let i := s / den
  let r := (s % den) * 65536
  let q := r / den; let rem := r % den
  (i, if den < 2 * rem ∨ (2 * rem = den ∧ q % 2 = 1) then q + 1 else q)

/-- Level 0 at (y, x) from a plane of TD0. -/
def level0 (d : List Byte) (h w : Nat) (vs : List Fp) (h0 w0 y x : Nat) : Fp × Flags :=
  match op1 d 0xE2 with
  | 1 =>
    let (i, f) := bilinearAt y h h0
    let (j, g) := bilinearAt x w w0
    let wt := fun (a b : Nat) => Fp.fin false (a * b) (-32)
    let at_ := fun (a b : Nat) => planeAt h w vs a b
    weighted [(wt (65536 - f) (65536 - g), at_ i j), (wt (65536 - f) g, at_ i (j + 1)),
      (wt f (65536 - g), at_ (i + 1) j), (wt f g, at_ (i + 1) (j + 1))] 1
  | 2 =>
    let bh := h / h0; let bw := w / w0
    weighted ((List.range (bh * bw)).map (fun k => (.fin false 1 0, planeAt h w vs (y * bh + k / bw : Nat) (x * bw + k % bw : Nat))))
      (bh * bw)
  | _ => (planeAt h w vs y x, 0)

/-- Level k at (y, x) from the plane of level k - 1. -/
def levelNext (d : List Byte) (h w : Nat) (vs : List Fp) (y x : Nat) : Fp × Flags :=
  if op1 d 0xE1 = 0 then
    weighted ([(0, 0), (0, 1), (1, 0), (1, 1)].map (fun (p : Nat × Nat) =>
      (.fin false 1 (-2), planeAt h w vs (2 * y + p.1 : Nat) (2 * x + p.2 : Nat)))) 1
  else
    let ws : List Nat := [1, 4, 6, 4, 1]
    weighted ((List.range 25).map (fun k =>
      (.fin false (ws.getD (k / 5) 0 * ws.getD (k % 5) 0) (-8),
        planeAt h w vs ((2 * y + k / 5 : Nat) - (2 : Int)) ((2 * x + k % 5 : Nat) - (2 : Int))))) 1

/-- Values of TD0 in accumulator form, in lexicographic order. -/
def State.pyrSource (s : State) (n : Nat) (st : Stage) : List Word64 × State :=
  let a := dTd st.desc 0
  (List.range a.rows).foldl (fun acc r =>
    let (xs, s) := acc.2.readElems (st.who n) a r 0 a.c
    (acc.1 ++ xs.map (fun x => toAcc (widenFp a.fmt x).1), s)) ([], s)

/-- Compute a level from the values of TD0 or of the level before: N, T, C planes of `h` by `w` into `h'` by `w'`. -/
def pyrLevel (d : List Byte) (k n c h w h' w' : Nat) (vs : List Word64) : List (Fp × Flags) :=
  let planes := (List.range n).map (fun i => (List.range c).map (fun ch =>
    (List.range (h * w)).map (fun j => ofAcc (vs.getD ((i * h * w + j) * c + ch) 0))))
  (List.range (n * h' * w' * c)).map (fun e =>
    let ch := e % c; let x := e / c % w'; let y := e / (c * w') % h'; let i := e / (c * w' * h')
    let plane := (planes.getD i []).getD ch []
    if k = 0 then level0 d h w plane h' w' y x else levelNext d h w plane y x)

/-- The pyramid engine of the hub that is home to TD0's base. -/
def pyrEngine (d : List Byte) : Nat := if (dTd d 0).lbase < 2 ^ 47 then hubOf (dTd d 0).lbase else 0

/-- A stage waits for the pyramid engine of a hub die. -/
def State.pyrWaits (s : State) (g n : Nat) (st : Stage) : Bool :=
  st.phase == .running && st.opcode == 0x11 && !st.ending && pyrEngine st.desc == g && (s.ing.pyrs.find n).isNone

/-- It is the one the engine serves next: of the highest class, and of these the first admitted (R333; spec/06 R164). -/
def State.pyrTurn (s : State) (g n : Nat) (st : Stage) : Bool :=
  s.pyrWaits g n st && s.dsp.stages.all (fun p => !s.pyrWaits g p.1 p.2 || decide (p.2.cls < st.cls)
    || (p.2.cls == st.cls && decide (st.admOrder ≤ p.2.admOrder)))

def execPyramidStart (slot : Nat) (s : State) : Out :=
  answer s (match s.stage slot with
    | none => s
    | some st =>
      let g := pyrEngine st.desc
      if !s.pyrTurn g slot st ∨ s.ing.pyrs.any (fun p => p.2.engine == g) then s
      else ({ s with ing := { s.ing with pyrs := s.ing.pyrs.put slot { engine := g } } }).knock (202 + 6 * g))

/-- Write a level: codes of its values, zeros for invalid samples. -/
def State.writeLevel (s : State) (n : Nat) (st : Stage) (o : TDesc) (vs : List Fp) : State :=
  (List.range o.rows).foldl (fun s r =>
    let (cs, fl) : List Nat × Flags :=
      if !st.valid (o.sampleOf r) then (List.replicate o.c 0, 0)
      else ((vs.drop (r * o.c)).take o.c).foldl (fun acc v =>
        let (c, f) := convFp o.fmt (ingConv st.desc) 0 v
        (acc.1 ++ [c], acc.2 ||| f)) ([], 0)
    (s.writeElems (st.who n) o r 0 cs).raise n fl) s

def State.endPyramid (s : State) (n own : Nat) : State :=
  ({ s with ing := { s.ing with pyrs := s.ing.pyrs.del n } }).finishWorst n own

def execPyramidLevelComplete (slot : Nat) (s : State) : Out :=
  answer s (match s.stage slot, s.ing.pyrs.find slot with
    | some st, some r =>
      let d := st.desc; let a := dTd d 0; let o := levelTd st.table r.level
      let (vs, s) := if r.level = 0 then s.pyrSource slot st else (r.held, s)
      let (h, w) := if r.level = 0 then (a.h, a.w) else levelSize d (r.level - 1)
      let out := pyrLevel d r.level (a.n * a.t) a.c h w o.h o.w vs
      let ok := fun (e : Nat) => st.valid (e / (a.t * o.h * o.w * a.c))
      let fl := out.zipIdx.foldl (fun f x => if ok x.2 then f ||| x.1.2 else f) (0 : Flags)
      let s := ((s.raise slot fl).writeLevel slot st o (out.map Prod.fst)).bump pyrElems out.length
      let r' : PyrRun := { r with level := r.level + 1, held := out.map (fun x => toAcc x.1) }
      let s := { s with ing := { s.ing with pyrs := s.ing.pyrs.put slot r' } }
      if st.ending then s.endPyramid slot s.endedBy
      else if r.level + 1 = op1 d 0xE0 then s.endPyramid slot 0 else s
    | _, _ => s)

end Sys2Proof.Machine
end

