-- ==== Sys2Proof/Machine/Pace.lean ====
section
/-!
DEFINITION. PACE: channels, the raster, commits, latches and copies (spec/13 R370-R375).
-/
namespace Sys2Proof.Machine

def State.chan (s : State) (c : Nat) : PaceChan := s.pace.get {} c
def State.setChan (s : State) (c : Nat) (x : PaceChan) : State := { s with pace := s.pace.put c x }

/-- S(f, l) (R371). -/
def PaceChan.lineTime (x : PaceChan) (f l : Nat) : Nat := x.start + (f * x.total + l) * x.num / (x.den * x.total)

/-- B_f (R371). -/
def PaceChan.latch (x : PaceChan) (f : Nat) : Nat := x.lineTime f x.active

/-- The least frame whose latch comes after a time (R372). -/
def PaceChan.firstFrame (x : PaceChan) (t : Nat) : Nat :=
  if t < x.start then 0 else ceilDiv (ceilDiv ((t - x.start + 1) * x.den * x.total) x.num - x.active) x.total

/-- A commit completes STALE_DROPPED (R374). -/
def State.staleCommit (s : State) (c n : Nat) : State := (s.finishWorst n 0x0A).tick1 (paceCtr c paceDropped)

/-- The pending commit of a channel is dropped. -/
def State.dropPending (s : State) (c : Nat) : State :=
  match (s.chan c).pending with
  | none => s
  | some n => (s.setChan c { s.chan c with pending := none }).staleCommit c n

/-- So is one that waits for the latch after. -/
def State.dropLater (s : State) (c : Nat) : State :=
  match (s.chan c).later with
  | none => s
  | some n => (s.setChan c { s.chan c with later := none }).staleCommit c n

def State.dropCommit (s : State) (c : Nat) : State := (s.dropPending c).dropLater c

/-- A channel without the commit of a stage. -/
def PaceChan.without (x : PaceChan) (n : Nat) : PaceChan :=
  { x with pending := if x.pending = some n then none else x.pending, later := if x.later = some n then none else x.later }

/-- A channel stops (R374; spec/16 R440). -/
def State.stopChan (s : State) (c : Nat) : State :=
  let s := s.dropCommit c
  s.setChan c { s.chan c with running := false }

/-- A commit waits for its latch or is being copied. -/
def PaceChan.took (x : PaceChan) (n : Nat) : Bool := x.pending == some n || x.later == some n || x.copies.any (fun k => k.stage == some n)

/-- The stages of a channel are taken in admission order (R372). -/
def State.paceTurn (s : State) (n : Nat) (st : Stage) : Bool :=
  let c := op1 st.desc 0xE1
  st.phase == .running && st.opcode == 0x12 && !(s.chan c).took n
    && !(s.dsp.stages.any (fun p => (p.2.phase == .admitted || p.2.phase == .running) && p.2.opcode == 0x12
      && op1 p.2.desc 0xE1 == c && decide (p.2.admOrder < st.admOrder) && !(s.chan c).took p.1))

/-- A COMMIT or STOP comes from the other world (R370); a channel that no START has configured belongs to neither. -/
def PaceChan.foreign (x : PaceChan) (st : Stage) : Bool := x.num != 0 && x.secure != st.secure

def execPaceStart (slot : Nat) (s : State) : Out :=
  answer s (match s.stage slot with
    | none => s
    | some st =>
      let d := st.desc; let c := op1 d 0xE1
      if !s.paceTurn slot st ∨ op1 d 0xE0 ≠ 0 then s
      else
        let q := opAddr d 0xF6 % 2 ^ 48
        let (h, status, s) := s.ctrlRead (st.who slot) q 64
        let s := if status = 0 then s else s.meet (some slot) status
        match (if status = 0 then s.localQueue h else none) with
        | none => s.finishWorst slot 1
        | some (slots, size, base) =>
          let s := s.dropCommit c
          let x : PaceChan := { s.chan c with
            running := true, secure := st.secure, fn := st.fn, rep := bit (op1 d 0xE2) 0
            total := op2 d 0xE4, active := op2 d 0xE6, num := op4 d 0xE8, den := op2 d 0xEC
            start := if op8 d 0xEE = 0 then s.time else op8 d 0xEE
            queue := q, slots := slots, slotBytes := size, slotBase := base % 2 ^ 48, last := none }
          (s.setChan c { x with frame := x.firstFrame s.time }).finishWorst slot 0)

def execPaceCommit (slot : Nat) (s : State) : Out :=
  answer s (match s.stage slot with
    | none => s
    | some st =>
      let d := st.desc; let c := op1 d 0xE1; let x := s.chan c; let a := dTd d 0
      if !s.paceTurn slot st ∨ op1 d 0xE0 ≠ 1 then s
      else if x.foreign st then s.finishWorst slot 4
      else if !x.running then s.finishWorst slot 2
      else if x.slotBytes < 64 + a.h * roundUp a.c 64 then s.finishWorst slot 2
      else if x.latch x.frame ≤ s.time then     -- it waits for the latch after (R372)
        let s := s.dropLater c
        s.setChan c { s.chan c with later := some slot }
      else
        let s := s.dropCommit c
        s.setChan c { s.chan c with pending := some slot })

def execPaceStop (slot : Nat) (s : State) : Out :=
  answer s (match s.stage slot with
    | none => s
    | some st =>
      let c := op1 st.desc 0xE1
      if !s.paceTurn slot st ∨ op1 st.desc 0xE0 ≠ 2 then s
      else if (s.chan c).foreign st then s.finishWorst slot 4
      else (s.stopChan c).finishWorst slot 0)

/-- The requester a channel's engine is for a copy. -/
def PaceCopy.who (k : PaceCopy) : Requester := ⟨k.secure, k.fn, k.stage⟩

/-- The queue's PROD and CONS. -/
def State.prodCons (s : State) (who : Requester) (q : Nat) : Nat × Nat × State :=
  let (p, s) := s.readFor who (q + 0x40) 4 0
  let (c, s) := s.readFor who (q + 0x80) 4 0
  (ofLE p, ofLE c, s)

/-- The copy a latch begins: of the pending commit, whose TD0 is read now, or of the slot emitted last, in the shape of the last copy. -/
def State.newCopy (s : State) (x : PaceChan) : Option PaceCopy × State :=
  let shown := x.lineTime (x.frame + 1) 0
  match x.pending with
  | none => ((if x.rep then x.last else none).map (fun k => { k with stage := none, frame := x.frame, shown := shown }), s)
  | some n => match s.stage n with
    | none => (none, s)
    | some st =>
      let d := st.desc; let a := dTd d 0
      let (rows, s) := (List.range a.h).foldl (fun (acc : List (List Byte) × State) r =>
        let (b, s) := acc.2.readFor (st.who n) (a.rowAt r) a.c a.hint
        (acc.1 ++ [b], s)) ([], s)
      (some ⟨some n, x.frame, shown, rows, op2 d 0xE6, op2 d 0xE4, roundUp a.c 64, op1 d 0xE2, x.secure, x.fn, x.queue, x.slots,
        x.slotBytes, x.slotBase⟩, s)

/-- A latch at a full queue: the pending commit stays pending, unless one that arrived since has made it stale (R373, R374). -/
def State.overrun (s : State) (c : Nat) (x next : PaceChan) : State :=
  let s := match x.later, x.pending with
    | none, _ => s.setChan c { next with pending := x.pending }
    | some _, none => s.setChan c next
    | some _, some n => (s.setChan c next).staleCommit c n
  s.tick1 (paceCtr c paceOverrun)

/-- The latch of a channel's next raster frame (R373, R374). -/
def execPaceLatch (channel : Nat) (s : State) : Out :=
  answer s (
    let x := s.chan channel
    if !x.running then s
    else
      let ending := match x.pending with
        | some n => ((s.stage n).map Stage.ending).getD true
        | none => false
      let s := if ending then match x.pending with | some n => s.finishWorst n s.endedBy | none => s else s
      let x := if ending then { x with pending := none } else x
      let next := { x with frame := x.frame + 1, pending := x.later, later := none }
      if x.pending.isNone ∧ (x.rep = false ∨ x.last.isNone) then s.setChan channel next
      else
        let (prod, cons, s) := s.prodCons ⟨x.secure, x.fn, x.pending⟩ x.queue
        let busy := (x.copies.filter (fun k => k.queue == x.queue)).length
        if x.slots ≤ (prod + busy + 2 ^ 32 - cons) % 2 ^ 32 then s.overrun channel x next
        else match s.newCopy x with
          | (none, s) => s.setChan channel next
          | (some k, s) => s.setChan channel { next with copies := x.copies ++ [k], last := some k })

/-- The frame header of a copy (Table 12.5). -/
def PaceCopy.header (k : PaceCopy) : List Byte :=
  let b := toLE 8 k.shown ++ toLE 4 (k.frame + 1) ++ toLE 4 k.lines ++ toLE 4 k.width ++ toLE 4 k.pitch ++ toLE 1 k.pix
    ++ List.replicate 35 0#8
  b ++ toLE 4 (crc32c b)

/-- The rows of a copy into a slot at `at_`: those of its commit, or for a repeat those of the slot emitted last, at `src` (R374). -/
def State.copyRows (s : State) (k : PaceCopy) (at_ src : Nat) : State :=
  k.rows.zipIdx.foldl (fun s r =>
    let (b, s) := if k.stage.isSome then (r.1, s) else s.readFor k.who (src + 64 + r.2 * k.pitch) r.1.length 0
    s.writeFor k.who (at_ + 64 + r.2 * k.pitch) b 0) s

/-- A frame is emitted: rows, header, then PROD (R373). -/
def State.emitFrame (s : State) (c : Nat) (k : PaceCopy) (rest : List PaceCopy) : State :=
  let (prod, _, s) := s.prodCons k.who k.queue
  let at_ := k.slotBase + (prod % k.slots) * k.slotBytes
  let s := s.copyRows k at_ (s.chan c).lastAt
  let s := (s.writeFor k.who at_ k.header 0).writeFor k.who (k.queue + 0x40) (toLE 4 ((prod + 1) % 2 ^ 32)) 0
  let s := s.setChan c { s.chan c with copies := rest, lastAt := at_ }
  let s := s.tick1 (paceCtr c (if k.stage.isSome then paceEmitted else paceRepeated))
  if k.shown < s.time then s.tick1 (paceCtr c paceLate) else s

/-- The oldest copy of a channel is done; its commit completes (R373). -/
def execPaceCopyComplete (channel : Nat) (s : State) : Out :=
  answer s (match (s.chan channel).copies with
    | [] => s
    | k :: rest =>
      let s := s.emitFrame channel k rest
      match k.stage with
      | none => s
      | some n => s.finishWorst n (if ((s.stage n).map Stage.ending).getD false then s.endedBy else 0))

end Sys2Proof.Machine
end

