-- ==== Sys2Proof/Machine/Regions.lean ====
section
/-!
DEFINITION. Region descriptors: writes to REG_CTRL, REG_BASE and REG_SIZE through BAR0 and the dictionary, and clearing (spec/16
R432-R436).
-/
namespace Sys2Proof.Machine

/-- REG_CTRL of a descriptor (Table 16.2). -/
def Region.ctrl (r : Region) : Nat :=
  b2n r.valid * 2 ^ 31 + b2n r.secure * 2 ^ 30 + b2n r.shared * 2 ^ 29 + b2n r.clearing * 2 ^ 28 + r.owner * 2 ^ 16

/-- The RW bits of REG_CTRL. -/
def regCtrlRw : Word32 := 0xE07F0000#32

/-- The descriptor that a REG_CTRL word leaves, with base and size as held. -/
def Region.withCtrl (r : Region) (w : Nat) : Region :=
  { r with valid := bit w 31, secure := bit w 30, shared := bit w 29, owner := bits w 16 7 }

/-- The extent lies in the usable part of one range of Table 10.1. -/
def State.usable (s : State) (r : Region) : Bool :=
  let p := s.place r.lo
  decide (1 ≤ r.size) && p != .reserved && p != .host && s.place (r.hi - 1) == p

/-- The extent meets a spill area or another VALID descriptor. -/
def State.regionClash (s : State) (i : Nat) (r : Region) : Bool :=
  touches (s.mem.spillBase.map (fun b => (b, 1152 * 2 ^ 20))) r.lo (r.hi - r.lo)
    || s.sec.regions.any (fun p => p.1 != i && p.2.valid && decide (p.2.lo < r.hi) && decide (r.lo < p.2.hi))

/-- A key-value or frame-buffer pool extent lies in the extent. -/
def State.poolIn (s : State) (r : Region) : Bool :=
  touches ([s.kv.openPool.hbm, s.kv.openPool.g7, s.kv.secPool.hbm, s.kv.secPool.g7].map (fun e => (e.1, e.2 * s.kvFrame))
    ++ s.poolExtents) r.lo (r.hi - r.lo)

/-- Why a REG_CTRL write is refused (R433): a value out of range, or the state of the descriptor. -/
inductive RegRefusal where
  | range | state
deriving DecidableEq, Repr

/-- The refusal of a REG_CTRL write that would leave `new`, if any (R433). -/
def State.regRefusal (s : State) (i : Nat) (new : Region) : Option RegRefusal :=
  let old := s.region i
  if old.clearing then some .state
  else if (new.valid && (!s.usable new || s.regionClash i new)) || (decide (64 < new.owner) && new.owner != 0x41)
      || (new.shared && new.secure) then some .range
  else if (new.secure != old.secure || (old.valid && !new.valid) || (old.secure && new.owner != old.owner)) && s.poolIn old then
    some .state
  else none

/-- Extents beside a range that is taken out of them. -/
def cutRange (lo n : Nat) (es : List (Nat × Nat)) : List (Nat × Nat) :=
  es.flatMap (fun e => [(e.1, min e.2 (lo - e.1)), (max e.1 (lo + n), e.1 + e.2 - max e.1 (lo + n))].filter (fun x => x.2 != 0))

/-- The lines of a descriptor's extent pass to another world: what stands in memory was written under the other key (spec/10 R283). -/
def State.rekey (s : State) (r : Region) : State :=
  { s with mem := { s.mem with rekeyed := (r.lo, r.hi - r.lo) :: cutRange r.lo (r.hi - r.lo) s.mem.rekeyed } }

/-- Clearing begins: the Granary lines of the extent go without writeback (R436). -/
def State.startClearing (s : State) (i : Nat) : State :=
  let r := s.region i
  let s := s.rekey r
  let s := s.setRegion i { r with clearing := true }
  { s with mem := { s.mem with lines := s.mem.lines.filter (fun g => !(decide (r.lo ≤ g.line * 256) && decide (g.line * 256 < r.hi))) } }

/-- An accepted REG_CTRL write (R433, R436). -/
def State.applyRegion (s : State) (i : Nat) (new : Region) : State :=
  let old := s.region i
  let s := s.setRegion i new
  let s := if old.valid && !new.valid && !old.secure then s.rekey old else s
  if new.valid && (!old.valid || new.secure != old.secure || (old.secure && new.owner != old.owner)) then s.startClearing i else s

/-- A refused or ignored BAR0 write (R434); a meeting with a Secure descriptor is logged. -/
def State.regionRefused (s : State) (i addr : Nat) : State :=
  let s := { s with sec := { s.sec with regionErr := true } }.tick1 secRegionRefused
  if (s.region i).secure then s.log 0x0301 0 addr else s

def State.regionAccepted (s : State) : State := { s with sec := { s.sec with regionErr := false } }

/-- BAR0 address of descriptor `i` (R432). -/
def regionAddr (i : Nat) : Nat := 0x701000 + i / 64 * 0x1000 + i % 64 * 0x10

/-- A write to REG_CTRL through BAR0 (R433, R434). -/
def State.regCtrlWrite (s : State) (i : Nat) (view : View) (value : Word32) : State :=
  let old := s.region i
  let new := old.withCtrl (viewWrite view (BitVec.ofNat 32 old.ctrl) value regCtrlRw).toNat
  if old.secure ∨ new.secure ∨ (s.regRefusal i new).isSome then s.regionRefused i (regionAddr i)
  else (s.applyRegion i new).regionAccepted

def execRegCtrlWrite (descriptor : Nat) (view : View) (value : Word32) (s : State) : Out :=
  answer s (if s.hif.safeMode then s else s.regCtrlWrite descriptor view value)

/-- A write to REG_BASE or REG_SIZE through BAR0: taken while the descriptor is not VALID and Open. -/
def State.regExtentWrite (s : State) (i : Nat) (size : Bool) (view : View) (value : Word32) : State :=
  let r := s.region i
  if r.secure || r.valid then s.regionRefused i (regionAddr i + (if size then 8 else 4))
  else
    let w := (viewWrite view (BitVec.ofNat 32 (if size then r.size else r.base)) value 0x7FFFFFF#32).toNat
    (s.setRegion i (if size then { r with size := w } else { r with base := w })).regionAccepted

/-- A BAR0 word of a descriptor; zeros for a Secure one (R434). -/
def State.regionWord (s : State) (i k : Nat) : Nat :=
  let r := s.region i
  if r.secure then 0 else match k with
    | 0 => r.ctrl
    | 1 => r.base
    | 2 => r.size
    | _ => 0

/-- The last line of a clearing is written (R436): zeros, no poison, the event logged and counted (R451, R452). -/
def execRegionClearComplete (descriptor : Nat) (s : State) : Out :=
  answer s (
    let r := s.region descriptor
    if !r.clearing then s
    else
      let n := r.hi - r.lo
      let inside := fun (l : Nat) => decide (r.lo ≤ l * 256) && decide (l * 256 < r.hi)
      let s := s.setRegion descriptor { r with clearing := false }
      let m := s.mem
      let s := { s with mem := { m with
        cells := cellsZero m.cells r.lo n
        rekeyed := cutRange r.lo n m.rekeyed
        poison := m.poison.filter (fun l => !inside l)
        units := m.units.map (fun (u : Nat × MemUnit) => (u.1, { u.2 with poisonTable := u.2.poisonTable.filter (fun l => !inside l) })) } }
      let s := s.log 0x0302 descriptor n r.secure
      if r.secure then (s.bump secClearBytesS n).notifySecure else s.bump secClearBytes n)

end Sys2Proof.Machine
end

