-- ==== Sys2Proof/Machine/Video.lean ====
section
/-!
DEFINITION. VDEC and VENC: streams opened and closed, pictures output, frames encoded (spec/13 R353-R368). What the standards decide
is opaque (log 6).
-/
namespace Sys2Proof.Machine

/-! ### Opening (R354, R358-R360) -/

/-- The engine with the smallest load, ties to the lower number. -/
def leastLoad (load : Nat → Nat) : List Nat → Option Nat
  | [] => none
  | e :: es => match leastLoad load es with
    | none => some e
    | some g => if load e ≤ load g then some e else some g

/-- Engines of a kind not left fallow by an alternative: `per` on each hub die, the domain of the first at 200 + `off`. -/
def State.enginesOn (s : State) (per off : Nat) : List Nat :=
  (List.range (2 * per)).filter (fun g => s.pwr.doms.get .fallow (200 + 6 * (g / per) + off) != .heldOff)

/-- Declared load of a decode or encode engine. -/
def State.decLoad (s : State) (g : Nat) : Nat :=
  (s.vid.decs.map (fun p => if p.2.engine = g then p.2.maxW * p.2.maxH else 0)).sum
def State.encLoad (s : State) (g : Nat) : Nat :=
  (s.vid.encs.map (fun p => if p.2.engine = g then p.2.width * p.2.height else 0)).sum

/-- Runs of a world's pool in use, as (base, bytes). -/
def State.poolRuns (s : State) (secure : Bool) : List (Nat × Nat) :=
  (s.vid.decs.filter (fun p => p.2.secure == secure)).map (fun p => (p.2.base, p.2.frames.length * decFrameBytes p.2.maxW p.2.maxH))
    ++ (s.vid.held.filter (fun p => p.2.1 == secure)).map (fun p => (p.2.2.1, p.2.2.2.1))

/-- The lowest contiguous run of `n` bytes left in a pool. -/
def freeRun (pool : Nat × Nat) (used : List (Nat × Nat)) (n : Nat) : Option Nat :=
  (sortBy id (pool.1 :: used.map (fun u => u.1 + u.2))).find? (fun a =>
    decide (pool.1 ≤ a) && decide (a + n ≤ pool.1 + pool.2) && !touches used a n)

/-- The OPEN settings a codec works by. -/
def openBytes (d : List Byte) : List Byte := (d.drop 0xE1).take 3 ++ (d.drop 0xEC).take 4

/-- Bytes of a stream handle (R358). -/
def streamHandle (slot : Nat) (gen : Word32) : Nat := slot + 2 ^ 16 * gen.toNat

/-- A new stream's record: header and empty ring (R359). -/
def State.newRecord (s : State) (who : Requester) (record handle : Nat) : State :=
  (s.writeFor who (record + 64) (List.replicate 8192 0#8) 0).writeHead who record handle 0 0 0

def execVdecOpen (slot : Nat) (s : State) : Out :=
  answer s (match s.stage slot with
    | none => s
    | some st =>
      let d := st.desc; let w := op2 d 0xEC; let h := op2 d 0xEE; let k := op1 d 0xF0
      if st.phase ≠ .running ∨ st.opcode ≠ 0x0E ∨ op1 d 0xE0 ≠ 0 then s
      else
        let pool := if st.secure then s.framePools.2 else s.framePools.1
        match leastLoad s.decLoad (s.enginesOn 4 0), (List.range 256).find? (fun i => (s.vid.decs.find i).isNone),
            freeRun pool (s.poolRuns st.secure) (k * decFrameBytes w h) with
        | some g, some i, some base =>
          let x : DecStream := { secure := st.secure, fn := st.fn, engine := g, autoRelease := bit (op1 d 0xE2) 1
                                 hevc := op1 d 0xE1 == 1, filmGrain := bit (op1 d 0xE2) 0, maxW := w, maxH := h
                                 base := base, record := opAddr d 0xF6 % 2 ^ 48, frames := List.replicate k {}, fed := openBytes d }
          (({ s with vid := { s.vid with decs := s.vid.decs.put i x } }).newRecord (st.who slot) x.record
            (streamHandle i (s.vid.decGen.get 0 i))).finishWorst slot 0
        | _, _, _ => s.finishWorst slot 3)

/-! ### DECODE, RELEASE, CLOSE -/

/-- The stream of a VDEC stage whose turn has come: its slot, or the status of a bad handle. -/
def State.decOwner (s : State) (st : Stage) : Option Bool := (s.decStream (vidHandle st.desc)).map (fun p => p.2.secure)

def execVdecDecode (slot : Nat) (s : State) : Out :=
  answer s (match s.stage slot with
    | none => s
    | some st =>
      if st.phase ≠ .running ∨ st.opcode ≠ 0x0E ∨ op1 st.desc 0xE0 ≠ 1 ∨ (s.vid.decRuns.find slot).isSome ∨ !s.vidTurn st then s
      else
        let bad := handleStatus (s.decOwner st) st.secure
        if bad ≠ 0 then s.finishWorst slot bad
        else
          let r : DecRun := { stream := bits (vidHandle st.desc) 0 16 }
          ({ s with vid := { s.vid with decRuns := s.vid.decRuns.put slot r } }).serveAll.lookAll)

/-- Clear the OUT marks of pictures numbered below `p`. -/
def DecStream.release (x : DecStream) (p : Nat) : DecStream :=
  { x with frames := x.frames.map (fun f => { f with outs := f.outs.filter (fun k => decide (p ≤ k)) })
           pics := x.pics.filter (fun k => decide (p ≤ k.number)) }

def execVdecRelease (slot : Nat) (s : State) : Out :=
  answer s (match s.stage slot with
    | none => s
    | some st =>
      if st.phase ≠ .running ∨ st.opcode ≠ 0x0E ∨ op1 st.desc 0xE0 ≠ 2 ∨ !s.vidTurn st then s
      else
        let bad := handleStatus (s.decOwner st) st.secure
        if bad ≠ 0 then s.finishWorst slot bad
        else match s.decStream (vidHandle st.desc) with
          | none => s
          | some (i, x) =>
            (({ s with vid := { s.vid with decs := s.vid.decs.put i (x.release (op4 st.desc 0xF2)) } }).endVdec slot i st
              0).serveAll.lookAll)

/-- A decode stream closes: waiting entries end MISSING, its slot is free with a new generation, its frames return to the pool
when no read hold is left (R360, R361). -/
def State.closeDec (s : State) (i : Nat) : State :=
  let gen := s.vid.decGen.get 0 i
  let s := s.missAll (streamHandle i gen)
  match s.vid.decs.find i with
  | none => s
  | some x =>
    let holds := (x.frames.map VFrame.reads).sum
    let v := s.vid
    { s with vid := { v with
        decs := v.decs.del i
        decGen := v.decGen.put i (gen + 1)
        held := if holds = 0 then v.held
          else v.held.put (i, gen) (x.secure, x.base, x.frames.length * decFrameBytes x.maxW x.maxH, holds) } }

def execVdecClose (slot : Nat) (s : State) : Out :=
  answer s (match s.stage slot with
    | none => s
    | some st =>
      if st.phase ≠ .running ∨ st.opcode ≠ 0x0E ∨ op1 st.desc 0xE0 ≠ 3 ∨ !s.vidTurn st then s
      else
        let bad := handleStatus (s.decOwner st) st.secure
        if bad ≠ 0 then s.finishWorst slot bad
        else
          let i := bits (vidHandle st.desc) 0 16
          (s.endVdec slot i st 0).closeDec i)

/-! ### Output of a picture (R363, R364) -/

/-- A stream's next picture is output (R363): its OUT mark, its number and its entry. A picture that no frame holds takes a free one
as mid-grey, marked ERROR (log 68). -/
def State.outputPicture (s : State) (n : Nat) (st : Stage) (r : DecRun) (x : DecStream) : State :=
  let k := r.shown - r.left
  let num := Config.shownPic r.before r.unit k
  let holds := (List.range x.frames.length).find? (fun i => !(x.frames.getD i {}).free && (x.frames.getD i {}).pic == num)
  let f := holds.getD (((List.range x.frames.length).find? (fun i => (x.frames.getD i {}).free)).getD 0)
  let blank : VFrame := { pic := num, width := x.maxW, height := x.maxH, err := true, cropW := x.maxW, cropH := x.maxH }
  let y := if holds.isSome then x.frames.getD f {} else { blank with outs := (x.frames.getD f {}).outs, reads := (x.frames.getD f {}).reads }
  let addr := x.frameAt f
  let s := if holds.isSome then s
    else (pictureRows (decPitch x.maxW false) addr x.maxW x.maxH 1 (greyByte false)).foldl (fun s row => s.writeRaw row.1 row.2) s
  let err : Bool := y.err || r.cut
  let p : VPicture := ⟨x.count, f, y.width, y.height, y.tenBit, err, s.time⟩
  let x' := { x.setFrame f { y with outs := y.outs ++ [x.count] } with pics := x.pics ++ [p], count := x.count + 1 }
  let x' := if r.left = 1 then x'.endUnit r else x'
  let r' := { r with left := r.left - 1, error := r.error || err }
  let s := { s with vid := { s.vid with decs := s.vid.decs.put r.stream x', decRuns := s.vid.decRuns.put n r' } }
  let flags := b2n y.key + 2 * b2n err + 4 * b2n y.grain
  let s := s.writeEnt (st.who n) x.record x.count
    (toLE 4 x.count ++ toLE 1 flags ++ toLE 1 (if y.tenBit then 5 else 4) ++ toLE 2 y.width ++ toLE 2 y.height ++ toLE 2 y.cropW
      ++ toLE 2 y.cropH ++ toLE 2 0 ++ toLE 8 (s.lnk.devid * 2 ^ 48 + addr) ++ toLE 4 (decPitch x.maxW y.tenBit))
  let s := s.tick1 vdPictures
  if err then s.tick1 vdErrorPictures else s

def execDecodePictureOutput (slot : Nat) (s : State) : Out :=
  answer s (match s.stage slot, s.vid.decRuns.find slot with
    | some st, some r => match s.vid.decs.find r.stream with
      | none => s
      | some x =>
        if r.left = 0 then s
        else
          let s := s.outputPicture slot st r x
          let s := if r.left = 1 ∧ st.ending then s.endDecode slot s.endedBy else s
          s.serveAll.lookAll
    | _, _ => s)

/-- VID_POOL_WAIT_US has passed for a stream that waits for a frame (R362). -/
def execVidPoolWaitTimeout (slot : Nat) (s : State) : Out :=
  answer s (match s.vid.decRuns.find slot with
    | some r => if r.waitSince.isSome then (s.endDecode slot 0x0B).serveAll else s
    | none => s)

/-! ### Encoding (R357, R365-R368) -/

def execVencOpen (slot : Nat) (s : State) : Out :=
  answer s (match s.stage slot with
    | none => s
    | some st =>
      let d := st.desc
      if st.phase ≠ .running ∨ st.opcode ≠ 0x0F ∨ op1 d 0xE0 ≠ 0 then s
      else match leastLoad s.encLoad (s.enginesOn 2 1), (List.range 64).find? (fun i => (s.vid.encs.find i).isNone) with
        | some g, some i =>
          let x : EncStream := { secure := st.secure, fn := st.fn, engine := g, cbr := bit (op1 d 0xE1) 0, tenBit := bit (op1 d 0xE1) 2
                                 bt2020 := bit (op1 d 0xE1) 3, qp := op1 d 0xE3, width := op2 d 0xEC, height := op2 d 0xEE
                                 keyInterval := op2 d 0xF0, target := op4 d 0xF2, record := opAddr d 0xF6 % 2 ^ 48
                                 qNext := op1 d 0xE3 }
          (({ s with vid := { s.vid with encs := s.vid.encs.put i x } }).newRecord (st.who slot) x.record
            (streamHandle i (s.vid.encGen.get 0 i))).finishWorst slot 0
        | _, _ => s.finishWorst slot 3)

/-- The encode stream a handle names. -/
def State.encStream (s : State) (h : Nat) : Option (Nat × EncStream) :=
  match s.vid.encs.find (bits h 0 16) with
  | none => none
  | some x => if (s.vid.encGen.get 0 (bits h 0 16)).toNat = bits h 16 32 then some (bits h 0 16, x) else none

/-- A VENC stage of a stream completes: the header is rewritten (R359). -/
def State.endVenc (s : State) (n i : Nat) (st : Stage) (own : Nat) : State :=
  match s.vid.encs.find i with
  | none => s.finishWorst n own
  | some x => (s.writeHead (st.who n) x.record (streamHandle i (s.vid.encGen.get 0 i)) x.count x.units x.bytes).finishWorst n own

/-- Encode stages of an engine's streams that wait to code their next frame, in the order it serves them (R353). -/
def State.encQueue (s : State) (g : Nat) : List (Nat × EncRun) :=
  let last := s.vid.encLast.get 63 g
  let mine := s.vid.encRuns.filter (fun p => match s.vid.encs.find p.2.stream with
    | some x => x.engine == g && (p.2.coding.isSome || !((s.stage p.1).map Stage.ending).getD false)
    | none => false)
  sortBy (fun (p : Nat × EncRun) => 7 - ((s.stage p.1).map Stage.cls).getD 0)
    (sortBy (fun (p : Nat × EncRun) => (p.2.stream + 63 - last) % 64) mine)

/-- Whether the next frame of a stream is a key frame (R368). -/
def EncStream.keyDue (x : EncStream) (r : EncRun) : Bool :=
  x.count == 0 || (x.keyInterval != 0 && decide (x.keyInterval ≤ x.sinceKey)) || (r.force && r.frame == 0) || x.keyReq

/-- An encode engine that codes nothing begins a frame; its key request, if any, is taken. -/
def State.serveEnc (s : State) (g : Nat) : State :=
  let q := s.encQueue g
  if q.any (fun p => p.2.coding.isSome) then s
  else match q.head? with
    | none => s
    | some (n, r) => match s.vid.encs.find r.stream with
      | none => s
      | some x =>
        let v := s.vid
        ({ s with vid := { v with
            encRuns := v.encRuns.put n { r with coding := some (x.keyDue r, x.keyReq) }
            encs := v.encs.put r.stream { x with keyReq := false }
            encLast := v.encLast.put g r.stream } }).knock (201 + 6 * (g / 2))

def execVencEncode (slot : Nat) (s : State) : Out :=
  answer s (match s.stage slot with
    | none => s
    | some st =>
      if st.phase ≠ .running ∨ st.opcode ≠ 0x0F ∨ op1 st.desc 0xE0 ≠ 1 ∨ (s.vid.encRuns.find slot).isSome ∨ !s.vidTurn st then s
      else match s.encStream (vidHandle st.desc) with
        | none => s.finishWorst slot 2
        | some (i, x) =>
          if x.secure ≠ st.secure then s.finishWorst slot 4
          else if (dTd st.desc 0).h ≠ x.height ∨ (dTd st.desc 0).w ≠ x.width then s.finishWorst slot 2     -- opened after check 4 (R365)
          else
            let r : EncRun := { stream := i, force := bit (op1 st.desc 0xE2) 0 }
            ({ s with vid := { s.vid with encRuns := s.vid.encRuns.put slot r } }).serveEnc x.engine)

/-- R′, G′, B′ of a pixel clamped to [0, 1]; NaN becomes 0 and sets INVALID (R365, step 1). -/
def encChannel (f : Fmt) (v : Nat) : FF :=
  if f.isInt then ffDiv (ffInt v) (ffInt 255)
  else
    let x := widenFp f v
    if x.1.isNan then (.zero, flagInvalid) else clamp01 x

/-- Y′, Cb, Cr of a pixel (R365, step 2). -/
def encYcc (m : Nat) (p : List FF) : FF × FF × FF :=
  let r := p.getD 0 (.zero, 0); let g := p.getD 1 (.zero, 0); let b := p.getD 2 (.zero, 0)
  let y := ffAdd (ffAdd (ffMul (kr m) r) (ffMul (kg m) g)) (ffMul (kb m) b)
  (y, ffDiv (ffSub b y) (kb2 m), ffDiv (ffSub r y) (kr2 m))

/-- A code of `n` bits from a base, a scale and a value (R365, step 4). -/
def encCode (d : List Byte) (n base scale : Nat) (v : FF) : Nat × Flags :=
  let x := ffMul (ffAdd (ffInt base) (ffMul (ffInt scale) v)) (ffInt (2 ^ (n - 8)))
  let (c, f) := convFp .int32 (engineConv d true) 0 x.1
  (c, x.2 ||| f)

/-- The codes of a frame, luma then interleaved chroma, with the flags of the conversion: the pixels of TD0 in order. -/
def encCodes (d : List Byte) (x : EncStream) (ps : List (List FF)) : List Nat × Flags :=
  let n := if x.tenBit then 10 else 8
  let ycc := ps.map (encYcc (b2n x.bt2020))
  let zero : FF := (.zero, 0)
  let luma := ycc.map (fun p => encCode d n 16 219 p.1)
  let block := fun (pick : FF × FF × FF → FF) (i j : Nat) =>
    let at_ := fun (y z : Nat) => pick (ycc.getD ((2 * i + y) * x.width + 2 * j + z) (zero, zero, zero))
    let sum := ffAdd (ffAdd (ffAdd (at_ 0 0) (at_ 0 1)) (at_ 1 0)) (at_ 1 1)
    encCode d n 128 224 (ffMul (.fin false 1 (-2), 0) sum)
  let chroma := (List.range (x.height / 2 * (x.width / 2))).flatMap (fun k =>
    let i := k / (x.width / 2); let j := k % (x.width / 2)
    [block (fun p => p.2.1) i j, block (fun p => p.2.2) i j])
  let all := luma ++ chroma
  (all.map Prod.fst, all.foldl (fun f c => f ||| c.2) 0)

/-- The index of the next frame (R366): the base index adjusted by LENGTH / TARGET. -/
def nextBase (x : EncStream) (len : Nat) : Nat :=
  if !x.cbr then x.qp
  else
    let t := x.target
    let q := if 5 * t < 4 * len then x.qNext + 8
      else if 17 * t < 16 * len then x.qNext + 4
      else if 2 * len < t then x.qNext - 8
      else if 5 * len < 4 * t then x.qNext - 4
      else x.qNext
    max 1 (min 255 q)

/-- The index a frame is coded with. -/
def EncStream.frameIndex (x : EncStream) (key : Bool) : Nat := if key then max 1 (x.qNext - 24) else x.qNext

/-- Codes of frame `t` of TD0, read now. -/
def State.encFrame (s : State) (n : Nat) (st : Stage) (x : EncStream) (t : Nat) : List Nat × Flags × State :=
  let a := dTd st.desc 0
  let k := a.h * a.w
  let (ps, s) := (List.range k).foldl (fun (acc : List (List FF) × State) j =>
    let (vs, s) := acc.2.readElems (st.who n) a (t * k + j) 0 3
    (acc.1 ++ [vs.map (encChannel a.fmt)], s)) ([], s)
  let (cs, f) := encCodes st.desc x ps
  (cs, f, s)

/-- End an ENCODE: the header names the frames coded and the bytes written. PARTIAL stands before POISON_READ (R367). -/
def State.endEncode (s : State) (n own : Nat) : State :=
  match s.stage n, s.vid.encRuns.find n with
  | some st, some r =>
    let encs := match s.vid.encs.find r.stream with
      | some x => s.vid.encs.put r.stream { x with units := r.frame, bytes := r.bytes }
      | none => s.vid.encs
    let s := { s with vid := { s.vid with encs := encs, encRuns := s.vid.encRuns.del n } }
    let s := if own = 0x0B then s.setStage n { st with met := st.met.filter (fun m => m == 3 || m == 4) } else s
    s.endVenc n r.stream st own
  | _, _ => s

/-- Tile columns by width, in one tile row (Table 13.2). -/
def tileColumns (w : Nat) : Nat := if w ≤ 2048 then 1 else if w ≤ 4096 then 2 else 4

/-- What the sequence header signals (R365, Table 13.2): size, bit depth, 4:2:0, limited range, the matrix with its primaries and
transfer characteristics, an unknown chroma sample position. -/
def EncStream.signals (x : EncStream) : List Nat :=
  [x.width, x.height, if x.tenBit then 10 else 8, 1, 0, if x.bt2020 then 2020 else 709, 0]

/-- Settings of a frame: size, bit depth, tile columns, quantiser index, key. -/
def EncStream.frameSettings (x : EncStream) (q : Nat) (key : Bool) : List Nat :=
  [x.width, x.height, if x.tenBit then 10 else 8, tileColumns x.width, q, b2n key]

/-- The references of a frame (Table 13.2): LAST, LAST2 and GOLDEN; a key frame has none. -/
def EncStream.refsFor (x : EncStream) (key : Bool) : List (List Byte) := if key then [] else [x.lastRef, x.last2Ref, x.golden]

/-- A complete temporal unit (R357, R367): the sequence header stands in every key unit. -/
def EncStream.unitOf (x : EncStream) (q : Nat) (key : Bool) (codes : List Byte) : List Byte :=
  Config.delimiter ++ (if key then Config.sequenceHeader x.signals else [])
    ++ Config.codedFrame (x.frameSettings q key) (x.refsFor key) codes

/-- The frame in coding is written as one unit of TD2, or does not fit and ends the stage. -/
def State.writeUnit (s : State) (n : Nat) (st : Stage) (r : EncRun) (x : EncStream) (key req : Bool) : State :=
  let (cs, fl, s) := s.encFrame n st x r.frame
  let q := x.frameIndex key
  let codes := cs.flatMap (toLE (if x.tenBit then 2 else 1))
  let unit := x.unitOf q key codes
  let o := dTd st.desc 2
  if o.c < r.bytes + unit.length then
    ({ s with vid := { s.vid with encs := s.vid.encs.put r.stream { x with keyReq := x.keyReq || req } } }).endEncode n 0x0B
  else
    let forced := req || (r.force && r.frame == 0)
    let x' := { x with
      count := x.count + 1
      qNext := nextBase x unit.length
      sinceKey := if key then 1 else x.sinceKey + 1
      lastRef := Config.codedRecon (x.frameSettings q key) (x.refsFor key) codes, last2Ref := x.lastRef
      golden := if key ∨ x.sinceKey % 16 = 0 then Config.codedRecon (x.frameSettings q key) (x.refsFor key) codes else x.golden }
    let r' := { r with frame := r.frame + 1, bytes := r.bytes + unit.length, coding := none }
    let s := (s.raise n fl).writeElems (st.who n) o 0 r.bytes (unit.map BitVec.toNat)
    let s := { s with vid := { s.vid with encs := s.vid.encs.put r.stream x', encRuns := s.vid.encRuns.put n r' } }
    let s := s.writeEnt (st.who n) x.record x.count
      (toLE 4 x.count ++ toLE 1 (b2n key + 2 * b2n forced) ++ toLE 1 q ++ toLE 2 0 ++ toLE 4 unit.length ++ toLE 4 0
        ++ toLE 8 r.bytes ++ toLE 4 0)
    let s := (s.tick1 veFrames).bump veBytes unit.length
    let s := if key then s.tick1 veKeyFrames else s
    if st.ending then s.endEncode n s.endedBy else if r.frame + 1 = (dTd st.desc 0).t then s.endEncode n 0 else s

def execEncodeUnitWritten (slot : Nat) (s : State) : Out :=
  answer s (match s.stage slot, s.vid.encRuns.find slot with
    | some st, some r => match s.vid.encs.find r.stream, r.coding with
      | some x, some (key, req) => (s.writeUnit slot st r x key req).serveEnc x.engine
      | _, _ => s
    | _, _ => s)

/-- An encode stream closes: its slot is free with a new generation. -/
def State.closeEnc (s : State) (i : Nat) : State :=
  if (s.vid.encs.find i).isNone then s
  else { s with vid := { s.vid with encs := s.vid.encs.del i, encGen := s.vid.encGen.put i (s.vid.encGen.get 0 i + 1) } }

def execVencClose (slot : Nat) (s : State) : Out :=
  answer s (match s.stage slot with
    | none => s
    | some st =>
      if st.phase ≠ .running ∨ st.opcode ≠ 0x0F ∨ op1 st.desc 0xE0 ≠ 2 ∨ !s.vidTurn st then s
      else match s.encStream (vidHandle st.desc) with
        | none => s.finishWorst slot 2
        | some (i, x) => if x.secure ≠ st.secure then s.finishWorst slot 4 else (s.endVenc slot i st 0).closeEnc i)

end Sys2Proof.Machine
end

