-- ==== Sys2Proof/Machine/Registers.lean ====
section
/-!
DEFINITION. The register pages of BAR0 and the ring pages of BAR2: what each word reads as, and the writes to them (spec/00 R9-R14;
spec/03 R88, R89; spec/05 R141; spec/06 R156, R170; spec/07 R209; spec/08 R228; spec/09 R245; spec/10 R284-R286; spec/11 R329-R331;
spec/12 R352; spec/13 R368, R375; spec/14 R379-R385, R396-R398; spec/16 R434, R441, R452; spec/17 R474).
-/
namespace Sys2Proof.Machine

/-! ### 64-bit counters (R13) -/

/-- Offsets of the counters of a core window (Tables 3.15, 5.12, 8.10, 9.6). -/
def coreCounters : List Nat :=
  [0x1000, 0x1008, 0x1010, 0x1018, 0x1020, 0x1028, 0x1030, 0x2008, 0x2010, 0x2018, 0x2020, 0x2028, 0x3008, 0x3010, 0x3018, 0x3020, 0x3028,
    0x4008, 0x4010, 0x4018, 0x4020]

/-- Pages of counters: first address, how many, their distance of 8 bytes each. -/
def counterRuns : List (Nat × Nat) :=
  [(0x4000, 9), (0x103008, 11), (0x202000, 12), (0x300100, 11), (0x404000, 8), (0x500100, 7), (0x508100, 9), (0x600100, 8),
    (0x700100, 3)]
    ++ (List.range 32).map (fun p => (0x402000 + p * 0x80, 10)) ++ (List.range 16).map (fun c => (0x50C100 + c * 0x40, 5))

/-- Whether an address is that of a 64-bit counter of the part. -/
def State.isCounter (s : State) (a : Nat) : Bool :=
  if 0x1000000 ≤ a ∧ a < 0x1600000 then
    coreCounters.contains ((a - 0x1000000) % 0x10000) && decide ((a - 0x1000000) / 0x10000 < s.coreCount)
  else a % 8 == 0 && counterRuns.any (fun r => decide (r.1 ≤ a) && decide (a < r.1 + 8 * r.2))

/-- Every counter of the Open-visible pages in ascending address order (spec/18 R493). -/
def State.counterAddrs (s : State) : List Nat :=
  sortBy id (counterRuns.flatMap (fun r => (List.range r.2).map (fun i => r.1 + 8 * i)))
    ++ (List.range s.coreCount).flatMap (fun c => coreCounters.map (fun o => 0x1000000 + c * 0x10000 + o))

/-! ### Words of the core windows -/

/-- Opcodes whose tasks build a selection in their passes (spec/08 R224, R227; spec/07 R199; spec/09 R244). -/
def selects (st : Stage) : Bool := st.opcode == 6 || st.opcode == 7 || st.opcode == 0x0A || redArg st.desc

/-- A MATMUL that delivers its drained rows to the thresher (spec/08 R225). -/
def drainsToThresher (st : Stage) : Bool := st.opcode == 1 && (cDrainTo st.chain == 1 || cDrainTo st.chain == 2)

/-- The running task of a core with its stage, and the draining one. -/
def State.runningOf (s : State) (c : Nat) : Option (Task × Stage) :=
  (s.core c).running.bind (fun p => (s.stage p.2.stage).map (fun st => (p.2, st)))
def State.drainingOf (s : State) (c : Nat) : Option (Task × Stage) :=
  (s.core c).draining.bind (fun p => (s.stage p.2.stage).map (fun st => (p.2, st)))

/-- The running task takes the lanes of both pipes: harrow-alone work (spec/05 R119), the score path of an ATTEND (spec/07 R179). -/
def State.bothPipes (s : State) (c : Nat) : Bool :=
  s.harrowAlone c || ((s.runningOf c).map (fun p => p.2.opcode == 2 && !p.1.ended)).getD false

/-- The prologue pipe serves the running task. -/
def State.prologueBusy (s : State) (c : Nat) : Bool :=
  ((s.runningOf c).map (fun p => p.2.opcode == 1 && cProFmt p.2.chain != 0xF && !p.1.ended)).getD false

/-- CORE_STAT (Table 3.14). -/
def State.coreStat (s : State) (c : Nat) : Nat :=
  let x := s.core c
  let drain := s.drainingOf c
  let busy := wordOf (x.arrays.map (fun a => (a == .inPass || a == .emptying) && (s.domain (2 * c)).powered))
  let plan := if busy = 0 then 0 else x.plan
  let thr := ((s.runningOf c).map (fun p => selects p.2)).getD false || (drain.map (fun p => selects p.2 || drainsToThresher p.2)).getD false
  let off := fun d => s.domain d == .fallow || s.domain d == .heldOff
  busy + 2 ^ 4 * b2n (s.bothPipes c || s.prologueBusy c || drain.isSome) + 2 ^ 5 * b2n thr + 2 ^ 6 * plan + 2 ^ 8 * b2n (off (2 * c))
    + 2 ^ 9 * b2n (off (2 * c + 1)) + 2 ^ 16 * x.slots.length

/-- HAR_CHAIN_STAT (Table 5.11). -/
def State.chainStat (s : State) (c : Nat) : Nat :=
  b2n (s.bothPipes c || s.prologueBusy c) + 2 * b2n (s.bothPipes c || (s.core c).draining.isSome) + 2 ^ 16 * (s.keptTiles c / 1024)

/-- K of the selection that a stage's tasks build: SHEAF_MAX of a KV_RETRIEVE, K of a MATMUL's partial records (spec/07 R199, spec/08
R225). -/
def selectK (st : Stage) : Nat :=
  if st.opcode = 0x0A then op2 st.desc 0xE2 else if st.opcode = 1 then op2 st.desc 0xE0 else selPlaces st.desc

/-- Rows of a task whose selection stands: all of them behind its chain's first task, in that one the rows that have ended. -/
def selectedRows (st : Stage) (t : Task) : Nat :=
  let m := (tileRows st.desc t.r).2
  if t.k ≠ 0 ∨ t.ended then m else min m t.pass

/-- THR_STAT (Table 8.9): K of the selection being built, rows whose selection is held, those of a draining tile first (log 61). -/
def State.thrStat (s : State) (c : Nat) : Nat :=
  let run := (s.runningOf c).filter (fun p => selects p.2)
  let drain := (s.drainingOf c).filter (fun p => selects p.2 || drainsToThresher p.2)
  let k := match run, drain with
    | some (t, st), _ => if t.ended then 0 else selectK st
    | none, some (_, st) => if drainsToThresher st then selectK st else 0
    | none, none => 0
  let rows := match drain, run with
    | some (t, st), _ => (tileRows st.desc t.r).2
    | none, some (t, st) => selectedRows st t
    | none, none => 0
  rows + 2 ^ 16 * k

/-- A 32-bit word of core `c`'s window that is no counter. -/
def State.coreWord (s : State) (c off : Nat) : Nat :=
  if s.coreCount ≤ c then 0
  else if off = 0 then s.coreStat c
  else if off = 0x2000 then s.chainStat c
  else if off = 0x3000 then s.thrStat c
  else if off = 0x4000 then b2n (s.core c).lanes.isSome + 2 * b2n (s.core c).staging.isSome
  else 0

/-! ### Words of the other pages -/

/-- MEM_UNIT_STAT (Table 10.16). -/
def unitWord (u : MemUnit) : Nat :=
  u.spares + 2 ^ 18 * u.timing
    + 2 ^ 20 * (match u.st with | .service => 0 | .retraining => 1 | .out => 2 | .granaryOnly => 3) + 2 ^ 22 * u.refresh + 2 ^ 24 * u.temp

/-- LNK_PORT_STAT (Table 11.17); the error ratio of an ACTIVE port is a free value (log 5). -/
def State.portWord (s : State) (p : Nat) : Nat :=
  let x := s.port p
  let state := match x.st with
    | .disabled => 0 | .calibrate => 1 | .align => 2 | .verify => 3 | .auth => 4 | .active => 5 | .retrain => 6
  let ctrl := ((s.farEnd p).bind s.ctrlPort) == some p
  let ber := if x.st = .active then (Config.freeValue s.freeCount p).toNat % 256 else 0
  ber + 2 ^ 12 * x.peer.getD 0 + 2 ^ 22 * x.tpos + 2 ^ 25 * b2n x.recal + 2 ^ 26 * b2n ctrl + 2 ^ 27 * x.alt + 2 ^ 29 * state

/-- THROTTLE_TEMP (spec/17 Table 17.13). -/
def State.throttleTemp (s : State) : Nat := s.obj 0x3002 1 95

/-- A word of the power page (Table 17.11). -/
def State.pwrWord (s : State) (off : Nat) : Nat :=
  let word := fun (k : Nat) (p : DomSt → Bool) => wordOf ((range (32 * k) 32).map (fun d => decide (d < 212) && p (s.domain d)))
  if off = 0 then s.pwrStat
  else if off = 0xC then ((List.range 8).map (fun f => s.pwr.point.getD f 0 * 16 ^ f)).sum
  else if 0x10 ≤ off ∧ off < 0x2C then word ((off - 0x10) / 4) (fun d => d == .fallow || d == .heldOff)
  else if 0x30 ≤ off ∧ off < 0x4C then word ((off - 0x30) / 4) (fun d => d == .heldOff)
  else if 0x50 ≤ off ∧ off < 0x78 then
    let t := s.pwr.temps.getD ((off - 0x50) / 4) 0
    t + 256 * b2n (decide (s.throttleTemp ≤ t))
  else 0

/-- A word of a function-table entry by its offset (Table 14.11). -/
def State.fnWord (s : State) (f off : Nat) : Nat :=
  let e := s.fn f
  match off with
  | 0x00 => if f = 0 then 0 else e.ringBase
  | 0x04 => if f = 0 then 0 else e.ringCount
  | 0x08 => max 1 e.slots
  | 0x10 => e.bar4 % 2 ^ 32
  | 0x14 => e.bar4 / 2 ^ 32
  | _ => 0

/-- A word of an MSI-X entry. -/
def MsixEntry.word (e : MsixEntry) (k : Nat) : Nat :=
  match k with
  | 0 => e.addr.toNat % 2 ^ 32
  | 1 => e.addr.toNat / 2 ^ 32
  | 2 => e.data.toNat
  | _ => b2n e.masked

/-- A word of a function's MSI-X pending bits. -/
def State.pbaWord (s : State) (f k : Nat) : Nat :=
  wordOf ((range (32 * k) 32).map (fun v => (s.hif.msix.get {} (f, v)).pending))

/-- The plain RW registers of BAR0 with their RW bits. -/
def plainRegs : List (Nat × Word32) :=
  [(0x4, 0xF#32), (0x8, 0xFFF#32), (0x300004, 0x1F#32), (0x300008, 0xFFF#32), (0x200004, 0xFF#32), (0x200008, 0xFFF#32),
    (0x20000C, 0xFFFFFFFF#32), (0x400008, 0x3F#32), (0x40000C, 0xFFF#32), (0x600004, 0x7F#32), (0x600008, 0xFFF#32),
    (0x700004, 0x1F#32), (0x700008, 0xFFF#32)]

/-- Busy bits of engines: bit `i` for engine `i` in the list. -/
def busyBits (n : Nat) (es : List Nat) : Nat := wordOf ((List.range n).map es.contains)

def State.vidStat (s : State) : Nat :=
  let d := (s.vid.decRuns.filter (fun p => decide (0 < p.2.left))).filterMap (fun p => (s.vid.decs.find p.2.stream).map DecStream.engine)
  let e := (s.vid.encRuns.filter (fun p => p.2.coding.isSome)).filterMap (fun p => (s.vid.encs.find p.2.stream).map EncStream.engine)
  busyBits 8 d + 2 ^ 8 * busyBits 4 e

def State.ingStat (s : State) : Nat :=
  let e := s.ingEntries.filterMap (fun e => match e.2.2.st with | .busy g => some g | _ => none)
  2 ^ 4 * busyBits 4 e + 2 ^ 12 * busyBits 2 (s.ing.pyrs.map (fun p => p.2.engine))

/-- A 32-bit word of the PF's BAR0 that is no counter. -/
def State.pfWord (s : State) (a : Nat) : Nat :=
  if (plainRegs.map Prod.fst).contains a then (s.reg a).toNat
  else if 0x1000000 ≤ a ∧ a < 0x1600000 then s.coreWord ((a - 0x1000000) / 0x10000) ((a - 0x1000000) % 0x10000)
  else if a = 0 then s.hifStat
  else if a = 0xC then s.hif.linkRate + 2 ^ 4 * s.hif.linkWidth
  else if 0x1000 ≤ a ∧ a < 0x4000 then
    let f := (a - 0x1000) / 0x1000 * 32 + a % 0x1000 / 0x20
    if a % 0x1000 < 0x400 ∧ f ≤ 64 then s.fnWord f (a % 0x20) else 0
  else if 0x80000 ≤ a ∧ a < 0x88000 then (s.hif.msix.get {} (0, (a - 0x80000) / 16)).word (a % 16 / 4)
  else if 0x90000 ≤ a ∧ a < 0x90100 then s.pbaWord 0 ((a - 0x90000) / 4)
  else if a = 0x100000 then s.arrivalWindows + 2 ^ 16 * s.slotsHeld
  else if a = 0x200000 then s.memStat
  else if 0x201000 ≤ a ∧ a < 0x201060 then unitWord (s.unit ((a - 0x201000) / 4))
  else if a = 0x300000 then s.kvStat false
  else if a = 0x30000C then (s.kvPool false).free
  else if a = 0x400000 then wordOf ((List.range 32).map s.isActive)
  else if a = 0x400004 then s.lnkStat
  else if 0x401000 ≤ a ∧ a < 0x401080 then s.portWord ((a - 0x401000) / 4)
  else if 0x403000 ≤ a ∧ a < 0x403080 then
    wordOf ((range (32 * ((a - 0x403000) / 4)) 32).map (fun d => (s.lnk.peers.get {} d).st == .present))
  else if a = 0x500000 then s.vidStat
  else if a = 0x508000 then s.ingStat
  else if a = 0x50C000 then wordOf ((List.range 16).map (fun c => (s.chan c).running))
  else if 0x600000 ≤ a ∧ a < 0x600100 then s.pwrWord (a - 0x600000)
  else if a = 0x700000 then s.secStat
  else if 0x701000 ≤ a ∧ a < 0x705000 then
    if a % 0x1000 < 0x400 then s.regionWord ((a - 0x701000) / 0x1000 * 64 + a % 0x1000 / 0x10) (a % 0x10 / 4) else 0
  else 0

/-- A 32-bit word of VF `f`'s BAR0 (Table 14.2, R397). -/
def State.vfWord (s : State) (f a : Nat) : Nat :=
  if a = 0 then s.vfStat f
  else if 0x1000 ≤ a ∧ a < 0x1200 then (s.hif.msix.get {} (f, (a - 0x1000) / 16)).word (a % 16 / 4)
  else if a = 0x1800 then s.pbaWord f 0
  else 0

/-- A 32-bit word of a ring page (Tables 14.3, 14.4); write-only registers read as zero. -/
def Ring.word (x : Ring) (off : Nat) : Nat :=
  match off with
  | 0x100 => x.log2 + 2 ^ 5 * b2n x.locSq + 2 ^ 6 * b2n x.locCq
  | 0x108 =>
    (match x.st with | .disabled => 0 | .running => 1 | .stopped => 2 | .draining => 3 | .resetting => 4)
      + 2 ^ 4 * b2n x.secure + 2 ^ 5 * b2n x.cfgErr + 2 ^ 6 * b2n x.fetchFault + 2 ^ 7 * b2n x.cqFault
  | 0x10C => x.next.toNat
  | 0x110 => x.sqBase.toNat % 2 ^ 32
  | 0x114 => x.sqBase.toNat / 2 ^ 32
  | 0x118 => x.cqBase.toNat % 2 ^ 32
  | 0x11C => x.cqBase.toNat / 2 ^ 32
  | 0x120 => x.irq.toNat
  | 0x124 => x.sqHead + 2 ^ 16 * x.cqTail
  | 0x128 => x.stopSeq.toNat
  | _ => 0

/-! ### Views (R10) -/

/-- The view of an offset by its place in its page, and the offset of the same register in the plain view (R10, Table 0.9). -/
def splitView (a : Nat) : View × Nat :=
  let v := a % 0x1000 / 0x400
  (if v = 0 then .plain else if v = 1 then .set else if v = 2 then .clear else .toggle, a - v * 0x400)

/-- The offset at which a view shows a register. -/
def viewOffset : View → Nat
  | .plain => 0 | .set => 0x400 | .clear => 0x800 | .toggle => 0xC00

/-- Offsets that have the plain view alone: the MSI-X tables and pending bits (R380, R396), and the counters that spec/11 R331 and
spec/13 R375 place above 0x3FF of their pages, where they stand before an alias of R10 (log 56). -/
def unviewed (fn bar a : Nat) : Bool :=
  bar == 0 && (if fn = 0 then
      (decide (0x80000 ≤ a) && decide (a < 0x90100)) || (decide (0x402000 ≤ a) && decide (a < 0x403000))
        || (decide (0x50C400 ≤ a) && decide (a < 0x50C500))
    else decide (0x1000 ≤ a))

/-- The view and the plain offset that a request to a BAR names. -/
def barView (fn bar a : Nat) : View × Nat := if unviewed fn bar a then (.plain, a) else splitView a

/-! ### Reads (R11, R13, R379) -/

/-- The low word of a 64-bit register of BAR0 at an address: counters, and BAR4_BASE of the function table. -/
def State.low64 (s : State) (a : Nat) : Option Nat :=
  if s.isCounter a then some (s.ctr a).toNat
  else if 0x1000 ≤ a ∧ a < 0x4000 ∧ a % 0x1000 < 0x400 ∧ a % 0x20 = 0x10 then
    some (s.fn ((a - 0x1000) / 0x1000 * 32 + a % 0x1000 / 0x20)).bar4
  else none

/-- The 64-bit register whose low word stands at a plain offset of a function's BAR, if one does: in BAR2 the bases of the ring that the
page reaches. -/
def State.wide (s : State) (fn bar a : Nat) : Option Nat :=
  if bar = 0 then (if fn = 0 then s.low64 a else none)
  else if bar = 2 then (s.pageRing fn (a / 0x1000)).bind (fun r =>
    if a % 0x1000 = 0x110 then some (s.ring r).sqBase.toNat else if a % 0x1000 = 0x118 then some (s.ring r).cqBase.toNat else none)
  else none

/-- A 32-bit word at a plain offset of a function's BAR that is no half of a 64-bit register; a page of BAR2 past the function's rings
reads as zero (R380). -/
def State.barWord (s : State) (fn bar a : Nat) : Nat :=
  if bar = 0 then (if fn = 0 then s.pfWord a else s.vfWord fn a)
  else if bar = 2 then (match s.pageRing fn (a / 0x1000) with | some r => (s.ring r).word (a % 0x1000) | none => 0)
  else 0

/-- A read of a 32-bit word of a function's BAR through any view (R11): the low word of a 64-bit register latches its high word in the
function's shadow, the high word is read from the shadow (R13); any other word is read as it is. The error ratio of a link port is a
free value. -/
def State.wordRead (s : State) (fn bar a : Nat) : Nat × State :=
  match s.wide fn bar a with
  | some v => (v % 2 ^ 32, { s with hif := { s.hif with shadow := s.hif.shadow.put fn (BitVec.ofNat 32 (v / 2 ^ 32)) } })
  | none =>
    if 4 ≤ a ∧ (s.wide fn bar (a - 4)).isSome then ((s.hif.shadow.get 0 fn).toNat, s)
    else (s.barWord fn bar a, if fn = 0 ∧ bar = 0 ∧ 0x401000 ≤ a ∧ a < 0x401080 then s.fresh.2 else s)

/-- A read of a register; the offset is that of the request, so it names the view as well. In safe mode every read returns zeros but that of
HIF_STAT (R379); a read off the bound IDE stream is completed with Unsupported Request (spec/16 R441). -/
def execRegisterLowWordRead (fn : Nat) (access : BarRead) (s : State) : Out :=
  answer s (
    let bar := access.bar
    let a := (barView fn bar access.offset).2
    let reply := fun (p : Nat × State) => p.2.emit (.pcieData fn .data (toLE 4 p.1))
    if s.hif.safeMode then reply (if fn = 0 ∧ bar = 0 ∧ a = 0 then s.hifStat else 0, s)
    else if s.ideRefused fn access.ide then (s.ideRefuse fn).emit (.pcieData fn .unsupported [])
    else reply (s.wordRead fn bar a))

/-! ### Class changes and key requests (R156, R368, R397) -/

/-- The admitted stages of a ring take a class (Table 6.4), and with them the retained tiles that they produce (R159). -/
def State.reprio (s : State) (r cls : Nat) : State :=
  { s with dsp := { s.dsp with
      stages := s.dsp.stages.map (fun p =>
        if p.2.ring = r ∧ (p.2.phase = .admitted ∨ p.2.phase = .running) then (p.1, { p.2 with cls := cls }) else p)
      sets := s.dsp.sets.map (fun p => if p.2.ring = r ∧ p.2.producing then (p.1, { p.2 with cls := cls }) else p) } }

/-- The value a write through a view leaves in a register that reads as zero. -/
def woValue (view : View) (value : Word32) : Nat := (viewWrite view 0 value 0xFFFFFFFF#32).toNat

def State.dspReprio (s : State) (v : Nat) : State :=
  if s.owner (bits v 0 16) = 0 then s.reprio (bits v 0 16) (bits v 16 3) else s.tick1 dspReprioDenied

def execDspReprio (view : View) (value : Word32) (s : State) : Out :=
  answer s (if s.hif.safeMode then s else s.dspReprio (woValue view value))

def State.vfReprio (s : State) (f v : Nat) : State :=
  if bits v 0 10 < (s.fn f).ringCount then s.reprio ((s.fn f).ringBase + bits v 0 10) (bits v 16 3) else s.tick1 dspReprioDenied

def execHifVfReprio (fn : Nat) (view : View) (value : Word32) (ide : Bool) (s : State) : Out :=
  answer s (
    if s.hif.safeMode ∨ fn = 0 then s
    else if s.ideRefused fn ide then s.ideRefuse fn
    else if view ≠ .plain then s
    else s.vfReprio fn value.toNat)

/-- A key request of function `f` for an encode stream slot. -/
def State.keyRequest (s : State) (f v : Nat) : State :=
  match s.vid.encs.find (bits v 0 6) with
  | none => s.tick1 vidKeyReqDenied
  | some x =>
    if x.fn ≠ f then s.tick1 vidKeyReqDenied
    else { s with vid := { s.vid with encs := s.vid.encs.put (bits v 0 6) { x with keyReq := true } } }

def execVidKeyReq (view : View) (value : Word32) (s : State) : Out :=
  answer s (if s.hif.safeMode then s else s.keyRequest 0 (woValue view value))

def execHifVfKeyReq (fn : Nat) (view : View) (value : Word32) (ide : Bool) (s : State) : Out :=
  answer s (
    if s.hif.safeMode ∨ fn = 0 then s
    else if s.ideRefused fn ide then s.ideRefuse fn
    else if view ≠ .plain then s
    else s.keyRequest fn value.toNat)

def State.ueAck (s : State) (view : View) (value : Word32) : State :=
  s.setReg 0x20000C (viewWrite view (s.reg 0x20000C) value 0xFFFFFFFF#32)

def execMemUeAckWrite (view : View) (value : Word32) (s : State) : Out :=
  answer s (if s.hif.safeMode then s else s.ueAck view value)

/-! ### The function table (R381) -/

/-- A VF's entry after a write to the word at an offset. -/
def FnEntry.write (e : FnEntry) (off : Nat) (view : View) (value : Word32) : FnEntry :=
  let w := fun (old : Nat) (rw : Word32) => (viewWrite view (BitVec.ofNat 32 old) value rw).toNat
  match off with
  | 0x00 => { e with ringBase := w e.ringBase 0xFFFF#32 }
  | 0x04 => { e with ringCount := w e.ringCount 0x7FF#32 }
  | 0x08 => { e with slots := w e.slots 0xFFF#32 }
  | 0x10 => { e with bar4 := e.bar4 / 2 ^ 32 * 2 ^ 32 + w (e.bar4 % 2 ^ 32) 0xFFE00000#32 }
  | 0x14 => { e with bar4 := w (e.bar4 / 2 ^ 32) 0xFFFF#32 * 2 ^ 32 + e.bar4 % 2 ^ 32 }
  | _ => e

/-- Rings of a range that are not DISABLED. -/
def State.busyRing (s : State) (base count : Nat) : Bool :=
  s.hif.rings.any (fun r => decide (base ≤ r.1) && decide (r.1 < base + count) && r.2.st != .disabled)

/-- A write to the entry of VF `f` that would leave `new` is refused (R381, spec/16 R439). -/
def State.fnRefused (s : State) (f : Nat) (new : FnEntry) : Bool :=
  let old := s.fn f
  s.tdi f == .locked || s.tdi f == .run
    || s.busyRing old.ringBase old.ringCount || s.busyRing new.ringBase new.ringCount
    || decide (1024 < new.ringCount) || decide (65536 < new.ringBase + new.ringCount)
    || s.hif.fns.any (fun p => p.1 != f && p.1 != 0 && new.ringCount != 0 && p.2.ringCount != 0
        && decide (p.2.ringBase < new.ringBase + new.ringCount)
        && decide (new.ringBase < p.2.ringBase + p.2.ringCount))

/-- A write to a function-table entry: the PF's ring fields ignore writes. -/
def State.fnTableWrite (s : State) (f off : Nat) (view : View) (value : Word32) : State :=
  let new := (s.fn f).write off view value
  let put := { s with hif := { s.hif with fns := s.hif.fns.put f new } }
  if !([0x00, 0x04, 0x08, 0x10, 0x14].contains off) ∨ 64 < f then s
  else if f = 0 then (if off = 0x00 ∨ off = 0x04 then s else put)
  else if s.fnRefused f new then s.tick1 hifCmdIgnored
  else put

def execHifFnTableWrite (fn entry register : Nat) (view : View) (value : Word32) (s : State) : Out :=
  answer s (if fn ≠ 0 ∨ s.hif.safeMode then s else s.fnTableWrite entry register view value)

/-! ### Other writes (R10-R14, R383, R385) -/

/-- A write to a word of an MSI-X entry; unmasking an entry with a pending message sends it, once its function is not masked. -/
def State.msixWrite (s : State) (f v k : Nat) (value : Word32) : State :=
  let e := s.hif.msix.get {} (f, v)
  let e' := match k with
    | 0 => { e with addr := BitVec.ofNat 64 (e.addr.toNat / 2 ^ 32 * 2 ^ 32 + value.toNat) }
    | 1 => { e with addr := BitVec.ofNat 64 (value.toNat * 2 ^ 32 + e.addr.toNat % 2 ^ 32) }
    | 2 => { e with data := value }
    | _ => { e with masked := value.toNat % 2 == 1 }
  let put := fun (x : MsixEntry) => { s with hif := { s.hif with msix := s.hif.msix.put (f, v) x } }
  if e'.pending ∧ !e'.masked ∧ s.msixEnabled f ∧ !s.msixMasked f then (put { e' with pending := false }).msix f v else put e'

/-- A ring after a write to an RW word of its page, while DISABLED. -/
def Ring.write (x : Ring) (off : Nat) (view : View) (value : Word32) : Ring :=
  let w := fun (rw : Word32) => (viewWrite view (BitVec.ofNat 32 (x.word off)) value rw).toNat
  let lo := fun (old : Word64) => BitVec.ofNat 64 (old.toNat / 2 ^ 32 * 2 ^ 32 + w 0xFFFFF000#32)
  let hi := fun (old : Word64) => BitVec.ofNat 64 (w 0xFFFFFFFF#32 * 2 ^ 32 + old.toNat % 2 ^ 32)
  match off with
  | 0x100 => { x with log2 := bits (w 0x7F#32) 0 5, locSq := bit (w 0x7F#32) 5, locCq := bit (w 0x7F#32) 6 }
  | 0x110 => { x with sqBase := lo x.sqBase }
  | 0x114 => { x with sqBase := hi x.sqBase }
  | 0x118 => { x with cqBase := lo x.cqBase }
  | 0x11C => { x with cqBase := hi x.cqBase }
  | 0x120 => { x with irq := BitVec.ofNat 32 (w 0xFFFFFFFF#32) }
  | _ => x

/-- A write to a word of a ring page (R385): the doorbells and HIF_RING_CMD as their own commands have them; the RW registers keep
their values in other states than DISABLED. -/
def State.ringWrite (s : State) (f offset : Nat) (view : View) (value : Word32) (ide : Bool) : State :=
  if offset % 0x1000 = 0 then s.doorbell f (offset / 0x1000) view ide (fun x => x.withTail (bits value.toNat 0 16))
  else if offset % 0x1000 = 4 then s.doorbell f (offset / 0x1000) view ide (fun x => x.withHead (bits value.toNat 0 16))
  else if offset % 0x1000 = 0x104 then s.ringCommand f (offset / 0x1000) ide (woValue view value)
  else match s.reach f (offset / 0x1000) ide with
  | .ide => s.ideRefuse f
  | .ring r =>
    let x := s.ring r
    let x' := x.write (offset % 0x1000) view value
    if x.st = .disabled ∧ x' ≠ x then s.setRing r x' else s
  | _ => s

/-- A write to a word of the PF's BAR0. -/
def State.pfWrite (s : State) (a : Nat) (view : View) (value : Word32) : State :=
  match plainRegs.find? (fun r => r.1 == a) with
  | some (_, rw) => s.setReg a (viewWrite view (s.reg a) value rw)
  | none =>
    if 0x1000 ≤ a ∧ a < 0x4000 then
      if a % 0x1000 < 0x400 then s.fnTableWrite ((a - 0x1000) / 0x1000 * 32 + a % 0x1000 / 0x20) (a % 0x20) view value else s
    else if 0x80000 ≤ a ∧ a < 0x88000 then s.msixWrite 0 ((a - 0x80000) / 16) (a % 16 / 4) value
    else if a = 0x103000 then s.dspReprio (woValue view value)
    else if a = dspPreemptLatMax ∧ view = .plain then
      { s with ctrs := s.ctrs.put dspPreemptLatMax (BitVec.ofNat 64 ((s.ctr dspPreemptLatMax).toNat / 2 ^ 32 * 2 ^ 32 + value.toNat)) }
    else if a = dspPreemptLatMax + 4 ∧ view = .plain then
      { s with ctrs := s.ctrs.put dspPreemptLatMax (BitVec.ofNat 64 (value.toNat * 2 ^ 32 + (s.ctr dspPreemptLatMax).toNat % 2 ^ 32)) }
    else if a = 0x500004 then s.keyRequest 0 (woValue view value)
    else if 0x701000 ≤ a ∧ a < 0x705000 ∧ a % 0x1000 < 0x400 then
      let i := (a - 0x701000) / 0x1000 * 64 + a % 0x1000 / 0x10
      if a % 0x10 = 0 then s.regCtrlWrite i view value
      else if a % 0x10 = 4 then s.regExtentWrite i false view value
      else if a % 0x10 = 8 then s.regExtentWrite i true view value
      else s
    else s

/-- A write to a word of a VF's BAR0. -/
def State.vfWrite (s : State) (f a : Nat) (view : View) (value : Word32) : State :=
  if a = 4 then (if view = .plain then s.vfReprio f value.toNat else s)
  else if a = 8 then (if view = .plain then s.keyRequest f value.toNat else s)
  else if 0x1000 ≤ a ∧ a < 0x1200 then s.msixWrite f ((a - 0x1000) / 16) (a % 16 / 4) value
  else s

/-- A write to a register that has no row of its own; `offset` is that of the request in its page, so it names the view as well (R10). In safe mode
writes are dropped, doorbells with their count (R379). -/
def execRegisterWrite (fn bar page offset : Nat) (value : Word32) (ide : Bool) (s : State) : Out :=
  answer s (
    let (view, a) := barView fn bar (page * 0x1000 + offset)
    if bar = 2 then s.ringWrite fn a view value ide
    else if s.hif.safeMode ∨ bar ≠ 0 then s
    else if s.ideRefused fn ide then s.ideRefuse fn
    else if fn = 0 then s.pfWrite a view value
    else s.vfWrite fn a view value)

end Sys2Proof.Machine
end

