-- ==== Sys2Proof/Machine/Memory.lean ====
section
/-!
DEFINITION. Requests to the memory of the device and of the host window, the memory controllers' correction, remapping, scrubbing,
refresh and retraining, and the PCIe requests beside the register pages (spec/10 R246-R287; spec/14 R379, R382; spec/16 R437, R441;
spec/18 R482-R484).
-/
namespace Sys2Proof.Machine

/-! ### Service of a line (R264, R272; spec/18 R483, R484) -/

def State.unitOfLine (s : State) (l : Nat) : MemUnit := s.unit (unitOf l)

/-- A hub die's scratch range, served while its memory is not in service (R264). -/
def scratch (a : Nat) : Bool := decide (a < 2 ^ 26) || (decide (2 ^ 38 ≤ a) && decide (a < 2 ^ 38 + 2 ^ 26))

def State.hubServes (s : State) (a : Nat) : Bool := s.mem.inService.getD (hubOf a) false

/-- Device memory that is not in service and that the requester does not reach as scratch. -/
def State.unserved (s : State) (who : Requester) (a : Nat) : Bool :=
  s.place a != .host && s.place a != .reserved && !s.hubServes a && !(scratch a && who.fn == 0x7F)

/-- Line of a waiting request. -/
def Waiting.line : Waiting → Nat
  | .read _ a _ _ => a / 256
  | .write _ a _ _ => a / 256
  | .atomic _ a _ _ _ _ => a / 256
  | .bar4 _ l _ _ => l

def State.lineWaits (s : State) (l : Nat) : Bool := s.mem.waiting.any (fun w => w.2.line == l)

def State.wait (s : State) (w : Waiting) : State :=
  { s with mem := { s.mem with waiting := s.mem.waiting ++ [(unitOf w.line, w)] } }

/-- The status a request to device memory meets before its line is reached (Table 16.3 rows 2 to 6, R264). -/
def State.requestStatus (s : State) (who : Requester) (a n : Nat) (write : Bool) : Nat :=
  if s.unserved who a then 3
  else if scratch a && !s.hubServes a then 0
  else if touches s.kvExtents a n || (write && touches s.poolExtents a n) then 3
  else hedge ((s.regionAt a).map Prod.snd) who.secure who.fn

/-! ### Serving a request whose line can be reached -/

/-- A discarded partial write of BAR4 to a poisoned line is logged (R281). -/
def State.writeDone (s : State) (who : Requester) (a status : Nat) : State :=
  if status = 0 then s
  else (if status = 8 ∧ who.stage = none ∧ who.fn ≤ 64 then s.log 0x0108 who.fn a who.secure else s).meet who.stage status

def State.memRead (s : State) (who : Requester) (a n hint : Nat) : State :=
  let (bs, st, s) := s.readPiece who a n hint
  (if st = 0 then s else s.meet who.stage st).emit (.memData who a bs)

def State.memWrite (s : State) (who : Requester) (a : Nat) (bs : List Byte) (hint : Nat) : State :=
  let (st, s) := s.writePiece who a bs hint
  s.writeDone who a st

/-- An atomic: its flags reach the issuing stage (R260). -/
def State.memAtomic (s : State) (who : Requester) (a op fmt : Nat) (wrap : Bool) (bs : List Byte) : State :=
  let (st, fl, s) := s.atomicFor who a op (atomFmt fmt) wrap bs
  if st = 0 then (match who.stage with | none => s | some n => s.raise n fl) else s.meet who.stage st

/-! ### BAR4 reads (spec/14 R382) -/

/-- One piece of a BAR4 read within a line: its bytes and whether it met poison. -/
def State.bar4Piece (s : State) (who : Requester) (a n : Nat) : List Byte × Bool × State :=
  let zeros := List.replicate n 0#8
  if 2 ^ 47 ≤ a ∨ s.place a = .reserved ∨ s.unserved who a then (zeros, false, s)
  else
    let (bs, st, s) := s.readPiece who a n 0
    (bs, st == 8, s)

/-- A read: zeros as a poisoned completion where a line is poisoned. -/
def State.bar4Read (s : State) (who : Requester) (a n : Nat) : State :=
  let (bs, bad, s) := (linePieces (n / 256 + 2) a n).foldl (fun (acc : List Byte × Bool × State) p =>
    let (bs, b, s) := acc.2.2.bar4Piece who p.1 p.2
    (acc.1 ++ bs, acc.2.1 || b, s)) ([], false, s)
  s.emit (.pcieData who.fn (if bad then .poison else .data) bs)

/-- A line of device memory that a permitted BAR4 request has to wait for: requests wait for it already, or it is out of reach (R264). -/
def State.bar4Waits (s : State) (who : Requester) (a n : Nat) (write : Bool) : Bool :=
  decide (a < 2 ^ 47) && s.place a != .reserved && s.requestStatus who a n write == 0 && (s.lineWaits (a / 256) || s.lineAway (a / 256))

/-- A BAR4 read waits whole for the first of its lines that makes it wait. -/
def State.bar4Ask (s : State) (who : Requester) (a n : Nat) : State :=
  match (linePieces (n / 256 + 2) a n).find? (fun p => s.bar4Waits who p.1 p.2 false) with
  | some p => s.wait (.bar4 who (p.1 / 256) a n)
  | none => s.bar4Read who a n

def State.serve (s : State) : Waiting → State
  | .read who a n hint => s.memRead who a n hint
  | .write who a hint bs => s.memWrite who a bs hint
  | .atomic who a op fmt wrap bs => s.memAtomic who a op fmt wrap bs
  | .bar4 who _ a n => s.bar4Ask who a n

/-- Serve the waiting requests of a line in arrival order. -/
def State.serveLine (s : State) (l : Nat) : State :=
  let mine := s.mem.waiting.filter (fun w => w.2.line == l)
  let s := { s with mem := { s.mem with waiting := s.mem.waiting.filter (fun w => w.2.line != l) } }
  mine.foldl (fun s w => s.serve w.2) s

/-- Whether a waiting request needs no line read: a write of a whole aligned line (R254). -/
def Waiting.whole : Waiting → Bool
  | .write _ a _ bs => a % 256 == 0 && bs.length == 256
  | _ => false

/-- Lines that wait are issued when their unit or row is free again: those that begin with a write of a whole line need no read. -/
def State.issue (s : State) (u : Nat) : State :=
  let lines := dedup ((s.mem.waiting.filter (fun w => w.1 == u)).map (fun w => w.2.line))
  lines.foldl (fun s l =>
    match s.mem.waiting.find? (fun w => w.2.line == l) with
    | some w => if w.2.whole && !s.lineHeld l then s.serveLine l else s
    | none => s) s

/-! ### Requests (R251, R254, R261, R437) -/

/-- A scratch line of a Granary that works alone (R264): it has its own way, is tagged Secure, and every access of it hits. -/
def State.scratchPut (s : State) (a : Nat) (bs : List Byte) : State :=
  let l := a / 256
  let s := s.tick1 grnHit
  let s := if (s.resident l).isSome then s
    else { s with mem := { s.mem with lines := s.mem.lines ++ [{ line := l, secure := true, cls := .normal }] } }
  s.storeLine l a bs false

/-- One piece of a read within a line. -/
def State.requestRead (s : State) (who : Requester) (a n hint : Nat) : State :=
  let l := a / 256
  let none_ := fun (s : State) => s.emit (.memData who a (List.replicate n 0#8))
  match s.place a with
  | .host => s.memRead who a n hint
  | .reserved => none_ (s.meet who.stage 3)
  | _ =>
    let st := s.requestStatus who a n false
    if st ≠ 0 then none_ ((if st = 4 then s.deny who.secure who.fn a else s).meet who.stage st)
    else if !s.hubServes a then (s.tick1 grnHit).emit (.memData who a (s.peeks a n))
    else if (s.resident l).isSome ∧ !s.lineWaits l then s.memRead who a n hint
    else if (s.unitOfLine l).st = .out then s.memRead who a n hint
    else s.wait (.read who a n hint)

/-- A read request: it may span lines, each served by its own Granary half. -/
def execMemoryRead (who : Requester) (addr length hint : Nat) (s : State) : Out :=
  answer s ((linePieces (length / 256 + 2) addr length).foldl (fun s p => s.requestRead who p.1 p.2 hint) s)

/-- One piece of a write within a line. -/
def State.requestWrite (s : State) (who : Requester) (a : Nat) (bs : List Byte) (hint : Nat) : State :=
  let l := a / 256
  match s.place a with
  | .host => s.memWrite who a bs hint
  | .reserved => s.meet who.stage 3
  | _ =>
    let st := s.requestStatus who a bs.length true
    if st ≠ 0 then (if st = 4 then s.deny who.secure who.fn a else s).meet who.stage st
    else if !s.hubServes a then s.scratchPut a bs
    else if s.lineWaits l then s.wait (.write who a hint bs)
    else if (s.resident l).isSome ∨ (s.unitOfLine l).st = .out then s.memWrite who a bs hint
    else if a % 256 = 0 ∧ bs.length = 256 ∧ !s.lineHeld l then s.memWrite who a bs hint
    else s.wait (.write who a hint bs)

def execMemoryWrite (who : Requester) (addr : Nat) (bytes : List Byte) (hint : Nat) (s : State) : Out :=
  answer s ((linePieces (bytes.length / 256 + 2) addr bytes.length).foldl
    (fun s p => s.requestWrite who p.1 ((bytes.drop (p.1 - addr)).take p.2) hint) s)

/-- The request exists (R260): whole elements of a format, aligned, within one 64-byte block. -/
def atomicExists (a op fmt n : Nat) : Bool :=
  let w := (atomFmt fmt).width / 8
  decide (op < 3) && decide (fmt < 4) && decide (0 < n) && n % w == 0 && a % w == 0 && decide (a % 64 + n ≤ 64)

/-- An atomic by Table 10.8. -/
def State.requestAtomic (s : State) (who : Requester) (a op fmt : Nat) (wrap : Bool) (bs : List Byte) : State :=
  let l := a / 256
  if s.place a != .host && s.place a != .reserved && scratch a && !s.hubServes a && who.fn == 0x7F then
    (s.tick1 atomGrn).scratchPut a (atomBytes (atomFmt fmt) op wrap (s.peeks a bs.length) bs).1
  else if s.atomicStatus who a bs.length ≠ 0 then s.memAtomic who a op fmt wrap bs
  else if (s.resident l).isSome ∧ !s.lineWaits l then s.memAtomic who a op fmt wrap bs
  else s.wait (.atomic who a op fmt wrap bs)

def execAtomicRequest (who : Requester) (addr op fmt : Nat) (wrap : Bool) (bytes : List Byte) (s : State) : Out :=
  answer s (if atomicExists addr op fmt bytes.length then s.requestAtomic who addr op fmt wrap bytes else s)

/-! ### Correction, poison and rows that go bad (R269-R273, R278, R279) -/

/-- Start a remap of a row, or log that no spare row is left. -/
def State.startRemap (s : State) (u row : Nat) : State :=
  let x := s.unit u
  if x.copying.contains row then s
  else if 4096 ≤ x.spares + x.copying.length then s.log 0x0105 u 0
  else s.setUnit u { x with copying := x.copying ++ [row] }

/-- Poison a line at its resting place (R279). -/
def State.poisonLine (s : State) (u l : Nat) : State :=
  let s := { s with mem := { s.mem with poison := if s.mem.poison.contains l then s.mem.poison else s.mem.poison ++ [l] } }
  if u < 8 then s
  else
    let x := s.unit u
    if x.poisonTable.contains l then s
    else if poisonPlaces ≤ x.poisonTable.length then s.log 0x0105 u 1
    else s.setUnit u { x with poisonTable := x.poisonTable ++ [l] }

/-- Length in ns of a scrub period: at the configured rate, and while the scrubber is stopped at the rate configured before (R276;
DEDUCED, log 65). -/
def State.scrubPeriod (s : State) : Nat := s.mem.scrubHours * 3600 * 10 ^ 9

/-- A corrected error in a line: counted, and noted for its row (R271). -/
def State.correct (s : State) (u l : Nat) (again : Bool) : State :=
  let s := s.tick1 memCe
  let s := { s with mem := { s.mem with ceSecond := s.mem.ceSecond.put u (s.mem.ceSecond.get 0 u + 1) } }
  let x := s.unit u
  let young := fun (p : Nat × Nat) => decide (s.time ≤ p.2 + s.scrubPeriod)
  let noted := (x.corrected.filter (fun p => young p && p.1 != l)) ++ [(l, s.time)]
  let s := s.setUnit u { x with corrected := noted }
  if again || decide (3 ≤ (noted.filter (fun p => rowOf p.1 == rowOf l)).length) then s.startRemap u (rowOf l) else s

/-- An uncorrected error in a line: counted for its world, poisoned, its row remapped. -/
def State.uncorrected (s : State) (u l : Nat) : State :=
  let s := if s.lineSecure l then (s.tick1 secUe).notifySecure else s.tick1 memUeOpenCnt
  (s.poisonLine u l).startRemap u (rowOf l)

/-- What a controller finds when it reads a line. -/
def State.found (s : State) (u l : Nat) (ecc : EccResult) : State :=
  match ecc with
  | .clean => s
  | .corrected => s.correct u l false
  | .corrected_again => s.correct u l true
  | .uncorrected => s.uncorrected u l

/-- Atomics at the head of a line's waiting requests, served at the controller (R261). -/
def State.serveAtomics (s : State) (l : Nat) : State :=
  let head := ((s.mem.waiting.filter (fun w => w.2.line == l)).map Prod.snd).takeWhile
    (fun w => match w with | .atomic _ _ _ _ _ _ => true | _ => false)
  let rest := ((s.mem.waiting.filter (fun w => w.2.line == l)).drop head.length)
  let s := { s with mem := { s.mem with waiting := s.mem.waiting.filter (fun w => w.2.line != l) ++ rest } }
  head.foldl State.serve s

/-- A controller has read a line: what it finds is noted, the atomics that came first are applied, and for a fill the other requests
that wait for the line are served. A row that this read shows to be bad is copied after that (R272). -/
def State.lineRead (s : State) (l : Nat) (ecc : EccResult) (fill : Bool) : State :=
  let u := unitOf l
  let f := s.found u l ecc
  let t := (f.setUnit u { f.unit u with copying := (s.unit u).copying }).serveAtomics l
  let t := if fill then t.serveLine l else t
  t.setUnit u { t.unit u with copying := (f.unit u).copying }

/-- A missed line arrives: atomics that came first are applied, the line is allocated, the waiting requests are served. -/
def execMissFillComplete (line : Nat) (ecc : EccResult) (s : State) : Out :=
  answer s (
    if !s.lineWaits line || s.lineHeld line || (s.unitOfLine line).st != .service then s
    else s.lineRead line ecc true)

def execAtomicApplyMc (line : Nat) (ecc : EccResult) (s : State) : Out :=
  answer s (
    if !s.lineWaits line || s.lineHeld line || (s.unitOfLine line).st != .service then s
    else match s.mem.waiting.find? (fun w => w.2.line == line) with
      | some (_, .atomic _ _ _ _ _ _) => s.lineRead line ecc false
      | _ => s)

/-- The copy of a row ends (R272): the next free spare row stands for it. -/
def State.remapped (s : State) (u row : Nat) : State :=
  let x := s.unit u
  let entry := fun (e : Nat × Nat × Bool) => e.1 != row
  let s := s.setUnit u { x with
    copying := x.copying.drop 1
    spares := x.spares + 1
    remap := x.remap.filter entry ++ [(row, x.spares, false)]
    corrected := x.corrected.filter (fun p => rowOf p.1 != row) }
  ((s.tick1 memRemap).log 0x0104 u (row + x.spares * 2 ^ 26)).touchStore.issue u

def execRowRemapComplete (unit : Nat) (s : State) : Out :=
  answer s (match (s.unit unit).copying.head? with
    | none => s
    | some row => s.remapped unit row)

/-! ### Patrol scrub (R275-R278) -/

/-- The line at a place of a unit's scan: ascending line index, within it ascending pseudo-channel (R249, R250). -/
def scrubLine (u p : Nat) : Nat :=
  if u < 8 then
    let top := p / 64                       -- line index, L[29:8]
    let mid := (p % 64) ^^^ bits top 2 6 ^^^ bits top 10 6
    let low := (u % 4) ^^^ bits top 0 2 ^^^ bits top 8 2
    (u / 4) * 2 ^ 30 + top * 256 + mid * 4 + low
  else
    let hub := (u - 8) / 8
    let base := 2 ^ 31 + hub * 2 ^ 28
    let l := p * 8
    base + l + (((u - 8) % 8) ^^^ bits l 8 3 ^^^ bits l 16 3)

/-- Usable lines of a unit. -/
def State.unitLines (s : State) (u : Nat) : Nat :=
  if u < 8 then 64 * (2 ^ 22 - 2 ^ 8) else s.g7Bytes ((u - 8) / 8) / 2048

/-- A due scrub read of the unit's next line. -/
def State.scrub (s : State) (u : Nat) (ecc : EccResult) (forced : Bool) : State :=
  let x := s.unit u
  let l := scrubLine u x.scrubPos
  let s := s.setUnit u { x with scrubPos := (x.scrubPos + 1) % s.unitLines u }
  let s := s.tick1 scrubLines
  let s := if forced then s.tick1 scrubForced else s
  let marked := if u < 8 then s.mem.poison.contains l else x.poisonTable.contains l
  if marked then s
  else if ecc = .uncorrected then (s.uncorrected u l).log 0x0101 u (l * 256) (s.lineSecure l)
  else s.found u l ecc

def execScrubRead (unit : Nat) (ecc : EccResult) (forced : Bool) (s : State) : Out :=
  answer s (
    if (s.unit unit).st ≠ .service ∨ s.obj 0x6000 1 24 = 0 ∨ s.unitLines unit = 0 then s
    else s.scrub unit ecc forced)

/-! ### Refresh and temperature (R270) -/

/-- Refresh code of a temperature (Table 10.12). -/
def refreshOf (t : Nat) : Nat := if 95 < t then 2 else if 85 < t then 1 else 0

/-- A unit after a reading; `none` is a temperature that cannot be read. -/
def MemUnit.read (x : MemUnit) (celsius : Option Nat) : MemUnit :=
  match celsius with
  | none => { x with temp := 0xFF, refresh := 2, cool := 0 }
  | some t =>
    let need := refreshOf t
    let x := { x with temp := min t 0xFE }
    if x.refresh ≤ need then { x with refresh := need, cool := 0 }
    else if t + 3 ≤ (if x.refresh = 2 then 95 else 85) then
      (if 9 ≤ x.cool then { x with refresh := x.refresh - 1, cool := 0 } else { x with cool := x.cool + 1 })
    else { x with cool := 0 }

def execMemTempRead (unit : Nat) (celsius : Option Nat) (s : State) : Out :=
  answer s (s.setUnit unit ((s.unit unit).read celsius))

/-! ### CE_RATE (R284, R287) -/

/-- The unit with the most corrected errors of the second, the lowest of equals. -/
def worstUnit (m : Map Nat Nat) : Nat :=
  (List.range 24).foldl (fun best u => if m.get 0 best < m.get 0 u then u else best) 0

/-- The end of a whole second. -/
def execCeRateTick (s : State) : Out :=
  answer s (
    let n := (s.mem.ceSecond.map Prod.snd).sum
    let above := decide (s.mem.ceLimit < n)
    let s := if above ∧ !s.mem.ceRate then s.log 0x0103 (worstUnit s.mem.ceSecond) n else s
    { s with mem := { s.mem with ceRate := above, ceSecond := [], ceLimit := s.obj 0x6000 3 1000 } })

/-! ### Retraining (spec/18 R482-R484) -/

/-- A unit leaves service: its waiting requests are answered without it. -/
def State.unitOut (s : State) (u attempts : Nat) : State :=
  let s := s.setUnit u { s.unit u with st := .out, attempts := 0 }
  let s := s.log 0x0107 u (1 + attempts * 256)
  let lines := dedup ((s.mem.waiting.filter (fun w => w.1 == u)).map (fun w => w.2.line))
  lines.foldl State.serveLine s

/-- A cause of R482 that the kind of unit knows. -/
def retrainCause (u cause : Nat) : Bool :=
  cause == 2 || (cause == 0 && decide (8 ≤ u)) || (cause == 1 && decide (u < 8))

def State.retrainStart (s : State) (u cause : Nat) : State :=
  let x := s.unit u
  let recent := x.recent.filter (fun t => decide (s.time < t + 10 ^ 9))
  if 8 ≤ recent.length then s.unitOut u 0
  else (s.setUnit u { x with st := .retraining, attempts := 0, recent := recent ++ [s.time] }).log 0x0106 u cause

def execUnitRetrainStart (unit cause : Nat) (s : State) : Out :=
  answer s (if (s.unit unit).st = .service ∧ retrainCause unit cause then s.retrainStart unit cause else s)

def State.attemptEnd (s : State) (u : Nat) (passed : Bool) : State :=
  let x := s.unit u
  let n := x.attempts + 1
  if passed then
    ((s.setUnit u { x with st := .service, attempts := 0 }).log 0x0107 u (n * 256)).issue u
  else if 3 ≤ n then s.unitOut u n
  else s.setUnit u { x with attempts := n }

def execUnitRetrainAttemptEnd (unit : Nat) (passed : Bool) (s : State) : Out :=
  answer s (if (s.unit unit).st = .retraining then s.attemptEnd unit passed else s)

/-! ### BAR4 (spec/14 R382) -/

def State.bar4Who (s : State) (fn : Nat) : Requester := ⟨s.fnSecure fn, fn, none⟩

/-- Bytes of a function's BAR4 (Table 14.2): a request past its end reaches no BAR of the function. -/
def State.bar4Bytes (s : State) (fn : Nat) : Nat := if fn = 0 then s.hif.bar4Size else 4 * 2 ^ 30

/-- A read through BAR4; a request off the bound IDE stream, or past the end of the BAR, is completed with Unsupported Request (R441;
the latter PRESUMED, log 54). -/
def execBar4Read (fn offset length : Nat) (ide : Bool) (s : State) : Out :=
  answer s (
    if s.bar4Bytes fn < offset + length then (s.aer fn aerUnsupported).emit (.pcieData fn .unsupported [])
    else if s.hif.safeMode then s.emit (.pcieData fn .data (List.replicate length 0#8))
    else if s.ideRefused fn ide then (s.ideRefuse fn).emit (.pcieData fn .unsupported [])
    else s.bar4Ask (s.bar4Who fn) ((s.fn fn).bar4 + offset) length)

/-- One piece of a BAR4 write within a line. -/
def State.bar4Put (s : State) (who : Requester) (a : Nat) (bs : List Byte) : State :=
  if 2 ^ 47 ≤ a ∨ s.place a = .reserved ∨ s.unserved who a then s
  else if s.bar4Waits who a bs.length true then s.wait (.write who a 0 bs)
  else
    let (st, s) := s.writePiece who a bs 0
    s.writeDone who a st

def execBar4Write (fn offset : Nat) (bytes : List Byte) (ide : Bool) (s : State) : Out :=
  answer s (
    if s.bar4Bytes fn < offset + bytes.length then s.aer fn aerUnsupported
    else if s.hif.safeMode then s
    else if s.ideRefused fn ide then s.ideRefuse fn
    else
      let a := (s.fn fn).bar4 + offset
      (linePieces (bytes.length / 256 + 2) a bytes.length).foldl
        (fun s p => s.bar4Put (s.bar4Who fn) p.1 ((bytes.drop (p.1 - a)).take p.2)) s)

/-! ### The host's side (spec/14 R379, R382) -/

/-- A completion for an access to the host window at local address `addr`: its data stand there, or its lines act as poisoned. -/
def execHostWindowCompletion (addr : Nat) (how : Completion) (bytes : List Byte) (s : State) : Out :=
  answer s (
    let lines := (linePieces (bytes.length / 256 + 2) addr bytes.length).map (fun p => p.1 / 256)
    let others := s.mem.hostBad.filter (fun l => !lines.contains l)
    if addr < 2 ^ 47 ∨ 2 ^ 48 < addr + bytes.length then s
    else if how = .data then { s with mem := { s.mem with hostBad := others, cells := cellsPut s.mem.cells addr bytes } }
    else { s with mem := { s.mem with hostBad := others ++ lines } })

/-- The bits of a register of configuration space that hold what software writes (spec/14 R377, Table 14.1; their places are the PCI
Express base specification's, PRESUMED, log 54): bus mastering and memory space; Max Payload Size up to 512 bytes and Max Read Request
Size; ASPM, L1 only; the power state; MSI-X Enable and Function Mask; VF enable and the number of VFs. -/
def cfgRw : ConfigReg → Word32
  | .command => 0x0006#32
  | .deviceControl => 0x70E0#32
  | .linkControl => 0x0002#32
  | .powerControl => 0x0003#32
  | .msixControl => 0xC0000000#32
  | .vfControl => 0x007F0001#32
  | _ => 0

/-- Bytes of a BAR by its place, 0, 2 or 4 as 0, 1 or 2 (Table 14.2): of the PF, or of each VF. -/
def State.barBytes (s : State) (vf : Bool) (k : Nat) : Nat :=
  match k with
  | 0 => if vf then 8 * 2 ^ 10 else 64 * 2 ^ 20
  | 1 => if vf then 4 * 2 ^ 20 else 256 * 2 ^ 20
  | 2 => if vf then 4 * 2 ^ 30 else s.hif.bar4Size
  | _ => 2 ^ 64

/-- The address bits of a word of a 64-bit BAR, and its type bits: 64-bit, prefetchable for BAR4 alone (R380). -/
def State.barMask (s : State) (vf : Bool) (d : Nat) : Word32 := BitVec.ofNat 32 ((2 ^ 64 - s.barBytes vf (d / 2)) / 2 ^ (32 * (d % 2)))
def barType (d : Nat) : Word32 := if d = 4 then 0xC#32 else if d = 0 ∨ d = 2 then 0x4#32 else 0

/-- A register of configuration space: the identifiers the spec gives (spec/00 Table 0.2, spec/15 object 0x1009:02), the size of BAR4 as
its power of two of MiB, the entries of the MSI-X table beside its enables, what software wrote elsewhere; free where the spec says
nothing of the word (log 5). -/
def State.configWord (s : State) (fn : Nat) (r : ConfigReg) : Word32 :=
  let free := fun k => (Config.freeValue s.freeCount k).toNat
  match r with
  | .ids => if fn = 0 then BitVec.ofNat 32 ((if s.fuses.gradeB then 0x9181 else 0x9180) * 2 ^ 16 + 0x1B9F) else BitVec.ofNat 32 (free 0)
  | .revision => if fn = 0 then BitVec.ofNat 32 (setBits (free 1 % 2 ^ 32) 0 8 0x10) else BitVec.ofNat 32 (free 1)
  | .bar4Size => if fn = 0 then BitVec.ofNat 32 ((Nat.log2 s.hif.bar4Size - 20) * 2 ^ 8) else 0
  | .msixControl => s.cfgReg fn .msixControl ||| BitVec.ofNat 32 ((if fn = 0 then 2047 else 31) * 2 ^ 16)
  | .bar d => if fn = 0 then (s.cfgReg 0 (.bar d) &&& s.barMask false d) ||| barType d else 0
  | .vfBar d => if fn = 0 then (s.cfgReg 0 (.vfBar d) &&& s.barMask true d) ||| barType d else 0
  | .other offset => BitVec.ofNat 32 (free (2 + offset))
  | r => s.cfgReg fn r

/-- Send the pending messages of a function's entries that are no longer masked (spec/14 R383: the PCIe MSI-X rules). -/
def State.msixRelease (s : State) (f : Nat) : State :=
  if !s.msixEnabled f || s.msixMasked f then s
  else
    let due := (s.hif.msix.filter (fun p => p.1.1 == f && p.2.pending && !p.2.masked)).map (fun p => p.1.2)
    due.foldl (fun s v =>
      let e := s.hif.msix.get {} (f, v)
      ({ s with hif := { s.hif with msix := s.hif.msix.put (f, v) { e with pending := false } } } : State).msix f v) s

/-- A write to configuration space: the RW bits; BAR4 of the PF takes a size from 1 GiB to 1 TiB (Table 14.2), another value is ignored;
power states D0 and D3hot (Table 14.1); an error bit written as one is cleared. -/
def State.configWrite (s : State) (fn : Nat) (r : ConfigReg) (value : Word32) : State :=
  match r with
  | .bar4Size =>
    let k := bits value.toNat 8 6
    if fn = 0 ∧ 10 ≤ k ∧ k ≤ 20 then { s with hif := { s.hif with bar4Size := 2 ^ (20 + k) } } else s
  | .aerUncorrectable => s.setCfg fn r (s.cfgReg fn r &&& ~~~value)
  | .aerCorrectable => s.setCfg fn r (s.cfgReg fn r &&& ~~~value)
  | .msixControl => (s.setCfg fn r (value &&& cfgRw r)).msixRelease fn
  | .powerControl => if bits value.toNat 0 2 = 0 ∨ bits value.toNat 0 2 = 3 then s.setCfg fn r (value &&& cfgRw r) else s
  | .vfControl => if fn = 0 then s.setCfg fn r (value &&& cfgRw r) else s
  | .bar d => if fn = 0 then s.setCfg 0 r (value &&& s.barMask false d) else s
  | .vfBar d => if fn = 0 then s.setCfg 0 r (value &&& s.barMask true d) else s
  | r => if cfgRw r = 0 then s else s.setCfg fn r (value &&& cfgRw r)

/-- A request to a function's configuration space, a write or a read: Request Retry Status until BS23 completes or safe mode is entered
(spec/14 R379), an answer afterwards. -/
def execPcieConfigRequest (fn : Nat) (access : ConfigAccess) (s : State) : Out :=
  answer s (
    let register := access.register
    if s.hif.notReady ∧ !s.hif.safeMode then s.emit (.configData fn register true 0)
    else match access.write with
      | some v => (s.configWrite fn register v).emit (.configData fn register false 0)
      | none => s.fresh.2.emit (.configData fn register false (s.configWord fn register)))

end Sys2Proof.Machine
end

