-- ==== Sys2Proof/Machine/Objects.lean ====
section
/-!
DEFINITION. The object dictionary: the objects of every table of the manual with type, access and flags, their values, defaults and
ranges (spec/00 R3, R16; spec/06 R169; spec/07 R208; spec/08 R229; spec/10 R287; spec/11 R332; spec/13 R376; spec/15 R399-R403, R417,
R418; spec/16 R432-R435, R446, R453; spec/17 R475; spec/18 R489-R493).
-/
namespace Sys2Proof.Machine

/-! ### Types and access (Table 15.1, R16) -/

inductive ObjType where
  | bool | u (bytes : Nat) | i16 | vstring | ostring | domain
deriving DecidableEq, Repr

inductive ObjAccess where
  | ro | rw | wo | const
deriving DecidableEq, Repr

/-- Type code of Table 15.1. -/
def ObjType.code : ObjType → Nat
  | .bool => 0x01
  | .u n => if n = 1 then 0x02 else if n = 2 then 0x03 else if n = 4 then 0x04 else 0x05
  | .i16 => 0x07
  | .vstring => 0x0C
  | .ostring => 0x0D
  | .domain => 0x0E

/-- A length fits a type: the size of a fixed one, the limit of a variable one (R399). -/
def ObjType.fits (t : ObjType) (n : Nat) : Bool :=
  match t with
  | .bool => n == 1
  | .u k => n == k
  | .i16 => n == 2
  | .vstring => decide (n ≤ 256)
  | .ostring => decide (n ≤ 4096)
  | .domain => decide (n ≤ 16777216)

/-- Rows of the object tables: indices, subindexes, type, access, S flag, P flag. -/
structure ObjRow where
  lo : Nat
  hi : Nat
  slo : Nat
  shi : Nat
  ty : ObjType
  acc : ObjAccess
  s : Bool := false
  p : Bool := false
deriving DecidableEq, Repr

def objIdentity : List ObjRow :=
  [⟨0x1000, 0x1000, 0, 0, .u 4, .const, false, false⟩, ⟨0x1008, 0x1008, 0, 0, .vstring, .const, false, false⟩,
   ⟨0x1009, 0x1009, 1, 1, .u 4, .const, false, false⟩, ⟨0x1009, 0x1009, 2, 2, .u 2, .const, false, false⟩,
   ⟨0x100A, 0x100A, 0, 0, .vstring, .ro, false, false⟩, ⟨0x1010, 0x1010, 1, 3, .u 1, .const, false, false⟩,
   ⟨0x1011, 0x1011, 1, 1, .u 1, .wo, false, false⟩, ⟨0x1012, 0x1012, 1, 1, .u 4, .ro, false, false⟩,
   ⟨0x1012, 0x1012, 2, 4, .u 1, .ro, false, false⟩, ⟨0x1012, 0x1012, 5, 5, .u 4, .ro, false, false⟩,
   ⟨0x1012, 0x1012, 6, 6, .u 1, .ro, false, false⟩, ⟨0x1018, 0x1018, 1, 3, .u 4, .const, false, false⟩,
   ⟨0x1018, 0x1018, 4, 4, .ostring, .const, false, false⟩, ⟨0x1020, 0x1020, 1, 5, .u 1, .ro, false, false⟩,
   ⟨0x1020, 0x1020, 6, 6, .u 8, .const, false, false⟩, ⟨0x1021, 0x1021, 1, 1, .u 2, .rw, true, true⟩,
   ⟨0x1021, 0x1021, 2, 2, .u 1, .ro, false, false⟩, ⟨0x1021, 0x1021, 3, 4, .u 4, .ro, false, false⟩,
   ⟨0x1F00, 0x1F00, 1, 1, .u 1, .ro, false, false⟩, ⟨0x1F00, 0x1F00, 2, 2, .u 1, .rw, true, true⟩,
   ⟨0x1F00, 0x1F00, 3, 4, .domain, .wo, true, false⟩, ⟨0x1F00, 0x1F00, 5, 6, .u 1, .ro, false, false⟩]

def objSettings : List ObjRow :=
  [⟨0x2100, 0x21FF, 1, 3, .u 4, .rw, false, true⟩, ⟨0x2500, 0x2500, 1, 2, .u 8, .rw, false, true⟩,
   ⟨0x2500, 0x2500, 3, 4, .u 8, .rw, true, true⟩, ⟨0x2500, 0x2500, 5, 5, .u 4, .rw, true, true⟩,
   ⟨0x3000, 0x3000, 1, 1, .u 2, .rw, true, true⟩, ⟨0x3000, 0x3000, 2, 2, .u 1, .rw, true, true⟩,
   ⟨0x3000, 0x3000, 3, 4, .bool, .rw, true, true⟩, ⟨0x3001, 0x3001, 1, 4, .u 2, .rw, true, true⟩,
   ⟨0x3002, 0x3002, 1, 1, .u 1, .rw, true, true⟩, ⟨0x3010, 0x3010, 1, 10, .i16, .ro, false, false⟩,
   ⟨0x3011, 0x3011, 1, 2, .u 2, .ro, false, false⟩, ⟨0x4010, 0x4010, 1, 3, .u 1, .rw, true, true⟩,
   ⟨0x4010, 0x4010, 4, 4, .bool, .rw, true, true⟩, ⟨0x4020, 0x4020, 1, 2, .u 8, .rw, true, true⟩,
   ⟨0x4020, 0x4020, 3, 3, .u 4, .const, false, false⟩, ⟨0x4020, 0x4020, 4, 4, .u 1, .const, false, false⟩,
   ⟨0x4100, 0x4100, 1, 2, .u 2, .ro, false, false⟩, ⟨0x4100, 0x4100, 3, 3, .u 4, .const, false, false⟩,
   ⟨0x4500, 0x457F, 1, 1, .domain, .rw, false, false⟩, ⟨0x4580, 0x45FF, 1, 1, .domain, .rw, true, false⟩,
   ⟨0x4500, 0x45FF, 2, 2, .u 4, .ro, false, false⟩, ⟨0x4500, 0x45FF, 3, 3, .u 1, .ro, false, false⟩]

def objLinksMemory : List ObjRow :=
  [⟨0x5000, 0x5000, 1, 1, .u 2, .rw, true, true⟩, ⟨0x5000, 0x5000, 2, 2, .u 1, .rw, true, true⟩,
   ⟨0x5000, 0x5000, 3, 3, .u 1, .ro, false, false⟩, ⟨0x5000, 0x5000, 4, 4, .u 4, .rw, true, true⟩,
   ⟨0x5000, 0x5000, 5, 5, .u 4, .ro, false, true⟩, ⟨0x5000, 0x5000, 6, 6, .u 2, .ro, false, false⟩,
   ⟨0x5001, 0x5001, 1, 1, .u 4, .rw, true, true⟩, ⟨0x5001, 0x5001, 2, 2, .u 1, .rw, true, true⟩,
   ⟨0x5001, 0x5001, 3, 3, .u 4, .rw, true, true⟩, ⟨0x5001, 0x5001, 4, 5, .u 2, .rw, true, true⟩,
   ⟨0x5001, 0x5001, 6, 6, .u 2, .ro, false, false⟩, ⟨0x5002, 0x5002, 1, 4, .u 1, .ro, false, false⟩,
   ⟨0x5400, 0x57FF, 1, 1, .u 4, .rw, true, false⟩, ⟨0x5800, 0x5BFF, 1, 1, .u 1, .ro, false, false⟩,
   ⟨0x5800, 0x5BFF, 2, 2, .u 4, .ro, false, false⟩, ⟨0x6000, 0x6000, 1, 2, .u 1, .rw, true, true⟩,
   ⟨0x6000, 0x6000, 3, 3, .u 4, .rw, true, true⟩, ⟨0x6001, 0x6001, 1, 1, .u 1, .ro, false, false⟩,
   ⟨0x6001, 0x6001, 2, 2, .u 1, .rw, true, true⟩, ⟨0x6001, 0x6001, 3, 4, .u 1, .ro, false, false⟩,
   ⟨0x6002, 0x6002, 1, 2, .u 8, .ro, false, false⟩, ⟨0x6100, 0x6100, 1, 1, .u 2, .rw, true, true⟩,
   ⟨0x6100, 0x6100, 2, 2, .u 1, .rw, true, true⟩, ⟨0x6100, 0x6100, 3, 3, .u 2, .rw, true, true⟩,
   ⟨0x6100, 0x6100, 4, 5, .u 1, .rw, true, true⟩, ⟨0x6100, 0x6100, 6, 6, .u 4, .const, false, false⟩,
   ⟨0x6101, 0x6101, 1, 1, .u 8, .rw, false, true⟩, ⟨0x6101, 0x6101, 2, 2, .u 4, .rw, false, true⟩,
   ⟨0x6101, 0x6101, 3, 3, .u 8, .rw, false, true⟩, ⟨0x6101, 0x6101, 4, 5, .u 4, .rw, false, true⟩,
   ⟨0x6101, 0x6101, 6, 6, .u 4, .ro, false, false⟩, ⟨0x6102, 0x6102, 1, 1, .u 8, .rw, true, true⟩,
   ⟨0x6102, 0x6102, 2, 2, .u 4, .rw, true, true⟩, ⟨0x6102, 0x6102, 3, 3, .u 8, .rw, true, true⟩,
   ⟨0x6102, 0x6102, 4, 5, .u 4, .rw, true, true⟩, ⟨0x6102, 0x6102, 6, 6, .u 4, .ro, false, false⟩,
   ⟨0x6200, 0x6217, 1, 1, .domain, .ro, false, true⟩, ⟨0x6200, 0x6217, 2, 2, .u 2, .ro, false, false⟩]

def objSecurity : List ObjRow :=
  [⟨0x7000, 0x7000, 1, 1, .u 1, .ro, false, false⟩, ⟨0x7000, 0x7000, 2, 2, .ostring, .wo, false, false⟩,
   ⟨0x7000, 0x7000, 3, 3, .u 1, .wo, true, false⟩, ⟨0x7000, 0x7000, 4, 4, .ostring, .ro, false, false⟩,
   ⟨0x7000, 0x7000, 5, 5, .u 1, .ro, false, false⟩, ⟨0x7002, 0x7002, 1, 5, .ostring, .ro, false, false⟩,
   ⟨0x7010, 0x7010, 1, 1, .ostring, .ro, false, true⟩, ⟨0x7020, 0x7020, 1, 1, .domain, .rw, true, true⟩,
   ⟨0x7030, 0x7030, 1, 2, .u 1, .rw, true, false⟩, ⟨0x7100, 0x71FF, 1, 3, .u 4, .rw, true, false⟩,
   ⟨0x7300, 0x7300, 1, 4, .u 8, .ro, false, false⟩, ⟨0x7300, 0x7300, 5, 5, .u 4, .ro, false, false⟩,
   ⟨0x7300, 0x7300, 6, 8, .u 8, .ro, false, false⟩]

def objRecords : List ObjRow :=
  [⟨0x8000, 0x8000, 1, 1, .domain, .ro, false, false⟩, ⟨0x8000, 0x8000, 2, 2, .u 4, .ro, false, false⟩,
   ⟨0x8010, 0x8010, 1, 3, .u 8, .ro, false, false⟩, ⟨0x9000, 0x9000, 1, 4, .u 8, .ro, false, false⟩,
   ⟨0x9000, 0x9000, 5, 5, .u 8, .rw, false, false⟩, ⟨0x9001, 0x9001, 0, 0, .domain, .ro, false, false⟩,
   ⟨0xA000, 0xA000, 1, 1, .u 4, .ro, false, true⟩, ⟨0xA000, 0xA000, 2, 2, .bool, .ro, false, true⟩,
   ⟨0xA000, 0xA000, 3, 4, .u 1, .wo, false, false⟩, ⟨0xA000, 0xA000, 5, 5, .u 1, .ro, false, false⟩,
   ⟨0xA000, 0xA000, 6, 6, .u 4, .ro, false, false⟩, ⟨0xA100, 0xA117, 1, 2, .u 1, .ro, false, true⟩,
   ⟨0xA100, 0xA117, 3, 3, .u 2, .ro, false, true⟩, ⟨0xA100, 0xA117, 4, 4, .u 1, .ro, false, true⟩,
   ⟨0xA100, 0xA117, 5, 5, .bool, .ro, false, true⟩, ⟨0xA100, 0xA117, 6, 6, .u 4, .ro, false, false⟩,
   ⟨0xA200, 0xA200, 1, 0x28, .u 4, .ro, false, true⟩, ⟨0xF000, 0xF000, 1, 1, .u 2, .ro, false, false⟩,
   ⟨0xF000, 0xF000, 2, 2, .u 8, .ro, false, false⟩, ⟨0xF001, 0xF001, 0, 0, .ostring, .ro, false, false⟩,
   ⟨0xF100, 0xF15F, 0, 0, .domain, .ro, false, false⟩]

def objTable : List ObjRow := objIdentity ++ objSettings ++ objLinksMemory ++ objSecurity ++ objRecords

/-- The rows of an index. -/
def objRowsOf (i : Nat) : List ObjRow := objTable.filter (fun r => decide (r.lo ≤ i) && decide (i ≤ r.hi))

/-- The highest subindex of a listed index: 0 for a single variable (R400). -/
def objHigh (i : Nat) : Option Nat := ((objRowsOf i).map ObjRow.shi).max?

/-- The entry of an object; subindex 0 of a RECORD is a U8 CONST. -/
def objEntry (i sub : Nat) : Option ObjRow :=
  match objHigh i with
  | none => none
  | some h =>
    if sub = 0 ∧ h ≠ 0 then some ⟨i, i, 0, 0, .u 1, .const, false, false⟩
    else (objRowsOf i).find? (fun r => decide (r.slo ≤ sub) && decide (sub ≤ r.shi))

/-- Index ranges that hold persistent objects, ascending (R421). -/
def pIndices : List (Nat × Nat) :=
  [(0x1021, 1), (0x1F00, 1), (0x2100, 256), (0x2500, 1), (0x3000, 3), (0x4010, 1), (0x4020, 1), (0x5000, 2), (0x6000, 2), (0x6100, 3),
    (0x6200, 24), (0x7010, 1), (0x7020, 1), (0xA000, 1), (0xA100, 24), (0xA200, 1)]

/-- Every persistent object, ascending. -/
def pObjects : List (Nat × Nat × ObjRow) :=
  pIndices.flatMap (fun r => (range r.1 r.2).flatMap (fun i =>
    (range 1 ((objHigh i).getD 0)).filterMap (fun sub =>
      ((objEntry i sub).filter ObjRow.p).map (fun e => (i, sub, e)))))

/-! ### Defaults and ranges of the settings -/

/-- Thermal design power of the grade in W (R1). -/
def State.tdp (s : State) : Nat := if s.fuses.gradeB then 1550 else 1800

/-- Default of an RW object of a numeric type, as a number. -/
def State.objDefault (s : State) (i sub : Nat) : Nat :=
  match i, sub with
  | 0x1021, 1 => 1000
  | 0x2500, 5 => 100000
  | 0x3000, 1 => s.tdp
  | 0x3000, 2 => 6
  | 0x3000, _ => 1
  | 0x3001, 1 => 10
  | 0x3001, 2 => 50
  | 0x3001, 3 => 200
  | 0x3001, 4 => 100
  | 0x3002, 1 => 95
  | 0x4010, 1 => 2
  | 0x4010, 2 => 2
  | 0x4010, _ => 1
  | 0x4020, 1 => 2 ^ 38 - 2 ^ 24 - 1152 * 2 ^ 20
  | 0x4020, 2 => 2 ^ 39 - 2 ^ 24 - 1152 * 2 ^ 20
  | 0x5000, 1 => 0xFFFF
  | 0x5001, 1 => 0xFFFFFFFF
  | 0x5001, 3 => 2000
  | 0x5001, 4 => 100
  | 0x5001, 5 => 100
  | 0x6000, 1 => 24
  | 0x6000, 2 => 8
  | 0x6000, 3 => 1000
  | 0x6001, 2 => 36
  | 0x6100, 1 => 256
  | 0x6100, 3 => 128
  | 0x6100, 4 => 32
  | 0x6101, 5 => 4096
  | 0x6102, 5 => 4096
  | _, _ => 0

/-- The value of an RW object held in the table of settings, as a number. -/
def State.setting (s : State) (i sub : Nat) : Nat := s.obj i sub (s.objDefault i sub)

/-- A value is in the range of a numeric setting (R403 and the objects' tables). -/
def State.inRange (s : State) (i sub v : Nat) : Bool :=
  let within := fun (lo hi : Nat) => decide (lo ≤ v) && decide (v ≤ hi)
  match i, sub with
  | 0x1021, 1 => within 100 60000
  | 0x1F00, 2 => within 0 1
  | 0x2500, 2 => v % 2 ^ 21 == 0
  | 0x2500, 4 => v % 2 ^ 21 == 0
  | 0x2500, 5 => within 1000 10000000
  | 0x3000, 1 => within 400 s.tdp
  | 0x3000, 2 => within 0 8
  | 0x3001, 1 => within 1 10000
  | 0x3001, 2 => within 1 10000
  | 0x3001, 3 => within 1 60000
  | 0x3001, 4 => within 1 60000
  | 0x3002, 1 => within 80 100
  | 0x4010, 1 => within 1 6
  | 0x4010, 2 => within 1 6
  | 0x4010, 3 => within 0 2
  | 0x5000, 1 => within 0 1023 || v == 0xFFFF
  | 0x5000, 2 => within 0 127
  | 0x5001, 2 => within 0 1
  | 0x5001, 3 => within 200 1000000 && decide (4 * s.setting 0x5001 4 ≤ v)
  | 0x5001, 4 => within 10 1000 && decide (4 * v ≤ s.setting 0x5001 3)
  | 0x5001, 5 => within 70 10000
  | 0x6000, 1 => within 0 168
  | 0x6000, 2 => within 0 12
  | 0x6001, 2 => [28, 32, 36].contains v
  | 0x6100, 1 => [64, 128, 256, 512, 1024].contains v
  | 0x6100, 2 => [0, 1, 3].contains v
  | 0x6100, 3 => [64, 128].contains v
  | 0x6100, 4 => within 16 128 && v % 4 == 0
  | 0x6100, 5 => within 0 (s.setting 0x6100 4) && v % 4 == 0
  | 0x7030, 1 => within 0 64
  | 0x7030, 2 => within 0 31
  | _, _ =>
    if 0x2100 ≤ i ∧ i ≤ 0x21FF ∧ sub = 1 then
      (within 0 (2 ^ 32 - 1)) && (decide (bits v 16 7 ≤ 64) || bits v 16 7 == 0x41) && !(bit v 29 && bit v 30)
    else if 0x5400 ≤ i ∧ i ≤ 0x57FF then decide ((maskList v).length ≤ 4)
    else true

/-- The bits of a setting that exist: descriptors of the boot table have reserved ones (Table 16.2). -/
def objMask (i sub v : Nat) : Nat :=
  if 0x2100 ≤ i ∧ i ≤ 0x21FF then (if sub = 1 then v &&& regCtrlRw.toNat else v % 2 ^ 27) else v

/-- A value passes the checks of R403 for a setting. -/
def State.valueOk (s : State) (i sub : Nat) (e : ObjRow) (v : List Byte) : Bool :=
  match e.ty with
  | .bool => decide (ofLE v ≤ 1)
  | .u _ => s.inRange i sub (ofLE v)
  | .domain => if i = 0x7020 then v.length % 48 == 0 && decide (v.length ≤ 384) else true
  | _ => true

/-- An entry of the boot table (R435). -/
def State.bootRegion (s : State) (i : Nat) : Region :=
  ({ base := s.setting (0x2100 + i) 2, size := s.setting (0x2100 + i) 3 } : Region).withCtrl (s.setting (0x2100 + i) 1)

/-! ### The event log and the diagnostic objects (spec/18) -/

/-- Severity of an event code (Table 18.7). -/
def severity (code : Nat) : Nat :=
  if [0x0103, 0x0104, 0x0401, 0x0403].contains code then 1
  else if [0x0204, 0x0302, 0x0304, 0x0503].contains code then 0
  else if [0x0101, 0x0102, 0x0108, 0x0301, 0x0701].contains code then 2
  else if [0x0502, 0x0704].contains code then 4 else 3

/-- The 32 bytes of an entry, as its reader's world sees it (Table 18.6, R491). -/
def LogEntry.bytes (e : LogEntry) (secure : Bool) : List Byte :=
  let hide := e.secure && !secure
  let z := fun (n : Nat) => if hide then 0 else n
  toLE 8 e.seq ++ toLE 8 e.time ++ toLE 2 (z e.code) ++ toLE 1 (severity e.code) ++ toLE 1 (b2n e.secure) ++ toLE 2 (z e.count)
    ++ toLE 2 (z e.source) ++ toLE 8 (z e.data)

def EvLog.oldest (l : EvLog) : Nat := match l.entries with | [] => l.next | e :: _ => e.seq

/-- LOG_ENTRIES from a cursor. -/
def EvLog.bytes (l : EvLog) (cursor : Nat) (secure : Bool) : List Byte :=
  ((l.entries.filter (fun e => decide (cursor ≤ e.seq))).take 2048).flatMap (fun e => e.bytes secure)

/-- The 64 task records of a core; those of Secure stages read as zero from Open (Table 18.8). -/
def State.diagTasks (s : State) (c : Nat) (secure : Bool) : List Byte :=
  (List.range 64).flatMap (fun i =>
    match (s.core c).slots.find i with
    | none => List.replicate 64 0#8
    | some t => if !secure && ((s.stage t.stage).map Stage.secure).getD false then List.replicate 64 0#8 else s.taskRecord t)

/-- Cores withdrawn, bit c of 12 bytes. -/
def State.coresWithdrawn (s : State) : List Byte := toLE 12 (wordOf ((List.range 96).map (fun c => (s.core c).withdrawn)))

/-- A snapshot of every counter of the Open-visible pages (R493). -/
def State.snapshot (s : State) : List Byte :=
  let as_ := s.counterAddrs
  toLE 8 s.time ++ toLE 4 as_.length ++ toLE 4 0 ++ as_.flatMap (fun a => toLE 4 a ++ toLE 4 0 ++ toLE 8 (s.ctr a).toNat)

/-! ### Values of the objects that are not settings -/

/-- The I3C provisioned identifier (R407). -/
def State.provisionedId (s : State) : Nat := 0x2E5 * 2 ^ 33 + 2 ^ 32 + field s.fuses.serial 0 4

/-- STORE_STATE (Table 15.10, R427). -/
def State.storeState (s : State) : Nat :=
  if s.store.absent then 5 else if s.store.failed then 4 else if s.warned then 3
  else if s.store.writing.isSome then 2 else if s.store.pending then 1 else 0

/-- An older version of a function slot is still in use by an admitted stage (R218). -/
def State.fnInUse (s : State) (i : Nat) : Bool :=
  let x := s.fnSlots.get {} i
  s.dsp.stages.any (fun p => !p.2.done && p.2.fnVers.any (fun f => f.1 == 0x100 + i && f.2.1 != x.version))

def State.fnCount (s : State) (secure : Bool) : Nat :=
  (s.fnSlots.filter (fun p => !p.2.image.isEmpty && decide (0x80 ≤ p.1) == secure)).length

/-- An entry of a remap list (R287). -/
def remapBytes (e : Nat × Nat × Bool) : List Byte := toLE 8 (e.1 + e.2.1 * 2 ^ 26 + b2n e.2.2 * 2 ^ 38)

/-- Usable bytes in service (Table 10.18). -/
def State.hbmUsable (s : State) : Nat := ((List.range 2).map (fun h => if s.mem.inService.getD h false then 2 ^ 38 - 2 ^ 24 else 0)).sum
def State.g7Usable (s : State) : Nat := ((List.range 2).map (fun h => if s.mem.inService.getD h false then s.g7Bytes h else 0)).sum

/-- What a measurement block covers (Table 16.7), as bytes. -/
def State.measured (s : State) (i : Nat) : List Byte :=
  let image := ((s.store.fw.getD s.store.fwActive {}).image)
  match i with
  | 2 => image
  | 3 => toLE 1 s.store.fwActive
  | 4 => toLE 1 (b2n s.fuses.gradeB) ++ toLE 1 0x10 ++ toLE 1 (b2n s.fuses.production)
      ++ s.fuses.owners.flatMap (fun o => toLE 1 (b2n o.revoked) ++ toLE 2 (o.digest.getD []).length ++ o.digest.getD [])
  | 5 => (s.sec.regions.filter (fun p => p.2.secure)).flatMap (fun p => toLE 1 p.1 ++ toLE 4 p.2.ctrl ++ toLE 4 p.2.base ++ toLE 4 p.2.size)
      ++ (s.fnSlots.filter (fun p => decide (0x80 ≤ p.1))).flatMap (fun p => toLE 1 p.1 ++ toLE 2 p.2.image.length ++ p.2.image)
      ++ (range 1 5).flatMap (fun k => toLE 8 (s.setting 0x6102 k)) ++ toLE 8 (s.setting 0x2500 3) ++ toLE 8 (s.setting 0x2500 4)
  | _ => []

def State.measurement (s : State) (i : Nat) : List Byte := Config.measurement i (s.measured i)

def State.brRec (s : State) (step k : Nat) : BrRec := s.boot.recs.get {} (step, k)

/-- The step and unit of a subindex of BR_UNIT (R475). -/
def brUnit (sub : Nat) : Nat × Nat :=
  if sub ≤ 0x20 then (15, sub) else if sub ≤ 0x22 then (10, sub - 0x20) else if sub ≤ 0x24 then (11, sub - 0x22) else (14, sub - 0x24)

def BrRec.word (r : BrRec) : Nat := r.last + r.alt * 2 ^ 8 + r.fails * 2 ^ 16 + b2n r.skip * 2 ^ 24

/-- A field of a step's record; TRIES, FAILS saturate where they are counted. -/
def State.brField (s : State) (step sub : Nat) : Nat :=
  let r := s.brRec step 0
  match sub with
  | 1 => r.last
  | 2 => r.alt
  | 3 => r.tries
  | 4 => r.fails
  | 5 => b2n r.skip
  | _ => s.boot.duration.get 0 step

/-- LASER_STATE (Table 11.18): 1 while the outputs are disabled (spec/20 R518). -/
def laserState (l : Laser) : Nat := if !l.seated then 0 else if l.up then 2 else 1

def peerState : PeerSt → Nat
  | .absent => 0 | .joining => 1 | .present => 2 | .lost => 3

/-- A number read from an RO or CONST object of a numeric type. -/
def State.roNumber (s : State) (i sub : Nat) : Nat :=
  match i, sub with
  | 0x1000, _ => 0x9180
  | 0x1009, 1 => 63917
  | 0x1009, _ => 0x1B9F
  | 0x1010, 1 => if s.fuses.gradeB then 2 else 1
  | 0x1010, 2 => 0x10
  | 0x1010, _ => s.coreCount
  | 0x1012, 1 => s.store.seq
  | 0x1012, 2 => s.store.winner.getD 0xFF
  | 0x1012, 3 => s.storeState
  | 0x1012, 4 => s.store.tokens
  | 0x1012, 5 => match s.store.winner with | none => 0 | some b => (s.store.banks.getD b []).length
  | 0x1012, _ => s.store.load
  | 0x1018, 1 => 63917
  | 0x1018, 2 => if s.fuses.gradeB then 0x9181 else 0x9180
  | 0x1018, _ => 0x10
  | 0x1020, 6 => s.provisionedId
  | 0x1020, _ => if sub ≤ 2 then s.dict.addrs.getD (sub - 1) 0 else s.dict.eids.getD (sub - 3) 0
  | 0x1021, 2 => s.dict.managers.length
  | 0x1021, 3 => s.dict.discards
  | 0x1021, _ => s.dict.busy
  | 0x1F00, 1 => s.store.fwActive
  | 0x1F00, _ => (s.store.fw.getD (sub - 5) {}).st
  | 0x3010, _ => s.pwr.temps.getD (sub - 1) 0
  | 0x3011, 1 => s.pwr.pkgPower
  | 0x3011, _ => s.pwr.setMv
  | 0x4020, 3 => 3145728
  | 0x4020, _ => 8
  | 0x4100, 1 => s.fnCount false
  | 0x4100, 2 => s.fnCount true
  | 0x4100, _ => 65536
  | 0x5000, 3 => s.lnk.tpos
  | 0x5000, 5 => s.incarnation
  | 0x5000, _ => s.lnk.devid
  | 0x5001, _ => s.timeMaster
  | 0x5002, _ => laserState (s.lnk.lasers.getD (sub - 1) {})
  | 0x6001, 1 => (s.mem.g7Density.find? (· != 0)).getD 0
  | 0x6001, _ => if s.hif.safeMode then 0 else s.mem.g7Rate.getD (sub - 3) 0
  | 0x6002, 1 => s.hbmUsable
  | 0x6002, _ => s.g7Usable
  | 0x6100, _ => 65536
  | 0x6101, _ => (s.kvPool false).free
  | 0x6102, _ => (s.kvPool true).free
  | 0x7000, 1 => s.ownerSlot.getD 0xFF
  | 0x7000, _ => (s.fuses.owners.filter (fun o => o.digest.isNone)).length
  | 0x7300, 5 => s.kvStat true
  | 0x7300, _ => (s.ctr (objCtr 0x7300 sub)).toNat
  | 0x8000, _ => s.snapshot.length
  | 0x8010, _ => (s.ctr (objCtr 0x8010 sub)).toNat
  | 0x9000, 1 => s.evlog.next
  | 0x9000, 2 => s.evlog.oldest
  | 0x9000, 3 => s.evlog.overwritten
  | 0x9000, _ => s.evlog.dropped
  | 0xA000, 1 => s.boot.starts
  | 0xA000, 2 => b2n s.boot.safe
  | 0xA000, 5 => s.boot.lastReset
  | 0xA000, _ => s.boot.readyUs
  | 0xA200, _ => (s.brRec (brUnit sub).1 (brUnit sub).2).word
  | 0xF000, 1 => s.flt.diagFatal
  | 0xF000, _ => s.flt.diagFatalTime
  | _, _ =>
    if 0x4500 ≤ i ∧ i ≤ 0x45FF then
      let x := s.fnSlots.get {} (i - 0x4500)
      if sub = 2 then x.version.toNat else if x.image.isEmpty then 0 else if s.fnInUse (i - 0x4500) then 2 else 1
    else if 0x5800 ≤ i ∧ i ≤ 0x5BFF then
      let p := s.peer (i - 0x5800)
      if sub = 1 then peerState p.st else wordOf ((List.range 32).map p.ports.contains)
    else if 0x6200 ≤ i ∧ i ≤ 0x6217 then (s.unit (i - 0x6200)).remap.length
    else if 0xA100 ≤ i ∧ i ≤ 0xA117 then s.brField (i - 0xA100) sub
    else 0

/-- The name of the part (R3). -/
def State.deviceName (s : State) : List Byte :=
  ascii (if s.fuses.gradeB then ['I', 'Z', 'R', '-', '9', '1', '8', '0', '-', 'B'] else ['I', 'Z', 'R', '-', '9', '1', '8', '0', '-', 'A'])

/-- The value of an object of a text, byte-string or domain type. -/
def State.bigValue (s : State) (i sub cursor : Nat) (secure : Bool) : List Byte :=
  match i, sub with
  | 0x1008, _ => s.deviceName
  | 0x100A, _ => Config.fwVersion (s.measured 2)
  | 0x1018, _ => s.fuses.serial
  | 0x7000, _ => match s.ownerSlot with | none => [] | some k => ((s.fuses.owners.getD k {}).digest).getD []
  | 0x7002, _ => s.measurement sub
  | 0x8000, _ => s.snapshot
  | 0x9001, _ => s.evlog.bytes cursor secure
  | 0xF001, _ => s.coresWithdrawn
  | _, _ =>
    if 0x4500 ≤ i ∧ i ≤ 0x45FF then (s.fnSlots.get {} (i - 0x4500)).image
    else if 0x6200 ≤ i ∧ i ≤ 0x6217 then (s.unit (i - 0x6200)).remap.flatMap remapBytes
    else if 0xF100 ≤ i ∧ i ≤ 0xF15F then s.diagTasks (i - 0xF100) secure
    else (s.objs.find (i, sub)).getD []

/-- The bytes of a number of a fixed type. -/
def ObjType.bytes (t : ObjType) (v : Nat) : List Byte :=
  match t with
  | .u n => toLE n v
  | .i16 => toLE 2 v
  | _ => toLE 1 v

/-- The value an object holds for a manager with a log cursor, before the masks of R401. -/
def State.objValue (s : State) (i sub cursor : Nat) (secure : Bool) : List Byte :=
  match objEntry i sub with
  | none => []
  | some e =>
    if sub = 0 ∧ objHigh i ≠ some 0 then toLE 1 ((objHigh i).getD 0)
    else match e.ty with
      | .vstring | .ostring | .domain => s.bigValue i sub cursor secure
      | t =>
        if i = 0x9000 ∧ sub = 5 then toLE 8 cursor
        else if 0x7100 ≤ i ∧ i ≤ 0x71FF then
          let r := s.region (i - 0x7100)
          toLE 4 (if sub = 1 then r.ctrl else if sub = 2 then r.base else r.size)
        else if 0x5400 ≤ i ∧ i ≤ 0x57FF then t.bytes (s.routeMask (i - 0x5400))
        else if e.acc = .rw then t.bytes (s.setting i sub)
        else t.bytes (s.roNumber i sub)

/-- An object reads as zero from Open (R401, R435, R208). -/
def State.hidden (s : State) (i sub : Nat) : Bool :=
  (decide (0x7000 ≤ i) && decide (i ≤ 0x7FFF)) || (i == 0x6102 && sub == 6)
    || (decide (0x2100 ≤ i) && decide (i ≤ 0x21FF) && sub != 0 && (s.bootRegion (i - 0x2100)).secure)

/-- The value a reader finds. -/
def State.readObj (s : State) (i sub cursor : Nat) (secure : Bool) : List Byte :=
  let v := s.objValue i sub cursor secure
  if !secure && s.hidden i sub then List.replicate v.length 0#8 else v

end Sys2Proof.Machine
end

