-- ==== Sys2Proof/Machine/Reset.lean ====
section
/-!
DEFINITION. The two kinds of device reset (spec/17 R466, R467; spec/10 R259; spec/15 R402; spec/18 R489).
-/
namespace Sys2Proof.Machine

/-- The headland controller has work: its fast clock runs (Table 17.4). -/
def State.headland (s : State) : State := { s with pwr := { s.pwr with fastClock := true } }

/-- A device reset (Table 17.8): everything returns to its reset value but the fuses, the flash, the host's memory, the modules that are
seated, the reset lines, a thermal trip that holds, the queue of commands and the record of what was sent; a core reset keeps the event log, the bring-up record,
INCARNATION and device time. `code` is that of BR_LAST_RESET. -/
def State.deviceReset (s : State) (powerOn : Bool) (code : Nat) : State :=
  let fresh : State := {}
  { fresh with
    pending := s.pending
    freeCount := s.freeCount
    out := s.out
    fuses := s.fuses
    lines := s.lines
    time := if powerOn then 0 else s.time
    pwr := { fresh.pwr with trip := s.pwr.trip }
    phase := if powerOn then fresh.phase else s.phase
    mem := { fresh.mem with cells := s.mem.cells.filter (fun c => decide (2 ^ 47 ≤ c.1)), hostBad := s.mem.hostBad }
    lnk := { fresh.lnk with lasers := s.lnk.lasers.map (fun (l : Laser) => ({ seated := l.seated } : Laser)) }
    objs := if powerOn then [] else match s.objs.find (0x5000, 5) with | none => [] | some v => [((0x5000, 5), v)]
    store := { fresh.store with banks := s.store.banks, fw := s.store.fw, fwActive := s.store.fwActive }
    boot := { fresh.boot with
      recs := if powerOn then [] else s.boot.recs
      starts := if powerOn then 0 else s.boot.starts
      safe := if powerOn then false else s.boot.safe
      lastReset := code
      startTime := if powerOn then 0 else s.time
      restore := s.boot.restore
      clear := s.boot.clear }
    evlog := if powerOn then {} else s.evlog }

end Sys2Proof.Machine
end

