-- ==== Sys2Proof/Machine/Store.lean ====
section
/-!
DEFINITION. The persistent store: its record, the choice of the winning bank, loading, the seal and commits (spec/15 R419-R428; spec/16
R447; spec/17 R465, R472).
-/
namespace Sys2Proof.Machine

/-! ### Entries and records (Table 15.12) -/

/-- An entry of a record: index, subindex, type code, value. -/
abbrev StoreEntry := Nat × Nat × Nat × List Byte

def entryEncode (e : StoreEntry) : List Byte :=
  let v := e.2.2.2
  toLE 2 e.1 ++ toLE 1 e.2.1 ++ toLE 1 e.2.2.1 ++ toLE 4 v.length ++ v ++ List.replicate (roundUp v.length 4 - v.length) 0#8

/-- The entries of a record's body, as many as its header counts. -/
def entriesDecode : Nat → List Byte → List StoreEntry
  | 0, _ => []
  | n + 1, bs =>
    let len := field bs 4 4
    (field bs 0 2, field bs 2 1, field bs 3 1, (bs.drop 8).take len) :: entriesDecode n (bs.drop (8 + roundUp len 4))

/-- An entry that the seal covers (spec/16 R447): a Secure setting, or a boot-table entry whose WORLD is 1. -/
def State.sealed (s : State) (e : StoreEntry) : Bool :=
  match objEntry e.1 e.2.1 with
  | none => false
  | some r => r.p && (r.s || (decide (0x2100 ≤ e.1) && decide (e.1 ≤ 0x21FF) && (s.bootRegion (e.1 - 0x2100)).secure))

def sealOf (es : List StoreEntry) : List Byte := (Config.cmac Config.sealKey (es.flatMap entryEncode)).take 16

/-- The entries of a record of the present values, the seal among them. -/
def State.recordEntries (s : State) : List StoreEntry :=
  let es := (pObjects.filter (fun o => o.1 != 0x7010)).map (fun o => (o.1, o.2.1, o.2.2.ty.code, s.objValue o.1 o.2.1 0 true))
  let code := sealOf (es.filter s.sealed)
  es.flatMap (fun e => if e.1 = 0x7020 then [(0x7010, 1, ObjType.ostring.code, code), e] else [e])

/-- A record's bytes with a COMMIT field; the CRC takes it as all ones (R421). -/
def recordBytes (seq inc commit : Nat) (es : List StoreEntry) : List Byte :=
  let body := es.flatMap entryEncode
  let head := fun (c : Nat) => toLE 4 0x5254534B ++ toLE 2 1 ++ toLE 2 0 ++ toLE 4 seq ++ toLE 4 (64 + body.length + 4)
    ++ toLE 4 es.length ++ toLE 4 c ++ toLE 4 inc ++ List.replicate 36 0#8
  head commit ++ body ++ toLE 4 (crc32c (head 0xFFFFFFFF ++ body))

/-- A bank is valid (R422). -/
def bankValid (b : List Byte) : Bool :=
  let len := field b 0x0C 4
  field b 0 4 == 0x5254534B && field b 4 2 == 1 && decide (64 ≤ len) && decide (len ≤ 2 ^ 20) && len % 4 == 0
    && b.length == len && field b 0x14 4 == 0
    && field b (len - 4) 4 == crc32c (putBytes (b.take (len - 4)) 0x14 (toLE 4 0xFFFFFFFF))

/-- Serial-number arithmetic: `a` is later than `b` (R422). -/
def seqLater (a b : Nat) : Bool :=
  let d := (a + 2 ^ 32 - b % 2 ^ 32) % 2 ^ 32
  decide (1 ≤ d) && decide (d < 2 ^ 31)

/-- The winning bank (Table 15.13). -/
def winningBank (b0 b1 : List Byte) : Option Nat :=
  match bankValid b0, bankValid b1 with
  | false, false => none
  | true, false => some 0
  | false, true => some 1
  | true, true => some (if seqLater (field b1 8 4) (field b0 8 4) then 1 else 0)

/-! ### Commits (R424, R426) -/

/-- The sequence number of the next record. -/
def State.nextSeq (s : State) : Nat := if s.store.winner.isNone then 1 else (s.store.seq + 1) % 2 ^ 32

/-- Begin a commit: the image of the present values, the target's old record gone. -/
def State.beginCommit (s : State) (token : Bool) : State :=
  if s.store.absent ∨ s.store.failed then s
  else
    let target := if s.store.winner = some 0 then 1 else 0
    let n := s.nextSeq
    let image := recordBytes n s.incarnation 0xFFFFFFFF s.recordEntries
    { s.headland with store := { s.store with
        writing := some (target, n, image), banks := s.store.banks.set target [], pending := false, again := false
        tokens := if token then s.store.tokens - 1 else s.store.tokens } }

/-- A commit of the bring-up sequencer (spec/17 R472): the start is recorded; no token. -/
def State.bringupCommit (s : State) : State :=
  ({ s with boot := { s.boot with starts := (s.boot.starts + 1) % 2 ^ 32 } }).beginCommit false

/-- A commit's read-back: committed, repeated once, or FAILED. -/
def State.endCommit (s : State) (verified : Bool) : State :=
  match s.store.writing with
  | none => s
  | some (target, n, image) =>
    if verified then
      { s with store := { s.store with
          writing := none, again := false, winner := some target, seq := n
          banks := s.store.banks.set target (putBytes image 0x14 (toLE 4 0)) } }
    else if !s.store.again then { s with store := { s.store with again := true } }
    else ({ s with store := { s.store with writing := none, failed := true, pending := false } }).log 0x0601 0 n

/-- The record number that an ACK names now (R424); none where the write is VOLATILE. -/
def State.ackSeq (s : State) : Option Nat :=
  if s.store.absent ∨ s.store.failed then none
  else some ((s.nextSeq + (if s.store.writing.isSome then 1 else 0)) % 2 ^ 32)

/-! ### Values from the store (R423) -/

/-- A remap list from its bytes (spec/10 R287). -/
def remapDecode : Nat → List Byte → List (Nat × Nat × Bool)
  | 0, _ => []
  | n + 1, bs =>
    let w := field bs 0 8
    (bits w 0 26, bits w 26 12, bit w 38) :: remapDecode n (bs.drop 8)

/-- A field of a bring-up record takes a loaded value. -/
def BrRec.load (r : BrRec) (sub v : Nat) : BrRec :=
  match sub with
  | 1 => { r with last := v }
  | 2 => { r with alt := v }
  | 3 => { r with tries := v }
  | 4 => { r with fails := v }
  | _ => { r with skip := v != 0 }

def State.setRec (s : State) (step k : Nat) (r : BrRec) : State :=
  { s with boot := { s.boot with recs := s.boot.recs.put (step, k) r } }

/-- Put a value where its object lives. Bring-up records come from the store only at a power-on reset (spec/17 Table 17.8). -/
def State.loadValue (s : State) (i sub : Nat) (v : List Byte) : State :=
  let n := ofLE v
  let record := decide (s.boot.lastReset ≤ 2)
  if 0x6200 ≤ i ∧ i ≤ 0x6217 then
    s.setUnit (i - 0x6200) { s.unit (i - 0x6200) with remap := remapDecode (v.length / 8) v }
  else if 0xA000 ≤ i then
    if !record then s
    else if i = 0xA000 then
      { s with boot := if sub = 1 then { s.boot with starts := n } else { s.boot with safe := n != 0 } }
    else if i = 0xA200 then
      let (step, k) := brUnit sub
      s.setRec step k { last := bits n 0 8, alt := bits n 8 8, tries := (s.brRec step k).tries, fails := bits n 16 8, skip := bit n 24 }
    else s.setRec (i - 0xA100) 0 ((s.brRec (i - 0xA100) 0).load sub n)
  else if i = 0x5000 ∧ sub = 5 then
    if n < s.incarnation then s else { s with objs := s.objs.put (i, sub) v }
  else { s with objs := s.objs.put (i, sub) v }

/-- Whether an entry is applied: it names a P object, its TYPE and VLEN fit, its value passes R403. -/
def State.entryFits (s : State) (e : StoreEntry) : Bool :=
  match objEntry e.1 e.2.1 with
  | none => false
  | some r => r.p && r.ty.code == e.2.2.1 && r.ty.fits e.2.2.2.length && (r.acc == .ro || s.valueOk e.1 e.2.1 r e.2.2.2)

/-- Apply a record's entries in order, each skipped one being logged; the Boolean tells whether one was skipped. -/
def State.applyEntries (s : State) (es : List StoreEntry) : Bool × State :=
  es.foldl (fun acc e =>
    if acc.2.entryFits e then (acc.1, acc.2.loadValue e.1 e.2.1 e.2.2.2) else (true, acc.2.log 0x0601 1 acc.2.store.seq)) (false, s)

/-- The entries of a bank's record. -/
def bankEntries (b : List Byte) : List StoreEntry := entriesDecode (field b 0x10 4) ((b.drop 64).take (b.length - 68))

/-- BS02: choose the winner and load it (R422, R423). -/
def State.loadStore (s : State) (absent : Bool) : State :=
  let w := if absent then none else winningBank (s.store.banks.getD 0 []) (s.store.banks.getD 1 [])
  let s := { s with store := { s.store with absent := absent, winner := w } }
  match w with
  | none => ({ s with store := { s.store with load := 1 } }).log 0x0601 2 0
  | some b =>
    let bank := s.store.banks.getD b []
    let n := field bank 8 4
    let (skipped, s) := ({ s with store := { s.store with seq := n } }).applyEntries (bankEntries bank)
    if skipped then { s with store := { s.store with load := 2 } } else s

/-- A Secure setting returns to its default; a boot entry becomes invalid. -/
def State.toDefault (s : State) (i sub : Nat) : State := { s with objs := s.objs.del (i, sub) }

/-- What follows the settings as they now stand: the lasers follow PORT_ENABLE, the scrub period MEM_SCRUB_HOURS (spec/10 R276). -/
def State.followSettings (s : State) : State :=
  let h := s.setting 0x6000 1
  let s := if h ≠ 0 then { s with mem := { s.mem with scrubHours := h } } else s
  (List.range 4).foldl State.laserOutputs s

/-- The seal check at the end of BS03 (spec/16 R447). -/
def State.sealCheck (s : State) : State :=
  match s.store.winner with
  | none => s
  | some b =>
    let es := (bankEntries (s.store.banks.getD b [])).filter s.entryFits
    let covered := es.filter s.sealed
    let held := (es.find? (fun e => e.1 == 0x7010)).map (fun e => e.2.2.2)
    if (covered.isEmpty && held.isNone) || held == some (sealOf covered) then s
    else
      let s := (covered.foldl (fun s e => s.toDefault e.1 e.2.1) s).followSettings
      (({ s with sec := { s.sec with sealFail := true } }).log 0x0303 0 0 true).notifySecure

/-- Set every P object that a world may write to its default (R419); the bring-up record and the device's own records stay. -/
def State.restoreDefaults (s : State) (secure : Bool) : State :=
  (pObjects.foldl (fun (s : State) o =>
    if o.2.2.acc != .rw || (o.2.2.s && !secure) then s
    else if 0x2100 ≤ o.1 ∧ o.1 ≤ 0x21FF ∧ !secure ∧ (s.bootRegion (o.1 - 0x2100)).secure then s
    else s.toDefault o.1 o.2.1) s).touchStore.followSettings

/-! ### Commands of the store -/

/-- The store has been PENDING for 1 s and a token is there (R424, R426); a supply warning freezes it (R427). -/
def execStoreCommitStart (s : State) : Out :=
  answer s (
    if !s.store.pending || s.store.writing.isSome || s.store.tokens == 0 || s.warned then s
    else s.beginCommit true)

/-- The end of a commit; the core reset that waited for it follows (spec/17 R470). -/
def execStoreCommitEnd (verified : Bool) (s : State) : Out :=
  answer s (
    if s.warned then s
    else
      let t := s.endCommit verified
      if t.boot.restart ∧ t.store.writing.isNone then t.deviceReset false 6 else t)

def execStoreTokenTick (s : State) : Out :=
  answer s { s.headland with store := { s.store with tokens := min 64 (s.store.tokens + 1) } }

def State.setFw (s : State) (k : Nat) (x : FwSlot) : State :=
  { s with store := { s.store with fw := s.store.fw.set k x } }

/-- The blocks of a firmware slot are erased (R428). -/
def execFwSlotEraseComplete (slot : Nat) (s : State) : Out :=
  answer s (
    let x := s.store.fw.getD slot {}
    if x.st ≠ 1 ∨ s.warned then s else s.setFw slot { x with st := 0, blocks := x.erasing, erasing := 0, image := [] })

end Sys2Proof.Machine
end

