-- ==== Sys2Proof/Machine/Security.lean ====
section
/-!
DEFINITION. Trusted device interfaces, IDE streams, ownership, entropy, and the resets of functions (spec/14 R386; spec/16 R438-R444;
spec/17 R467).
-/
namespace Sys2Proof.Machine

/-! ### Leaving RUN (R439, R440) -/

def State.setTd (s : State) (f : Nat) (x : TdState) : State := { s with hif := { s.hif with td := s.hif.td.put f x } }

/-- Every ring of a function enters RESETTING. -/
def State.resetRings (s : State) (f : Nat) : State := (s.ringsOf f).foldl State.resetRing s

/-- The Secure key-value sequences recorded with a function. -/
def State.seqsOf (s : State) (f : Nat) : List Nat :=
  (s.kv.seqs.filter (fun p => p.2.secure && p.2.fn == f && (p.2.st == .live || p.2.st == .frozen))).map Prod.fst

/-- The Secure objects recorded with a function end. -/
def State.endSecure (s : State) (f : Nat) : State :=
  let sets := (s.dsp.sets.filter (fun p => s.owner p.2.ring == f)).map Prod.fst
  let s := sets.foldl (fun s k => s.releaseSet k.1 k.2) s
  let s := ((s.vid.decs.filter (fun p => p.2.secure && p.2.fn == f)).map Prod.fst).foldl State.closeDec s
  let s := ((s.vid.encs.filter (fun p => p.2.secure && p.2.fn == f)).map Prod.fst).foldl State.closeEnc s
  let s := ((s.pace.filter (fun p => p.2.running && p.2.secure && p.2.fn == f)).map Prod.fst).foldl State.stopChan s
  let q := s.seqsOf f
  if q.isEmpty then s else s.startRelease none true (q.flatMap (fun k => s.namedPages k none)) q

/-- VF `f` leaves its interface state for CONFIG_UNLOCKED or ERROR. -/
def State.leaveTd (s : State) (f : Nat) (x : TdState) : State :=
  if s.tdi f = .run then ((s.resetRings f).endSecure f).setTd f x else s.setTd f x

/-- A failure takes a locked or running interface to ERROR (Table 16.4). -/
def State.tdError (s : State) (f : Nat) : State :=
  if s.tdi f = .locked ∨ s.tdi f = .run then s.leaveTd f .error else s

/-- What software wrote to a function's configuration space goes back to its reset value (PRESUMED, the PCI Express base specification's
Function Level Reset; log 54). -/
def State.clearConfig (s : State) (f : Nat) : State :=
  { s with hif := { s.hif with
      cfg := s.hif.cfg.filter (fun p => p.1.1 != f)
      bar4Size := if f = 0 then 64 * 2 ^ 30 else s.hif.bar4Size } }

/-- A Function Level Reset (R386, Table 16.4). -/
def State.flr (s : State) (f : Nat) : State := ((s.resetRings f).tdError f).clearConfig f

def execFunctionLevelReset (fn : Nat) (s : State) : Out := answer s (s.flr fn)

/-- A Hot Reset acts as a Function Level Reset of every function (spec/17 R467). -/
def execPcieHotReset (s : State) : Out := answer s ((List.range 65).foldl State.flr s)

/-! ### Answers over the management transports (spec/15 R406, R407) -/

/-- Send an answer: on a bus it is announced by an In-Band Interrupt and waits to be fetched. -/
def State.reply (s : State) (via : Transport) (m : OutMsg) : State :=
  match via with
  | .i3c b => ({ s with dict := { s.dict with waiting := s.dict.waiting ++ [(b, m)] } }).emit (.i3c b 0 [])
  | _ => s.emit m

/-- Configuration space, and with it the DOE mailbox, answers (spec/14 R379). -/
def State.configUp (s : State) : Bool := !s.hif.notReady || s.hif.safeMode

/-- A transport on which the device has an endpoint that hears MCTP or DOE messages: its address on a bus, the trained PCIe link. -/
def State.hears (s : State) (via : Transport) : Bool :=
  match via with
  | .i3c b => s.dict.addrs.getD b 0 != 0
  | .vdm => s.hif.linkRate != 0
  | .doe => s.configUp && s.hif.linkRate != 0
  | .link _ => true

/-- Whether the device holds an endpoint identifier on a transport; DOE and the light links need none. -/
def State.hasEid (s : State) (via : Transport) : Bool :=
  match via with
  | .i3c b => s.dict.eids.getD b 0 != 0
  | .vdm => s.dict.eids.getD 2 0 != 0
  | _ => true

/-! ### TDISP (R438, R439): messages in secured sessions over DOE -/

/-- An SPDM message: version 1.3, code, two parameters, body. -/
def spdmMsg (code p1 p2 : Nat) (body : List Byte) : List Byte := [0x13#8] ++ toLE 1 code ++ toLE 1 p1 ++ toLE 1 p2 ++ body

/-- A TDISP answer: protocol 1, version 1.0, its code and the VF. -/
def tdispMsg (code vf : Nat) (body : List Byte) : List Byte :=
  spdmMsg 0x7E 0 0 (toLE 1 1 ++ toLE 1 0x10 ++ toLE 1 code ++ toLE 2 vf ++ body)

/-- A secured session over DOE carries the message. -/
def State.doeSession (s : State) (n : Nat) : Bool :=
  s.hears .doe && match s.sec.sessions.find n with
    | none => false
    | some x => x.established && x.via == .doe

/-- Answer a TDISP request for a VF; other requests are not heard. -/
def State.tdisp (s : State) (session vf : Nat) (act : State → Nat × List Byte × State) : State :=
  if !s.doeSession session || vf == 0 || decide (64 < vf) then s
  else let (code, body, t) := act s; t.emit (.spdm .doe (tdispMsg code vf body))

/-- A TDISP error: its code. -/
def tdispError (code : Nat) (s : State) : Nat × List Byte × State := (0x7F, toLE 4 code, s)

def tdCode : TdState → Nat
  | .unlocked => 0 | .locked => 1 | .run => 2 | .error => 3

def execGetTdispVersion (session vf : Nat) (s : State) : Out :=
  answer s (s.tdisp session vf (fun s => (0x01, [0x01#8, 0x10#8], s)))

def execGetTdispCapabilities (session vf : Nat) (s : State) : Out :=
  answer s (s.tdisp session vf (fun s => (0x02, Config.answerBody 0x02 [], s)))

/-- Rings of a function that are not DISABLED. -/
def State.ringsBusy (s : State) (f : Nat) : Bool := (s.ringsOf f).any (fun r => (s.ring r).st != .disabled)

def execLockInterfaceRequest (session vf : Nat) (s : State) : Out :=
  answer s (s.tdisp session vf (fun s =>
    if s.tdi vf ≠ .unlocked then tdispError 0x04 s
    else if s.ringsBusy vf then tdispError 0x104 s
    else (0x03, (List.range 32).map (Config.freeByte s.freeCount 0), s.fresh.2.setTd vf .locked)))

/-- The address of a VF's BAR, 0, 2 or 4 as 0, 1 or 2: the VFs' BARs lie one after another from the one of the SR-IOV capability
(PRESUMED, the PCI Express base specification's; log 54). -/
def State.vfBarBase (s : State) (vf k : Nat) : Nat :=
  (s.configWord 0 (.vfBar (2 * k + 1))).toNat * 2 ^ 32 + (s.configWord 0 (.vfBar (2 * k))).toNat / 16 * 16 + (vf - 1) * s.barBytes true k

/-- The interface report: the ranges of the VF's BAR0, BAR2 and BAR4 as first page, pages of 4 KiB and BAR; then, as device-specific
information with its length, the VF's function-table entry and its Secure regions (log 54 for the layout of a range). -/
def State.tdReport (s : State) (vf : Nat) : List Byte :=
  let e := s.fn vf
  let ranges := (List.range 3).flatMap (fun k =>
    toLE 8 (s.vfBarBase vf k / 4096) ++ toLE 4 (s.barBytes true k / 4096) ++ toLE 4 (2 * k * 2 ^ 16))
  let info := toLE 4 e.ringBase ++ toLE 4 e.ringCount ++ toLE 4 e.slots ++ toLE 8 e.bar4
    ++ (s.sec.regions.filter (fun p => p.2.valid && p.2.secure && p.2.owner == vf)).flatMap (fun p => toLE 4 p.2.base ++ toLE 4 p.2.size)
  toLE 4 3 ++ ranges ++ toLE 4 info.length ++ info

def execGetDeviceInterfaceReport (session vf : Nat) (s : State) : Out :=
  answer s (s.tdisp session vf (fun s => (0x04, Config.answerBody 0x04 (toLE 1 vf) ++ s.tdReport vf, s)))

def execGetDeviceInterfaceState (session vf : Nat) (s : State) : Out :=
  answer s (s.tdisp session vf (fun s => (0x05, toLE 1 (tdCode (s.tdi vf)), s)))

def execStartInterfaceRequest (session vf : Nat) (s : State) : Out :=
  answer s (s.tdisp session vf (fun s =>
    if s.tdi vf ≠ .locked then tdispError 0x04 s else (0x06, [], s.setTd vf .run)))

def execStopInterfaceRequest (session vf : Nat) (s : State) : Out :=
  answer s (s.tdisp session vf (fun s => (0x07, [], s.leaveTd vf .unlocked)))

def execTdispUnsupportedRequest (session vf code : Nat) (s : State) : Out :=
  answer s (s.tdisp session vf (fun s => (0x7F, toLE 4 0x07 ++ toLE 4 code, s)))

/-! ### IDE (R441) -/

/-- IDE_KM programs a key set of a selective stream and binds it to VFs. -/
def execIdeKmKeyProg (session stream keySet : Nat) (vfs : List Nat) (key : List Byte) (s : State) : Out :=
  answer s (
    if !s.doeSession session || decide (4 ≤ stream) then s
    else
      let x := s.sec.ide.get {} stream
      let keys := x.keys.filter (fun k => k.1 != keySet) ++ [(keySet, key)]
      { s with sec := { s.sec with ide := s.sec.ide.put stream { keys := keys, vfs := vfs, failed := false } } })

/-- A stream fails or loses its keys: the interfaces bound to it go to ERROR (Table 16.4). -/
def execIdeStreamFail (stream : Nat) (s : State) : Out :=
  answer s (
    match s.sec.ide.find stream with
    | none => s
    | some x =>
      let s := { s with sec := { s.sec with ide := s.sec.ide.put stream { x with failed := true, keys := [] } } }
      x.vfs.foldl State.tdError s)

/-! ### Entropy (R443) -/

def execEntropyHealthFail (s : State) : Out :=
  answer s (
    if s.sec.entropyFail then s
    else (({ s with sec := { s.sec with entropyFail := true } }).log 0x0303 1 0 true).notifySecure)

/-! ### Ownership (R444) -/

def State.setOwner (s : State) (k : Nat) (x : OwnerSlot) : State :=
  { s with fuses := { s.fuses with owners := s.fuses.owners.set k x } }

/-- Claiming (R444): the lowest free slot takes a digest; none where the state does not permit it. The session is checked by
`State.applyValue`, which answers STATE outside of one. -/
def State.claimOwner (s : State) (digest : List Byte) : Option State :=
  if s.ownerSlot.isSome then none
  else match (List.range 4).find? (fun k => (s.fuses.owners.getD k {}).digest.isNone) with
    | none => none
    | some k => some ((s.setOwner k { s.fuses.owners.getD k {} with digest := some digest }).log 0x0304 k 0 true)

/-- Step 3: every VALID Secure descriptor is cleared. -/
def State.clearSecure (s : State) : State :=
  ((s.sec.regions.filter (fun p => p.2.valid && p.2.secure)).map Prod.fst).foldl State.startClearing s

/-- Step 4: the Secure function slots are emptied. -/
def State.emptySecureFns (s : State) : State :=
  { s with fnSlots := s.fnSlots.map (fun (p : Nat × FnSlot) =>
      if 0x80 ≤ p.1 ∧ !p.2.image.isEmpty then (p.1, { p.2 with image := [], version := p.2.version + 1 }) else p) }

/-- Step 5: every S-flag persistent object returns to its default, and the store is committed. -/
def State.wipeSettings (s : State) : State :=
  let s := (pObjects.foldl (fun (s : State) o => if o.2.2.s then s.toDefault o.1 o.2.1 else s) s).touchStore.followSettings
  if s.store.writing.isSome || s.store.tokens == 0 || s.warned then s else s.beginCommit true

/-- Revoking the active slot (R444): its revoke bit, and the five steps in order. -/
def State.revokeOwner (s : State) : Option State :=
  match s.ownerSlot with
  | none => none
  | some k =>
    let s := (s.setOwner k { s.fuses.owners.getD k {} with revoked := true }).log 0x0304 k 1 true
    let s := { s with sec := { s.sec with sessions := s.sec.sessions.filter (fun p => !p.2.secure) } }
    let s := (List.range 65).foldl (fun s f => if s.tdi f = .run then s.leaveTd f .error else s) s
    some s.clearSecure.emptySecureFns.wipeSettings

end Sys2Proof.Machine
end

