-- ==== Sys2Proof/Machine/Dictionary.lean ====
section
/-!
DEFINITION. The Weloc protocol over its transports: segments, managers, transfers, the checks of a request, and what a write to each
object does (spec/08 R218; spec/15 R401-R416, R419, R428; spec/16 R434, R435, R444; spec/17 R471, R475; spec/18 R491). No object holds
more than 64 KiB, so every upload serves a copy and CHANGED is never answered (R412).
-/
namespace Sys2Proof.Machine

/-! ### Managers (R409) -/

/-- The identity of a manager: transport and endpoint, whatever session carries its message. -/
def mgrKey (m : Manager) : Manager :=
  match m.via with
  | .link d => ⟨.link d, 0, none⟩
  | v => ⟨v, m.eid, none⟩

/-- The world of a manager's message (Table 15.3, spec/16 R445). -/
def State.mgrSecure (s : State) (m : Manager) : Bool :=
  match m.session with
  | none => false
  | some n => match s.sec.sessions.find n with
    | none => false
    | some x => x.established && x.secure && x.via == m.via

/-- A session that carries a message exists on its transport. -/
def State.sessionOk (s : State) (m : Manager) : Bool :=
  match m.session with
  | none => true
  | some n => match s.sec.sessions.find n with
    | none => false
    | some x => x.established && x.via == m.via

/-- The always-on domain is up in this start (R415). -/
def State.aoUp (s : State) : Bool := s.boot.ended.contains (0, 0)

/-- Largest LEN of a transport (Table 15.3); none where Weloc does not run. -/
def welocLimit : Transport → Option Nat
  | .i3c _ => some 240
  | .vdm => some 1024
  | .doe => none
  | .link _ => some 10

/-- A manager is heard: it becomes the one heard last; a 33rd displaces the one silent longest, with its transfers. -/
def State.hear (s : State) (k : Manager) : State :=
  let d := s.dict
  let x : ManagerSt := (d.managers.find? (fun y => y.manager == k)).getD { manager := k, cursor := s.evlog.oldest }
  let rest := d.managers.filter (fun y => y.manager != k)
  let gone := if 32 ≤ rest.length then rest.head?.map ManagerSt.manager else none
  let rest := if 32 ≤ rest.length then rest.drop 1 else rest
  let xfers := d.xfers.filter (fun p => some p.2.manager != gone)
  { s.headland with dict := { d with managers := rest ++ [x], xfers := xfers } }

def State.mgr (s : State) (k : Manager) : ManagerSt :=
  (s.dict.managers.find? (fun y => y.manager == k)).getD { manager := k }

def State.setMgr (s : State) (x : ManagerSt) : State :=
  { s with dict := { s.dict with managers := s.dict.managers.map (fun y => if y.manager = x.manager then x else y) } }

/-! ### Answers (Table 15.4) -/

/-- What the device answers. -/
inductive Reply where
  | ack (flags : Nat) (data : List Byte)
  | abort (code : Nat)
  | busy (us : Nat)
deriving DecidableEq, Repr

/-- The bytes of a segment (Table 15.2). -/
def segBytes (cmd flags tag seq index sub : Nat) (data : List Byte) : List Byte :=
  let body := toLE 1 cmd ++ toLE 1 flags ++ toLE 1 tag ++ toLE 1 seq ++ toLE 2 index ++ toLE 1 sub ++ toLE 1 0 ++ toLE 2 data.length ++ data
  body ++ toLE 4 (crc32c body)

def segCmd (b : List Byte) : Nat := field b 0 1
def segTag (b : List Byte) : Nat := field b 2 1
def segSeq (b : List Byte) : Nat := field b 3 1
def segIndex (b : List Byte) : Nat := field b 4 2
def segSub (b : List Byte) : Nat := field b 6 1
def segLen (b : List Byte) : Nat := field b 8 2
def segData (b : List Byte) : List Byte := (b.drop 10).take (segLen b)

/-- A segment that R405 does not discard. -/
def segOk (limit : Nat) (b : List Byte) : Bool :=
  decide (14 ≤ b.length) && b.length == 14 + segLen b && decide (segLen b ≤ limit)
    && field b (10 + segLen b) 4 == crc32c (b.take (10 + segLen b))

/-- MCTP framing of a Weloc segment (R406): message type 0x7F, the PCI vendor identifier with its most significant byte first. -/
def welocFrame (b : List Byte) : List Byte := [0x7F#8, 0x1B#8, 0x9F#8] ++ b

/-- Send an answer to a manager. -/
def State.weloc (s : State) (m : Manager) (b : List Byte) : State :=
  match m.via with
  | .link d => s.sendMsg d 0x0C m.eid b
  | v => s.reply v (.weloc m (welocFrame b))

/-- The answer to a request segment. -/
def replySeg (req : List Byte) (r : Reply) : List Byte :=
  let out := fun (cmd flags : Nat) (data : List Byte) => segBytes cmd flags (segTag req) (segSeq req) (segIndex req) (segSub req) data
  match r with
  | .ack flags data => out 0x84 (1 + flags) data
  | .abort code => out 0x8F 1 (toLE 1 code)
  | .busy us => out 0x8E 1 (toLE 4 us)

/-- Send a reply; BUSY answers are counted. -/
def State.sendReply (s : State) (m : Manager) (req : List Byte) (r : Reply) : State :=
  let s := match r with
    | .busy _ => { s with dict := { s.dict with busy := min (2 ^ 32 - 1) (s.dict.busy + 1) } }
    | _ => s
  s.weloc m (replySeg req r)

/-- Keep the last answered expedited request of a manager for 1 s (R413); a BUSY answer is not kept. -/
def State.keep (s : State) (m : Manager) (req : List Byte) (r : Reply) : State :=
  match r with
  | .busy _ => s
  | _ => s.setMgr { s.mgr (mgrKey m) with last := some (req, replySeg req r, s.time, s.mgrSecure m) }

/-! ### Checks (Table 15.6) -/

/-- The hint of a BUSY answer before the dictionary is whole (R415, spec/17 R473). -/
def State.phaseHint (s : State) : Nat := max 1000 (398000 - (s.time - s.boot.startTime) / 1000)

/-- Checks 3 and 4: the phase of the dictionary, the index and the subindex. -/
def State.checkObject (s : State) (i sub : Nat) : Option Reply :=
  if !s.boot.full && !s.hif.safeMode && !(decide (0x1000 ≤ i) && decide (i ≤ 0x1FFF)) then some (.busy s.phaseHint)
  else if (objHigh i).isNone then some (.abort 0x02)
  else if (objEntry i sub).isNone then some (.abort 0x03)
  else none

/-- A request from Open is denied at an object (R401, spec/16 R431): logged, and counted where the block is Secure. -/
def State.denyObject (s : State) (i sub : Nat) : State :=
  let s := s.log 0x0301 0x7D (i * 256 + sub)
  if 0x7000 ≤ i ∧ i ≤ 0x7FFF then (s.tick1 secDeniedIn).notifySecure else s

/-- A boot-table entry that Open may not write. -/
def State.bootSecure (s : State) (i : Nat) : Bool :=
  decide (0x2100 ≤ i) && decide (i ≤ 0x21FF) && (s.bootRegion (i - 0x2100)).secure

/-- Check 6 for a write: the code, 0 passes. -/
def State.writeAccess (s : State) (i : Nat) (e : ObjRow) (secure : Bool) : Nat :=
  if e.acc = .ro ∨ e.acc = .const then 0x04
  else if (e.s || s.bootSecure i) && !secure then 0x06
  else 0

/-- The firmware slot of an object. -/
def fwSlot (i sub : Nat) : Option Nat := if i = 0x1F00 ∧ sub = 3 then some 0 else if i = 0x1F00 ∧ sub = 4 then some 1 else none

/-- A bring-up step reads firmware: BS03, which reads both slots. -/
def State.fwRead (s : State) : Bool := s.boot.running.any (fun p => p.1.1 == 3)

/-- Check 7: a slot that may not be written now (R428). -/
def State.fwState (s : State) (i sub : Nat) : Bool :=
  match fwSlot i sub with
  | none => false
  | some k => k == s.store.fwActive || s.fwRead

def State.openXfers (s : State) : Map Nat Xfer := s.dict.xfers.filter (fun p => !p.2.ended)

/-- Check 8 for a write: why it is BUSY (Table 15.7). -/
def State.writeBusy (s : State) (i sub : Nat) (e : ObjRow) : Option Nat :=
  if e.p && s.warned then some 1000
  else if 0x4500 ≤ i ∧ i ≤ 0x45FF ∧ sub = 1 ∧ s.fnInUse (i - 0x4500) then some 1000
  else none

/-! ### What a write does -/

/-- A running descriptor written by a Secure manager (spec/16 R434): the code, 0 accepted. -/
def State.regionRun (s : State) (i sub : Nat) (w : Nat) : Nat × State :=
  let old := s.region i
  if sub = 1 then
    let new := old.withCtrl (w &&& regCtrlRw.toNat)
    match s.regRefusal i new with
    | some .state => (0x0D, s)
    | some .range => (0x08, s)
    | none => (0, s.applyRegion i new)
  else if old.valid then (0x0D, s)
  else if old.clearing then (0x0D, s)
  else (0, s.setRegion i (if sub = 2 then { old with base := w % 2 ^ 27 } else { old with size := w % 2 ^ 27 }))

/-- An image written to a function slot: stored, or the slot emptied (spec/08 R216, R218). -/
def State.fnWrite (s : State) (k : Nat) (image : List Byte) : Nat × State :=
  let x := s.fnSlots.get {} k
  if image.isEmpty ∨ imgLegal image then
    (0, { s with fnSlots := s.fnSlots.put k { image := image, version := x.version + 1 } })
  else (0x0E, s)

/-- A value of a setting takes its place. -/
def State.settingWrite (s : State) (i sub : Nat) (e : ObjRow) (v : List Byte) (secure : Bool) : Nat × State :=
  if !s.valueOk i sub e v then (0x08, s)
  else
    let v := if 0x2100 ≤ i ∧ i ≤ 0x21FF then toLE 4 (objMask i sub (ofLE v)) else v
    if 0x2100 ≤ i ∧ i ≤ 0x21FF ∧ sub = 1 ∧ bit (ofLE v) 30 ∧ !secure then (0x06, s.denyObject i sub)
    else
      let s := { s with objs := s.objs.put (i, sub) v }
      let s := if i = 0x5001 ∧ sub = 1 then (List.range 4).foldl State.laserOutputs s else s
      let s := if i = 0x6000 ∧ sub = 1 ∧ ofLE v ≠ 0 then { s with mem := { s.mem with scrubHours := ofLE v } } else s
      (0, if e.p then s.touchStore else s)

/-- Apply a value (check 11 and 12): the abort code, 0 applied. -/
def State.applyValue (s : State) (m : Manager) (i sub : Nat) (e : ObjRow) (v : List Byte) : Nat × State :=
  let secure := s.mgrSecure m
  let one := v == [0x01#8]
  match i, sub with
  | 0x1011, _ => if one then (0, s.restoreDefaults secure) else (0x08, s)
  | 0x7000, 2 =>
    if v.length ≠ 48 then (0x08, s)
    else if m.session.isNone then (0x0D, s)
    else (match s.claimOwner v with | none => (0x0D, s) | some t => (0, t))
  | 0x7000, 3 => if !one then (0x08, s) else (match s.revokeOwner with | none => (0x0D, s) | some t => (0, t))
  | 0x9000, 5 => (0, s.setMgr { s.mgr (mgrKey m) with cursor := ofLE v })
  | 0xA000, 3 => if one then (0, { s with boot := { s.boot with restore := true } }) else (0x08, s)
  | 0xA000, 4 => if one then (0, { s with boot := { s.boot with clear := true } }) else (0x08, s)
  | _, _ =>
    if 0x7100 ≤ i ∧ i ≤ 0x71FF then s.regionRun (i - 0x7100) sub (ofLE v)
    else if 0x4500 ≤ i ∧ i ≤ 0x45FF then s.fnWrite (i - 0x4500) v
    else if 0x5400 ≤ i ∧ i ≤ 0x57FF ∧ (s.peer (i - 0x5400)).ports ≠ [] then (0x0D, s)     -- a direct peer's route (R311)
    else s.settingWrite i sub e v secure

/-- The ACK of an applied write (R424). -/
def State.ackOf (s : State) (e : ObjRow) : Reply :=
  if !e.p then .ack 0 []
  else match s.ackSeq with
    | some n => .ack 0 (toLE 4 n)
    | none => .ack 2 []

/-- A whole value for an object from checks 6 to 12. -/
def State.writeWhole (s : State) (m : Manager) (i sub : Nat) (e : ObjRow) (v : List Byte) : Reply × State :=
  let a := s.writeAccess i e (s.mgrSecure m)
  if a = 0x06 then (.abort a, s.denyObject i sub)
  else if a ≠ 0 then (.abort a, s)
  else if s.fwState i sub then (.abort 0x0D, s)
  else match s.writeBusy i sub e with
    | some us => (.busy us, s)
    | none =>
      if !e.ty.fits v.length ∨ (fwSlot i sub).isSome then (.abort 0x07, s)
      else
        let (code, t) := s.applyValue m i sub e v
        if code = 0 then (t.ackOf e, t) else (.abort code, t)

/-! ### Transfers (R410-R413) -/

/-- The context of a manager and TAG. -/
def State.xfer (s : State) (k : Manager) (tag : Nat) : Option (Nat × Xfer) :=
  s.dict.xfers.find? (fun p => p.2.manager == k && p.2.tag == tag)

def State.dropXfer (s : State) (n : Nat) : State := { s with dict := { s.dict with xfers := s.dict.xfers.del n } }
def State.setXfer (s : State) (n : Nat) (x : Xfer) : State := { s with dict := { s.dict with xfers := s.dict.xfers.put n x } }

/-- A context number to use: a free one, else one that has ended. -/
def State.freeXfer (s : State) : Option Nat :=
  match (List.range 8).find? (fun n => (s.dict.xfers.find n).isNone) with
  | some n => some n
  | none => (List.range 8).find? (fun n => ((s.dict.xfers.find n).map Xfer.ended).getD false)

/-- An opening segment that repeats the one of its context is answered again; otherwise it frees the context of its TAG. -/
def State.opener (s : State) (m : Manager) (req : List Byte) (act : State → State) : State :=
  match s.xfer (mgrKey m) (segTag req) with
  | some (n, x) => if x.opener = req ∧ x.seq = 0 ∧ x.secure = s.mgrSecure m then s.weloc m x.answer else act (s.dropXfer n)
  | none => act s

/-- A refusal of an opening request. -/
def State.refuseReq (s : State) (m : Manager) (req : List Byte) (r : Reply) : State := (s.sendReply m req r).keep m req r

/-- Open a context with its first answer. -/
def State.openXfer (s : State) (m : Manager) (req : List Byte) (n : Nat) (x : Xfer) (ans : List Byte) : State :=
  (s.setXfer n { x with opener := req, secure := s.mgrSecure m, answer := ans, used := s.time }).weloc m ans

/-- READ. -/
def State.welocRead (s : State) (m : Manager) (req : List Byte) : State :=
  let i := segIndex req; let sub := segSub req
  match s.checkObject i sub, objEntry i sub with
  | some r, _ => s.refuseReq m req r
  | none, none => s
  | none, some e => s.opener m req (fun s =>
    let secure := s.mgrSecure m
    let v := s.readObj i sub (s.mgr (mgrKey m)).cursor secure
    let n := s.freeXfer
    if segSeq req ≠ 0 then s.refuseReq m req (.abort 0x0A)
    else if e.acc = .wo then s.refuseReq m req (.abort 0x05)
    else if 8 < v.length ∧ n.isNone then s.refuseReq m req (.busy 10000)
    else if segLen req ≠ 0 then s.refuseReq m req (.abort 0x07)
    else
      let s := if 0x7000 ≤ i ∧ i ≤ 0x7FFF ∧ !secure then s.denyObject i sub else s
      let out := fun (cmd flags : Nat) (data : List Byte) => segBytes cmd flags (segTag req) 0 i sub data
      if v.length ≤ 8 then
        let ans := out 0x81 1 v
        (s.weloc m ans).setMgr { s.mgr (mgrKey m) with last := some (req, ans, s.time, secure) }
      else
        s.openXfer m req (n.getD 0)
          { manager := (mgrKey m), tag := segTag req, index := i, sub := sub, write := false, data := v, total := v.length }
          (out 0x82 0 (toLE 4 v.length ++ toLE 4 (crc32c v))))

/-- WRITE. -/
def State.welocWrite (s : State) (m : Manager) (req : List Byte) : State :=
  let i := segIndex req; let sub := segSub req
  match s.checkObject i sub, objEntry i sub with
  | some r, _ => s.refuseReq m req r
  | none, none => s
  | none, some e => s.opener m req (fun s =>
    if segSeq req ≠ 0 then s.refuseReq m req (.abort 0x0A)
    else
      let (r, s) := s.writeWhole m i sub (if 8 < segLen req then { e with ty := .bool } else e) (segData req)
      s.refuseReq m req r)

/-- The first part of a firmware transfer (R428): the blocks are erased before it opens. -/
def State.fwInit (s : State) (m : Manager) (req : List Byte) (k n total : Nat) (x : Xfer) : State :=
  let f := s.store.fw.getD k {}
  let need := ceilDiv total 65536
  let remaining := (Config.freeValue s.freeCount 0).toNat % 2 ^ 32
  if f.blocks < need then
    (s.fresh.2.setFw k { f with st := 1, erasing := need, blocks := 0, image := [] }).refuseReq m req (.busy remaining)
  else (s.setFw k { f with st := 2, blocks := 0, image := [] }).openXfer m req n x (replySeg req (.ack 0 []))

/-- WRITE_INIT. -/
def State.welocInit (s : State) (m : Manager) (req : List Byte) : State :=
  let i := segIndex req; let sub := segSub req
  match s.checkObject i sub, objEntry i sub with
  | some r, _ => s.refuseReq m req r
  | none, none => s
  | none, some e => s.opener m req (fun s =>
    let a := s.writeAccess i e (s.mgrSecure m)
    let n := s.freeXfer
    let fw := fwSlot i sub
    let total := field (segData req) 0 4
    let remaining := (Config.freeValue s.freeCount 0).toNat % 2 ^ 32     -- of an erase under way (log 5)
    let other := s.openXfers.any (fun p => p.2.write && (fwSlot p.2.index p.2.sub).isSome)
    if segSeq req ≠ 0 then s.refuseReq m req (.abort 0x0A)
    else if a = 0x06 then (s.denyObject i sub).refuseReq m req (.abort a)
    else if a ≠ 0 then s.refuseReq m req (.abort a)
    else if s.fwState i sub then s.refuseReq m req (.abort 0x0D)
    else if n.isNone ∨ (fw.isSome ∧ other) then s.refuseReq m req (.busy 10000)
    else match (if fw.any (fun k => (s.store.fw.getD k {}).st == 1) then some remaining else s.writeBusy i sub e) with
      | some us => (if fw.isSome then s.fresh.2 else s).refuseReq m req (.busy us)
      | none =>
        if segLen req ≠ 4 ∨ total < 9 ∨ !e.ty.fits total ∨ (fw.isNone ∧ 65536 < total) then s.refuseReq m req (.abort 0x07)
        else
          let x : Xfer := { manager := (mgrKey m), tag := segTag req, index := i, sub := sub, write := true, total := total }
          match fw with
          | some k => s.fwInit m req k (n.getD 0) total x
          | none => s.openXfer m req (n.getD 0) x (replySeg req (.ack 0 [])))

/-- An answer as a manager's world may see it: an upload of an object that reads as zero from Open serves zeros there (R401). -/
def State.shown (s : State) (m : Manager) (ans : List Byte) : List Byte :=
  if segCmd ans = 0x83 ∧ !s.mgrSecure m ∧ s.hidden (segIndex ans) (segSub ans) then
    segBytes 0x83 (field ans 1 1) (segTag ans) (segSeq ans) (segIndex ans) (segSub ans) (List.replicate (segLen ans) 0#8)
  else ans

/-- A continuation segment: its context, that its SEQ is the next (check 5), and its access (checks 6 and 7). -/
def State.continuation (s : State) (m : Manager) (req : List Byte) (write : Bool) (act : Nat → Xfer → State) : State :=
  let i := segIndex req; let sub := segSub req
  match s.checkObject i sub with
  | some r => s.sendReply m req r
  | none => match s.xfer (mgrKey m) (segTag req) with
    | none => s.sendReply m req (.abort 0x0B)
    | some (n, x) =>
      if x.write ≠ write ∨ x.index ≠ i ∨ x.sub ≠ sub then s.sendReply m req (.abort 0x0B)
      else if segSeq req = x.seq then s.weloc m (s.shown m x.answer)
      else if x.ended then (s.dropXfer n).sendReply m req (.abort 0x0B)
      else if segSeq req ≠ (x.seq + 1) % 256 then (s.dropXfer n).sendReply m req (.abort 0x0A)
      else if write && (objEntry i sub).any (fun e => s.writeAccess i e (s.mgrSecure m) == 0x06) then
        (s.denyObject i sub).sendReply m req (.abort 0x06)
      else if write && s.fwState i sub then s.sendReply m req (.abort 0x0D)
      else act n x

/-- A refusal that frees the transfer. -/
def State.endXfer (s : State) (m : Manager) (req : List Byte) (n code : Nat) : State := (s.dropXfer n).sendReply m req (.abort code)

/-- UPLOAD_NEXT. -/
def State.welocNext (s : State) (m : Manager) (req : List Byte) : State :=
  s.continuation m req false (fun n x =>
    if segLen req ≠ 0 then s.endXfer m req n 0x07
    else
      let part := (x.data.drop x.done).take ((welocLimit m.via).getD 10)
      let done := x.done + part.length
      let last := decide (x.total ≤ done)
      let ans := segBytes 0x83 (b2n last) x.tag (segSeq req) x.index x.sub part
      (s.setXfer n { x with done := done, seq := segSeq req, answer := ans, used := s.time, ended := last }).weloc m (s.shown m ans))

/-- WRITE_SEG: staged, or programmed in a firmware slot, before it is acknowledged. -/
def State.welocSeg (s : State) (m : Manager) (req : List Byte) : State :=
  s.continuation m req true (fun n x =>
    let d := segData req
    if x.total < x.done + d.length then s.endXfer m req n 0x07
    else
      let ans := replySeg req (.ack 0 [])
      let fw := fwSlot x.index x.sub
      let data := if fw.isSome then x.data else x.data ++ d
      let s := match fw with
        | none => s
        | some k => let f := s.store.fw.getD k {}; s.setFw k { f with image := f.image ++ d }
      (s.setXfer n { x with data := data, done := x.done + d.length, seq := segSeq req, answer := ans, used := s.time }).weloc m ans)

/-- A firmware slot reaches WRITTEN: in safe mode BS03's record is cleared and the slot preferred (spec/17 R471). -/
def State.fwWritten (s : State) (k : Nat) : State :=
  let s := s.setFw k { s.store.fw.getD k {} with st := 3 }
  if s.boot.safe then
    let s := s.setRec 3 0 { s.brRec 3 0 with fails := 0, skip := false }
    ({ s with objs := s.objs.put (0x1F00, 2) (toLE 1 k), boot := { s.boot with safe := false } }).touchStore
  else s

/-- WRITE_END. -/
def State.welocEnd (s : State) (m : Manager) (req : List Byte) : State :=
  s.continuation m req true (fun n x =>
    match objEntry x.index x.sub with
    | none => s.endXfer m req n 0x02
    | some e =>
      let crc := field (segData req) 0 4
      let finishAck := fun (s : State) (r : Reply) =>
        (s.setXfer n { x with seq := segSeq req, answer := replySeg req r, used := s.time, ended := true }).sendReply m req r
      let short := segLen req != 4 || decide (x.done < x.total)
      match fwSlot x.index x.sub with
      | some k =>
        let f := s.store.fw.getD k {}
        if short then s.endXfer m req n 0x07
        else if crc32c f.image = crc then finishAck (s.fwWritten k) (.ack 0 [])
        else (s.setFw k { f with st := 4 }).endXfer m req n 0x09
      | none =>
        match s.writeBusy x.index x.sub e with
        | some us => s.sendReply m req (.busy us)
        | none =>
          if short then s.endXfer m req n 0x07
          else if crc32c x.data ≠ crc then s.endXfer m req n 0x09
          else
            let (r, t) := s.writeWhole m x.index x.sub e x.data
            match r with
            | .abort code => t.endXfer m req n code
            | r => finishAck t r)

/-- ABORT from the manager: the transfer goes, nothing is answered. -/
def State.welocAbort (s : State) (m : Manager) (req : List Byte) : State :=
  match s.xfer (mgrKey m) (segTag req) with
  | none => s
  | some (n, _) => s.dropXfer n

/-- Whether a command is one that managers send (Table 15.4). -/
def managerCmd (c : Nat) : Bool := [0x01, 0x02, 0x03, 0x04, 0x05, 0x06, 0x0F].contains c

/-- A segment by its command. -/
def State.welocDo (s : State) (m : Manager) (req : List Byte) : State :=
  match segCmd req with
  | 0x01 => s.welocRead m req
  | 0x02 => s.welocNext m req
  | 0x03 => s.welocWrite m req
  | 0x04 => s.welocInit m req
  | 0x05 => s.welocSeg m req
  | 0x06 => s.welocEnd m req
  | 0x0F => s.welocAbort m req
  | _ => s.refuseReq m req (.abort 0x01)

/-- A manager's message reaches the dictionary: the always-on domain is up, the transport hears it, its session opens. -/
def State.reaches (s : State) (m : Manager) : Bool :=
  s.aoUp && s.hears m.via && s.sessionOk m && (welocLimit m.via).isSome

/-- A segment arrives (R405, R413); `wanted` tells the commands of the row. -/
def State.welocIn (s : State) (m : Manager) (req : List Byte) (wanted : Nat → Bool) : State :=
  if !s.reaches m then s
  else if !segOk ((welocLimit m.via).getD 0) req || !s.hasEid m.via then
    { s with dict := { s.dict with discards := min (2 ^ 32 - 1) (s.dict.discards + 1) } }
  else if !wanted (segCmd req) then s
  else
    let s := s.hear (mgrKey m)
    match (s.mgr (mgrKey m)).last with
    | some (old, ans, t, secure) =>
      if old = req ∧ s.time ≤ t + 10 ^ 9 ∧ secure = s.mgrSecure m then s.weloc m ans else s.welocDo m req
    | none => s.welocDo m req

def execRead (from_ : Manager) (segment : List Byte) (s : State) : Out := answer s (s.welocIn from_ segment (· == 0x01))
def execUploadNext (from_ : Manager) (segment : List Byte) (s : State) : Out := answer s (s.welocIn from_ segment (· == 0x02))
def execWrite (from_ : Manager) (segment : List Byte) (s : State) : Out := answer s (s.welocIn from_ segment (· == 0x03))
def execWriteInit (from_ : Manager) (segment : List Byte) (s : State) : Out := answer s (s.welocIn from_ segment (· == 0x04))
def execWriteSeg (from_ : Manager) (segment : List Byte) (s : State) : Out := answer s (s.welocIn from_ segment (· == 0x05))
def execWriteEnd (from_ : Manager) (segment : List Byte) (s : State) : Out := answer s (s.welocIn from_ segment (· == 0x06))
def execAbort (from_ : Manager) (segment : List Byte) (s : State) : Out := answer s (s.welocIn from_ segment (· == 0x0F))
def execWelocUnknownCmd (from_ : Manager) (segment : List Byte) (s : State) : Out :=
  answer s (s.welocIn from_ segment (fun c => !managerCmd c))

/-- A WELOC message of the light links: the segment stands at the start of its 24-byte body (spec/11 R297). It comes over any route
and port (R309, R408). -/
def execWeloc (src : Nat) (body : List Byte) (s : State) : Out :=
  answer s (
    let b := msgBody body
    if !msgOk 0x0C body then s.tick1 lnkBadMsg
    else s.welocIn ⟨.link src, msgTag body, none⟩ (b.take (14 + segLen b)) (fun _ => true))

def execWelocContextTimeout (context : Nat) (s : State) : Out := answer s (s.headland.dropXfer context)

def execWelocDuplicateExpiry (manager : Manager) (s : State) : Out :=
  answer s (s.headland.setMgr { s.mgr (mgrKey manager) with last := none })

/-! ### Writes with rows of their own: a manager's whole value, answered with TAG 0 -/

/-- A whole value written by a manager. -/
def State.managerWrite (s : State) (m : Manager) (i sub : Nat) (v : List Byte) : State :=
  if !s.reaches m || !s.hasEid m.via then s
  else
    let s := s.hear (mgrKey m)
    let req := segBytes 0x03 1 0 0 i sub []
    match s.checkObject i sub, objEntry i sub with
    | some r, _ => s.sendReply m req r
    | none, none => s
    | none, some e => let (r, t) := s.writeWhole m i sub e v; t.sendReply m req r

def execFnImageWrite (from_ : Manager) (function : Nat) (image : List Byte) (s : State) : Out :=
  answer s (s.managerWrite from_ (0x4500 + function) 1 image)
def execRestoreDefaults (from_ : Manager) (value : Nat) (s : State) : Out := answer s (s.managerWrite from_ 0x1011 1 (toLE 1 value))
def execBrRestore (from_ : Manager) (value : Nat) (s : State) : Out := answer s (s.managerWrite from_ 0xA000 3 (toLE 1 value))
def execBrClear (from_ : Manager) (value : Nat) (s : State) : Out := answer s (s.managerWrite from_ 0xA000 4 (toLE 1 value))
def execSecOwnerClaim (from_ : Manager) (digest : List Byte) (s : State) : Out := answer s (s.managerWrite from_ 0x7000 2 digest)
def execSecOwnerRevoke (from_ : Manager) (value : Nat) (s : State) : Out := answer s (s.managerWrite from_ 0x7000 3 (toLE 1 value))
def execRegionRunWrite (from_ : Manager) (descriptor sub : Nat) (value : Word32) (s : State) : Out :=
  answer s (s.managerWrite from_ (0x7100 + descriptor) sub (toLE 4 value.toNat))
def execLogCursorWrite (from_ : Manager) (value : Word64) (s : State) : Out :=
  answer s (s.managerWrite from_ 0x9000 5 (toLE 8 value.toNat))

end Sys2Proof.Machine
end

