-- ==== Sys2Proof/Machine/Mgmt.lean ====
section
/-!
DEFINITION. The MCTP control commands and the I3C target of the management buses (spec/15 R406-R408).
-/
namespace Sys2Proof.Machine

/-! ### MCTP control (R406, R408) -/

/-- Which endpoint identifier a transport has: MGMT0, MGMT1, PCIe. -/
def eidIndex : Transport → Option Nat
  | .i3c b => if b ≤ 1 then some b else none
  | .vdm => some 2
  | _ => none

/-- Answer an MCTP control command: message type 0x00, command code, completion code, data. Only transports that carry MCTP and that
the device hears answer. -/
def State.mctp (s : State) (via : Transport) (act : Nat → State → Nat × Nat × List Byte × State) : State :=
  match eidIndex via with
  | none => s
  | some k =>
    if !s.aoUp || !s.hears via then s
    else
      let (cmd, code, data, t) := act k s
      t.reply via (.mctp via ([0#8] ++ toLE 1 cmd ++ toLE 1 code ++ data))

/-- The transfers and duplicate records of the managers on a transport are discarded. -/
def State.forgetVia (s : State) (via : Transport) : State :=
  { s with dict := { s.dict with
      xfers := s.dict.xfers.filter (fun p => p.2.manager.via != via)
      managers := s.dict.managers.map (fun y => if y.manager.via = via then { y with last := none } else y) } }

/-- The device's endpoint identifier on a transport changes. -/
def State.setEid (s : State) (via : Transport) (k eid : Nat) : State :=
  if s.dict.eids.getD k 0 = eid then s
  else ({ s with dict := { s.dict with eids := s.dict.eids.set k eid } }).forgetVia via

/-- Operations 0 and 1 assign; the identifier is neither null nor broadcast. -/
def execSetEndpointId (via : Transport) (operation eid : Nat) (s : State) : Out :=
  answer s (s.mctp via (fun k s =>
    if 1 < operation ∨ eid = 0 ∨ 255 ≤ eid then (0x01, 0x02, [], s)
    else (0x01, 0, toLE 1 0 ++ toLE 1 eid ++ toLE 1 0, s.setEid via k eid)))

def execGetEndpointId (via : Transport) (s : State) : Out :=
  answer s (s.mctp via (fun k s => (0x02, 0, toLE 1 (s.dict.eids.getD k 0) ++ toLE 1 0 ++ toLE 1 0, s)))

def execGetEndpointUuid (via : Transport) (s : State) : Out :=
  answer s (s.mctp via (fun _ s => (0x03, 0, Config.uuid s.fuses.serial, s)))

/-- The message types the device supports. -/
def mctpTypes : List Nat := [0x00, 0x05, 0x06, 0x7F]

def execGetMctpVersionSupport (via : Transport) (messageType : Nat) (s : State) : Out :=
  answer s (s.mctp via (fun _ s =>
    if (0xFF :: mctpTypes).contains messageType then (0x04, 0, Config.mctpVersions messageType, s) else (0x04, 0x80, [], s)))

def execGetMessageTypeSupport (via : Transport) (s : State) : Out :=
  answer s (s.mctp via (fun _ s => (0x05, 0, toLE 1 mctpTypes.length ++ mctpTypes.flatMap (toLE 1), s)))

/-- Most significant byte first. -/
def toBE (n v : Nat) : List Byte := (toLE n v).reverse

/-- Selector 0: the PCI format; selector 1: the IANA format; each with the selector that follows and the Weloc version. -/
def execGetVendorDefinedMessageSupport (via : Transport) (selector : Nat) (s : State) : Out :=
  answer s (s.mctp via (fun _ s =>
    if selector = 0 then (0x06, 0, toLE 1 1 ++ toLE 1 0 ++ toBE 2 0x1B9F ++ toBE 2 0x0100, s)
    else if selector = 1 then (0x06, 0, toLE 1 0xFF ++ toLE 1 1 ++ toBE 4 63917 ++ toBE 2 0x0100, s)
    else (0x06, 0x02, [], s)))

def execMctpUnsupportedCmd (via : Transport) (command : Nat) (s : State) : Out :=
  answer s (s.mctp via (fun _ s => (command, 0x05, [], s)))

/-! ### I3C (R407, R408) -/

/-- The device's dynamic address on a bus changes: what is held for that bus's managers goes. -/
def State.setAddr (s : State) (b a : Nat) : State :=
  if s.dict.addrs.getD b 0 = a then s
  else ({ s with dict := { s.dict with addrs := s.dict.addrs.set b a } }).forgetVia (.i3c b)

/-- A bus loses its address: with it its endpoint identifier and the answers it announced. -/
def State.loseAddr (s : State) (b : Nat) : State :=
  let s := s.setEid (.i3c b) b 0
  { s with dict := { s.dict with waiting := s.dict.waiting.filter (fun w => w.1 != b) } }

/-- ENTDAA: the provisioned identifier, BCR 0x06 and DCR 0x00 arbitrate; an address held before is lost. -/
def execEntdaa (bus address : Nat) (s : State) : Out :=
  answer s (
    if !s.aoUp then s
    else
      let s := if s.dict.addrs.getD bus 0 = 0 then s else s.loseAddr bus
      (s.setAddr bus address).emit (.i3c bus 2 (toBE 6 s.provisionedId ++ [0x06#8, 0x00#8])))

def execSetnewda (bus address : Nat) (s : State) : Out :=
  answer s (if !s.hears (.i3c bus) then s else s.setAddr bus address)

def execRstdaa (bus : Nat) (s : State) : Out :=
  answer s (if !s.hears (.i3c bus) then s else (s.loseAddr bus).setAddr bus 0)

def execSetmwl (bus length : Nat) (s : State) : Out :=
  answer s (
    if !s.hears (.i3c bus) ∨ length < 64 ∨ 256 < length then s
    else { s with dict := { s.dict with mwl := s.dict.mwl.set bus length } })

def execSetmrl (bus length : Nat) (s : State) : Out :=
  answer s (
    if !s.hears (.i3c bus) ∨ length < 64 ∨ 256 < length then s
    else { s with dict := { s.dict with mrl := s.dict.mrl.set bus length } })

/-- A private read fetches the oldest answer announced on the bus. -/
def execI3cPrivateRead (bus : Nat) (s : State) : Out :=
  answer s (
    match s.dict.waiting.find? (fun w => w.1 == bus) with
    | none => s
    | some w => ({ s with dict := { s.dict with waiting := s.dict.waiting.erase w } }).emit w.2)

/-- 100 ms after bus activity began without an address: Hot-Join. -/
def execI3cHotJoinTimer (bus : Nat) (s : State) : Out :=
  answer s (if s.aoUp && s.dict.addrs.getD bus 0 == 0 then s.emit (.i3c bus 1 []) else s)

end Sys2Proof.Machine
end

