-- ==== Sys2Proof/Machine/Windows.lean ====
section
/-!
DEFINITION. Windows and what lands in them: data flits, window and read messages, and the COPY stages that use them (spec/11
R294, R313-R321; spec/05 R138; spec/10 R316).
-/
namespace Sys2Proof.Machine

/-! ### Windows (R313, R314) -/

/-- The requester that a peer's flit is (spec/16 R430). -/
def peerWho (secure : Bool) : Requester := ⟨secure, 0x7E, none⟩

/-- Checks 1 and 2 of R314: 0, REGION_FAULT or WORLD_DENIED. -/
def State.windowCheck (s : State) (secure : Bool) (base n : Nat) : Nat :=
  if n = 0 ∨ 2 ^ 47 ≤ base ∨ s.inMemory base n = false ∨ touches s.kvExtents base n then 3
  else match s.covering 257 base (base + n) with
    | none => 3
    | some gs =>
      if gs.all (fun g => !g.clearing && g.owner == 0 && (if secure then g.secure || g.shared else !g.secure)) then 0 else 4

def State.window (s : State) (h : Nat) : Option LinkWindow := s.lnk.windows.find h
def State.setWindow (s : State) (h : Nat) (w : LinkWindow) : State :=
  { s with lnk := { s.lnk with windows := s.lnk.windows.put h w } }

/-- The lowest handle not in use, while fewer than 4,096 windows are open. -/
def State.freeHandle (s : State) : Option Nat :=
  (List.range 4096).find? (fun h => (s.window h).isNone)

/-- Answer a WIN_REQ: deny, grant, or let it wait for a window, behind those that wait already. -/
def State.answerWindow (s : State) (src tag : Nat) (b : List Byte) : State :=
  let base := field b 0 6; let len := field b 6 5; let secure := bit (field b 11 1) 0
  let st := s.windowCheck secure base len
  if st ≠ 0 then
    (if st = 4 then s.deny secure 0x7E base else s).sendMsg src 0x06 tag (toLE 1 st)
  else match if s.lnk.winWait.isEmpty then s.freeHandle else none with
    | none => { s with lnk := { s.lnk with winWait := s.lnk.winWait ++ [(src, tag, b)] } }
    | some h =>
      (s.setWindow h { peer := src, base := base, length := len, secure := secure, cls := bits (field b 12 1) 0 3
                       kind := field b 13 1, tag := tag }).sendMsg src 0x05 tag (toLE 2 h)

/-- While windows are free the requests that wait are answered in arrival order: the first of them, then those behind it. -/
def State.serveWaiting (s : State) : State :=
  let ws := s.lnk.winWait
  ws.foldl (fun s w => s.answerWindow w.1 w.2.1 w.2.2) { s with lnk := { s.lnk with winWait := [] } }

/-- Close a window; the requests that wait are answered as far as windows are free. -/
def State.closeWindow (s : State) (h : Nat) : State :=
  ({ s with lnk := { s.lnk with windows := s.lnk.windows.del h } } : State).serveWaiting

/-- Answer WIN_DONE and close (R317). -/
def State.doneWindow (s : State) (h : Nat) : State :=
  match s.window h with
  | none => s
  | some w =>
    let status := if w.poison then 8 else if w.total = some w.applied then 0 else 0x0B
    (s.sendMsg w.peer 0x08 w.tag (toLE 2 h ++ toLE 6 w.applied ++ toLE 1 status ++ toLE 4 w.flags.toNat)).closeWindow h

def execWinReq (src : Nat) (body : List Byte) (s : State) : Out :=
  answer s (s.onMsg src 0x04 body (fun tag b => s.answerWindow src tag b))

def execWinEnd (src : Nat) (body : List Byte) (s : State) : Out :=
  answer s (s.onMsg src 0x07 body (fun _ b =>
    let h := field b 0 2
    match s.window h with
    | none => s
    | some w =>
      if w.peer ≠ src ∨ w.home ≠ .memory then s
      else
        let w := { w with total := some (field b 2 6) }
        let s := s.setWindow h w
        if w.total = some w.applied then s.doneWindow h else s))

def execWinDoneTimeout (window : Nat) (s : State) : Out :=
  answer s (match s.window window with
    | none => s
    | some w => if w.total.isSome then s.doneWindow window else s)

def execWinDone (src : Nat) (body : List Byte) (s : State) : Out :=
  answer s (s.onMsg src 0x08 body (fun _ b =>
    { s with lnk := { s.lnk with outWins := s.lnk.outWins.map (fun (w : OutWin) =>
        if w.peer = src ∧ w.handle = field b 0 2 ∧ w.status.isNone then
          { w with status := some (field b 8 1), flags := BitVec.ofNat 32 (field b 9 4) }
        else w) } }))

/-! ### Arrival windows (spec/05 R138) -/

/-- Bytes that two ranges share. -/
def overlap (a n b m : Nat) : Nat := min (a + n) (b + m) - max a b

/-- Count bytes written by a peer's flit into the rows of a stage's A. -/
def Stage.landed (st : Stage) (a n : Nat) : Stage :=
  match st.arrival with
  | none => st
  | some w =>
    let t := dTd st.desc 0
    let g := matGrid st.desc
    { st with arrival := some ⟨w.counts.mapIdx (fun r k =>
        k + ((range (r * g.tm) (min g.tm (g.m - r * g.tm))).map (fun i => overlap a n (t.rowAt i) t.rowBytes)).sum)⟩ }

def State.countLanded (s : State) (a n : Nat) : State :=
  { s with dsp := { s.dsp with stages := s.dsp.stages.map (fun p =>
      (p.1, if p.2.arrival.isSome && !p.2.done then p.2.landed a n else p.2)) } }

/-! ### COPY on elements (R315, R316) -/

def copyAtomic (d : List Byte) : Bool := bits (op1 d 0xE0) 0 2 == 1
def copyConv (d : List Byte) : ConvMode := engineConv d (bit (op1 d 0xE0) 2)
/-- Format code of an atomic (Table 11.3). -/
def atomCode : Fmt → Nat
  | .fp32 => 0
  | .bf16 => 1
  | .int32 => 2
  | _ => 3

/-- Source elements of a row converted for the destination: bytes to send to their address, none where skipped. -/
def State.copyBytesOf (s : State) (n : Nat) (st : Stage) (r e0 : Nat) (xs : List Nat) : Option (Nat × List Byte) × State :=
  let o := dTd st.desc 2
  if !st.valid (o.sampleOf r) then
    (if copyAtomic st.desc then none else some (s.elemBytes o r e0 (xs.map (fun _ => 0))), s)
  else
    let (ys, fl) := convElems (dTd st.desc 0).fmt o.fmt (copyConv st.desc) xs
    (some (s.elemBytes o r e0 ys), s.raise n fl)

/-- Apply converted bytes here. -/
def State.copyLocal (s : State) (n : Nat) (st : Stage) (a : Nat) (bs : List Byte) : State :=
  let o := dTd st.desc 2
  let s := s.bump copyBytes bs.length
  if copyAtomic st.desc then
    let (rs, fl, s) := s.atomicsFor (st.who n) a (op1 st.desc 0xE1) o.fmt (dWrap st.desc) bs
    rs.foldl (fun s r => if r.2.2 = 0 then s else s.meet (some n) r.2.2) (s.raise n fl)
  else s.writeFor (st.who n) a bs o.hint

/-- Copy elements of a row here. -/
def State.copyElems (s : State) (n : Nat) (st : Stage) (r e0 : Nat) (xs : List Nat) : State :=
  match s.copyBytesOf n st r e0 xs with
  | (none, s) => s
  | (some (a, bs), s) => s.copyLocal n st a bs

/-! ### Copy engines (R316) -/

/-- Hub die that is home to a local tensor; a host address has none, and H0 serves it. -/
def tensorHub (t : TDesc) : Nat := if t.lbase < 2 ^ 47 then hubOf t.lbase else 0

/-- Hub die whose copy engines a COPY runs on: the source's home for a remote destination, else the destination's. -/
def State.copyHub (s : State) (d : List Byte) : Nat :=
  tensorHub (if (dTd d 2).devid = s.lnk.devid then dTd d 2 else dTd d 0)

/-- Pieces of 64 KiB of destination. -/
def copyPieces (o : TDesc) : Nat := max 1 (ceilDiv (o.rows * o.rowBytes) 65536)

/-- Pieces of a run that wait for an engine. -/
def copyWaits (st : Stage) (r : CopyRun) : Nat :=
  if r.reading || (r.peer.isSome && r.handle.isNone && !r.denied) || st.ending then 0
  else copyPieces (dTd st.desc 2) - r.piece - r.busy

/-- The COPY stages of a hub die that wait for an engine, in admission order. -/
def State.copyQueue (s : State) (hub : Nat) : List (Nat × Stage × CopyRun) :=
  sortBy (fun x => x.2.1.admOrder) (s.lnk.copies.filterMap (fun p => (s.stage p.1).bind (fun st =>
    if s.copyHub st.desc = hub ∧ copyWaits st p.2 ≠ 0 then some (p.1, st, p.2) else none)))

/-- Copy engines of a hub die at work: of eight. -/
def State.copyBusy (s : State) (hub : Nat) : Nat :=
  (s.lnk.copies.map (fun p => match s.stage p.1 with
    | some st => if s.copyHub st.desc = hub then p.2.busy else 0
    | none => 0)).sum

/-- Free engines take the next pieces, of the highest class first (spec/06 R164). -/
def State.fillCopies (s : State) (hub : Nat) : Nat → State
  | 0 => s
  | k + 1 =>
    let q := s.copyQueue hub
    let top := q.foldl (fun m x => max m x.2.1.cls) 0
    match q.find? (fun x => x.2.1.cls == top) with
    | none => s
    | some (n, _, r) =>
      if 8 ≤ s.copyBusy hub then s
      else ({ s with lnk := { s.lnk with copies := s.lnk.copies.put n { r with busy := r.busy + 1 } } } : State).fillCopies hub k

/-- Engines of both hub dies take what waits. -/
def State.startPieces (s : State) : State := (s.fillCopies 0 8).fillCopies 1 8

/-- End a COPY: its run and the window it opened here are gone, its engines take other pieces. -/
def State.endCopy (s : State) (n own : Nat) : State :=
  let hs := (s.lnk.windows.filter (fun w => w.2.home == .copy n)).map Prod.fst
  let s := { s with lnk := { s.lnk with copies := s.lnk.copies.del n } }
  ((hs.foldl State.closeWindow s).finishWorst n own).startPieces

/-- Bytes `[lo, lo + n)` of pieces that arrived in any order; none while some are missing. -/
def gather (parts : List (Nat × List Byte)) (lo n : Nat) : Option (List Byte) :=
  let got := (sortBy Prod.fst parts).foldl (fun (acc : List Byte) p =>
    let at_ := lo + acc.length
    if p.1 ≤ at_ ∧ at_ < p.1 + p.2.length then acc ++ p.2.drop (at_ - p.1) else acc) []
  if n ≤ got.length then some (got.take n) else none

/-- Elements of a row whose bytes have all arrived. -/
def partsOf (a : TDesc) (run : CopyRun) (r : Nat) : List (Nat × Nat) :=
  (List.range a.c).filterMap (fun e =>
    let (lo, n) := elemSpan a.fmt e 1
    (gather run.parts (r * a.rowBytes + lo) n).map (fun bs => (e, (elemsOf a.fmt bs e 1).headD 0)))

/-- Write what arrived of the rows that are not whole, where another run was denied: runs already written stand (R319). -/
def State.settleRest (s : State) (n : Nat) (st : Stage) (run : CopyRun) : State :=
  let a := dTd st.desc 0; let o := dTd st.desc 2
  ((List.range o.rows).filter (fun r => !run.rows.contains r)).foldl (fun s r =>
    (partsOf a run r).foldl (fun s e =>
      let (lo, k) := elemSpan o.fmt e.1 1
      (s.copyElems n st r e.1 [e.2]).countLanded (o.rowAt r + lo) k) s) s

/-- Write the rows of a remote-source COPY whose bytes are all here; end it once every run is whole or refused (R319). -/
def State.settleCopy (s : State) (n : Nat) : State :=
  match s.stage n, s.lnk.copies.find n with
  | some st, some run =>
    let a := dTd st.desc 0; let o := dTd st.desc 2
    let ready := (List.range o.rows).filterMap (fun r =>
      if run.rows.contains r then none else (gather run.parts (r * a.rowBytes) a.rowBytes).map (fun bs => (r, bs)))
    let s := ready.foldl (fun s p =>
      let s := s.copyElems n st p.1 0 (elemsOf a.fmt p.2 0 a.c)
      s.countLanded (o.rowAt p.1) o.rowBytes) s
    let runs := run.runs.filter (fun x => !(x.2.2.2 && (gather run.parts x.2.1 x.2.2.1).isSome))
    let s := { s with lnk := { s.lnk with copies := s.lnk.copies.put n { run with
      rows := run.rows ++ ready.map Prod.fst, runs := runs } } }
    if runs.isEmpty then (s.settleRest n st { run with rows := run.rows ++ ready.map Prod.fst }).endCopy n 0 else s
  | _, _ => s

/-- Bytes of a remote source arrive; `poison` marks zeros (R319). -/
def State.landCopy (s : State) (n off : Nat) (bs : List Byte) (poison : Bool) : State :=
  match s.lnk.copies.find n with
  | none => s
  | some run =>
    let s := { s with lnk := { s.lnk with copies := s.lnk.copies.put n { run with parts := run.parts ++ [(off, bs)] } } }
    (if poison then s.meet (some n) 8 else s).settleCopy n

/-! ### COLLECTIVE data that lands (R326) -/

/-- Elements of a collective's TD0 and the part that a rank owns: first element and count. -/
def collE (d : List Byte) : Nat := (dTd d 0).elems
def collShare (d : List Byte) (i : Nat) : Nat × Nat :=
  let c := ceilDiv (collE d) (op2 d 0xE2)
  let lo := min (i * c) (collE d)
  (lo, min ((i + 1) * c) (collE d) - lo)

/-- First element of TD2 that a rank's results fill. -/
def collBase (d : List Byte) (i : Nat) : Nat :=
  match op1 d 0xE0 with
  | 2 => i * collE d
  | 3 => 0
  | _ => (collShare d i).1

/-- Elements of TD2 that a peer's flits have brought count in the arrival windows (R320; spec/05 R138). -/
def State.countElems (s : State) (o : TDesc) (k n : Nat) : State :=
  (elemRuns (n / o.c + 2) o.c k n).foldl (fun s p =>
    let (lo, m) := elemSpan o.fmt p.2.1 p.2.2
    s.countLanded (o.rowAt p.1 + lo) m) s

/-- Results of a rank, from an element of its part on. -/
def State.landResults (s : State) (n rank off : Nat) (bs : List Byte) : State :=
  match s.stage n, s.lnk.colls.find n with
  | some st, some run =>
    let o := dTd st.desc 2
    let k := bs.length * 8 / o.fmt.width
    let first := collBase st.desc rank + off * 8 / o.fmt.width
    let k := min k (o.elems - first)
    let s := (s.writeStream (st.who n) o first (elemsOf o.fmt bs 0 k)).countElems o first k
    { s with lnk := { s.lnk with colls := s.lnk.colls.put n { run with written := run.written + k } } }
  | _, _ => s

def State.landPartials (s : State) (n rank off : Nat) (bs : List Byte) : State :=
  match s.lnk.colls.find n with
  | none => s
  | some run => { s with lnk := { s.lnk with colls := s.lnk.colls.put n { run with parts := run.parts ++ [(rank, off, bs)] } } }

/-! ### Data flits in (R294, R317) -/

/-- Apply a WRITE flit to memory: bytes applied, whether poison was met. -/
def State.flitWrite (s : State) (w : LinkWindow) (a : Nat) (bs : List Byte) : Nat × Bool × State :=
  (linePieces (bs.length / 256 + 2) a bs.length).foldl (fun acc p =>
    let (st, s) := acc.2.2.writePiece (peerWho w.secure) p.1 ((bs.drop (p.1 - a)).take p.2) 0
    if st = 0 then (acc.1 + p.2, acc.2.1, s.countLanded p.1 p.2) else (acc.1, acc.2.1 || st == 8, s)) (0, false, s)

/-- Apply an ATOMIC flit. -/
def State.flitAtomic (s : State) (w : LinkWindow) (a attr : Nat) (bs : List Byte) : Nat × Bool × Flags × State :=
  let (rs, fl, s) := s.atomicsFor (peerWho w.secure) a (bits attr 0 2) (atomFmt (bits attr 2 2)) (bit attr 4) bs
  let good := rs.filter (fun r => r.2.2 == 0)
  ((good.map (fun r => r.2.1)).sum, rs.any (fun r => r.2.2 == 8), fl,
    good.foldl (fun s r => s.countLanded r.1 r.2.1) s)

/-- Apply a flit that its window admits. -/
def State.applyFlit (s : State) (h : Nat) (w : LinkWindow) (bytes : List Byte) : State :=
  let kind := field bytes 6 1; let attr := field bytes 7 1; let off := field bytes 10 6
  let bs := (bytes.drop 16).take (field bytes 8 1 + 1)
  match w.home with
  | .copy n => s.landCopy n off (if kind = 3 then bs.map (fun _ => 0) else bs) (kind == 3)
  | .partials n rank => s.landPartials n rank off bs
  | .results n rank => s.landResults n rank off bs
  | .memory =>
    let (k, poison, fl, s) : Nat × Bool × Flags × State :=
      if kind = 1 then s.flitAtomic w (w.base + off) attr bs
      else let (k, p, s) := s.flitWrite w (w.base + off) bs; (k, p, 0, s)
    let w := { w with applied := w.applied + k, poison := w.poison || poison, flags := w.flags ||| fl }
    let s := s.setWindow h w
    if w.total = some w.applied then s.doneWindow h else s

/-- Whether a window takes a flit: its sender, its kind, its range, a listed KIND and operation. -/
def LinkWindow.takes (w : LinkWindow) (bytes : List Byte) : Bool :=
  let kind := field bytes 6 1
  w.peer == bits (field bytes 4 2) 0 10 && w.kind == min kind 2 && decide (kind ≤ 3)
    && (kind != 1 || decide (bits (field bytes 7 1) 0 2 ≤ 2))
    && decide (field bytes 10 6 + field bytes 8 1 + 1 ≤ w.length)

/-- A flit is applied by the window that takes it, or dropped (R294). -/
def State.landFlit (s : State) (bytes : List Byte) : State :=
  let h := bits (field bytes 0 2) 0 12
  match s.window h with
  | none => s.tick1 lnkWinDrop
  | some w => if w.takes bytes then s.applyFlit h w bytes else s.tick1 lnkWinDrop

/-- The domain of the engine that a flit goes to, where that has no power (spec/17 R458): a COPY or COLLECTIVE of this device takes it. -/
def State.flitGate (s : State) (bytes : List Byte) : Option Nat :=
  let slot := (s.window (bits (field bytes 0 2) 0 12)).bind (fun w => match w.home with
    | .copy n => some n
    | .partials n _ => some n
    | .results n _ => some n
    | .memory => none)
  match slot.bind s.stage with
  | none => none
  | some st =>
    let d := 204 + 6 * s.copyHub st.desc
    match s.domain d with
    | .poweringOff | .fallow | .waking => some d
    | _ => none

/-- A data flit arrives (R294): its buffer is freed once it is handed on, or once the gate of its engine has taken it (R298). -/
def State.dataFlitIn (s : State) (port : Nat) (bytes : List Byte) : State :=
  if (s.port port).st ≠ .active then s
  else
    let s := s.tick1 (lnkPort port lnkRx)
    let freed := s.setPort port { s.port port with owed := (s.port port).owed + 1 }
    if !s.carriesAll port then freed.tick1 lnkWinDrop
    else if bits (field bytes 2 2) 0 10 ≠ s.lnk.devid then freed.forwardFlit bytes
    else match s.flitGate bytes with
      | some d => { s with lnk := { s.lnk with gated := s.lnk.gated ++ [(d, port, bytes)] } }.knock d
      | none => freed.landFlit bytes

/-- The gate of a domain that has woken takes the flits that wait for it, in order. -/
def State.takeGated (s : State) (d : Nat) : State :=
  (s.lnk.gated.filter (fun g => g.1 == d)).foldl (fun s g =>
    (s.setPort g.2.1 { s.port g.2.1 with owed := (s.port g.2.1).owed + 1 }).landFlit g.2.2)
    { s with lnk := { s.lnk with gated := s.lnk.gated.filter (fun g => g.1 != d) } }

/-- A data flit is deciphered (R295) and taken by the row of its KIND; a KIND that is not listed comes with any of them. -/
def State.flitOfKind (s : State) (kind port : Nat) (bytes : List Byte) : State :=
  let ((frame, n, _), s') := s.arrival port 2
  let clear := s'.linkCipher port frame n false bytes
  if field clear 6 1 = kind ∨ 3 < field clear 6 1 then s'.dataFlitIn port clear else s

def execDataFlitWrite (port : Nat) (bytes : List Byte) (s : State) : Out := answer s (s.flitOfKind 0 port bytes)
def execDataFlitAtomic (port : Nat) (bytes : List Byte) (s : State) : Out := answer s (s.flitOfKind 1 port bytes)
def execDataFlitReadData (port : Nat) (bytes : List Byte) (s : State) : Out := answer s (s.flitOfKind 2 port bytes)
def execDataFlitReadPoison (port : Nat) (bytes : List Byte) (s : State) : Out := answer s (s.flitOfKind 3 port bytes)

/-! ### Reads for a peer (R319) -/

/-- Cut a list of bytes at 240-byte flits: offset and bytes. -/
def flitCuts : Nat → Nat → List Byte → List (Nat × List Byte)
  | 0, _, _ => []
  | fuel + 1, off, bs => if bs.isEmpty then [] else (off, bs.take 240) :: flitCuts fuel (off + 240) (bs.drop 240)

/-- Send the bytes of `[a, a + n)` to a peer's window, line by line: READ_DATA, or READ_POISON where a line is poisoned. -/
def State.serveRead (s : State) (src win off cls : Nat) (secure : Bool) (a n : Nat) : State :=
  (linePieces (n / 256 + 2) a n).foldl (fun s p =>
    let (bs, st, s) := s.readPiece (peerWho secure) p.1 p.2 0
    (flitCuts 2 (off + (p.1 - a)) bs).foldl (fun s c =>
      s.sendFlit src (dataFlit win src s.lnk.devid (if st = 8 then 3 else 2) 0 cls c.1 c.2)) s) s

def execReadReq (src : Nat) (body : List Byte) (s : State) : Out :=
  answer s (s.onMsg src 0x09 body (fun tag b =>
    let base := field b 0 6; let len := field b 6 4; let win := field b 10 2; let off := field b 12 6
    let secure := bit (field b 18 1) 0; let cls := bits (field b 19 1) 0 3
    let st := if 2 ^ 20 < len then 3 else s.windowCheck secure base len
    if st ≠ 0 then (if st = 4 then s.deny secure 0x7E base else s).sendMsg src 0x0A tag (toLE 2 win ++ toLE 1 st)
    else (s.serveRead src win off cls secure base len).sendMsg src 0x0A tag (toLE 2 win ++ toLE 1 0)))

def execReadEnd (src : Nat) (body : List Byte) (s : State) : Out :=
  answer s (s.onMsg src 0x0A body (fun tag b =>
    match s.lnk.copies.find? (fun p => p.2.reading && p.2.peer == some src && p.2.runs.any (fun x => x.1 == tag)) with
    | none => s
    | some (n, run) =>
      let st := field b 2 1
      let runs := if st = 0 then run.runs.map (fun x => if x.1 = tag then (x.1, x.2.1, x.2.2.1, true) else x)
        else run.runs.filter (fun x => x.1 != tag)
      let s := { s with lnk := { s.lnk with copies := s.lnk.copies.put n { run with runs := runs } } }
      (if st = 0 then s else s.meet (some n) st).settleCopy n))

/-! ### COPY stages (R316-R319) -/

/-- A fresh message TAG. -/
def State.freshTag (s : State) : Nat × State :=
  (s.lnk.nextTag, { s with lnk := { s.lnk with nextTag := (s.lnk.nextTag + 1) % 65536 } })

/-- Runs of contiguous source bytes of at most 1 MiB: offset among the packed rows, address, length. -/
def sourceRuns (t : TDesc) : List (Nat × Nat × Nat) :=
  let runs := (List.range t.rows).foldl (fun (acc : List (Nat × Nat × Nat)) r =>
    match acc.getLast? with
    | some (o, a, n) =>
      if a + n = t.rowAt r then acc.dropLast ++ [(o, a, n + t.rowBytes)] else acc ++ [(r * t.rowBytes, t.rowAt r, t.rowBytes)]
    | none => [(r * t.rowBytes, t.rowAt r, t.rowBytes)]) []
  runs.flatMap (fun x => (List.range (ceilDiv x.2.2 (2 ^ 20))).map (fun i =>
    (x.1 + i * 2 ^ 20, x.2.1 + i * 2 ^ 20, min (2 ^ 20) (x.2.2 - i * 2 ^ 20))))

/-- Ask a peer for every run of a remote source. -/
def State.requestRuns (s : State) (n : Nat) (st : Stage) (peer h : Nat) : List (Nat × Nat × Nat) → State
  | [] => s
  | (o, a, len) :: rest =>
    let (tag, s) := s.freshTag
    let s := s.sendMsg peer 0x09 tag
      (toLE 6 a ++ toLE 4 len ++ toLE 2 h ++ toLE 6 o ++ toLE 1 (b2n st.secure) ++ toLE 1 st.cls)
    let run := s.lnk.copies.get {} n
    let s := { s with lnk := { s.lnk with copies := s.lnk.copies.put n { run with runs := run.runs ++ [(tag, o, len, false)] } } }
    s.requestRuns n st peer h rest

def execCopyStart (slot : Nat) (s : State) : Out :=
  answer s (match s.stage slot with
    | none => s
    | some st =>
      if st.phase ≠ .running ∨ st.opcode ≠ 0x0C ∨ (s.lnk.copies.find slot).isSome then s
      else
        let a := dTd st.desc 0; let o := dTd st.desc 2
        let put := fun (s : State) (r : CopyRun) => { s with lnk := { s.lnk with copies := s.lnk.copies.put slot r } }
        if o.devid ≠ s.lnk.devid then
          if !s.present o.devid then s.finishWorst slot 9
          else
            let (tag, s) := s.freshTag
            (put s { peer := some o.devid, tag := tag }).sendMsg o.devid 0x04 tag
              (toLE 6 o.lbase ++ toLE 5 o.span ++ toLE 1 (b2n st.secure) ++ toLE 1 st.cls ++ toLE 1 (b2n (copyAtomic st.desc)))
        else if a.devid ≠ s.lnk.devid then
          if !s.present a.devid then s.finishWorst slot 9
          else match s.freeHandle with
            | none => s
            | some h =>
              -- the window's offsets count the packed source bytes, which R45 converts whole (DESIGN CHOICE, log 23)
              let s := s.setWindow h { peer := a.devid, base := o.lbase, length := a.rows * a.rowBytes, secure := st.secure
                                       cls := st.cls, kind := 2, home := .copy slot }
              (put s { peer := some a.devid, reading := true, window := h }).requestRuns slot st a.devid h (sourceRuns a)
        else (put s {}).startPieces)

def execWinGrant (src : Nat) (body : List Byte) (s : State) : Out :=
  answer s (s.onMsg src 0x05 body (fun tag b =>
    match s.lnk.copies.find? (fun p => !p.2.reading && p.2.peer == some src && p.2.tag == tag && p.2.handle.isNone) with
    | none => s
    | some (n, run) =>
      let h := field b 0 2
      let wins := match s.stage n with
        | some st => s.lnk.outWins ++ [{ ring := st.ring, seq := st.seq, peer := src, handle := h }]
        | none => s.lnk.outWins
      ({ s with lnk := { s.lnk with copies := s.lnk.copies.put n { run with handle := some h }, outWins := wins } } : State).startPieces))

/-- The stage completes its work and sends nothing (R102, R317). -/
def execWinDeny (src : Nat) (body : List Byte) (s : State) : Out :=
  answer s (s.onMsg src 0x06 body (fun tag b =>
    match s.lnk.copies.find? (fun p => !p.2.reading && p.2.peer == some src && p.2.tag == tag && p.2.handle.isNone) with
    | none => s
    | some (n, run) =>
      let s := s.meet (some n) (field b 0 1)
      ({ s with lnk := { s.lnk with copies := s.lnk.copies.put n { run with denied := true } } } : State).startPieces))

/-- A piece of 64 KiB of destination, by rows: row, first element, elements. -/
def pieceRows (o : TDesc) (piece : Nat) : List (Nat × Nat × Nat) :=
  let rb := o.rowBytes
  let total := o.rows * rb
  let lo := piece * 65536
  (elemRuns (65536 / rb + 2) rb lo (min 65536 (total - lo))).map (fun p =>
    let e0 := p.2.1 * 8 / o.fmt.width
    (p.1, e0, min o.c ((p.2.1 + p.2.2) * 8 / o.fmt.width) - e0))

/-- Join segments whose bytes follow one another. -/
def mergeRuns (l : List (Nat × List Byte)) : List (Nat × List Byte) :=
  l.foldl (fun (acc : List (Nat × List Byte)) p =>
    match acc.getLast? with
    | some (a, bs) => if a + bs.length = p.1 then acc.dropLast ++ [(a, bs ++ p.2)] else acc ++ [p]
    | none => [p]) []

/-- Send runs of converted bytes to a peer's window, in flits that span no two runs (R317). -/
def State.sendRuns (s : State) (st : Stage) (peer h : Nat) (runs : List (Nat × List Byte)) : State :=
  let d := st.desc
  let o := dTd d 2
  let attr := if copyAtomic d then op1 d 0xE1 + 4 * atomCode o.fmt + 16 * b2n (dWrap d) else 0
  runs.foldl (fun s r => (flitCuts (r.2.length / 240 + 1) (r.1 - o.lbase) r.2).foldl (fun s c =>
    (s.bump copyBytes c.2.length).sendFlit peer (dataFlit h peer s.lnk.devid (b2n (copyAtomic d)) attr st.cls c.1 c.2)) s) s

/-- The converted segments of a piece for a remote destination. -/
def State.pieceSegments (s : State) (n : Nat) (st : Stage) (rows : List (Nat × Nat × Nat)) : List (Nat × List Byte) × State :=
  rows.foldl (fun acc p =>
    let (xs, s) := acc.2.readElems (st.who n) (dTd st.desc 0) p.1 p.2.1 p.2.2
    match s.copyBytesOf n st p.1 p.2.1 xs with
    | (some seg, s) => (acc.1 ++ [seg], s)
    | (none, s) => (acc.1, s)) ([], s)

/-- A COPY that ends early closes the window granted to it with what it has sent (R317, spec/18 R481). -/
def State.stopCopy (s : State) (n : Nat) : State :=
  (match s.lnk.copies.find n with
    | some run => match run.peer, run.handle with
      | some d, some h => s.sendMsg d 0x07 run.tag (toLE 2 h ++ toLE 6 run.sent)
      | _, _ => s
    | none => s).endCopy n s.endedBy

/-- A piece leaves its engine: counted, and the engine takes another. -/
def State.pieceDone (s : State) (n k : Nat) : State :=
  let run := s.lnk.copies.get {} n
  let next := { run with piece := run.piece + 1, sent := run.sent + k, busy := run.busy - 1 }
  ({ s with lnk := { s.lnk with copies := s.lnk.copies.put n next } } : State).startPieces

/-- The work of the next piece of a COPY: its bytes are written here, or sent to the peer's window, or read and converted alone where the
window was denied; the bytes sent. -/
def State.copyPiece (s : State) (n : Nat) (st : Stage) (run : CopyRun) : Nat × State :=
  let rows := pieceRows (dTd st.desc 2) run.piece
  match run.peer with
  | none => (0, rows.foldl (fun s p =>
      let (xs, s) := s.readElems (st.who n) (dTd st.desc 0) p.1 p.2.1 p.2.2
      s.copyElems n st p.1 p.2.1 xs) s)
  | some d =>
    let (segs, s) := s.pieceSegments n st rows
    if run.denied then (0, s)
    else ((segs.map (fun x => x.2.length)).sum, s.sendRuns st d (run.handle.getD 0) (mergeRuns segs))

/-- Flits that a run has sent still wait for a credit or a port. -/
def State.copyHolds (s : State) (run : CopyRun) : Bool :=
  match run.peer, run.handle with
  | some d, some h => s.holding d h
  | _, _ => false

/-- A COPY whose pieces are all done ends; one with a remote destination once its last flit has left, with WIN_END (R317). -/
def State.copyEnd (s : State) (n : Nat) : State :=
  match s.stage n, s.lnk.copies.find n with
  | some st, some run =>
    if run.piece < copyPieces (dTd st.desc 2) then s
    else if s.copyHolds run then s
    else match run.peer, run.handle with
      | some d, some h => (s.sendMsg d 0x07 run.tag (toLE 2 h ++ toLE 6 run.sent)).endCopy n 0
      | _, _ => s.endCopy n 0
  | _, _ => s

/-- A piece completes on its engine; while flits of the stage wait for a credit or a port, the stage waits (R298). -/
def execCopyPieceComplete (slot : Nat) (s : State) : Out :=
  answer s (match s.stage slot, s.lnk.copies.find slot with
    | some st, some run =>
      if run.busy = 0 then (if st.ending then s.stopCopy slot else s.copyEnd slot)
      else if s.copyHolds run && !st.ending then s
      else
        let (k, s) := s.copyPiece slot st run
        let s := s.pieceDone slot k
        if st.ending then s.stopCopy slot else s.copyEnd slot
    | _, _ => s)

end Sys2Proof.Machine
end

