-- ==== Sys2Proof/Machine/Collectives.lean ====
section
/-!
DEFINITION. Collectives across devices (spec/11 R322-R327; spec/18 R486). Windows for partials and results are opened at the start and
named in the JOINs (log 22).
-/
namespace Sys2Proof.Machine

def collKind (d : List Byte) : Nat := op1 d 0xE0
def collM (d : List Byte) : Nat := op2 d 0xE2
def collRank (d : List Byte) : Nat := op2 d 0xE4
def collRoot (d : List Byte) : Nat := op2 d 0xE6
def collId (d : List Byte) : Nat := op4 d 0xE8
def collReduces (d : List Byte) : Bool := collKind d == 0 || collKind d == 1 || collKind d == 4
def collConv (d : List Byte) : ConvMode := engineConv d (bit (op1 d 0xF6) 0)

def State.setColl (s : State) (n : Nat) (r : CollRun) : State :=
  { s with lnk := { s.lnk with colls := s.lnk.colls.put n r } }

/-- Elements of TD2 that a member writes (R323). -/
def collWrites (d : List Byte) : Nat :=
  match collKind d with
  | 0 | 3 => collE d
  | 1 => (collShare d (collRank d)).2
  | 2 => collM d * collE d
  | 4 => if collRank d = collRoot d then collE d else 0
  | _ => 0

/-- The other ranks of a collective with their DEVIDs. -/
def CollRun.others (r : CollRun) (rank : Nat) : List (Nat × Nat) :=
  (r.members.zipIdx.map (fun p => (p.2, p.1))).filter (fun p => p.1 != rank)

/-- The body of a COLL message: 0 JOIN, 1 MISMATCH, 2 the final round, 3 a JOIN taken back at its TIMEOUT. -/
def collBody (kind : Nat) (secure : Bool) (rank id digest wp wr flags status : Nat) : List Byte :=
  toLE 1 kind ++ toLE 1 (b2n secure) ++ toLE 2 rank ++ toLE 4 id ++ toLE 4 digest ++ toLE 2 wp ++ toLE 2 wr
    ++ toLE 4 flags ++ toLE 1 status

/-- Send one body to every other member. -/
def State.toMembers (s : State) (r : CollRun) (rank : Nat) (body : Nat → List Byte) : State :=
  (r.others rank).foldl (fun s p => s.sendMsg p.2 0x0B 0 (body p.1)) s

/-! ### Reduction (R326) -/

/-- op2 of R326 on widened floating-point values. -/
def op2Fp (op : Nat) (a b : Fp) : Fp × Flags :=
  if a.isNan || b.isNan then (.nan, 0)
  else if op = 0 then sumTerms [a, b] else if op = 1 then (Fp.minF a b, 0) else (Fp.maxF a b, 0)

def op2Int (op : Nat) (wrap : Bool) (a b : Int) : Int × Flags :=
  if op = 0 then fitInt64 wrap (a + b) else if op = 1 then (min a b, 0) else (max a b, 0)

/-- One level of the tree: neighbours are joined, an odd last value passes. -/
def treeLevel {α : Type} (f : α → α → α × Flags) : List α → List α × Flags
  | a :: b :: rest =>
    let (c, fl) := f a b
    let (cs, g) := treeLevel f rest
    (c :: cs, fl ||| g)
  | l => (l, 0)

/-- The tree over at most `2^fuel` values. -/
def treeReduce {α : Type} (f : α → α → α × Flags) : Nat → List α → List α × Flags
  | 0, l => (l, 0)
  | fuel + 1, l =>
    if l.length ≤ 1 then (l, 0)
    else
      let (m, fl) := treeLevel f l
      let (r, g) := treeReduce f fuel m
      (r, fl ||| g)

/-- The order of R326: position p holds rank (p + COLL_ID) mod M. -/
def rankOrder {α : Type} (id : Nat) (xs : List α) : List α :=
  let k := id % xs.length
  xs.drop k ++ xs.take k

/-- Reduce one element over the ranks and convert it. -/
def reduceElem (d : List Byte) (xs : List Nat) : Nat × Flags :=
  let f := (dTd d 0).fmt; let o := (dTd d 2).fmt; let op := op1 d 0xE1
  if f.isInt then
    let (vs, fl) := treeReduce (op2Int op (dWrap d)) 9 (rankOrder (collId d) (xs.map (decodeInt f)))
    let (c, g) := convInt o (collConv d) 0 (vs.headD 0)
    (c, fl ||| g)
  else
    let (vs, fl) := treeReduce (op2Fp op) 9 (rankOrder (collId d) (xs.map (decodeFp f)))
    let (c, g) := convFp o (collConv d) 0 (vs.headD .zero)
    (c, fl ||| g)

/-! ### Sending (R326) -/

/-- Send element codes to a window, in flits that cross no 64 KiB block. -/
def State.sendCodes (s : State) (cls dst h : Nat) (f : Fmt) (off : Nat) (cs : List Nat) : State :=
  ((chunks 65536 (cs.length * f.width / 8 / 65536 + 1) (packRow f cs)).foldl (fun (acc : Nat × State) b =>
    (acc.1 + b.length, (flitCuts (b.length / 240 + 1) acc.1 b).foldl (fun s c =>
      s.sendFlit dst (dataFlit h dst s.lnk.devid 2 0 cls c.1 c.2)) acc.2)) (off, s)).2

/-- Write own results and send them to the members that receive them: `k` is the offset in this rank's part. -/
def State.spreadResults (s : State) (n : Nat) (st : Stage) (r : CollRun) (k : Nat) (cs : List Nat) (own : Bool)
    (dests : List (Nat × Nat)) : State :=
  let d := st.desc; let o := dTd d 2
  let s := if own then
      let s := s.writeStream (st.who n) o ((if collKind d = 1 then 0 else collBase d (collRank d)) + k) cs
      s.setColl n { r with written := r.written + cs.length }
    else s
  dests.foldl (fun s p => s.sendCodes st.cls p.2 (r.joins.get (0, 0, 0) p.1).2.2 o.fmt (k * o.fmt.width / 8) cs) s

/-- Own blocks of 64 KiB of the share. -/
def collBlocks (d : List Byte) : Nat :=
  if collReduces d then ceilDiv ((collShare d (collRank d)).2 * (dTd d 0).fmt.width) (8 * 65536) else 0

/-- Send the final round once own blocks are reduced. -/
def State.finalRound (s : State) (n : Nat) : State :=
  match s.stage n, s.lnk.colls.find n with
  | some st, some r =>
    let d := st.desc
    if !r.data || r.finalSent || decide (r.blocks.length < collBlocks d) then s
    else
      let status := if st.met.contains 0x0B then 0x0B else 0
      (s.setColl n { r with finalSent := true }).toMembers r (collRank d)
        (fun _ => collBody 2 st.secure (collRank d) (collId d) r.digest 0 0 st.flags.toNat status)
  | _, _ => s

/-- The data phase begins (R325, R326). -/
def State.collData (s : State) (n : Nat) (st : Stage) (r : CollRun) : State :=
  let d := st.desc; let a := dTd d 0; let rank := collRank d
  let r := { r with data := true }
  let s := s.setColl n r
  let others := r.others rank
  let s :=
    if collReduces d then
      others.foldl (fun s p =>
        let (lo, k) := collShare d p.1
        let (xs, s) := s.readStream (st.who n) a lo k
        s.sendCodes st.cls p.2 (r.joins.get (0, 0, 0) p.1).2.1 a.fmt 0 xs) s
    else if collKind d = 2 ∨ rank = collRoot d then
      let (xs, s) := s.readStream (st.who n) a 0 (collE d)
      let (ys, fl) := convElems a.fmt (dTd d 2).fmt (collConv d) xs
      (s.raise n fl).spreadResults n st r 0 ys true others
    else s
  s.finalRound n

/-! ### Collective engines (R322) -/

/-- Every other member's digest is here and equal (R325). -/
def CollRun.joined (r : CollRun) (d : List Byte) : Bool := decide (collM d ≤ r.joins.length + 1)

/-- Hub die of the engine of a collective: that of its TD2 (DESIGN CHOICE, log 22). -/
def collHub (d : List Byte) : Nat := tensorHub (dTd d 2)

/-- Engines of a hub die that exchange data now: of two. -/
def State.collEngines (s : State) (hub : Nat) : Nat :=
  (s.lnk.colls.filter (fun p => p.2.data && (match s.stage p.1 with
    | some st => collHub st.desc == hub
    | none => false))).length

/-- Collectives of a hub die whose join is over and that wait for an engine, in admission order. -/
def State.collQueue (s : State) (hub : Nat) : List (Nat × Stage × CollRun) :=
  sortBy (fun x => x.2.1.admOrder) (s.lnk.colls.filterMap (fun p => (s.stage p.1).bind (fun st =>
    if collHub st.desc = hub ∧ !p.2.data ∧ p.2.joined st.desc ∧ collKind st.desc ≠ 5 then some (p.1, st, p.2) else none)))

/-- Free engines take the collectives that wait, of the highest class first (spec/06 R164). -/
def State.startColls (s : State) (hub : Nat) : Nat → State
  | 0 => s
  | k + 1 =>
    let q := s.collQueue hub
    let top := q.foldl (fun m x => max m x.2.1.cls) 0
    match q.find? (fun x => x.2.1.cls == top) with
    | none => s
    | some (n, st, r) => if 2 ≤ s.collEngines hub then s else (s.collData n st r).startColls hub k

/-- End a collective: its run and windows are gone, COLL_DONE counts it, its engine takes another. -/
def State.endColl (s : State) (n own : Nat) : State :=
  let hs := (s.lnk.windows.filter (fun w => match w.2.home with
    | .partials k _ | .results k _ => k == n
    | _ => false)).map Prod.fst
  let s := { s with lnk := { s.lnk with colls := s.lnk.colls.del n } }
  ((((hs.foldl State.closeWindow s).finishWorst n own).tick1 collDone).startColls 0 2).startColls 1 2

/-- The join is complete: BARRIER ends, another kind takes an engine or waits for one (R322, R325). -/
def State.tryJoin (s : State) (n : Nat) : State :=
  match s.stage n, s.lnk.colls.find n with
  | some st, some r =>
    let d := st.desc
    if r.data || !r.joined d then s
    else if collKind d = 5 then s.endColl n 0
    else s.startColls (collHub d) 2
  | _, _ => s

/-- A JOIN is kept for a collective that has not started here. -/
def State.keepJoin (s : State) (j : EarlyJoin) : State := { s with lnk := { s.lnk with early := s.lnk.early ++ [j] } }

/-- A JOIN for a collective of this device; one that comes after its sender's, or after the join, is for the next of the identifier. -/
def State.takeJoin (s : State) (n : Nat) (st : Stage) (j : EarlyJoin) : State :=
  match s.lnk.colls.find n with
  | none => s
  | some r =>
    if r.joined st.desc || (r.joins.find j.rank).isSome then s.keepJoin j
    else if r.digest ≠ j.digest then
      (s.toMembers r (collRank st.desc)
        (fun _ => collBody 1 st.secure (collRank st.desc) (collId st.desc) r.digest 0 0 0 0)).endColl n 2
    else (s.setColl n { r with joins := r.joins.put j.rank (j.digest, j.partials, j.results) }).tryJoin n

/-- The slot of a live collective of a world and identifier. -/
def State.findColl (s : State) (secure : Bool) (id : Nat) : Option (Nat × Stage) :=
  (s.dsp.stages.filter (fun p => (s.lnk.colls.find p.1).isSome)).find? (fun p => p.2.secure == secure && collId p.2.desc == id)

/-- A member leaves the join: the others are told, so that one that joins later misses it (R325). -/
def State.leaveJoin (s : State) (n : Nat) (st : Stage) (r : CollRun) (own : Nat) : State :=
  (s.toMembers r (collRank st.desc) (fun _ => collBody 3 st.secure (collRank st.desc) (collId st.desc) r.digest 0 0 0 0)).endColl n own

/-- A JOIN that is kept is followed by MISMATCH, or taken back: its sender's collective has ended. -/
def State.markJoin (s : State) (p : EarlyJoin → Bool) : State :=
  { s with lnk := { s.lnk with early := s.lnk.early.map (fun j => if p j then { j with mismatch := true } else j) } }
def State.dropJoin (s : State) (p : EarlyJoin → Bool) : State :=
  { s with lnk := { s.lnk with early := s.lnk.early.filter (fun j => !p j) } }

def execColl (src : Nat) (body : List Byte) (s : State) : Out :=
  answer s (s.onMsg src 0x0B body (fun _ b =>
    let secure := bit (field b 1 1) 0; let id := field b 4 4
    let j : EarlyJoin := ⟨secure, id, src, field b 2 2, field b 8 4, field b 12 2, field b 14 2, false⟩
    let kept := fun (j : EarlyJoin) => j.secure == secure && j.id == id && j.src == src
    match field b 0 1, s.findColl secure id with
    | 0, none => s.keepJoin j
    | 0, some (n, st) => s.takeJoin n st j
    | 1, none => s.markJoin kept
    | 1, some (n, st) => match s.lnk.colls.find n with
      | some r => if r.joined st.desc then s.markJoin kept else s.leaveJoin n st r 2
      | none => s
    | 2, some (n, _) =>
      let r := s.lnk.colls.get ⟨[], 0, [], [], false, [], [], 0, [], false⟩ n
      let s := (s.setColl n { r with finals := dedup (r.finals ++ [j.rank]) }).raise n (BitVec.ofNat 32 (field b 16 4))
      if field b 20 1 = 0x0B then s.meet (some n) 0x0B else s
    | 3, none => s.dropJoin kept
    | 3, some (n, st) => match s.lnk.colls.find n with
      | some r => if r.joined st.desc then s.dropJoin kept else s.setColl n { r with joins := r.joins.del j.rank }
      | none => s
    | _, _ => s))

/-! ### The rows of a COLLECTIVE stage -/

/-- Open the windows of a collective for every other member. -/
def State.openCollWindows (s : State) (n : Nat) (st : Stage) (r : CollRun) : CollRun × State :=
  let d := st.desc
  (r.others (collRank d)).foldl (fun (acc : CollRun × State) p =>
    let (r, s) := acc
    let hp := s.freeHandle.getD 0
    let w : LinkWindow := { peer := p.2, base := 0, length := 2 ^ 47, secure := st.secure, cls := st.cls, kind := 2
                            home := .partials n p.1 }
    let s := s.setWindow hp w
    let hr := s.freeHandle.getD 0
    let s := s.setWindow hr { w with home := .results n p.1 }
    ({ r with opened := r.opened.put p.1 (hp, hr) }, s)) (r, s)

/-- What the start finds wrong with a member table (R324): 0 passes. -/
def State.memberStatus (s : State) (st : Stage) (b : List Byte) (ids : List Nat) : Nat :=
  let d := st.desc
  if field b (2 * collM d) 4 ≠ crc32c (b.take (2 * collM d)) then 1
  else if ids.getD (collRank d) 0 ≠ s.lnk.devid ∨ (dedup ids).length ≠ ids.length then 2
  else if !(ids.all (fun i => i == s.lnk.devid || s.present i)) then 9
  else if (s.findColl st.secure (collId d)).isSome then 2
  else 0

/-- The digest of R325. -/
def collDigest (d tab : List Byte) : Nat :=
  crc32c (toLE 1 (collKind d) ++ toLE 1 (op1 d 0xE1) ++ toLE 2 (collM d) ++ toLE 2 (collRoot d) ++ toLE 4 (collId d)
    ++ toLE 1 (dTd d 0).fmtCode ++ toLE 1 (dTd d 2).fmtCode ++ toLE 8 (collE d) ++ tab)

def execCollectiveStart (slot : Nat) (s : State) : Out :=
  answer s (match s.stage slot with
    | none => s
    | some st =>
      let d := st.desc; let m := collM d
      if st.phase ≠ .running ∨ st.opcode ≠ 0x0D ∨ (s.lnk.colls.find slot).isSome
          ∨ 4096 < s.lnk.windows.length + 2 * m then s
      else
        let (b, status, s) := s.ctrlRead (st.who slot) (opAddr d 0xF0 % 2 ^ 48) (2 * m + 4)
        let ids := (List.range m).map (fun i => field b (2 * i) 2)
        let s := if status = 8 then s.meet (some slot) 8 else s
        if status = 3 ∨ status = 4 then (s.finishWorst slot status).tick1 collDone
        else
          let bad := s.memberStatus st b ids
          if bad ≠ 0 then (s.finishWorst slot bad).tick1 collDone
          else
            let (r, s) := s.openCollWindows slot st
              ⟨ids, collDigest d (b.take (2 * m)), [], [], false, [], [], 0, [], false⟩
            let s := (s.setColl slot r).toMembers r (collRank d) (fun i =>
              let (hp, hr) := r.opened.get (0, 0) i
              collBody 0 st.secure (collRank d) (collId d) r.digest hp hr 0 0)
            let mine := fun (j : EarlyJoin) => j.secure == st.secure && j.id == collId d
            let js := s.lnk.early.filter mine
            let s := s.dropJoin mine
            if js.any EarlyJoin.mismatch then s.leaveJoin slot st r 2
            else (js.foldl (fun s j => s.takeJoin slot st j) s).tryJoin slot)

/-- A COLLECTIVE that ends early. -/
def State.stopColl (s : State) (n : Nat) (st : Stage) : State :=
  match s.lnk.colls.find n with
  | some r => if r.joined st.desc then s.endColl n s.endedBy else s.leaveJoin n st r s.endedBy
  | none => s.endColl n s.endedBy

def execCollectiveJoinTimeout (slot : Nat) (s : State) : Out :=
  answer s (match s.stage slot, s.lnk.colls.find slot with
    | some st, some r =>
      if r.joined st.desc ∨ op4 st.desc 0xEC = 0 then s
      else s.leaveJoin slot st r 0x0B
    | _, _ => s)

/-- Every rank's codes of a block of the own share, in rank order; none while partials are missing. -/
def State.blockCodes (s : State) (n : Nat) (st : Stage) (r : CollRun) (block : Nat) : Option (List (List Nat)) × State :=
  let d := st.desc; let a := dTd d 0; let w := a.fmt.width
  let (lo, k) := collShare d (collRank d)
  let e0 := block * (65536 * 8 / w)
  let cnt := min (65536 * 8 / w) (k - e0)
  let bytes := ceilDiv (cnt * w) 8
  let theirs := (List.range (collM d)).map (fun i =>
    if i = collRank d then some []
    else (gather ((r.parts.filter (fun p => p.1 == i)).map Prod.snd) (block * 65536) bytes).map
      (fun bs => elemsOf a.fmt bs 0 cnt))
  if theirs.any Option.isNone then (none, s)
  else
    let (mine, s) := s.readStream (st.who n) a (lo + e0) cnt
    (some (theirs.zipIdx.map (fun p => if p.2 = collRank d then mine else p.1.getD [])), s)

def execCollectiveBlockReduce (slot block : Nat) (s : State) : Out :=
  answer s (match s.stage slot, s.lnk.colls.find slot with
    | some st, some r =>
      let d := st.desc; let rank := collRank d
      if !r.data ∨ r.blocks.contains block ∨ collBlocks d ≤ block then s
      else match s.blockCodes slot st r block with
        | (none, s) => s
        | (some cols, s) =>
          let n := (cols.getD rank []).length
          let res := (List.range n).map (fun e => reduceElem d (cols.map (fun c => c.getD e 0)))
          let s := s.raise slot (res.foldl (fun f x => f ||| x.2) 0)
          let r := { r with blocks := r.blocks ++ [block] }
          let s := s.setColl slot r
          let own := collKind d != 4 || rank == collRoot d
          let dests := (r.others rank).filter (fun p => collKind d == 0 || (collKind d == 4 && p.1 == collRoot d))
          let s := ((match s.stage slot with
            | none => s
            | some st => s.spreadResults slot st r (block * (65536 * 8 / (dTd d 0).fmt.width)) (res.map Prod.fst) own dests)).finalRound slot
          if st.ending then s.stopColl slot st else s
    | _, _ => s)

/-- An owner that still lacks partials completes PARTIAL (R486): its missing blocks are given up. -/
def execCollectivePartialTimeout (slot : Nat) (s : State) : Out :=
  answer s (match s.stage slot, s.lnk.colls.find slot with
    | some st, some r =>
      if !r.data ∨ collBlocks st.desc ≤ r.blocks.length then s
      else ((s.meet (some slot) 0x0B).setColl slot { r with blocks := List.range (collBlocks st.desc) }).finalRound slot
    | _, _ => s)

/-- Flits that a collective has sent still wait for a credit or a port (R298). -/
def State.collHolds (s : State) (st : Stage) (r : CollRun) : Bool :=
  (r.others (collRank st.desc)).any (fun p =>
    let w := (r.joins.get (0, 0, 0) p.1).2
    s.holding p.2 w.1 || s.holding p.2 w.2)

def execCollectiveComplete (slot : Nat) (s : State) : Out :=
  answer s (match s.stage slot, s.lnk.colls.find slot with
    | some st, some r =>
      if st.ending then s.stopColl slot st
      else if r.finalSent ∧ collM st.desc ≤ r.finals.length + 1
          ∧ (collWrites st.desc ≤ r.written ∨ st.met.contains 0x0B) ∧ !s.collHolds st r then s.endColl slot 0
      else s
    | _, _ => s)

end Sys2Proof.Machine
end

