-- ==== Sys2Proof/Machine/Stages.lean ====
section
/-!
DEFINITION. The life of a stage around its work: its start, its completion, fences and barriers, spill hints, the arrival time-out
(spec/04 R111-R118; spec/05 R134, R135, R140; spec/06 R165; spec/14 R391, R395).
-/
namespace Sys2Proof.Machine

/-! ### STAGE_START -/

/-- The check of a consumer's retained set (R135): none to wait for its producer, else a status. -/
def State.setCheck (s : State) (st : Stage) : Option Nat :=
  let id := cRetIn st.chain
  if id = 0 then some 0
  else match s.dsp.sets.find (st.secure, id) with
    | some x => if x.producing then none else if x.td2 ≠ (dTd st.desc (cRetSlot st.chain)).raw then some 2 else some 0
    | none => if (s.dsp.sets.find (!st.secure, id)).isSome then some 4 else some 3

/-- The set a producing stage begins (R134); none where its identifier is live. -/
def State.beginSet (s : State) (n : Nat) (st : Stage) : Option State :=
  let id := cRetOut st.chain
  if id = 0 then some s
  else if (s.dsp.sets.find (st.secure, id)).isSome then none
  else
    let g := matGrid st.desc
    let x : RetSet := { td2 := (dTd st.desc 2).raw, producer := n, ring := st.ring, cls := st.cls, producing := true, tm := g.tm, tn := g.tn }
    some { s with dsp := { s.dsp with sets := s.dsp.sets.put (st.secure, id) x } }

/-- The batch validity mask is read (R111): a refused or poisoned read ends the stage, poison stops its ring (spec/10 Table 10.13). -/
def State.readMask (s : State) (n : Nat) (st : Stage) : Bool × State :=
  if !readsMask st.opcode || dBatch st.desc == 0 then (true, s)
  else
    let (b, status, s) := s.ctrlRead (st.who n) (dBatch st.desc % 2 ^ 48) (maskBytes st.desc)
    match s.stage n with
    | none => (false, s)
    | some st =>
      if status = 0 then (true, s.setStage n { st with mask := some b })
      else (false, (s.setStage n { st with forceStop := st.forceStop || status == 8 }).finishWorst n status)

/-- The engines' domains that a starting stage sends work to (spec/17 Table 17.1): of the hub that R316, R333, R353 and R370 name; the
key-value engines of both hubs share the pools. INGEST entries knock as they are assigned. -/
def State.engineDomains (s : State) (st : Stage) : List Nat :=
  let d := st.desc; let a := dTd d 0
  match st.opcode with
  | 0x09 | 0x0A | 0x0B => [205, 211]
  | 0x0C => [204 + 6 * s.copyHub d]
  | 0x0D => [204 + 6 * collHub d]
  | 0x0E => if op1 d 0xE0 = 1 then ((s.decStream (vidHandle d)).map (fun x => 200 + 6 * (x.2.engine / 4))).toList else []
  | 0x0F => if op1 d 0xE0 = 1 then ((s.encStream (vidHandle d)).map (fun x => 201 + 6 * (x.2.engine / 2))).toList else []
  | 0x11 => [202 + 6 * tensorHub a]
  | 0x12 => [203 + 6 * (op1 d 0xE1 / 8)]
  | _ => []

def execStageStart (slot : Nat) (s : State) : Out :=
  answer s (match s.stage slot with
    | none => s
    | some st =>
      if st.phase ≠ .admitted ∨ !s.orderMet st ∨ !(s.ring st.ring).starts ∨ (st.opcode = 0x0A ∧ !s.kvTurn slot st) then s
      else match s.setCheck st with
        | none => s
        | some bad =>
          let st := { st with phase := .running, startTime := s.time }
          let s := s.setStage slot st
          if bad ≠ 0 then s.finishWorst slot bad
          else match s.beginSet slot st with
            | none => s.finishWorst slot 2
            | some s =>
              let (ok, s) := s.readMask slot st
              if !ok then s
              else match s.stage slot with
                | none => s
                | some st =>
                  let s := (s.engineDomains st).foldl State.knock s
                  if st.opcode = 0x0A then s.startRetrieve slot st else s)

/-! ### STAGE_COMPLETE -/

/-- An engine stage under a reset of its ring whose unit of work is over ends PREEMPTED (R395). -/
def State.endEngine (s : State) (n : Nat) (st : Stage) : State :=
  match st.opcode with
  | 0x0C => s.stopCopy n
  | 0x0D => s.stopColl n st
  | 0x0E => match s.vid.decRuns.find n with
    | some r => if r.left = 0 ∨ (s.vid.decs.find r.stream).isNone then s.endDecode n s.endedBy else s
    | none => s.finishWorst n s.endedBy
  | 0x0F => match s.vid.encRuns.find n with
    | some r => if r.coding.isNone ∨ (s.vid.encs.find r.stream).isNone then s.endEncode n s.endedBy else s
    | none => s.finishWorst n s.endedBy
  | 0x10 => match s.ing.runs.find n with
    | some r => if r.entries.any (fun e => match e.st with | .busy _ => true | _ => false) then s else s.endIngest n s.endedBy
    | none => s.finishWorst n s.endedBy
  | 0x11 => if (s.ing.pyrs.find n).isSome then s else s.finishWorst n s.endedBy
  | 0x12 =>
    let c := op1 st.desc 0xE1
    if (s.chan c).copies.any (fun k => k.stage == some n) then s
    else
      (s.setChan c ((s.chan c).without n)).finishWorst n s.endedBy
  | _ => s

/-- Whether a tile walker has issued every tile it will issue, and each has been delivered or dropped. -/
def State.tilesOver (s : State) (n : Nat) (st : Stage) : Bool :=
  let g := gridFor st.desc
  (st.noIssue || decide (g.r * g.c ≤ st.issued.length)) && (s.tasksOf n).isEmpty

def execStageComplete (slot : Nat) (s : State) : Out :=
  answer s (match s.stage slot with
    | none => s
    | some st =>
      if st.phase ≠ .running then s
      else if tileWalker st.opcode then
        if s.tilesOver slot st then
          let own := if st.ending then s.endedBy
            else if st.opcode = 0x0A then tableStatus (s.kv.runs.get { table := [] } slot).table else 0
          s.finishWorst slot own
        else s
      else if st.ending then s.endEngine slot st
      else s)

/-! ### FENCE (R116, R117; spec/11 R318) -/

/-- Windows opened by the stages of a ring before a sequence number. -/
def OutWin.before (w : OutWin) (ring : Nat) (seq : Word32) : Bool := w.ring == ring && seqBefore w.seq seq

/-- A sequence number comes after the latest FENCE or BARRIER of its ring. -/
def Ring.sinceFence (r : Ring) (seq : Word32) : Bool :=
  match r.lastFence with
  | none => true
  | some f => seqBefore f seq

/-- The stages up to the next FENCE complete with ABORTED_BY_FENCE; with no such FENCE fetched yet, later arrivals do too. -/
def State.abortUpTo (s : State) (ring : Nat) (seq : Word32) : State :=
  let later := sortBy (fun (p : Nat × Stage) => (p.2.seq - seq).toNat) ((s.stagesOf ring).filter (fun p => seqBefore seq p.2.seq && !p.2.done))
  let isNext := fun (p : Nat × Stage) => p.2.isFence && (p.2.phase != .fetched || (admissionChecks s p.2).isNone)
  let hit := later.takeWhile (fun p => !isNext p)
  let s := hit.foldl (fun s p => s.finish p.1 0x0C) s
  if hit.length = later.length then s.setRing ring { s.ring ring with aborting := true } else s

/-- A FENCE or BARRIER of a ring has completed. -/
def State.fencePassed (s : State) (ring : Nat) (seq : Word32) : State :=
  let r := s.ring ring
  s.setRing ring { r with lastFence := some seq, failed := r.failed.filter (fun q => seqBefore seq q) }

/-- A FENCE or BARRIER whose ordering conditions are met. -/
def State.fenceReady (s : State) (st : Stage) : Bool :=
  (st.phase == .admitted || st.phase == .running) && s.orderMet st && (s.ring st.ring).starts

def execFenceComplete (slot : Nat) (s : State) : Out :=
  answer s (match s.stage slot with
    | none => s
    | some st =>
      let r := s.ring st.ring
      let system := op1 st.desc 0xE0 = 1
      let wins := s.lnk.outWins.filter (fun w => w.before st.ring st.seq)
      if !st.isFence ∨ !s.fenceReady st ∨ (system ∧ wins.any (fun w => w.status.isNone) = true) then s
      else
        let failed := r.failed.any (fun q => r.sinceFence q && seqBefore q st.seq)
          || (decide system && wins.any (fun w => r.sinceFence w.seq && w.status != some 0))
        let s := if system then
            ({ s with lnk := { s.lnk with outWins := s.lnk.outWins.filter (fun w => !w.before st.ring st.seq) } }).raise slot
              (wins.foldl (fun (f : Flags) (w : OutWin) => f ||| w.flags) 0)
          else s
        if failed ∧ op1 st.desc 0xE1 = 1 then ((s.finish slot 0x0C).fencePassed st.ring st.seq).abortUpTo st.ring st.seq
        else (s.finish slot 0).fencePassed st.ring st.seq)

/-! ### BARRIER (R118) -/

/-- Every barrier of a complete generation completes. -/
def State.releaseBarriers (s : State) (slots : List Nat) : State :=
  slots.foldl (fun s n => match s.stage n with
    | none => s
    | some st => (s.finish n 0).fencePassed st.ring st.seq) s

def execBarrierArrive (slot : Nat) (s : State) : Out :=
  answer s (match s.stage slot with
    | none => s
    | some st =>
      let key := (st.secure, op2 st.desc 0xE0); let count := op2 st.desc 0xE2
      let g := s.dsp.barriers.get ⟨count, []⟩ key
      if !st.isBarrier ∨ !s.fenceReady st ∨ g.arrived.contains slot then s
      else if g.count ≠ count then (s.finish slot 2).fencePassed st.ring st.seq
      else
        let arrived := g.arrived ++ [slot]
        let s := s.setStage slot { st with phase := .running }
        if count ≤ arrived.length then
          ({ s with dsp := { s.dsp with barriers := s.dsp.barriers.del key } }).releaseBarriers arrived
        else { s with dsp := { s.dsp with barriers := s.dsp.barriers.put key ⟨count, arrived⟩ } })

/-! ### SPILL_HINT (R165) and arrivals (R140) -/

/-- Tiles a hint spills from a core: those of live sets of its world, but for a tile that a running task is still writing. -/
def State.hintTiles (s : State) (secure : Bool) (c below : Nat) : List RetUnit :=
  (spillOrder (s.retTiles c below)).filter (fun u => match u with
    | .tile key _ => key.1 == secure
    | .scores _ => false)

def execSpillHintRun (slot : Nat) (s : State) : Out :=
  answer s (match s.stage slot with
    | none => s
    | some st =>
      if st.opcode ≠ 0x15 ∨ st.phase ≠ .running then s
      else
        let cs := (List.range 96).filter (s.maskHas (field st.desc 0xE4 12))
        (cs.foldl (fun s c => (s.hintTiles st.secure c (op1 st.desc 0xE0)).foldl (fun s u => match u with
          | .tile key i => s.spillTile c key i
          | .scores _ => s) s) s).finishWorst slot 0)

def execArrivalTimeout (slot : Nat) (s : State) : Out :=
  answer s (match s.stage slot with
    | none => s
    | some st =>
      let g := gridFor st.desc
      if st.phase ≠ .running ∨ st.arrival.isNone ∨ cArrTimeout st.chain = 0 ∨ st.noIssue ∨ g.r * g.c ≤ st.issued.length then s
      else (s.setStage slot { st with noIssue := true }).meet (some slot) 0x0B)

end Sys2Proof.Machine
end

