-- ==== Sys2Proof/Machine/Power.lean ====
section
/-!
DEFINITION. Switchable domains, gates and knocks, operating points, temperatures and supplies (spec/17 R454-R466; spec/19 R500; spec/20
R506, R508).
-/
namespace Sys2Proof.Machine

/-! ### Work and keep-awake conditions (Tables 17.2, 17.3) -/

/-- A core holds a retained tile that is live. -/
def State.coreKeeps (s : State) (c : Nat) : Bool :=
  s.dsp.sets.any (fun p => p.2.tiles.any (fun t => t.home == .kept c))

/-- A domain without power. -/
def DomSt.off : DomSt → Bool
  | .fallow | .heldOff => true
  | _ => false

/-- An engine of hub `h` has a unit in progress, by the domain's place among the hub's six. -/
def State.engineBusy (s : State) (h kind : Nat) : Bool :=
  let starts := fun (ops : List Nat) (d : Nat) =>
    s.dsp.stages.any (fun p => p.2.phase == .running && ops.contains p.2.opcode && (s.engineDomains p.2).contains d)
  match kind with
  | 0 => s.vid.decRuns.any (fun p => decide (0 < p.2.left) && ((s.vid.decs.find p.2.stream).map (fun x => x.engine / 4)) == some h)
  | 1 => s.vid.encRuns.any (fun p => p.2.coding.isSome && ((s.vid.encs.find p.2.stream).map (fun x => x.engine / 2)) == some h)
  | 2 => s.ingEntries.any (fun e => match e.2.2.st with | .busy g => g / 2 == h | _ => false)
      || s.ing.pyrs.any (fun p => p.2.engine == h)
  | 3 => (range (8 * h) 8).any (fun c => (s.chan c).running)
  | 4 => starts [0x0C, 0x0D] (204 + 6 * h)
  | _ => !s.kv.releases.isEmpty || s.dsp.stages.any (fun p => !p.2.done && [0x09, 0x0A, 0x0B].contains p.2.opcode)

/-- A domain has work now. -/
def State.working (s : State) (d : Nat) : Bool :=
  if d < 192 then
    let c := s.core (d / 2)
    if d % 2 = 0 then c.arrays.any (· != .clockStopped)
    else c.slots.any (fun p => p.2.st != .suspended)
  else if d < 200 then (range (12 * (d - 192)) 12).any (fun c => (s.core c).slots.any (fun p => p.2.st == .passes || p.2.st == .draining))
  else s.engineBusy ((d - 200) / 6) ((d - 200) % 6)

/-- A keep-awake condition of Table 17.3 holds. -/
def State.keptAwake (s : State) (d : Nat) : Bool :=
  if d < 192 then
    let c := s.core (d / 2)
    if d % 2 = 0 then c.arrays.any (fun a => a == .inPass || a == .emptying)
    else !c.slots.isEmpty || s.coreKeeps (d / 2) || !(s.domain (d - 1)).off
  else if d < 200 then (range (24 * (d - 192)) 24).any (fun e => !(s.domain e).off)
  else s.engineBusy ((d - 200) / 6) ((d - 200) % 6)

/-- FALLOW_ENABLE (Table 17.13). -/
def State.fallowEnabled (s : State) : Bool := s.setting 0x3000 4 != 0

/-! ### Domain commands -/

def execDomainClockGate (domain : Nat) (s : State) : Out :=
  answer s (if s.domain domain = .on ∧ !s.working domain then s.setDomain domain .clockGated else s)

def execDomainDrainStart (domain : Nat) (s : State) : Out :=
  answer s (
    if s.domain domain = .clockGated ∧ s.fallowEnabled ∧ !s.keptAwake domain then s.setDomain domain .draining else s)

def execDomainDrainComplete (domain : Nat) (s : State) : Out :=
  answer s (if s.domain domain = .draining then s.setDomain domain .poweringOff else s)

/-- A knocked domain completes its 0.3 µs and then wakes (R458). -/
def execDomainPowerOffComplete (domain : Nat) (s : State) : Out :=
  answer s (if s.domain domain = .poweringOff then (s.setDomain domain .fallow).startWakes else s)

/-- A packet that a gate cannot deliver now is held; a gate with 16 packets takes no more (R458). -/
def State.hold (s : State) (d packet : Nat) : State :=
  let g := s.pwr.gates.get [] d
  if 16 ≤ g.length then s else { s with pwr := { s.pwr with gates := s.pwr.gates.put d (g ++ [packet]) } }

def execGatePacketArrival (domain packet : Nat) (s : State) : Out :=
  answer s (
    match s.domain domain with
    | .heldOff => s
    | .on => s
    | .clockGated | .draining => s.knock domain
    | .poweringOff | .fallow | .waking => (s.hold domain packet).knock domain)

/-- Contents of a domain that wakes are at their reset values (Table 17.2); the pass that knocked its arrays begins. -/
def State.freshDomain (s : State) (d : Nat) : State :=
  if 192 ≤ d then s
  else
    let c := s.core (d / 2)
    s.setCore (d / 2) (if d % 2 = 0 then { c with arrays := c.arrays.map (fun a => if a = .inPass then .inPass else .idle), tail := 0 }
      else { c with lanes := none, staging := none, laneRegs := List.replicate 128 0, held := [] })

/-- A waking domain is ON; its held packets are delivered in order. -/
def execDomainWakeComplete (domain : Nat) (s : State) : Out :=
  answer s (
    if s.domain domain ≠ .waking then s
    else
      let s := (s.setDomain domain .on).freshDomain domain
      ({ s with pwr := { s.pwr with gates := s.pwr.gates.del domain } } : State).takeGated domain)

/-- The next 100 ns begin (R459). -/
def execDomainWakeWindow (s : State) : Out :=
  answer s ({ s with pwr := { s.pwr with begun := List.replicate 8 0 } }).startWakes

def execHeadlandClockIdleStop (s : State) : Out :=
  answer s (
    if s.store.writing.isNone && s.boot.running.isEmpty then { s with pwr := { s.pwr with fastClock := false } } else s)

/-! ### Operating points (R461, R462, R508) -/

/-- Set point of a point in mV before trim (Table 17.5). -/
def pointMv (p : Nat) : Nat := [600, 620, 640, 670, 700, 730, 770, 810, 850].getD p 0

/-- The set point of a point: the trim of the part, and 25 mV more where BS09 passed at its second alternative. -/
def State.pointSet (s : State) (p : Nat) : Nat :=
  (Int.ofNat (pointMv p) + s.fuses.trimMv + (if (s.brRec 9 0).alt = 1 then 25 else 0)).toNat

/-- The highest point that a die has or goes to. -/
def State.topPoint (s : State) : Nat := (s.pwr.point ++ s.pwr.target).foldl max 0

/-- Write the set point that the points need. -/
def State.writeSetPoint (s : State) : State := { s with pwr := { s.pwr with setMv := s.pointSet s.topPoint } }

/-- The field dies have been powered (BS08). -/
def State.diesUp (s : State) : Bool := s.boot.ended.contains (8, 0) && s.pwr.setMv != 0

/-- Changes of point are frozen (R465, R508). -/
def State.frozen (s : State) : Bool := s.warned || !s.pwr.avsOk

def State.setTarget (s : State) (f p : Nat) : State := { s with pwr := { s.pwr with target := s.pwr.target.set f p } }

/-- The ceiling of a die's point. -/
def State.ceiling (s : State) (f : Nat) : Nat :=
  if (s.pwr.hard.getD f {}).active then 0
  else min (s.setting 0x3000 2) (if s.setting 0x3000 3 = 0 then 6 else 8)

/-- The point a die goes to from `p` at a decision: `over` and `under` tell the power against its limit. -/
def State.nextPoint (s : State) (f p : Nat) (above under : Bool) : Nat :=
  let top := s.ceiling f
  if (s.pwr.throttle.getD f {}).active || above || decide (top < p) then p - 1
  else if under && decide (p < top) then p + 1
  else p

/-- A decision of the power controller: `power` is the package power of each of the last 10 ms in W, the latest last. -/
def execDvfsTick (power : List Nat) (s : State) : Out :=
  answer s (
    if power.isEmpty then s
    else
      let avg := power.sum / power.length
      let limit := s.setting 0x3000 1
      let above := decide (limit * power.length < power.sum)
      let under := decide (100 * power.sum < 95 * limit * power.length)
      let s := ({ s with pwr := { s.pwr with pkgPower := avg } }).bump pwrEnergyMj (power.getLastD 0)
      if !s.diesUp || s.frozen then s
      else
        let s := (List.range 8).foldl (fun s f => s.setTarget f (s.nextPoint f (s.pwr.target.getD f 0) above under)) s
        let held := above || (s.pwr.powerHeld && (List.range 8).any (fun f => decide (s.pwr.target.getD f 0 < s.ceiling f)))
        ({ s with pwr := { s.pwr with powerHeld := held } }).writeSetPoint)

/-- A die's change of point completes. -/
def execPstateChangeComplete (die : Nat) (s : State) : Out :=
  answer s (
    if s.frozen ∨ !s.diesUp then s
    else ({ s with pwr := { s.pwr with point := s.pwr.point.set die (s.pwr.target.getD die 0) } }).writeSetPoint)

/-! ### Supplies (R464-R466, R508; Tables 17.7, 20.4) -/

/-- Nominal voltage of a rail in mV in the order of Table 20.4: VDD_AO, VDD_IO18, VDD_CORE, VDD_HUB, VDD_PHY, VDDQ_G7, VPP_HBM, VDD_HBM,
VDDQ_HBM, VDD_OPT, VDD_HTR; the set point in force for VDD_CORE, the lower of the old and the new one during a change (R464). -/
def State.railMv (s : State) (rail : Nat) : Nat :=
  if rail = 2 then min s.pwr.setMv (min (s.pointSet (s.pwr.point.foldl max 0)) (s.pointSet (s.pwr.target.foldl max 0)))
  else [800, 1800, 0, 750, 850, 1200, 1800, 1050, 700, 900, 1800].getD rail 0

/-- A reading below a rail's warning level, and one below its reset level. -/
def State.belowWarning (s : State) (rail mv : Nat) : Bool :=
  if rail = 0 then decide (mv < 720) else decide (100 * mv < 92 * s.railMv rail)
def State.belowReset (s : State) (rail mv : Nat) : Bool :=
  if rail = 0 then decide (mv < 660) else decide (100 * mv < 85 * s.railMv rail)

/-- A rail crosses its warning level (R465). -/
def State.supplyWarn (s : State) (rail mv : Nat) : State :=
  match s.pwr.rails.find rail with
  | some x => { s with pwr := { s.pwr with rails := s.pwr.rails.put rail { x with lowest := min x.lowest mv } } }
  | none => ({ s with pwr := { s.pwr with rails := s.pwr.rails.put rail { lowest := mv, since := s.time } } }).tick1 pwrWarnEvents

def execSupplyWarning (rail millivolts : Nat) (s : State) : Out :=
  answer s (if s.belowWarning rail millivolts then s.supplyWarn rail millivolts else s)

/-- Every rail has stayed above its level for 50 µs: each warning ends and is logged. -/
def execSupplyWarningRecover (s : State) : Out :=
  answer s (
    let t := { s with pwr := { s.pwr with rails := [] } }
    s.pwr.rails.foldl (fun t p => t.log 0x0401 p.1 (p.2.lowest % 2 ^ 16 + min ((s.time - p.2.since) / 1000) (2 ^ 32 - 1) * 2 ^ 16)) t)

def execSupplyResetLevel (rail millivolts : Nat) (s : State) : Out :=
  answer s (
    if !s.belowReset rail millivolts then s
    else if rail = 0 then s.deviceReset true 2 else s.deviceReset false 4)

/-- The read-back of the set point: more than 10 mV away counts as a warning on VDD_CORE; no answer freezes the points (R508). -/
def execAvsReadback (millivolts : Option Nat) (s : State) : Out :=
  answer s (
    if !s.diesUp then s
    else match millivolts with
      | none => { s with pwr := { s.pwr with avsOk := false } }
      | some v =>
        let s := { s with pwr := { s.pwr with avsOk := true } }
        if s.pwr.setMv + 10 < v ∨ v + 10 < s.pwr.setMv then s.supplyWarn 2 v else s)

def execCurrentLimitTrip (s : State) : Out :=
  answer s (
    if s.pwr.currentLimit.isSome ∨ !s.diesUp then s
    else ({ s with pwr := { s.pwr with currentLimit := some s.time } }).tick1 pwrCurrentLimit)

def execCurrentLimitRelease (s : State) : Out :=
  answer s (
    match s.pwr.currentLimit with
    | none => s
    | some t => ({ s with pwr := { s.pwr with currentLimit := none } }).log 0x0403 0 ((s.time - t) / 1000))

/-! ### Temperature (R463, Table 17.6) -/

/-- An action after a reading: it starts at `hi`, and ends 10 ms after the die has come below `lo`. -/
def Hot.read (x : Hot) (t hi lo now : Nat) : Hot :=
  if hi ≤ t then { active := true, coolSince := none }
  else if !x.active then x
  else if lo ≤ t then { x with coolSince := none }
  else
    let since := x.coolSince.getD now
    if since + 10000000 ≤ now then {} else { x with coolSince := some since }

/-- A thermal action that begins is logged: its row of Table 17.6 from 0, and the temperature. -/
def State.logHot (s : State) (old new : Hot) (die row t : Nat) : State :=
  if new.active && !old.active then s.log 0x0402 die (row + t * 2 ^ 8) else s

/-- A field die's THROTTLE row. -/
def State.readThrottle (s : State) (f t : Nat) : State :=
  let old := s.pwr.throttle.getD f {}
  let new := old.read t s.throttleTemp (s.throttleTemp - 5) s.time
  ({ s with pwr := { s.pwr with throttle := s.pwr.throttle.set f new } }).logHot old new f 0 t

/-- A die's 105 °C row; a field die goes to point 0. -/
def State.readHard (s : State) (die t : Nat) : State :=
  let old := s.pwr.hard.getD die {}
  let new := old.read t 105 100 s.time
  let s := ({ s with pwr := { s.pwr with hard := s.pwr.hard.set die new } }).logHot old new die (if die < 8 then 1 else 2) t
  if new.active && decide (die < 8) && !s.frozen then s.setTarget die 0 else s

/-- The four readings of each die are taken; a thermal trip ends once every die is below 95 °C. -/
def execDieTempSample (readings : List Nat) (s : State) : Out :=
  answer s (
    let temps : List Nat := (List.range 10).map (fun i => min 255 (((readings.drop (4 * i)).take 4).foldl max 0))
    let s := { s with pwr := { s.pwr with temps := temps } }
    let s := (List.range 8).foldl (fun s f => s.readThrottle f (temps.getD f 0)) s
    let s := (List.range 10).foldl (fun s d => s.readHard d (temps.getD d 0)) s
    if s.pwr.trip && temps.all (fun (t : Nat) => decide (t < 95)) then
      ({ s with pwr := { s.pwr with trip := false } }).emit (.pin 0 true)
    else s)

/-- A die has been at 115 °C for 10 µs: THERMTRIP_N falls (pin 0) and a core reset is held. -/
def execThermalTrip (die : Nat) (s : State) : Out :=
  answer s (
    if s.pwr.trip then s
    else
      let s := ((s.log 0x0402 die (4 + s.pwr.temps.getD die 0 * 2 ^ 8)).emit (.pin 0 false)).deviceReset false 5
      { s with pwr := { s.pwr with trip := true } })

end Sys2Proof.Machine
end

