-- ==== Sys2Proof/Machine/Boot.lean ====
section
/-!
DEFINITION. Reset lines and the bring-up sequencer (spec/17 R466-R473; spec/06 R169; spec/07 R185, R186, R208; spec/10 R258, R264-R274;
spec/11 R289, R303, R309; spec/13 R360; spec/14 R379; spec/16 R435; spec/20 R505, R509, R510, R524).
-/
namespace Sys2Proof.Machine

/-! ### The steps of Table 17.9 -/

/-- Steps that a step starts after. -/
def brAfter (step : Nat) : List Nat :=
  [[], [0], [1], [2], [1], [4], [5], [6], [6], [8], [3, 7], [3, 6], [9, 10, 11], [6], [3, 6], [14], [15, 21], [12], [12], [12], [12], [3],
    [13, 16, 17, 18, 19, 20, 21], [22]].getD step []

/-- Optional steps. -/
def brOptional (step : Nat) : Bool := [11, 13, 14, 15, 16, 19, 20].contains step

/-- Keys of a step's units, or of the step itself where it has none. -/
def brKeys (step : Nat) : List (Nat × Nat) :=
  let n := if step = 10 ∨ step = 11 then 2 else if step = 14 then 4 else if step = 15 then 32 else 0
  if n = 0 then [(step, 0)] else (range 1 n).map (fun k => (step, k))

/-- The key of a command's step and unit. -/
def brKey (step unit : Nat) : Nat × Nat := if (brKeys step).length = 1 then (step, unit) else (step, 1 + unit)

/-- Attempts of an alternative. -/
def brAttempts (step : Nat) : Nat := if [4, 7, 13].contains step then 2 else if step = 15 then 3 else 1

/-- Limit of an attempt in us; BS15's is that of CALIBRATE, ALIGN and VERIFY (Table 11.6). -/
def brLimit (step : Nat) : Nat :=
  [10000, 5000, 50000, 400000, 1000, 5000, 5000, 10000, 40000, 100000, 100000, 100000, 1000000, 100000, 100000, 125000, 100000, 20000, 20000,
    50000, 20000, 50000, 20000, 1000].getD step 0

/-- Rates and timings that a hub die's GDDR7 trains at, in order (R268): the bins from the lower of G7_RATE_MAX and the devices' bin
down to 28, then the last with increased timings. A bin of 0 is not known. -/
def State.g7Rates (s : State) (bin : Nat) : List (Nat × Nat) :=
  let top := min (s.setting 0x6001 2) (if bin = 0 then 36 else bin)
  ([36, 32, 28].filter (fun r => decide (r ≤ top))).map (fun r => (r, 0)) ++ [(28, 1)]

/-- Alternatives of a step, in order; `result` tells the devices' bin at BS11. -/
def State.brAlts (s : State) (step result : Nat) : List Nat :=
  if step = 11 then List.range (s.g7Rates (bits result 8 8)).length
  else if step = 15 then s.alternatives
  else if step = 10 then [0, 1, 2]
  else if [2, 3, 7, 8, 9, 12, 13, 19, 20].contains step then [0, 1]
  else [0]

/-! ### Progress -/

/-- The device is held in reset: RST_N low, the TAP out of reset, a thermal trip (Table 17.6, spec/20 R524). -/
def State.held (s : State) : Bool := !s.lines.rstN || s.lines.tapOut || s.pwr.trip

def State.stepEnded (s : State) (step : Nat) : Bool := (brKeys step).all s.boot.ended.contains

/-- Steps of a start in safe mode (R471). -/
def safeSteps : List Nat := [0, 1, 2, 4, 5, 6, 13]

/-- Whether a step or unit may start now. -/
def State.mayRun (s : State) (step : Nat) (key : Nat × Nat) : Bool :=
  !s.held && !s.boot.restart && (brKeys step).contains key && !s.boot.ended.contains key && (s.boot.running.find key).isNone
    && (brAfter step).all s.stepEnded
    && (!s.hif.safeMode || step == 13) && (!s.boot.safe || safeSteps.contains step)
    && (step != 13 || !s.lines.perst)

def State.setRunning (s : State) (key : Nat × Nat) (alt n : Nat) : State :=
  { s with boot := { s.boot with
      running := s.boot.running.put key (alt, n), warnAt := s.boot.warnAt.put key (s.ctr pwrWarnNs).toNat } }

def State.stopRunning (s : State) (key : Nat × Nat) : State :=
  { s with boot := { s.boot with running := s.boot.running.del key, warnAt := s.boot.warnAt.del key } }

/-- Record of a unit step once its units have ended: the worst outcome, the latest alternative (log 60). -/
def State.joinUnits (s : State) (step : Nat) : State :=
  if (brKeys step).length = 1 || !s.stepEnded step then s
  else
    let rs := (brKeys step).map (fun k => s.brRec k.1 k.2)
    let last := if rs.any (fun r => r.last == 2) then 2 else if rs.any (fun r => r.last == 3) then 3 else 1
    s.setRec step 0
      { last := last, alt := (rs.map BrRec.alt).foldl max 0, tries := min 65535 (rs.map BrRec.tries).sum
        fails := (rs.map BrRec.fails).foldl max 0, skip := false }

/-- A step or unit has ended in this start. -/
def State.endKey (s : State) (key : Nat × Nat) : State :=
  let s := s.stopRunning key
  ({ s with boot := { s.boot with ended := s.boot.ended ++ [key] } }).joinUnits key.1

/-! ### Domains -/

def State.domainsOn (s : State) (ds : List Nat) : State :=
  ds.foldl (fun s d => if s.domain d = .heldOff then s else s.setDomain d .on) s
def State.domainsHeld (s : State) (ds : List Nat) : State := ds.foldl (fun s d => s.setDomain d .heldOff) s

/-- Domains of the engines that BS19 and BS20 name. -/
def codecDomains : List Nat := [200, 201, 203, 206, 207, 209]
def ingestDomains : List Nat := [202, 208]

/-! ### Effects of the steps that pass -/

/-- BS00: HELD_OFF domains of the grade, the tray position. -/
def State.passBs00 (s : State) (tpos : Nat) : State :=
  let s := if s.fuses.gradeB then s.domainsHeld (range 176 16) else s
  { s with lnk := { s.lnk with tpos := tpos % 8 } }

/-- BR_RESTORE and BR_CLEAR take effect (R475). -/
def State.applyFlags (s : State) : State :=
  let restore := s.boot.restore; let clear := s.boot.clear
  let one := fun (r : BrRec) =>
    let r := if restore then { r with alt := 0 } else r
    if clear then { r with fails := 0, skip := false } else r
  { s with boot := { s.boot with
      recs := s.boot.recs.map (fun p => (p.1, one p.2)), safe := s.boot.safe && !clear, restore := false, clear := false } }

/-- BS02: the store is loaded and its settings are in use from then on (spec/15 R423), INCARNATION counts on, the fabric identity is latched, the start is logged. -/
def State.passBs02 (s : State) (absent : Bool) : State :=
  let s := (s.loadStore absent).applyFlags
  let s := { s with objs := s.objs.put (0x5000, 5) (toLE 4 (s.incarnation + 1)) }
  let hours := s.setting 0x6000 1
  let s := { s with mem := { s.mem with
      ceLimit := s.setting 0x6000 3, scrubHours := if hours = 0 then s.mem.scrubHours else hours } }
  let id := s.setting 0x5000 1
  let devid := if id = 0xFFFF then s.setting 0x5000 2 * 8 + s.lnk.tpos else id
  ({ s with lnk := { s.lnk with devid := devid, domain := s.setting 0x5000 4 } }).log 0x0503 s.boot.lastReset s.incarnation

/-- The slot an alternative of BS03 reads. -/
def State.bs03Slot (s : State) (alt : Nat) : Nat := if alt = 0 then s.setting 0x1F00 2 else 1 - s.setting 0x1F00 2

/-- BS03: the slot that passed is active, and the seal is checked. -/
def State.passBs03 (s : State) (alt : Nat) : State :=
  let k := s.bs03Slot alt
  ({ s with store := { s.store with
      fwActive := k, fw := s.store.fw.mapIdx (fun i (f : FwSlot) => { f with started := i == k }) } }).sealCheck

/-- The units of a hub die's stacks or channels. -/
def hubUnits (gddr : Bool) (h : Nat) : List Nat := if gddr then range (8 + 8 * h) 8 else range (4 * h) 4

/-- The rows on the remap lists of units are repaired; bit `i` of `kept` tells that the i-th entry could not be (R274). -/
def State.repair (s : State) (units : List Nat) (kept : Nat) : State :=
  (units.foldl (fun (acc : Nat × State) u =>
    let x := acc.2.unit u
    let stays := (x.remap.zipIdx.filter (fun p => bit kept (acc.1 + p.2))).map (fun p => p.1.1)
    (acc.1 + x.remap.length,
      acc.2.setUnit u { x with remap := stays.zipIdx.map (fun p => (p.1, p.2, true)), spares := stays.length })) (0, s)).2

def State.setTiming (s : State) (units : List Nat) (t : Nat) : State :=
  units.foldl (fun s u => s.setUnit u { s.unit u with timing := t }) s

/-- BS10 on hub `h`: its four stacks run at one timing set. -/
def State.passBs10 (s : State) (h alt result : Nat) : State :=
  (s.repair (hubUnits false h) (result / 2 ^ 16)).setTiming (hubUnits false h) alt

/-- BS11 on hub `h`: density in the low byte of the result, the devices' bin above it. -/
def State.passBs11 (s : State) (h alt result : Nat) : State :=
  let (rate, t) := (s.g7Rates (bits result 8 8)).getD alt (28, 1)
  let s := (s.repair (hubUnits true h) (result / 2 ^ 16)).setTiming (hubUnits true h) t
  { s with mem := { s.mem with g7Density := s.mem.g7Density.set h (bits result 0 8), g7Rate := s.mem.g7Rate.set h rate } }

/-- A rejected extent or region is logged (code 0x0109). -/
def State.reject (s : State) (source base : Nat) : State := s.log 0x0109 source base

/-- Spill bases (R169): a multiple of 2 MiB in the HBM of the hub die, else the default. -/
def State.latchSpill (s : State) (h : Nat) : State :=
  let v := s.setting 0x4020 (1 + h)
  let good := v % 2 ^ 21 == 0 && decide (h * 2 ^ 38 ≤ v) && decide (v + 1152 * 2 ^ 20 ≤ (h + 1) * 2 ^ 38 - 2 ^ 24)
  let s := if good then s else s.reject 0 v
  { s with mem := { s.mem with spillBase := s.mem.spillBase.set h (if good then v else s.objDefault 0x4020 (1 + h)) } }

/-- A descriptor of the boot table is loaded (spec/16 R435). -/
def State.loadRegion (s : State) (i : Nat) : State :=
  let r := s.bootRegion i
  if r = {} then s
  else if (s.regRefusal i r).isSome then (s.setRegion i { r with valid := false }).reject 3 r.lo
  else s.setRegion i r

/-- BS12: keys are drawn, spill bases and regions latched, memory written as zero and put in service; the result's bits 0 and 1 take
the GDDR7 of a hub die out of service. -/
def State.passBs12 (s : State) (result : Nat) : State :=
  let dead := fun (h : Nat) => bit result h
  let (n, s) := s.fresh
  let s := { s with sec := { s.sec with memKeyGen := n + 1 } }
  let m := s.mem
  let s := { s with mem := { m with
      g7Rate := m.g7Rate.mapIdx (fun h d => if dead h then 0 else d)
      cells := m.cells.filter (fun c => decide (2 ^ 47 ≤ c.1)), lines := [], poison := [], inService := [true, true] } }
  let s := (List.range 24).foldl (fun s u =>
    let x := s.unit u
    let up := decide (u < 8) || s.g7Bytes ((u - 8) / 8) != 0
    s.setUnit u { x with st := if up then .service else .out, poisonTable := [] }) s
  let s := (List.range 2).foldl State.latchSpill s
  (List.range 256).foldl State.loadRegion s

/-- An extent of a pool (R185, spec/13 R360): aligned, wholly in memory of its tier, in regions of its world, clear of the extents
accepted before it. -/
def State.extentOk (s : State) (secure : Bool) (base n : Nat) (tier : Option Bool) : Bool :=
  let place := s.place base
  let right := match tier, place with
    | some false, .hbm _ => true
    | some true, .gddr _ => true
    | none, .hbm _ => true
    | none, .gddr _ => true
    | _, _ => false
  base % 2 ^ 21 == 0 && right && s.inMemory base n && decide (base + n ≤ 2 ^ 47)
    && !touches (s.kvExtents ++ s.poolExtents) base n
    && (match s.covering 257 base (base + n) with | none => false | some gs => gs.all (fun g => g.secure == secure))

/-- Pages of the accepted key-value extents. -/
def State.kvPagesTotal (s : State) : Nat := s.kv.openPool.hbm.2 + s.kv.openPool.g7.2 + s.kv.secPool.hbm.2 + s.kv.secPool.g7.2

/-- A key-value extent is checked and given to its pool (R185, R186). -/
def State.latchKv (s : State) (secure g7 : Bool) : State :=
  let i := if secure then 0x6102 else 0x6101
  let base := s.setting i (if g7 then 3 else 1)
  let pages := s.setting i (if g7 then 4 else 2)
  let p := s.kvPool secure
  if pages = 0 then s
  else if !s.extentOk secure base (pages * s.kvFrame) (some g7) ∨ 2 ^ 24 < s.kvPagesTotal + pages then
    (s.setKvPool secure { p with cfgFault := true }).reject 1 base
  else if g7 then
    s.setKvPool secure { p with g7 := (base, pages), freeG7 := { next := p.hbm.2, stop := p.hbm.2 + pages } }
  else s.setKvPool secure { p with hbm := (base, pages), freeHbm := { next := 0, stop := pages } }

/-- A frame-buffer pool is checked and set (spec/13 R360). -/
def State.latchPool (s : State) (secure : Bool) : State :=
  let base := s.setting 0x2500 (if secure then 3 else 1)
  let n := s.setting 0x2500 (if secure then 4 else 2)
  if n = 0 then s
  else if s.extentOk secure base n none then
    { s with framePools := if secure then (s.framePools.1, (base, n)) else ((base, n), s.framePools.2) }
  else s.reject 2 base

/-- The frame-buffer pools are checked once BS17 and BS19 have both passed, so that the key-value extents come first (spec/07 R186). -/
def State.latchPools (s : State) (other : Nat) : State :=
  if s.boot.ended.contains (other, 0) ∧ (s.brRec other 0).last = 1 then (s.latchPool false).latchPool true else s

/-- BS17: settings of the store and its windrow partition are latched, the extents are checked, the engines run. -/
def State.passBs17 (s : State) : State :=
  let total := s.setting 0x6100 4
  let sec := min (s.setting 0x6100 5) total
  let s := { s with
    kv := { s.kv with
      p := s.setting 0x6100 1, fmt := s.setting 0x6100 2, d := s.setting 0x6100 3
      chunksOpen := (total - sec) * 256, chunksSecure := sec * 256 }
    mem := { s.mem with windrowMib := total, windrowSecureMib := sec } }
  let s := (((s.latchKv false false).latchKv false true).latchKv true false).latchKv true true
  (s.domainsOn [205, 211]).latchPools 19

/-- BS19: bit `i` of the result tells, at alternative 1, that the i-th of D200 to D203 and D206 to D209 fails. -/
def State.passBs19 (s : State) (alt result : Nat) : State :=
  let all := [200, 201, 202, 203, 206, 207, 208, 209]
  let bad := if alt = 0 then [] else (all.zipIdx.filter (fun p => bit result p.2)).map Prod.fst
  ((s.domainsHeld bad).domainsOn codecDomains).latchPools 17

/-- BS20: bits 0 and 1 of the result tell, at alternative 1, that D202 or D208 fails. -/
def State.passBs20 (s : State) (alt result : Nat) : State :=
  let bad := if alt = 0 then [] else (ingestDomains.zipIdx.filter (fun p => bit result p.2)).map Prod.fst
  (s.domainsHeld bad).domainsOn ingestDomains

/-- A port has passed VERIFY at BS15: it waits for BS16, or goes on. -/
def State.passBs15 (s : State) (p : Nat) : State :=
  let s := s.setPort p { s.port p with st := .verify }
  if s.boot.authOpen then s.portNext p .auth else s.setPort p { s.port p with waitAuth := true }

/-- BS23: NOT_READY clears, DRS is sent, ports left DISABLED train. -/
def State.passBs23 (s : State) : State :=
  let s := { s with
    hif := { s.hif with notReady := false, drsSent := true }
    boot := { s.boot with readyUs := (s.time - s.boot.startTime) / 1000 } }
  let s := s.emit .drs
  (List.range 32).foldl (fun s p => if (s.port p).st = .disabled then s.portTrain p else s) s

/-- The effect of a step or unit that passes. -/
def State.passStep (s : State) (step unit alt result : Nat) : State :=
  match step with
  | 0 => s.passBs00 result
  | 2 => s.passBs02 (result == 1)
  | 3 => s.passBs03 alt
  | 8 => (s.domainsOn (range 0 200)).writeSetPoint
  | 9 => s.writeSetPoint
  | 10 => s.passBs10 unit alt result
  | 11 => s.passBs11 unit alt result
  | 12 => s.passBs12 result
  | 13 => { s with hif := { s.hif with linkRate := result % 16, linkWidth := result / 16 % 32 } }
  | 14 => (s.setLaser unit { seated := true, ready := true, released := true }).laserOutputs unit
  | 15 => s.passBs15 unit
  | 17 => s.passBs17
  | 18 => s.domainsOn [204, 210]
  | 19 => s.passBs19 alt result
  | 20 => s.passBs20 alt result
  | 21 => { s with boot := { s.boot with spdm := true } }
  | 22 => ({ s with boot := { s.boot with full := true } }).bringupCommit
  | 23 => s.passBs23
  | _ => s

/-- The function of a failed or skipped optional step is absent. -/
def State.absentStep (s : State) (step unit : Nat) : State :=
  match step with
  | 15 => s.setPort unit { s.port unit with st := .disabled, key := none }
  | 19 => s.domainsHeld codecDomains
  | 20 => s.domainsHeld ingestDomains
  | _ => s

/-! ### Safe mode (R471) -/

/-- The device stands in safe mode: domains held off, lasers and ports off, the dictionary whole. -/
def State.stand (s : State) : State :=
  let s := { s with
    pwr := { s.pwr with doms := (List.range 212).map (fun d => (d, DomSt.heldOff)), gates := [], knocks := [] }
    hif := { s.hif with safeMode := true, drsSent := true }
    lnk := { s.lnk with lasers := s.lnk.lasers.map (fun (l : Laser) => { l with outputs := false }), ports := [] }
    boot := { s.boot with safe := true, full := true, running := s.boot.running.filter (fun p => p.1.1 == 13) } }
  (s.emit .drs).bringupCommit

/-- A mandatory step has failed in two consecutive starts. -/
def State.enterSafe (s : State) (step fails : Nat) : State := (s.log 0x0502 step fails).stand

/-- A start in safe mode returns to it once its steps have ended. -/
def State.safeReturn (s : State) : State :=
  if s.boot.safe && !s.hif.safeMode && safeSteps.all s.stepEnded then s.stand else s

/-- A failure in a start of safe mode skips the steps after it. -/
def State.safeSkip (s : State) (step : Nat) : State :=
  let rest := safeSteps.filter (fun k => decide (step < k) && !s.stepEnded k)
  { s with boot := { s.boot with ended := s.boot.ended ++ rest.map (fun k => (k, 0)) } }

/-! ### Attempts (R470) -/

/-- An attempt begins. -/
def State.attempt (s : State) (key : Nat × Nat) (alt n : Nat) : State :=
  let r := s.brRec key.1 key.2
  let s := (s.setRec key.1 key.2 { r with tries := min 65535 (r.tries + 1) }).headland.setRunning key alt n
  if key.1 = 15 then s.portBegin (key.2 - 1) alt (n - 1) else s

/-- A mandatory step has failed for good in this start. -/
def State.mandatoryFail (s : State) (key : Nat × Nat) : State :=
  if s.boot.safe then ((s.endKey key).safeSkip key.1).safeReturn
  else if 2 ≤ (s.brRec key.1 key.2).fails then s.enterSafe key.1 (s.brRec key.1 key.2).fails
  else
    let t := s.bringupCommit
    if t.store.writing.isNone then t.deviceReset false 6 else { t with boot := { t.boot with restart := true, running := [] } }

/-- Every alternative has failed: the record, the log, and what follows. -/
def State.stepFail (s : State) (key : Nat × Nat) (unit alt : Nat) : State :=
  let r := s.brRec key.1 key.2
  let fails := min 255 (r.fails + 1)
  let s := s.setRec key.1 key.2 { r with alt := 0, fails := fails, last := 2, skip := brOptional key.1 }
  let s := s.log 0x0501 key.1 (unit + alt * 2 ^ 8 + fails * 2 ^ 16)
  if brOptional key.1 then
    let s := if key.1 = 15 then s.log 0x0202 unit alt else s
    ((s.absentStep key.1 unit).endKey key).safeReturn
  else (s.stopRunning key).mandatoryFail key

/-- A step or unit passes. -/
def State.stepPass (s : State) (key : Nat × Nat) (unit alt result : Nat) : State :=
  let s := s.setRec key.1 key.2 { s.brRec key.1 key.2 with alt := alt, fails := 0, last := 1 }
  ((s.passStep key.1 unit alt result).endKey key).safeReturn

/-- What the device itself finds about an attempt that is reported as passed: a winning bank, a slot that holds an image, a trained
link, a seated module, a port that trains. -/
def State.canPass (s : State) (step unit alt result : Nat) : Bool :=
  match step with
  | 2 => alt == 1 || (result != 1 && (winningBank (s.store.banks.getD 0 []) (s.store.banks.getD 1 [])).isSome)
  | 3 => let f := s.store.fw.getD (s.bs03Slot alt) {}; (f.st == 3 || f.started) && decide (f.image.length ≤ 16777216)
  | 11 => [16, 24, 32].contains (bits result 0 8)
  | 13 => result % 16 != 0 && (alt == 0 || decide (result % 16 ≤ 5))
  | 14 => (s.lnk.lasers.getD unit {}).seated
  | 15 => [.calibrate, .align, .verify].contains (s.port unit).st
  | _ => true

/-- An attempt ends: the next attempt, the next alternative, or the end. -/
def State.attemptOver (s : State) (step unit : Nat) (passed : Bool) (result micros : Nat) : State :=
  let key := brKey step unit
  match s.boot.running.find key with
  | none => s
  | some (alt, n) =>
    let warned := ((s.ctr pwrWarnNs).toNat - s.boot.warnAt.get 0 key) / 1000
    let s := { s with boot := { s.boot with duration := s.boot.duration.put step (s.boot.duration.get 0 step + micros) } }
    if passed ∧ micros ≤ brLimit step + warned ∧ s.canPass step unit alt result then s.stepPass key unit alt result
    else if n < brAttempts step then s.attempt key alt (n + 1)
    else match (s.brAlts step result).find? (fun a => decide (alt < a)) with
      | some a => s.attempt key a 1
      | none => s.stepFail key unit alt

/-- What the start of a step does before its first attempt: BS16 lets the waiting ports go on. -/
def State.openStep (s : State) (step : Nat) : State :=
  if step ≠ 16 then s
  else
    let s := { s with boot := { s.boot with authOpen := true } }
    (List.range 32).foldl (fun s p =>
      if (s.port p).waitAuth then (s.setPort p { s.port p with waitAuth := false }).portNext p .auth else s) s

/-- A step or unit starts, or is skipped. -/
def State.startStep (s : State) (step unit : Nat) : State :=
  let key := brKey step unit
  if !s.mayRun step key then s
  else
    let r := s.brRec key.1 key.2
    if r.skip then
      ((s.setRec key.1 key.2 { r with skip := false, last := 3 }).absentStep step unit).endKey key |>.safeReturn
    else
      let alts := s.brAlts step 0
      (s.openStep step).attempt key ((alts.find? (fun a => decide (r.alt ≤ a))).getD (alts.headD 0)) 1

def execBringupStepRun (step unit : Nat) (s : State) : Out := answer s (s.startStep step unit)

def execBringupAttemptEnd (step unit : Nat) (passed : Bool) (result : Nat) (micros : Nat) (s : State) : Out :=
  answer s (s.attemptOver step unit passed result micros)

def execBringupAttemptTimeout (step unit : Nat) (s : State) : Out :=
  answer s (s.attemptOver step unit false 0 (brLimit step))

/-! ### Reset lines (Table 17.8; spec/20 R505, R509, R524) -/

def State.setLines (s : State) (x : Lines) : State := { s with lines := x }

def execPowerOnReset (s : State) : Out := answer s (s.deviceReset true 0)

def execRstNAssert (s : State) : Out :=
  answer s ((s.setLines { s.lines with rstN := false }).deviceReset true 1)

/-- RST_N goes high with VDD_AO good: device time starts and BS00 begins. -/
def execRstNDeassert (s : State) : Out :=
  answer s (
    if s.lines.rstN then s
    else
      let s := { s.setLines { s.lines with rstN := true } with time := 0 }
      ({ s with boot := { s.boot with startTime := 0 } }).startStep 0 0)

def execPerstAssert (s : State) : Out :=
  answer s (if s.lines.perst then s else (s.setLines { s.lines with perst := true }).deviceReset false 3)

def execPerstDeassert (s : State) : Out := answer s (s.setLines { s.lines with perst := false })

/-- The device holds itself in core reset while the TAP is out of reset; BR_LAST_RESET keeps its code, since none is given for it. -/
def execTapResetRelease (s : State) : Out :=
  answer s (
    if s.lines.tapOut then s else (s.setLines { s.lines with tapOut := true }).deviceReset false s.boot.lastReset)

def execTapReset (s : State) : Out := answer s (s.setLines { s.lines with tapOut := false })

end Sys2Proof.Machine
end

