-- ==== Sys2Proof/Machine/Faults.lean ====
section
/-!
DEFINITION. Errors in control SRAM, withdrawn cores, closed streams and fatal events (spec/18 R476-R481, R492).
-/
namespace Sys2Proof.Machine

/-! ### A Granary line whose state is lost (Table 18.2) -/

/-- The way is discarded, the line is poisoned at its resting place, its owning world is notified (spec/10 R278, R279). -/
def State.loseLine (s : State) (l : Nat) : State :=
  let secure := s.lineSecure l
  if (s.resident l).isNone then s
  else
  let s := { s with mem := { s.mem with lines := s.mem.lines.filter (fun g => g.line != l) } }
  let s := if secure then (s.tick1 secUe).notifySecure else s.tick1 memUeOpenCnt
  (s.poisonLine (unitOf l) l).log 0x0101 (unitOf l) (l * 256) secure

/-! ### A withdrawn core (R478) -/

/-- Retained tiles that a core held, in its CLS or in its spill frames, are lost. -/
def State.loseTiles (s : State) (c : Nat) : State :=
  { s with dsp := { s.dsp with sets := s.dsp.sets.map (fun (p : (Bool × Nat) × RetSet) =>
      (p.1, { p.2 with tiles := p.2.tiles.map (fun (t : RetTile) => match t.home with
        | .kept k => if k = c then { t with home := .lost, data := [] } else t
        | .spilled k _ _ => if k = c then { t with home := .lost, data := [] } else t
        | _ => t) })) } }

/-- Every task of a core is abandoned: its tile is not written and its stage reports PARTIAL. -/
def State.abandonTasks (s : State) (c : Nat) : State :=
  (s.core c).slots.foldl (fun s p => (s.meet (some p.2.stage) 0x0B).tileDone c p.1 p.2.stage) s

def State.withdraw (s : State) (c part : Nat) : State :=
  if (s.core c).withdrawn ∨ s.coreCount ≤ c then s
  else
    let s := (s.abandonTasks c).loseTiles c
    let s := s.setCore c { arrays := List.replicate 4 .clockStopped, withdrawn := true }
    s.log 0x0702 c part

/-! ### A closed stream or channel (Table 18.2) -/

/-- The stages of a stream that wait or run complete with PARTIAL. -/
def State.endStream (s : State) (encode : Bool) (slot : Nat) : State :=
  let mine := s.dsp.stages.filter (fun p =>
    (p.2.phase == .admitted || p.2.phase == .running) && p.2.opcode == (if encode then 0x0F else 0x0E) && op1 p.2.desc 0xE0 != 0
      && (if encode then ((s.encStream (vidHandle p.2.desc)).map Prod.fst) == some slot
          else ((s.decStream (vidHandle p.2.desc)).map Prod.fst) == some slot))
  mine.foldl (fun s p =>
    if (s.vid.decRuns.find p.1).isSome then s.endDecode p.1 0x0B
    else if (s.vid.encRuns.find p.1).isSome then s.endEncode p.1 0x0B
    else s.finishWorst p.1 0x0B) s

def State.loseStream (s : State) (encode : Bool) (slot : Nat) : State :=
  if encode then match s.vid.encs.find slot with
    | none => s
    | some x => ((s.endStream true slot).closeEnc slot).log 0x0703 slot 1 x.secure
  else match s.vid.decs.find slot with
    | none => s
    | some x => ((s.endStream false slot).closeDec slot).log 0x0703 slot 0 x.secure

/-- A channel stops; its pending commit completes with PARTIAL. -/
def State.loseChan (s : State) (c : Nat) : State :=
  let x := s.chan c
  if !x.running then s
  else
    let s := s.setChan c { x with pending := none, later := none }
    let s := (x.pending.toList ++ x.later.toList).foldl (fun s n => s.finishWorst n 0x0B) s
    (s.setChan c { s.chan c with running := false }).log 0x0703 c 2 x.secure

/-! ### Fatal events (R479) -/

def Waiting.isRead (w : Waiting) : Bool :=
  match w with
  | .read _ _ _ _ => true
  | .bar4 _ _ _ _ => true
  | _ => false

/-- Step 1: fetching stops, rings stop, reads that wait are answered with zeros. -/
def State.stopAll (s : State) : State :=
  let live := s.hif.rings.filter (fun p => p.2.st != .disabled)
  let s : State := { s with
    hif := { s.hif with rings := s.hif.rings.map (fun (p : Nat × Ring) =>
      if p.2.st == .running || p.2.st == .draining then (p.1, { p.2 with st := .stopped, fetching := 0 }) else p) }
    flt := { s.flt with stopNext := live.map Prod.fst } }
  let waiting := s.mem.waiting
  waiting.foldl (fun (s : State) (w : Nat × Waiting) => match w.2 with
    | .read who a n _ => s.emit (.memData who a (List.replicate n 0#8))
    | .bar4 who _ _ n => s.emit (.pcieData who.fn .data (List.replicate n 0#8))
    | _ => s) { s with mem := { s.mem with waiting := waiting.filter (fun w => !w.2.isRead) } }

/-- Step 2: every admitted stage ends at its next pre-emption point. -/
def State.endAll (s : State) : State :=
  (s.dsp.stages.filter (fun p => p.2.phase == .admitted || p.2.phase == .running)).foldl (fun s p => s.endStage p.1) s

/-- A stage whose slot lost its contents: PARTIAL, without OPCODE and STAGE_TAG. -/
def State.loseSlot (s : State) (slot : Option Nat) : State :=
  match slot.bind (fun n => (s.stage n).map (fun st => (n, st))) with
  | none => s
  | some (n, st) =>
    if st.done then s
    else
      let s := s.setStage n { st with lost := true }
      if st.phase = .running then s else s.finish n 0x0B

/-- Step 3: the device leaves its fabric domain; from now on its ports carry WELOC and KEY only. -/
def State.leaveFabric (s : State) : State :=
  ((s.lnk.peers.filter (fun p => p.2.st == .present)).map Prod.fst).foldl (fun s d => s.sendMsg d 0x02 0 []) s

/-- A fatal event of a structure code; a second one before the next reset changes nothing more. -/
def State.fatalEvent (s : State) (code address : Nat) (slot : Option Nat := none) : State :=
  if s.fatal then s
  else
    let s := { s with flt := { s.flt with diagFatal := code, diagFatalTime := s.time } }
    (s.stopAll.loseSlot slot).endAll.leaveFabric.log 0x0704 code address

def execControlSramCe (_where : SramKind) (s : State) : Out := answer s (s.tick1 telSramCe)

def execControlSramUe (where_ : SramKind) (s : State) : Out :=
  answer s (
    let s := s.tick1 telSramUe
    match where_ with
    | .granary l => s.loseLine l
    | .core c part => s.withdraw c part
    | .codec encode slot => s.loseStream encode slot
    | .pace c => s.loseChan c
    | .fatal code address slot => s.fatalEvent code address slot)

/-- The bridge is lost: its retraining begins. -/
def execBridgeLoss (s : State) : Out := answer s { s with flt := { s.flt with bridgeLost := true } }

/-- 100 µs later the retraining has not repaired it. -/
def execBridgeLossTimeout (s : State) : Out := answer s (if s.flt.bridgeLost then s.fatalEvent 9 0 else s)

end Sys2Proof.Machine
end

