-- ==== Sys2Proof/Machine/Peers.lean ====
section
/-!
DEFINITION. Peers of the fabric: HELLOs, their checks, loss and device time (spec/11 R307-R312, R328).
-/
namespace Sys2Proof.Machine

/-- The body of a HELLO sent on a port (Table 11.5). -/
def State.helloBody (s : State) (p : Nat) : List Byte :=
  toLE 2 s.lnk.devid ++ toLE 1 s.lnk.tpos ++ toLE 1 p ++ toLE 4 s.lnk.domain ++ toLE 4 s.incarnation
    ++ s.fuses.serial.take 8 ++ toLE 2 s.timeMaster ++ toLE 1 s.timeHops.1 ++ toLE 1 0

def State.activePorts (s : State) : List Nat := (List.range 32).filter s.isActive

def execHelloPeriodTimer (s : State) : Out :=
  answer s (if s.fatal then s else s.activePorts.foldl (fun s p => (s.tick1 (lnkPort p lnkTx)).emit (.hello p (s.helloBody p))) s)

/-- Stages of Table 11.14 that a loss ends: a COPY or COLLECTIVE of the peer, with the windows it has opened, an ARRIVAL stage that names
it. DESIGN CHOICE (log 50): the last ends with PEER_LOST even where all its tiles have been issued and nothing waits any more. -/
def State.loseStages (s : State) (d : Nat) : State :=
  let cs := (s.lnk.copies.filter (fun p => p.2.peer == some d)).map Prod.fst
  let gs := (s.lnk.colls.filter (fun p => p.2.members.contains d)).map Prod.fst
  let s := cs.foldl (fun s n => (s.meet (some n) 9).endCopy n 9) s
  let s := gs.foldl (fun s n => (s.meet (some n) 9).endColl n 9) s
  (s.dsp.stages.filter (fun p => p.2.arrival.isSome && cArrPeer p.2.chain == d && !p.2.done)).foldl (fun s p =>
    match s.stage p.1 with
    | none => s
    | some st => (s.setStage p.1 { st with noIssue := true }).meet (some p.1) 9) s

/-- What waits for a port to a DEVID, and whatever has no route any more, cannot be delivered (R311). -/
def State.dropHeld (s : State) (d : Nat) : State :=
  let lost := fun (e : Nat × List Byte) => e.1 == d || (s.routePorts e.1).isEmpty
  let flits := s.lnk.held.filter lost
  let msgs := s.lnk.heldMsgs.filter lost
  let s := { s with lnk := { s.lnk with
    held := s.lnk.held.filter (fun e => !lost e), heldMsgs := s.lnk.heldMsgs.filter (fun e => !lost e) } }
  let s := flits.foldl (fun s e => s.routeDrop (bits (field e.2 4 2) 0 10) e.1) s
  msgs.foldl (fun s e => s.routeDrop (field e.2 4 2) e.1) s

/-- Messages of other devices in the discarded stream with a peer cannot be delivered. -/
def State.dropForwarded (s : State) (p : Peer) : State :=
  ((p.sent.flatMap (fun x => messagesOf 14 x.2.2.2) ++ p.queued).filter (fun m => field m 4 2 != s.lnk.devid)).foldl
    (fun s m => s.routeDrop (field m 4 2) (field m 2 2)) s

/-- A PRESENT peer becomes LOST (R308, Table 11.14). -/
def State.losePeer (s : State) (d cause : Nat) : State :=
  let p := s.peer d
  if p.st ≠ .present then s
  else
    let s := (s.tick1 lnkPeersLost).log 0x0203 d cause
    let s := s.setPeer d { p with
      st := .lost, ports := [], ctrl := none, sendSeq := 0, sent := [], queued := [], recvSeq := 0, ackDue := false, nakDue := false }
    let s := { s with lnk := { s.lnk with
      windows := s.lnk.windows.filter (fun w => w.2.peer != d)
      winWait := s.lnk.winWait.filter (fun w => w.1 != d)
      outWins := s.lnk.outWins.map (fun (w : OutWin) => if w.peer = d ∧ w.status.isNone then { w with status := some 9 } else w)
      early := s.lnk.early.filter (fun (e : EarlyJoin) => e.src != d) } }
    (((s.dropHeld d).dropForwarded p).loseStages d).serveWaiting

/-- The port and position that R289 gives the far end of a port at tray position `a`: none for an off-tray port. -/
def trayPeer (a p : Nat) : Option (Nat × Nat) := if p % 8 = a then none else some (p % 8, p - p % 8 + a)

/-- No other entry than that of `d` holds a port any longer; a stream of the port's own ends. -/
def State.freePort (s : State) (port d : Nat) : State :=
  { s with lnk := { s.lnk with peers := (s.lnk.peers.filter (fun p => p.1 != 1024 + port)).map (fun p =>
    if p.1 = d then p else (p.1, { p.2 with
      ports := p.2.ports.filter (· != port), ctrl := p.2.ctrl.filter (· != port) })) } }

/-- A HELLO refused by rows 1 to 3 of Table 11.9: the port is mismatched, and none of the peer's. -/
def State.refuseHello (s : State) (port : Nat) (b : List Byte) : State :=
  let x := s.port port
  let s := if x.mismatched ∧ x.peer = some (field b 0 2) then s else s.freePort port 1024
  s.setPort port { x with mismatched := true, peer := some (field b 0 2), tpos := field b 2 1 }

/-- A HELLO accepted by row 4 of Table 11.9. -/
def State.takeHello (s : State) (port d : Nat) (b : List Byte) : State :=
  let inc := field b 8 4; let serial := field b 12 8
  let wired := match trayPeer s.lnk.tpos port with
    | none => true
    | some (a, q) => field b 2 1 == a && field b 3 1 == q
  let s := s.setPort port { s.port port with
    peer := some d, farPort := field b 3 1, tpos := field b 2 1, miswired := !wired, mismatched := false }
  let s := if wired then s else s.log 0x0205 port (d + 2 ^ 63)
  let s := if s.present d && decide ((s.peer d).incarnation < inc) then s.losePeer d 3 else s
  let s := (s.freePort port d).keepCtrl (some d)
  let p := s.peer d
  let st := match p.st with
    | .absent => .joining
    | .lost => if p.incarnation < inc then .joining else .lost
    | .joining => .present
    | .present => .present
  if st = .lost then s
  else
    let fresh : Peer := if p.st = .lost ∨ p.st = .absent then {} else p     -- a new incarnation's streams start with SEQ 0 (R300)
    let q := { fresh with st := p.st, incarnation := inc, serial := serial, ports := sortBy id (port :: p.ports.filter (· != port)),
                          master := field b 20 2, hops := field b 22 1 }
    let s := s.setPeer d q
    if p.st = .joining then s.makePresent d else s.setPeer d { q with st := st }

def execHello (port _src : Nat) (body : List Byte) (s : State) : Out :=
  answer s (
    let b := msgBody body; let d := field b 0 2
    if (s.port port).st ≠ .active then s.tick1 (lnkPort port lnkHelloEarly)
    else
    let s := s.tick1 (lnkPort port lnkRx)
    if s.fatal then s
    else if !msgOk 0x01 body then s.tick1 lnkBadMsg
    else
      let bad := s.refuseHello port b
      let dup := { bad with lnk := { bad.lnk with dupDevid := true } }
      if field b 4 4 ≠ s.lnk.domain then bad.tick1 lnkDomainMismatch
      else if d = s.lnk.devid then dup.log 0x0205 port d
      else if s.present d ∧ (s.peer d).serial ≠ field b 12 8 then dup.log 0x0205 port d
      else s.takeHello port d b)

/-- A second passes without a further HELLO refused under rows 2 or 3 (Table 11.16). -/
def execDupDevidExpiry (s : State) : Out := answer s { s with lnk := { s.lnk with dupDevid := false } }

def execLeave (src : Nat) (s : State) : Out := answer s (s.losePeer src 2)

def execPeerTimeout (peer : Nat) (s : State) : Out :=
  answer s (if (s.peer peer).ports.any s.isActive then s.losePeer peer 0 else s)

/-- The route of a DEVID is up: a port of a direct peer is ACTIVE, one of a forwarded peer ACTIVE or in RETRAIN (R308). -/
def State.routeUp (s : State) (d : Nat) : Bool :=
  (s.routePorts d).any (fun p => s.isActive p || ((s.peer d).ports.isEmpty && (s.port p).st == .retrain))

/-- Flits held for a DEVID that no entry shows PRESENT are dropped too (R311). -/
def execRetrainGraceExpiry (peer : Nat) (s : State) : Out :=
  answer s (if s.routeUp peer then s else (s.losePeer peer (if (s.peer peer).ports.isEmpty then 4 else 1)).dropHeld peer)

def execPeerAbsentTimeout (peer : Nat) (s : State) : Out :=
  answer s (let p := s.peer peer; if p.st = .lost then s.setPeer peer { p with st := .absent } else s)

/-- The body of a TIME message (R310): its send stamp, the peer's stamp last received and when it arrived. -/
def execTimeExchangeTimer (s : State) : Out :=
  answer s ((s.lnk.peers.filter (fun p => p.2.st == .present && !p.2.ports.isEmpty)).foldl (fun s p =>
    s.sendMsg p.1 0x03 0 (toLE 8 s.time ++ toLE 8 p.2.stamp.1 ++ toLE 8 p.2.stamp.2)) s)

/-- Follow the clock of the master: forward once by more than 1 ms where this device has just become PRESENT, else by slewing (R310). -/
def State.followTime (s : State) (theirs : Nat) : State :=
  let off : Int := (theirs : Int) - s.time
  if 1000000 < off ∧ s.lnk.synced = false then
    { s with time := theirs, lnk := { s.lnk with slew := 0, slewPhase := 0 } }
  else { s with lnk := { s.lnk with slew := off } }

def execTime (src : Nat) (body : List Byte) (s : State) : Out :=
  answer s (s.onMsg src 0x03 body (fun _ b =>
    if !s.present src then s
    else
    let p := s.peer src
    let t := field b 0 8; let echo := field b 8 8; let at_ := field b 16 8
    let delay := ((s.time - echo) - (t - at_)) / 2
    let s' := if echo ≠ 0 ∧ s.timeHops.2 = some src then
        let s := s.followTime (t + delay)
        { s with lnk := { s.lnk with synced := true } }
      else s
    s'.setPeer src { p with stamp := (t, s.time) }))

/-- A ROUTE_DROP reports a drop that another device has counted (R311); the spec gives its receiver no further effect. -/
def execRouteDrop (src : Nat) (body : List Byte) (s : State) : Out := answer s (s.onMsg src 0x0E body (fun _ _ => s))

end Sys2Proof.Machine
end

