-- ==== Sys2Proof/Machine/Spdm.lean ====
section
/-!
DEFINITION. The SPDM responder over DOE, MCTP on I3C and MCTP over PCIe VDM, and DOE Discovery (spec/14 R377; spec/16 R442-R446). Message
layouts beyond what the spec gives stand behind opaque constants (notes, log 6).
-/
namespace Sys2Proof.Machine

/-- SPDM answers on a transport (spec/17 R473). -/
def State.spdmUp (s : State) (via : Transport) : Bool :=
  s.boot.spdm && s.hears via && s.hasEid via && (match via with | .link _ => false | _ => true)

/-- Send an SPDM answer; one longer than the transfer size waits to be fetched in chunks. -/
def State.spdmSend (s : State) (via : Transport) (bytes : List Byte) : State :=
  if bytes.length ≤ Config.dataTransferSize then s.reply via (.spdm via bytes)
  else
    let h := s.freeCount % 256
    let out := s.sec.chunkOut.filter (fun c => !(c.1 == via && c.2.1 == h)) ++ [(via, h, bytes)]
    let s := { s.fresh.2 with sec := { s.sec with chunkOut := out } }
    s.reply via (.spdm via (spdmMsg 0x7F 0x0F 0 (toLE 1 h)))

/-- Answer a request: code, parameters and body. -/
def State.spdm (s : State) (via : Transport) (code p1 p2 : Nat) (body : List Byte) : State :=
  if s.spdmUp via then s.headland.spdmSend via (spdmMsg code p1 p2 body) else s

/-- An SPDM error. -/
def State.spdmError (s : State) (via : Transport) (code data : Nat) : State := s.spdm via 0x7F code data []

/-- A free string of bytes for nonces and shares. -/
def State.freeBytes (s : State) (use n : Nat) : List Byte := (List.range n).map (Config.freeByte s.freeCount use)

def execGetVersion (via : Transport) (s : State) : Out := answer s (s.spdm via 0x04 0 0 (toLE 1 0 ++ toLE 1 1 ++ toLE 2 0x1300))

/-- CERT, CHAL, MEAS with signature, ENCRYPT, MAC, MUT_AUTH, KEY_EX, encapsulated requests, HBEAT, KEY_UPD, CHUNK (Table 16.6). -/
def spdmCaps : Nat :=
  2 ^ 1 + 2 ^ 2 + 2 * 2 ^ 3 + 2 ^ 6 + 2 ^ 7 + 2 ^ 8 + 2 ^ 9 + 2 ^ 12 + 2 ^ 13 + 2 ^ 14 + 2 ^ 17

def execGetCapabilities (via : Transport) (s : State) : Out :=
  answer s (s.spdm via 0x61 0 0 (Config.answerBody 0x61 [] ++ toLE 4 spdmCaps ++ toLE 4 Config.dataTransferSize ++ toLE 4 65536))

def execNegotiateAlgorithms (via : Transport) (body : List Byte) (s : State) : Out :=
  answer s (s.spdm via 0x63 0 0 (Config.answerBody 0x63 body))

def execGetDigests (via : Transport) (s : State) : Out := answer s (s.spdm via 0x01 0 1 (Config.sha384 Config.certChain))

/-- A part of the slot 0 chain: its length, what remains, its bytes. -/
def execGetCertificate (via : Transport) (slot offset length : Nat) (s : State) : Out :=
  answer s (
    if slot ≠ 0 ∨ Config.certChain.length < offset then s.spdmError via 0x01 0
    else
      let part := (Config.certChain.drop offset).take length
      s.spdm via 0x02 0 0 (toLE 2 part.length ++ toLE 2 (Config.certChain.length - offset - part.length) ++ part))

def execChallenge (via : Transport) (slot : Nat) (nonce : List Byte) (s : State) : Out :=
  answer s (
    if slot ≠ 0 then s.spdmError via 0x01 0
    else
      let own := s.freeBytes 0 32
      let body := Config.sha384 Config.certChain ++ own
      s.fresh.2.spdm via 0x03 0 1 (body ++ Config.akSign (nonce ++ body)))

/-- Measurement blocks: the count, all, or one; signed when requested (R446). -/
def execGetMeasurements (via : Transport) (index : Nat) (signed : Bool) (nonce : List Byte) (s : State) : Out :=
  answer s (
    let block := fun (i : Nat) => toLE 1 i ++ s.measurement i
    let own := s.freeBytes 0 32
    let body := if index = 0 then [] else if index = 0xFF then (range 1 5).flatMap block else block index
    if index ≠ 0 ∧ index ≠ 0xFF ∧ 5 < index then s.spdmError via 0x01 0
    else s.fresh.2.spdm via 0x60 (if index = 0 then 5 else 0) 0
      (body ++ (if signed then own ++ Config.akSign (nonce ++ own ++ body) else [])))

/-! ### Sessions -/

def State.setSession (s : State) (n : Nat) (x : Session) : State :=
  { s with sec := { s.sec with sessions := s.sec.sessions.put n x } }
def State.dropSession (s : State) (n : Nat) : State :=
  { s with sec := { s.sec with sessions := s.sec.sessions.filter (fun p => p.1 != n) } }

/-- A session begins, at most 4 at once; none after an entropy failure (R443). -/
def execKeyExchange (via : Transport) (body : List Byte) (s : State) : Out :=
  answer s (
    if !s.spdmUp via then s
    else if s.sec.entropyFail then s.spdmError via 0x05 0
    else match (List.range 4).find? (fun n => (s.sec.sessions.find n).isNone) with
      | none => s.spdmError via 0x0A 0
      | some n =>
        let share := s.freeBytes 0 96
        let t := s.fresh.2.setSession n { via := via, keyGen := s.freeCount }
        t.spdm via 0x64 0 0 (toLE 2 n ++ share ++ Config.akSign (body ++ share)))

/-- The handshake ends: the session is Secure when the requester's chain has the active owner's root (R445). -/
def execFinish (session : Nat) (ownerRoot : Option (List Byte)) (verified : Bool) (s : State) : Out :=
  answer s (
    match s.sec.sessions.find session with
    | none => s
    | some x =>
      if x.established then s
      else if !verified then (s.dropSession session).spdmError x.via 0x06 0
      else
        let active := s.ownerSlot.bind (fun k => (s.fuses.owners.getD k {}).digest)
        let secure := match ownerRoot, active with
          | some root, some d => Config.sha384 root == d
          | _, _ => false
        (s.setSession session { x with established := true, secure := secure }).spdm x.via 0x65 0 0 [])

/-- A request inside an established session. -/
def State.inSession (s : State) (n : Nat) (act : Session → State) : State :=
  match s.sec.sessions.find n with
  | none => s
  | some x => if x.established then act x else s

def execHeartbeat (session : Nat) (s : State) : Out :=
  answer s (s.inSession session (fun x => s.spdm x.via 0x68 0 0 []))

/-- Operations 1 UpdateKey and 2 UpdateAllKeys draw new keys; 3 VerifyNewKey confirms them. -/
def execKeyUpdate (session operation : Nat) (s : State) : Out :=
  answer s (s.inSession session (fun x =>
    if operation = 1 ∨ operation = 2 then
      (s.fresh.2.setSession session { x with keyGen := s.freeCount }).spdm x.via 0x69 operation 0 []
    else if operation = 3 then s.spdm x.via 0x69 operation 0 []
    else s.spdmError x.via 0x01 0))

def execEndSession (session : Nat) (s : State) : Out :=
  answer s (s.inSession session (fun x => (s.dropSession session).spdm x.via 0x6C 0 0 []))

/-! ### Chunks -/

/-- One chunk of a large request, at most 65,536 bytes in all; the request itself is a command of its own once it is whole. -/
def execChunkSend (via : Transport) (handle number : Nat) (last : Bool) (total : Nat) (bytes : List Byte) (s : State) : Out :=
  answer s (
    let mine := fun (c : Transport × Nat × Nat × List Byte) => c.1 == via && c.2.1 == handle
    let others := s.sec.chunkIn.filter (fun c => !mine c)
    let (next, sofar) := match s.sec.chunkIn.find? mine with
      | some c => if number = 0 then (0, []) else (c.2.2.1, c.2.2.2)
      | none => (0, [])
    let all := sofar ++ bytes
    if !s.spdmUp via then s
    else if number ≠ next ∨ 65536 < total ∨ 65536 < all.length ∨ (last ∧ number = 0) then
      ({ s with sec := { s.sec with chunkIn := others } }).spdmError via 0x01 0
    else
      ({ s with sec := { s.sec with chunkIn := if last then others else others ++ [(via, handle, number + 1, all)] } }).spdm via
        0x05 0 handle (toLE 2 number))

/-- One chunk of a large answer. -/
def execChunkGet (via : Transport) (handle number : Nat) (s : State) : Out :=
  answer s (
    if !s.spdmUp via then s
    else match s.sec.chunkOut.find? (fun c => c.1 == via && c.2.1 == handle) with
      | none => s.spdmError via 0x01 0
      | some (_, _, bytes) =>
        let size := max 1 Config.dataTransferSize
        let part := (bytes.drop (number * size)).take size
        let last := decide (bytes.length ≤ (number + 1) * size)
        let t := if last then
            { s with sec := { s.sec with chunkOut := s.sec.chunkOut.filter (fun c => !(c.1 == via && c.2.1 == handle)) } }
          else s
        if part.isEmpty then s.spdmError via 0x01 0
        else t.reply via (.spdm via (spdmMsg 0x06 (b2n last) handle (toLE 2 number ++ toLE 4 part.length ++ part))))

/-! ### Carried and other requests -/

/-- A carrier of TDISP (protocol 1) or IDE_KM (protocol 0) in a secured session: the message it carries is a command of its own. -/
def execVendorDefinedRequest (session : Option Nat) (protocol : Nat) (_body : List Byte) (s : State) : Out :=
  answer s (
    match session with
    | none => s.spdmError .doe 0x04 0
    | some n =>
      if !s.doeSession n then s
      else if protocol ≤ 1 then s
      else s.spdmError .doe 0x07 0xFE)

def execSpdmUnsupportedRequest (via : Transport) (code : Nat) (s : State) : Out := answer s (s.spdmError via 0x07 code)

/-- The protocols of the PF's mailbox (spec/14 Table 14.1): DOE Discovery, CMA-SPDM, Secured CMA-SPDM. -/
def execDoeDiscovery (index : Nat) (s : State) : Out :=
  answer s (
    if !s.hears .doe then s
    else if index < 3 then s.emit (.spdm .doe (toLE 2 1 ++ toLE 1 index ++ toLE 1 (if index = 2 then 0 else index + 1)))
    else s.emit (.spdm .doe (toLE 2 0xFFFF ++ toLE 1 0 ++ toLE 1 0)))

end Sys2Proof.Machine
end

