-- ==== Sys2Proof/Machine/Dispatch.lean ====
section
/-! DEFINITION. The dispatch of the commands: one arm per constructor, in the order of spec/opcode_table.json. -/
namespace Sys2Proof.Machine

def exec (i : Instr) (s : State) : Host.Outcome State Fault Refusal :=
  match i with
  | .hifDbSqTail fn page view value ide => Sys2Proof.Machine.execHifDbSqTail fn page view value ide s
  | .hifDbCqHead fn page view value ide => Sys2Proof.Machine.execHifDbCqHead fn page view value ide s
  | .enable fn page ide => Sys2Proof.Machine.execEnable fn page ide s
  | .resume fn page ide => Sys2Proof.Machine.execResume fn page ide s
  | .drain fn page ide => Sys2Proof.Machine.execDrain fn page ide s
  | .reset fn page ide => Sys2Proof.Machine.execReset fn page ide s
  | .functionLevelReset fn => Sys2Proof.Machine.execFunctionLevelReset fn s
  | .pcieHotReset => Sys2Proof.Machine.execPcieHotReset s
  | .ringResetComplete ring => Sys2Proof.Machine.execRingResetComplete ring s
  | .fetchDescriptors => Sys2Proof.Machine.execFetchDescriptors s
  | .fetchAllowanceTick => Sys2Proof.Machine.execFetchAllowanceTick s
  | .descriptorArrival ring bytes => Sys2Proof.Machine.execDescriptorArrival ring bytes s
  | .descriptorFetchFault ring how => Sys2Proof.Machine.execDescriptorFetchFault ring how s
  | .admitStage slot => Sys2Proof.Machine.execAdmitStage slot s
  | .chainBlockCheck slot => Sys2Proof.Machine.execChainBlockCheck slot s
  | .stageStart slot => Sys2Proof.Machine.execStageStart slot s
  | .stageComplete slot => Sys2Proof.Machine.execStageComplete slot s
  | .cqEntryWrite ring => Sys2Proof.Machine.execCqEntryWrite ring s
  | .cqWriteFault ring => Sys2Proof.Machine.execCqWriteFault ring s
  | .irqDelayExpiry ring => Sys2Proof.Machine.execIrqDelayExpiry ring s
  | .pcieConfigRequest fn access => Sys2Proof.Machine.execPcieConfigRequest fn access s
  | .bar4Read fn offset length ide => Sys2Proof.Machine.execBar4Read fn offset length ide s
  | .bar4Write fn offset bytes ide => Sys2Proof.Machine.execBar4Write fn offset bytes ide s
  | .registerWrite fn bar page offset value ide => Sys2Proof.Machine.execRegisterWrite fn bar page offset value ide s
  | .registerLowWordRead fn access => Sys2Proof.Machine.execRegisterLowWordRead fn access s
  | .hifFnTableWrite fn entry register view value => Sys2Proof.Machine.execHifFnTableWrite fn entry register view value s
  | .dspReprio view value => Sys2Proof.Machine.execDspReprio view value s
  | .hifVfReprio fn view value ide => Sys2Proof.Machine.execHifVfReprio fn view value ide s
  | .vidKeyReq view value => Sys2Proof.Machine.execVidKeyReq view value s
  | .hifVfKeyReq fn view value ide => Sys2Proof.Machine.execHifVfKeyReq fn view value ide s
  | .memUeAckWrite view value => Sys2Proof.Machine.execMemUeAckWrite view value s
  | .regCtrlWrite descriptor view value => Sys2Proof.Machine.execRegCtrlWrite descriptor view value s
  | .placeTask => Sys2Proof.Machine.execPlaceTask s
  | .taskStart core => Sys2Proof.Machine.execTaskStart core s
  | .arrayPassComplete core => Sys2Proof.Machine.execArrayPassComplete core s
  | .taskPassesEnd core => Sys2Proof.Machine.execTaskPassesEnd core s
  | .harrowRowEnd core => Sys2Proof.Machine.execHarrowRowEnd core s
  | .spillComplete core => Sys2Proof.Machine.execSpillComplete core s
  | .restoreComplete core headerOk => Sys2Proof.Machine.execRestoreComplete core headerOk s
  | .taskDrainStart core => Sys2Proof.Machine.execTaskDrainStart core s
  | .taskDrainEnd core => Sys2Proof.Machine.execTaskDrainEnd core s
  | .arrayClockStop core array => Sys2Proof.Machine.execArrayClockStop core array s
  | .gleanRequest core => Sys2Proof.Machine.execGleanRequest core s
  | .gleanServe victim => Sys2Proof.Machine.execGleanServe victim s
  | .gleanTransferComplete core => Sys2Proof.Machine.execGleanTransferComplete core s
  | .gleanExclusionExpiry core victim => Sys2Proof.Machine.execGleanExclusionExpiry core victim s
  | .fenceComplete slot => Sys2Proof.Machine.execFenceComplete slot s
  | .barrierArrive slot => Sys2Proof.Machine.execBarrierArrive slot s
  | .spillHintRun slot => Sys2Proof.Machine.execSpillHintRun slot s
  | .arrivalTimeout slot => Sys2Proof.Machine.execArrivalTimeout slot s
  | .laneContextTakeover core => Sys2Proof.Machine.execLaneContextTakeover core s
  | .kvAppendStart slot => Sys2Proof.Machine.execKvAppendStart slot s
  | .kvAppendComplete slot => Sys2Proof.Machine.execKvAppendComplete slot s
  | .kvReleaseStart slot => Sys2Proof.Machine.execKvReleaseStart slot s
  | .kvReleaseComplete slot => Sys2Proof.Machine.execKvReleaseComplete slot s
  | .memoryRead who addr length hint => Sys2Proof.Machine.execMemoryRead who addr length hint s
  | .memoryWrite who addr bytes hint => Sys2Proof.Machine.execMemoryWrite who addr bytes hint s
  | .missFillComplete line ecc => Sys2Proof.Machine.execMissFillComplete line ecc s
  | .atomicRequest who addr op fmt wrap bytes => Sys2Proof.Machine.execAtomicRequest who addr op fmt wrap bytes s
  | .atomicApplyMc line ecc => Sys2Proof.Machine.execAtomicApplyMc line ecc s
  | .rowRemapComplete unit => Sys2Proof.Machine.execRowRemapComplete unit s
  | .scrubRead unit ecc forced => Sys2Proof.Machine.execScrubRead unit ecc forced s
  | .memTempRead unit celsius => Sys2Proof.Machine.execMemTempRead unit celsius s
  | .ceRateTick => Sys2Proof.Machine.execCeRateTick s
  | .unitRetrainStart unit cause => Sys2Proof.Machine.execUnitRetrainStart unit cause s
  | .unitRetrainAttemptEnd unit passed => Sys2Proof.Machine.execUnitRetrainAttemptEnd unit passed s
  | .linkFrameRx port corrected uncorrectable types => Sys2Proof.Machine.execLinkFrameRx port corrected uncorrectable types s
  | .dataFlitWrite port bytes => Sys2Proof.Machine.execDataFlitWrite port bytes s
  | .dataFlitAtomic port bytes => Sys2Proof.Machine.execDataFlitAtomic port bytes s
  | .dataFlitReadData port bytes => Sys2Proof.Machine.execDataFlitReadData port bytes s
  | .dataFlitReadPoison port bytes => Sys2Proof.Machine.execDataFlitReadPoison port bytes s
  | .controlFlitRx port bytes => Sys2Proof.Machine.execControlFlitRx port bytes s
  | .controlReplayTimeout peer => Sys2Proof.Machine.execControlReplayTimeout peer s
  | .creditReturn port => Sys2Proof.Machine.execCreditReturn port s
  | .hello port src body => Sys2Proof.Machine.execHello port src body s
  | .leave src => Sys2Proof.Machine.execLeave src s
  | .time src body => Sys2Proof.Machine.execTime src body s
  | .winReq src body => Sys2Proof.Machine.execWinReq src body s
  | .winGrant src body => Sys2Proof.Machine.execWinGrant src body s
  | .winDeny src body => Sys2Proof.Machine.execWinDeny src body s
  | .winEnd src body => Sys2Proof.Machine.execWinEnd src body s
  | .winDone src body => Sys2Proof.Machine.execWinDone src body s
  | .winDoneTimeout window => Sys2Proof.Machine.execWinDoneTimeout window s
  | .readReq src body => Sys2Proof.Machine.execReadReq src body s
  | .readEnd src body => Sys2Proof.Machine.execReadEnd src body s
  | .coll src body => Sys2Proof.Machine.execColl src body s
  | .weloc src body => Sys2Proof.Machine.execWeloc src body s
  | .key port body => Sys2Proof.Machine.execKey port body s
  | .routeDrop src body => Sys2Proof.Machine.execRouteDrop src body s
  | .helloPeriodTimer => Sys2Proof.Machine.execHelloPeriodTimer s
  | .timeExchangeTimer => Sys2Proof.Machine.execTimeExchangeTimer s
  | .peerTimeout peer => Sys2Proof.Machine.execPeerTimeout peer s
  | .retrainGraceExpiry peer => Sys2Proof.Machine.execRetrainGraceExpiry peer s
  | .peerAbsentTimeout peer => Sys2Proof.Machine.execPeerAbsentTimeout peer s
  | .portCalibrateEnd port passed => Sys2Proof.Machine.execPortCalibrateEnd port passed s
  | .portAlignEnd port passed => Sys2Proof.Machine.execPortAlignEnd port passed s
  | .portVerifyEnd port passed => Sys2Proof.Machine.execPortVerifyEnd port passed s
  | .portAuthEnd port passed => Sys2Proof.Machine.execPortAuthEnd port passed s
  | .portTrainTimeout port => Sys2Proof.Machine.execPortTrainTimeout port s
  | .portRetryTimer port => Sys2Proof.Machine.execPortRetryTimer port s
  | .portRetrainEntry port cause => Sys2Proof.Machine.execPortRetrainEntry port cause s
  | .microringRecal port => Sys2Proof.Machine.execMicroringRecal port s
  | .microringRecalEnd port => Sys2Proof.Machine.execMicroringRecalEnd port s
  | .laserModuleInsert module => Sys2Proof.Machine.execLaserModuleInsert module s
  | .laserModuleRemove module => Sys2Proof.Machine.execLaserModuleRemove module s
  | .laserPresenceTimer module => Sys2Proof.Machine.execLaserPresenceTimer module s
  | .copyStart slot => Sys2Proof.Machine.execCopyStart slot s
  | .copyPieceComplete slot => Sys2Proof.Machine.execCopyPieceComplete slot s
  | .collectiveStart slot => Sys2Proof.Machine.execCollectiveStart slot s
  | .collectiveJoinTimeout slot => Sys2Proof.Machine.execCollectiveJoinTimeout slot s
  | .collectiveBlockReduce slot block => Sys2Proof.Machine.execCollectiveBlockReduce slot block s
  | .collectivePartialTimeout slot => Sys2Proof.Machine.execCollectivePartialTimeout slot s
  | .collectiveComplete slot => Sys2Proof.Machine.execCollectiveComplete slot s
  | .ingestStart slot => Sys2Proof.Machine.execIngestStart slot s
  | .liveQueuePoll slot entry => Sys2Proof.Machine.execLiveQueuePoll slot entry s
  | .ingestWaitTimeout slot entry => Sys2Proof.Machine.execIngestWaitTimeout slot entry s
  | .ingestEntryComplete slot entry => Sys2Proof.Machine.execIngestEntryComplete slot entry s
  | .ingestComplete slot => Sys2Proof.Machine.execIngestComplete slot s
  | .pyramidStart slot => Sys2Proof.Machine.execPyramidStart slot s
  | .pyramidLevelComplete slot => Sys2Proof.Machine.execPyramidLevelComplete slot s
  | .vdecOpen slot => Sys2Proof.Machine.execVdecOpen slot s
  | .vdecDecode slot => Sys2Proof.Machine.execVdecDecode slot s
  | .vdecRelease slot => Sys2Proof.Machine.execVdecRelease slot s
  | .vdecClose slot => Sys2Proof.Machine.execVdecClose slot s
  | .decodePictureOutput slot => Sys2Proof.Machine.execDecodePictureOutput slot s
  | .vidPoolWaitTimeout slot => Sys2Proof.Machine.execVidPoolWaitTimeout slot s
  | .vencOpen slot => Sys2Proof.Machine.execVencOpen slot s
  | .vencEncode slot => Sys2Proof.Machine.execVencEncode slot s
  | .vencClose slot => Sys2Proof.Machine.execVencClose slot s
  | .encodeUnitWritten slot => Sys2Proof.Machine.execEncodeUnitWritten slot s
  | .paceStart slot => Sys2Proof.Machine.execPaceStart slot s
  | .paceCommit slot => Sys2Proof.Machine.execPaceCommit slot s
  | .paceStop slot => Sys2Proof.Machine.execPaceStop slot s
  | .paceLatch channel => Sys2Proof.Machine.execPaceLatch channel s
  | .paceCopyComplete channel => Sys2Proof.Machine.execPaceCopyComplete channel s
  | .read from_ segment => Sys2Proof.Machine.execRead from_ segment s
  | .uploadNext from_ segment => Sys2Proof.Machine.execUploadNext from_ segment s
  | .write from_ segment => Sys2Proof.Machine.execWrite from_ segment s
  | .writeInit from_ segment => Sys2Proof.Machine.execWriteInit from_ segment s
  | .writeSeg from_ segment => Sys2Proof.Machine.execWriteSeg from_ segment s
  | .writeEnd from_ segment => Sys2Proof.Machine.execWriteEnd from_ segment s
  | .abort from_ segment => Sys2Proof.Machine.execAbort from_ segment s
  | .welocUnknownCmd from_ segment => Sys2Proof.Machine.execWelocUnknownCmd from_ segment s
  | .welocContextTimeout context => Sys2Proof.Machine.execWelocContextTimeout context s
  | .welocDuplicateExpiry manager => Sys2Proof.Machine.execWelocDuplicateExpiry manager s
  | .setEndpointId via operation eid => Sys2Proof.Machine.execSetEndpointId via operation eid s
  | .getEndpointId via => Sys2Proof.Machine.execGetEndpointId via s
  | .getEndpointUuid via => Sys2Proof.Machine.execGetEndpointUuid via s
  | .getMctpVersionSupport via messageType => Sys2Proof.Machine.execGetMctpVersionSupport via messageType s
  | .getMessageTypeSupport via => Sys2Proof.Machine.execGetMessageTypeSupport via s
  | .getVendorDefinedMessageSupport via selector => Sys2Proof.Machine.execGetVendorDefinedMessageSupport via selector s
  | .mctpUnsupportedCmd via command => Sys2Proof.Machine.execMctpUnsupportedCmd via command s
  | .entdaa bus address => Sys2Proof.Machine.execEntdaa bus address s
  | .setnewda bus address => Sys2Proof.Machine.execSetnewda bus address s
  | .rstdaa bus => Sys2Proof.Machine.execRstdaa bus s
  | .setmwl bus length => Sys2Proof.Machine.execSetmwl bus length s
  | .setmrl bus length => Sys2Proof.Machine.execSetmrl bus length s
  | .i3cPrivateRead bus => Sys2Proof.Machine.execI3cPrivateRead bus s
  | .i3cHotJoinTimer bus => Sys2Proof.Machine.execI3cHotJoinTimer bus s
  | .storeCommitStart => Sys2Proof.Machine.execStoreCommitStart s
  | .storeCommitEnd verified => Sys2Proof.Machine.execStoreCommitEnd verified s
  | .storeTokenTick => Sys2Proof.Machine.execStoreTokenTick s
  | .fwSlotEraseComplete slot => Sys2Proof.Machine.execFwSlotEraseComplete slot s
  | .fnImageWrite from_ function image => Sys2Proof.Machine.execFnImageWrite from_ function image s
  | .restoreDefaults from_ value => Sys2Proof.Machine.execRestoreDefaults from_ value s
  | .brRestore from_ value => Sys2Proof.Machine.execBrRestore from_ value s
  | .brClear from_ value => Sys2Proof.Machine.execBrClear from_ value s
  | .secOwnerClaim from_ digest => Sys2Proof.Machine.execSecOwnerClaim from_ digest s
  | .secOwnerRevoke from_ value => Sys2Proof.Machine.execSecOwnerRevoke from_ value s
  | .regionRunWrite from_ descriptor sub value => Sys2Proof.Machine.execRegionRunWrite from_ descriptor sub value s
  | .logCursorWrite from_ value => Sys2Proof.Machine.execLogCursorWrite from_ value s
  | .getVersion via => Sys2Proof.Machine.execGetVersion via s
  | .getCapabilities via => Sys2Proof.Machine.execGetCapabilities via s
  | .negotiateAlgorithms via body => Sys2Proof.Machine.execNegotiateAlgorithms via body s
  | .getDigests via => Sys2Proof.Machine.execGetDigests via s
  | .getCertificate via slot offset length => Sys2Proof.Machine.execGetCertificate via slot offset length s
  | .challenge via slot nonce => Sys2Proof.Machine.execChallenge via slot nonce s
  | .getMeasurements via index signed nonce => Sys2Proof.Machine.execGetMeasurements via index signed nonce s
  | .keyExchange via body => Sys2Proof.Machine.execKeyExchange via body s
  | .finish session ownerRoot verified => Sys2Proof.Machine.execFinish session ownerRoot verified s
  | .heartbeat session => Sys2Proof.Machine.execHeartbeat session s
  | .keyUpdate session operation => Sys2Proof.Machine.execKeyUpdate session operation s
  | .endSession session => Sys2Proof.Machine.execEndSession session s
  | .chunkSend via handle number last total bytes => Sys2Proof.Machine.execChunkSend via handle number last total bytes s
  | .chunkGet via handle number => Sys2Proof.Machine.execChunkGet via handle number s
  | .vendorDefinedRequest session protocol body => Sys2Proof.Machine.execVendorDefinedRequest session protocol body s
  | .spdmUnsupportedRequest via code => Sys2Proof.Machine.execSpdmUnsupportedRequest via code s
  | .getTdispVersion session vf => Sys2Proof.Machine.execGetTdispVersion session vf s
  | .getTdispCapabilities session vf => Sys2Proof.Machine.execGetTdispCapabilities session vf s
  | .lockInterfaceRequest session vf => Sys2Proof.Machine.execLockInterfaceRequest session vf s
  | .getDeviceInterfaceReport session vf => Sys2Proof.Machine.execGetDeviceInterfaceReport session vf s
  | .getDeviceInterfaceState session vf => Sys2Proof.Machine.execGetDeviceInterfaceState session vf s
  | .startInterfaceRequest session vf => Sys2Proof.Machine.execStartInterfaceRequest session vf s
  | .stopInterfaceRequest session vf => Sys2Proof.Machine.execStopInterfaceRequest session vf s
  | .tdispUnsupportedRequest session vf code => Sys2Proof.Machine.execTdispUnsupportedRequest session vf code s
  | .ideKmKeyProg session stream keySet vfs key => Sys2Proof.Machine.execIdeKmKeyProg session stream keySet vfs key s
  | .ideStreamFail stream => Sys2Proof.Machine.execIdeStreamFail stream s
  | .doeDiscovery index => Sys2Proof.Machine.execDoeDiscovery index s
  | .regionClearComplete descriptor => Sys2Proof.Machine.execRegionClearComplete descriptor s
  | .entropyHealthFail => Sys2Proof.Machine.execEntropyHealthFail s
  | .domainClockGate domain => Sys2Proof.Machine.execDomainClockGate domain s
  | .domainDrainStart domain => Sys2Proof.Machine.execDomainDrainStart domain s
  | .domainDrainComplete domain => Sys2Proof.Machine.execDomainDrainComplete domain s
  | .domainPowerOffComplete domain => Sys2Proof.Machine.execDomainPowerOffComplete domain s
  | .gatePacketArrival domain packet => Sys2Proof.Machine.execGatePacketArrival domain packet s
  | .domainWakeComplete domain => Sys2Proof.Machine.execDomainWakeComplete domain s
  | .domainWakeWindow => Sys2Proof.Machine.execDomainWakeWindow s
  | .headlandClockIdleStop => Sys2Proof.Machine.execHeadlandClockIdleStop s
  | .dvfsTick power => Sys2Proof.Machine.execDvfsTick power s
  | .pstateChangeComplete die => Sys2Proof.Machine.execPstateChangeComplete die s
  | .avsReadback millivolts => Sys2Proof.Machine.execAvsReadback millivolts s
  | .currentLimitTrip => Sys2Proof.Machine.execCurrentLimitTrip s
  | .currentLimitRelease => Sys2Proof.Machine.execCurrentLimitRelease s
  | .dieTempSample readings => Sys2Proof.Machine.execDieTempSample readings s
  | .thermalTrip die => Sys2Proof.Machine.execThermalTrip die s
  | .supplyWarning rail millivolts => Sys2Proof.Machine.execSupplyWarning rail millivolts s
  | .supplyWarningRecover => Sys2Proof.Machine.execSupplyWarningRecover s
  | .supplyResetLevel rail millivolts => Sys2Proof.Machine.execSupplyResetLevel rail millivolts s
  | .powerOnReset => Sys2Proof.Machine.execPowerOnReset s
  | .rstNAssert => Sys2Proof.Machine.execRstNAssert s
  | .perstAssert => Sys2Proof.Machine.execPerstAssert s
  | .perstDeassert => Sys2Proof.Machine.execPerstDeassert s
  | .tapResetRelease => Sys2Proof.Machine.execTapResetRelease s
  | .bringupStepRun step unit => Sys2Proof.Machine.execBringupStepRun step unit s
  | .bringupAttemptEnd step unit passed result micros => Sys2Proof.Machine.execBringupAttemptEnd step unit passed result micros s
  | .bringupAttemptTimeout step unit => Sys2Proof.Machine.execBringupAttemptTimeout step unit s
  | .controlSramCe where_ => Sys2Proof.Machine.execControlSramCe where_ s
  | .controlSramUe where_ => Sys2Proof.Machine.execControlSramUe where_ s
  | .bridgeLossTimeout => Sys2Proof.Machine.execBridgeLossTimeout s
  | .hostWindowCompletion addr how bytes => Sys2Proof.Machine.execHostWindowCompletion addr how bytes s
  | .rstNDeassert => Sys2Proof.Machine.execRstNDeassert s
  | .tapReset => Sys2Proof.Machine.execTapReset s
  | .bridgeLoss => Sys2Proof.Machine.execBridgeLoss s
  | .dupDevidExpiry => Sys2Proof.Machine.execDupDevidExpiry s

end Sys2Proof.Machine
end

