-- ==== Sys2Proof/Safety.lean ====
section
/-!
DEFINITION. What counts as a safe run, in the terms the statements use: memory at rest keeps its canonical form and the Granary
holds each line once, with bytes of that line only.
-/
namespace Sys2Proof.Machine

/-- The invariant of the memory tiers, of the cells at rest and the lines of the Granary: the cells are listed in the one canonical
form, no line is resident twice, and the bytes that a line holds lie in it (spec/10 R252, R259). -/
structure TiersOk (cells : List Host.Cell) (lines : List GLine) : Prop where
  cells : Memory.wf cells = true
  once : (lines.map GLine.line).Nodup
  inside : ∀ g ∈ lines, ∀ c ∈ g.dirty, c.1 / 256 = g.line

/-- The memory tiers are in order. -/
abbrev Mem.Ok (m : Mem) : Prop := TiersOk m.cells m.lines

/-- The invariant of the device that the statements use. -/
def State.Inv (s : State) : Prop := s.mem.Ok

/-- The fuses `b` are the fuses `a` or `a` burnt further: a programmed digest and a burnt revoke bit stay, the rest never changes
(spec/16 R444). -/
structure Fuses.Grew (a b : Fuses) : Prop where
  gradeB : b.gradeB = a.gradeB
  serial : b.serial = a.serial
  trimMv : b.trimMv = a.trimMv
  production : b.production = a.production
  digest : ∀ k d, (a.owners.getD k {}).digest = some d → (b.owners.getD k {}).digest = some d
  revoked : ∀ k, (a.owners.getD k {}).revoked = true → (b.owners.getD k {}).revoked = true

/-- A write of function `fn` to its ring page reaches ring `r`: the device is not in safe mode, the page is one of the function's, the
function owns the ring, and a function in RUN writes on its IDE stream (spec/14 R379-R381, spec/16 R441). A doorbell takes effect on a
READY device alone, besides (R387). -/
structure State.Reaches (s : State) (fn page : Nat) (ide : Bool) (r : Nat) : Prop where
  normal : s.hif.safeMode = false
  stream : s.ideRefused fn ide = false
  page : s.pageRing fn page = some r
  owner : s.owner r = fn

/-- The device hears a manager's segment that is not one it answered last: the always-on domain is up, the transport hears it, the
segment is whole; `h` is the state in which the manager is the one heard last (spec/15 R405, R409, R413). -/
structure State.Hears (s h : State) (m : Manager) (req : List Byte) : Prop where
  reaches : s.reaches m = true
  eid : s.hasEid m.via = true
  whole : segOk ((welocLimit m.via).getD 0) req = true
  after : h = s.hear (mgrKey m)
  newer : ∀ l, (h.mgr (mgrKey m)).last = some l → l.1 ≠ req

/-- The object that a segment names is served, its entry is `e`, and the segment opens a transfer: its TAG has no context and its SEQ
is 0 (spec/15 R410, R416). -/
structure State.Opens (h : State) (m : Manager) (req : List Byte) (e : ObjRow) : Prop where
  object : h.checkObject (segIndex req) (segSub req) = none
  entry : objEntry (segIndex req) (segSub req) = some e
  free : h.xfer (mgrKey m) (segTag req) = none
  first : segSeq req = 0

/-- A continuation segment of an open transfer `n` with the next SEQ (spec/15 R411, R412). -/
structure State.Continues (h : State) (m : Manager) (req : List Byte) (n : Nat) (x : Xfer) : Prop where
  object : h.checkObject (segIndex req) (segSub req) = none
  found : h.xfer (mgrKey m) (segTag req) = some (n, x)
  same : x.index = segIndex req ∧ x.sub = segSub req
  isOpen : x.ended = false
  next : segSeq req = (x.seq + 1) % 256
  differs : segSeq req ≠ x.seq

/-- A manager may write a value of this length to an entry now: its access, its world and Table 15.7 allow it (spec/15 R416). -/
structure State.Admits (h : State) (m : Manager) (i sub : Nat) (e : ObjRow) (v : List Byte) : Prop where
  access : h.writeAccess i e (h.mgrSecure m) = 0
  slot : fwSlot i sub = none
  free : h.writeBusy i sub e = none
  fits : e.ty.fits v.length = true

end Sys2Proof.Machine
end

