-- ==== Sys2Proof/Certificates/Slice0/Obligations.lean ====
section
/-!
DEFINITION. The statements about the model, for the provers. Each names in its docstring the section and rule of spec/ it rests on; where
a clause is the model's own choice the docstring names the log entry. A statement that says what a command answers says it as an
equation whose right side is the whole next state, so it is the command's frame as well: what the right side does not name is
unchanged, but for the interrupts that `State.settle` delivers (Obligations.Interrupts says what those touch).
-/
open Sys2Proof Sys2Proof.Machine

/-! ### The machine as a whole -/

/-- A step takes the command at the front of the queue and runs it with the queue's rest; with none waiting, one nanosecond of device time
passes (log 1). -/
def Obligations.StepRunsFront : Prop :=
  (∀ (c : Instr) (rest : List Instr) (s : State), s.pending = c :: rest → step s = exec c { s with pending := rest })
  ∧ (∀ s : State, s.pending = [] → step s = .next s.tickNs)

/-- The memory tiers are in order right after reset, and the values that the spec's tables give for reset stand: the device is not READY,
every ring DISABLED, every unit serves the Granary only, every port DISABLED, no peer, the store's tokens full, every device interface
CONFIG_UNLOCKED, every power domain FALLOW. -/
def Obligations.ResetState : Prop :=
  State.reset.Inv ∧ State.reset.pending = [] ∧ State.reset.hif.notReady = true ∧ State.reset.hif.safeMode = false
  ∧ (∀ r, (State.reset.ring r).st = .disabled) ∧ (∀ u, (State.reset.unit u).st = .granaryOnly)
  ∧ (∀ p, (State.reset.port p).st = .disabled) ∧ (∀ d, (State.reset.peer d).st = .absent) ∧ State.reset.store.tokens = 64
  ∧ (∀ f, State.reset.tdi f = .unlocked) ∧ (∀ d, State.reset.domain d = .fallow)

/-- Every step keeps the memory tiers in order: the cells at rest in canonical form, no line resident twice, the bytes of a line within it. -/
def Obligations.EveryStepKeepsTheTiers : Prop :=
  ∀ s t : State, s.Inv → step s = .next t → t.Inv

/-- No step undoes a fuse: what an owner slot was programmed with and its revoke bit stay, grade and serial number never change (spec/16
R444). -/
def Obligations.FusesAreOnlyBurnt : Prop :=
  ∀ s t : State, s.Inv → step s = .next t → s.fuses.Grew t.fuses

/-- What the device has sent is not taken back: the record of messages only grows. -/
def Obligations.OutputOnlyGrows : Prop :=
  ∀ s t : State, s.Inv → step s = .next t → s.out <+: t.out

/-- A command acts on everything but the queue, and no command ends in a fault or a refusal: the queue after it is the queue before it. -/
def Obligations.CommandsLeaveTheQueue : Prop :=
  ∀ (c : Instr) (s : State), s.Inv → ∃ t, exec c s = .next t ∧ t.pending = s.pending

/-! ### Operations that the families share -/

/-- What a write through a view leaves of one bit of a register: a bit that is not RW keeps its value; an RW bit takes the written value in
the plain view, becomes 1 in the set view where written as one, 0 in the clear view, is inverted in the toggle view (spec/00 R10, R11).
The offset of a request names the view: the plain view's offset, with 0x400, 0x800 or 0xC00 added to it. Register accesses (spec/00
R10-R13, spec/14 R379, R385): a plain RW register takes a write through any view in its RW bits, and MEM_UE_ACK is such a register; a
ring's RW registers take writes only while it is DISABLED, and its doorbells and HIF_RING_CMD act as their own commands; a word reads
as it stands through any view; the low word of a 64-bit register is read with its high word kept in the function's shadow, where the
high word is read from; in safe mode writes are dropped and reads answer zeros, but for HIF_STAT; a read off the bound IDE stream is
an Unsupported Request. -/
def Obligations.RegisterAccesses : Prop :=
  (∀ (old value rw : Word32) (i : Nat), i < 32 →
    (rw.getLsbD i = false → ∀ v, (viewWrite v old value rw).getLsbD i = old.getLsbD i)
    ∧ (rw.getLsbD i = true →
        (viewWrite .plain old value rw).getLsbD i = value.getLsbD i
        ∧ (viewWrite .set old value rw).getLsbD i = (old.getLsbD i || value.getLsbD i)
        ∧ (viewWrite .clear old value rw).getLsbD i = (old.getLsbD i && !value.getLsbD i)
        ∧ (viewWrite .toggle old value rw).getLsbD i = (old.getLsbD i != value.getLsbD i)))
  ∧ (∀ (fn bar a : Nat) (view : View), a % 0x1000 < 0x400 → unviewed fn bar (a + viewOffset view) = false →
    barView fn bar (a + viewOffset view) = (view, a))
  ∧ (∀ (s : State) (a : Nat) (rw value : Word32) (view : View) (ide : Bool), s.hif.safeMode = false → (a, rw) ∈ plainRegs →
    exec (.registerWrite 0 0 (a / 0x1000) (a % 0x1000 + viewOffset view) value ide) s = .next ((s.setReg a (viewWrite view (s.reg a) value rw)).settle s))
  ∧ (∀ (s : State) (view : View) (value : Word32), s.hif.safeMode = false →
    exec (.memUeAckWrite view value) s
      = .next ((s.setReg 0x20000C (viewWrite view (s.reg 0x20000C) value 0xFFFFFFFF#32)).settle s))
  ∧ (∀ (s : State) (fn page off r : Nat) (view : View) (value : Word32) (ide : Bool), s.Reaches fn page ide r →
    off < 0x400 → off ∉ [0x0, 0x4, 0x104] →
    ((s.ring r).st = .disabled → (s.ring r).write off view value ≠ s.ring r →
      exec (.registerWrite fn 2 page (off + viewOffset view) value ide) s
        = .next ((s.setRing r ((s.ring r).write off view value)).settle s))
    ∧ ((s.ring r).st ≠ .disabled ∨ (s.ring r).write off view value = s.ring r →
      exec (.registerWrite fn 2 page (off + viewOffset view) value ide) s = .next (s.settle s)))
  ∧ (∀ (s : State) (fn page : Nat) (value : Word32) (ide : Bool),
    (∀ view : View,
      exec (.registerWrite fn 2 page (viewOffset view) value ide) s = exec (.hifDbSqTail fn page view value ide) s
      ∧ exec (.registerWrite fn 2 page (0x4 + viewOffset view) value ide) s = exec (.hifDbCqHead fn page view value ide) s)
    ∧ exec (.registerWrite fn 2 page 0x104 1#32 ide) s = exec (.enable fn page ide) s
    ∧ exec (.registerWrite fn 2 page 0x104 2#32 ide) s = exec (.resume fn page ide) s
    ∧ exec (.registerWrite fn 2 page 0x104 3#32 ide) s = exec (.drain fn page ide) s
    ∧ exec (.registerWrite fn 2 page 0x104 4#32 ide) s = exec (.reset fn page ide) s)
  ∧ (∀ (s : State) (fn bar offset a : Nat) (ide : Bool), s.hif.safeMode = false → s.ideRefused fn ide = false →
    (barView fn bar offset).2 = a →
    (∀ v, s.wide fn bar a = some v →
      exec (.registerLowWordRead fn ⟨bar, offset, ide⟩) s
        = .next ((({ s with hif := { s.hif with shadow := s.hif.shadow.put fn (BitVec.ofNat 32 (v / 2 ^ 32)) } } : State).emit
            (.pcieData fn .data (toLE 4 (v % 2 ^ 32)))).settle s))
    ∧ (s.wide fn bar a = none → 4 ≤ a → (s.wide fn bar (a - 4)).isSome →
      exec (.registerLowWordRead fn ⟨bar, offset, ide⟩) s
        = .next ((s.emit (.pcieData fn .data (toLE 4 (s.hif.shadow.get 0 fn).toNat))).settle s))
    ∧ (s.wide fn bar a = none → a < 4 ∨ s.wide fn bar (a - 4) = none → a < 0x401000 ∨ 0x401080 ≤ a →
      exec (.registerLowWordRead fn ⟨bar, offset, ide⟩) s
        = .next ((s.emit (.pcieData fn .data (toLE 4 (s.barWord fn bar a)))).settle s)))
  ∧ (∀ (s : State) (a : Nat), s.isCounter a = true → s.wide 0 0 a = some (s.ctr a).toNat)
  ∧ (∀ (s : State) (fn page r : Nat), s.pageRing fn page = some r →
    s.wide fn 2 (page * 0x1000 + 0x110) = some (s.ring r).sqBase.toNat
    ∧ s.wide fn 2 (page * 0x1000 + 0x118) = some (s.ring r).cqBase.toNat
    ∧ ∀ off, off < 0x1000 → s.barWord fn 2 (page * 0x1000 + off) = (s.ring r).word off)
  ∧ (∀ (s : State) (fn page off : Nat), s.pageRing fn page = none → off < 0x1000 → s.barWord fn 2 (page * 0x1000 + off) = 0)
  ∧ (∀ (s : State) (a : Nat) (rw : Word32), (a, rw) ∈ plainRegs → s.barWord 0 0 a = (s.reg a).toNat)
  ∧ (∀ (s : State) (fn bar page offset : Nat) (value : Word32) (ide : Bool),
    (s.hif.safeMode = true →
      exec (.registerWrite fn bar page offset value ide) s
        = .next ((if bar = 2 ∧ offset % 0x1000 ∈ [0x0, 0x4] then s.tick1 hifDbDropped else s).settle s)
      ∧ exec (.registerLowWordRead fn ⟨bar, offset, ide⟩) s
        = .next ((s.emit (.pcieData fn .data (toLE 4
            (if fn = 0 ∧ bar = 0 ∧ (barView fn bar offset).2 = 0 then s.hifStat else 0)))).settle s))
    ∧ (s.hif.safeMode = false → s.ideRefused fn ide = true →
      exec (.registerLowWordRead fn ⟨bar, offset, ide⟩) s = .next (((s.ideRefuse fn).emit (.pcieData fn .unsupported [])).settle s)))

/-- What delivering the interrupts of a change touches: only the pending bits of MSI-X entries, the two interrupt counters and the record of
messages; where no bit of a block rises and the Secure pool's status stands, nothing (spec/00 R14). A bit of (status AND enable) has a
rising edge where it stands after the change and did not before it. Where bits of one block alone rise, and the Secure pool's status
stands, one message is sent for each of them, all on the block's vector: at once where MSI-X is enabled and neither the entry nor the
function is masked; where one is masked the entry becomes pending; where MSI-X is not enabled none is sent (spec/00 R14, spec/14 R383).
One message a bit is the model's reading (log 45), and so is this: a command that meets a line out of reach waits, and the state stays
as it was before it (log 65). -/
def Obligations.Interrupts : Prop :=
  (∀ old new : State, (new.mem.stalled && !old.mem.stalled) = false →
    new.settle old = { new with
      hif := { new.hif with msix := (new.settle old).hif.msix }, ctrs := (new.settle old).ctrs, out := (new.settle old).out }
    ∧ (∀ a, a ≠ hifIrqSent → a ≠ hifIrqNovec → (new.settle old).ctr a = new.ctr a)
    ∧ (∀ k, ((new.settle old).hif.msix.get {} k).addr = (new.hif.msix.get {} k).addr
        ∧ ((new.settle old).hif.msix.get {} k).data = (new.hif.msix.get {} k).data
        ∧ ((new.settle old).hif.msix.get {} k).masked = (new.hif.msix.get {} k).masked)
    ∧ new.out <+: (new.settle old).out
    ∧ ((∀ b ∈ statBlocks, risingEdges b.1 b.2.1 old new = []) → new.kvStat true = old.kvStat true → new.settle old = new))
  ∧ (∀ old new : State, new.mem.stalled = true → old.mem.stalled = false → new.settle old = old)
  ∧ (∀ (stat : State → Nat) (en i : Nat) (old new : State), i ∈ risingEdges stat en old new ↔
      i < 8 ∧ bit (stat new) i = true ∧ bit (new.reg en).toNat i = true
        ∧ ¬ (bit (stat old) i = true ∧ bit (old.reg en).toNat i = true))
  ∧ (∀ (old new : State) (b : (State → Nat) × Nat × Nat) (v : Nat) (e : MsixEntry), b ∈ statBlocks →
    (new.mem.stalled && !old.mem.stalled) = false →
    (∀ b' ∈ statBlocks, b' ≠ b → risingEdges b'.1 b'.2.1 old new = []) → new.kvStat true = old.kvStat true →
    v = bits (new.reg b.2.2).toNat 0 12 → v < 2048 → e = new.hif.msix.get {} (0, v) →
    (new.msixEnabled 0 = true → e.masked = false → new.msixMasked 0 = false →
      (∀ i, risingEdges b.1 b.2.1 old new = [i] →
        new.settle old = (new.tick1 hifIrqSent).emit (.msix 0 v e.addr e.data))
      ∧ (new.settle old).out
          = new.out ++ List.replicate (risingEdges b.1 b.2.1 old new).length (.msix 0 v e.addr e.data))
    ∧ (new.msixEnabled 0 = true → e.masked = true ∨ new.msixMasked 0 = true →
      risingEdges b.1 b.2.1 old new ≠ [] →
      (new.settle old).out = new.out ∧ (new.settle old).hif.msix.get {} (0, v) = { e with pending := true })
    ∧ (new.msixEnabled 0 = false → new.settle old = new))

/-- While no unit is out of service, reading changes no byte: every address reads after a stage's or an engine's read as it did before,
whatever lines come and go in the Granary (spec/10 R251, R259). -/
def Obligations.ReadsChangeNoByte : Prop :=
  ∀ (s : State) (who : Requester) (a n hint x : Nat), s.Inv → (∀ u, (s.unit u).st ≠ .out) →
    (s.readFor who a n hint).2.peek x = s.peek x

/-- While no unit is out of service, a write changes no byte but those it stores: every address outside `[a, a + length)` reads as before,
whatever lines it evicts (spec/10 R251, R254); but a stage's write may change the other bytes of the 64-byte blocks it touches, each of
which holds the bytes of one stage at a time where stages of several rings write in it (spec/04 R114). -/
def Obligations.WritesChangeOnlyTheirBytes : Prop :=
  ∀ (s : State) (who : Requester) (a : Nat) (bs : List Byte) (hint x : Nat), s.Inv → (∀ u, (s.unit u).st ≠ .out) →
    (if who.stage.isSome then x < a / 64 * 64 ∨ (a + bs.length + 63) / 64 * 64 ≤ x else x < a ∨ a + bs.length ≤ x) →
    (s.writeFor who a bs hint).peek x = s.peek x

/-- A write within a line that is not poisoned is found by every reader, byte for byte (spec/10 R251, R254). A whole line written clears its
poison; a part written to a poisoned line is discarded and changes nothing (spec/10 R281). -/
def Obligations.LineWrites : Prop :=
  (∀ (s : State) (a : Nat) (bs : List Byte) (hint : Nat) (who : Option Nat) (i : Nat), s.Inv →
    a % 256 + bs.length ≤ 256 → s.poisoned (a / 256) = false → i < bs.length →
    (s.touchWrite (a / 256) a bs hint who).1 = false ∧ (s.touchWrite (a / 256) a bs hint who).2.peek (a + i) = bs.getD i 0)
  ∧ (∀ (s : State) (a : Nat) (bs : List Byte) (hint : Nat) (who : Option Nat), s.Inv → s.poisoned (a / 256) = true →
    (a % 256 = 0 → bs.length = 256 → (s.touchWrite (a / 256) a bs hint who).2.poisoned (a / 256) = false)
    ∧ (¬ (a % 256 = 0 ∧ bs.length = 256) → s.touchWrite (a / 256) a bs hint who = (true, s)))

/-- The hedgerow decides for one address by the first row that applies: no VALID descriptor holds it, its descriptor is being cleared, an
Open requester at a Secure descriptor, a Secure requester at an Open descriptor not shared, an owner that does not admit the function
(spec/16 R437). -/
def Obligations.HedgerowRows : Prop :=
  ∀ (g : Region) (secure : Bool) (fn : Nat),
    hedge none secure fn = 3
    ∧ (g.clearing = true → hedge (some g) secure fn = 4)
    ∧ (g.secure = true → hedge (some g) false fn = 4)
    ∧ (g.secure = false → g.shared = false → hedge (some g) true fn = 4)
    ∧ (ownerPasses g.owner fn = false → hedge (some g) secure fn = 4)
    ∧ (g.clearing = false → (secure = false → g.secure = false) → (secure = true → g.secure = true ∨ g.shared = true) →
        ownerPasses g.owner fn = true → hedge (some g) secure fn = 0)

/-- The status of a stage that met several: WORLD_DENIED before REGION_FAULT, those before what its control structures gave, then
POISON_READ, then its own (spec/04 R102, spec/10 R280). A stage whose outcome is decided is complete with its status and the time, keeps
its sequence number, and a second decision changes nothing (spec/14 R391). A ring stops by the entry with a sequence number: it is
STOPPED, STOP_SEQ is that number, the stop is counted and logged; a ring that neither runs nor drains is left (spec/14 R394). -/
def Obligations.Outcomes : Prop :=
  (∀ (met : List Nat) (own : Nat),
    (4 ∈ met → worstOf met own = 4)
    ∧ (4 ∉ met → 3 ∈ met → worstOf met own = 3)
    ∧ (4 ∉ met → 3 ∉ met → ∀ x, met.find? (fun y => y == 1 || y == 2) = some x → worstOf met own = x)
    ∧ (4 ∉ met → 3 ∉ met → 1 ∉ met → 2 ∉ met → 8 ∈ met → worstOf met own = 8)
    ∧ (met = [] → worstOf met own = own))
  ∧ (∀ (s : State) (n status : Nat) (st : Stage), s.stage n = some st → st.done = false → s.kv.runs.find n = none →
    (∃ x, (s.finish n status).stage n = some x ∧ x.phase = .complete ∧ x.status = status ∧ x.seq = st.seq ∧ x.ring = st.ring
      ∧ x.doneTime = s.time)
    ∧ (∀ status', (s.finish n status).finish n status' = s.finish n status))
  ∧ (∀ (s : State) (r : Nat) (seq : Word32) (status : Nat),
    ((s.ring r).st = .running ∨ (s.ring r).st = .draining →
      s.stopRing r seq status
        = ((s.setRing r { s.ring r with st := .stopped, stopSeq := seq }).tick1 hifRingStops).log 0x0701 r
            (seq.toNat + status * 2 ^ 32) (s.ring r).secure)
    ∧ ((s.ring r).st ≠ .running → (s.ring r).st ≠ .draining → s.stopRing r seq status = s))

/-- A value that a floating-point format holds is written back as it stands, under every rounding mode, and raises nothing; a NaN becomes
the format's canonical quiet NaN (spec/02 R33, R34, R45, R46). -/
def Obligations.RepresentableValuesAreKept : Prop :=
  ∀ (f : Fmt) (mode : Round) (sat : Bool) (u x : Nat), f ∈ [Fmt.e4m3, .e5m2, .e2m1, .bf16, .fp16, .fp32, .fp64] → x < 2 ^ f.width →
    ((decodeFp f x).isFin = true → encodeFp f mode sat u (decodeFp f x) = (x, 0))
    ∧ ((decodeFp f x).isNan = true → encodeFp f mode sat u (decodeFp f x) = (f.nanCode, 0) ∧ (decodeFp f f.nanCode).isNan = true)

/-! ### Host interface (spec/14) -/

/-- Doorbell writes (spec/14 R387, R385): TAIL and HEAD are set on a ring that is neither DISABLED nor RESETTING, a value out of range is
counted in HIF_DB_BAD, a doorbell of a ring DISABLED or RESETTING or of a device not READY in HIF_DB_DROPPED; an alias view is ignored;
of at most E - 1 descriptors waiting, none is fetched unless the ring runs. A fatal event closes the doorbells (R479). -/
def Obligations.DoorbellWrites : Prop :=
  (∀ (s : State) (fn page r : Nat) (ide : Bool) (value : Word32), s.Reaches fn page ide r → s.hif.notReady = false → s.fatal = false →
    (s.ring r).st ≠ .disabled → (s.ring r).st ≠ .resetting →
    (value.toNat % 65536 < 2 ^ (s.ring r).log2 →
      exec (.hifDbSqTail fn page .plain value ide) s
        = .next (((s.setRing r { s.ring r with tail := value.toNat % 65536 }).tick1 hifDbWrites).settle s))
    ∧ (2 ^ (s.ring r).log2 ≤ value.toNat % 65536 →
      exec (.hifDbSqTail fn page .plain value ide) s = .next ((s.tick1 hifDbBad).settle s))
    ∧ (∀ k, k = (value.toNat % 65536 + 2 ^ (s.ring r).log2 - (s.ring r).head) % 2 ^ (s.ring r).log2 →
      value.toNat % 65536 < 2 ^ (s.ring r).log2 →
      k ≤ ((s.ring r).cqTail + 2 ^ (s.ring r).log2 - (s.ring r).head) % 2 ^ (s.ring r).log2 →
      exec (.hifDbCqHead fn page .plain value ide) s
        = .next (((s.setRing r { s.ring r with
            head := value.toNat % 65536, headSeq := (s.ring r).headSeq + BitVec.ofNat 32 k }).tick1 hifDbWrites).settle s))
    ∧ (2 ^ (s.ring r).log2 ≤ value.toNat % 65536
        ∨ ((s.ring r).cqTail + 2 ^ (s.ring r).log2 - (s.ring r).head) % 2 ^ (s.ring r).log2
          < (value.toNat % 65536 + 2 ^ (s.ring r).log2 - (s.ring r).head) % 2 ^ (s.ring r).log2 →
      exec (.hifDbCqHead fn page .plain value ide) s = .next ((s.tick1 hifDbBad).settle s)))
  ∧ (∀ (s : State) (fn page r : Nat) (ide : Bool) (value : Word32), s.Reaches fn page ide r →
    (s.ring r).st = .disabled ∨ (s.ring r).st = .resetting ∨ s.hif.notReady = true ∨ s.fatal = true →
    exec (.hifDbSqTail fn page .plain value ide) s = .next ((s.tick1 hifDbDropped).settle s)
    ∧ exec (.hifDbCqHead fn page .plain value ide) s = .next ((s.tick1 hifDbDropped).settle s))
  ∧ (∀ (s : State) (fn page r : Nat) (ide : Bool) (view : View) (value : Word32), s.Reaches fn page ide r → view ≠ .plain →
    exec (.hifDbSqTail fn page view value ide) s = .next (s.settle s)
    ∧ exec (.hifDbCqHead fn page view value ide) s = .next (s.settle s))
  ∧ (∀ x : Ring, x.waiting = (x.tail + 2 ^ x.log2 - x.sqHead) % 2 ^ x.log2 ∧ x.waiting ≤ 2 ^ x.log2 - 1)
  ∧ (∀ (s : State) (r : Nat), (s.ring r).st ≠ .running → s.fetchCount r = 0)

/-- Ring commands in the states that take them (spec/14 R386, Table 14.5): ENABLE with valid settings runs the ring from its beginning in
the world of its owner, with CFG_ERR cleared, the allowance full and NEXT kept; with others it sets CFG_ERR. RESUME runs a STOPPED ring
again with FETCH_FAULT and CQ_FAULT cleared, and then writes a kept entry. DRAIN makes it DRAINING, or DISABLED where no stage, no kept
entry and no fetch is left. RESET starts R395. In any other state, and ENABLE and RESUME after a fatal event (spec/18 R479), the command
is counted. A ring that enters RESETTING fetches nothing more, its waiting descriptors are discarded; a stage of it that has not started
is complete with PREEMPTED (spec/14 R395 steps 1 and 2; an admitted one with PARTIAL after a fatal event, spec/18 R479). When every entry
is written the ring is DISABLED with SQ_HEAD and CQ_TAIL 0 and NEXT kept, and no retained set of the ring is left (steps 5 and 6). -/
def Obligations.RingCommandsAndResets : Prop :=
  (∀ (s : State) (fn page r : Nat) (ide : Bool), s.Reaches fn page ide r →
    ((s.ring r).st = .disabled → s.fatal = false → s.settingsOk r = true →
      exec (.enable fn page ide) s = .next ((s.setRing r { s.ring r with
        st := .running, secure := s.fnSecure fn, cfgErr := false
        sqHead := 0, cqTail := 0, tail := 0, head := 0, headSeq := (s.ring r).next, writeSeq := (s.ring r).next
        allowance := 4096, failed := [], aborting := false, lastFence := none }).settle s))
    ∧ ((s.ring r).st = .disabled → s.fatal = false → s.settingsOk r = false →
      exec (.enable fn page ide) s = .next ((s.setRing r { s.ring r with cfgErr := true }).settle s))
    ∧ ((s.ring r).st ≠ .disabled ∨ s.fatal = true → exec (.enable fn page ide) s = .next ((s.tick1 hifCmdIgnored).settle s))
    ∧ (∀ s', s' = s.setRing r { s.ring r with st := .running, fetchFault := false, cqFault := false } →
      (s.ring r).st = .stopped → s.fatal = false →
      ((s.ring r).kept = none → exec (.resume fn page ide) s = .next s')
      ∧ ((s.ring r).kept.isSome → exec (.resume fn page ide) s = .next (((s'.writeEntry r).settle s').settle s)))
    ∧ ((s.ring r).st ≠ .stopped ∨ s.fatal = true → exec (.resume fn page ide) s = .next ((s.tick1 hifCmdIgnored).settle s))
    ∧ ((s.ring r).st = .running → s.stagesOf r ≠ [] ∨ (s.ring r).kept.isSome ∨ (s.ring r).fetching ≠ 0 →
      exec (.drain fn page ide) s = .next ((s.setRing r { s.ring r with st := .draining }).settle s))
    ∧ ((s.ring r).st = .running → s.stagesOf r = [] → (s.ring r).kept = none → (s.ring r).fetching = 0 →
      ∃ t, exec (.drain fn page ide) s = .next t ∧ t.ring r = { s.ring r with st := .disabled }
        ∧ (∀ r', r' ≠ r → t.ring r' = s.ring r') ∧ t.dsp = s.dsp ∧ t.mem = s.mem ∧ t.regs = s.regs)
    ∧ ((s.ring r).st ≠ .running → exec (.drain fn page ide) s = .next ((s.tick1 hifCmdIgnored).settle s))
    ∧ ((s.ring r).st = .running ∨ (s.ring r).st = .stopped ∨ (s.ring r).st = .draining →
      exec (.reset fn page ide) s = .next ((s.resetRing r).settle s))
    ∧ ((s.ring r).st = .disabled ∨ (s.ring r).st = .resetting →
      exec (.reset fn page ide) s = .next ((s.tick1 hifCmdIgnored).settle s)))
  ∧ (∀ (s : State) (r : Nat), (s.ring r).st = .running ∨ (s.ring r).st = .stopped ∨ (s.ring r).st = .draining →
    ((s.resetRing r).ring r).st = .resetting ∧ ((s.resetRing r).ring r).waiting = 0 ∧ (s.resetRing r).fetchCount r = 0
    ∧ (s.stagesOf r = [] → s.resetRing r = s.setRing r
        { s.ring r with st := .resetting, tail := (s.ring r).sqHead, fetching := 0, aborting := false }))
  ∧ (∀ (s : State) (n : Nat) (st : Stage), s.stage n = some st →
    (st.phase = .fetched ∨ st.phase = .chainWait ∨ (st.phase = .admitted ∧ s.fatal = false) →
      ((s.endStage n).stage n).map (fun x => (x.phase, x.status)) = some (.complete, 7))
    ∧ (st.phase = .admitted → s.fatal = true →
      ((s.endStage n).stage n).map (fun x => (x.phase, x.status)) = some (.complete, 0x0B)))
  ∧ (∀ (s : State) (r : Nat), (s.ring r).st = .resetting → s.stagesOf r = [] →
    ∃ t, exec (.ringResetComplete r) s = .next t
      ∧ t.ring r = { s.ring r with st := .disabled, sqHead := 0, cqTail := 0, tail := 0, head := 0 }
      ∧ (∀ p ∈ t.dsp.sets, p ∈ s.dsp.sets ∧ p.2.ring ≠ r)
      ∧ (∀ r', r' ≠ r → t.ring r' = s.ring r') ∧ t.dsp.stages = s.dsp.stages ∧ t.mem = s.mem ∧ t.regs = s.regs)

/-- Fetching (spec/14 R388, R389): a visit reaches the ring whose turn it is and asks for at most 16 descriptors, no more than its
allowance, its completion queue, its owner's stage slots and the device's 2,048 allow. From host memory they are read in one request,
or in two where they pass the end of the queue; those of a local queue, and those of a VF whose IDE stream is not bound (spec/16 R441),
are asked of no host. With no ring to visit nothing is fetched. The allowance grows to 4,096. -/
def Obligations.Fetching : Prop :=
  (∀ (s : State) (r : Nat), 0 < s.fetchCount r →
    (s.ring r).st = .running ∧ s.fetchCount r ≤ 16 ∧ s.fetchCount r ≤ (s.ring r).waiting ∧ s.fetchCount r ≤ (s.ring r).allowance
    ∧ ((s.ring r).next - (s.ring r).headSeq).toNat + s.fetchCount r ≤ 2 ^ (s.ring r).log2 - 1
    ∧ s.slotsOfFn (s.owner r) + s.fetchCount r ≤ max 1 (s.fn (s.owner r)).slots ∧ s.slotsHeld + s.fetchCount r ≤ 2048)
  ∧ (∀ (s v : State) (r k place : Nat),
    nextInTurn s.hif.lastVisited ((s.hif.rings.map Prod.fst).filter (fun q => decide (0 < s.fetchCount q))) = some r →
    k = s.fetchCount r → place = ((s.ring r).sqHead + (s.ring r).fetching) % 2 ^ (s.ring r).log2 →
    v = ({ s with hif := { s.hif with lastVisited := r } } : State).setRing r
      { s.ring r with fetching := (s.ring r).fetching + k } →
    ((s.ring r).locSq = true ∨ s.hostBlocked (s.owner r) = true → exec .fetchDescriptors s = .next (v.settle s))
    ∧ ((s.ring r).locSq = false → s.hostBlocked (s.owner r) = false → place + k ≤ 2 ^ (s.ring r).log2 →
      exec .fetchDescriptors s = .next ((v.emit
        (.hostRead (s.owner r) ((s.ring r).sqBase.toNat + 256 * place) (256 * k) (s.hostStream (s.owner r)))).settle s))
    ∧ ((s.ring r).locSq = false → s.hostBlocked (s.owner r) = false → 2 ^ (s.ring r).log2 < place + k →
      exec .fetchDescriptors s = .next (((v.emit
        (.hostRead (s.owner r) ((s.ring r).sqBase.toNat + 256 * place) (256 * (2 ^ (s.ring r).log2 - place))
          (s.hostStream (s.owner r)))).emit
        (.hostRead (s.owner r) (s.ring r).sqBase.toNat (256 * (k - (2 ^ (s.ring r).log2 - place)))
          (s.hostStream (s.owner r)))).settle s)))
  ∧ (∀ s : State, (∀ r, s.fetchCount r = 0) → exec .fetchDescriptors s = .next (s.settle s))
  ∧ (∀ s : State, exec .fetchAllowanceTick s
      = .next ((({ s with hif := { s.hif with rings := s.hif.rings.map (fun p =>
          (p.1, { p.2 with allowance := min 4096 (p.2.allowance + 1) })) } } : State)).settle s))

/-- When all 2,048 stage slots are held, no ring has a descriptor fetched, and a visit changes nothing (spec/04 R101). -/
def Obligations.NoFetchWithoutSlot : Prop :=
  ∀ s : State, 2048 ≤ s.dsp.stages.length →
    (∀ r, s.fetchCount r = 0) ∧ exec .fetchDescriptors s = .next (s.settle s)

/-- A descriptor that arrives from host memory takes NEXT as its sequence number and the lowest free stage slot, NEXT and SQ_HEAD move on
and the allowance falls by one (spec/14 R388, R389). One of a local queue is read at its place and arrives alike, or the read fails; one
of a VF whose IDE stream is not bound fails as poison does (spec/16 R441). A failed fetch consumes its number all the same: its stage is complete with
POISON_READ for poison, REGION_FAULT otherwise, FETCH_FAULT is set and SQ_HEAD stays (R394). -/
def Obligations.DescriptorsArrive : Prop :=
  (∀ (s : State) (r : Nat) (bytes : List Byte), (s.ring r).locSq = false → s.hostBlocked (s.owner r) = false →
    (s.ring r).fetching ≠ 0 → bytes.length = 256 → s.dsp.stages.length < 2048 →
    exec (.descriptorArrival r bytes) s = .next (((((s.setRing r
        { s.ring r with next := (s.ring r).next + 1, allowance := (s.ring r).allowance - 1 }).setStage s.freeSlot
          { ring := r, seq := (s.ring r).next, secure := (s.ring r).secure, fn := s.owner r, desc := bytes }).tick1
          hifDescFetched).setRing r
        { s.ring r with
            next := (s.ring r).next + 1, allowance := (s.ring r).allowance - 1
            sqHead := ((s.ring r).sqHead + 1) % 2 ^ (s.ring r).log2, fetching := (s.ring r).fetching - 1 }).settle s)
    ∧ s.stage s.freeSlot = none)
  ∧ (∀ (s s' : State) (r : Nat) (bytes given : List Byte), (s.ring r).locSq = true → (s.ring r).fetching = 1 →
    s.readPlace r = (.inl bytes, s') → exec (.descriptorArrival r given) s = .next ((s'.arrive r bytes).settle s))
  ∧ (∀ (s s' : State) (r status : Nat) (given : List Byte), (s.ring r).locSq = true → (s.ring r).fetching = 1 →
    s.readPlace r = (.inr status, s') → exec (.descriptorArrival r given) s = .next ((s'.fetchFails r status).settle s))
  ∧ (∀ (s : State) (r : Nat) (given : List Byte), (s.ring r).locSq = false → s.hostBlocked (s.owner r) = true →
    (s.ring r).fetching ≠ 0 → exec (.descriptorArrival r given) s = .next ((s.fetchFails r 8).settle s))
  ∧ (∀ (s : State) (r : Nat) (how : Completion), (s.ring r).fetching ≠ 0 → how ≠ .data → s.dsp.stages.length < 2048 →
    s.kv.runs.find s.freeSlot = none →
    ∃ t x, exec (.descriptorFetchFault r how) s = .next t ∧ t.stage s.freeSlot = some x ∧ x.phase = .complete
      ∧ x.status = (if how = .poison then 8 else 3) ∧ x.seq = (s.ring r).next ∧ x.fetchFailed = true
      ∧ (t.ring r).fetchFault = true ∧ (t.ring r).next = (s.ring r).next + 1 ∧ (t.ring r).sqHead = (s.ring r).sqHead)

/-- Admission (spec/04 R98, R117): a stage whose checks 1 to 7 pass is admitted with its descriptor's class, or waits for its chain block or
level table; one that fails completes at once with the status, check and WHERE of the first check that fails; while a fence aborts the
ring it completes with ABORTED_BY_FENCE, up to a FENCE, which ends that and is admitted. The chain block or the level table is read, and
settles the rest: a read or a block that check 8 refuses fails with its status, check 9 refuses with what its first failing check gives,
else the stage is admitted, with an arrival window where its chain asks for one and one of the 256 is free (spec/05 R123, R125, R138,
spec/12 R349); without a free one it waits. -/
def Obligations.Admission : Prop :=
  (∀ (s : State) (n : Nat) (st : Stage), s.stage n = some st → st.fetchFailed = false → s.kv.runs.find n = none →
    (st.phase = .fetched → (s.ring st.ring).aborting = false → admissionChecks s st = none → usesChain st.desc = false →
      dOpcode st.desc ≠ 0x11 →
      exec (.admitStage n) s = .next ((s.accept n st none).settle s)
      ∧ ∃ x, (s.accept n st none).stage n = some x ∧ x.phase = .admitted ∧ x.cls = dPriority st.desc ∧ x.admTime = s.time
          ∧ x.desc = st.desc ∧ x.seq = st.seq ∧ (s.accept n st none).dsp.admCount = s.dsp.admCount + 1)
    ∧ (st.phase = .fetched → (s.ring st.ring).aborting = false → admissionChecks s st = none →
      usesChain st.desc = true ∨ dOpcode st.desc = 0x11 →
      exec (.admitStage n) s = .next ((s.setStage n { st with phase := .chainWait }).settle s))
    ∧ (∀ status check whr, st.phase = .fetched → (s.ring st.ring).aborting = false →
      admissionChecks s st = some (status, check, whr) →
      ∃ t x, exec (.admitStage n) s = .next t ∧ t.stage n = some x ∧ x.phase = .complete ∧ x.status = status ∧ x.check = check
        ∧ x.whr = whr ∧ t.mem.cells = s.mem.cells)
    ∧ (st.phase = .fetched → (s.ring st.ring).aborting = true → st.isFence = false →
      exec (.admitStage n) s = .next ((s.finish n 0x0C).settle s))
    ∧ (st.phase = .fetched → (s.ring st.ring).aborting = true → st.isFence = true → admissionChecks s st = none →
      exec (.admitStage n) s
        = .next (((s.setRing st.ring { s.ring st.ring with aborting := false }).accept n st none).settle s))
    ∧ (∀ b s' st', st.phase = .chainWait → dOpcode st.desc ≠ 0x11 → s.readChain n st = (.inl b, s') → st' = { st with chain := b } →
      (check9 s' st' = none → dOpcode st.desc ≠ 1 ∨ cArrival b = false →
        exec (.chainBlockCheck n) s = .next ((s'.accept n st' none).settle s))
      ∧ (check9 s' st' = none → dOpcode st.desc = 1 → cArrival b = true → s'.arrivalWindows < 256 →
        exec (.chainBlockCheck n) s
          = .next ((s'.accept n st' (some ⟨List.replicate (matGrid st.desc).r 0⟩)).settle s))
      ∧ (check9 s' st' = none → dOpcode st.desc = 1 → cArrival b = true → 256 ≤ s'.arrivalWindows →
        exec (.chainBlockCheck n) s = .next ((s'.setStage n st').settle s))
      ∧ (∀ c, check9 s' st' = some c →
        exec (.chainBlockCheck n) s = .next ((s'.settleCheck9 n st' (some c)).settle s)))
    ∧ (∀ b s' st', st.phase = .chainWait → dOpcode st.desc = 0x11 → s.readLevels n st = (.inl b, s') → st' = { st with table := b } →
      (levelChecks s' st b = none → exec (.chainBlockCheck n) s = .next ((s'.accept n st' none).settle s))
      ∧ (∀ c, levelChecks s' st b = some c →
        exec (.chainBlockCheck n) s = .next ((s'.settleCheck9 n st' (some c)).settle s)))
    ∧ (∀ status s', st.phase = .chainWait → dOpcode st.desc ≠ 0x11 → s.readChain n st = (.inr status, s') →
      exec (.chainBlockCheck n) s = .next ((s'.failCheck8 n st status 4).settle s))
    ∧ (∀ status s', st.phase = .chainWait → dOpcode st.desc = 0x11 → s.readLevels n st = (.inr status, s') →
      exec (.chainBlockCheck n) s = .next ((s'.failCheck8 n st status 10).settle s)))
  ∧ (∀ (s : State) (n status check whr : Nat) (st x : Stage), s.stage n = some x → x.done = false →
    ∃ y, (s.settleCheck9 n st (some (status, check, whr))).stage n = some y ∧ y.phase = .complete ∧ y.status = status
      ∧ y.check = check ∧ y.whr = whr)

/-- The start of an admitted stage (spec/04 R111, R113, spec/05 R134, R135, spec/14 R394): when its order and its ring allow it runs, and
its start time is the device time; a KV_RETRIEVE waits for its turn besides (spec/07 R207), a consumer for the producer of its set. A
consumer whose set is not there, is of the other world or of another shape, and a producer whose set is live, end at once with their
status. A started stage wakes the domains of its engines (spec/17 R458). A stage whose order is not met is left. The tile walker's stage
whose tiles are all issued and over completes with OK, or with the worst status it met, a KV_RETRIEVE with that of its table's entries
(spec/04 R102, spec/07 R203, spec/14 R391); one with tiles left is left; an engine's stage whose ring is being reset ends at its unit of
work (spec/14 R395). -/
def Obligations.StageLife : Prop :=
  (∀ (s : State) (n : Nat) (st run : Stage), s.stage n = some st → st.phase = .admitted →
    run = { st with phase := .running, startTime := s.time } →
    (∀ s1 s2 run2, s.orderMet st = true → (s.ring st.ring).starts = true → (st.opcode = 0x0A → s.kvTurn n st = true) →
      s.setCheck st = some 0 → (s.setStage n run).beginSet n run = some s1 → s1.readMask n run = (true, s2) → s2.stage n = some run2 →
      exec (.stageStart n) s = .next ((if run2.opcode = 0x0A then ((s2.engineDomains run2).foldl State.knock s2).startRetrieve n run2
        else (s2.engineDomains run2).foldl State.knock s2).settle s))
    ∧ (s.orderMet st = true → (s.ring st.ring).starts = true → cRetIn st.chain = 0 → cRetOut st.chain = 0 →
      readsMask st.opcode = false ∨ dBatch st.desc = 0 → st.opcode ≠ 0x0A →
      ∃ t, exec (.stageStart n) s = .next t ∧ t.stage n = some run ∧ (∀ m, m ≠ n → t.stage m = s.stage m)
        ∧ t.mem = s.mem ∧ t.hif.rings = s.hif.rings ∧ t.cores = s.cores ∧ t.regs = s.regs)
    ∧ (∀ bad, s.orderMet st = true → (s.ring st.ring).starts = true → (st.opcode = 0x0A → s.kvTurn n st = true) →
      s.setCheck st = some bad → bad ≠ 0 →
      exec (.stageStart n) s = .next (((s.setStage n run).finishWorst n bad).settle s))
    ∧ (s.orderMet st = true → (s.ring st.ring).starts = true → (st.opcode = 0x0A → s.kvTurn n st = true) →
      s.setCheck st = some 0 → (s.setStage n run).beginSet n run = none →
      exec (.stageStart n) s = .next (((s.setStage n run).finishWorst n 2).settle s))
    ∧ (s.orderMet st = false ∨ (s.ring st.ring).starts = false ∨ (st.opcode = 0x0A ∧ s.kvTurn n st = false) ∨ s.setCheck st = none →
      exec (.stageStart n) s = .next (s.settle s)))
  ∧ (∀ (s : State) (n : Nat) (st : Stage), s.stage n = some st → st.phase = .running →
    (tileWalker st.opcode = true → s.tilesOver n st = true →
      exec (.stageComplete n) s = .next ((s.finishWorst n (if st.ending then s.endedBy
        else if st.opcode = 0x0A then tableStatus (s.kv.runs.get { table := [] } n).table else 0)).settle s))
    ∧ (tileWalker st.opcode = true → s.tilesOver n st = true → st.ending = false → st.opcode ≠ 0x0A → s.kv.runs.find n = none →
      ∃ t x, exec (.stageComplete n) s = .next t ∧ t.stage n = some x ∧ x.phase = .complete ∧ x.status = worstOf st.met 0
        ∧ x.flags = st.flags ∧ x.doneTime = s.time ∧ t.mem.cells = s.mem.cells
        ∧ ∀ r, r ≠ st.ring → t.ring r = s.ring r)
    ∧ (tileWalker st.opcode = true → s.tilesOver n st = false → exec (.stageComplete n) s = .next (s.settle s))
    ∧ (tileWalker st.opcode = false → st.ending = true →
      exec (.stageComplete n) s = .next ((s.endEngine n st).settle s)))

/-- The next entry of a ring is written to the CQ place that CQ_TAIL names, in sequence order, and nothing before it (spec/14 R390, R391):
the host receives its 32 bytes, or local memory does; CQ_TAIL moves on and its stage slot is freed. A write that fails keeps the entry,
sets CQ_FAULT and stops the ring (R394); a stopped ring does not write its kept entry by itself. A message is sent when the delay of the
counted entries has passed (R392). -/
def Obligations.CompletionEntries : Prop :=
  (∀ (s : State) (r n : Nat) (st : Stage) (e : List Byte), s.nextEntry r = some (n, st) → e = (s.ring r).kept.getD (s.entryBytes st) →
    st.seq = (s.ring r).writeSeq ∧ st.phase = .complete ∧ st.ring = r ∧ (s.entryBytes st).length = 32
    ∧ ((s.ring r).kept = none ∨ (s.ring r).st ≠ .stopped →
      (∀ s', s.storeEntry r e = (true, s') → exec (.cqEntryWrite r) s = .next ((s'.entryWritten r n e).settle s))
      ∧ (∀ s', s.storeEntry r e = (false, s') → exec (.cqEntryWrite r) s = .next ((s'.cqFault r e).settle s)))
    ∧ ((s.ring r).locCq = false → s.hostBlocked (s.owner r) = false →
      (s.storeEntry r e).1 = true
      ∧ (s.storeEntry r e).2.out = s.out
          ++ [.hostWrite (s.owner r) ((s.ring r).cqBase.toNat + 32 * (s.ring r).cqTail) e (s.hostStream (s.owner r))])
    ∧ ((s.ring r).kept.isSome → (s.ring r).st = .stopped → exec (.cqEntryWrite r) s = .next (s.settle s)))
  ∧ (∀ (s : State) (r n : Nat) (e : List Byte),
    ((s.entryWritten r n e).ring r).cqTail = ((s.ring r).cqTail + 1) % 2 ^ (s.ring r).log2
    ∧ ((s.entryWritten r n e).ring r).kept = none ∧ (s.entryWritten r n e).stage n = none
    ∧ ∀ m, m ≠ n → (s.entryWritten r n e).stage m = s.stage m)
  ∧ (∀ (s : State) (r : Nat), s.nextEntry r = none → exec (.cqEntryWrite r) s = .next (s.settle s))
  ∧ (∀ (s : State) (r n : Nat) (st : Stage) (e : List Byte), s.nextEntry r = some (n, st) → e = (s.ring r).kept.getD (s.entryBytes st) →
    exec (.cqWriteFault r) s = .next (((s.setRing r { s.ring r with kept := some e, cqFault := true }).stopRing r
      (BitVec.ofNat 32 (field e 0 4)) (field e 4 1)).settle s)
    ∧ ((s.ring r).st = .running ∨ (s.ring r).st = .draining →
      ∃ t, exec (.cqWriteFault r) s = .next t ∧ (t.ring r).st = .stopped ∧ (t.ring r).cqFault = true
        ∧ (t.ring r).kept = some e ∧ (t.ring r).cqTail = (s.ring r).cqTail ∧ t.dsp = s.dsp ∧ t.mem = s.mem))
  ∧ (∀ (s : State) (r : Nat), (s.ring r).unsignalled ≠ 0 →
    exec (.irqDelayExpiry r) s = .next (((s.setRing r { s.ring r with unsignalled := 0, unsigStopped := false }).msix (s.owner r)
      (bits (s.ring r).irq.toNat 0 12)).settle s))

/-! ### Registers and the host's accesses (spec/00, 14, 16) -/

/-- The function table and the region descriptors (spec/14 R381, spec/16 R433, R434, R436): an accepted write to a VF's entry takes its
fields, a refused one is counted and changes nothing else; an accepted REG_CTRL write takes effect and clears REGION_ERR, and a
descriptor that becomes VALID is cleared first; a refused one sets REGION_ERR and is counted, and logged where it meets a Secure
descriptor. The PF's own entry holds no rings, and only the PF writes the table. A clearing that ends (spec/16 R436, R451, R452): every
byte of the extent at rest reads zero and none of its lines at rest is poisoned; the descriptor admits requests again, the event is
logged and the bytes counted for its world. -/
def Obligations.ProtectionTables : Prop :=
  ((∀ (s : State) (f off : Nat) (view : View) (value : Word32), s.hif.safeMode = false → 1 ≤ f → f ≤ 64 →
    off ∈ [0x00, 0x04, 0x08, 0x10, 0x14] →
    (s.fnRefused f ((s.fn f).write off view value) = false →
      exec (.hifFnTableWrite 0 f off view value) s
        = .next (({ s with hif := { s.hif with fns := s.hif.fns.put f ((s.fn f).write off view value) } } : State).settle s))
    ∧ (s.fnRefused f ((s.fn f).write off view value) = true →
      exec (.hifFnTableWrite 0 f off view value) s = .next ((s.tick1 hifCmdIgnored).settle s)))
  ∧ (∀ (s : State) (off : Nat) (view : View) (value : Word32), s.hif.safeMode = false →
    (off ∈ [0x08, 0x10, 0x14] →
      exec (.hifFnTableWrite 0 0 off view value) s
        = .next (({ s with hif := { s.hif with fns := s.hif.fns.put 0 ((s.fn 0).write off view value) } } : State).settle s))
    ∧ (off = 0x00 ∨ off = 0x04 → exec (.hifFnTableWrite 0 0 off view value) s = .next (s.settle s))
    ∧ (∀ fn f, fn ≠ 0 → exec (.hifFnTableWrite fn f off view value) s = .next (s.settle s)))
  ∧ (∀ (s : State) (i : Nat) (view : View) (value : Word32) (new : Region), s.hif.safeMode = false →
    new = (s.region i).withCtrl (viewWrite view (BitVec.ofNat 32 (s.region i).ctrl) value regCtrlRw).toNat →
    ((s.region i).secure = false → new.secure = false → s.regRefusal i new = none →
      exec (.regCtrlWrite i view value) s = .next (((s.applyRegion i new).regionAccepted).settle s)
      ∧ (s.applyRegion i new).regionAccepted.sec.regionErr = false
      ∧ (new.valid = true → (s.region i).valid = false →
          (s.applyRegion i new).region i = { new with clearing := true }
          ∧ (∀ g ∈ (s.applyRegion i new).mem.lines, g.line * 256 < new.lo ∨ new.hi ≤ g.line * 256))
      ∧ (new.valid = false ∨ (s.region i).valid = true → (s.applyRegion i new).region i = new)
      ∧ (∀ j, j ≠ i → (s.applyRegion i new).region j = s.region j))
    ∧ ((s.region i).secure = true →
      exec (.regCtrlWrite i view value) s
        = .next (((({ s with sec := { s.sec with regionErr := true } } : State).tick1 secRegionRefused).log 0x0301 0
            (regionAddr i)).settle s))
    ∧ ((s.region i).secure = false → new.secure = true ∨ (s.regRefusal i new).isSome →
      exec (.regCtrlWrite i view value) s
        = .next ((({ s with sec := { s.sec with regionErr := true } } : State).tick1 secRegionRefused).settle s))))
  ∧ (∀ (s : State) (i : Nat), s.Inv → (s.region i).clearing = true →
    ∃ t, exec (.regionClearComplete i) s = .next t
      ∧ t.region i = { s.region i with clearing := false } ∧ (∀ j, j ≠ i → t.region j = s.region j)
      ∧ (∀ a, (s.region i).lo ≤ a → a < (s.region i).hi → cellGet t.mem.cells a = 0#8)
      ∧ (∀ a, a < (s.region i).lo ∨ (s.region i).hi ≤ a → cellGet t.mem.cells a = cellGet s.mem.cells a)
      ∧ (∀ l ∈ t.mem.poison, l ∈ s.mem.poison ∧ (l * 256 < (s.region i).lo ∨ (s.region i).hi ≤ l * 256))
      ∧ ((s.region i).secure = false →
          t.ctr secClearBytes = ctrAdd secClearBytes (s.ctr secClearBytes) ((s.region i).hi - (s.region i).lo))
      ∧ ((s.region i).secure = true →
          t.ctr secClearBytesS = ctrAdd secClearBytesS (s.ctr secClearBytesS) ((s.region i).hi - (s.region i).lo))
      ∧ t.evlog = (s.log 0x0302 i ((s.region i).hi - (s.region i).lo) (s.region i).secure).evlog
      ∧ t.hif.rings = s.hif.rings ∧ t.dsp = s.dsp ∧ t.regs = s.regs)

/-- Class changes and key requests (spec/06 R156, spec/13 R368, spec/14 R397): a class change of a ring the writer may name gives its
admitted stages the class, and touches no other stage; another is counted in DSP_REPRIO_DENIED. A key request of an open stream of the
function is kept for it; another is counted in VID_KEY_REQ_DENIED. The registers read as zero, so every view of the PF's but the clear
view writes the value as it stands; a VF's registers have the plain view alone, and others are ignored. In safe mode nothing happens. -/
def Obligations.ClassAndKeyRequests : Prop :=
  (∀ (s : State) (view : View) (value : Word32) (v : Nat), s.hif.safeMode = false → v = (if view = .clear then 0 else value.toNat) →
    (s.owner (v % 65536) = 0 → exec (.dspReprio view value) s = .next ((s.reprio (v % 65536) (v / 65536 % 8)).settle s))
    ∧ (s.owner (v % 65536) ≠ 0 → exec (.dspReprio view value) s = .next ((s.tick1 dspReprioDenied).settle s))
    ∧ (∀ x, s.vid.encs.find (v % 64) = some x → x.fn = 0 → exec (.vidKeyReq view value) s
      = .next (({ s with vid := { s.vid with encs := s.vid.encs.put (v % 64) { x with keyReq := true } } } : State).settle s))
    ∧ ((∀ x, s.vid.encs.find (v % 64) = some x → x.fn ≠ 0) →
      exec (.vidKeyReq view value) s = .next ((s.tick1 vidKeyReqDenied).settle s)))
  ∧ (∀ (s : State) (f : Nat) (value : Word32) (v : Nat) (ide : Bool), s.hif.safeMode = false → f ≠ 0 → s.ideRefused f ide = false →
    v = value.toNat →
    (v % 1024 < (s.fn f).ringCount →
      exec (.hifVfReprio f .plain value ide) s
        = .next ((s.reprio ((s.fn f).ringBase + v % 1024) (v / 65536 % 8)).settle s))
    ∧ ((s.fn f).ringCount ≤ v % 1024 →
      exec (.hifVfReprio f .plain value ide) s = .next ((s.tick1 dspReprioDenied).settle s))
    ∧ (∀ x, s.vid.encs.find (v % 64) = some x → x.fn = f → exec (.hifVfKeyReq f .plain value ide) s
      = .next (({ s with vid := { s.vid with encs := s.vid.encs.put (v % 64) { x with keyReq := true } } } : State).settle s))
    ∧ ((∀ x, s.vid.encs.find (v % 64) = some x → x.fn ≠ f) →
      exec (.hifVfKeyReq f .plain value ide) s = .next ((s.tick1 vidKeyReqDenied).settle s))
    ∧ (∀ view : View, view ≠ .plain →
      exec (.hifVfReprio f view value ide) s = .next (s.settle s) ∧ exec (.hifVfKeyReq f view value ide) s = .next (s.settle s)))
  ∧ (∀ (s : State) (r cls n : Nat) (st : Stage), s.stage n = some st →
    (s.reprio r cls).stage n
      = some (if st.ring = r ∧ (st.phase = .admitted ∨ st.phase = .running) then { st with cls := cls } else st))
  ∧ (∀ (s : State) (f : Nat) (view : View) (value : Word32) (ide : Bool), s.hif.safeMode = true →
    exec (.dspReprio view value) s = .next (s.settle s) ∧ exec (.vidKeyReq view value) s = .next (s.settle s)
    ∧ exec (.hifVfReprio f view value ide) s = .next (s.settle s) ∧ exec (.hifVfKeyReq f view value ide) s = .next (s.settle s))

/-- The host's other accesses. Configuration requests are retried until the device is READY or in safe mode, and answered then (spec/14
R379): a write leaves the bits that the register holds, a read answers them, with the identifiers of the PF (spec/00 Table 0.2); a value
beyond what the spec describes is free (log 5), and the registers' layout is the model's choice (log 54). BAR4 of the PF takes sizes of
1 GiB to 1 TiB (Table 14.2). A completion puts its data into the host window, and a failed one makes its lines act as poisoned (R382).
A BAR4 access (spec/14 R382, spec/16 R437) acts on each line it touches: within one line of device memory, a read that the hedgerow
passes answers the line's bytes, one it refuses zeros; a write stores its bytes and no other, or nothing where it is refused; where the
line is waited for or out of reach the access waits (spec/10 R264, log 12). -/
def Obligations.HostAccesses : Prop :=
  (∀ (s : State) (f : Nat) (reg : ConfigReg) (w : Option Word32),
    (s.hif.notReady = true → s.hif.safeMode = false →
      exec (.pcieConfigRequest f ⟨reg, w⟩) s = .next ((s.emit (.configData f reg true 0)).settle s))
    ∧ (s.hif.notReady = false ∨ s.hif.safeMode = true →
      (w = none → exec (.pcieConfigRequest f ⟨reg, w⟩) s
        = .next ((({ s with freeCount := s.freeCount + 1 } : State).emit (.configData f reg false (s.configWord f reg))).settle s))
      ∧ (∀ v, w = some v →
        exec (.pcieConfigRequest f ⟨reg, w⟩) s = .next (((s.configWrite f reg v).emit (.configData f reg false 0)).settle s))))
  ∧ (∀ (s : State) (f : Nat) (reg : ConfigReg) (v : Word32),
    s.configWord 0 .ids = BitVec.ofNat 32 ((if s.fuses.gradeB then 0x9181 else 0x9180) * 2 ^ 16 + 0x1B9F)
    ∧ (reg ∈ [ConfigReg.command, .deviceControl, .linkControl] → (s.configWrite f reg v).configWord f reg = v &&& cfgRw reg)
    ∧ (reg ∈ [ConfigReg.aerUncorrectable, .aerCorrectable] →
      (s.configWrite f reg v).configWord f reg = s.configWord f reg &&& ~~~v)
    ∧ (∀ k, k = v.toNat / 256 % 64 → 10 ≤ k → k ≤ 20 → (s.configWrite 0 .bar4Size v).bar4Bytes 0 = 2 ^ (20 + k)))
  ∧ (∀ (s : State) (a : Nat) (bytes : List Byte), s.Inv → 2 ^ 47 ≤ a → a + bytes.length ≤ 2 ^ 48 →
    ∃ t, exec (.hostWindowCompletion a .data bytes) s = .next t
      ∧ (∀ i, i < bytes.length → cellGet t.mem.cells (a + i) = bytes.getD i 0)
      ∧ (∀ x, x < a ∨ a + bytes.length ≤ x → cellGet t.mem.cells x = cellGet s.mem.cells x)
      ∧ t.mem.lines = s.mem.lines ∧ t.hif.rings = s.hif.rings)
  ∧ (∀ (s : State) (a : Nat) (how : Completion) (bytes : List Byte), 2 ^ 47 ≤ a → a + bytes.length ≤ 2 ^ 48 → how ≠ .data →
    ∃ t, exec (.hostWindowCompletion a how bytes) s = .next t
      ∧ (∀ i, i < bytes.length → (a + i) / 256 ∈ t.mem.hostBad) ∧ t.mem.cells = s.mem.cells)
  ∧ (∀ (s : State) (f off n a : Nat) (who : Requester) (ide : Bool), s.hif.safeMode = false → s.ideRefused f ide = false →
    a = (s.fn f).bar4 + off → who = ⟨s.fnSecure f, f, none⟩ → off + n ≤ s.bar4Bytes f →
    exec (.bar4Read f off n ide) s = .next ((s.bar4Ask who a n).settle s)
    ∧ (0 < n → a % 256 + n ≤ 256 → s.place a ≠ .reserved → s.place a ≠ .host → s.unserved who a = false →
      touches s.kvExtents a n = false → hedge ((s.regionAt a).map Prod.snd) who.secure f = 0 →
      (s.lineWaits (a / 256) = false → s.lineAway (a / 256) = false → s.lineOut (a / 256) = false → s.poisoned (a / 256) = false →
        touches s.mem.rekeyed a n = false →
        exec (.bar4Read f off n ide) s = .next (((s.touchRead (a / 256) 0 none).emit (.pcieData f .data (s.peeks a n))).settle s))
      ∧ (s.hubServes a = true → s.lineWaits (a / 256) = true ∨ s.lineAway (a / 256) = true →
        exec (.bar4Read f off n ide) s = .next ((s.wait (.bar4 who (a / 256) a n)).settle s)))
    ∧ (∀ st, 0 < n → a % 256 + n ≤ 256 → s.place a ≠ .reserved → s.place a ≠ .host → s.hubServes a = true →
      touches s.kvExtents a n = false → hedge ((s.regionAt a).map Prod.snd) who.secure f = st → st ≠ 0 →
      exec (.bar4Read f off n ide) s = .next (((if st = 4 then s.deny who.secure f a else s).emit
        (.pcieData f .data (List.replicate n 0#8))).settle s))
    ∧ (0 < n → a % 256 + n ≤ 256 → s.place a = .reserved →
      exec (.bar4Read f off n ide) s = .next ((s.emit (.pcieData f .data (List.replicate n 0#8))).settle s)))
  ∧ (∀ (s : State) (f off a : Nat) (who : Requester) (ide : Bool) (bytes : List Byte), s.hif.safeMode = false →
    s.ideRefused f ide = false → a = (s.fn f).bar4 + off → who = ⟨s.fnSecure f, f, none⟩ → off + bytes.length ≤ s.bar4Bytes f →
    exec (.bar4Write f off bytes ide) s = .next (((linePieces (bytes.length / 256 + 2) a bytes.length).foldl
      (fun t p => t.bar4Put who p.1 ((bytes.drop (p.1 - a)).take p.2)) s).settle s)
    ∧ (0 < bytes.length → a % 256 + bytes.length ≤ 256 → s.place a ≠ .reserved → s.place a ≠ .host → s.hubServes a = true →
      touches s.kvExtents a bytes.length = false → touches s.poolExtents a bytes.length = false →
      (hedge ((s.regionAt a).map Prod.snd) who.secure f = 0 →
        (s.lineWaits (a / 256) = false → s.lineAway (a / 256) = false → s.lineOut (a / 256) = false → s.poisoned (a / 256) = false →
          exec (.bar4Write f off bytes ide) s = .next (((s.touchWrite (a / 256) a bytes 0 none).2).settle s))
        ∧ (s.lineWaits (a / 256) = true ∨ s.lineAway (a / 256) = true →
          exec (.bar4Write f off bytes ide) s = .next ((s.wait (.write who a 0 bytes)).settle s)))
      ∧ (∀ st, hedge ((s.regionAt a).map Prod.snd) who.secure f = st → st ≠ 0 →
        exec (.bar4Write f off bytes ide) s = .next ((if st = 4 then s.deny who.secure f a else s).settle s))))

/-- A Function Level Reset brings every ring of the function into RESETTING, and a locked or running interface to ERROR; of one that ran,
the retained sets of its rings and its Secure streams, paced channels and key-value sequences end; what software wrote to the function's
configuration space goes back to its reset value (log 54). A Hot Reset does so for every function (spec/14 R386, spec/16 R439, R440,
spec/17 R467). -/
def Obligations.FunctionResets : Prop :=
  (∀ (s : State) (f : Nat), exec (.functionLevelReset f) s = .next ((((s.resetRings f).tdError f).clearConfig f).settle s))
  ∧ (∀ s : State, exec .pcieHotReset s
    = .next (((List.range 65).foldl (fun t f => ((t.resetRings f).tdError f).clearConfig f) s).settle s))
  ∧ (∀ (s : State) (f r : Nat), r ∈ s.hif.rings.map Prod.fst → s.owner r = f →
    (s.ring r).st = .running ∨ (s.ring r).st = .stopped ∨ (s.ring r).st = .draining →
    ((s.resetRings f).ring r).st = .resetting)
  ∧ (∀ (s : State) (f : Nat),
    (s.tdi f = .locked → s.tdError f = s.setTd f .error)
    ∧ (s.tdi f = .run → s.tdError f = ((s.resetRings f).endSecure f).setTd f .error)
    ∧ (s.tdi f = .locked ∨ s.tdi f = .run → (s.tdError f).tdi f = .error)
    ∧ (s.tdi f = .unlocked ∨ s.tdi f = .error → s.tdError f = s))
  ∧ (∀ (s : State) (f : Nat),
    (∀ p ∈ (s.endSecure f).dsp.sets, s.owner p.2.ring ≠ f)
    ∧ (∀ i x, s.vid.decs.find i = some x → x.secure = true → x.fn = f → (s.endSecure f).vid.decs.find i = none)
    ∧ (∀ i x, s.vid.encs.find i = some x → x.secure = true → x.fn = f → (s.endSecure f).vid.encs.find i = none)
    ∧ (∀ c, (s.chan c).running = true → (s.chan c).secure = true → (s.chan c).fn = f → ((s.endSecure f).chan c).running = false)
    ∧ (∀ k ∈ s.seqsOf f, ((s.endSecure f).kvSeq k).st = .releasing))
  ∧ (∀ (s : State) (f : Nat) (r : ConfigReg), (s.clearConfig f).cfgReg f r = 0
    ∧ ∀ g, g ≠ f → (s.clearConfig f).cfgReg g r = s.cfgReg g r)

/-! ### Interfaces, streams, entropy (spec/16) -/

/-- TDISP requests for a VF in a secured session over DOE (spec/16 R438, R439): the interface goes CONFIG_UNLOCKED, CONFIG_LOCKED, RUN by
LOCK and START, each only from the state before and LOCK only with every ring DISABLED; STOP returns it; the state, the report, version
and capabilities are answered; every other request with an error. (Bodies that TDISP defines are free, log 6.) -/
def Obligations.DeviceInterface : Prop :=
  ∀ (s : State) (n vf : Nat), s.doeSession n = true → 1 ≤ vf → vf ≤ 64 →
    exec (.getTdispVersion n vf) s = .next ((s.emit (.spdm .doe (tdispMsg 0x01 vf [0x01#8, 0x10#8]))).settle s)
    ∧ exec (.getTdispCapabilities n vf) s = .next ((s.emit (.spdm .doe (tdispMsg 0x02 vf (Config.answerBody 0x02 [])))).settle s)
    ∧ (s.tdi vf = .unlocked → s.ringsBusy vf = false →
      exec (.lockInterfaceRequest n vf) s
        = .next (((s.fresh.2.setTd vf .locked).emit (.spdm .doe (tdispMsg 0x03 vf
            ((List.range 32).map (Config.freeByte s.freeCount 0))))).settle s))
    ∧ (s.tdi vf = .unlocked → s.ringsBusy vf = true →
      exec (.lockInterfaceRequest n vf) s = .next ((s.emit (.spdm .doe (tdispMsg 0x7F vf (toLE 4 0x104)))).settle s))
    ∧ (s.tdi vf ≠ .unlocked → exec (.lockInterfaceRequest n vf) s = .next ((s.emit (.spdm .doe (tdispMsg 0x7F vf (toLE 4 4)))).settle s))
    ∧ exec (.getDeviceInterfaceReport n vf) s
        = .next ((s.emit (.spdm .doe (tdispMsg 0x04 vf (Config.answerBody 0x04 (toLE 1 vf) ++ s.tdReport vf)))).settle s)
    ∧ exec (.getDeviceInterfaceState n vf) s = .next ((s.emit (.spdm .doe (tdispMsg 0x05 vf (toLE 1 (tdCode (s.tdi vf)))))).settle s)
    ∧ (s.tdi vf = .locked →
      exec (.startInterfaceRequest n vf) s = .next (((s.setTd vf .run).emit (.spdm .doe (tdispMsg 0x06 vf []))).settle s))
    ∧ (s.tdi vf ≠ .locked → exec (.startInterfaceRequest n vf) s = .next ((s.emit (.spdm .doe (tdispMsg 0x7F vf (toLE 4 4)))).settle s))
    ∧ exec (.stopInterfaceRequest n vf) s = .next (((s.leaveTd vf .unlocked).emit (.spdm .doe (tdispMsg 0x07 vf []))).settle s)
    ∧ (s.leaveTd vf .unlocked).tdi vf = .unlocked
    ∧ (∀ code, exec (.tdispUnsupportedRequest n vf code) s
        = .next ((s.emit (.spdm .doe (tdispMsg 0x7F vf (toLE 4 7 ++ toLE 4 code)))).settle s))

/-- IDE streams, DOE discovery and the entropy source (spec/16 R441, R443): a key set programmed in a secured session binds the stream to
VFs; a failed stream loses its keys and takes the interfaces bound to it to ERROR; discovery answers the three protocols in turn; a
health failure sets ENTROPY_FAIL, is logged and stays. -/
def Obligations.StreamsAndEntropy : Prop :=
  (∀ (s : State) (n k set : Nat) (vfs : List Nat) (key : List Byte), s.doeSession n = true → k < 4 →
    exec (.ideKmKeyProg n k set vfs key) s
      = .next (({ s with sec := { s.sec with ide := s.sec.ide.put k {
          keys := (s.sec.ide.get {} k).keys.filter (fun p => p.1 != set) ++ [(set, key)], vfs := vfs, failed := false } } } : State).settle s))
  ∧ (∀ (s t : State) (k : Nat) (x : IdeStream), s.sec.ide.find k = some x →
    t = x.vfs.foldl State.tdError
      { s with sec := { s.sec with ide := s.sec.ide.put k { x with failed := true, keys := [] } } } →
    exec (.ideStreamFail k) s = .next (t.settle s) ∧ t.sec.ide.find k = some { x with failed := true, keys := [] }
      ∧ (∀ f ∈ x.vfs, t.tdi f ≠ .locked ∧ t.tdi f ≠ .run) ∧ ∀ f, f ∉ x.vfs → t.tdi f = s.tdi f)
  ∧ (∀ s : State, s.hears .doe = true →
    exec (.doeDiscovery 0) s = .next ((s.emit (.spdm .doe [1#8, 0#8, 0#8, 1#8])).settle s)
    ∧ exec (.doeDiscovery 1) s = .next ((s.emit (.spdm .doe [1#8, 0#8, 1#8, 2#8])).settle s)
    ∧ exec (.doeDiscovery 2) s = .next ((s.emit (.spdm .doe [1#8, 0#8, 2#8, 0#8])).settle s))
  ∧ (∀ s : State, s.sec.entropyFail = false →
    exec .entropyHealthFail s
      = .next (((({ s with sec := { s.sec with entropyFail := true } } : State).log 0x0303 1 0 true).notifySecure).settle s))

/-! ### Faults of the device (spec/18) -/

/-- Errors in control SRAM (spec/18 R476-R479, R492): a corrected one is counted; an uncorrected one in a line's state loses the line and
poisons it; in a core's withdraws the core; in a stream's closes the stream, in a channel's stops the channel; in a structure whose loss
is fatal, as a bridge that stays lost, stops every ring, with the code and the time kept and no read left waiting, and a second fatal
event changes nothing of them. -/
def Obligations.ControlSram : Prop :=
  (∀ (s : State) (w : SramKind), exec (.controlSramCe w) s = .next ((s.tick1 telSramCe).settle s))
  ∧ (∀ (s : State) (l : Nat), exec (.controlSramUe (.granary l)) s = .next (((s.tick1 telSramUe).loseLine l).settle s)
    ∧ ((s.resident l).isSome → ((s.loseLine l).resident l) = none ∧ (s.loseLine l).poisoned l = true))
  ∧ (∀ (s : State) (c part : Nat), exec (.controlSramUe (.core c part)) s = .next (((s.tick1 telSramUe).withdraw c part).settle s)
    ∧ (c < s.coreCount → (s.core c).withdrawn = false →
      ((s.withdraw c part).core c).withdrawn = true ∧ ((s.withdraw c part).core c).slots = []))
  ∧ (∀ (s : State) (encode : Bool) (i : Nat),
    exec (.controlSramUe (.codec encode i)) s = .next (((s.tick1 telSramUe).loseStream encode i).settle s)
    ∧ (s.loseStream false i).vid.decs.find i = none ∧ (s.loseStream true i).vid.encs.find i = none)
  ∧ (∀ (s : State) (c : Nat), exec (.controlSramUe (.pace c)) s = .next (((s.tick1 telSramUe).loseChan c).settle s)
    ∧ ((s.loseChan c).chan c).running = false)
  ∧ (∀ (s t : State) (code a : Nat) (slot : Option Nat), s.fatal = false → code ≠ 0 → t = (s.tick1 telSramUe).fatalEvent code a slot →
    exec (.controlSramUe (.fatal code a slot)) s = .next (t.settle s)
      ∧ t.flt.diagFatal = code ∧ t.flt.diagFatalTime = s.time ∧ t.fatal = true
      ∧ (∀ r, (t.ring r).st ≠ .running ∧ (t.ring r).st ≠ .draining) ∧ (∀ r, t.fetchCount r = 0) ∧ ∀ w ∈ t.mem.waiting, w.2.isRead = false)
  ∧ (∀ s : State, exec .bridgeLoss s = .next (({ s with flt := { s.flt with bridgeLost := true } } : State).settle s))
  ∧ (∀ s : State, s.flt.bridgeLost = true → exec .bridgeLossTimeout s = .next ((s.fatalEvent 9 0).settle s))
  ∧ (∀ (s : State) (code a : Nat) (slot : Option Nat), s.fatal = true → s.fatalEvent code a slot = s)

/-! ### Memory (spec/10) -/

/-- Memory requests within a line (spec/10 R251, R254, R261, R264). Of those that the hedgerow passes, a resident line that nothing waits for
serves a read with its newest bytes, takes a write and an atomic; a line that is not resident makes a read, a part write and an atomic
wait for it, while a whole line written needs no read; behind waiting requests of its line a request waits too. One refused reads zeros
or stores nothing, with its status met (spec/16 R437). A Granary that works alone serves its scratch range. When the line arrives, nothing
waits for it any more; atomics that wait first are applied at the controller. -/
def Obligations.MemoryRequests : Prop :=
  (∀ (s : State) (who : Requester) (a n hint st : Nat), 0 < n → a % 256 + n ≤ 256 → s.place a ≠ .reserved → s.place a ≠ .host →
    st = s.requestStatus who a n false →
    (st ≠ 0 → exec (.memoryRead who a n hint) s = .next ((((if st = 4 then s.deny who.secure who.fn a else s).meet who.stage st).emit
      (.memData who a (List.replicate n 0#8))).settle s))
    ∧ (st = 0 → s.hubServes a = false →
      exec (.memoryRead who a n hint) s = .next (((s.tick1 grnHit).emit (.memData who a (s.peeks a n))).settle s))
    ∧ (st = 0 → s.hubServes a = true → (s.resident (a / 256)).isSome → s.lineWaits (a / 256) = false → s.poisoned (a / 256) = false →
      exec (.memoryRead who a n hint) s
        = .next (((s.touchRead (a / 256) hint who.stage).emit (.memData who a (s.peeks a n))).settle s))
    ∧ (st = 0 → s.hubServes a = true → s.resident (a / 256) = none ∨ s.lineWaits (a / 256) = true →
      (s.unit (unitOf (a / 256))).st ≠ .out →
      exec (.memoryRead who a n hint) s = .next (({ s with mem := { s.mem with
        waiting := s.mem.waiting ++ [(unitOf (a / 256), .read who a n hint)] } } : State).settle s)))
  ∧ (∀ (s : State) (who : Requester) (a hint st : Nat) (bytes : List Byte), 0 < bytes.length → a % 256 + bytes.length ≤ 256 →
    s.place a ≠ .reserved → s.place a ≠ .host → st = s.requestStatus who a bytes.length true →
    (st ≠ 0 → exec (.memoryWrite who a bytes hint) s
      = .next (((if st = 4 then s.deny who.secure who.fn a else s).meet who.stage st).settle s))
    ∧ (st = 0 → s.hubServes a = false → exec (.memoryWrite who a bytes hint) s = .next ((s.scratchPut a bytes).settle s))
    ∧ (st = 0 → s.hubServes a = true → s.lineWaits (a / 256) = false → s.poisoned (a / 256) = false →
      (s.resident (a / 256)).isSome ∨ (bytes.length = 256 ∧ s.lineHeld (a / 256) = false ∧ (s.unit (unitOf (a / 256))).st ≠ .out) →
      exec (.memoryWrite who a bytes hint) s
        = .next (((s.touchWrite (a / 256) a bytes hint who.stage).2.share who.stage a bytes).settle s))
    ∧ (st = 0 → s.hubServes a = true →
      s.lineWaits (a / 256) = true ∨ (s.resident (a / 256) = none ∧ (s.unit (unitOf (a / 256))).st ≠ .out
        ∧ (bytes.length ≠ 256 ∨ s.lineHeld (a / 256) = true)) →
      exec (.memoryWrite who a bytes hint) s = .next (({ s with mem := { s.mem with
        waiting := s.mem.waiting ++ [(unitOf (a / 256), .write who a hint bytes)] } } : State).settle s)))
  ∧ (∀ (s : State) (who : Requester) (a op fmt st : Nat) (wrap : Bool) (bytes : List Byte) (fl : Flags) (s' : State),
    atomicExists a op fmt bytes.length = true → s.hubServes a = true → st = s.atomicStatus who a bytes.length →
    (fl, s') = s.atomicApply who a op (atomFmt fmt) wrap bytes →
    (st ≠ 0 → exec (.atomicRequest who a op fmt wrap bytes) s
      = .next (((if st = 4 then s.deny who.secure who.fn a else s).meet who.stage st).settle s))
    ∧ (st = 0 → (s.resident (a / 256)).isSome → s.lineWaits (a / 256) = false →
      (who.stage = none → exec (.atomicRequest who a op fmt wrap bytes) s = .next (s'.settle s))
      ∧ (∀ k, who.stage = some k → exec (.atomicRequest who a op fmt wrap bytes) s = .next ((s'.raise k fl).settle s)))
    ∧ (st = 0 → s.resident (a / 256) = none ∨ s.lineWaits (a / 256) = true →
      exec (.atomicRequest who a op fmt wrap bytes) s = .next (({ s with mem := { s.mem with
        waiting := s.mem.waiting ++ [(unitOf (a / 256), .atomic who a op fmt wrap bytes)] } } : State).settle s)))
  ∧ (∀ (s : State) (l : Nat) (ecc : EccResult), s.lineWaits l = true → s.lineHeld l = false → (s.unit (unitOf l)).st = .service →
    exec (.missFillComplete l ecc) s = .next ((s.lineRead l ecc true).settle s)
    ∧ (∀ w ∈ (s.lineRead l ecc true).mem.waiting, w.2.line ≠ l)
    ∧ (∀ u who a op fmt wrap bytes, s.mem.waiting.find? (fun w => w.2.line == l) = some (u, .atomic who a op fmt wrap bytes) →
      exec (.atomicApplyMc l ecc) s = .next ((s.lineRead l ecc false).settle s)))

/-- An atomic adds, takes the least or the greatest of each element (spec/10 R260, R261): on a 32-bit integer with wrapping, ADD stores the
sum modulo 2^32 and MIN and MAX the signed choice; the bytes are found by every reader whether the line is resident or not. -/
def Obligations.AtomicsApply : Prop :=
  (∀ a b : Nat, a < 2 ^ 32 → b < 2 ^ 32 →
    (atomElem .int32 0 true a b).1 = (a + b) % 2 ^ 32
    ∧ (atomElem .int32 1 true a b).1 = (if signed a 32 ≤ signed b 32 then a else b)
    ∧ (atomElem .int32 2 true a b).1 = (if signed a 32 ≤ signed b 32 then b else a))
  ∧ (∀ (s : State) (who : Requester) (a op : Nat) (f : Fmt) (wrap : Bool) (bytes : List Byte) (i : Nat), s.Inv →
    a % 256 + bytes.length ≤ 256 → i < bytes.length → f ∈ [Fmt.fp32, .bf16, .int32, .int64] → bytes.length % (f.width / 8) = 0 →
    (s.atomicApply who a op f wrap bytes).2.peek (a + i) = (atomBytes f op wrap (s.peeks a bytes.length) bytes).1.getD i 0)

/-- The memory controllers (spec/10 R270-R278, R287; spec/18 R482-R484): the copy of a row ends with the next spare row in its place, and the
requests that waited for it are issued; a due scrub read moves the scrubber on and is counted, and what it finds in a line not poisoned
already is handled; a temperature sets the refresh rate at once upward and after ten readings 3 °C below downward; each second CE_RATE
compares the corrected errors with the limit; retraining starts, succeeds, and after three failures, or where a ninth would start within
one second, the unit leaves service, its waiting requests answered without it. -/
def Obligations.MemoryUnits : Prop :=
  (∀ (s : State) (u row : Nat), (s.unit u).copying.head? = some row →
    exec (.rowRemapComplete u) s = .next ((((((s.setUnit u { s.unit u with
        copying := (s.unit u).copying.drop 1, spares := (s.unit u).spares + 1
        remap := (s.unit u).remap.filter (fun e => e.1 != row) ++ [(row, (s.unit u).spares, false)]
        corrected := (s.unit u).corrected.filter (fun p => rowOf p.1 != row) }).tick1 memRemap).log 0x0104 u
          (row + (s.unit u).spares * 2 ^ 26)).touchStore).issue u).settle s))
  ∧ (∀ (s b : State) (u l : Nat) (ecc : EccResult) (forced marked : Bool), (s.unit u).st = .service → s.obj 0x6000 1 24 ≠ 0 →
    s.unitLines u ≠ 0 → l = scrubLine u (s.unit u).scrubPos →
    b = (if forced then ((s.setUnit u { s.unit u with scrubPos := ((s.unit u).scrubPos + 1) % s.unitLines u }).tick1 scrubLines).tick1 scrubForced
      else (s.setUnit u { s.unit u with scrubPos := ((s.unit u).scrubPos + 1) % s.unitLines u }).tick1 scrubLines) →
    marked = (if u < 8 then s.mem.poison.contains l else (s.unit u).poisonTable.contains l) →
    (marked = true ∨ ecc = .clean → exec (.scrubRead u ecc forced) s = .next (b.settle s))
    ∧ (marked = false → ecc = .corrected ∨ ecc = .corrected_again →
      exec (.scrubRead u ecc forced) s = .next ((b.correct u l (ecc == .corrected_again)).settle s))
    ∧ (marked = false → ecc = .uncorrected → exec (.scrubRead u ecc forced) s
        = .next (((b.uncorrected u l).log 0x0101 u (l * 256) ((b.uncorrected u l).lineSecure l)).settle s)))
  ∧ (∀ (s : State) (u : Nat),
    exec (.memTempRead u none) s = .next ((s.setUnit u { s.unit u with temp := 0xFF, refresh := 2, cool := 0 }).settle s)
    ∧ (∀ c, (s.unit u).refresh ≤ refreshOf c →
      exec (.memTempRead u (some c)) s
        = .next ((s.setUnit u { s.unit u with temp := min c 0xFE, refresh := refreshOf c, cool := 0 }).settle s))
    ∧ (∀ c low, refreshOf c < (s.unit u).refresh → low = (if (s.unit u).refresh = 2 then 95 else 85) →
      (c + 3 ≤ low → (s.unit u).cool < 9 → exec (.memTempRead u (some c)) s
        = .next ((s.setUnit u { s.unit u with temp := min c 0xFE, cool := (s.unit u).cool + 1 }).settle s))
      ∧ (c + 3 ≤ low → 9 ≤ (s.unit u).cool → exec (.memTempRead u (some c)) s
        = .next ((s.setUnit u { s.unit u with temp := min c 0xFE, refresh := (s.unit u).refresh - 1, cool := 0 }).settle s))
      ∧ (low < c + 3 → exec (.memTempRead u (some c)) s
        = .next ((s.setUnit u { s.unit u with temp := min c 0xFE, cool := 0 }).settle s)))
    ∧ refreshOf 85 = 0 ∧ refreshOf 86 = 1 ∧ refreshOf 95 = 1 ∧ refreshOf 96 = 2)
  ∧ (∀ (s : State) (n : Nat), n = (s.mem.ceSecond.map Prod.snd).sum →
    (n ≤ s.mem.ceLimit →
      exec .ceRateTick s = .next (({ s with mem := { s.mem with
        ceRate := false, ceSecond := [], ceLimit := s.obj 0x6000 3 1000 } } : State).settle s))
    ∧ (s.mem.ceLimit < n → s.mem.ceRate = true →
      exec .ceRateTick s = .next (({ s with mem := { s.mem with
        ceRate := true, ceSecond := [], ceLimit := s.obj 0x6000 3 1000 } } : State).settle s))
    ∧ (s.mem.ceLimit < n → s.mem.ceRate = false →
      exec .ceRateTick s = .next (({ (s.log 0x0103 (worstUnit s.mem.ceSecond) n) with
        mem := { s.mem with ceRate := true, ceSecond := [], ceLimit := s.obj 0x6000 3 1000 } } : State).settle s)))
  ∧ (∀ (s : State) (u cause : Nat) (recent : List Nat), (s.unit u).st = .service → retrainCause u cause = true →
    recent = (s.unit u).recent.filter (fun t => decide (s.time < t + 10 ^ 9)) →
    (recent.length < 8 → exec (.unitRetrainStart u cause) s = .next (((s.setUnit u { s.unit u with
        st := .retraining, attempts := 0, recent := recent ++ [s.time] }).log 0x0106 u cause).settle s))
    ∧ (8 ≤ recent.length → exec (.unitRetrainStart u cause) s = .next ((s.unitOut u 0).settle s)))
  ∧ (∀ (s : State) (u n : Nat), (s.unit u).st = .retraining → n = (s.unit u).attempts + 1 →
    exec (.unitRetrainAttemptEnd u true) s
      = .next ((((s.setUnit u { s.unit u with st := .service, attempts := 0 }).log 0x0107 u (n * 256)).issue u).settle s)
    ∧ (n < 3 → exec (.unitRetrainAttemptEnd u false) s = .next ((s.setUnit u { s.unit u with attempts := n }).settle s))
    ∧ (3 ≤ n → exec (.unitRetrainAttemptEnd u false) s = .next ((s.unitOut u n).settle s)))
  ∧ (∀ (s : State) (u n : Nat), s.unitOut u n
    = (dedup ((s.mem.waiting.filter (fun w => w.1 == u)).map (fun w => w.2.line))).foldl State.serveLine
        ((s.setUnit u { s.unit u with st := .out, attempts := 0 }).log 0x0107 u (1 + n * 256)))

/-! ### Placement and gleaning (spec/06) -/

/-- A tile of the first ready stage is placed on the first core of the scan that takes it (spec/06 R143-R145): the core holds a waiting task
for it in a free slot, the stage has issued the tile, DSP_PLACED counts it; with no core the stage is held. Gleaning (spec/06
R147-R152): an idle core asks the fullest core of the nearest tier; the victim serves the lowest-numbered thief with a task not begun,
which goes in transit, or with none, which excludes the victim; of the tasks in transit to a core the one whose transfer ends first
arrives and waits there. A core that does not glean, or finds no victim, asks none. -/
def Obligations.PlacementAndGleaning : Prop :=
  (∀ (s : State) (n : Nat) (st : Stage) (rest : List (Nat × Stage)) (rc : Nat × Nat), s.ready = (n, st) :: rest →
    nextTile st = some rc →
    (∀ c, s.findCore st.desc st.cls = some c →
      exec .placeTask s = .next ((s.placeOn n st rc c).settle s)
      ∧ s.coreTakes (dMask st.desc) st.cls c = true
      ∧ ∃ task, ((s.placeOn n st rc c).core c).slots.find (s.core c).freeSlot = some task ∧ task.stage = n ∧ task.r = rc.1
          ∧ task.c = rc.2 ∧ task.st = .waiting ∧ (s.placeOn n st rc c).stage n = some { st with issued := st.issued ++ [rc], held := false })
    ∧ (s.findCore st.desc st.cls = none →
      exec .placeTask s = .next (((s.setStage n { st with held := true }).placeFirst rest).settle s)))
  ∧ (∀ s : State, s.ready = [] → exec .placeTask s = .next (s.settle s))
  ∧ ((∀ (s : State) (c v : Nat), s.gleans c = true → s.gleanVictim c = some v → c ∉ (s.core v).gleanReqs →
    exec (.gleanRequest c) s
      = .next ((s.setCore v { s.core v with gleanReqs := (s.core v).gleanReqs ++ [c] }).settle s))
  ∧ (∀ (s : State) (v thief : Nat), minNat (s.core v).gleanReqs = some thief →
    exec (.gleanServe v) s = .next (((s.setCore v { s.core v with
      gleanReqs := (s.core v).gleanReqs.filter (· != thief) }).serveGlean v thief).settle s))
  ∧ (∀ (s : State) (v thief slot : Nat) (task : Task), v ≠ thief → s.gleanPick (s.gleanable v thief) = some (slot, task) →
    task.st = .waiting ∧ task.begun = false
    ∧ ((s.serveGlean v thief).core v).slots = (s.core v).slots.del slot
    ∧ ((s.serveGlean v thief).core thief).slots = (s.core thief).slots.put (s.core thief).freeSlot 
        { task with st := .inTransit, arrives := s.time + s.cyclesNs thief (tierTransfer (tierOf thief v)) })
  ∧ (∀ (s : State) (v thief : Nat), s.gleanPick (s.gleanable v thief) = none →
    s.serveGlean v thief
      = (s.setCore thief { s.core thief with excluded := (s.core thief).excluded ++ [v] }).tick1 dspGleanEmpty)
  ∧ (∀ (s : State) (c : Nat), s.gleans c = false ∨ s.gleanVictim c = none → exec (.gleanRequest c) s = .next (s.settle s))
  ∧ (∀ (s : State) (c slot : Nat) (task : Task), (s.core c).firstArrival = some (slot, task) →
    task.st = .inTransit ∧ (∀ p ∈ (s.core c).slots, p.2.st = .inTransit → task.arrives ≤ p.2.arrives)
    ∧ ∃ t, exec (.gleanTransferComplete c) s = .next t
      ∧ (t.core c).slots = (s.core c).slots.put slot { task with st := .waiting }
      ∧ (∀ c', c' ≠ c → t.core c' = s.core c') ∧ t.mem = s.mem ∧ t.dsp = s.dsp)
  ∧ (∀ (s : State) (c v : Nat),
    exec (.gleanExclusionExpiry c v) s
      = .next ((s.setCore c { s.core c with excluded := (s.core c).excluded.filter (· != v) }).settle s)))

/-! ### Tasks on a core (spec/03, 05, 06, 08, 09) -/

/-- The life of a task in its passes (spec/06 R153, R157; spec/03 R61, R66, R74, R84): a core with power and nothing in Passes starts its
next task, which stands in Passes; a chain that begins takes its keys and start values first; a harrow-alone task waits while the drain
pipe holds work (spec/05 R119, spec/09 R235). An array pass does its work and the next begins, but not while a drain holds its rows; a
row of the harrow does its work, and between rows a higher task may pre-empt; the end of a task's passes begins the chain's next task,
or leaves the chain to drain; a task of a stage that is ending leaves its core. An idle array stops its clock; a seeded context takes
over free lanes (spec/09 R233). -/
def Obligations.TasksRun : Prop :=
  (∀ (s s' : State) (c slot : Nat) (task : Task) (st : Stage), s.canStart c = true → s.nextTask c = some (slot, task) →
    s.stage task.stage = some st → s.drainHoldsBack c st = false →
    (task.begun = true ∨ task.st = .suspended → exec (.taskStart c) s
      = .next ((s.enterPasses c slot st task { task with pass := if task.st = .suspended then task.pass else 0 }).settle s))
    ∧ (∀ task', task.begun = false → task.st ≠ .suspended → s.beginChain task.stage st task = (some task', s') →
      exec (.taskStart c) s = .next ((s'.enterPasses c slot ((s'.stage task.stage).getD st) task task').settle s))
    ∧ (task.begun = false → task.st ≠ .suspended → s.beginChain task.stage st task = (none, s') →
      exec (.taskStart c) s = .next ((s'.tileDone c slot task.stage).settle s)))
  ∧ (∀ (s : State) (c slot : Nat) (st : Stage) (old task : Task),
    ∃ x, ((s.enterPasses c slot st old task).core c).slots.find slot = some x
      ∧ x.st = .passes ∧ x.begun = true ∧ x.ended = false ∧ x.stage = task.stage ∧ x.r = task.r ∧ x.c = task.c ∧ x.k = task.k)
  ∧ (∀ (s : State) (c : Nat),
    s.canStart c = false ∨ s.nextTask c = none
      ∨ (∃ slot task st, s.nextTask c = some (slot, task) ∧ s.stage task.stage = some st ∧ s.drainHoldsBack c st = true) →
    exec (.taskStart c) s = .next (s.settle s))
  ∧ (∀ (s : State) (c slot : Nat) (task : Task) (st : Stage) (p : PassSpec), s.atWork c = some (slot, task, st) → st.alone = false →
    (s.domain (2 * c)).powered = true → (s.core c).rowsHeld = false → (passesOf st task)[task.pass]? = some p →
    (∀ acc s' task', st.opcode ≠ 0x02 → st.opcode ≠ 0x0A → s.passWork c task.stage st task p = (acc, s') →
      task' = { task with acc := acc, pass := task.pass + 1 } →
      exec (.arrayPassComplete c) s = .next (((s'.setTask c slot task').startPass c slot st task').settle s))
    ∧ (∀ task', st.opcode = 0x02 ∨ st.opcode = 0x0A → task' = { task with pass := task.pass + 1 } →
      exec (.arrayPassComplete c) s = .next (((s.setTask c slot task').startPass c slot st task').settle s)))
  ∧ (∀ (s : State) (c : Nat), s.atWork c = none ∨ (s.core c).rowsHeld = true ∨ (s.domain (2 * c)).powered = false →
    exec (.arrayPassComplete c) s = .next (s.settle s))
  ∧ (∀ (s : State) (c slot rows : Nat) (task : Task) (st : Stage), s.atWork c = some (slot, task, st) → st.alone = true →
    rows = (tileRows st.desc task.r).2 → task.pass < rows →
    ((st.opcode = 0x04 ∨ st.opcode = 0x08) → st.draws task.k task.len = true → (s.core c).ownsLanes slot = true) →
    (st.byRow = false → exec (.harrowRowEnd c) s = .next ((s.setTask c slot { task with pass := task.pass + 1 }).settle s))
    ∧ (∀ acc s' task', st.byRow = true → s.rowWork c slot task.stage st task task.pass = (acc, s') →
      task' = { task with acc := acc, pass := task.pass + 1 } →
      (st.ending = true → exec (.harrowRowEnd c) s = .next ((s'.dropEnding c slot task.stage).settle s))
      ∧ (st.ending = false → task.pass + 1 < rows → exec (.harrowRowEnd c) s = .next ((s'.preemptAt c slot st task').settle s))
      ∧ (st.ending = false → rows ≤ task.pass + 1 → exec (.harrowRowEnd c) s = .next ((s'.setTask c slot task').settle s))))
  ∧ (∀ (s s' v : State) (c slot : Nat) (task task' : Task) (st : Stage), s.atWork c = some (slot, task, st) →
    s.passesOver c slot st task = true → s.wholeWork c slot task.stage st task = (task', s') → v = s'.setCore c (s'.core c).restArrays →
    (st.ending = true → exec (.taskPassesEnd c) s = .next ((v.dropEnding c slot task.stage).settle s))
    ∧ (st.ending = false → task'.k + 1 < task'.len →
      exec (.taskPassesEnd c) s = .next (((v.setCore c ((v.core c).freeLanes slot)).preemptAt c slot st
        { task' with k := task'.k + 1, pass := 0, st := .waiting }).settle s))
    ∧ (st.ending = false → task'.len ≤ task'.k + 1 →
      exec (.taskPassesEnd c) s = .next ((v.setTask c slot { task' with ended := true }).settle s)))
  ∧ (∀ (s : State) (c a : Nat), (s.core c).arrays.getD a .inPass = .idle ∨ (s.core c).arrays.getD a .inPass = .emptying →
    exec (.arrayClockStop c a) s
      = .next ((s.setCore c { s.core c with arrays := (s.core c).arrays.set a .clockStopped }).settle s))
  ∧ (∀ (s : State) (c : Nat) (x : Nat × DrawCtx), (s.core c).staging = some x → (s.core c).lanes = none →
    exec (.laneContextTakeover c) s = .next ((s.setCore c { s.core c with lanes := some x, staging := none }).settle s))

/-- Spills, restores and drains (spec/06 R159-R162, spec/03 R74, spec/04 R105): a task that waited for spills goes on when they are
written; a restore with a good header brings the task back, where it needs the lanes only once no context holds them; with a bad header
the task is abandoned with CHECK_FAIL, with a poisoned one with POISON, and its slot is free; an ended chain drains, which seeds the
context of a drain that draws; its end delivers the tile and frees its slot. Pre-emption (spec/06 R157, R158): at a pre-emption point a
core whose waiting tasks hold none of a higher class goes on; with one and a spill frame free the chain is suspended into it; with no
frame free the refusal is counted, and the chain goes on to its end. -/
def Obligations.SpillsAndPreemption : Prop :=
  ((∀ (s u : State) (c slot acc ret : Nat) (task : Task) (st : Stage), (s.core c).running = some (slot, task) →
    s.stage task.stage = some st → task.spillWait = true →
    taskNeeds st { task with st := if task.restoring then .suspended else .waiting } = (acc, ret) →
    u = (s.makeSpace c st.cls acc ret).setTask c slot { task with spillWait := false } →
    exec (.spillComplete c) s
      = .next (((if task.restoring then u else u.decideKeep c slot st).markFirst task.stage).settle s))
  ∧ (∀ (s h : State) (c slot j : Nat) (task : Task), (s.core c).running = some (slot, task) → task.restoring = true →
    task.spillWait = false → task.frame = some j → h = (s.frameRead task.stage (s.frameAddr c j) 4096).2 →
    (s.poisonIn (s.frameAddr c j) 4096 = true →
      ∀ ok, exec (.restoreComplete c ok) s = .next ((h.abandon c slot task.stage 8).settle s))
    ∧ (s.poisonIn (s.frameAddr c j) 4096 = false →
      exec (.restoreComplete c false) s = .next ((h.abandon c slot task.stage 1).settle s))
    ∧ (s.poisonIn (s.frameAddr c j) 4096 = false → task.savedLanes.isSome = true → (s.core c).lanes.isSome = true →
      exec (.restoreComplete c true) s = .next (s.settle s))
    ∧ (∀ st, s.poisonIn (s.frameAddr c j) 4096 = false → task.savedLanes = none ∨ (s.core c).lanes = none →
      h.stage task.stage = some st →
      exec (.restoreComplete c true) s = .next (((h.restoreTask c slot j task).firstPass c slot st).settle s)))
  ∧ (∀ (s : State) (c slot n status : Nat), ((s.abandon c slot n status).core c).slots.find slot = none)
  ∧ (∀ (s u : State) (c slot : Nat) (task : Task) (st : Stage), (s.core c).running = some (slot, task) → (s.core c).draining = none →
    s.stage task.stage = some st → task.ended = true →
    u = (s.homeTile c task.stage st task).setTask c slot { task with st := .draining } →
    exec (.taskDrainStart c) s
      = .next ((if st.alone = false ∧ st.draws task.k task.len = true
          then (u.setCore c ((u.core c).emptyPipe false)).seed c slot st task
          else u.setCore c ((u.core c).emptyPipe false)).settle s))
  ∧ (∀ (s u : State) (c slot : Nat) (task : Task) (st : Stage), (s.core c).draining = some (slot, task) →
    s.stage task.stage = some st →
    u = ((s.drainWork c slot task.stage st task).tick1 (coreReg c coreTasksDone)).tileDone c slot task.stage →
    (st.draws task.k task.len = false ∨ st.opcode ∈ [0x04, 0x07, 0x08] ∨ (s.core c).ownsLanes slot = true →
      exec (.taskDrainEnd c) s = .next (u.settle s))
    ∧ (st.draws task.k task.len = true → st.opcode ∉ [0x04, 0x07, 0x08] → (s.core c).ownsLanes slot = false →
      exec (.taskDrainEnd c) s = .next (s.settle s))
    ∧ (u.core c).slots.find slot = none)
  ∧ (∀ (s : State) (c slot : Nat) (st : Stage) (task : Task),
    (s.preemptor c st.cls = none → s.preemptAt c slot st task = s.setTask c slot task)
    ∧ (∀ h, s.preemptor c st.cls = some h → h.st = .waiting ∧ st.cls < s.taskClass h)
    ∧ (task.refused = true → s.preemptAt c slot st task = s.setTask c slot task)
    ∧ (∀ h, s.preemptor c st.cls = some h → task.refused = false → (s.core c).freeFrameNo = none →
      s.preemptAt c slot st task = (s.setTask c slot { task with refused := true }).tick1 dspPreemptRefused)
    ∧ (∀ h j, s.preemptor c st.cls = some h → task.refused = false → (s.core c).freeFrameNo = some j →
      (s.stage task.stage).isSome →
      s.preemptAt c slot st task = (s.suspend c slot j task).markPreempted h.stage
      ∧ ∃ x, ((s.suspend c slot j task).core c).slots.find slot = some x ∧ x.st = .suspended ∧ x.frame = some j ∧ x.stage = task.stage)))

/-! ### Stages that order others (spec/04, 06) -/

/-- SPILL_HINT spills the tiles it names, then completes with OK (spec/06 R165); an arrival time-out lets the stage issue no further tile
and report PARTIAL (spec/05 R140). FENCE and BARRIER (spec/04 R116-R118, spec/11 R318): a fence whose earlier stages are complete
completes with OK where none has failed since the fence before, and with ABORTED_BY_FENCE, as do the stages up to the next fence, where
one has and FAIL_POLICY is ABORT; a SYSTEM fence waits for the windows its ring has opened, takes their flags, and counts a window that
has not ended OK as a failure. A barrier arrives and waits while arrivals are fewer than COUNT; the last completes all; a COUNT that
disagrees is LENGTH_RANGE. A fence or a barrier whose order is not met waits. -/
def Obligations.OrderingStages : Prop :=
  ((∀ (s : State) (n : Nat) (st : Stage), s.stage n = some st → st.opcode = 0x15 → st.phase = .running →
    exec (.spillHintRun n) s = .next (((((List.range 96).filter (s.maskHas (field st.desc 0xE4 12))).foldl (fun s c =>
      (s.hintTiles st.secure c (op1 st.desc 0xE0)).foldl (fun s u => match u with
        | .tile key i => s.spillTile c key i
        | .scores _ => s) s) s).finishWorst n 0).settle s))
  ∧ (∀ (s : State) (n : Nat) (st : Stage), s.stage n = some st → st.opcode = 0x15 → st.phase = .running → st.met = [] →
    s.kv.runs.find n = none → (∀ c, s.hintTiles st.secure c (op1 st.desc 0xE0) = []) →
    ∃ t x, exec (.spillHintRun n) s = .next t ∧ t.stage n = some x ∧ x.phase = .complete ∧ x.status = 0 ∧ t.mem.cells = s.mem.cells)
  ∧ (∀ (s : State) (n : Nat) (st : Stage), s.stage n = some st → st.phase = .running → st.arrival.isSome → cArrTimeout st.chain ≠ 0 →
    st.noIssue = false → st.issued.length < (gridFor st.desc).r * (gridFor st.desc).c → 0x0B ∉ st.met →
    exec (.arrivalTimeout n) s = .next ((s.setStage n { st with noIssue := true }).setStage n
      { st with noIssue := true, met := st.met ++ [0x0B] } |>.settle s)))
  ∧ ((∀ (s u : State) (n : Nat) (st : Stage) (system failed : Prop), s.stage n = some st → st.isFence = true → s.fenceReady st = true →
    (system ↔ op1 st.desc 0xE0 = 1) →
    (failed ↔ (∃ q ∈ (s.ring st.ring).failed, (s.ring st.ring).sinceFence q = true ∧ seqBefore q st.seq = true)
      ∨ (system ∧ ∃ w ∈ s.lnk.outWins, w.before st.ring st.seq = true ∧ (s.ring st.ring).sinceFence w.seq = true ∧ w.status ≠ some 0)) →
    (¬ system → u = s) →
    (system → u = ({ s with lnk := { s.lnk with outWins := s.lnk.outWins.filter (fun w => !w.before st.ring st.seq) } } : State).raise n
      ((s.lnk.outWins.filter (fun w => w.before st.ring st.seq)).foldl (fun (f : Flags) (w : OutWin) => f ||| w.flags) 0)) →
    (system → ∀ w ∈ s.lnk.outWins, w.before st.ring st.seq = true → w.status.isSome) →
    (¬ failed ∨ op1 st.desc 0xE1 ≠ 1 →
      exec (.fenceComplete n) s = .next (((u.finish n 0).fencePassed st.ring st.seq).settle s))
    ∧ (failed → op1 st.desc 0xE1 = 1 →
      exec (.fenceComplete n) s
        = .next ((((u.finish n 0x0C).fencePassed st.ring st.seq).abortUpTo st.ring st.seq).settle s)))
  ∧ (∀ (s : State) (n : Nat) (st : Stage), s.stage n = some st → st.isFence = true → s.fenceReady st = true → s.kv.runs = [] →
    (op1 st.desc 0xE0 = 0 → (s.ring st.ring).failed = [] →
      ∃ t x, exec (.fenceComplete n) s = .next t ∧ t.stage n = some x ∧ x.phase = .complete ∧ x.status = 0
        ∧ (t.ring st.ring).lastFence = some st.seq ∧ t.mem.cells = s.mem.cells ∧ t.lnk = s.lnk)
    ∧ (op1 st.desc 0xE0 = 0 → op1 st.desc 0xE1 = 1 →
      (∃ q ∈ (s.ring st.ring).failed, (s.ring st.ring).sinceFence q = true ∧ seqBefore q st.seq = true) →
      ∃ t x, exec (.fenceComplete n) s = .next t ∧ t.stage n = some x ∧ x.phase = .complete ∧ x.status = 0x0C
        ∧ (t.ring st.ring).lastFence = some st.seq)
    ∧ (op1 st.desc 0xE0 = 1 → (∃ w ∈ s.lnk.outWins, w.before st.ring st.seq = true ∧ w.status = none) →
      exec (.fenceComplete n) s = .next (s.settle s)))
  ∧ (∀ (s : State) (n : Nat) (st : Stage), s.stage n = some st → s.fenceReady st = false →
    exec (.fenceComplete n) s = .next (s.settle s) ∧ exec (.barrierArrive n) s = .next (s.settle s))
  ∧ (∀ (s : State) (n : Nat) (st : Stage) (g : BarrierGen), s.stage n = some st → st.isBarrier = true → s.fenceReady st = true →
    g = s.dsp.barriers.get ⟨op2 st.desc 0xE2, []⟩ (st.secure, op2 st.desc 0xE0) → n ∉ g.arrived →
    (g.count = op2 st.desc 0xE2 → g.arrived.length + 1 < g.count →
      ∃ t x, exec (.barrierArrive n) s = .next t ∧ t.stage n = some x ∧ x.phase = .running
        ∧ t.dsp.barriers.get ⟨0, []⟩ (st.secure, op2 st.desc 0xE0) = ⟨g.count, g.arrived ++ [n]⟩)
    ∧ (g.count = op2 st.desc 0xE2 → g.count ≤ g.arrived.length + 1 → s.kv.runs = [] → (∀ m ∈ g.arrived, (s.stage m).isSome) →
      ∃ t, exec (.barrierArrive n) s = .next t ∧ (∀ m ∈ g.arrived ++ [n], (t.stage m).map Stage.done = some true)
        ∧ t.dsp.barriers.find (st.secure, op2 st.desc 0xE0) = none)
    ∧ (g.count ≠ op2 st.desc 0xE2 → s.kv.runs.find n = none →
      ∃ t x, exec (.barrierArrive n) s = .next t ∧ t.stage n = some x ∧ x.phase = .complete ∧ x.status = 2
        ∧ t.dsp.barriers = s.dsp.barriers)))

/-! ### Key-value store (spec/07) -/

/-- Appends and releases (spec/07 R193-R197, R204-R207): an append whose turn it is reads its sequence table and works through its entries;
at its completion every token is visible; a table that cannot be read ends the stage, of an append or of a release. One whose turn it is
not waits. A release marks its pages and sequences RELEASING, waits for its readers, and then each page is FREE with its generation
moved on. A KV_RELEASE that completes while no release waits for its readers leaves no FROZEN sequence in its world (R206). -/
def Obligations.KeyValueStages : Prop :=
  (∀ (s s' : State) (n : Nat) (st : Stage) (tab : List Byte), s.stage n = some st → st.phase = .running → s.kvTurn n st = true →
    (st.opcode = 0x09 → s.readTable n st (dTd st.desc 0).n = (.inl tab, s') →
      exec (.kvAppendStart n) s = .next (
        let r := (List.range (dTd st.desc 0).n).foldl
          (fun (acc : List Byte × State) i => acc.2.appendEntry n st acc.1 i) (tab, s')
        (r.2.setTable n r.1).settle s))
    ∧ (st.opcode = 0x0B → s.readTable n st (op2 st.desc 0xE2) = (.inl tab, s') →
      exec (.kvReleaseStart n) s = .next (
        let r := (List.range (op2 st.desc 0xE2)).foldl (fun acc i => s'.releaseEntry st acc i) (tab, [], [])
        (((s'.setTable n r.1).countTable st.secure r.1).startRelease (some n) st.secure r.2.1 r.2.2).settle s))
    ∧ (∀ status, st.opcode = 0x09 → s.readTable n st (dTd st.desc 0).n = (.inr status, s') →
      exec (.kvAppendStart n) s = .next ((s'.failTable n ((s'.stage n).getD st) status).settle s))
    ∧ (∀ status, st.opcode = 0x0B → s.readTable n st (op2 st.desc 0xE2) = (.inr status, s') →
      exec (.kvReleaseStart n) s = .next ((s'.failTable n ((s'.stage n).getD st) status).settle s)))
  ∧ (∀ (s : State) (n : Nat) (st : Stage), s.stage n = some st → s.kvTurn n st = false →
    exec (.kvAppendStart n) s = .next (s.settle s) ∧ exec (.kvReleaseStart n) s = .next (s.settle s))
  ∧ (∀ (s : State) (n : Nat) (st : Stage) (r : KvRun), s.stage n = some st → s.kv.runs.find n = some r → st.phase = .running →
    st.opcode = 0x09 →
    exec (.kvAppendComplete n) s = .next ((s.showAppended.finishWorst n (tableStatus r.table)).settle s)
    ∧ (∀ k key, ((s.showAppended.kvSeq k).winds.get {} key).visible
        = if (((s.kvSeq k).winds.find key).isSome) then
            ((s.kvSeq k).winds.get {} key).first + ((s.kvSeq k).winds.get {} key).toks.length else 0))
  ∧ (∀ (s : State) (n : Nat) (r : KvRelease), s.kv.releases = [r] → r.stage = some n ∨ r.stage = none → r.readers = [] →
    exec (.kvReleaseComplete n) s = .next ((({ s with kv := { s.kv with releases := [] } } : State).endRelease r).settle s))
  ∧ (∀ (s : State) (n : Nat), (∀ r ∈ s.kv.releases, r.readers ≠ []) → exec (.kvReleaseComplete n) s = .next (s.settle s))
  ∧ (∀ (s : State) (stage : Option Nat) (secure : Bool) (pages seqs : List Nat) (m : Nat) (st : Stage), s.stage m = some st →
    st.phase = .admitted ∨ st.phase = .running → st.secure = secure → st.opcode = 0x02 ∨ st.opcode = 0x0A →
    ∃ r, (s.startRelease stage secure pages seqs).kv.releases = s.kv.releases ++ [r] ∧ r.stage = stage ∧ r.pages = pages
      ∧ r.seqs = seqs ∧ m ∈ r.readers)
  ∧ (∀ (s : State) (secure : Bool) (p : Nat),
    ((s.releasePage secure p).kvPool secure).pages.get {} p
      = { ((s.kvPool secure).pages.get {} p) with st := .releasing, relAt := s.dsp.admCount }
    ∧ ((s.freePage secure p).kvPool secure).pages.get {} p = { gen := ((s.kvPool secure).pages.get {} p).gen + 1 })
  ∧ (∀ (s : State) (n status k : Nat) (st : Stage), s.stage n = some st → st.phase = .admitted ∨ st.phase = .running → st.opcode = 0x0B →
    (∀ r ∈ s.kv.releases, r.stage ≠ some n) → ((s.finish n status).kvSeq k).st = .frozen →
    ((s.finish n status).kvSeq k).secure ≠ st.secure)

/-! ### Light links (spec/11) -/

/-- Frames and flits that arrive on an ACTIVE port (spec/11 R293-R299, R304, R314, R317): a frame counts, its flits are those that follow,
damaged where they lie in an uncorrectable codeword, and frame 2^44 makes the port retrain. A control flit with a good CRC and TAG and the
SEQ expected is accepted and its messages go where they are addressed; a damaged one, one with a bad CRC or TAG, or with another SEQ is
answered with the SEQ expected; one in the stream of a LOST peer is discarded (R328). The replay timer sends the unacknowledged flits
again; credits owed go back, and an acknowledgement due goes out, while fewer than 512 flits wait for theirs. A data flit, deciphered with
the port's key at its place (R295), is taken by the row of its KIND; one whose KIND is not listed comes with any row. It frees its buffer
and is applied by the window that takes it, or dropped and counted where none does, or where the port carries WELOC and KEY only (spec/18
R479); one for another device is forwarded; one for an engine without power waits at its gate (spec/17 R458). -/
def Obligations.FlitsArrive : Prop :=
  (∀ (s u : State) (p corrected : Nat) (bad types : List Nat), (s.port p).st = .active →
    u = (((s.setPort p { s.port p with
        frame := (s.port p).frame + 1
        arriving := ((List.range (s.port p).perFrame).map (fun n => (types.getD n 0, (s.port p).frame, n,
          (codewordsOf n).any (fun w => bad.contains w)))).filter (fun f => f.1 == 1 || f.1 == 2) }).bump
      (lnkPort p lnkFecCorr) corrected).bump (lnkPort p lnkFecUncorr) bad.length).bump (lnkPort p lnkBadType)
        (types.filter (· == 3)).length →
    exec (.linkFrameRx p corrected bad types) s
      = .next ((if 2 ^ 44 ≤ (s.port p).frame + 1 then u.portRetrain p 4 else u).settle s))
  ∧ (∀ (s s' u : State) (p d frame n seq : Nat) (damaged : Bool) (bytes : List Byte), (s.port p).st = .active →
    s.farEnd p = some d → s.arrival p 1 = ((frame, n, damaged), s') → u = s'.tick1 (lnkPort p lnkRx) →
    seq = extSeq (s.peer d).recvSeq (field bytes 2 2) →
    ((s.peer d).st = .lost → exec (.controlFlitRx p bytes) s = .next (u.settle s))
    ∧ ((s.peer d).st ≠ .lost → damaged = true → exec (.controlFlitRx p bytes) s = .next ((u.sendNak d).settle s))
    ∧ ((s.peer d).st ≠ .lost → damaged = false →
      (field bytes 0xFC 4 ≠ crc32c (bytes.take 0xFC) →
        exec (.controlFlitRx p bytes) s = .next (((u.tick1 (lnkPort p lnkCrcFail)).sendNak d).settle s))
      ∧ (field bytes 0xFC 4 = crc32c (bytes.take 0xFC) →
        ((bytes.drop 0xE8).take 16 ≠ ctrlTag (s.port p).key seq (bytes.take 0xE8) →
          exec (.controlFlitRx p bytes) s = .next (((u.tagFail p).sendNak d).settle s))
        ∧ ((bytes.drop 0xE8).take 16 = ctrlTag (s.port p).key seq (bytes.take 0xE8) →
          (seq ≠ (s.peer d).recvSeq → exec (.controlFlitRx p bytes) s = .next ((u.sendNak d).settle s))
          ∧ (∀ msgs, seq = (s.peer d).recvSeq →
            msgs = messagesOf 14 ((bytes.drop 8).take (min 224 (field bytes 1 1))) →
            exec (.controlFlitRx p bytes) s
              = .next (((if s.carriesAll p then msgs else msgs.filter (fun m => field m 0 1 == 0x0C
                && (field m 2 2 == 0xFFFF || field m 2 2 == s.lnk.devid))).foldl State.routeMsg
                  (((u.setPeer d { s.peer d with
                    recvSeq := (s.peer d).recvSeq + 1, ackDue := (s.peer d).ackDue || !msgs.isEmpty }).makePresent d).takeAck p d
                      bytes)).settle s))))))
  ∧ (∀ (s : State) (d : Nat), (∀ p, p < 32 → (s.port p).mismatched = true → (s.port p).peer ≠ some d) →
    exec (.controlReplayTimeout d) s = .next ((s.resendFrom d 0).settle s))
  ∧ (∀ (s : State) (p d : Nat), (s.port p).st = .active → s.farEnd p = some d →
    ((s.peer d).sent.length < 512 → 0 < (s.port p).owed →
      exec (.creditReturn p) s = .next ((s.transmit d [] false (some p)).settle s))
    ∧ ((s.peer d).sent.length < 512 → (s.port p).owed = 0 → (s.peer d).ackDue = true →
      exec (.creditReturn p) s = .next ((s.transmit d []).settle s))
    ∧ (512 ≤ (s.peer d).sent.length ∨ ((s.port p).owed = 0 ∧ (s.peer d).ackDue = false) →
      exec (.creditReturn p) s = .next (s.settle s)))
  ∧ (∀ (s s' u freed : State) (p frame n kind h : Nat) (damaged : Bool) (bytes clear : List Byte) (c : Instr),
    (s.port p).st = .active → kind ≤ 3 →
    c = (if kind = 0 then Instr.dataFlitWrite p bytes else if kind = 1 then .dataFlitAtomic p bytes
      else if kind = 2 then .dataFlitReadData p bytes else .dataFlitReadPoison p bytes) →
    s.arrival p 2 = ((frame, n, damaged), s') → clear = s'.linkCipher p frame n false bytes → u = s'.tick1 (lnkPort p lnkRx) →
    freed = u.setPort p { u.port p with owed := (u.port p).owed + 1 } → h = field clear 0 2 % 4096 →
    (field clear 6 1 ≠ kind → field clear 6 1 ≤ 3 → exec c s = .next (s.settle s))
    ∧ (field clear 6 1 = kind ∨ 3 < field clear 6 1 →
      (s.carriesAll p = false → exec c s = .next ((freed.tick1 lnkWinDrop).settle s))
      ∧ (s.carriesAll p = true → field clear 2 2 % 1024 ≠ s.lnk.devid → exec c s = .next ((freed.forwardFlit clear).settle s))
      ∧ (s.carriesAll p = true → field clear 2 2 % 1024 = s.lnk.devid →
        (∀ dom, u.flitGate clear = some dom → exec c s = .next ((({ u with lnk := { u.lnk with
          gated := u.lnk.gated ++ [(dom, p, clear)] } } : State).knock dom).settle s))
        ∧ (∀ w, u.flitGate clear = none → s.window h = some w → w.takes clear = true →
          exec c s = .next ((freed.applyFlit h w clear).settle s))
        ∧ (u.flitGate clear = none → s.window h = none ∨ (∃ w, s.window h = some w ∧ w.takes clear = false) →
          exec c s = .next ((freed.tick1 lnkWinDrop).settle s)))))

/-- Bytes that a WRITE flit brings within one line that the hedgerow passes, that is not poisoned and whose memory answers, are found by
every reader, and its window counts them (spec/11 R294, R317). -/
def Obligations.FlitsLand : Prop :=
  ∀ (s : State) (h : Nat) (w : LinkWindow) (bytes : List Byte) (a n : Nat), s.Inv → s.window h = some w → w.home = .memory →
    field bytes 6 1 = 0 → a = w.base + field bytes 10 6 → n = ((bytes.drop 16).take (field bytes 8 1 + 1)).length →
    0 < n → a % 256 + n ≤ 256 →
    w.total = none → s.place a ≠ .reserved → s.place a ≠ .host → touches s.kvExtents a n = false →
    touches s.poolExtents a n = false → hedge ((s.regionAt a).map Prod.snd) w.secure 0x7E = 0 → s.poisoned (a / 256) = false →
    s.lineAway (a / 256) = false → s.lineOut (a / 256) = false →
    (s.applyFlit h w bytes).window h = some { w with applied := w.applied + n }
    ∧ ∀ i, i < n → (s.applyFlit h w bytes).peek (a + i) = bytes.getD (16 + i) 0

/-- Peers (spec/11 R307-R310, Table 11.9): a HELLO in another domain, or before the port is ACTIVE, is counted; one with this device's
DEVID, or with that of a PRESENT peer of another serial number, is refused and logged; an accepted one makes an ABSENT peer JOINING, a
JOINING one PRESENT, and a PRESENT or LOST one with a higher incarnation JOINING; LEAVE, silence and a lost route make a PRESENT peer
LOST, and a LOST one is ABSENT in time. HELLOs go out on every ACTIVE port, TIMEs to every direct PRESENT peer; a TIME of another peer
than the one followed leaves its stamp only, one of the peer followed sets the clock to follow as well. Following the time master
(spec/11 R310): before the first exchange since this device became PRESENT its clock ahead by more than 1 ms moves device time forward;
otherwise device time slews towards it, by no more than one nanosecond in 10,000, and never runs backwards. A message whose length is not
that of its kind is counted and has no other effect, from whom it may come; a good ROUTE_DROP has none here (spec/11 R297, R311). -/
def Obligations.PeersAndTime : Prop :=
  ((∀ (s : State) (p src : Nat) (body : List Byte), (s.port p).st ≠ .active →
    exec (.hello p src body) s = .next ((s.tick1 (lnkPort p lnkHelloEarly)).settle s))
  ∧ (∀ (s : State) (p src : Nat) (body : List Byte), (s.port p).st = .active → s.fatal = false → msgOk 0x01 body = true →
    field (msgBody body) 4 4 = s.lnk.domain → field (msgBody body) 0 2 ≠ s.lnk.devid →
    (s.present (field (msgBody body) 0 2) = true → (s.peer (field (msgBody body) 0 2)).serial = field (msgBody body) 12 8) →
    exec (.hello p src body) s
      = .next (((s.tick1 (lnkPort p lnkRx)).takeHello p (field (msgBody body) 0 2) (msgBody body)).settle s))
  ∧ (∀ (s u : State) (p src : Nat) (body : List Byte), (s.port p).st = .active → s.fatal = false → msgOk 0x01 body = true →
    field (msgBody body) 4 4 = s.lnk.domain →
    field (msgBody body) 0 2 = s.lnk.devid ∨ (s.present (field (msgBody body) 0 2) = true
      ∧ (s.peer (field (msgBody body) 0 2)).serial ≠ field (msgBody body) 12 8) →
    u = (s.tick1 (lnkPort p lnkRx)).refuseHello p (msgBody body) →
    exec (.hello p src body) s = .next ((({ u with lnk := { u.lnk with dupDevid := true } } : State).log 0x0205 p
      (field (msgBody body) 0 2)).settle s))
  ∧ (∀ (s : State) (p src : Nat) (body : List Byte), (s.port p).st = .active →
    (s.fatal = true → exec (.hello p src body) s = .next ((s.tick1 (lnkPort p lnkRx)).settle s))
    ∧ (s.fatal = false → msgOk 0x01 body = false →
      exec (.hello p src body) s = .next (((s.tick1 (lnkPort p lnkRx)).tick1 lnkBadMsg).settle s)))
  ∧ (∀ (s : State) (p src : Nat) (body : List Byte), (s.port p).st = .active → s.fatal = false → msgOk 0x01 body = true →
    field (msgBody body) 4 4 ≠ s.lnk.domain →
    exec (.hello p src body) s
      = .next ((((s.tick1 (lnkPort p lnkRx)).refuseHello p (msgBody body)).tick1 lnkDomainMismatch).settle s)
    ∧ ((s.refuseHello p (msgBody body)).port p).mismatched = true ∧ (∀ d, d < 1024 → (s.port p).mismatched = false →
      p ∉ ((s.refuseHello p (msgBody body)).peer d).ports))
  ∧ (∀ (s : State) (p d : Nat) (b : List Byte), d < 1024 →
    ((s.peer d).st = .absent → ((s.takeHello p d b).peer d).st = .joining)
    ∧ ((s.peer d).st = .joining → ((s.takeHello p d b).peer d).st = .present)
    ∧ ((s.peer d).st = .lost → field b 8 4 ≤ (s.peer d).incarnation → ((s.takeHello p d b).peer d).st = .lost)
    ∧ ((s.peer d).st = .lost ∨ (s.peer d).st = .present → (s.peer d).incarnation < field b 8 4 →
      ((s.takeHello p d b).peer d).st = .joining ∧ ((s.takeHello p d b).peer d).recvSeq = 0)
    ∧ ((s.takeHello p d b).port p).peer = some d)
  ∧ (∀ (s : State) (d : Nat), (s.peer d).st = .present →
    exec (.leave d) s = .next ((s.losePeer d 2).settle s)
    ∧ ((s.peer d).ports.any s.isActive = true → exec (.peerTimeout d) s = .next ((s.losePeer d 0).settle s))
    ∧ (s.routeUp d = false →
      exec (.retrainGraceExpiry d) s
        = .next (((s.losePeer d (if (s.peer d).ports.isEmpty then 4 else 1)).dropHeld d).settle s))
    ∧ ∀ cause, ((s.losePeer d cause).peer d).st = .lost ∧ ((s.losePeer d cause).peer d).ports = []
        ∧ (∀ w ∈ (s.losePeer d cause).lnk.windows, w.2.peer ≠ d))
  ∧ (∀ (s : State) (d : Nat), (s.peer d).st = .lost →
    exec (.peerAbsentTimeout d) s = .next ((s.setPeer d { s.peer d with st := .absent }).settle s))
  ∧ (∀ s : State, exec .dupDevidExpiry s = .next (({ s with lnk := { s.lnk with dupDevid := false } } : State).settle s))
  ∧ (∀ s : State, s.fatal = false →
    exec .helloPeriodTimer s
      = .next ((s.activePorts.foldl (fun s p => (s.tick1 (lnkPort p lnkTx)).emit (.hello p (s.helloBody p))) s).settle s))
  ∧ (∀ s : State, exec .timeExchangeTimer s
      = .next (((s.lnk.peers.filter (fun p => p.2.st == .present && !p.2.ports.isEmpty)).foldl (fun s p =>
          s.sendMsg p.1 0x03 0 (toLE 8 s.time ++ toLE 8 p.2.stamp.1 ++ toLE 8 p.2.stamp.2)) s).settle s))
  ∧ (∀ (s : State) (src : Nat) (body : List Byte), msgOk 0x03 body = true → s.present src = true → s.fatal = false →
    s.timeHops.2 ≠ some src →
    exec (.time src body) s
      = .next ((s.setPeer src { s.peer src with stamp := (field (msgBody body) 0 8, s.time) }).settle s))
  ∧ (∀ (s u : State) (src t echo at_ : Nat) (body : List Byte), msgOk 0x03 body = true → s.present src = true → s.fatal = false →
    t = field (msgBody body) 0 8 → echo = field (msgBody body) 8 8 → at_ = field (msgBody body) 16 8 →
    s.timeHops.2 = some src → echo ≠ 0 → u = s.followTime (t + ((s.time - echo) - (t - at_)) / 2) →
    exec (.time src body) s = .next ((({ u with lnk := { u.lnk with synced := true } } : State).setPeer src
      { s.peer src with stamp := (t, s.time) }).settle s)))
  ∧ ((∀ (s : State) (theirs : Nat), s.lnk.synced = false → s.time + 1000000 < theirs →
    (s.followTime theirs).time = theirs ∧ (s.followTime theirs).lnk.slew = 0)
  ∧ (∀ (s : State) (theirs : Nat), s.lnk.synced = true ∨ theirs ≤ s.time + 1000000 →
    (s.followTime theirs).time = s.time ∧ (s.followTime theirs).lnk.slew = (theirs : Int) - s.time)
  ∧ (∀ s : State, s.time ≤ s.tickTime.time ∧ s.tickTime.time ≤ s.time + 2
    ∧ (s.lnk.slew = 0 → s.tickTime.time = s.time + 1)
    ∧ (s.lnk.slewPhase + 1 < 10000 → s.tickTime.time = s.time + 1)))
  ∧ (∀ (s : State) (src : Nat) (body : List Byte),
    (body.length ≠ 26 → exec (.time src body) s = .next ((s.tick1 lnkBadMsg).settle s)
      ∧ exec (.winReq src body) s = .next ((s.tick1 lnkBadMsg).settle s)
      ∧ exec (.winDone src body) s = .next ((s.tick1 lnkBadMsg).settle s)
      ∧ exec (.readReq src body) s = .next ((s.tick1 lnkBadMsg).settle s)
      ∧ exec (.coll src body) s = .next ((s.tick1 lnkBadMsg).settle s))
    ∧ (body.length ≠ 10 → exec (.winGrant src body) s = .next ((s.tick1 lnkBadMsg).settle s)
      ∧ exec (.winDeny src body) s = .next ((s.tick1 lnkBadMsg).settle s)
      ∧ exec (.winEnd src body) s = .next ((s.tick1 lnkBadMsg).settle s)
      ∧ exec (.readEnd src body) s = .next ((s.tick1 lnkBadMsg).settle s)
      ∧ exec (.routeDrop src body) s = .next ((s.tick1 lnkBadMsg).settle s))
    ∧ (body.length = 10 → exec (.routeDrop src body) s = .next (s.settle s)))

/-- Training (spec/11 R302-R304, spec/16 R448): a part that passes leads to the next, VERIFY before BS16 waits, AUTH makes the port ACTIVE
with its frames and credits anew, but not after an entropy failure (spec/16 R443); one that fails begins the next attempt; a DISABLED port of a READY device trains again; an ACTIVE one
that falls out enters RETRAIN without its key; a KEY fragment is kept while the port is in AUTH. Laser modules (spec/11 R291, spec/20
R517, R518): one inserted is seated and logged; one removed takes the ACTIVE ports it feeds into RETRAIN; seated for 100 ms it is
released, and once its BS14 is over its outputs are on while one of its ports is enabled. -/
def Obligations.PortsAndLasers : Prop :=
  ((∀ (s : State) (p : Nat),
    ((s.port p).st = .calibrate → exec (.portCalibrateEnd p true) s = .next ((s.setPort p { s.port p with st := .align }).settle s)
      ∧ exec (.portCalibrateEnd p false) s = .next ((s.portFail p).settle s)
      ∧ exec (.portTrainTimeout p) s = .next (if (s.port p).waitAuth then s.settle s else (s.portFail p).settle s))
    ∧ ((s.port p).st = .align → exec (.portAlignEnd p true) s = .next ((s.setPort p { s.port p with st := .verify }).settle s)
      ∧ exec (.portAlignEnd p false) s = .next ((s.portFail p).settle s))
    ∧ ((s.port p).st = .verify → (s.port p).waitAuth = false →
      (s.boot.authOpen = false → exec (.portVerifyEnd p true) s = .next ((s.setPort p { s.port p with waitAuth := true }).settle s))
      ∧ (s.boot.authOpen = true →
        exec (.portVerifyEnd p true) s = .next (((s.setPort p { s.port p with st := .auth }).enterAuth p).settle s))
      ∧ exec (.portVerifyEnd p false) s = .next ((s.portFail p).settle s))
    ∧ ((s.port p).st = .auth →
      (s.sec.entropyFail = false → exec (.portAuthEnd p true) s = .next ((s.portActive p).settle s))
      ∧ (s.sec.entropyFail = true → exec (.portAuthEnd p true) s = .next (s.settle s))
      ∧ exec (.portAuthEnd p false) s = .next (((s.tick1 (lnkPort p lnkAuthFail)).portFail p).settle s)
      ∧ (∀ body, msgOk 0x0D body = true → exec (.key p body) s = .next ((((s.tick1 (lnkPort p lnkRx)).setPort p { s.port p with
          keyIn := (s.port p).keyIn ++ [(field (msgBody body) 0 1, field (msgBody body) 2 2, ((msgBody body).drop 4).take 20)] }).sendProof
            p).settle s)))
    ∧ ((s.port p).st ≠ .auth → (s.port p).st ≠ .retrain → ∀ body,
      exec (.key p body) s = .next ((if msgOk 0x0D body then s.tick1 (lnkPort p lnkRx)
        else (s.tick1 (lnkPort p lnkRx)).tick1 lnkBadMsg).settle s))
    ∧ ((s.port p).st = .retrain → (s.port p).sub = .calibrate →
      exec (.portCalibrateEnd p true) s = .next ((s.setPort p { s.port p with sub := .align }).settle s))
    ∧ ((s.port p).st = .active → ∀ cause : RetrainCause,
      exec (.portRetrainEntry p cause) s = .next ((s.portRetrain p (causeCode cause)).settle s)
      ∧ ((s.portRetrain p (causeCode cause)).port p).st = .retrain ∧ ((s.portRetrain p (causeCode cause)).port p).key = none
      ∧ exec (.microringRecal p) s = .next ((s.setPort p { s.port p with recal := true }).settle s))
    ∧ exec (.microringRecalEnd p) s = .next ((s.setPort p { s.port p with recal := false }).flushHeld.settle s)
    ∧ ((s.port p).st = .disabled → s.hif.notReady = false →
      exec (.portRetryTimer p) s = .next ((s.portTrain p).settle s)
      ∧ (s.portEnabled p = true → (s.laserOf p).outputs = true → ((s.portTrain p).port p).st = .calibrate
        ∧ ((s.portTrain p).port p).attempt = 0)))
  ∧ (∀ (s : State) (p : Nat),
    ((s.portActive p).port p).st = .active ∧ ((s.portActive p).port p).frame = 0
    ∧ (s.lnk.held = [] → ((s.portActive p).port p).credits = 2048))
  ∧ (∀ (s : State) (p : Nat), (s.boot.running.find (15, 1 + p)) = none → s.portEnabled p = true → (s.laserOf p).outputs = true →
    (s.port p).attempt < 2 →
    s.portFail p = s.setPort p { s.port p with
      st := .calibrate, attempt := (s.port p).attempt + 1, high := decide (2 ≤ (s.port p).alt) }))
  ∧ (∀ (s : State) (k : Nat), k < s.lnk.lasers.length →
    exec (.laserModuleInsert k) s
      = .next ((({ s with lnk := { s.lnk with lasers := s.lnk.lasers.set k { seated := true } } } : State).log 0x0206 k 1).settle s)
    ∧ (∃ t, exec (.laserModuleRemove k) s = .next t ∧ t.lnk.lasers.getD k {} = {}
      ∧ (∀ p, 8 * k ≤ p → p < 8 * k + 8 → (t.port p).st ≠ .active))
    ∧ ((s.lnk.lasers.getD k {}).seated = true → (s.lnk.lasers.getD k {}).released = false →
      s.boot.ended.contains (14, 1 + k) = false →
      exec (.laserPresenceTimer k) s = .next (({ s with lnk := { s.lnk with
          lasers := s.lnk.lasers.set k { (s.lnk.lasers.getD k {}) with released := true, ready := true } } } : State).settle s))
    ∧ ((s.lnk.lasers.getD k {}).seated = true → (s.lnk.lasers.getD k {}).released = false →
      s.boot.ended.contains (14, 1 + k) = true →
      ∃ t, exec (.laserPresenceTimer k) s = .next t ∧ (t.lnk.lasers.getD k {}).released = true
        ∧ (t.lnk.lasers.getD k {}).outputs = (range (8 * k) 8).any s.portEnabled))

/-- Window and read messages from a PRESENT peer (spec/11 R313, R314, R317, R319): a request that passes its checks is granted the lowest
free handle, behind others that wait or with no handle free it waits, one that fails is denied; WIN_END closes a window whose bytes are
all applied, or waits for them until its time is over; WIN_DONE, WIN_GRANT and WIN_DENY reach the stage they answer, which after a denial
goes on and sends nothing (spec/04 R102); a read that passes its checks is served in flits and ended, one that fails is ended with their
status; the end of a read marks the run it serves whole, or refused with its status. -/
def Obligations.Windows : Prop :=
  (∀ (s : State) (src : Nat) (body : List Byte), s.present src = true → s.fatal = false → body.length = 26 →
    (∀ h, s.windowCheck (bit (field (msgBody body) 11 1) 0) (field (msgBody body) 0 6) (field (msgBody body) 6 5) = 0 →
      s.lnk.winWait = [] → s.freeHandle = some h →
      exec (.winReq src body) s = .next (((s.setWindow h
        { peer := src, base := field (msgBody body) 0 6, length := field (msgBody body) 6 5
          secure := bit (field (msgBody body) 11 1) 0, cls := field (msgBody body) 12 1 % 8
          kind := field (msgBody body) 13 1, tag := msgTag body }).sendMsg src 0x05 (msgTag body) (toLE 2 h)).settle s)
      ∧ s.window h = none ∧ h < 4096)
    ∧ (s.windowCheck (bit (field (msgBody body) 11 1) 0) (field (msgBody body) 0 6) (field (msgBody body) 6 5) = 0 →
      s.lnk.winWait ≠ [] ∨ s.freeHandle = none →
      exec (.winReq src body) s = .next (({ s with lnk := { s.lnk with
        winWait := s.lnk.winWait ++ [(src, msgTag body, msgBody body)] } } : State).settle s))
    ∧ (s.windowCheck (bit (field (msgBody body) 11 1) 0) (field (msgBody body) 0 6) (field (msgBody body) 6 5) = 3 →
      exec (.winReq src body) s = .next ((s.sendMsg src 0x06 (msgTag body) (toLE 1 3)).settle s))
    ∧ (s.windowCheck (bit (field (msgBody body) 11 1) 0) (field (msgBody body) 0 6) (field (msgBody body) 6 5) = 4 →
      exec (.winReq src body) s = .next (((s.deny (bit (field (msgBody body) 11 1) 0) 0x7E (field (msgBody body) 0 6)).sendMsg src
        0x06 (msgTag body) (toLE 1 4)).settle s))
    ∧ (∃ t, exec (.winDone src body) s = .next t
      ∧ t.lnk.outWins = s.lnk.outWins.map (fun (w : OutWin) =>
          if w.peer = src ∧ w.handle = field (msgBody body) 0 2 ∧ w.status.isNone then
            { w with status := some (field (msgBody body) 8 1), flags := BitVec.ofNat 32 (field (msgBody body) 9 4) }
          else w)
      ∧ t.lnk.windows = s.lnk.windows ∧ t.dsp = s.dsp ∧ t.mem = s.mem)
    ∧ (∀ win base len off, base = field (msgBody body) 0 6 → len = field (msgBody body) 6 4 → win = field (msgBody body) 10 2 →
      off = field (msgBody body) 12 6 → len ≤ 2 ^ 20 → s.windowCheck (bit (field (msgBody body) 18 1) 0) base len = 0 →
      exec (.readReq src body) s = .next (((s.serveRead src win off (field (msgBody body) 19 1 % 8)
        (bit (field (msgBody body) 18 1) 0) base len).sendMsg src 0x0A (msgTag body) (toLE 2 win ++ toLE 1 0)).settle s))
    ∧ (∀ st, st = (if 2 ^ 20 < field (msgBody body) 6 4 then 3
        else s.windowCheck (bit (field (msgBody body) 18 1) 0) (field (msgBody body) 0 6) (field (msgBody body) 6 4)) → st ≠ 0 →
      exec (.readReq src body) s = .next (((if st = 4
        then s.deny (bit (field (msgBody body) 18 1) 0) 0x7E (field (msgBody body) 0 6) else s).sendMsg src 0x0A (msgTag body)
          (toLE 2 (field (msgBody body) 10 2) ++ toLE 1 st)).settle s)))
  ∧ (∀ (s : State) (src : Nat) (body : List Byte) (w : LinkWindow), s.present src = true → s.fatal = false → body.length = 10 →
    s.window (field (msgBody body) 0 2) = some w → w.peer = src → w.home = .memory →
    (field (msgBody body) 2 6 ≠ w.applied →
      exec (.winEnd src body) s
        = .next ((s.setWindow (field (msgBody body) 0 2) { w with total := some (field (msgBody body) 2 6) }).settle s))
    ∧ (field (msgBody body) 2 6 = w.applied →
      exec (.winEnd src body) s
        = .next (((s.setWindow (field (msgBody body) 0 2) { w with total := some w.applied }).doneWindow
            (field (msgBody body) 0 2)).settle s)))
  ∧ (∀ (s : State) (src : Nat) (body : List Byte), s.present src = true → s.fatal = false → body.length = 10 →
    (∀ w, s.window (field (msgBody body) 0 2) = some w → w.peer ≠ src ∨ w.home ≠ .memory) →
    exec (.winEnd src body) s = .next (s.settle s))
  ∧ (∀ (s : State) (h : Nat) (w : LinkWindow), s.window h = some w → w.total.isSome →
    exec (.winDoneTimeout h) s = .next ((s.doneWindow h).settle s)
    ∧ (s.lnk.winWait = [] → (s.doneWindow h).window h = none))
  ∧ (∀ (s : State) (src n : Nat) (body : List Byte) (run : CopyRun), s.present src = true → s.fatal = false → body.length = 10 →
    s.lnk.copies.find? (fun p => !p.2.reading && p.2.peer == some src && p.2.tag == msgTag body && p.2.handle.isNone) = some (n, run) →
    (∀ st, s.stage n = some st →
      exec (.winGrant src body) s = .next (({ s with lnk := { s.lnk with
        copies := s.lnk.copies.put n { run with handle := some (field (msgBody body) 0 2) }
        outWins := s.lnk.outWins ++ [{ ring := st.ring, seq := st.seq, peer := src, handle := field (msgBody body) 0 2 }] } }
          : State).startPieces.settle s))
    ∧ (∀ u, u = s.meet (some n) (field (msgBody body) 0 1) →
      exec (.winDeny src body) s = .next (({ u with lnk := { u.lnk with
        copies := u.lnk.copies.put n { run with denied := true } } } : State).startPieces.settle s)))
  ∧ (∀ (s : State) (src n : Nat) (body : List Byte) (run : CopyRun), s.present src = true → s.fatal = false → body.length = 10 →
    s.lnk.copies.find? (fun p => p.2.reading && p.2.peer == some src && p.2.runs.any (fun x => x.1 == msgTag body)) = some (n, run) →
    (field (msgBody body) 2 1 = 0 →
      exec (.readEnd src body) s = .next ((({ s with lnk := { s.lnk with copies := s.lnk.copies.put n { run with
        runs := run.runs.map (fun x => if x.1 = msgTag body then (x.1, x.2.1, x.2.2.1, true) else x) } } } : State).settleCopy n).settle s))
    ∧ (field (msgBody body) 2 1 ≠ 0 →
      exec (.readEnd src body) s = .next (((({ s with lnk := { s.lnk with copies := s.lnk.copies.put n { run with
        runs := run.runs.filter (fun x => x.1 != msgTag body) } } } : State).meet (some n) (field (msgBody body) 2 1)).settleCopy n).settle
          s)))

/-- COPY (spec/11 R315-R319): between tensors of this device it starts with no window, and its pieces take free engines; towards a PRESENT
peer it asks for a window; from one it opens a window of its own for the packed source bytes (log 23) and asks for every run; towards or
from one that is not PRESENT it completes with PEER_LOST. A piece on an engine reads, converts and writes its rows, or sends them to the
peer's window, or sends nothing where the window was denied; it waits while flits of the stage wait for a credit or a port (R298). The
last piece ends the stage, of a remote destination once its last flit has left, with WIN_END and the bytes sent (R317). -/
def Obligations.Copies : Prop :=
  (∀ (s : State) (n : Nat) (st : Stage), s.stage n = some st → st.phase = .running → st.opcode = 0x0C → s.lnk.copies.find n = none →
    ((dTd st.desc 2).devid = s.lnk.devid → (dTd st.desc 0).devid = s.lnk.devid →
      exec (.copyStart n) s
        = .next (({ s with lnk := { s.lnk with copies := s.lnk.copies.put n {} } } : State).startPieces.settle s))
    ∧ ((dTd st.desc 2).devid ≠ s.lnk.devid → s.present (dTd st.desc 2).devid = true →
      exec (.copyStart n) s = .next ((({ s with lnk := { s.lnk with
        nextTag := (s.lnk.nextTag + 1) % 65536
        copies := s.lnk.copies.put n { peer := some (dTd st.desc 2).devid, tag := s.lnk.nextTag } } } : State).sendMsg
          (dTd st.desc 2).devid 0x04 s.lnk.nextTag (toLE 6 (dTd st.desc 2).lbase ++ toLE 5 (dTd st.desc 2).span
            ++ toLE 1 (b2n st.secure) ++ toLE 1 st.cls ++ toLE 1 (b2n (copyAtomic st.desc)))).settle s))
    ∧ ((dTd st.desc 2).devid ≠ s.lnk.devid → s.present (dTd st.desc 2).devid = false →
      exec (.copyStart n) s = .next ((s.finishWorst n 9).settle s))
    ∧ ((dTd st.desc 2).devid = s.lnk.devid → (dTd st.desc 0).devid ≠ s.lnk.devid →
      (s.present (dTd st.desc 0).devid = false → exec (.copyStart n) s = .next ((s.finishWorst n 9).settle s))
      ∧ (s.present (dTd st.desc 0).devid = true → s.freeHandle = none → exec (.copyStart n) s = .next (s.settle s))
      ∧ (∀ h u run, s.present (dTd st.desc 0).devid = true → s.freeHandle = some h →
        u = s.setWindow h { peer := (dTd st.desc 0).devid, base := (dTd st.desc 2).lbase
                            length := (dTd st.desc 0).rows * (dTd st.desc 0).rowBytes, secure := st.secure
                            cls := st.cls, kind := 2, home := .copy n } →
        run = { peer := some (dTd st.desc 0).devid, reading := true, window := h } →
        exec (.copyStart n) s = .next ((({ u with lnk := { u.lnk with copies := u.lnk.copies.put n run } } : State).requestRuns n st
          (dTd st.desc 0).devid h (sourceRuns (dTd st.desc 0))).settle s))))
  ∧ (∀ (s : State) (n : Nat) (st : Stage) (run : CopyRun), s.stage n = some st → s.lnk.copies.find n = some run →
    (run.busy = 0 → exec (.copyPieceComplete n) s = .next ((if st.ending then s.stopCopy n else s.copyEnd n).settle s))
    ∧ (run.busy ≠ 0 → s.copyHolds run = true → st.ending = false → exec (.copyPieceComplete n) s = .next (s.settle s))
    ∧ (∀ k u, run.busy ≠ 0 → s.copyHolds run = false ∨ st.ending = true → s.copyPiece n st run = (k, u) →
      exec (.copyPieceComplete n) s
        = .next ((if st.ending then (u.pieceDone n k).stopCopy n else (u.pieceDone n k).copyEnd n).settle s))
    ∧ (run.peer = none → s.copyPiece n st run = (0, (pieceRows (dTd st.desc 2) run.piece).foldl (fun (s : State) p =>
        (s.readElems (st.who n) (dTd st.desc 0) p.1 p.2.1 p.2.2).2.copyElems n st p.1 p.2.1
          (s.readElems (st.who n) (dTd st.desc 0) p.1 p.2.1 p.2.2).1) s))
    ∧ (run.peer.isSome = true → run.denied = true →
      (s.copyPiece n st run).1 = 0 ∧ (s.copyPiece n st run).2.lnk.held = s.lnk.held)
    ∧ (run.piece < copyPieces (dTd st.desc 2) ∨ s.copyHolds run = true → s.copyEnd n = s)
    ∧ (copyPieces (dTd st.desc 2) ≤ run.piece → s.copyHolds run = false →
      (∀ d h, run.peer = some d → run.handle = some h →
        s.copyEnd n = (s.sendMsg d 0x07 run.tag (toLE 2 h ++ toLE 6 run.sent)).endCopy n 0)
      ∧ (run.peer = none ∨ run.handle = none → s.copyEnd n = s.endCopy n 0)
      ∧ (s.endCopy n 0).lnk.copies.find n = none))

/-- COLLECTIVE (spec/11 R322-R327, spec/18 R486): a start reads its member table; one that cannot be read or is bad ends it; with a good one
it opens its windows, sends its JOINs and takes the JOINs that came early. A JOIN whose digest differs ends it with LENGTH_RANGE, as does a
MISMATCH (the message kinds of a stage that ends before its join are the model's, log 22); a JOIN for no collective here is kept.
Joining and partials have their time-outs; a block whose partials are here is reduced in the order of the ranks; it completes when every
final round is here, its part of TD2 is written and its last flit has left. -/
def Obligations.Collectives : Prop :=
  (∀ (s s' u : State) (n status : Nat) (st : Stage) (b : List Byte) (ids : List Nat), s.stage n = some st → st.phase = .running →
    st.opcode = 0x0D → s.lnk.colls.find n = none → s.lnk.windows.length + 2 * collM st.desc ≤ 4096 →
    s.ctrlRead (st.who n) (opAddr st.desc 0xF0 % 2 ^ 48) (2 * collM st.desc + 4) = (b, status, s') →
    u = (if status = 8 then s'.meet (some n) 8 else s') →
    ids = (List.range (collM st.desc)).map (fun i => field b (2 * i) 2) →
    (status = 3 ∨ status = 4 → exec (.collectiveStart n) s = .next (((u.finishWorst n status).tick1 collDone).settle s))
    ∧ (status ≠ 3 → status ≠ 4 → u.memberStatus st b ids ≠ 0 →
      exec (.collectiveStart n) s = .next (((u.finishWorst n (u.memberStatus st b ids)).tick1 collDone).settle s))
    ∧ (∀ r v w mine, status ≠ 3 → status ≠ 4 → u.memberStatus st b ids = 0 →
      u.openCollWindows n st ⟨ids, collDigest st.desc (b.take (2 * collM st.desc)), [], [], false, [], [], 0, [], false⟩ = (r, v) →
      w = (v.setColl n r).toMembers r (collRank st.desc) (fun i => collBody 0 st.secure (collRank st.desc) (collId st.desc) r.digest
        (r.opened.get (0, 0) i).1 (r.opened.get (0, 0) i).2 0 0) →
      (mine = fun (j : EarlyJoin) => j.secure == st.secure && j.id == collId st.desc) →
      ((w.lnk.early.filter mine).any EarlyJoin.mismatch = true →
        exec (.collectiveStart n) s = .next (((w.dropJoin mine).leaveJoin n st r 2).settle s))
      ∧ ((w.lnk.early.filter mine).any EarlyJoin.mismatch = false →
        exec (.collectiveStart n) s = .next ((((w.lnk.early.filter mine).foldl (fun s j => s.takeJoin n st j)
          (w.dropJoin mine)).tryJoin n).settle s))))
  ∧ (∀ (s : State) (n : Nat) (st : Stage) (r : CollRun), s.stage n = some st → s.lnk.colls.find n = some r →
    (r.joined st.desc = false → op4 st.desc 0xEC ≠ 0 →
      exec (.collectiveJoinTimeout n) s = .next ((s.leaveJoin n st r 0x0B).settle s))
    ∧ (r.joined st.desc = true ∨ op4 st.desc 0xEC = 0 → exec (.collectiveJoinTimeout n) s = .next (s.settle s))
    ∧ (r.data = true → r.blocks.length < collBlocks st.desc →
      exec (.collectivePartialTimeout n) s = .next ((((s.meet (some n) 0x0B).setColl n
        { r with blocks := List.range (collBlocks st.desc) }).finalRound n).settle s))
    ∧ (st.ending = true → exec (.collectiveComplete n) s = .next ((s.stopColl n st).settle s))
    ∧ (st.ending = false → r.finalSent = true → collM st.desc ≤ r.finals.length + 1 →
      collWrites st.desc ≤ r.written ∨ 0x0B ∈ st.met →
      (s.collHolds st r = false → exec (.collectiveComplete n) s = .next ((s.endColl n 0).settle s))
      ∧ (s.collHolds st r = true → exec (.collectiveComplete n) s = .next (s.settle s)))
    ∧ (s.endColl n 0).lnk.colls.find n = none
    ∧ (∀ block s', r.data = true → block ∉ r.blocks → block < collBlocks st.desc → s.blockCodes n st r block = (none, s') →
      exec (.collectiveBlockReduce n block) s = .next (s'.settle s))
    ∧ (∀ block cols s' res t st' x, r.data = true → block ∉ r.blocks → block < collBlocks st.desc →
      s.blockCodes n st r block = (some cols, s') →
      res = (List.range (cols.getD (collRank st.desc) []).length).map (fun e => reduceElem st.desc (cols.map (fun c => c.getD e 0))) →
      t = (s'.raise n (res.foldl (fun f x => f ||| x.2) 0)).setColl n { r with blocks := r.blocks ++ [block] } → t.stage n = some st' →
      x = (t.spreadResults n st' { r with blocks := r.blocks ++ [block] }
        (block * (65536 * 8 / (dTd st.desc 0).fmt.width)) (res.map Prod.fst)
        (collKind st.desc != 4 || collRank st.desc == collRoot st.desc)
        ((r.others (collRank st.desc)).filter (fun p =>
          collKind st.desc == 0 || (collKind st.desc == 4 && p.1 == collRoot st.desc)))).finalRound n →
      exec (.collectiveBlockReduce n block) s = .next ((if st.ending then x.stopColl n st else x).settle s)))
  ∧ (∀ (s : State) (n : Nat) (st : Stage) (r : CollRun) (j : EarlyJoin), s.lnk.colls.find n = some r →
    (r.joined st.desc = true ∨ (r.joins.find j.rank).isSome = true → s.takeJoin n st j = s.keepJoin j)
    ∧ (r.joined st.desc = false → r.joins.find j.rank = none →
      (r.digest ≠ j.digest → s.takeJoin n st j = (s.toMembers r (collRank st.desc)
        (fun _ => collBody 1 st.secure (collRank st.desc) (collId st.desc) r.digest 0 0 0 0)).endColl n 2)
      ∧ (r.digest = j.digest → s.takeJoin n st j
        = (s.setColl n { r with joins := r.joins.put j.rank (j.digest, j.partials, j.results) }).tryJoin n)))
  ∧ (∀ (s : State) (src id : Nat) (secure : Bool) (body : List Byte) (j : EarlyJoin) (kept : EarlyJoin → Bool), s.present src = true →
    s.fatal = false → body.length = 26 → secure = bit (field (msgBody body) 1 1) 0 → id = field (msgBody body) 4 4 →
    j = ⟨secure, id, src, field (msgBody body) 2 2, field (msgBody body) 8 4, field (msgBody body) 12 2,
      field (msgBody body) 14 2, false⟩ →
    (kept = fun (j : EarlyJoin) => j.secure == secure && j.id == id && j.src == src) →
    (s.findColl secure id = none →
      (field (msgBody body) 0 1 = 0 → exec (.coll src body) s = .next ((s.keepJoin j).settle s))
      ∧ (field (msgBody body) 0 1 = 1 → exec (.coll src body) s = .next ((s.markJoin kept).settle s)))
    ∧ (∀ n st r, s.findColl secure id = some (n, st) → s.lnk.colls.find n = some r →
      (field (msgBody body) 0 1 = 0 → exec (.coll src body) s = .next ((s.takeJoin n st j).settle s))
      ∧ (field (msgBody body) 0 1 = 1 → r.joined st.desc = false →
        exec (.coll src body) s = .next ((s.leaveJoin n st r 2).settle s))
      ∧ (field (msgBody body) 0 1 = 2 → exec (.coll src body) s = .next (State.settle
        (if field (msgBody body) 20 1 = 0x0B
          then ((s.setColl n { r with finals := dedup (r.finals ++ [j.rank]) }).raise n
            (BitVec.ofNat 32 (field (msgBody body) 16 4))).meet (some n) 0x0B
          else (s.setColl n { r with finals := dedup (r.finals ++ [j.rank]) }).raise n
            (BitVec.ofNat 32 (field (msgBody body) 16 4))) s))))

/-- Reduction of integers in the tree of the ranks (spec/11 R326): with wrapping and in range, ADD gives the sum of every rank's element,
MIN and MAX the least and the greatest, whatever COLL_ID turns the order by. -/
def Obligations.IntegerReductions : Prop :=
  ∀ (id : Nat) (xs : List Int), xs ≠ [] → xs.length ≤ 512 → (∀ x ∈ xs, -(2 ^ 40) ≤ x ∧ x ≤ 2 ^ 40) →
    treeReduce (op2Int 0 true) 9 (rankOrder id xs) = ([xs.sum], 0)
    ∧ (∃ m, treeReduce (op2Int 1 true) 9 (rankOrder id xs) = ([m], 0) ∧ m ∈ xs ∧ ∀ x ∈ xs, m ≤ x)
    ∧ (∃ m, treeReduce (op2Int 2 true) 9 (rankOrder id xs) = ([m], 0) ∧ m ∈ xs ∧ ∀ x ∈ xs, x ≤ m)

/-! ### Ingest and pyramids (spec/12) -/

/-- INGEST (spec/12 R338-R348): a start reads its sample table, ends with CHECK_FAIL where its CRC or version is bad, with LENGTH_RANGE where
a field is, with the status its record area gets where that is refused, else begins every entry. A live queue that cannot be used leaves its
entry CORRUPT, one with frames gives it one in its turn; an entry whose wait is over looks once more, and is then MISSING, or STALE where
frames were dropped for it; a live one not in its turn whose queue holds a frame goes on waiting (the model's choice, log 67). An engine
ends its entry; when all have ended the stage completes with the status of their outcomes. -/
def Obligations.Ingest : Prop :=
  (∀ (s s' : State) (n k a chk : Nat) (st st' : Stage) (tab b : List Byte), s.stage n = some st → st.phase = .running → st.opcode = 0x10 →
    s.ing.runs.find n = none → k = (dTd st.desc 2).n * (dTd st.desc 2).t →
    s.readFor (st.who n) (opAddr st.desc 0xE0 % 2 ^ 48) (64 + 32 * k + 4) 0 = (b, s') → tab = b.take (64 + 32 * k) →
    st' = (s'.stage n).getD st → a = tabStatus tab →
    chk = (if a = 0 then 0 else if a >>> 48 ≠ s'.lnk.devid then 3
      else s'.extentCheck st'.secure st'.secure st'.fn (a % 2 ^ 48) (16 * k) true) →
    (field b (64 + 32 * k) 4 ≠ crc32c tab ∨ field tab 0 1 ≠ 1 → exec (.ingestStart n) s = .next ((s'.finishWorst n 1).settle s))
    ∧ (field b (64 + 32 * k) 4 = crc32c tab → field tab 0 1 = 1 →
      (tabOk st.desc tab = false → exec (.ingestStart n) s = .next ((s'.finishWorst n 2).settle s))
      ∧ (tabOk st.desc tab = true → chk ≠ 0 → exec (.ingestStart n) s
        = .next (((if chk = 4 then s'.deny st'.secure st'.fn (a % 2 ^ 48) else s').finishWorst n chk).settle s))
      ∧ (tabOk st.desc tab = true → chk = 0 →
        exec (.ingestStart n) s = .next ((((List.range k).foldl (fun s i => s.beginEntry n st' tab i)
          (s'.putIng n ⟨tab, List.replicate k {}⟩)).assignEngines).settle s))))
  ∧ (∀ (s : State) (n i q : Nat) (st : Stage) (r : IngRun) (e : IngEntry), s.stage n = some st → s.ing.runs.find n = some r →
    r.entries[i]? = some e → q = entSrc (tabEntry r.table i) →
    (∀ h status s' hd, st.ending = false → e.st = .waiting → entKind (tabEntry r.table i) = 1 → s.queueTurn n i q = true →
      q >>> 48 = s.lnk.devid → s.ctrlRead (st.who n) (q % 2 ^ 48) 64 = (h, status, s') →
      (status ≠ 0 → exec (.liveQueuePoll n i) s
        = .next ((((s'.meet (some n) status).readyEntry n i { e with outcome := some 5 }).assignEngines).settle s))
      ∧ (status = 0 → s'.localQueue h = none →
        exec (.liveQueuePoll n i) s = .next (((s'.readyEntry n i { e with outcome := some 5 }).assignEngines).settle s))
      ∧ (status = 0 → s'.localQueue h = some hd →
        exec (.liveQueuePoll n i) s = .next (((s'.takeFrame n i st r.table q hd 65537 e).assignEngines).settle s)))
    ∧ (st.ending = false → e.st = .waiting → entKind (tabEntry r.table i) = 1 → s.queueTurn n i q = true → q >>> 48 ≠ s.lnk.devid →
      exec (.liveQueuePoll n i) s
        = .next ((((s.meet (some n) 3).readyEntry n i { e with outcome := some 5 }).assignEngines).settle s))
    ∧ (e.st ≠ .waiting ∨ entKind (tabEntry r.table i) ≠ 1 ∨ st.ending = true ∨ s.queueTurn n i q = false →
      s.pollQueue n i = s ∧ exec (.liveQueuePoll n i) s = .next (s.assignEngines.settle s))
    ∧ (field r.table 8 4 = 0 → exec (.ingestWaitTimeout n i) s = .next (s.settle s))
    ∧ (∀ u x, field r.table 8 4 ≠ 0 → u = s.pollQueue n i → (u.ing.runs.find n).bind (fun r => r.entries[i]?) = some x →
      (x.st ≠ .waiting ∨ (entKind (tabEntry r.table i) = 1 ∧ u.queueHolds (st.who n) q = true) →
        exec (.ingestWaitTimeout n i) s = .next (u.assignEngines.settle s))
      ∧ (x.st = .waiting → entKind (tabEntry r.table i) ≠ 1 ∨ u.queueHolds (st.who n) q = false →
        exec (.ingestWaitTimeout n i) s
          = .next (((u.readyEntry n i { x with outcome := some (if 0 < x.drops then 3 else 4) }).assignEngines).settle s)))
    ∧ (∀ g, e.st = .busy g →
      exec (.ingestEntryComplete n i) s = .next (((s.endEntry n i st r.table e).serveAll.lookAll).settle s))
    ∧ ((∀ g, e.st ≠ .busy g) → exec (.ingestEntryComplete n i) s = .next (s.settle s)))
  ∧ (∀ (s : State) (n : Nat) (st : Stage) (r : IngRun), s.stage n = some st → s.ing.runs.find n = some r →
    (st.ending = false → (∀ e ∈ r.entries, e.st = .ended) →
      exec (.ingestComplete n) s
        = .next (((((s.zeroInvalid n st r).writeMask n st r).endIngest n r.status).serveAll.lookAll).settle s))
    ∧ (st.ending = true → (∀ e ∈ r.entries, e.st = .ended) →
      exec (.ingestComplete n) s = .next ((s.endIngest n s.endedBy).settle s))
    ∧ ((∃ e ∈ r.entries, e.st ≠ .ended) → exec (.ingestComplete n) s = .next (s.settle s)))
  ∧ (∀ r : IngRun,
    ((∃ e ∈ r.entries, e.outcome = some 4 ∨ e.outcome = some 5) → r.status = 0x0B)
    ∧ ((∀ e ∈ r.entries, e.outcome ≠ some 4 ∧ e.outcome ≠ some 5) → (∃ e ∈ r.entries, e.outcome = some 3) → r.status = 0x0A)
    ∧ ((∀ e ∈ r.entries, e.outcome ≠ some 3 ∧ e.outcome ≠ some 4 ∧ e.outcome ≠ some 5) → r.status = 0))

/-- PYRAMID (spec/12 R333, R349-R351): the waiting stage of the highest class, and of these the first admitted, takes the free engine of its
hub, whose domain wakes; a level is computed from the values of TD0 or of the level before,
written with zeros for invalid samples, counted, and kept for the next; the last level ends the stage. A stage whose ring is being reset ends with the
level under way (spec/14 R395). Each level halves the one before. -/
def Obligations.Pyramids : Prop :=
  (∀ (s : State) (n : Nat) (st : Stage), s.stage n = some st →
    (s.pyrTurn (pyrEngine st.desc) n st = true → s.ing.pyrs.any (fun p => p.2.engine == pyrEngine st.desc) = false →
      exec (.pyramidStart n) s
        = .next ((({ s with ing := { s.ing with pyrs := s.ing.pyrs.put n { engine := pyrEngine st.desc } } } : State).knock
            (202 + 6 * pyrEngine st.desc)).settle s))
    ∧ (s.pyrTurn (pyrEngine st.desc) n st = false ∨ s.ing.pyrs.any (fun p => p.2.engine == pyrEngine st.desc) = true →
      exec (.pyramidStart n) s = .next (s.settle s)))
  ∧ (∀ (s : State) (g n : Nat) (st : Stage), s.pyrTurn g n st = true ↔
    (st.phase = .running ∧ st.opcode = 0x11 ∧ st.ending = false ∧ pyrEngine st.desc = g ∧ s.ing.pyrs.find n = none)
    ∧ ∀ p ∈ s.dsp.stages, s.pyrWaits g p.1 p.2 = true → p.2.cls < st.cls ∨ (p.2.cls = st.cls ∧ st.admOrder ≤ p.2.admOrder))
  ∧ (∀ (s s' t : State) (n h w : Nat) (st : Stage) (r : PyrRun) (vs : List Word64) (out : List (Fp × Flags)) (fl : Flags),
    s.stage n = some st → s.ing.pyrs.find n = some r →
    (r.level = 0 → s.pyrSource n st = (vs, s') ∧ (dTd st.desc 0).h = h ∧ (dTd st.desc 0).w = w) →
    (r.level ≠ 0 → vs = r.held ∧ s' = s ∧ levelSize st.desc (r.level - 1) = (h, w)) →
    out = pyrLevel st.desc r.level ((dTd st.desc 0).n * (dTd st.desc 0).t) (dTd st.desc 0).c h w
      (levelTd st.table r.level).h (levelTd st.table r.level).w vs →
    fl = out.zipIdx.foldl (fun f x => if st.valid (x.2 / ((dTd st.desc 0).t * (levelTd st.table r.level).h
      * (levelTd st.table r.level).w * (dTd st.desc 0).c)) then f ||| x.1.2 else f) (0 : Flags) →
    t = ((s'.raise n fl).writeLevel n st (levelTd st.table r.level) (out.map Prod.fst)).bump pyrElems out.length →
    ∀ u : State, u = { t with ing := { t.ing with
        pyrs := t.ing.pyrs.put n { r with level := r.level + 1, held := out.map (fun x => toAcc x.1) } } } →
    (st.ending = true → exec (.pyramidLevelComplete n) s = .next ((u.endPyramid n u.endedBy).settle s))
    ∧ (st.ending = false → r.level + 1 = op1 st.desc 0xE0 → exec (.pyramidLevelComplete n) s = .next ((u.endPyramid n 0).settle s))
    ∧ (st.ending = false → r.level + 1 ≠ op1 st.desc 0xE0 → exec (.pyramidLevelComplete n) s = .next (u.settle s)))
  ∧ (∀ (d : List Byte) (k : Nat), levelSize d (k + 1) = (((levelSize d k).1 + 1) / 2, ((levelSize d k).2 + 1) / 2))

/-! ### Video and paced output (spec/13) -/

/-- Decode streams (spec/13 R358-R363): OPEN binds the least loaded engine, the lowest free slot and a run of the pool, and writes the
record, or completes with REGION_FAULT; a handle that names no stream is LENGTH_RANGE, one of the other world WORLD_DENIED; DECODE
begins to take units, whose pictures take free frames one after another and wait only where none is free (R362); a picture is put out,
RELEASE and CLOSE act at once, a wait for a frame has its limit; a DECODE of a ring under reset ends with the unit (spec/14 R395). Encode
streams (spec/13 R357, R358, R365-R368): OPEN binds the least loaded engine and the lowest free slot, or completes with REGION_FAULT;
ENCODE of frames of the stream's size is served by its stream's engine, of another size it is LENGTH_RANGE; a coded frame is written and
the engine goes on; CLOSE ends the stream. -/
def Obligations.VideoStreams : Prop :=
  ((∀ (s : State) (n g i base : Nat) (st : Stage) (x : DecStream), s.stage n = some st → st.phase = .running → st.opcode = 0x0E →
    op1 st.desc 0xE0 = 0 →
    leastLoad s.decLoad (s.enginesOn 4 0) = some g → (List.range 256).find? (fun i => (s.vid.decs.find i).isNone) = some i →
    freeRun (if st.secure then s.framePools.2 else s.framePools.1) (s.poolRuns st.secure)
      (op1 st.desc 0xF0 * decFrameBytes (op2 st.desc 0xEC) (op2 st.desc 0xEE)) = some base →
    x = { secure := st.secure, fn := st.fn, engine := g, autoRelease := bit (op1 st.desc 0xE2) 1
          hevc := op1 st.desc 0xE1 == 1, filmGrain := bit (op1 st.desc 0xE2) 0, maxW := op2 st.desc 0xEC
          maxH := op2 st.desc 0xEE, base := base, record := opAddr st.desc 0xF6 % 2 ^ 48
          frames := List.replicate (op1 st.desc 0xF0) {}, fed := openBytes st.desc } →
    exec (.vdecOpen n) s = .next (((({ s with vid := { s.vid with decs := s.vid.decs.put i x } } : State).newRecord (st.who n) x.record
      (streamHandle i (s.vid.decGen.get 0 i))).finishWorst n 0).settle s))
  ∧ (∀ (s : State) (n : Nat) (st : Stage), s.stage n = some st → st.phase = .running → st.opcode = 0x0E → op1 st.desc 0xE0 = 0 →
    leastLoad s.decLoad (s.enginesOn 4 0) = none ∨ (List.range 256).find? (fun i => (s.vid.decs.find i).isNone) = none
      ∨ freeRun (if st.secure then s.framePools.2 else s.framePools.1) (s.poolRuns st.secure)
        (op1 st.desc 0xF0 * decFrameBytes (op2 st.desc 0xEC) (op2 st.desc 0xEE)) = none →
    exec (.vdecOpen n) s = .next ((s.finishWorst n 3).settle s))
  ∧ (∀ (s : State) (n : Nat) (st : Stage), s.stage n = some st → st.phase = .running → st.opcode = 0x0E → s.vidTurn st = true →
    (op1 st.desc 0xE0 = 1 → s.vid.decRuns.find n = none →
      (s.decOwner st = some st.secure →
        exec (.vdecDecode n) s = .next ((({ s with vid := { s.vid with
            decRuns := s.vid.decRuns.put n { stream := vidHandle st.desc % 2 ^ 16 } } } : State).serveAll.lookAll).settle s))
      ∧ (s.decOwner st = none → exec (.vdecDecode n) s = .next ((s.finishWorst n 2).settle s))
      ∧ (s.decOwner st = some (!st.secure) → exec (.vdecDecode n) s = .next ((s.finishWorst n 4).settle s)))
    ∧ (∀ i x, op1 st.desc 0xE0 = 2 → s.decStream (vidHandle st.desc) = some (i, x) → x.secure = st.secure →
      exec (.vdecRelease n) s = .next (((({ s with vid := { s.vid with
        decs := s.vid.decs.put i (x.release (op4 st.desc 0xF2)) } } : State).endVdec n i st 0).serveAll.lookAll).settle s))
    ∧ (op1 st.desc 0xE0 = 3 → s.decOwner st = some st.secure →
      exec (.vdecClose n) s = .next (((s.endVdec n (vidHandle st.desc % 2 ^ 16) st 0).closeDec (vidHandle st.desc % 2 ^ 16)).settle s)))
  ∧ (∀ (s : State) (n : Nat) (st : Stage) (r : DecRun) (x : DecStream), s.stage n = some st → s.vid.decRuns.find n = some r →
    s.vid.decs.find r.stream = some x →
    (∀ u, 0 < r.left → u = s.outputPicture n st r x →
      exec (.decodePictureOutput n) s
        = .next ((if r.left = 1 ∧ st.ending = true then u.endDecode n u.endedBy else u).serveAll.lookAll.settle s))
    ∧ (r.left = 0 → exec (.decodePictureOutput n) s = .next (s.settle s)))
  ∧ (∀ (s : State) (n : Nat) (r : DecRun), s.vid.decRuns.find n = some r →
    (r.waitSince.isSome → exec (.vidPoolWaitTimeout n) s = .next (((s.endDecode n 0x0B).serveAll).settle s))
    ∧ (r.waitSince = none → exec (.vidPoolWaitTimeout n) s = .next (s.settle s)))
  ∧ (∀ (s s' : State) (n fuel : Nat) (r r' : DecRun) (x x' : DecStream), r.coded ≤ r.need → r.need - r.coded < fuel →
    s.codePictures n fuel r x = (r', x', s') →
    r'.need = r.need ∧ r.coded ≤ r'.coded ∧ r'.coded ≤ r.need
    ∧ (r'.coded < r.need → ∀ f, f < x'.frames.length → (x'.frames.getD f {}).free = false)))
  ∧ ((∀ (s : State) (n g i : Nat) (st : Stage) (x : EncStream), s.stage n = some st → st.phase = .running → st.opcode = 0x0F →
    op1 st.desc 0xE0 = 0 → leastLoad s.encLoad (s.enginesOn 2 1) = some g →
    (List.range 64).find? (fun i => (s.vid.encs.find i).isNone) = some i →
    x = { secure := st.secure, fn := st.fn, engine := g, cbr := bit (op1 st.desc 0xE1) 0, tenBit := bit (op1 st.desc 0xE1) 2
          bt2020 := bit (op1 st.desc 0xE1) 3, qp := op1 st.desc 0xE3, width := op2 st.desc 0xEC, height := op2 st.desc 0xEE
          keyInterval := op2 st.desc 0xF0, target := op4 st.desc 0xF2, record := opAddr st.desc 0xF6 % 2 ^ 48
          qNext := op1 st.desc 0xE3 } →
    exec (.vencOpen n) s = .next (((({ s with vid := { s.vid with encs := s.vid.encs.put i x } } : State).newRecord (st.who n) x.record
      (streamHandle i (s.vid.encGen.get 0 i))).finishWorst n 0).settle s))
  ∧ (∀ (s : State) (n : Nat) (st : Stage), s.stage n = some st → st.phase = .running → st.opcode = 0x0F → op1 st.desc 0xE0 = 0 →
    leastLoad s.encLoad (s.enginesOn 2 1) = none ∨ (List.range 64).find? (fun i => (s.vid.encs.find i).isNone) = none →
    exec (.vencOpen n) s = .next ((s.finishWorst n 3).settle s))
  ∧ (∀ (s : State) (n i : Nat) (st : Stage) (x : EncStream), s.stage n = some st → st.phase = .running → st.opcode = 0x0F →
    s.vidTurn st = true → s.encStream (vidHandle st.desc) = some (i, x) → x.secure = st.secure →
    (op1 st.desc 0xE0 = 1 → s.vid.encRuns.find n = none →
      ((dTd st.desc 0).h = x.height → (dTd st.desc 0).w = x.width →
        exec (.vencEncode n) s = .next ((({ s with vid := { s.vid with
          encRuns := s.vid.encRuns.put n { stream := i, force := bit (op1 st.desc 0xE2) 0 } } } : State).serveEnc x.engine).settle s))
      ∧ ((dTd st.desc 0).h ≠ x.height ∨ (dTd st.desc 0).w ≠ x.width →
        exec (.vencEncode n) s = .next ((s.finishWorst n 2).settle s)))
    ∧ (op1 st.desc 0xE0 = 2 → exec (.vencClose n) s = .next (((s.endVenc n i st 0).closeEnc i).settle s)))
  ∧ (∀ (s : State) (n status : Nat) (st : Stage), s.stage n = some st → st.phase = .running → st.opcode = 0x0F → s.vidTurn st = true →
    (s.encStream (vidHandle st.desc) = none ∧ status = 2)
      ∨ (∃ i x, s.encStream (vidHandle st.desc) = some (i, x) ∧ x.secure ≠ st.secure ∧ status = 4) →
    (op1 st.desc 0xE0 = 1 → s.vid.encRuns.find n = none → exec (.vencEncode n) s = .next ((s.finishWorst n status).settle s))
    ∧ (op1 st.desc 0xE0 = 2 → exec (.vencClose n) s = .next ((s.finishWorst n status).settle s)))
  ∧ (∀ (s : State) (n : Nat) (st : Stage) (r : EncRun) (x : EncStream) (key req : Bool), s.stage n = some st →
    s.vid.encRuns.find n = some r → s.vid.encs.find r.stream = some x → r.coding = some (key, req) →
    exec (.encodeUnitWritten n) s = .next (((s.writeUnit n st r x key req).serveEnc x.engine).settle s)))

/-- Paced output (spec/13 R370-R374): START with a good queue runs the channel from its first frame, with a bad one it is CHECK_FAIL; COMMIT
replaces the commit that waits, or, where the latch it comes for is past, the one that waits for the latch after (R372); STOP ends the
channel; both are WORLD_DENIED to the other world. A latch with nothing to show moves on; at a full queue an overrun counts and the commit
stays pending, unless a later one has made it stale; else a copy begins and is kept for repeats. A copy that is done writes its rows, or
for a repeat the bytes of the slot emitted last, then its header, then PROD, counts, and completes its commit. -/
def Obligations.PacedOutput : Prop :=
  (∀ (s : State) (n c : Nat) (st : Stage), s.stage n = some st → s.paceTurn n st = true → c = op1 st.desc 0xE1 →
    (∀ h status s', op1 st.desc 0xE0 = 0 → s.ctrlRead (st.who n) (opAddr st.desc 0xF6 % 2 ^ 48) 64 = (h, status, s') →
      (∀ slots size base x, status = 0 → s'.localQueue h = some (slots, size, base) →
        x = ({ ((s'.dropCommit c).chan c) with
          running := true, secure := st.secure, fn := st.fn, rep := bit (op1 st.desc 0xE2) 0
          total := op2 st.desc 0xE4, active := op2 st.desc 0xE6, num := op4 st.desc 0xE8, den := op2 st.desc 0xEC
          start := if op8 st.desc 0xEE = 0 then (s'.dropCommit c).time else op8 st.desc 0xEE
          queue := opAddr st.desc 0xF6 % 2 ^ 48, slots := slots, slotBytes := size, slotBase := base % 2 ^ 48, last := none } : PaceChan) →
        exec (.paceStart n) s = .next ((((s'.dropCommit c).setChan c
          { x with frame := x.firstFrame (s'.dropCommit c).time }).finishWorst n 0).settle s))
      ∧ (status ≠ 0 ∨ s'.localQueue h = none →
        exec (.paceStart n) s
          = .next (((if status = 0 then s' else s'.meet (some n) status).finishWorst n 1).settle s)))
    ∧ (op1 st.desc 0xE0 = 1 → (s.chan c).foreign st = false →
      ((s.chan c).running = true → 64 + (dTd st.desc 0).h * roundUp (dTd st.desc 0).c 64 ≤ (s.chan c).slotBytes →
        (s.time < (s.chan c).latch (s.chan c).frame →
          exec (.paceCommit n) s = .next (((s.dropCommit c).setChan c { (s.dropCommit c).chan c with pending := some n }).settle s))
        ∧ ((s.chan c).latch (s.chan c).frame ≤ s.time →
          exec (.paceCommit n) s = .next (((s.dropLater c).setChan c { (s.dropLater c).chan c with later := some n }).settle s)))
      ∧ ((s.chan c).running = false ∨ (s.chan c).slotBytes < 64 + (dTd st.desc 0).h * roundUp (dTd st.desc 0).c 64 →
        exec (.paceCommit n) s = .next ((s.finishWorst n 2).settle s)))
    ∧ (op1 st.desc 0xE0 = 2 → (s.chan c).foreign st = false →
      exec (.paceStop n) s = .next (((s.stopChan c).finishWorst n 0).settle s)
      ∧ ((s.stopChan c).chan c).running = false)
    ∧ ((s.chan c).foreign st = true →
      (op1 st.desc 0xE0 = 1 → exec (.paceCommit n) s = .next ((s.finishWorst n 4).settle s))
      ∧ (op1 st.desc 0xE0 = 2 → exec (.paceStop n) s = .next ((s.finishWorst n 4).settle s))))
  ∧ (∀ (s : State) (c : Nat), (s.chan c).running = false → exec (.paceLatch c) s = .next (s.settle s))
  ∧ (∀ (s : State) (c : Nat) (x next : PaceChan), x = s.chan c → x.running = true →
    (∀ n, x.pending = some n → ∃ st, s.stage n = some st ∧ st.ending = false) →
    next = { x with frame := x.frame + 1, pending := x.later, later := none } →
    (x.pending = none → x.rep = false ∨ x.last = none → exec (.paceLatch c) s = .next ((s.setChan c next).settle s))
    ∧ (∀ prod cons s', x.pending ≠ none ∨ (x.rep = true ∧ x.last ≠ none) →
      s.prodCons ⟨x.secure, x.fn, x.pending⟩ x.queue = (prod, cons, s') →
      (x.slots ≤ (prod + (x.copies.filter (fun k => k.queue == x.queue)).length + 2 ^ 32 - cons) % 2 ^ 32 →
        exec (.paceLatch c) s = .next ((s'.overrun c x next).settle s))
      ∧ (∀ k s'', (prod + (x.copies.filter (fun k => k.queue == x.queue)).length + 2 ^ 32 - cons) % 2 ^ 32 < x.slots →
        s'.newCopy x = (some k, s'') →
        exec (.paceLatch c) s = .next ((s''.setChan c { next with copies := x.copies ++ [k], last := some k }).settle s))))
  ∧ (∀ (s : State) (x : PaceChan) (k : PaceCopy), x.pending = none → x.rep = true → x.last = some k →
    s.newCopy x = (some { k with stage := none, frame := x.frame, shown := x.lineTime (x.frame + 1) 0 }, s))
  ∧ (∀ (s : State) (c : Nat) (x next : PaceChan),
    (x.later = none → s.overrun c x next = (s.setChan c { next with pending := x.pending }).tick1 (paceCtr c paceOverrun))
    ∧ (∀ n, x.later ≠ none → x.pending = some n →
      s.overrun c x next = ((s.setChan c next).staleCommit c n).tick1 (paceCtr c paceOverrun)))
  ∧ (∀ (s : State) (c : Nat) (k : PaceCopy) (rest : List PaceCopy), (s.chan c).copies = k :: rest →
    (k.stage = none → exec (.paceCopyComplete c) s = .next ((s.emitFrame c k rest).settle s))
    ∧ (∀ n u, k.stage = some n → u = s.emitFrame c k rest →
      exec (.paceCopyComplete c) s
        = .next ((u.finishWorst n (if ((u.stage n).map Stage.ending).getD false then u.endedBy else 0)).settle s)))
  ∧ (∀ (s s' t v : State) (c prod cons base : Nat) (k : PaceCopy) (rest : List PaceCopy), s.prodCons k.who k.queue = (prod, cons, s') →
    base = k.slotBase + (prod % k.slots) * k.slotBytes →
    t = ((s'.copyRows k base (s'.chan c).lastAt).writeFor k.who base k.header 0).writeFor k.who (k.queue + 0x40)
      (toLE 4 ((prod + 1) % 2 ^ 32)) 0 →
    v = (t.setChan c { t.chan c with copies := rest, lastAt := base }).tick1
      (paceCtr c (if k.stage.isSome then paceEmitted else paceRepeated)) →
    s.emitFrame c k rest = (if k.shown < v.time then v.tick1 (paceCtr c paceLate) else v))
  ∧ (∀ (s : State) (k : PaceCopy) (base src : Nat), s.copyRows k base src = k.rows.zipIdx.foldl (fun (s : State) r =>
      if k.stage.isSome then s.writeFor k.who (base + 64 + r.2 * k.pitch) r.1 0
      else (s.readFor k.who (src + 64 + r.2 * k.pitch) r.1.length 0).2.writeFor k.who (base + 64 + r.2 * k.pitch)
        (s.readFor k.who (src + 64 + r.2 * k.pitch) r.1.length 0).1 0) s)
  ∧ (∀ (x : PaceChan) (f : Nat), x.lineTime f x.active = x.latch f ∧ x.lineTime 0 0 = x.start
    ∧ (∀ l l', l ≤ l' → x.lineTime f l ≤ x.lineTime f l'))

/-! ### The device dictionary and its managers (spec/15) -/

/-- Requests of managers (spec/15 R405, R410-R413): an expedited READ is answered with the value, a longer one opens an upload with the
value's length and CRC, and the read of a Secure object by an Open manager is noted besides (spec/15 R401); a WRITE applies its value and is acknowledged; UPLOAD_NEXT sends the next part; WRITE_INIT opens a download,
WRITE_SEG stages its bytes, WRITE_END applies them where their CRC agrees; ABORT frees the context and is not answered; an unknown
command is refused; a request repeated within 1 s is answered with the answer kept, to a manager of the world it was given to; a segment
that is not well formed is counted; contexts and kept answers expire. A message of the light links carries a segment. -/
def Obligations.ManagerRequests : Prop :=
  (∀ (s h : State) (m : Manager) (req : List Byte) (e : ObjRow), s.Hears h m req → h.Opens m req e →
    (∀ v u, segCmd req = 0x01 → v = h.readObj (segIndex req) (segSub req) (h.mgr (mgrKey m)).cursor (h.mgrSecure m) → e.acc ≠ .wo →
      segLen req = 0 →
      u = (if 0x7000 ≤ segIndex req ∧ segIndex req ≤ 0x7FFF ∧ h.mgrSecure m = false then h.denyObject (segIndex req) (segSub req) else h) →
      (∀ ans, v.length ≤ 8 → ans = segBytes 0x81 1 (segTag req) 0 (segIndex req) (segSub req) v →
        exec (.read m req) s
          = .next (((u.weloc m ans).setMgr { u.mgr (mgrKey m) with last := some (req, ans, u.time, h.mgrSecure m) }).settle s))
      ∧ (∀ n, 8 < v.length → h.freeXfer = some n →
        exec (.read m req) s = .next ((u.openXfer m req n
          { manager := mgrKey m, tag := segTag req, index := segIndex req, sub := segSub req, write := false, data := v
            total := v.length }
          (segBytes 0x82 0 (segTag req) 0 (segIndex req) (segSub req) (toLE 4 v.length ++ toLE 4 (crc32c v)))).settle s)))
    ∧ (∀ t, segCmd req = 0x03 → segLen req ≤ 8 → h.Admits m (segIndex req) (segSub req) e (segData req) →
      h.applyValue m (segIndex req) (segSub req) e (segData req) = (0, t) →
      exec (.write m req) s = .next (((t.sendReply m req (t.ackOf e)).keep m req (t.ackOf e)).settle s))
    ∧ (∀ n total, segCmd req = 0x04 → segLen req = 4 → total = field (segData req) 0 4 → 9 ≤ total → total ≤ 65536 →
      h.writeAccess (segIndex req) e (h.mgrSecure m) = 0 → fwSlot (segIndex req) (segSub req) = none →
      h.writeBusy (segIndex req) (segSub req) e = none → e.ty.fits total = true → h.freeXfer = some n →
      exec (.writeInit m req) s = .next ((h.openXfer m req n
        { manager := mgrKey m, tag := segTag req, index := segIndex req, sub := segSub req, write := true, total := total }
        (replySeg req (.ack 0 []))).settle s))
    ∧ (∀ n k total, segCmd req = 0x04 → segLen req = 4 → total = field (segData req) 0 4 → 9 ≤ total →
      h.writeAccess (segIndex req) e (h.mgrSecure m) = 0 → fwSlot (segIndex req) (segSub req) = some k →
      h.fwState (segIndex req) (segSub req) = false → h.openXfers.any (fun p => p.2.write && (fwSlot p.2.index p.2.sub).isSome) = false →
      h.writeBusy (segIndex req) (segSub req) e = none → e.ty.fits total = true → h.freeXfer = some n →
      (h.store.fw.getD k {}).st ≠ 1 → ceilDiv total 65536 ≤ (h.store.fw.getD k {}).blocks →
      exec (.writeInit m req) s = .next (((h.setFw k { (h.store.fw.getD k {}) with st := 2, blocks := 0, image := [] }).openXfer m req n
        { manager := mgrKey m, tag := segTag req, index := segIndex req, sub := segSub req, write := true, total := total }
        (replySeg req (.ack 0 []))).settle s)))
  ∧ (∀ (s h : State) (m : Manager) (req : List Byte) (n : Nat) (x : Xfer), s.Hears h m req → h.Continues m req n x →
    (∀ part, segCmd req = 0x02 → x.write = false → segLen req = 0 → part = (x.data.drop x.done).take ((welocLimit m.via).getD 10) →
      ∀ ans, ans = segBytes 0x83 (b2n (decide (x.total ≤ x.done + part.length))) x.tag (segSeq req) x.index x.sub part →
      exec (.uploadNext m req) s = .next (((h.setXfer n { x with
        done := x.done + part.length, seq := segSeq req, answer := ans, used := h.time
        ended := decide (x.total ≤ x.done + part.length) }).weloc m (h.shown m ans)).settle s))
    ∧ (segCmd req = 0x05 → x.write = true → fwSlot x.index x.sub = none → x.done + (segData req).length ≤ x.total →
      exec (.writeSeg m req) s = .next (((h.setXfer n { x with
        data := x.data ++ segData req, done := x.done + (segData req).length, seq := segSeq req
        answer := replySeg req (.ack 0 []), used := h.time }).weloc m (replySeg req (.ack 0 []))).settle s))
    ∧ (∀ k, segCmd req = 0x05 → x.write = true → fwSlot x.index x.sub = some k → x.done + (segData req).length ≤ x.total →
      exec (.writeSeg m req) s = .next ((((h.setFw k { (h.store.fw.getD k {}) with
        image := (h.store.fw.getD k {}).image ++ segData req }).setXfer n { x with
          done := x.done + (segData req).length, seq := segSeq req
          answer := replySeg req (.ack 0 []), used := h.time }).weloc m (replySeg req (.ack 0 []))).settle s))
    ∧ (∀ e t, segCmd req = 0x06 → x.write = true → objEntry x.index x.sub = some e → h.Admits m x.index x.sub e x.data →
      segLen req = 4 → x.total ≤ x.done → field (segData req) 0 4 = crc32c x.data →
      h.applyValue m x.index x.sub e x.data = (0, t) →
      exec (.writeEnd m req) s = .next (((t.setXfer n { x with
        seq := segSeq req, answer := replySeg req (t.ackOf e), used := t.time, ended := true }).sendReply m req (t.ackOf e)).settle s))
    ∧ (∀ e k t, segCmd req = 0x06 → x.write = true → objEntry x.index x.sub = some e → fwSlot x.index x.sub = some k →
      segLen req = 4 → x.total ≤ x.done → field (segData req) 0 4 = crc32c (h.store.fw.getD k {}).image → t = h.fwWritten k →
      exec (.writeEnd m req) s = .next (((t.setXfer n { x with
        seq := segSeq req, answer := replySeg req (.ack 0 []), used := t.time, ended := true }).sendReply m req (.ack 0 [])).settle s)))
  ∧ (∀ (s h : State) (m : Manager) (req : List Byte), s.Hears h m req →
    (∀ n x, segCmd req = 0x0F → h.xfer (mgrKey m) (segTag req) = some (n, x) →
      exec (.abort m req) s = .next ((h.dropXfer n).settle s))
    ∧ (managerCmd (segCmd req) = false →
      exec (.welocUnknownCmd m req) s = .next (((h.sendReply m req (.abort 0x01)).keep m req (.abort 0x01)).settle s)))
  ∧ (∀ (s h : State) (m : Manager) (req ans : List Byte) (t : Nat), s.reaches m = true → s.hasEid m.via = true →
    segOk ((welocLimit m.via).getD 0) req = true → h = s.hear (mgrKey m) →
    (h.mgr (mgrKey m)).last = some (req, ans, t, h.mgrSecure m) → h.time ≤ t + 10 ^ 9 →
    (segCmd req = 0x01 → exec (.read m req) s = .next ((h.weloc m ans).settle s))
    ∧ (segCmd req = 0x03 → exec (.write m req) s = .next ((h.weloc m ans).settle s)))
  ∧ (∀ (s : State) (m : Manager) (req : List Byte), s.reaches m = true →
    segOk ((welocLimit m.via).getD 0) req = false ∨ s.hasEid m.via = false →
    exec (.read m req) s = .next (({ s with dict := { s.dict with discards := min (2 ^ 32 - 1) (s.dict.discards + 1) } } : State).settle s))
  ∧ (∀ (s : State) (src : Nat) (body : List Byte), msgOk 0x0C body = true → s.present src = true →
    exec (.weloc src body) s = .next ((s.welocIn ⟨.link src, msgTag body, none⟩
      ((msgBody body).take (14 + segLen (msgBody body))) (fun _ => true)).settle s))
  ∧ (∀ (s : State) (n : Nat) (m : Manager),
    exec (.welocContextTimeout n) s = .next ((s.headland.dropXfer n).settle s)
    ∧ (s.headland.dropXfer n).dict.xfers.find n = none
    ∧ exec (.welocDuplicateExpiry m) s = .next ((s.headland.setMgr { s.mgr (mgrKey m) with last := none }).settle s))

/-- Objects whose writes act (spec/08 R216, R218; spec/15 R419; spec/16 R434, R444; spec/17 R475; spec/18 R491): an accepted value of each
has its effect and is acknowledged: a function image takes its slot, defaults are restored, the bring-up flags are set, an owner is
claimed or revoked, a running descriptor changes, a log cursor moves. -/
def Obligations.ActingObjects : Prop :=
  ∀ (s h : State) (m : Manager), s.reaches m = true → s.hasEid m.via = true → h = s.hear (mgrKey m) →
    ∀ (i sub : Nat) (e : ObjRow) (v : List Byte), h.checkObject i sub = none → objEntry i sub = some e → h.Admits m i sub e v →
    ∀ done : State → Host.Outcome State Fault Refusal,
      done = (fun t => .next ((t.sendReply m (segBytes 0x03 1 0 0 i sub []) (t.ackOf e)).settle s)) →
      (∀ k, k < 256 → i = 0x4500 + k → sub = 1 → v = [] ∨ imgLegal v = true →
        exec (.fnImageWrite m k v) s = done { h with
            fnSlots := h.fnSlots.put k { image := v, version := (h.fnSlots.get {} k).version + 1 } })
      ∧ (i = 0x1011 → sub = 1 → v = [1#8] → exec (.restoreDefaults m 1) s = done (h.restoreDefaults (h.mgrSecure m)))
      ∧ (i = 0xA000 → sub = 3 → v = [1#8] →
        exec (.brRestore m 1) s = done { h with boot := { h.boot with restore := true } })
      ∧ (i = 0xA000 → sub = 4 → v = [1#8] →
        exec (.brClear m 1) s = done { h with boot := { h.boot with clear := true } })
      ∧ (∀ k, i = 0x7000 → sub = 2 → v.length = 48 → m.session.isSome → h.ownerSlot = none →
        (List.range 4).find? (fun k => (h.fuses.owners.getD k {}).digest.isNone) = some k →
        exec (.secOwnerClaim m v) s
          = done ((h.setOwner k { (h.fuses.owners.getD k {}) with digest := some v }).log 0x0304 k 0 true))
      ∧ (∀ t, i = 0x7000 → sub = 3 → v = [1#8] → h.revokeOwner = some t →
        exec (.secOwnerRevoke m 1) s = done t
        ∧ (∀ k d, h.ownerSlot = some k → (h.fuses.owners.getD k {}).digest = some d →
            t.fuses.owners.getD k {} = { digest := some d, revoked := true })
        ∧ (∀ p ∈ t.sec.sessions, p.2.secure = false))
      ∧ (∀ (d : Nat) (w : Word32) (new : Region), i = 0x7100 + d → d < 256 → sub = 1 → v = toLE 4 w.toNat →
        new = (h.region d).withCtrl (w.toNat &&& regCtrlRw.toNat) → h.regRefusal d new = none →
        exec (.regionRunWrite m d 1 w) s = done (h.applyRegion d new))
      ∧ (∀ (d : Nat) (w : Word32), i = 0x7100 + d → d < 256 → v = toLE 4 w.toNat → (h.region d).valid = false →
        (h.region d).clearing = false →
        (sub = 2 → exec (.regionRunWrite m d 2 w) s = done (h.setRegion d { h.region d with base := w.toNat % 2 ^ 27 }))
        ∧ (sub = 3 → exec (.regionRunWrite m d 3 w) s = done (h.setRegion d { h.region d with size := w.toNat % 2 ^ 27 })))
      ∧ (∀ w : Word64, i = 0x9000 → sub = 5 → v = toLE 8 w.toNat →
        exec (.logCursorWrite m w) s = done (h.setMgr { h.mgr (mgrKey m) with cursor := w.toNat }))

/-- MCTP control (spec/15 R406, R408): on a transport that the device hears with the always-on domain up, each command is answered with
message type 0, its code and completion code; SET_ENDPOINT_ID changes the identifier of that transport alone. (Codes and bodies are
those of the MCTP standard, log 6.) The I3C target (spec/15 R407, R408): ENTDAA, SETNEWDA and RSTDAA give and take a bus's dynamic
address, and with an address lost go the endpoint identifier and the announced answers; maximum lengths from 64 to 256 are taken; a
private read fetches the oldest announced answer; a bus without an address asks to join. -/
def Obligations.ManagementBuses : Prop :=
  (∀ (s : State) (via : Transport) (k : Nat) (done : State → Nat → Nat → List Byte → Host.Outcome State Fault Refusal),
    eidIndex via = some k → s.aoUp = true → s.hears via = true →
    done = (fun t cmd code data => .next ((t.reply via (.mctp via ([0#8] ++ toLE 1 cmd ++ toLE 1 code ++ data))).settle s)) →
    (∀ op eid, op ≤ 1 → 1 ≤ eid → eid ≤ 254 →
      exec (.setEndpointId via op eid) s = done (s.setEid via k eid) 1 0 (toLE 1 0 ++ toLE 1 eid ++ toLE 1 0)
      ∧ (k < s.dict.eids.length → (s.setEid via k eid).dict.eids = s.dict.eids.set k eid))
    ∧ (∀ op eid, 1 < op ∨ eid = 0 ∨ 255 ≤ eid → exec (.setEndpointId via op eid) s = done s 1 2 [])
    ∧ exec (.getEndpointId via) s = done s 2 0 (toLE 1 (s.dict.eids.getD k 0) ++ toLE 1 0 ++ toLE 1 0)
    ∧ exec (.getEndpointUuid via) s = done s 3 0 (Config.uuid s.fuses.serial)
    ∧ (∀ ty, ty = 0xFF ∨ ty ∈ mctpTypes → exec (.getMctpVersionSupport via ty) s = done s 4 0 (Config.mctpVersions ty))
    ∧ exec (.getMessageTypeSupport via) s = done s 5 0 [4#8, 0#8, 5#8, 6#8, 0x7F#8]
    ∧ exec (.getVendorDefinedMessageSupport via 0) s = done s 6 0 [1#8, 0#8, 0x1B#8, 0x9F#8, 1#8, 0#8]
    ∧ exec (.getVendorDefinedMessageSupport via 1) s = done s 6 0 [0xFF#8, 1#8, 0#8, 0#8, 0xF9#8, 0xAD#8, 1#8, 0#8]
    ∧ (∀ cmd, exec (.mctpUnsupportedCmd via cmd) s = done s cmd 5 []))
  ∧ (∀ (s : State) (bus : Nat), bus < 2 → s.dict.addrs.length = 2 → s.dict.eids.length = 3 →
    (∀ a, s.aoUp = true → s.dict.addrs.getD bus 0 = 0 →
      exec (.entdaa bus a) s
        = .next (((s.setAddr bus a).emit (.i3c bus 2 (toBE 6 s.provisionedId ++ [6#8, 0#8]))).settle s)
      ∧ (s.setAddr bus a).dict.addrs.getD bus 0 = a)
    ∧ (∀ a u, s.aoUp = true → s.dict.addrs.getD bus 0 ≠ 0 → u = s.loseAddr bus →
      exec (.entdaa bus a) s
        = .next (((u.setAddr bus a).emit (.i3c bus 2 (toBE 6 u.provisionedId ++ [6#8, 0#8]))).settle s)
      ∧ u.dict.eids.getD bus 1 = 0 ∧ ∀ w ∈ u.dict.waiting, w.1 ≠ bus)
    ∧ (s.hears (.i3c bus) = true →
      (∀ a, exec (.setnewda bus a) s = .next ((s.setAddr bus a).settle s))
      ∧ (∃ t, exec (.rstdaa bus) s = .next t ∧ t.dict.addrs.getD bus 1 = 0 ∧ t.dict.eids.getD bus 1 = 0
          ∧ (∀ w ∈ t.dict.waiting, w.1 ≠ bus) ∧ t.dict.addrs.getD (1 - bus) 0 = s.dict.addrs.getD (1 - bus) 0)
      ∧ (∀ n, 64 ≤ n → n ≤ 256 →
        exec (.setmwl bus n) s = .next (({ s with dict := { s.dict with mwl := s.dict.mwl.set bus n } } : State).settle s)
        ∧ exec (.setmrl bus n) s = .next (({ s with dict := { s.dict with mrl := s.dict.mrl.set bus n } } : State).settle s)))
    ∧ (∀ w, s.dict.waiting.find? (fun w => w.1 == bus) = some w →
      exec (.i3cPrivateRead bus) s
        = .next ((({ s with dict := { s.dict with waiting := s.dict.waiting.erase w } } : State).emit w.2).settle s))
    ∧ (s.aoUp = true → s.dict.addrs.getD bus 0 = 0 → exec (.i3cHotJoinTimer bus) s = .next ((s.emit (.i3c bus 1 [])).settle s)))

/-- The persistent store (spec/15 R421, R424, R426, R428): a commit takes a token, erases the bank that is not the winner and writes the
image of the present values; read back well it is the winner, read back badly it is repeated once and then the store is FAILED and
logged; a token comes each minute up to 64; the blocks of a firmware slot are erased. -/
def Obligations.StoreCommits : Prop :=
  (∀ s : State, s.store.pending = true → s.store.writing = none → s.store.tokens ≠ 0 → s.warned = false → s.store.absent = false →
    s.store.failed = false →
    exec .storeCommitStart s = .next ((s.beginCommit true).settle s)
    ∧ (s.beginCommit true).store.tokens = s.store.tokens - 1 ∧ (s.beginCommit true).store.pending = false
    ∧ ∃ target, (s.beginCommit true).store.writing
        = some (target, s.nextSeq, recordBytes s.nextSeq s.incarnation 0xFFFFFFFF s.recordEntries)
        ∧ s.store.winner ≠ some target ∧ (s.beginCommit true).store.banks = s.store.banks.set target [])
  ∧ (∀ (s : State) (b n : Nat) (image : List Byte), s.store.writing = some (b, n, image) → s.warned = false → s.boot.restart = false →
    exec (.storeCommitEnd true) s = .next (({ s with store := { s.store with
        writing := none, again := false, winner := some b, seq := n
        banks := s.store.banks.set b (putBytes image 0x14 (toLE 4 0)) } } : State).settle s)
    ∧ (s.store.again = false →
      exec (.storeCommitEnd false) s = .next (({ s with store := { s.store with again := true } } : State).settle s))
    ∧ (s.store.again = true → exec (.storeCommitEnd false) s = .next ((({ s with store := { s.store with
        writing := none, failed := true, pending := false } } : State).log 0x0601 0 n).settle s)))
  ∧ (∀ s : State, exec .storeTokenTick s
      = .next (({ s.headland with store := { s.store with tokens := min 64 (s.store.tokens + 1) } } : State).settle s))
  ∧ (∀ (s : State) (k : Nat), (s.store.fw.getD k {}).st = 1 → s.warned = false →
    exec (.fwSlotEraseComplete k) s = .next ((s.setFw k { (s.store.fw.getD k {}) with
      st := 0, blocks := (s.store.fw.getD k {}).erasing, erasing := 0, image := [] }).settle s))

/-- The winning bank (spec/15 R422): a bank is valid when MAGIC, VERSION, LENGTH, COMMIT and the CRC are right; of two valid banks bank 1
wins when its SEQ is later than bank 0's by serial-number arithmetic, else bank 0; BS02 takes the winner, and with none sets STORE_LOAD
to 1 and logs it. -/
def Obligations.WinningBank : Prop :=
  (∀ b : List Byte, bankValid b = true ↔ (field b 0 4 = 0x5254534B ∧ field b 4 2 = 1 ∧ 64 ≤ field b 0x0C 4 ∧ field b 0x0C 4 ≤ 2 ^ 20
    ∧ field b 0x0C 4 % 4 = 0 ∧ b.length = field b 0x0C 4 ∧ field b 0x14 4 = 0
    ∧ field b (field b 0x0C 4 - 4) 4 = crc32c (putBytes (b.take (field b 0x0C 4 - 4)) 0x14 (toLE 4 0xFFFFFFFF))))
  ∧ (∀ b0 b1 : List Byte,
    (bankValid b0 = false → bankValid b1 = false → winningBank b0 b1 = none)
    ∧ (bankValid b0 = true → bankValid b1 = false → winningBank b0 b1 = some 0)
    ∧ (bankValid b0 = false → bankValid b1 = true → winningBank b0 b1 = some 1)
    ∧ (∀ d, bankValid b0 = true → bankValid b1 = true → d = (field b1 8 4 + 2 ^ 32 - field b0 8 4) % 2 ^ 32 →
      (1 ≤ d ∧ d ≤ 2 ^ 31 - 1 → winningBank b0 b1 = some 1)
      ∧ (¬ (1 ≤ d ∧ d ≤ 2 ^ 31 - 1) → winningBank b0 b1 = some 0)))
  ∧ (∀ (s : State) (b0 b1 : List Byte), s.store.banks = [b0, b1] →
    (s.loadStore false).store.winner = winningBank b0 b1
    ∧ (winningBank b0 b1 = none → (s.loadStore false).store.load = 1 ∧ (s.loadStore false).evlog = (s.log 0x0601 2 0).evlog
        ∧ (s.loadStore false).objs = s.objs)
    ∧ ∀ alt result, (s.passStep 2 0 alt result).store.winner = if result = 1 then none else winningBank b0 b1)

/-- The record that a commit writes is valid once its COMMIT field is 0 (spec/15 R421, R422): the length, magic, version and CRC agree. -/
def Obligations.CommittedRecordsAreValid : Prop :=
  ∀ (seq inc : Nat) (es : List StoreEntry), 64 + (es.flatMap entryEncode).length + 4 ≤ 2 ^ 20 →
    bankValid (putBytes (recordBytes seq inc 0xFFFFFFFF es) 0x14 (toLE 4 0)) = true

/-- SPDM (spec/16 R442-R446): a responder that answers gives version, capabilities, algorithms, digests, certificate parts, challenges and
measurements; a key exchange opens the lowest free of 4 sessions, none after an entropy failure; FINISH establishes it, Secure where the
requester's root is the active owner's; heartbeats, key updates and the end of a session, chunks both ways, and errors for what it does
not serve. (Codes and bodies are those of the standard, log 6.) -/
def Obligations.SpdmResponder : Prop :=
  (∀ (s : State) (via : Transport) (done : State → Nat → Nat → Nat → List Byte → Host.Outcome State Fault Refusal), s.spdmUp via = true →
    done = (fun t code p1 p2 body => .next ((t.headland.spdmSend via (spdmMsg code p1 p2 body)).settle s)) →
    exec (.getVersion via) s = done s 0x04 0 0 (toLE 1 0 ++ toLE 1 1 ++ toLE 2 0x1300)
    ∧ exec (.getCapabilities via) s
        = done s 0x61 0 0 (Config.answerBody 0x61 [] ++ toLE 4 spdmCaps ++ toLE 4 Config.dataTransferSize ++ toLE 4 65536)
    ∧ (∀ body, exec (.negotiateAlgorithms via body) s = done s 0x63 0 0 (Config.answerBody 0x63 body))
    ∧ exec (.getDigests via) s = done s 0x01 0 1 (Config.sha384 Config.certChain)
    ∧ (∀ off len part, off ≤ Config.certChain.length → part = (Config.certChain.drop off).take len →
      exec (.getCertificate via 0 off len) s
        = done s 0x02 0 0 (toLE 2 part.length ++ toLE 2 (Config.certChain.length - off - part.length) ++ part))
    ∧ (∀ slot off len, slot ≠ 0 → exec (.getCertificate via slot off len) s = done s 0x7F 1 0 [])
    ∧ (∀ nonce body, body = Config.sha384 Config.certChain ++ s.freeBytes 0 32 →
      exec (.challenge via 0 nonce) s = done s.fresh.2 0x03 0 1 (body ++ Config.akSign (nonce ++ body)))
    ∧ (∀ i signed nonce body, i ≤ 5 ∨ i = 0xFF →
      body = (if i = 0 then [] else if i = 0xFF then (range 1 5).flatMap (fun k => toLE 1 k ++ s.measurement k)
        else toLE 1 i ++ s.measurement i) →
      exec (.getMeasurements via i signed nonce) s = done s.fresh.2 0x60 (if i = 0 then 5 else 0) 0
        (body ++ (if signed then s.freeBytes 0 32 ++ Config.akSign (nonce ++ s.freeBytes 0 32 ++ body) else [])))
    ∧ (∀ n body, s.sec.entropyFail = false → (List.range 4).find? (fun n => (s.sec.sessions.find n).isNone) = some n →
      exec (.keyExchange via body) s = done (s.fresh.2.setSession n { via := via, keyGen := s.freeCount }) 0x64 0 0
        (toLE 2 n ++ s.freeBytes 0 96 ++ Config.akSign (body ++ s.freeBytes 0 96)))
    ∧ (∀ body, s.sec.entropyFail = true → exec (.keyExchange via body) s = done s 0x7F 5 0 [])
    ∧ (∀ n x, s.sec.sessions.find n = some x → x.via = via →
      (∀ root secure, x.established = false → secure = (match root, s.ownerSlot.bind (fun k => (s.fuses.owners.getD k {}).digest) with
          | some r, some d => Config.sha384 r == d
          | _, _ => false) →
        exec (.finish n root true) s = done (s.setSession n { x with established := true, secure := secure }) 0x65 0 0 [])
      ∧ (x.established = true →
        exec (.heartbeat n) s = done s 0x68 0 0 []
        ∧ (∀ op, op = 1 ∨ op = 2 →
          exec (.keyUpdate n op) s = done (s.fresh.2.setSession n { x with keyGen := s.freeCount }) 0x69 op 0 [])
        ∧ exec (.keyUpdate n 3) s = done s 0x69 3 0 []
        ∧ exec (.endSession n) s = done (s.dropSession n) 0x6C 0 0 []
        ∧ (s.dropSession n).sec.sessions.find n = none))
    ∧ (∀ h total bytes, total ≤ 65536 → bytes.length ≤ 65536 →
      exec (.chunkSend via h 0 false total bytes) s = done { s with sec := { s.sec with
        chunkIn := s.sec.chunkIn.filter (fun c => !(c.1 == via && c.2.1 == h)) ++ [(via, h, 1, bytes)] } } 0x05 0 h (toLE 2 0))
    ∧ (∀ h number last total bytes sofar, 0 < number → total ≤ 65536 → (sofar ++ bytes).length ≤ 65536 →
      s.sec.chunkIn.find? (fun c => c.1 == via && c.2.1 == h) = some (via, h, number, sofar) →
      exec (.chunkSend via h number last total bytes) s = done { s with sec := { s.sec with
        chunkIn := if last then s.sec.chunkIn.filter (fun c => !(c.1 == via && c.2.1 == h))
          else s.sec.chunkIn.filter (fun c => !(c.1 == via && c.2.1 == h)) ++ [(via, h, number + 1, sofar ++ bytes)] } }
            0x05 0 h (toLE 2 number))
    ∧ (∀ h number bytes size part, s.sec.chunkOut.find? (fun c => c.1 == via && c.2.1 == h) = some (via, h, bytes) →
      size = max 1 Config.dataTransferSize → part = (bytes.drop (number * size)).take size →
      ((number + 1) * size < bytes.length → exec (.chunkGet via h number) s = .next ((s.reply via (.spdm via (spdmMsg 0x06 0 h
        (toLE 2 number ++ toLE 4 part.length ++ part)))).settle s))
      ∧ (number * size < bytes.length → bytes.length ≤ (number + 1) * size →
        exec (.chunkGet via h number) s = .next ((({ s with sec := { s.sec with
          chunkOut := s.sec.chunkOut.filter (fun c => !(c.1 == via && c.2.1 == h)) } } : State).reply via (.spdm via (spdmMsg 0x06 1 h
            (toLE 2 number ++ toLE 4 part.length ++ part)))).settle s)))
    ∧ (∀ code, exec (.spdmUnsupportedRequest via code) s = done s 0x7F 7 code []))
  ∧ (∀ (s : State) (n protocol : Nat) (body : List Byte), s.doeSession n = true →
    (protocol ≤ 1 → exec (.vendorDefinedRequest (some n) protocol body) s = .next (s.settle s))
    ∧ (1 < protocol → s.spdmUp .doe = true → exec (.vendorDefinedRequest (some n) protocol body) s
        = .next ((s.headland.spdmSend .doe (spdmMsg 0x7F 7 0xFE [])).settle s)))

/-! ### Power, supplies, resets, bring-up (spec/17) -/

/-- Switchable domains (spec/17 R455-R459): one without work stops its clock; one clock-gated that nothing keeps awake drains where FALLOW
is enabled, powers off and is FALLOW; a packet at its gate restarts it, cancels a drain, or is held, at most 16, and knocks; a knocked
domain wakes within what its share allows and is ON with its packets delivered, the data flits of the light links among them (spec/11
R298). The headland's fast clock stops when idle. -/
def Obligations.PowerDomains : Prop :=
  (∀ (s : State) (d : Nat),
    (s.domain d = .on → s.working d = false → exec (.domainClockGate d) s = .next ((s.setDomain d .clockGated).settle s))
    ∧ (s.domain d = .clockGated → s.fallowEnabled = true → s.keptAwake d = false →
      exec (.domainDrainStart d) s = .next ((s.setDomain d .draining).settle s))
    ∧ (s.domain d = .clockGated → s.fallowEnabled = false ∨ s.keptAwake d = true →
      exec (.domainDrainStart d) s = .next (s.settle s))
    ∧ (s.domain d = .draining → exec (.domainDrainComplete d) s = .next ((s.setDomain d .poweringOff).settle s))
    ∧ (s.domain d = .poweringOff → exec (.domainPowerOffComplete d) s = .next ((s.setDomain d .fallow).startWakes.settle s)
      ∧ (d ∉ s.pwr.knocks → ((s.setDomain d .fallow).startWakes).domain d = .fallow))
    ∧ (∀ packet,
      (s.domain d = .clockGated → exec (.gatePacketArrival d packet) s = .next ((s.setDomain d .on).settle s))
      ∧ (s.domain d = .draining →
        exec (.gatePacketArrival d packet) s = .next (((s.setDomain d .on).tick1 pwrDrainCancel).settle s))
      ∧ (s.domain d = .waking → (s.pwr.gates.get [] d).length < 16 →
        exec (.gatePacketArrival d packet) s = .next (({ s with pwr := { s.pwr with
          gates := s.pwr.gates.put d (s.pwr.gates.get [] d ++ [packet]) } } : State).settle s))
      ∧ (s.domain d = .waking → 16 ≤ (s.pwr.gates.get [] d).length → exec (.gatePacketArrival d packet) s = .next (s.settle s))
      ∧ (s.domain d = .fallow → (s.pwr.gates.get [] d).length < 16 → s.pwr.knocks = [] →
        (∀ f, domShare d = some f → s.pwr.begun.getD f 0 < s.wakeLimit) →
        ∃ t, exec (.gatePacketArrival d packet) s = .next t ∧ t.domain d = .waking
          ∧ t.pwr.gates.get [] d = s.pwr.gates.get [] d ++ [packet] ∧ t.ctr pwrWakes = ctrAdd pwrWakes (s.ctr pwrWakes) 1))
    ∧ (∀ u, s.domain d = .waking → u = (s.setDomain d .on).freshDomain d →
      exec (.domainWakeComplete d) s
        = .next ((({ u with pwr := { u.pwr with gates := u.pwr.gates.del d } } : State).takeGated d).settle s))
    ∧ (s.domain d = .waking → (∀ g ∈ s.lnk.gated, g.1 ≠ d) →
      ∃ t, exec (.domainWakeComplete d) s = .next t ∧ t.domain d = .on ∧ t.pwr.gates.find d = none
        ∧ (∀ d', d' ≠ d → t.domain d' = s.domain d') ∧ t.mem = s.mem))
  ∧ (∀ s : State,
    exec .domainWakeWindow s
      = .next (({ s with pwr := { s.pwr with begun := List.replicate 8 0 } } : State).startWakes.settle s)
    ∧ (s.store.writing = none → s.boot.running = [] →
      exec .headlandClockIdleStop s = .next (({ s with pwr := { s.pwr with fastClock := false } } : State).settle s)))

/-- Operating points and the current limit (spec/17 R461, R462, spec/20 R508): a decision takes the mean of the last 10 ms against the limit
and moves each die one point down or up, or keeps it; changes complete, and the set point follows the highest point; while a supply
warning or a silent regulator freezes them nothing moves. A read-back more than 10 mV off is a warning; a trip of the current limit is
counted, its release logged. Temperatures and supplies (spec/17 R463-R466): the hottest sensor of each die is taken; at 105 C a field
die goes to point 0 unless its point is frozen; a trip drives THERMTRIP_N and holds a core reset until every die is below 95 C. A rail
below its warning level is counted once and logged when it recovers; below its reset level VDD_AO gives a power-on reset, another rail a
core reset. -/
def Obligations.PowerControl : Prop :=
  ((∀ (s t : State) (power : List Nat), power ≠ [] →
    t = ({ s with pwr := { s.pwr with pkgPower := power.sum / power.length } } : State).bump pwrEnergyMj (power.getLastD 0) →
    (s.diesUp = false ∨ s.frozen = true → exec (.dvfsTick power) s = .next (t.settle s))
    ∧ (s.diesUp = true → s.frozen = false → s.pwr.target.length = 8 →
      ∃ u, exec (.dvfsTick power) s = .next u
        ∧ (∀ f, f < 8 → u.pwr.target.getD f 0 = s.nextPoint f (s.pwr.target.getD f 0)
            (decide (s.setting 0x3000 1 * power.length < power.sum))
            (decide (100 * power.sum < 95 * s.setting 0x3000 1 * power.length)))
        ∧ u.pwr.point = s.pwr.point ∧ u.pwr.doms = s.pwr.doms ∧ u.mem = s.mem))
  ∧ (∀ (s : State) (f p : Nat) (above under : Bool),
    ((s.pwr.throttle.getD f {}).active = true ∨ above = true ∨ s.ceiling f < p → s.nextPoint f p above under = p - 1)
    ∧ ((s.pwr.throttle.getD f {}).active = false → above = false → under = true → p < s.ceiling f →
      s.nextPoint f p above under = p + 1)
    ∧ ((s.pwr.throttle.getD f {}).active = false → above = false → under = false → p ≤ s.ceiling f → s.nextPoint f p above under = p))
  ∧ (∀ (s : State) (die : Nat), s.frozen = false → s.diesUp = true →
    exec (.pstateChangeComplete die) s = .next (({ s with pwr := { s.pwr with
      point := s.pwr.point.set die (s.pwr.target.getD die 0) } } : State).writeSetPoint.settle s))
  ∧ (∀ s : State, s.diesUp = true →
    exec (.avsReadback none) s = .next (({ s with pwr := { s.pwr with avsOk := false } } : State).settle s)
    ∧ (∀ v, v ≤ s.pwr.setMv + 10 → s.pwr.setMv ≤ v + 10 →
      exec (.avsReadback (some v)) s = .next (({ s with pwr := { s.pwr with avsOk := true } } : State).settle s))
    ∧ (∀ v, s.pwr.setMv + 10 < v ∨ v + 10 < s.pwr.setMv →
      exec (.avsReadback (some v)) s = .next ((({ s with pwr := { s.pwr with avsOk := true } } : State).supplyWarn 2 v).settle s))
    ∧ (s.pwr.currentLimit = none →
      exec .currentLimitTrip s = .next ((({ s with pwr := { s.pwr with currentLimit := some s.time } } : State).tick1
        pwrCurrentLimit).settle s)))
  ∧ (∀ (s : State) (t : Nat), s.pwr.currentLimit = some t →
    exec .currentLimitRelease s = .next ((({ s with pwr := { s.pwr with currentLimit := none } } : State).log 0x0403 0
      ((s.time - t) / 1000)).settle s)))
  ∧ ((∀ (s : State) (readings : List Nat), s.pwr.hard.length = 10 → s.pwr.throttle.length = 8 →
    ∃ t, exec (.dieTempSample readings) s = .next t
      ∧ (∀ d, d < 10 → t.pwr.temps.getD d 0 = min 255 (((readings.drop (4 * d)).take 4).foldl max 0))
      ∧ (∀ d, d < 10 → 105 ≤ t.pwr.temps.getD d 0 → (t.pwr.hard.getD d {}).active = true)
      ∧ (∀ d, d < 8 → 105 ≤ t.pwr.temps.getD d 0 → s.frozen = false → d < s.pwr.target.length → t.pwr.target.getD d 1 = 0)
      ∧ ((∀ d, d < 10 → t.pwr.temps.getD d 0 < 95) → t.pwr.trip = false)
      ∧ t.pwr.point = s.pwr.point ∧ t.mem = s.mem ∧ t.hif.rings = s.hif.rings)
  ∧ (∀ (s : State) (die : Nat), s.pwr.trip = false →
    ∃ t, exec (.thermalTrip die) s = .next t ∧ t.pwr.trip = true ∧ t.boot.lastReset = 5
      ∧ OutMsg.pin 0 false ∈ t.out ∧ t.time = s.time ∧ (∀ r, (t.ring r).st = .disabled))
  ∧ (∀ (s : State) (rail mv : Nat),
    (s.belowWarning rail mv = true → s.pwr.rails.find rail = none →
      exec (.supplyWarning rail mv) s = .next ((({ s with pwr := { s.pwr with
        rails := s.pwr.rails.put rail { lowest := mv, since := s.time } } } : State).tick1 pwrWarnEvents).settle s))
    ∧ (∀ x, s.belowWarning rail mv = true → s.pwr.rails.find rail = some x →
      exec (.supplyWarning rail mv) s = .next (({ s with pwr := { s.pwr with
        rails := s.pwr.rails.put rail { x with lowest := min x.lowest mv } } } : State).settle s))
    ∧ (∀ x, s.pwr.rails = [(rail, x)] →
      exec .supplyWarningRecover s = .next ((({ s with pwr := { s.pwr with rails := [] } } : State).log 0x0401 rail
        (x.lowest % 2 ^ 16 + min ((s.time - x.since) / 1000) (2 ^ 32 - 1) * 2 ^ 16)).settle s))
    ∧ (s.belowReset 0 mv = true → exec (.supplyResetLevel 0 mv) s = .next ((s.deviceReset true 2).settle s))
    ∧ (rail ≠ 0 → s.belowReset rail mv = true → exec (.supplyResetLevel rail mv) s = .next ((s.deviceReset false 4).settle s))))

/-- Resets (spec/17 R466, R467; spec/20 R505, R509, R524): each cause with its code; the lines follow; RST_N going high starts device time
and BS00. A core reset keeps the event log, the bring-up records, the number of starts, INCARNATION and device time; a power-on reset
keeps none of them; neither touches fuses, the banks of the store, the firmware slots, or what was sent. -/
def Obligations.Resets : Prop :=
  (∀ s : State,
    exec .powerOnReset s = .next ((s.deviceReset true 0).settle s)
    ∧ exec .rstNAssert s = .next (((s.setLines { s.lines with rstN := false }).deviceReset true 1).settle s)
    ∧ (s.lines.rstN = false → ∀ t, t = (({ s.setLines { s.lines with rstN := true } with
          time := 0, boot := { s.boot with startTime := 0 } } : State).startStep 0 0) →
        exec .rstNDeassert s = .next (t.settle s)
        ∧ (s.lines.tapOut = false → s.pwr.trip = false → s.boot.restart = false → s.boot.ended = [] → s.boot.running = [] →
            s.boot.safe = false → s.hif.safeMode = false → (s.brRec 0 0).skip = false → (t.boot.running.find (0, 0)).isSome))
    ∧ (s.lines.perst = false →
      exec .perstAssert s = .next (((s.setLines { s.lines with perst := true }).deviceReset false 3).settle s))
    ∧ exec .perstDeassert s = .next ((s.setLines { s.lines with perst := false }).settle s)
    ∧ (s.lines.tapOut = false → exec .tapResetRelease s
        = .next (((s.setLines { s.lines with tapOut := true }).deviceReset false s.boot.lastReset).settle s))
    ∧ exec .tapReset s = .next ((s.setLines { s.lines with tapOut := false }).settle s))
  ∧ (∀ (s : State) (powerOn : Bool) (code : Nat), ∀ t, t = s.deviceReset powerOn code →
    t.fuses = s.fuses ∧ t.store.banks = s.store.banks ∧ t.store.fw = s.store.fw ∧ t.out = s.out ∧ t.pending = s.pending
    ∧ t.lines = s.lines ∧ t.boot.lastReset = code ∧ t.hif.notReady = true ∧ t.mem.lines = [] ∧ t.mem.waiting = [] ∧ t.ctrs = []
    ∧ t.regs = [] ∧ t.dsp.stages = [] ∧ (∀ r, (t.ring r).st = .disabled) ∧ (∀ u, (t.unit u).st = .granaryOnly)
    ∧ (∀ p, (t.port p).st = .disabled) ∧ (∀ d, t.domain d = .fallow) ∧ t.sec.sessions = []
    ∧ (powerOn = false → t.evlog = s.evlog ∧ t.boot.recs = s.boot.recs ∧ t.boot.starts = s.boot.starts ∧ t.time = s.time
        ∧ t.objs.find (0x5000, 5) = s.objs.find (0x5000, 5))
    ∧ (powerOn = true → t.evlog = {} ∧ t.boot.recs = [] ∧ t.boot.starts = 0 ∧ t.time = 0 ∧ t.objs = []))

/-- Bring-up (spec/17 R468-R471): a step that may run begins its first attempt at the alternative its record names; an attempt that passes
within its limit records the alternative and has its effect, BS23 that the device is READY; one that fails is followed by the next
attempt, the next alternative, or the failure of the step, and so does one whose time is over. -/
def Obligations.BringUp : Prop :=
  (∀ (s : State) (step unit alt : Nat), s.mayRun step (brKey step unit) = true →
    (s.brRec (brKey step unit).1 (brKey step unit).2).skip = false →
    (s.brAlts step 0).find? (fun a => decide ((s.brRec (brKey step unit).1 (brKey step unit).2).alt ≤ a)) = some alt →
    exec (.bringupStepRun step unit) s = .next (((s.openStep step).attempt (brKey step unit) alt 1).settle s)
    ∧ (step ≠ 15 → step ≠ 16 →
      ((s.openStep step).attempt (brKey step unit) alt 1).boot.running.find (brKey step unit) = some (alt, 1)))
  ∧ (∀ (s t : State) (step unit alt n result micros : Nat), s.boot.running.find (brKey step unit) = some (alt, n) →
    t = { s with boot := { s.boot with duration := s.boot.duration.put step (s.boot.duration.get 0 step + micros) } } →
    (micros ≤ brLimit step → t.canPass step unit alt result = true →
      exec (.bringupAttemptEnd step unit true result micros) s = .next ((t.stepPass (brKey step unit) unit alt result).settle s))
    ∧ (n < brAttempts step →
      exec (.bringupAttemptEnd step unit false result micros) s = .next ((t.attempt (brKey step unit) alt (n + 1)).settle s))
    ∧ (∀ a, brAttempts step ≤ n → (t.brAlts step result).find? (fun a => decide (alt < a)) = some a →
      exec (.bringupAttemptEnd step unit false result micros) s = .next ((t.attempt (brKey step unit) a 1).settle s))
    ∧ (brAttempts step ≤ n → (t.brAlts step result).find? (fun a => decide (alt < a)) = none →
      exec (.bringupAttemptEnd step unit false result micros) s = .next ((t.stepFail (brKey step unit) unit alt).settle s))
    ∧ (result = 0 → micros = brLimit step →
      exec (.bringupAttemptTimeout step unit) s = exec (.bringupAttemptEnd step unit false 0 micros) s))
  ∧ (∀ (s : State) (alt result : Nat), s.boot.safe = false →
    (s.stepPass (23, 0) 0 alt result).hif.notReady = false ∧ OutMsg.drs ∈ (s.stepPass (23, 0) 0 alt result).out
    ∧ (s.stepPass (23, 0) 0 alt result).boot.ended = s.boot.ended ++ [(23, 0)])
end

