-- ==== Sys2Proof/Laws/Memory.lean ====
section
/-!
SUPPORT. Memory at rest: every operation on its cells keeps the canonical form, and a byte reads as it was last written.
-/
namespace Sys2Proof.Machine

theorem cellsRising_weaken {lo hi : Option Nat} {m : List Host.Cell}
    (hlo : ∀ x, hi = some x → ∃ y, lo = some y ∧ x ≤ y) (h : cellsRising lo m = true) : cellsRising hi m = true := by
  cases m with
  | nil => rfl
  | cons c rest =>
    obtain ⟨a, v⟩ := c
    simp only [cellsRising, Bool.and_eq_true] at h ⊢
    refine ⟨⟨?_, h.1.2⟩, h.2⟩
    cases hi with
    | none => rfl
    | some x =>
      obtain ⟨y, hy, hxy⟩ := hlo x rfl
      subst hy
      have := h.1.1
      simp only [decide_eq_true_eq] at this ⊢
      omega

theorem cellsRising_none {lo : Option Nat} {m : List Host.Cell} (h : cellsRising lo m = true) : cellsRising none m = true :=
  cellsRising_weaken (by intro x hx; cases hx) h

theorem cellPut_rising {m : List Host.Cell} {lo : Option Nat} {a : Nat} {v : Byte} (hlo : ∀ x, lo = some x → x < a)
    (h : cellsRising lo m = true) : cellsRising lo (cellPut m a v) = true := by
  induction m generalizing lo with
  | nil =>
    simp only [cellPut]
    split
    · rfl
    · rename_i hv
      cases lo with
      | none => simp [cellsRising, hv]
      | some x => simp [cellsRising, hv, hlo x rfl]
  | cons c rest ih =>
    obtain ⟨b, w⟩ := c
    simp only [cellsRising, Bool.and_eq_true] at h
    obtain ⟨⟨h1, h2⟩, h3⟩ := h
    simp only [cellPut]
    split
    · split
      · simp [cellsRising, h1, h2, h3]
      · rename_i hab hv
        cases lo with
        | none => simp_all [cellsRising]
        | some x => simp_all [cellsRising]
    · split
      · split
        · subst a
          exact cellsRising_weaken (by intro x hx; exact ⟨b, rfl, Nat.le_of_lt (hlo x hx)⟩) h3
        · subst a
          simp_all [cellsRising]
      · rename_i h4 h5
        have := ih (lo := some b) (by intro x hx; cases hx; omega) h3
        simp only [cellsRising, Bool.and_eq_true]
        exact ⟨⟨h1, h2⟩, this⟩

/-- A byte write keeps the canonical form. -/
theorem cellPut_wf {m : List Host.Cell} (h : Memory.wf m = true) (a : Nat) (v : Byte) : Memory.wf (cellPut m a v) = true :=
  cellPut_rising (by intro x hx; cases hx) h

/-- A write of bytes keeps the canonical form. -/
theorem cellsPut_wf {m : List Host.Cell} (h : Memory.wf m = true) (a : Nat) (bs : List Byte) :
    Memory.wf (cellsPut m a bs) = true := by
  induction bs generalizing m a with
  | nil => exact h
  | cons b rest ih => exact ih (cellPut_wf h a b) (a + 1)

theorem filter_rising {m : List Host.Cell} {lo : Option Nat} (p : Host.Cell → Bool) (h : cellsRising lo m = true) :
    cellsRising lo (m.filter p) = true := by
  induction m generalizing lo with
  | nil => rfl
  | cons c rest ih =>
    obtain ⟨b, w⟩ := c
    have h' := h
    simp only [cellsRising, Bool.and_eq_true] at h
    obtain ⟨⟨h1, h2⟩, h3⟩ := h
    rw [List.filter_cons]
    split
    · simp only [cellsRising, Bool.and_eq_true]
      exact ⟨⟨h1, h2⟩, ih h3⟩
    · apply ih
      cases lo with
      | none => exact cellsRising_none h3
      | some x =>
        simp only [decide_eq_true_eq] at h1
        exact cellsRising_weaken (by intro y hy; cases hy; exact ⟨b, rfl, Nat.le_of_lt h1⟩) h3

/-- Dropping cells keeps the canonical form. -/
theorem filter_wf {m : List Host.Cell} (p : Host.Cell → Bool) (h : Memory.wf m = true) : Memory.wf (m.filter p) = true :=
  filter_rising p h

/-- Zeroing a range keeps the canonical form. -/
theorem cellsZero_wf {m : List Host.Cell} (h : Memory.wf m = true) (a n : Nat) : Memory.wf (cellsZero m a n) = true :=
  filter_wf _ h

/-- A byte below every listed address reads as unlisted. -/
theorem cellGet_below {m : List Host.Cell} {lo a : Nat} (h : cellsRising (some lo) m = true) (ha : a ≤ lo) :
    cellGet m a = unlisted := by
  cases m with
  | nil => rfl
  | cons c rest =>
    obtain ⟨b, w⟩ := c
    simp only [cellsRising, Bool.and_eq_true, decide_eq_true_eq] at h
    have : a < b := by omega
    simp [cellGet, this, Nat.ne_of_gt this]

/-- A byte reads as it was last written. -/
theorem cellGet_put_same {m : List Host.Cell} (h : Memory.wf m = true) (a : Nat) (v : Byte) : cellGet (cellPut m a v) a = v := by
  have : ∀ (m : List Host.Cell) (lo : Option Nat), cellsRising lo m = true → cellGet (cellPut m a v) a = v := by
    intro m
    induction m with
    | nil => intro lo _; by_cases hv : v = unlisted <;> simp [cellPut, hv, cellGet]
    | cons c rest ih =>
      intro lo h
      obtain ⟨b, w⟩ := c
      simp only [cellsRising, Bool.and_eq_true] at h
      simp only [cellPut]
      by_cases hab : a < b
      · by_cases hv : v = unlisted
        · simp [hab, hv, cellGet, Nat.ne_of_gt hab]
        · simp [hab, hv, cellGet]
      · by_cases he : a = b
        · subst he
          by_cases hv : v = unlisted
          · simp only [Nat.lt_irrefl, if_false, if_true, hv]
            exact cellGet_below h.2 (Nat.le_refl a)
          · simp [hv, cellGet]
        · have hba : ¬ b = a := fun e => he e.symm
          simp only [hab, he, if_false, cellGet, hba]
          exact ih _ h.2
  exact this m none h

/-- A write of one byte leaves every other byte as it was. -/
theorem cellGet_put_other {m : List Host.Cell} (h : Memory.wf m = true) {a x : Nat} (v : Byte) (hx : x ≠ a) :
    cellGet (cellPut m a v) x = cellGet m x := by
  have : ∀ (m : List Host.Cell) (lo : Option Nat), cellsRising lo m = true → cellGet (cellPut m a v) x = cellGet m x := by
    intro m
    induction m with
    | nil =>
      intro lo _
      by_cases hv : v = unlisted
      · simp [cellPut, hv, cellGet]
      · simp only [cellPut, hv, if_false, cellGet]
        have : ¬ a = x := fun e => hx e.symm
        simp [this]
    | cons c rest ih =>
      intro lo h
      obtain ⟨b, w⟩ := c
      simp only [cellsRising, Bool.and_eq_true] at h
      have hax : ¬ a = x := fun e => hx e.symm
      simp only [cellPut]
      by_cases hab : a < b
      · by_cases hv : v = unlisted
        · simp [hab, hv]
        · simp only [hab, hv, if_true, if_false, cellGet, hax]
          by_cases hxa : x < a
          · have h1 : ¬ b = x := by omega
            have h2 : x < b := by omega
            simp [hxa, h1, h2]
          · simp [hxa]
      · by_cases he : a = b
        · subst he
          by_cases hv : v = unlisted
          · simp only [Nat.lt_irrefl, if_false, if_true, hv, cellGet, hax]
            by_cases hxa : x < a
            · simp only [hxa, if_true]
              exact cellGet_below h.2 (by omega)
            · simp [hxa]
          · simp [hv, cellGet, hax]
        · simp only [hab, he, if_false, cellGet]
          split
          · rfl
          · split
            · rfl
            · exact ih _ h.2
  exact this m none h

/-- A write of bytes leaves every byte outside them as it was. -/
theorem cellGet_puts_other {m : List Host.Cell} (h : Memory.wf m = true) {a x : Nat} (bs : List Byte)
    (hx : x < a ∨ a + bs.length ≤ x) : cellGet (cellsPut m a bs) x = cellGet m x := by
  induction bs generalizing m a with
  | nil => rfl
  | cons b rest ih =>
    simp only [List.length_cons] at hx
    rw [cellsPut, ih (cellPut_wf h a b) (by omega), cellGet_put_other h b (by omega)]

/-- A byte of a write of bytes reads as written. -/
theorem cellGet_puts_same {m : List Host.Cell} (h : Memory.wf m = true) {a i : Nat} (bs : List Byte) (hi : i < bs.length) :
    cellGet (cellsPut m a bs) (a + i) = bs.getD i 0 := by
  induction bs generalizing m a i with
  | nil => cases hi
  | cons b rest ih =>
    rw [cellsPut]
    cases i with
    | zero =>
      rw [cellGet_puts_other (cellPut_wf h a b) rest (by omega)]
      simpa using cellGet_put_same h a b
    | succ k =>
      have := ih (cellPut_wf h a b) (a := a + 1) (i := k) (by simpa using hi)
      rw [show a + (k + 1) = a + 1 + k by omega, this]
      rfl

/-- Two canonical memories that read alike are equal. -/
theorem wf_ext {m m' : List Host.Cell} (h : Memory.wf m = true) (h' : Memory.wf m' = true)
    (he : ∀ a, cellGet m a = cellGet m' a) : m = m' := by
  have : ∀ (m m' : List Host.Cell) (lo : Option Nat), cellsRising lo m = true → cellsRising lo m' = true →
      (∀ a, cellGet m a = cellGet m' a) → m = m' := by
    intro m
    induction m with
    | nil =>
      intro m' lo _ h' he
      cases m' with
      | nil => rfl
      | cons c rest =>
        obtain ⟨b, w⟩ := c
        have := he b
        simp only [cellsRising, Bool.and_eq_true, bne_iff_ne] at h'
        simp [cellGet] at this
        exact absurd this.symm h'.1.2
    | cons c rest ih =>
      intro m' lo h h' he
      obtain ⟨a, v⟩ := c
      simp only [cellsRising, Bool.and_eq_true, bne_iff_ne] at h
      cases m' with
      | nil =>
        have := he a
        simp [cellGet] at this
        exact absurd this h.1.2
      | cons c' rest' =>
        obtain ⟨b, w⟩ := c'
        simp only [cellsRising, Bool.and_eq_true, bne_iff_ne] at h'
        have hab : a = b := by
          rcases Nat.lt_trichotomy a b with hl | hl | hl
          · have := he a
            simp [cellGet, hl, Nat.ne_of_gt hl] at this
            exact absurd this h.1.2
          · exact hl
          · have := he b
            simp [cellGet, hl, Nat.ne_of_gt hl] at this
            exact absurd this.symm h'.1.2
        subst hab
        have hvw : v = w := by simpa [cellGet] using he a
        subst hvw
        congr 1
        apply ih rest' (some a) h.2 h'.2
        intro x
        have := he x
        by_cases h1 : a = x
        · subst h1; rw [cellGet_below h.2 (Nat.le_refl _), cellGet_below h'.2 (Nat.le_refl _)]
        · by_cases h2 : x < a
          · rw [cellGet_below h.2 (by omega), cellGet_below h'.2 (by omega)]
          · simpa [cellGet, h1, h2] using this
  exact this m m' none h h' he

end Sys2Proof.Machine
end

