-- ==== Sys2Proof/Laws/Granary.lean ====
section
/-!
SUPPORT. What every operation keeps, and the Granary's operations: they keep it.
-/
namespace Sys2Proof.Machine

theorem TiersOk.of_cells {cells cells' : List Host.Cell} {lines : List GLine} (h : TiersOk cells lines)
    (hw : Memory.wf cells' = true) : TiersOk cells' lines := ⟨hw, h.once, h.inside⟩

theorem TiersOk.of_lines {cells : List Host.Cell} {lines lines' : List GLine} (h : TiersOk cells lines)
    (ho : (lines'.map GLine.line).Nodup) (hi : ∀ g ∈ lines', ∀ c ∈ g.dirty, c.1 / 256 = g.line) : TiersOk cells lines' :=
  ⟨h.cells, ho, hi⟩

theorem Fuses.Grew.refl (a : Fuses) : a.Grew a := ⟨rfl, rfl, rfl, rfl, fun _ _ h => h, fun _ h => h⟩

theorem Fuses.Grew.trans {a b c : Fuses} (h : a.Grew b) (h' : b.Grew c) : a.Grew c :=
  ⟨h'.gradeB.trans h.gradeB, h'.serial.trans h.serial, h'.trimMv.trans h.trimMv, h'.production.trans h.production,
    fun k d hd => h'.digest k d (h.digest k d hd), fun k hr => h'.revoked k (h.revoked k hr)⟩

/-- What every operation keeps of the state `s0` it began in: the memory tiers in order, the fuses only burnt further, the output
only longer, the free values' counter not lower, the queue of commands as it was. -/
structure Kept (s0 : State) (cells : List Host.Cell) (lines : List GLine) (fuses : Fuses) (out : List OutMsg) (count : Nat)
    (pending : List Instr) : Prop where
  tiers : TiersOk cells lines
  fuses : s0.fuses.Grew fuses
  out : s0.out <+: out
  count : s0.freeCount ≤ count
  pending : pending = s0.pending

/-- `s` is reached from `s0` by operations that keep. -/
abbrev State.Keeps (s0 s : State) : Prop := Kept s0 s.mem.cells s.mem.lines s.fuses s.out s.freeCount s.pending

theorem State.Keeps.start {s : State} (h : s.mem.Ok) : s.Keeps s :=
  ⟨h, Fuses.Grew.refl _, List.prefix_refl _, Nat.le_refl _, rfl⟩

theorem Kept.of_tiers {s0 : State} {c c' l l' f o n q} (h : Kept s0 c l f o n q) (ht : TiersOk c' l') : Kept s0 c' l' f o n q :=
  ⟨ht, h.fuses, h.out, h.count, h.pending⟩

theorem Kept.of_cells {s0 : State} {c c' l f o n q} (h : Kept s0 c l f o n q) (hw : Memory.wf c' = true) :
    Kept s0 c' l f o n q := h.of_tiers (h.tiers.of_cells hw)

theorem Kept.put {s0 : State} {c l f o n q} (h : Kept s0 c l f o n q) (a : Nat) (bs : List Byte) :
    Kept s0 (cellsPut c a bs) l f o n q := h.of_cells (cellsPut_wf h.tiers.cells a bs)

theorem Kept.zero {s0 : State} {c l f o n q} (h : Kept s0 c l f o n q) (a k : Nat) : Kept s0 (cellsZero c a k) l f o n q :=
  h.of_cells (cellsZero_wf h.tiers.cells a k)

theorem Kept.filter_cells {s0 : State} {c l f o n q} (h : Kept s0 c l f o n q) (p : Host.Cell → Bool) :
    Kept s0 (c.filter p) l f o n q := h.of_cells (filter_wf p h.tiers.cells)

theorem Kept.no_lines {s0 : State} {c l f o n q} (h : Kept s0 c l f o n q) : Kept s0 c [] f o n q :=
  h.of_tiers ⟨h.tiers.cells, List.nodup_nil, by intro g hg; cases hg⟩

theorem Kept.of_lines {s0 : State} {c l l' f o n q} (h : Kept s0 c l f o n q) (ho : (l'.map GLine.line).Nodup)
    (hi : ∀ g ∈ l', ∀ x ∈ g.dirty, x.1 / 256 = g.line) : Kept s0 c l' f o n q := h.of_tiers (h.tiers.of_lines ho hi)

theorem Kept.filter_lines {s0 : State} {c l f o n q} (h : Kept s0 c l f o n q) (p : GLine → Bool) :
    Kept s0 c (l.filter p) f o n q :=
  h.of_lines (h.tiers.once.sublist ((List.filter_sublist).map _)) (fun g hg => h.tiers.inside g (List.mem_filter.mp hg).1)

theorem Kept.send {s0 : State} {c l f o n q} (h : Kept s0 c l f o n q) (m : OutMsg) : Kept s0 c l f (o ++ [m]) n q :=
  ⟨h.tiers, h.fuses, h.out.trans (List.prefix_append _ _), h.count, h.pending⟩

theorem Kept.draw {s0 : State} {c l f o n q} (h : Kept s0 c l f o n q) : Kept s0 c l f o (n + 1) q :=
  ⟨h.tiers, h.fuses, h.out, Nat.le_succ_of_le h.count, h.pending⟩

theorem Kept.burn {s0 : State} {c l f f' o n q} (h : Kept s0 c l f o n q) (hf : f.Grew f') : Kept s0 c l f' o n q :=
  ⟨h.tiers, h.fuses.trans hf, h.out, h.count, h.pending⟩

variable {s0 : State}

/-- A line found resident is in the Granary under its number. -/
theorem State.resident_mem {s : State} {l : Nat} {g : GLine} (h : s.resident l = some g) : g ∈ s.mem.lines ∧ g.line = l := by
  refine ⟨List.mem_of_find?_eq_some h, ?_⟩
  simpa using List.find?_some h

theorem State.resident_none {s : State} {l : Nat} (h : s.resident l = none) : ∀ g ∈ s.mem.lines, g.line ≠ l := by
  intro g hg he
  have := List.find?_eq_none.mp h g hg
  simp [he] at this

@[simp] theorem State.clearPoison_cells (s : State) (l : Nat) : (s.clearPoison l).mem.cells = s.mem.cells := rfl
@[simp] theorem State.clearPoison_lines (s : State) (l : Nat) : (s.clearPoison l).mem.lines = s.mem.lines := rfl
@[simp] theorem State.bumped_mem (s : State) (a n : Nat) : (s.bump a n).mem = s.mem := rfl
@[simp] theorem State.counted_mem (s : State) (a : Nat) : (s.tick1 a).mem = s.mem := rfl
@[simp] theorem State.logged_mem (s : State) (c r d : Nat) (w : Bool) : (s.log c r d w).mem = s.mem := rfl
@[simp] theorem State.dropLine_lines (s : State) (l : Nat) :
    (s.dropLine l).mem.lines = s.mem.lines.filter (fun g => g.line != l) := rfl
@[simp] theorem State.dropLine_cells (s : State) (l : Nat) : (s.dropLine l).mem.cells = s.mem.cells := rfl

theorem State.clearPoison_keeps (s : State) (l : Nat) (h : s0.Keeps s) : s0.Keeps (s.clearPoison l) := h

theorem foldr_put_wf {m : List Host.Cell} (d : List Host.Cell) (h : Memory.wf m = true) :
    Memory.wf (d.foldr (fun c m => cellPut m c.1 c.2) m) = true := by
  induction d with
  | nil => exact h
  | cons c rest ih => exact cellPut_wf ih c.1 c.2

@[simp] theorem State.writeback_lines (s : State) (g : GLine) : (s.writeback g).mem.lines = s.mem.lines := by
  unfold State.writeback; split
  · rfl
  · split <;> rfl

theorem State.writeback_keeps (s : State) (g : GLine) (h : s0.Keeps s) : s0.Keeps (s.writeback g) := by
  unfold State.writeback; split
  · exact h
  · split
    · exact h
    · exact Kept.of_cells h (foldr_put_wf g.dirty h.tiers.cells)

theorem State.dropLine_keeps (s : State) (l : Nat) (h : s0.Keeps s) : s0.Keeps (s.dropLine l) := Kept.filter_lines h _

theorem State.evict_keeps (s : State) (g : GLine) (h : s0.Keeps s) : s0.Keeps (s.evict g) :=
  State.dropLine_keeps _ _ (State.writeback_keeps s g h)

theorem State.evict_lines_subset (s : State) (g : GLine) : ∀ x ∈ (s.evict g).mem.lines, x ∈ s.mem.lines := by
  intro x hx
  simp only [State.evict, State.dropLine_lines, State.writeback_lines] at hx
  exact (List.mem_filter.mp hx).1

theorem State.makeRoom_keeps (s : State) (l : Nat) (cls : LineClass) (h : s0.Keeps s) : s0.Keeps (s.makeRoom l cls) := by
  unfold State.makeRoom
  dsimp only
  repeat' split
  all_goals first | exact h | exact State.evict_keeps _ _ h

theorem State.makeRoom_lines_subset (s : State) (l : Nat) (cls : LineClass) :
    ∀ x ∈ (s.makeRoom l cls).mem.lines, x ∈ s.mem.lines := by
  unfold State.makeRoom
  dsimp only
  repeat' split
  all_goals first | exact fun x hx => hx | exact State.evict_lines_subset _ _

theorem TiersOk.add_line {cells : List Host.Cell} {lines : List GLine} (h : TiersOk cells lines) (g : GLine)
    (hn : ∀ x ∈ lines, x.line ≠ g.line) (hd : ∀ c ∈ g.dirty, c.1 / 256 = g.line) :
    TiersOk cells (g :: lines) ∧ TiersOk cells (lines ++ [g]) := by
  have hi : ∀ x, x ∈ lines ∨ x = g → ∀ c ∈ x.dirty, c.1 / 256 = x.line := by
    rintro x (hx | rfl)
    · exact h.inside x hx
    · exact hd
  constructor
  · refine h.of_lines ?_ ?_
    · simp only [List.map_cons, List.nodup_cons, List.mem_map, not_exists, not_and]
      exact ⟨fun x hx he => hn x hx he, h.once⟩
    · intro x hx
      exact hi x (by simpa [or_comm] using hx)
  · refine h.of_lines ?_ ?_
    · rw [List.map_append, List.nodup_append]
      refine ⟨h.once, by simp, ?_⟩
      intro a ha b hb
      obtain ⟨x, hx, rfl⟩ := List.mem_map.mp ha
      simp only [List.map_cons, List.map_nil, List.mem_singleton] at hb
      subst hb
      exact hn x hx
    · intro x hx
      exact hi x (by simpa using hx)

theorem Kept.add_line {c l f o n q} (h : Kept s0 c l f o n q) (g : GLine) (hn : ∀ x ∈ l, x.line ≠ g.line)
    (hd : ∀ x ∈ g.dirty, x.1 / 256 = g.line) : Kept s0 c (g :: l) f o n q ∧ Kept s0 c (l ++ [g]) f o n q :=
  ⟨h.of_tiers (h.tiers.add_line g hn hd).1, h.of_tiers (h.tiers.add_line g hn hd).2⟩

theorem State.allocate_keeps (s : State) (l hint : Nat) (mark : Option Nat) (h : s0.Keeps s) (hn : s.resident l = none) :
    s0.Keeps (s.allocate l hint mark) := by
  unfold State.allocate placeLine
  dsimp only
  have h' := State.makeRoom_keeps s l ((s.hintClass hint).getD .normal) h
  have := Kept.add_line h'
    { line := l, secure := (s.makeRoom l ((s.hintClass hint).getD .normal)).lineSecure l, cls := (s.hintClass hint).getD .normal
      poison := (s.makeRoom l ((s.hintClass hint).getD .normal)).mem.poison.contains l, mark := mark }
    (fun x hx => State.resident_none hn x (State.makeRoom_lines_subset _ _ _ x hx)) (by simp)
  split
  · exact this.1
  · exact this.2

theorem State.hit_keeps (s : State) (g : GLine) (hint : Nat) (who : Option Nat) (w : Bool) (h : s0.Keeps s) (hg : g ∈ s.mem.lines) :
    s0.Keeps (s.hit g hint who w) := by
  unfold State.hit
  dsimp only
  generalize hg' : ({ g with cls := _, mark := _ } : GLine) = g'
  have e1 : g'.line = g.line := by rw [← hg']
  have e2 : g'.dirty = g.dirty := by rw [← hg']
  have h' := Kept.filter_lines h (fun x => x.line != g.line)
  have := Kept.add_line h' g' (by intro x hx; simp at hx; rw [e1]; exact hx.2) (by rw [e1, e2]; exact h.tiers.inside g hg)
  split
  · exact this.1
  · exact this.2

theorem State.touchRead_keeps (s : State) (l hint : Nat) (who : Option Nat) (h : s0.Keeps s) : s0.Keeps (s.touchRead l hint who) := by
  unfold State.touchRead
  split
  · rename_i g hg
    exact State.hit_keeps _ g hint who false h (State.resident_mem hg).1
  · rename_i hn
    exact State.allocate_keeps _ l hint _ h hn

theorem State.storeLine_keeps (s : State) (l a : Nat) (bs : List Byte) (clean : Bool) (h : s0.Keeps s) :
    s0.Keeps (s.storeLine l a bs clean) := by
  unfold State.storeLine
  refine Kept.of_lines h ?_ ?_
  · rw [List.map_map]
    have : (GLine.line ∘ fun (g : GLine) => if (g.line == l) = true then
        { g with dirty := ((List.range bs.length).map (fun i => (a + i, bs.getD i 0))).filter (fun c => c.1 / 256 == l) ++
                    g.dirty.filter (fun c => !(decide (a ≤ c.1) && decide (c.1 < a + bs.length)))
                 poison := if clean then false else g.poison } else g) = GLine.line := by
      funext g; simp only [Function.comp]; split <;> rfl
    rw [this]
    exact h.tiers.once
  · intro g hg c hc
    obtain ⟨g0, hg0, rfl⟩ := List.mem_map.mp hg
    by_cases hl : (g0.line == l) = true
    · simp only [hl, if_true] at hc ⊢
      rcases List.mem_append.mp hc with h1 | h1
      · have := (List.mem_filter.mp h1).2
        simp only [beq_iff_eq] at this hl
        rw [this, hl]
      · exact h.tiers.inside g0 hg0 c ((List.mem_filter.mp h1).1)
    · simp only [hl] at hc ⊢
      exact h.tiers.inside g0 hg0 c hc

theorem State.touchWrite_keeps (s : State) (l a : Nat) (bs : List Byte) (hint : Nat) (who : Option Nat) (h : s0.Keeps s) :
    s0.Keeps (s.touchWrite l a bs hint who).2 := by
  unfold State.touchWrite
  dsimp only
  split
  · exact h
  · apply State.storeLine_keeps
    have : ∀ t : State, s0.Keeps t → s0.Keeps (if (a % 256 == 0 && bs.length == 256) = true then t.clearPoison l else t) := by
      intro t ht; split
      · exact State.clearPoison_keeps t l ht
      · exact ht
    apply this
    split
    · rename_i g hg
      exact State.hit_keeps _ g hint who true h (State.resident_mem hg).1
    · rename_i hn
      exact State.allocate_keeps _ l hint _ h hn

end Sys2Proof.Machine
end

