-- ==== Sys2Proof/Laws/KeepOps.lean ====
section
/-!
SUPPORT. What the operations and commands of the shared operations, admission, the key-value store and placement keep: the memory tiers in order, the fuses only burnt
further, the record of messages only longer, the queue of commands as it was. One lemma for each definition of Machine/.
-/
namespace Sys2Proof.Machine

variable {s0 : State}

/-! ### State -/

theorem foldl_keeps {α : Type} (f : State → α → State) (l : List α) (s : State)
    (hf : ∀ s a, s0.Keeps s → s0.Keeps (f s a)) (h : s0.Keeps s) : s0.Keeps (l.foldl f s) := by
  induction l generalizing s with
  | nil => exact h
  | cons a rest ih => exact ih (f s a) (hf s a h)

theorem foldl_keeps2 {α β : Type} (f : β × State → α → β × State) (l : List α) (s : β × State)
    (hf : ∀ (s : β × State) a, s0.Keeps s.2 → s0.Keeps (f s a).2) (h : s0.Keeps s.2) : s0.Keeps (l.foldl f s).2 := by
  induction l generalizing s with
  | nil => exact h
  | cons a rest ih => exact ih (f s a) (hf s a h)

theorem foldl_keeps3 {α β γ : Type} (f : β × γ × State → α → β × γ × State) (l : List α) (s : β × γ × State)
    (hf : ∀ (s : β × γ × State) a, s0.Keeps s.2.2 → s0.Keeps (f s a).2.2) (h : s0.Keeps s.2.2) :
    s0.Keeps (l.foldl f s).2.2 := by
  induction l generalizing s with
  | nil => exact h
  | cons a rest ih => exact ih (f s a) (hf s a h)

theorem State.reset_ok : State.reset.mem.Ok :=
  ⟨rfl, List.nodup_nil, by intro g hg; cases hg⟩

/-! ### Ops -/

theorem State.bump_keeps (s : State) (a : Nat) (n : Nat) (h : s0.Keeps s) :
    s0.Keeps (State.bump s a n) :=
  h

theorem State.tick1_keeps (s : State) (a : Nat) (h : s0.Keeps s) :
    s0.Keeps (State.tick1 s a) := by
  unfold State.tick1
  try dsimp only
  repeat' first
    | with_reducible assumption | with_reducible apply State.bump_keeps

theorem State.emit_keeps (s : State) (m : OutMsg) (h : s0.Keeps s) : s0.Keeps (s.emit m) := Kept.send h m

theorem State.fresh_keeps (s : State) (h : s0.Keeps s) : s0.Keeps s.fresh.2 := Kept.draw h

theorem State.log_keeps (s : State) (code : Nat) (source : Nat) (data : Nat) (secure : Bool) (h : s0.Keeps s) :
    s0.Keeps (State.log s code source data secure) :=
  h

theorem State.touchStore_keeps (s : State) (h : s0.Keeps s) :
    s0.Keeps (State.touchStore s) := by
  unfold State.touchStore
  try dsimp only
  repeat' first
    | with_reducible assumption | split

theorem State.setReg_keeps (s : State) (a : Nat) (v : Word32) (h : s0.Keeps s) :
    s0.Keeps (State.setReg s a v) :=
  h

theorem State.setRing_keeps (s : State) (r : Nat) (x : Ring) (h : s0.Keeps s) :
    s0.Keeps (State.setRing s r x) :=
  h

theorem State.setCfg_keeps (s : State) (f : Nat) (r : ConfigReg) (v : Word32) (h : s0.Keeps s) :
    s0.Keeps (State.setCfg s f r v) :=
  h

theorem State.aer_keeps (s : State) (f : Nat) (i : Nat) (h : s0.Keeps s) :
    s0.Keeps (State.aer s f i) := by
  unfold State.aer
  try dsimp only
  repeat' first
    | with_reducible assumption | with_reducible apply State.setCfg_keeps

theorem State.ideRefuse_keeps (s : State) (f : Nat) (h : s0.Keeps s) :
    s0.Keeps (State.ideRefuse s f) := by
  unfold State.ideRefuse
  try dsimp only
  repeat' first
    | with_reducible assumption | with_reducible apply State.tick1_keeps | with_reducible apply State.aer_keeps

theorem State.msix_keeps (s : State) (f : Nat) (v : Nat) (h : s0.Keeps s) :
    s0.Keeps (State.msix s f v) := by
  unfold State.msix
  try dsimp only
  repeat' first
    | with_reducible assumption | split | with_reducible apply State.tick1_keeps | with_reducible apply State.emit_keeps

theorem State.setStage_keeps (s : State) (n : Nat) (x : Stage) (h : s0.Keeps s) :
    s0.Keeps (State.setStage s n x) :=
  h

theorem State.setCore_keeps (s : State) (c : Nat) (x : Core) (h : s0.Keeps s) :
    s0.Keeps (State.setCore s c x) :=
  h

theorem State.raise_keeps (s : State) (n : Nat) (f : Flags) (h : s0.Keeps s) :
    s0.Keeps (State.raise s n f) := by
  unfold State.raise
  try dsimp only
  repeat' first
    | with_reducible assumption
    | (split <;> (rename_i heq; simp only [Prod.ext_iff] at heq; first | obtain ⟨rfl, rfl, rfl, rfl⟩ := heq | obtain ⟨rfl, rfl, rfl⟩ := heq | obtain ⟨rfl, rfl⟩ := heq | obtain ⟨_, rfl⟩ := heq | obtain ⟨_, _, rfl⟩ := heq))
    | split | with_reducible apply State.setStage_keeps

theorem State.meet_keeps (s : State) (n : Option Nat) (status : Nat) (h : s0.Keeps s) :
    s0.Keeps (State.meet s n status) := by
  unfold State.meet
  try dsimp only
  repeat' first
    | with_reducible assumption
    | (split <;> (rename_i heq; simp only [Prod.ext_iff] at heq; first | obtain ⟨rfl, rfl, rfl, rfl⟩ := heq | obtain ⟨rfl, rfl, rfl⟩ := heq | obtain ⟨rfl, rfl⟩ := heq | obtain ⟨_, rfl⟩ := heq | obtain ⟨_, _, rfl⟩ := heq))
    | split | with_reducible apply State.setStage_keeps

theorem State.setUnit_keeps (s : State) (u : Nat) (x : MemUnit) (h : s0.Keeps s) :
    s0.Keeps (State.setUnit s u x) :=
  h

theorem State.setRegion_keeps (s : State) (i : Nat) (x : Region) (h : s0.Keeps s) :
    s0.Keeps (State.setRegion s i x) :=
  h

theorem State.notifySecure_keeps (s : State) (h : s0.Keeps s) :
    s0.Keeps (State.notifySecure s) := by
  unfold State.notifySecure
  try dsimp only
  repeat' first
    | with_reducible assumption | split | with_reducible apply State.msix_keeps

theorem State.logDenial_keeps (s : State) (fn : Nat) (secure : Bool) (desc : Nat) (addr : Nat) (h : s0.Keeps s) :
    s0.Keeps (State.logDenial s fn secure desc addr) := by
  unfold State.logDenial
  try dsimp only
  repeat' first
    | with_reducible assumption
    | (split <;> (rename_i heq; simp only [Prod.ext_iff] at heq; first | obtain ⟨rfl, rfl, rfl, rfl⟩ := heq | obtain ⟨rfl, rfl, rfl⟩ := heq | obtain ⟨rfl, rfl⟩ := heq | obtain ⟨_, rfl⟩ := heq | obtain ⟨_, _, rfl⟩ := heq))
    | split | with_reducible apply State.log_keeps

theorem State.deny_keeps (s : State) (secure : Bool) (fn : Nat) (addr : Nat) (h : s0.Keeps s) :
    s0.Keeps (State.deny s secure fn addr) := by
  unfold State.deny
  try dsimp only
  repeat' first
    | with_reducible assumption
    | (split <;> (rename_i heq; simp only [Prod.ext_iff] at heq; first | obtain ⟨rfl, rfl, rfl, rfl⟩ := heq | obtain ⟨rfl, rfl, rfl⟩ := heq | obtain ⟨rfl, rfl⟩ := heq | obtain ⟨_, rfl⟩ := heq | obtain ⟨_, _, rfl⟩ := heq))
    | split | with_reducible apply State.logDenial_keeps | with_reducible apply State.notifySecure_keeps
    | with_reducible apply State.tick1_keeps

theorem State.poisonRead_keeps (s : State) (secure : Bool) (fn : Nat) (a : Nat) (h : s0.Keeps s) :
    s0.Keeps (State.poisonRead s secure fn a) := by
  unfold State.poisonRead
  try dsimp only
  repeat' first
    | with_reducible assumption | split | with_reducible apply State.log_keeps | with_reducible apply State.notifySecure_keeps
    | with_reducible apply State.tick1_keeps

theorem State.stall_keeps (s : State) (h : s0.Keeps s) :
    s0.Keeps (State.stall s) :=
  h

theorem State.lineGet_keeps (s : State) (a : Nat) (n : Nat) (hint : Nat) (mark : Option Nat) (h : s0.Keeps s) :
    s0.Keeps (State.lineGet s a n hint mark).2.2 := by
  unfold State.lineGet
  try dsimp only
  repeat' first
    | with_reducible assumption | split | with_reducible apply State.touchRead_keeps | with_reducible apply State.tick1_keeps
    | with_reducible apply State.stall_keeps

theorem State.innerRead_keeps (s : State) (n : Nat) (a : Nat) (len : Nat) (hint : Nat) (h : s0.Keeps s) :
    s0.Keeps (State.innerRead s n a len hint).2 := by
  unfold State.innerRead
  try dsimp only
  repeat' first
    | with_reducible assumption
    | (split <;> (rename_i heq; simp only [Prod.ext_iff] at heq; first | obtain ⟨rfl, rfl, rfl, rfl⟩ := heq | obtain ⟨rfl, rfl, rfl⟩ := heq | obtain ⟨rfl, rfl⟩ := heq | obtain ⟨_, rfl⟩ := heq | obtain ⟨_, _, rfl⟩ := heq))
    | split | with_reducible apply State.meet_keeps | with_reducible apply State.poisonRead_keeps
    | with_reducible apply State.lineGet_keeps | with_reducible apply foldl_keeps | with_reducible apply foldl_keeps2
    | with_reducible apply foldl_keeps3 | (intro; try dsimp only)

theorem State.shareBlock_keeps (s : State) (n : Nat) (a : Nat) (bs : List Byte) (h : s0.Keeps s) :
    s0.Keeps (State.shareBlock s n a bs) := by
  unfold State.shareBlock
  try dsimp only
  repeat' first
    | with_reducible assumption
    | (split <;> (rename_i heq; simp only [Prod.ext_iff] at heq; first | obtain ⟨rfl, rfl, rfl, rfl⟩ := heq | obtain ⟨rfl, rfl, rfl⟩ := heq | obtain ⟨rfl, rfl⟩ := heq | obtain ⟨_, rfl⟩ := heq | obtain ⟨_, _, rfl⟩ := heq))
    | split | with_reducible apply State.storeLine_keeps | with_reducible apply Kept.filter_cells | with_reducible apply foldl_keeps
    | with_reducible apply foldl_keeps2 | with_reducible apply foldl_keeps3 | (intro; try dsimp only)

theorem State.share_keeps (s : State) (who : Option Nat) (a : Nat) (bs : List Byte) (h : s0.Keeps s) :
    s0.Keeps (State.share s who a bs) := by
  unfold State.share
  try dsimp only
  repeat' first
    | with_reducible assumption
    | (split <;> (rename_i heq; simp only [Prod.ext_iff] at heq; first | obtain ⟨rfl, rfl, rfl, rfl⟩ := heq | obtain ⟨rfl, rfl, rfl⟩ := heq | obtain ⟨rfl, rfl⟩ := heq | obtain ⟨_, rfl⟩ := heq | obtain ⟨_, _, rfl⟩ := heq))
    | split | with_reducible apply State.shareBlock_keeps | with_reducible apply foldl_keeps | with_reducible apply foldl_keeps2
    | with_reducible apply foldl_keeps3 | (intro; try dsimp only)

theorem State.endShares_keeps (s : State) (n : Nat) (h : s0.Keeps s) :
    s0.Keeps (State.endShares s n) := by
  unfold State.endShares
  try dsimp only
  repeat' first
    | with_reducible assumption | split | (intro; try dsimp only)

theorem State.readPiece_keeps (s : State) (who : Requester) (a : Nat) (n : Nat) (hint : Nat) (h : s0.Keeps s) :
    s0.Keeps (State.readPiece s who a n hint).2.2 := by
  unfold State.readPiece
  try dsimp only
  repeat' first
    | with_reducible assumption
    | (split <;> (rename_i heq; simp only [Prod.ext_iff] at heq; first | obtain ⟨rfl, rfl, rfl, rfl⟩ := heq | obtain ⟨rfl, rfl, rfl⟩ := heq | obtain ⟨rfl, rfl⟩ := heq | obtain ⟨_, rfl⟩ := heq | obtain ⟨_, _, rfl⟩ := heq))
    | split | with_reducible apply State.emit_keeps | with_reducible apply State.deny_keeps | with_reducible apply State.poisonRead_keeps
    | with_reducible apply State.lineGet_keeps

theorem State.readFor_keeps (s : State) (who : Requester) (a : Nat) (n : Nat) (hint : Nat) (h : s0.Keeps s) :
    s0.Keeps (State.readFor s who a n hint).2 := by
  unfold State.readFor
  try dsimp only
  repeat' first
    | with_reducible assumption
    | (split <;> (rename_i heq; simp only [Prod.ext_iff] at heq; first | obtain ⟨rfl, rfl, rfl, rfl⟩ := heq | obtain ⟨rfl, rfl, rfl⟩ := heq | obtain ⟨rfl, rfl⟩ := heq | obtain ⟨_, rfl⟩ := heq | obtain ⟨_, _, rfl⟩ := heq))
    | split | with_reducible apply State.readPiece_keeps | with_reducible apply State.meet_keeps
    | with_reducible apply foldl_keeps2 | (intro; try dsimp only)

theorem State.writePiece_keeps (s : State) (who : Requester) (a : Nat) (bs : List Byte) (hint : Nat) (h : s0.Keeps s) :
    s0.Keeps (State.writePiece s who a bs hint).2 := by
  unfold State.writePiece
  try dsimp only
  repeat' first
    | with_reducible assumption
    | (split <;> (rename_i heq; simp only [Prod.ext_iff] at heq; first | obtain ⟨rfl, rfl, rfl, rfl⟩ := heq | obtain ⟨rfl, rfl, rfl⟩ := heq | obtain ⟨rfl, rfl⟩ := heq | obtain ⟨_, rfl⟩ := heq | obtain ⟨_, _, rfl⟩ := heq))
    | split | with_reducible apply State.touchWrite_keeps | with_reducible apply State.emit_keeps | with_reducible apply State.deny_keeps
    | with_reducible apply State.stall_keeps | with_reducible apply State.share_keeps | with_reducible apply Kept.put

theorem State.writeFor_keeps (s : State) (who : Requester) (a : Nat) (bs : List Byte) (hint : Nat) (h : s0.Keeps s) :
    s0.Keeps (State.writeFor s who a bs hint) := by
  unfold State.writeFor
  try dsimp only
  repeat' first
    | with_reducible assumption
    | (split <;> (rename_i heq; simp only [Prod.ext_iff] at heq; first | obtain ⟨rfl, rfl, rfl, rfl⟩ := heq | obtain ⟨rfl, rfl, rfl⟩ := heq | obtain ⟨rfl, rfl⟩ := heq | obtain ⟨_, rfl⟩ := heq | obtain ⟨_, _, rfl⟩ := heq))
    | split | with_reducible apply State.writePiece_keeps | with_reducible apply State.meet_keeps
    | with_reducible apply foldl_keeps | (intro; try dsimp only)

theorem State.writeRaw_keeps (s : State) (a : Nat) (bs : List Byte) (h : s0.Keeps s) :
    s0.Keeps (State.writeRaw s a bs) := by
  unfold State.writeRaw
  try dsimp only
  repeat' first
    | with_reducible assumption
    | (split <;> (rename_i heq; simp only [Prod.ext_iff] at heq; first | obtain ⟨rfl, rfl, rfl, rfl⟩ := heq | obtain ⟨rfl, rfl, rfl⟩ := heq | obtain ⟨rfl, rfl⟩ := heq | obtain ⟨_, rfl⟩ := heq | obtain ⟨_, _, rfl⟩ := heq))
    | split | with_reducible apply State.touchWrite_keeps | with_reducible apply State.stall_keeps | with_reducible apply foldl_keeps
    | with_reducible apply foldl_keeps2 | with_reducible apply foldl_keeps3 | (intro; try dsimp only)

/-! ### Status -/

theorem State.settle_keeps (old new : State) (ho : s0.Keeps old) (h : s0.Keeps new) : s0.Keeps (new.settle old) := by
  unfold State.settle
  try dsimp only
  have edges : ∀ (l : List Nat) (v : Nat) (x : State), s0.Keeps x → s0.Keeps (l.foldl (fun x _ => x.msix 0 v) x) :=
    fun l v x hx => foldl_keeps _ l x (fun s _ hs => State.msix_keeps s 0 v hs) hx
  have key : s0.Keeps (statBlocks.foldl (fun s b =>
      (risingEdges b.1 b.2.1 old new).foldl (fun s _ => s.msix 0 (bits (new.reg b.2.2).toNat 0 12)) s) new) :=
    foldl_keeps _ _ _ (fun s b hs => edges _ _ s hs) h
  repeat' split
  · exact ho
  · exact key
  · exact State.notifySecure_keeps _ key

/-! ### StageOps -/

theorem State.discardMarked_keeps (s : State) (n : Nat) (h : s0.Keeps s) :
    s0.Keeps (State.discardMarked s n) := by
  unfold State.discardMarked
  try dsimp only
  repeat' first
    | with_reducible assumption | split | with_reducible apply State.bump_keeps | with_reducible apply Kept.filter_lines

theorem State.releaseSet_keeps (s : State) (secure : Bool) (id : Nat) (h : s0.Keeps s) :
    s0.Keeps (State.releaseSet s secure id) :=
  h

theorem State.settleSets_keeps (s : State) (n : Nat) (st : Stage) (status : Nat) (h : s0.Keeps s) :
    s0.Keeps (State.settleSets s n st status) := by
  unfold State.settleSets
  try dsimp only
  repeat' first
    | with_reducible assumption
    | (split <;> (rename_i heq; simp only [Prod.ext_iff] at heq; first | obtain ⟨rfl, rfl, rfl, rfl⟩ := heq | obtain ⟨rfl, rfl, rfl⟩ := heq | obtain ⟨rfl, rfl⟩ := heq | obtain ⟨_, rfl⟩ := heq | obtain ⟨_, _, rfl⟩ := heq))
    | split | with_reducible apply State.releaseSet_keeps

theorem State.settleTable_keeps (s : State) (n : Nat) (st : Stage) (h : s0.Keeps s) :
    s0.Keeps (State.settleTable s n st) := by
  unfold State.settleTable
  try dsimp only
  repeat' first
    | with_reducible assumption
    | (split <;> (rename_i heq; simp only [Prod.ext_iff] at heq; first | obtain ⟨rfl, rfl, rfl, rfl⟩ := heq | obtain ⟨rfl, rfl, rfl⟩ := heq | obtain ⟨rfl, rfl⟩ := heq | obtain ⟨_, rfl⟩ := heq | obtain ⟨_, _, rfl⟩ := heq))
    | split | with_reducible apply State.writeFor_keeps

theorem State.leaveReleases_keeps (s : State) (n : Nat) (h : s0.Keeps s) :
    s0.Keeps (State.leaveReleases s n) := by
  unfold State.leaveReleases
  try dsimp only
  repeat' first
    | with_reducible assumption | split

theorem State.thaw_keeps (s : State) (secure : Bool) (h : s0.Keeps s) :
    s0.Keeps (State.thaw s secure) := by
  unfold State.thaw
  try dsimp only
  repeat' first
    | with_reducible assumption | split

theorem State.thawAfter_keeps (s : State) (n : Nat) (st : Stage) (h : s0.Keeps s) :
    s0.Keeps (State.thawAfter s n st) := by
  unfold State.thawAfter
  try dsimp only
  repeat' first
    | with_reducible assumption | split | with_reducible apply State.thaw_keeps | (intro; try dsimp only)

theorem State.finish_keeps (s : State) (n : Nat) (status : Nat) (h : s0.Keeps s) :
    s0.Keeps (State.finish s n status) := by
  unfold State.finish
  try dsimp only
  repeat' first
    | with_reducible assumption
    | (split <;> (rename_i heq; simp only [Prod.ext_iff] at heq; first | obtain ⟨rfl, rfl, rfl, rfl⟩ := heq | obtain ⟨rfl, rfl, rfl⟩ := heq | obtain ⟨rfl, rfl⟩ := heq | obtain ⟨_, rfl⟩ := heq | obtain ⟨_, _, rfl⟩ := heq))
    | split | with_reducible apply State.setRing_keeps | with_reducible apply State.setStage_keeps
    | with_reducible apply State.endShares_keeps | with_reducible apply State.discardMarked_keeps
    | with_reducible apply State.settleSets_keeps | with_reducible apply State.settleTable_keeps
    | with_reducible apply State.leaveReleases_keeps | with_reducible apply State.thawAfter_keeps

theorem State.refuse_keeps (s : State) (n : Nat) (status : Nat) (check : Nat) (whr : Nat) (h : s0.Keeps s) :
    s0.Keeps (State.refuse s n status check whr) := by
  unfold State.refuse
  try dsimp only
  repeat' first
    | with_reducible assumption
    | (split <;> (rename_i heq; simp only [Prod.ext_iff] at heq; first | obtain ⟨rfl, rfl, rfl, rfl⟩ := heq | obtain ⟨rfl, rfl, rfl⟩ := heq | obtain ⟨rfl, rfl⟩ := heq | obtain ⟨_, rfl⟩ := heq | obtain ⟨_, _, rfl⟩ := heq))
    | split | with_reducible apply State.finish_keeps | with_reducible apply State.setStage_keeps

theorem State.stopRing_keeps (s : State) (r : Nat) (seq : Word32) (status : Nat) (h : s0.Keeps s) :
    s0.Keeps (State.stopRing s r seq status) := by
  unfold State.stopRing
  try dsimp only
  repeat' first
    | with_reducible assumption | split | with_reducible apply State.log_keeps | with_reducible apply State.tick1_keeps
    | with_reducible apply State.setRing_keeps

theorem State.drainRing_keeps (s : State) (r : Nat) (h : s0.Keeps s) :
    s0.Keeps (State.drainRing s r) := by
  unfold State.drainRing
  try dsimp only
  repeat' first
    | with_reducible assumption | split | with_reducible apply State.setRing_keeps

theorem State.dropTasks_keeps (s : State) (n : Nat) (p : Task → Bool) (h : s0.Keeps s) :
    s0.Keeps (State.dropTasks s n p) := by
  unfold State.dropTasks
  try dsimp only
  repeat' first
    | with_reducible assumption | with_reducible apply foldl_keeps | (intro; try dsimp only)

theorem State.withdrawBarrier_keeps (s : State) (n : Nat) (secure : Bool) (h : s0.Keeps s) :
    s0.Keeps (State.withdrawBarrier s n secure) := by
  unfold State.withdrawBarrier
  try dsimp only
  repeat' first
    | with_reducible assumption | split

theorem State.finishWorst_keeps (s : State) (n : Nat) (own : Nat) (h : s0.Keeps s) :
    s0.Keeps (State.finishWorst s n own) := by
  unfold State.finishWorst
  try dsimp only
  repeat' first
    | with_reducible assumption
    | (split <;> (rename_i heq; simp only [Prod.ext_iff] at heq; first | obtain ⟨rfl, rfl, rfl, rfl⟩ := heq | obtain ⟨rfl, rfl, rfl⟩ := heq | obtain ⟨rfl, rfl⟩ := heq | obtain ⟨_, rfl⟩ := heq | obtain ⟨_, _, rfl⟩ := heq))
    | split | with_reducible apply State.settleTable_keeps | with_reducible apply State.finish_keeps

theorem State.endStage_keeps (s : State) (n : Nat) (h : s0.Keeps s) :
    s0.Keeps (State.endStage s n) := by
  unfold State.endStage
  try dsimp only
  repeat' first
    | with_reducible assumption
    | (split <;> (rename_i heq; simp only [Prod.ext_iff] at heq; first | obtain ⟨rfl, rfl, rfl, rfl⟩ := heq | obtain ⟨rfl, rfl, rfl⟩ := heq | obtain ⟨rfl, rfl⟩ := heq | obtain ⟨_, rfl⟩ := heq | obtain ⟨_, _, rfl⟩ := heq))
    | split | with_reducible apply State.finish_keeps | with_reducible apply State.withdrawBarrier_keeps
    | with_reducible apply State.setStage_keeps | with_reducible apply State.dropTasks_keeps

theorem State.resetRing_keeps (s : State) (r : Nat) (h : s0.Keeps s) :
    s0.Keeps (State.resetRing s r) := by
  unfold State.resetRing
  try dsimp only
  repeat' first
    | with_reducible assumption | split | with_reducible apply State.setRing_keeps | with_reducible apply State.endStage_keeps
    | with_reducible apply foldl_keeps | (intro; try dsimp only)

/-! ### Admission -/

theorem State.accept_keeps (s : State) (n : Nat) (st : Stage) (counts : Option Arrival) (h : s0.Keeps s) :
    s0.Keeps (State.accept s n st counts) := by
  unfold State.accept
  try dsimp only
  repeat' first
    | with_reducible assumption | with_reducible apply State.setStage_keeps

theorem State.refuseWith_keeps (s : State) (n : Nat) (st : Stage) (r : Nat × Nat × Nat) (addr : Nat) (h : s0.Keeps s) :
    s0.Keeps (State.refuseWith s n st r addr) := by
  unfold State.refuseWith
  try dsimp only
  repeat' first
    | with_reducible assumption | split | with_reducible apply State.refuse_keeps | with_reducible apply State.deny_keeps

theorem execAdmitStage_keeps (slot : Nat) (s : State) (h : s0.Keeps s) :
    ∀ t, execAdmitStage slot s = .next t → s0.Keeps t := by
  intro t ht
  unfold execAdmitStage answer at ht
  injection ht with ht
  subst ht
  apply State.settle_keeps _ _ h
  try dsimp only
  repeat' first
    | with_reducible assumption
    | (split <;> (rename_i heq; simp only [Prod.ext_iff] at heq; first | obtain ⟨rfl, rfl, rfl, rfl⟩ := heq | obtain ⟨rfl, rfl, rfl⟩ := heq | obtain ⟨rfl, rfl⟩ := heq | obtain ⟨_, rfl⟩ := heq | obtain ⟨_, _, rfl⟩ := heq))
    | split | with_reducible apply State.finish_keeps | with_reducible apply State.refuseWith_keeps
    | with_reducible apply State.setRing_keeps | with_reducible apply State.setStage_keeps
    | with_reducible apply State.accept_keeps

theorem State.ctrlRead_keeps (s : State) (who : Requester) (a : Nat) (n : Nat) (h : s0.Keeps s) :
    s0.Keeps (State.ctrlRead s who a n).2.2 := by
  unfold State.ctrlRead
  try dsimp only
  repeat' first
    | with_reducible assumption
    | (split <;> (rename_i heq; simp only [Prod.ext_iff] at heq; first | obtain ⟨rfl, rfl, rfl, rfl⟩ := heq | obtain ⟨rfl, rfl, rfl⟩ := heq | obtain ⟨rfl, rfl⟩ := heq | obtain ⟨_, rfl⟩ := heq | obtain ⟨_, _, rfl⟩ := heq))
    | split | with_reducible apply State.readPiece_keeps | with_reducible apply foldl_keeps3 | (intro; try dsimp only)

theorem State.settleCheck9_keeps (s : State) (n : Nat) (st : Stage) (c : Chk) (h : s0.Keeps s) :
    s0.Keeps (State.settleCheck9 s n st c) := by
  unfold State.settleCheck9
  try dsimp only
  repeat' first
    | with_reducible assumption
    | (split <;> (rename_i heq; simp only [Prod.ext_iff] at heq; first | obtain ⟨rfl, rfl, rfl, rfl⟩ := heq | obtain ⟨rfl, rfl, rfl⟩ := heq | obtain ⟨rfl, rfl⟩ := heq | obtain ⟨_, rfl⟩ := heq | obtain ⟨_, _, rfl⟩ := heq))
    | split | with_reducible apply State.refuseWith_keeps | with_reducible apply State.accept_keeps
    | with_reducible apply State.setStage_keeps

theorem State.readChain_keeps (s : State) (n : Nat) (st : Stage) (h : s0.Keeps s) :
    s0.Keeps (State.readChain s n st).2 := by
  unfold State.readChain
  try dsimp only
  repeat' first
    | with_reducible assumption
    | (split <;> (rename_i heq; simp only [Prod.ext_iff] at heq; first | obtain ⟨rfl, rfl, rfl, rfl⟩ := heq | obtain ⟨rfl, rfl, rfl⟩ := heq | obtain ⟨rfl, rfl⟩ := heq | obtain ⟨_, rfl⟩ := heq | obtain ⟨_, _, rfl⟩ := heq))
    | split | with_reducible apply State.ctrlRead_keeps

theorem State.readLevels_keeps (s : State) (n : Nat) (st : Stage) (h : s0.Keeps s) :
    s0.Keeps (State.readLevels s n st).2 := by
  unfold State.readLevels
  try dsimp only
  repeat' first
    | with_reducible assumption
    | (split <;> (rename_i heq; simp only [Prod.ext_iff] at heq; first | obtain ⟨rfl, rfl, rfl, rfl⟩ := heq | obtain ⟨rfl, rfl, rfl⟩ := heq | obtain ⟨rfl, rfl⟩ := heq | obtain ⟨_, rfl⟩ := heq | obtain ⟨_, _, rfl⟩ := heq))
    | split | with_reducible apply State.ctrlRead_keeps

theorem State.failCheck8_keeps (s : State) (n : Nat) (st : Stage) (status : Nat) (whr : Nat) (h : s0.Keeps s) :
    s0.Keeps (State.failCheck8 s n st status whr) := by
  unfold State.failCheck8
  try dsimp only
  repeat' first
    | with_reducible assumption | with_reducible apply State.finish_keeps | with_reducible apply State.setStage_keeps

theorem execChainBlockCheck_keeps (slot : Nat) (s : State) (h : s0.Keeps s) :
    ∀ t, execChainBlockCheck slot s = .next t → s0.Keeps t := by
  intro t ht
  unfold execChainBlockCheck answer at ht
  injection ht with ht
  subst ht
  apply State.settle_keeps _ _ h
  try dsimp only
  repeat' first
    | with_reducible assumption
    | (split <;> (rename_i heq; simp only [Prod.ext_iff] at heq; first | obtain ⟨rfl, rfl, rfl, rfl⟩ := heq | obtain ⟨rfl, rfl, rfl⟩ := heq | obtain ⟨rfl, rfl⟩ := heq | obtain ⟨_, rfl⟩ := heq | obtain ⟨_, _, rfl⟩ := heq))
    | split | with_reducible apply State.readLevels_keeps | with_reducible apply State.failCheck8_keeps
    | with_reducible apply State.settleCheck9_keeps | with_reducible apply State.readChain_keeps

/-! ### Atomics -/

theorem State.storeRest_keeps (s : State) (a : Nat) (bs : List Byte) (h : s0.Keeps s) :
    s0.Keeps (State.storeRest s a bs) := by
  unfold State.storeRest
  try dsimp only
  repeat' first
    | with_reducible assumption | with_reducible apply Kept.put

theorem State.atomicApply_keeps (s : State) (who : Requester) (a op : Nat) (f : Fmt) (wrap : Bool) (bs : List Byte) (h : s0.Keeps s) :
    s0.Keeps (s.atomicApply who a op f wrap bs).2 := by
  unfold State.atomicApply
  dsimp only
  split
  · rename_i g hg
    exact State.storeLine_keeps _ _ _ _ _ (State.hit_keeps _ g _ _ _ h (State.resident_mem hg).1)
  · exact State.storeRest_keeps _ _ _ h

theorem State.atomicFor_keeps (s : State) (who : Requester) (a : Nat) (op : Nat) (f : Fmt) (wrap : Bool) (bs : List Byte) (h : s0.Keeps s) :
    s0.Keeps (State.atomicFor s who a op f wrap bs).2.2 := by
  unfold State.atomicFor
  try dsimp only
  repeat' first
    | with_reducible assumption
    | (split <;> (rename_i heq; simp only [Prod.ext_iff] at heq; first | obtain ⟨rfl, rfl, rfl, rfl⟩ := heq | obtain ⟨rfl, rfl, rfl⟩ := heq | obtain ⟨rfl, rfl⟩ := heq | obtain ⟨_, rfl⟩ := heq | obtain ⟨_, _, rfl⟩ := heq))
    | split | with_reducible apply State.deny_keeps | with_reducible apply State.stall_keeps
    | with_reducible apply State.atomicApply_keeps

theorem State.atomicsFor_keeps (s : State) (who : Requester) (a : Nat) (op : Nat) (f : Fmt) (wrap : Bool) (bs : List Byte) (h : s0.Keeps s) :
    s0.Keeps (State.atomicsFor s who a op f wrap bs).2.2 := by
  unfold State.atomicsFor
  try dsimp only
  repeat' first
    | with_reducible assumption
    | (split <;> (rename_i heq; simp only [Prod.ext_iff] at heq; first | obtain ⟨rfl, rfl, rfl, rfl⟩ := heq | obtain ⟨rfl, rfl, rfl⟩ := heq | obtain ⟨rfl, rfl⟩ := heq | obtain ⟨_, rfl⟩ := heq | obtain ⟨_, _, rfl⟩ := heq))
    | with_reducible apply State.atomicFor_keeps | with_reducible apply foldl_keeps3 | (intro; try dsimp only)

theorem State.readElems_keeps (s : State) (who : Requester) (t : TDesc) (r : Nat) (e0 : Nat) (n : Nat) (h : s0.Keeps s) :
    s0.Keeps (State.readElems s who t r e0 n).2 := by
  unfold State.readElems
  try dsimp only
  repeat' first
    | with_reducible assumption
    | (split <;> (rename_i heq; simp only [Prod.ext_iff] at heq; first | obtain ⟨rfl, rfl, rfl, rfl⟩ := heq | obtain ⟨rfl, rfl, rfl⟩ := heq | obtain ⟨rfl, rfl⟩ := heq | obtain ⟨_, rfl⟩ := heq | obtain ⟨_, _, rfl⟩ := heq))
    | with_reducible apply State.readFor_keeps

theorem State.writeElems_keeps (s : State) (who : Requester) (t : TDesc) (r : Nat) (e0 : Nat) (cs : List Nat) (h : s0.Keeps s) :
    s0.Keeps (State.writeElems s who t r e0 cs) := by
  unfold State.writeElems
  try dsimp only
  repeat' first
    | with_reducible assumption
    | (split <;> (rename_i heq; simp only [Prod.ext_iff] at heq; first | obtain ⟨rfl, rfl, rfl, rfl⟩ := heq | obtain ⟨rfl, rfl, rfl⟩ := heq | obtain ⟨rfl, rfl⟩ := heq | obtain ⟨_, rfl⟩ := heq | obtain ⟨_, _, rfl⟩ := heq))
    | with_reducible apply State.writeFor_keeps

theorem State.readStream_keeps (s : State) (who : Requester) (t : TDesc) (k : Nat) (n : Nat) (h : s0.Keeps s) :
    s0.Keeps (State.readStream s who t k n).2 := by
  unfold State.readStream
  try dsimp only
  repeat' first
    | with_reducible assumption
    | (split <;> (rename_i heq; simp only [Prod.ext_iff] at heq; first | obtain ⟨rfl, rfl, rfl, rfl⟩ := heq | obtain ⟨rfl, rfl, rfl⟩ := heq | obtain ⟨rfl, rfl⟩ := heq | obtain ⟨_, rfl⟩ := heq | obtain ⟨_, _, rfl⟩ := heq))
    | with_reducible apply State.readElems_keeps | with_reducible apply foldl_keeps2 | (intro; try dsimp only)

theorem State.writeStream_keeps (s : State) (who : Requester) (t : TDesc) (k : Nat) (cs : List Nat) (h : s0.Keeps s) :
    s0.Keeps (State.writeStream s who t k cs) := by
  unfold State.writeStream
  try dsimp only
  repeat' first
    | with_reducible assumption | with_reducible apply State.writeElems_keeps | with_reducible apply foldl_keeps
    | (intro; try dsimp only)

/-! ### Kv -/

theorem State.kvCount_keeps (s : State) (secure : Bool) (a : Nat) (n : Nat) (h : s0.Keeps s) :
    s0.Keeps (State.kvCount s secure a n) := by
  unfold State.kvCount
  try dsimp only
  repeat' first
    | with_reducible assumption | split | with_reducible apply State.bump_keeps

theorem State.setKvPool_keeps (s : State) (secure : Bool) (p : KvPool) (h : s0.Keeps s) :
    s0.Keeps (State.setKvPool s secure p) := by
  unfold State.setKvPool
  try dsimp only
  repeat' first
    | with_reducible assumption | split

theorem State.setKvSeq_keeps (s : State) (slot : Nat) (q : KvSeq) (h : s0.Keeps s) :
    s0.Keeps (State.setKvSeq s slot q) :=
  h

theorem State.writePage_keeps (s : State) (a : Nat) (toks : List KvToken) (trailer : List Byte) (h : s0.Keeps s) :
    s0.Keeps (State.writePage s a toks trailer) := by
  unfold State.writePage
  try dsimp only
  repeat' first
    | with_reducible assumption | with_reducible apply State.writeRaw_keeps

theorem State.bale_keeps (s : State) (n : Nat) (slot : Nat) (key : Nat × Nat) (forced : Bool) (h : s0.Keeps s) :
    s0.Keeps (State.bale s n slot key forced) := by
  unfold State.bale
  try dsimp only
  repeat' first
    | with_reducible assumption
    | (split <;> (rename_i heq; simp only [Prod.ext_iff] at heq; first | obtain ⟨rfl, rfl, rfl, rfl⟩ := heq | obtain ⟨rfl, rfl, rfl⟩ := heq | obtain ⟨rfl, rfl⟩ := heq | obtain ⟨_, rfl⟩ := heq | obtain ⟨_, _, rfl⟩ := heq))
    | split | with_reducible apply State.setKvPool_keeps | with_reducible apply State.writePage_keeps
    | with_reducible apply State.kvCount_keeps | with_reducible apply State.raise_keeps
    | with_reducible apply State.setKvSeq_keeps | with_reducible apply foldl_keeps | (intro; try dsimp only)

theorem State.markSink_keeps (s : State) (slot : Nat) (key : Nat × Nat) (h : s0.Keeps s) :
    s0.Keeps (State.markSink s slot key) := by
  unfold State.markSink
  try dsimp only
  repeat' first
    | with_reducible assumption | split | with_reducible apply State.kvCount_keeps | with_reducible apply State.setKvSeq_keeps

theorem State.pushToken_keeps (s : State) (n : Nat) (slot : Nat) (key : Nat × Nat) (t : KvToken) (h : s0.Keeps s) :
    s0.Keeps (State.pushToken s n slot key t) := by
  unfold State.pushToken
  try dsimp only
  repeat' first
    | with_reducible assumption | split | with_reducible apply State.setKvSeq_keeps | with_reducible apply State.bale_keeps

theorem State.kvRow_keeps (s : State) (n : Nat) (who : Requester) (t : TDesc) (r : Nat) (h : s0.Keeps s) :
    s0.Keeps (State.kvRow s n who t r).2 := by
  unfold State.kvRow
  try dsimp only
  repeat' first
    | with_reducible assumption
    | (split <;> (rename_i heq; simp only [Prod.ext_iff] at heq; first | obtain ⟨rfl, rfl, rfl, rfl⟩ := heq | obtain ⟨rfl, rfl, rfl⟩ := heq | obtain ⟨rfl, rfl⟩ := heq | obtain ⟨_, rfl⟩ := heq | obtain ⟨_, _, rfl⟩ := heq))
    | with_reducible apply State.readElems_keeps | with_reducible apply State.raise_keeps

theorem State.appendRow_keeps (s : State) (n : Nat) (slot : Nat) (r : Nat) (st : Stage) (h : s0.Keeps s) :
    s0.Keeps (State.appendRow s n slot r st) := by
  unfold State.appendRow
  try dsimp only
  repeat' first
    | with_reducible assumption
    | (split <;> (rename_i heq; simp only [Prod.ext_iff] at heq; first | obtain ⟨rfl, rfl, rfl, rfl⟩ := heq | obtain ⟨rfl, rfl, rfl⟩ := heq | obtain ⟨rfl, rfl⟩ := heq | obtain ⟨_, rfl⟩ := heq | obtain ⟨_, _, rfl⟩ := heq))
    | with_reducible apply State.kvRow_keeps | with_reducible apply State.pushToken_keeps | with_reducible apply foldl_keeps
    | (intro; try dsimp only)

theorem State.appendSample_keeps (s : State) (n : Nat) (slot : Nat) (i : Nat) (st : Stage) (forced : List (Nat × Nat × Nat)) (h : s0.Keeps s) :
    s0.Keeps (State.appendSample s n slot i st forced) := by
  unfold State.appendSample
  try dsimp only
  repeat' first
    | with_reducible assumption | split | with_reducible apply State.bale_keeps | with_reducible apply State.markSink_keeps
    | with_reducible apply State.appendRow_keeps | with_reducible apply State.kvCount_keeps | with_reducible apply foldl_keeps
    | (intro; try dsimp only)

theorem State.readTable_keeps (s : State) (n : Nat) (st : Stage) (k : Nat) (h : s0.Keeps s) :
    s0.Keeps (State.readTable s n st k).2 := by
  unfold State.readTable
  try dsimp only
  repeat' first
    | with_reducible assumption
    | (split <;> (rename_i heq; simp only [Prod.ext_iff] at heq; first | obtain ⟨rfl, rfl, rfl, rfl⟩ := heq | obtain ⟨rfl, rfl, rfl⟩ := heq | obtain ⟨rfl, rfl⟩ := heq | obtain ⟨_, rfl⟩ := heq | obtain ⟨_, _, rfl⟩ := heq))
    | split | with_reducible apply State.ctrlRead_keeps

theorem State.failTable_keeps (s : State) (n : Nat) (st : Stage) (status : Nat) (h : s0.Keeps s) :
    s0.Keeps (State.failTable s n st status) := by
  unfold State.failTable
  try dsimp only
  repeat' first
    | with_reducible assumption | with_reducible apply State.finishWorst_keeps | with_reducible apply State.setStage_keeps

theorem State.setTable_keeps (s : State) (n : Nat) (t : List Byte) (h : s0.Keeps s) :
    s0.Keeps (State.setTable s n t) := by
  unfold State.setTable
  try dsimp only
  repeat' first
    | with_reducible assumption
    | (split <;> (rename_i heq; simp only [Prod.ext_iff] at heq; first | obtain ⟨rfl, rfl, rfl, rfl⟩ := heq | obtain ⟨rfl, rfl, rfl⟩ := heq | obtain ⟨rfl, rfl⟩ := heq | obtain ⟨_, rfl⟩ := heq | obtain ⟨_, _, rfl⟩ := heq))
    | split

theorem State.countResult_keeps (s : State) (secure : Bool) (res : Nat) (h : s0.Keeps s) :
    s0.Keeps (State.countResult s secure res) := by
  unfold State.countResult
  try dsimp only
  repeat' first
    | with_reducible assumption | split | with_reducible apply State.kvCount_keeps

theorem State.createSeq_keeps (s : State) (st : Stage) (h : s0.Keeps s) :
    ∀ t, State.createSeq s st = some t → s0.Keeps t.2 := by
  intro t ht
  unfold State.createSeq at ht
  try dsimp only at ht
  repeat' split at ht
  all_goals first | (injection ht with ht; subst ht) | cases ht
  all_goals (repeat' first
    | with_reducible assumption
    | (split <;> (rename_i heq; simp only [Prod.ext_iff] at heq; first | obtain ⟨rfl, rfl, rfl, rfl⟩ := heq | obtain ⟨rfl, rfl, rfl⟩ := heq | obtain ⟨rfl, rfl⟩ := heq | obtain ⟨_, rfl⟩ := heq | obtain ⟨_, _, rfl⟩ := heq))
    | split
    | with_reducible apply State.setKvSeq_keeps
    | with_reducible apply Kept.put
    | with_reducible apply Kept.zero
    | with_reducible apply Kept.filter_cells
    | with_reducible apply Kept.filter_lines
    | with_reducible apply Kept.send
    | with_reducible apply Kept.draw
    | with_reducible apply foldl_keeps
    | with_reducible apply foldl_keeps2
    | with_reducible apply foldl_keeps3
    | (intro; try dsimp only))

theorem State.appendTarget_keeps (s : State) (st : Stage) (t : List Byte) (i : Nat) (h : s0.Keeps s) :
    s0.Keeps (State.appendTarget s st t i).2 := by
  unfold State.appendTarget
  try dsimp only
  repeat' first
    | with_reducible assumption
    | (split <;> (rename_i heq; simp only [Prod.ext_iff] at heq; first | obtain ⟨rfl, rfl, rfl, rfl⟩ := heq | obtain ⟨rfl, rfl, rfl⟩ := heq | obtain ⟨rfl, rfl⟩ := heq | obtain ⟨_, rfl⟩ := heq | obtain ⟨_, _, rfl⟩ := heq))
    | split | exact State.createSeq_keeps _ _ (by assumption) _ (by assumption)

theorem State.appendEntry_keeps (s : State) (n : Nat) (st : Stage) (t : List Byte) (i : Nat) (h : s0.Keeps s) :
    s0.Keeps (State.appendEntry s n st t i).2 := by
  unfold State.appendEntry
  try dsimp only
  repeat' first
    | with_reducible assumption
    | (split <;> (rename_i heq; simp only [Prod.ext_iff] at heq; first | obtain ⟨rfl, rfl, rfl, rfl⟩ := heq | obtain ⟨rfl, rfl, rfl⟩ := heq | obtain ⟨rfl, rfl⟩ := heq | obtain ⟨_, rfl⟩ := heq | obtain ⟨_, _, rfl⟩ := heq))
    | split | with_reducible apply State.appendTarget_keeps | with_reducible apply State.countResult_keeps
    | with_reducible apply State.setKvSeq_keeps | with_reducible apply State.appendSample_keeps

theorem execKvAppendStart_keeps (slot : Nat) (s : State) (h : s0.Keeps s) :
    ∀ t, execKvAppendStart slot s = .next t → s0.Keeps t := by
  intro t ht
  unfold execKvAppendStart answer at ht
  injection ht with ht
  subst ht
  apply State.settle_keeps _ _ h
  split
  · exact h
  · rename_i st _
    split
    · exact h
    · have h1 := State.readTable_keeps s slot st (dTd st.desc 0).n h
      split
      · rename_i heq
        rw [heq] at h1
        exact State.failTable_keeps _ _ _ _ h1
      · rename_i heq
        rw [heq] at h1
        exact State.setTable_keeps _ _ _ (foldl_keeps2 _ _ _ (fun acc i ha => State.appendEntry_keeps _ _ _ _ _ ha) h1)

theorem State.showAppended_keeps (s : State) (h : s0.Keeps s) :
    s0.Keeps (State.showAppended s) :=
  h

theorem execKvAppendComplete_keeps (slot : Nat) (s : State) (h : s0.Keeps s) :
    ∀ t, execKvAppendComplete slot s = .next t → s0.Keeps t := by
  intro t ht
  unfold execKvAppendComplete answer at ht
  injection ht with ht
  subst ht
  apply State.settle_keeps _ _ h
  try dsimp only
  repeat' first
    | with_reducible assumption
    | (split <;> (rename_i heq; simp only [Prod.ext_iff] at heq; first | obtain ⟨rfl, rfl, rfl, rfl⟩ := heq | obtain ⟨rfl, rfl, rfl⟩ := heq | obtain ⟨rfl, rfl⟩ := heq | obtain ⟨_, rfl⟩ := heq | obtain ⟨_, _, rfl⟩ := heq))
    | split | with_reducible apply State.finishWorst_keeps | with_reducible apply State.showAppended_keeps

theorem State.releasePage_keeps (s : State) (secure : Bool) (num : Nat) (h : s0.Keeps s) :
    s0.Keeps (State.releasePage s secure num) := by
  unfold State.releasePage
  try dsimp only
  repeat' first
    | with_reducible assumption | with_reducible apply State.setKvPool_keeps

theorem State.startRelease_keeps (s : State) (stage : Option Nat) (secure : Bool) (pages : List Nat) (seqs : List Nat) (h : s0.Keeps s) :
    s0.Keeps (State.startRelease s stage secure pages seqs) := by
  unfold State.startRelease
  try dsimp only
  repeat' first
    | with_reducible assumption | with_reducible apply State.releasePage_keeps | with_reducible apply State.setKvSeq_keeps
    | with_reducible apply foldl_keeps | (intro; try dsimp only)

theorem State.countTable_keeps (s : State) (secure : Bool) (t : List Byte) (h : s0.Keeps s) :
    s0.Keeps (State.countTable s secure t) := by
  unfold State.countTable
  try dsimp only
  repeat' first
    | with_reducible assumption | with_reducible apply State.countResult_keeps | with_reducible apply foldl_keeps
    | (intro; try dsimp only)

theorem execKvReleaseStart_keeps (slot : Nat) (s : State) (h : s0.Keeps s) :
    ∀ t, execKvReleaseStart slot s = .next t → s0.Keeps t := by
  intro t ht
  unfold execKvReleaseStart answer at ht
  injection ht with ht
  subst ht
  apply State.settle_keeps _ _ h
  split
  · exact h
  · rename_i st _
    split
    · exact h
    · have h1 := State.readTable_keeps s slot st (op2 st.desc 0xE2) h
      split
      · rename_i heq
        rw [heq] at h1
        exact State.failTable_keeps _ _ _ _ h1
      · rename_i heq
        rw [heq] at h1
        exact State.startRelease_keeps _ _ _ _ _ (State.countTable_keeps _ _ _ (State.setTable_keeps _ _ _ h1))

theorem State.freePage_keeps (s : State) (secure : Bool) (num : Nat) (h : s0.Keeps s) :
    s0.Keeps (State.freePage s secure num) := by
  unfold State.freePage
  try dsimp only
  repeat' first
    | with_reducible assumption | split | with_reducible apply State.kvCount_keeps | with_reducible apply State.setKvPool_keeps

theorem State.freeSeq_keeps (s : State) (slot : Nat) (h : s0.Keeps s) :
    s0.Keeps (State.freeSeq s slot) := by
  unfold State.freeSeq
  try dsimp only
  repeat' first
    | with_reducible assumption | with_reducible apply State.setKvSeq_keeps

theorem State.endRelease_keeps (s : State) (r : KvRelease) (h : s0.Keeps s) :
    s0.Keeps (State.endRelease s r) := by
  unfold State.endRelease
  try dsimp only
  repeat' first
    | with_reducible assumption
    | (split <;> (rename_i heq; simp only [Prod.ext_iff] at heq; first | obtain ⟨rfl, rfl, rfl, rfl⟩ := heq | obtain ⟨rfl, rfl, rfl⟩ := heq | obtain ⟨rfl, rfl⟩ := heq | obtain ⟨_, rfl⟩ := heq | obtain ⟨_, _, rfl⟩ := heq))
    | split | with_reducible apply State.freePage_keeps | with_reducible apply State.thaw_keeps
    | with_reducible apply State.freeSeq_keeps | with_reducible apply State.finishWorst_keeps
    | with_reducible apply foldl_keeps | (intro; try dsimp only)

theorem execKvReleaseComplete_keeps (slot : Nat) (s : State) (h : s0.Keeps s) :
    ∀ t, execKvReleaseComplete slot s = .next t → s0.Keeps t := by
  intro t ht
  unfold execKvReleaseComplete answer at ht
  injection ht with ht
  subst ht
  apply State.settle_keeps _ _ h
  try dsimp only
  repeat' first
    | with_reducible assumption | with_reducible apply State.endRelease_keeps | with_reducible apply foldl_keeps
    | (intro; try dsimp only)

theorem State.startRetrieve_keeps (s : State) (n : Nat) (st : Stage) (h : s0.Keeps s) : s0.Keeps (s.startRetrieve n st) := by
  have h1 := State.readTable_keeps s n st (dTd st.desc 0).n h
  unfold State.startRetrieve
  extract_lets k
  generalize hr : s.readTable n st k = r at h1 ⊢
  obtain ⟨x, s'⟩ := r
  cases x with
  | inr status => exact State.failTable_keeps _ _ _ _ h1
  | inl t =>
    dsimp only
    apply State.countTable_keeps
    exact h1

/-! ### Tiles -/

theorem State.frameRead_keeps (s : State) (n : Nat) (a : Nat) (len : Nat) (h : s0.Keeps s) :
    s0.Keeps (State.frameRead s n a len).2 := by
  unfold State.frameRead
  try dsimp only
  repeat' first
    | with_reducible assumption | with_reducible apply State.innerRead_keeps

theorem State.retRun_keeps (s : State) (n : Nat) (st : Stage) (x : RetSet) (row : Nat) (e0 : Nat) (k : Nat) (h : s0.Keeps s) :
    s0.Keeps (State.retRun s n st x row e0 k).2 := by
  unfold State.retRun
  try dsimp only
  repeat' first
    | with_reducible assumption
    | (split <;> (rename_i heq; simp only [Prod.ext_iff] at heq; first | obtain ⟨rfl, rfl, rfl, rfl⟩ := heq | obtain ⟨rfl, rfl, rfl⟩ := heq | obtain ⟨rfl, rfl⟩ := heq | obtain ⟨_, rfl⟩ := heq | obtain ⟨_, _, rfl⟩ := heq))
    | split | with_reducible apply State.readElems_keeps | with_reducible apply State.meet_keeps
    | with_reducible apply State.bump_keeps | with_reducible apply State.frameRead_keeps

theorem State.operand_keeps (s : State) (n : Nat) (st : Stage) (i : Nat) (row : Nat) (e0 : Nat) (k : Nat) (h : s0.Keeps s) :
    s0.Keeps (State.operand s n st i row e0 k).2 := by
  unfold State.operand
  try dsimp only
  repeat' first
    | with_reducible assumption
    | (split <;> (rename_i heq; simp only [Prod.ext_iff] at heq; first | obtain ⟨rfl, rfl, rfl, rfl⟩ := heq | obtain ⟨rfl, rfl, rfl⟩ := heq | obtain ⟨rfl, rfl⟩ := heq | obtain ⟨_, rfl⟩ := heq | obtain ⟨_, _, rfl⟩ := heq))
    | split | with_reducible apply State.readElems_keeps | with_reducible apply State.retRun_keeps
    | with_reducible apply foldl_keeps2 | (intro; try dsimp only)

theorem State.auxRead_keeps (s : State) (n : Nat) (st : Stage) (aux : Nat) (bc : Nat) (wk : TDesc) (row : Nat) (c0 : Nat) (k : Nat) (per : Nat) (h : s0.Keeps s) :
    s0.Keeps (State.auxRead s n st aux bc wk row c0 k per).2 := by
  unfold State.auxRead
  try dsimp only
  repeat' first
    | with_reducible assumption
    | (split <;> (rename_i heq; simp only [Prod.ext_iff] at heq; first | obtain ⟨rfl, rfl, rfl, rfl⟩ := heq | obtain ⟨rfl, rfl, rfl⟩ := heq | obtain ⟨rfl, rfl⟩ := heq | obtain ⟨_, rfl⟩ := heq | obtain ⟨_, _, rfl⟩ := heq))
    | split | with_reducible apply State.raise_keeps | with_reducible apply State.readElems_keeps

theorem State.auxRow_keeps (s : State) (core : Nat) (pro : Bool) (n : Nat) (st : Stage) (aux : Nat) (bc : Nat) (wk : TDesc) (row : Nat) (c0 : Nat) (k : Nat) (per : Nat) (h : s0.Keeps s) :
    s0.Keeps (State.auxRow s core pro n st aux bc wk row c0 k per).2 := by
  unfold State.auxRow
  try dsimp only
  repeat' first
    | with_reducible assumption
    | (split <;> (rename_i heq; simp only [Prod.ext_iff] at heq; first | obtain ⟨rfl, rfl, rfl, rfl⟩ := heq | obtain ⟨rfl, rfl, rfl⟩ := heq | obtain ⟨rfl, rfl⟩ := heq | obtain ⟨_, rfl⟩ := heq | obtain ⟨_, _, rfl⟩ := heq))
    | split | with_reducible apply State.setCore_keeps | with_reducible apply State.auxRead_keeps | (intro; try dsimp only)

theorem State.stepRow_keeps (s : State) (core : Nat) (pro : Bool) (n : Nat) (st : Stage) (wk : TDesc) (sr : StepRound) (x : ChainStep) (row : Nat) (c0 : Nat) (xs : List Word64) (h : s0.Keeps s) :
    s0.Keeps (State.stepRow s core pro n st wk sr x row c0 xs).2 := by
  unfold State.stepRow
  try dsimp only
  repeat' first
    | with_reducible assumption
    | (split <;> (rename_i heq; simp only [Prod.ext_iff] at heq; first | obtain ⟨rfl, rfl, rfl, rfl⟩ := heq | obtain ⟨rfl, rfl, rfl⟩ := heq | obtain ⟨rfl, rfl⟩ := heq | obtain ⟨_, rfl⟩ := heq | obtain ⟨_, _, rfl⟩ := heq))
    | split | with_reducible apply State.bump_keeps | with_reducible apply State.raise_keeps | with_reducible apply State.auxRow_keeps
    | with_reducible apply foldl_keeps | with_reducible apply foldl_keeps2 | with_reducible apply foldl_keeps3 | (intro; try dsimp only)

theorem State.stepsRow_keeps (s : State) (core : Nat) (n : Nat) (st : Stage) (prologue : Bool) (row : Nat) (c0 : Nat) (xs : List Word64) (h : s0.Keeps s) :
    s0.Keeps (State.stepsRow s core n st prologue row c0 xs).2 := by
  unfold State.stepsRow
  try dsimp only
  repeat' first
    | with_reducible assumption
    | (split <;> (rename_i heq; simp only [Prod.ext_iff] at heq; first | obtain ⟨rfl, rfl, rfl, rfl⟩ := heq | obtain ⟨rfl, rfl, rfl⟩ := heq | obtain ⟨rfl, rfl⟩ := heq | obtain ⟨_, rfl⟩ := heq | obtain ⟨_, _, rfl⟩ := heq))
    | split | with_reducible apply State.setCore_keeps | with_reducible apply State.stepRow_keeps | with_reducible apply foldl_keeps
    | with_reducible apply foldl_keeps2 | with_reducible apply foldl_keeps3 | (intro; try dsimp only)

theorem State.streamRow_keeps (s : State) (core : Nat) (n : Nat) (st : Stage) (row : Nat) (c0 : Nat) (k : Nat) (h : s0.Keeps s) :
    s0.Keeps (State.streamRow s core n st row c0 k).2 := by
  unfold State.streamRow
  try dsimp only
  repeat' first
    | with_reducible assumption
    | (split <;> (rename_i heq; simp only [Prod.ext_iff] at heq; first | obtain ⟨rfl, rfl, rfl, rfl⟩ := heq | obtain ⟨rfl, rfl, rfl⟩ := heq | obtain ⟨rfl, rfl⟩ := heq | obtain ⟨_, rfl⟩ := heq | obtain ⟨_, _, rfl⟩ := heq))
    | split | with_reducible apply State.operand_keeps | with_reducible apply State.stepsRow_keeps
    | with_reducible apply State.bump_keeps | with_reducible apply State.raise_keeps | with_reducible apply foldl_keeps
    | (intro; try dsimp only)

theorem State.countPro_keeps (s : State) (core : Nat) (st : Stage) (row : Nat) (k0 : Nat) (k : Nat) (h : s0.Keeps s) :
    s0.Keeps (State.countPro s core st row k0 k) := by
  unfold State.countPro
  try dsimp only
  repeat' first
    | with_reducible assumption | split | with_reducible apply State.bump_keeps | (intro; try dsimp only)

theorem State.streamDepth_keeps (s : State) (core : Nat) (n : Nat) (st : Stage) (row : Nat) (k0 : Nat) (k : Nat) (h : s0.Keeps s) :
    s0.Keeps (State.streamDepth s core n st row k0 k).2 := by
  unfold State.streamDepth
  try dsimp only
  repeat' first
    | with_reducible assumption
    | (split <;> (rename_i heq; simp only [Prod.ext_iff] at heq; first | obtain ⟨rfl, rfl, rfl, rfl⟩ := heq | obtain ⟨rfl, rfl, rfl⟩ := heq | obtain ⟨rfl, rfl⟩ := heq | obtain ⟨_, rfl⟩ := heq | obtain ⟨_, _, rfl⟩ := heq))
    | split | with_reducible apply State.streamRow_keeps | with_reducible apply State.countPro_keeps | with_reducible apply foldl_keeps
    | with_reducible apply foldl_keeps2 | with_reducible apply foldl_keeps3 | (intro; try dsimp only)

theorem State.startWords_keeps (s : State) (n : Nat) (st : Stage) (t : Task) (c : Nat) (cols : Nat) (h : s0.Keeps s) :
    s0.Keeps (State.startWords s n st t c cols).2 := by
  unfold State.startWords
  try dsimp only
  repeat' first
    | with_reducible assumption
    | (split <;> (rename_i heq; simp only [Prod.ext_iff] at heq; first | obtain ⟨rfl, rfl, rfl, rfl⟩ := heq | obtain ⟨rfl, rfl, rfl⟩ := heq | obtain ⟨rfl, rfl⟩ := heq | obtain ⟨_, rfl⟩ := heq | obtain ⟨_, _, rfl⟩ := heq))
    | split | with_reducible apply State.raise_keeps | with_reducible apply State.readElems_keeps | with_reducible apply foldl_keeps
    | with_reducible apply foldl_keeps2 | with_reducible apply foldl_keeps3 | (intro; try dsimp only)

theorem State.setTask_keeps (s : State) (c : Nat) (slot : Nat) (t : Task) (h : s0.Keeps s) :
    s0.Keeps (State.setTask s c slot t) := by
  unfold State.setTask
  try dsimp only
  repeat' first
    | with_reducible assumption | with_reducible apply State.setCore_keeps

theorem State.tileDone_keeps (s : State) (c : Nat) (slot : Nat) (n : Nat) (h : s0.Keeps s) :
    s0.Keeps (State.tileDone s c slot n) := by
  unfold State.tileDone
  try dsimp only
  repeat' first
    | with_reducible assumption
    | (split <;> (rename_i heq; simp only [Prod.ext_iff] at heq; first | obtain ⟨rfl, rfl, rfl, rfl⟩ := heq | obtain ⟨rfl, rfl, rfl⟩ := heq | obtain ⟨rfl, rfl⟩ := heq | obtain ⟨_, rfl⟩ := heq | obtain ⟨_, _, rfl⟩ := heq))
    | split | with_reducible apply State.setCore_keeps | with_reducible apply State.setStage_keeps

/-! ### Tick -/

theorem State.setDomain_keeps (s : State) (d : Nat) (x : DomSt) (h : s0.Keeps s) :
    s0.Keeps (State.setDomain s d x) :=
  h

theorem State.beginWake_keeps (s : State) (d : Nat) (h : s0.Keeps s) :
    s0.Keeps (State.beginWake s d) := by
  unfold State.beginWake
  try dsimp only
  repeat' first
    | with_reducible assumption
    | (split <;> (rename_i heq; simp only [Prod.ext_iff] at heq; first | obtain ⟨rfl, rfl, rfl, rfl⟩ := heq | obtain ⟨rfl, rfl, rfl⟩ := heq | obtain ⟨rfl, rfl⟩ := heq | obtain ⟨_, rfl⟩ := heq | obtain ⟨_, _, rfl⟩ := heq))
    | split | with_reducible apply State.tick1_keeps

theorem State.startWakes_keeps (s : State) (h : s0.Keeps s) :
    s0.Keeps (State.startWakes s) := by
  unfold State.startWakes
  try dsimp only
  repeat' first
    | with_reducible assumption | with_reducible apply State.beginWake_keeps | with_reducible apply foldl_keeps
    | (intro; try dsimp only)

theorem State.knock_keeps (s : State) (d : Nat) (h : s0.Keeps s) :
    s0.Keeps (State.knock s d) := by
  unfold State.knock
  try dsimp only
  repeat' first
    | with_reducible assumption
    | (split <;> (rename_i heq; simp only [Prod.ext_iff] at heq; first | obtain ⟨rfl, rfl, rfl, rfl⟩ := heq | obtain ⟨rfl, rfl, rfl⟩ := heq | obtain ⟨rfl, rfl⟩ := heq | obtain ⟨_, rfl⟩ := heq | obtain ⟨_, _, rfl⟩ := heq))
    | split | with_reducible apply State.setDomain_keeps | with_reducible apply State.tick1_keeps
    | with_reducible apply State.startWakes_keeps

theorem State.coreCycle_keeps (s : State) (n : Nat) (harrowAlone : Bool) (h : s0.Keeps s) :
    s0.Keeps (State.coreCycle s n harrowAlone) := by
  unfold State.coreCycle
  try dsimp only
  repeat' first
    | with_reducible assumption | split | with_reducible apply State.tick1_keeps | with_reducible apply State.setCore_keeps
    | with_reducible apply foldl_keeps | (intro; try dsimp only)

theorem State.runDie_keeps (s : State) (die n : Nat) (h : s0.Keeps s) : s0.Keeps (s.runDie die n) := by
  induction n generalizing s with
  | zero => exact h
  | succ n ih =>
    unfold State.runDie
    exact ih _ (foldl_keeps _ _ _ (fun s c hs => State.coreCycle_keeps s c _ hs) h)

theorem State.tickDie_keeps (s : State) (die : Nat) (h : s0.Keeps s) :
    s0.Keeps (State.tickDie s die) := by
  unfold State.tickDie
  try dsimp only
  repeat' first
    | with_reducible assumption
    | (split <;> (rename_i heq; simp only [Prod.ext_iff] at heq; first | obtain ⟨rfl, rfl, rfl, rfl⟩ := heq | obtain ⟨rfl, rfl, rfl⟩ := heq | obtain ⟨rfl, rfl⟩ := heq | obtain ⟨_, rfl⟩ := heq | obtain ⟨_, _, rfl⟩ := heq))
    | split | with_reducible apply State.bump_keeps | with_reducible apply State.runDie_keeps

theorem State.tickTime_keeps (s : State) (h : s0.Keeps s) :
    s0.Keeps (State.tickTime s) := by
  unfold State.tickTime
  try dsimp only
  repeat' first
    | with_reducible assumption | split

theorem State.publishCounts_keeps (s : State) (h : s0.Keeps s) :
    s0.Keeps (State.publishCounts s) := by
  unfold State.publishCounts
  try dsimp only
  repeat' first
    | with_reducible assumption | (intro; try dsimp only)

theorem State.tickNs_keeps (s : State) (h : s0.Keeps s) :
    s0.Keeps (State.tickNs s) := by
  unfold State.tickNs
  try dsimp only
  repeat' first
    | with_reducible assumption
    | (split <;> (rename_i heq; simp only [Prod.ext_iff] at heq; first | obtain ⟨rfl, rfl, rfl, rfl⟩ := heq | obtain ⟨rfl, rfl, rfl⟩ := heq | obtain ⟨rfl, rfl⟩ := heq | obtain ⟨_, rfl⟩ := heq | obtain ⟨_, _, rfl⟩ := heq))
    | split | with_reducible apply State.bump_keeps | with_reducible apply State.tick1_keeps | with_reducible apply State.tickDie_keeps
    | with_reducible apply State.tickTime_keeps | with_reducible apply State.publishCounts_keeps | with_reducible apply foldl_keeps
    | with_reducible apply foldl_keeps2 | with_reducible apply foldl_keeps3 | (intro; try dsimp only)

/-! ### Placement -/

theorem State.placeOn_keeps (s : State) (n : Nat) (st : Stage) (rc : Nat × Nat) (c : Nat) (h : s0.Keeps s) :
    s0.Keeps (State.placeOn s n st rc c) := by
  unfold State.placeOn
  try dsimp only
  repeat' first
    | with_reducible assumption | with_reducible apply State.setCore_keeps | with_reducible apply State.setStage_keeps
    | with_reducible apply State.knock_keeps | with_reducible apply State.tick1_keeps

theorem State.placeFirst_keeps (s : State) (l : List (Nat × Stage)) (h : s0.Keeps s) : s0.Keeps (s.placeFirst l) := by
  induction l generalizing s with
  | nil => exact h
  | cons p rest ih =>
    unfold State.placeFirst
    split
    · exact ih s h
    · split
      · exact State.placeOn_keeps _ _ _ _ _ h
      · exact ih _ h

theorem execPlaceTask_keeps (s : State) (h : s0.Keeps s) :
    ∀ t, execPlaceTask s = .next t → s0.Keeps t := by
  intro t ht
  unfold execPlaceTask answer at ht
  injection ht with ht
  subst ht
  apply State.settle_keeps _ _ h
  try dsimp only
  repeat' first
    | with_reducible assumption | with_reducible apply State.placeFirst_keeps

theorem execGleanRequest_keeps (core : Nat) (s : State) (h : s0.Keeps s) :
    ∀ t, execGleanRequest core s = .next t → s0.Keeps t := by
  intro t ht
  unfold execGleanRequest answer at ht
  injection ht with ht
  subst ht
  apply State.settle_keeps _ _ h
  try dsimp only
  repeat' first
    | with_reducible assumption
    | (split <;> (rename_i heq; simp only [Prod.ext_iff] at heq; first | obtain ⟨rfl, rfl, rfl, rfl⟩ := heq | obtain ⟨rfl, rfl, rfl⟩ := heq | obtain ⟨rfl, rfl⟩ := heq | obtain ⟨_, rfl⟩ := heq | obtain ⟨_, _, rfl⟩ := heq))
    | split | with_reducible apply State.setCore_keeps

theorem State.serveGlean_keeps (s : State) (victim : Nat) (thief : Nat) (h : s0.Keeps s) :
    s0.Keeps (State.serveGlean s victim thief) := by
  unfold State.serveGlean
  try dsimp only
  repeat' first
    | with_reducible assumption
    | (split <;> (rename_i heq; simp only [Prod.ext_iff] at heq; first | obtain ⟨rfl, rfl, rfl, rfl⟩ := heq | obtain ⟨rfl, rfl, rfl⟩ := heq | obtain ⟨rfl, rfl⟩ := heq | obtain ⟨_, rfl⟩ := heq | obtain ⟨_, _, rfl⟩ := heq))
    | split | with_reducible apply State.tick1_keeps | with_reducible apply State.setCore_keeps

theorem execGleanServe_keeps (victim : Nat) (s : State) (h : s0.Keeps s) :
    ∀ t, execGleanServe victim s = .next t → s0.Keeps t := by
  intro t ht
  unfold execGleanServe answer at ht
  injection ht with ht
  subst ht
  apply State.settle_keeps _ _ h
  try dsimp only
  repeat' first
    | with_reducible assumption
    | (split <;> (rename_i heq; simp only [Prod.ext_iff] at heq; first | obtain ⟨rfl, rfl, rfl, rfl⟩ := heq | obtain ⟨rfl, rfl, rfl⟩ := heq | obtain ⟨rfl, rfl⟩ := heq | obtain ⟨_, rfl⟩ := heq | obtain ⟨_, _, rfl⟩ := heq))
    | split | with_reducible apply State.serveGlean_keeps | with_reducible apply State.setCore_keeps

theorem execGleanTransferComplete_keeps (core : Nat) (s : State) (h : s0.Keeps s) :
    ∀ t, execGleanTransferComplete core s = .next t → s0.Keeps t := by
  intro t ht
  unfold execGleanTransferComplete answer at ht
  injection ht with ht
  subst ht
  apply State.settle_keeps _ _ h
  try dsimp only
  repeat' first
    | with_reducible assumption | split | with_reducible apply State.setCore_keeps | with_reducible apply State.knock_keeps

theorem execGleanExclusionExpiry_keeps (core : Nat) (victim : Nat) (s : State) (h : s0.Keeps s) :
    ∀ t, execGleanExclusionExpiry core victim s = .next t → s0.Keeps t := by
  intro t ht
  unfold execGleanExclusionExpiry answer at ht
  injection ht with ht
  subst ht
  apply State.settle_keeps _ _ h
  try dsimp only
  repeat' first
    | with_reducible assumption | with_reducible apply State.setCore_keeps

/-! ### Spill -/

theorem State.writeHeader_keeps (s : State) (c : Nat) (j : Nat) (t : Task) (h : s0.Keeps s) :
    s0.Keeps (State.writeHeader s c j t) := by
  unfold State.writeHeader
  try dsimp only
  repeat' first
    | with_reducible assumption
    | (split <;> (rename_i heq; simp only [Prod.ext_iff] at heq; first | obtain ⟨rfl, rfl, rfl, rfl⟩ := heq | obtain ⟨rfl, rfl, rfl⟩ := heq | obtain ⟨rfl, rfl⟩ := heq | obtain ⟨_, rfl⟩ := heq | obtain ⟨_, _, rfl⟩ := heq))
    | split | with_reducible apply State.writeRaw_keeps

theorem State.suspend_keeps (s : State) (c : Nat) (slot : Nat) (j : Nat) (t : Task) (h : s0.Keeps s) :
    s0.Keeps (State.suspend s c slot j t) := by
  unfold State.suspend
  try dsimp only
  repeat' first
    | with_reducible assumption
    | (split <;> (rename_i heq; simp only [Prod.ext_iff] at heq; first | obtain ⟨rfl, rfl, rfl, rfl⟩ := heq | obtain ⟨rfl, rfl, rfl⟩ := heq | obtain ⟨rfl, rfl⟩ := heq | obtain ⟨_, rfl⟩ := heq | obtain ⟨_, _, rfl⟩ := heq))
    | split | with_reducible apply State.setCore_keeps | with_reducible apply State.writeRaw_keeps
    | with_reducible apply State.writeHeader_keeps | with_reducible apply State.bump_keeps
    | with_reducible apply State.tick1_keeps

theorem State.spillCarried_keeps (s : State) (c : Nat) (slot : Nat) (h : s0.Keeps s) :
    s0.Keeps (State.spillCarried s c slot) := by
  unfold State.spillCarried
  try dsimp only
  repeat' first
    | with_reducible assumption
    | (split <;> (rename_i heq; simp only [Prod.ext_iff] at heq; first | obtain ⟨rfl, rfl, rfl, rfl⟩ := heq | obtain ⟨rfl, rfl, rfl⟩ := heq | obtain ⟨rfl, rfl⟩ := heq | obtain ⟨_, rfl⟩ := heq | obtain ⟨_, _, rfl⟩ := heq))
    | split | with_reducible apply State.writeRaw_keeps | with_reducible apply State.bump_keeps
    | with_reducible apply State.writeHeader_keeps | with_reducible apply State.setTask_keeps

theorem State.spillScores_keeps (s : State) (c : Nat) (slot : Nat) (h : s0.Keeps s) :
    s0.Keeps (State.spillScores s c slot) := by
  unfold State.spillScores
  try dsimp only
  repeat' first
    | with_reducible assumption
    | (split <;> (rename_i heq; simp only [Prod.ext_iff] at heq; first | obtain ⟨rfl, rfl, rfl, rfl⟩ := heq | obtain ⟨rfl, rfl, rfl⟩ := heq | obtain ⟨rfl, rfl⟩ := heq | obtain ⟨_, rfl⟩ := heq | obtain ⟨_, _, rfl⟩ := heq))
    | split | with_reducible apply State.writeRaw_keeps | with_reducible apply State.bump_keeps
    | with_reducible apply State.writeHeader_keeps | with_reducible apply State.setTask_keeps

theorem State.spillTile_keeps (s : State) (c : Nat) (key : Bool × Nat) (idx : Nat) (h : s0.Keeps s) :
    s0.Keeps (State.spillTile s c key idx) := by
  unfold State.spillTile
  try dsimp only
  repeat' first
    | with_reducible assumption
    | (split <;> (rename_i heq; simp only [Prod.ext_iff] at heq; first | obtain ⟨rfl, rfl, rfl, rfl⟩ := heq | obtain ⟨rfl, rfl, rfl⟩ := heq | obtain ⟨rfl, rfl⟩ := heq | obtain ⟨_, rfl⟩ := heq | obtain ⟨_, _, rfl⟩ := heq))
    | split | with_reducible apply State.setCore_keeps | with_reducible apply State.writeRaw_keeps
    | with_reducible apply State.bump_keeps

theorem State.makeSpace_keeps (s : State) (c : Nat) (cls : Nat) (acc : Nat) (ret : Nat) (h : s0.Keeps s) :
    s0.Keeps (State.makeSpace s c cls acc ret) := by
  unfold State.makeSpace
  try dsimp only
  repeat' first
    | with_reducible assumption
    | (split <;> (rename_i heq; simp only [Prod.ext_iff] at heq; first | obtain ⟨rfl, rfl, rfl, rfl⟩ := heq | obtain ⟨rfl, rfl, rfl⟩ := heq | obtain ⟨rfl, rfl⟩ := heq | obtain ⟨_, rfl⟩ := heq | obtain ⟨_, _, rfl⟩ := heq))
    | split | with_reducible apply State.spillCarried_keeps | with_reducible apply State.spillTile_keeps
    | with_reducible apply State.spillScores_keeps | with_reducible apply foldl_keeps | (intro; try dsimp only)

theorem State.restoreLanes_keeps (s : State) (c : Nat) (n : Nat) (a : Nat) (len : Nat) (saved : Option DrawCtx) (h : s0.Keeps s) :
    s0.Keeps (State.restoreLanes s c n a len saved).2 := by
  unfold State.restoreLanes
  try dsimp only
  repeat' first
    | with_reducible assumption
    | (split <;> (rename_i heq; simp only [Prod.ext_iff] at heq; first | obtain ⟨rfl, rfl, rfl, rfl⟩ := heq | obtain ⟨rfl, rfl, rfl⟩ := heq | obtain ⟨rfl, rfl⟩ := heq | obtain ⟨_, rfl⟩ := heq | obtain ⟨_, _, rfl⟩ := heq))
    | split | with_reducible apply State.setCore_keeps | with_reducible apply State.frameRead_keeps

theorem State.restoreUnits_keeps (s : State) (c : Nat) (slot : Nat) (j : Nat) (t : Task) (ctx : Option DrawCtx) (h : s0.Keeps s) :
    s0.Keeps (State.restoreUnits s c slot j t ctx) := by
  unfold State.restoreUnits
  try dsimp only
  repeat' first
    | with_reducible assumption
    | (split <;> (rename_i heq; simp only [Prod.ext_iff] at heq; first | obtain ⟨rfl, rfl, rfl, rfl⟩ := heq | obtain ⟨rfl, rfl, rfl⟩ := heq | obtain ⟨rfl, rfl⟩ := heq | obtain ⟨_, rfl⟩ := heq | obtain ⟨_, _, rfl⟩ := heq))
    | split | with_reducible apply State.frameRead_keeps | with_reducible apply State.bump_keeps
    | with_reducible apply State.setCore_keeps

theorem State.restoreTask_keeps (s : State) (c : Nat) (slot : Nat) (j : Nat) (t : Task) (h : s0.Keeps s) :
    s0.Keeps (State.restoreTask s c slot j t) := by
  unfold State.restoreTask
  try dsimp only
  repeat' first
    | with_reducible assumption | with_reducible apply State.restoreLanes_keeps | with_reducible apply State.restoreUnits_keeps

end Sys2Proof.Machine
end

