-- ==== Sys2Proof/Laws/KeepTasks.lean ====
section
/-!
SUPPORT. What the operations and commands of the work of tasks on a core keep: the memory tiers in order, the fuses only burnt
further, the record of messages only longer, the queue of commands as it was. One lemma for each definition of Machine/.
-/
namespace Sys2Proof.Machine

variable {s0 : State}

/-! ### Work -/

theorem State.drawWords_keeps (s : State) (c : Nat) (slot : Nat) (k : Nat) (h : s0.Keeps s) :
    s0.Keeps (State.drawWords s c slot k).2 := by
  unfold State.drawWords
  try dsimp only
  repeat' first
    | with_reducible assumption
    | (split <;> (rename_i heq; simp only [Prod.ext_iff] at heq; first | obtain ⟨rfl, rfl, rfl, rfl⟩ := heq | obtain ⟨rfl, rfl, rfl⟩ := heq | obtain ⟨rfl, rfl⟩ := heq | obtain ⟨_, rfl⟩ := heq | obtain ⟨_, _, rfl⟩ := heq))
    | split | with_reducible apply State.bump_keeps | with_reducible apply State.setCore_keeps

theorem State.stationary_keeps (s : State) (n : Nat) (st : Stage) (k0 : Nat) (len : Nat) (col : Nat) (cols : Nat) (h : s0.Keeps s) :
    s0.Keeps (State.stationary s n st k0 len col cols).2 := by
  unfold State.stationary
  try dsimp only
  repeat' first
    | with_reducible assumption
    | (split <;> (rename_i heq; simp only [Prod.ext_iff] at heq; first | obtain ⟨rfl, rfl, rfl, rfl⟩ := heq | obtain ⟨rfl, rfl, rfl⟩ := heq | obtain ⟨rfl, rfl⟩ := heq | obtain ⟨_, rfl⟩ := heq | obtain ⟨_, _, rfl⟩ := heq))
    | with_reducible apply State.operand_keeps | with_reducible apply foldl_keeps2 | (intro; try dsimp only)

theorem State.matGroup_keeps (s : State) (core : Nat) (n : Nat) (st : Stage) (t : Task) (p : PassSpec) (acc : List Word64) (g : Nat) (h : s0.Keeps s) :
    s0.Keeps (State.matGroup s core n st t p acc g).2 := by
  unfold State.matGroup
  try dsimp only
  repeat' first
    | with_reducible assumption
    | (split <;> (rename_i heq; simp only [Prod.ext_iff] at heq; first | obtain ⟨rfl, rfl, rfl, rfl⟩ := heq | obtain ⟨rfl, rfl, rfl⟩ := heq | obtain ⟨rfl, rfl⟩ := heq | obtain ⟨_, rfl⟩ := heq | obtain ⟨_, _, rfl⟩ := heq))
    | split | with_reducible apply State.raise_keeps | with_reducible apply State.countPro_keeps
    | with_reducible apply State.streamDepth_keeps | with_reducible apply State.stationary_keeps | with_reducible apply foldl_keeps
    | with_reducible apply foldl_keeps2 | with_reducible apply foldl_keeps3 | (intro; try dsimp only)

theorem State.redGroup_keeps (s : State) (n : Nat) (st : Stage) (t : Task) (i : Nat) (col : Nat) (cols : Nat) (acc : List Word64) (g : Nat) (h : s0.Keeps s) :
    s0.Keeps (State.redGroup s n st t i col cols acc g).2 := by
  unfold State.redGroup
  try dsimp only
  repeat' first
    | with_reducible assumption
    | (split <;> (rename_i heq; simp only [Prod.ext_iff] at heq; first | obtain ⟨rfl, rfl, rfl, rfl⟩ := heq | obtain ⟨rfl, rfl, rfl⟩ := heq | obtain ⟨rfl, rfl⟩ := heq | obtain ⟨_, rfl⟩ := heq | obtain ⟨_, _, rfl⟩ := heq))
    | split | with_reducible apply State.readElems_keeps | with_reducible apply State.raise_keeps
    | with_reducible apply foldl_keeps2 | (intro; try dsimp only)

theorem State.passWork_keeps (s : State) (core : Nat) (n : Nat) (st : Stage) (t : Task) (p : PassSpec) (h : s0.Keeps s) :
    s0.Keeps (State.passWork s core n st t p).2 := by
  unfold State.passWork
  try dsimp only
  repeat' first
    | with_reducible assumption | split | with_reducible apply State.matGroup_keeps | with_reducible apply State.redGroup_keeps
    | with_reducible apply foldl_keeps2 | (intro; try dsimp only)

theorem State.fmaRow_keeps (s : State) (core : Nat) (n : Nat) (st : Stage) (t : Task) (i : Nat) (h : s0.Keeps s) :
    s0.Keeps (State.fmaRow s core n st t i).2 := by
  unfold State.fmaRow
  try dsimp only
  repeat' first
    | with_reducible assumption
    | (split <;> (rename_i heq; simp only [Prod.ext_iff] at heq; first | obtain ⟨rfl, rfl, rfl, rfl⟩ := heq | obtain ⟨rfl, rfl, rfl⟩ := heq | obtain ⟨rfl, rfl⟩ := heq | obtain ⟨_, rfl⟩ := heq | obtain ⟨_, _, rfl⟩ := heq))
    | split | with_reducible apply State.streamDepth_keeps | with_reducible apply State.operand_keeps
    | with_reducible apply State.raise_keeps | with_reducible apply foldl_keeps3 | (intro; try dsimp only)

theorem State.redRow_keeps (s : State) (n : Nat) (st : Stage) (t : Task) (i : Nat) (h : s0.Keeps s) :
    s0.Keeps (State.redRow s n st t i).2 := by
  unfold State.redRow
  try dsimp only
  repeat' first
    | with_reducible assumption | with_reducible apply State.redGroup_keeps | with_reducible apply foldl_keeps2
    | (intro; try dsimp only)

theorem State.deliverRow_keeps (s : State) (core : Nat) (n : Nat) (st : Stage) (f : Fmt) (row : Nat) (col0 : Nat) (xs : List Word64) (words : List Nat) (quiet : Bool) (h : s0.Keeps s) :
    s0.Keeps (State.deliverRow s core n st f row col0 xs words quiet).2.2 := by
  unfold State.deliverRow
  try dsimp only
  repeat' first
    | with_reducible assumption
    | (split <;> (rename_i heq; simp only [Prod.ext_iff] at heq; first | obtain ⟨rfl, rfl, rfl, rfl⟩ := heq | obtain ⟨rfl, rfl, rfl⟩ := heq | obtain ⟨rfl, rfl⟩ := heq | obtain ⟨_, rfl⟩ := heq | obtain ⟨_, _, rfl⟩ := heq))
    | split | with_reducible apply State.bump_keeps | with_reducible apply State.stepsRow_keeps
    | with_reducible apply State.raise_keeps

theorem State.funcRow_keeps (s : State) (core : Nat) (slot : Nat) (n : Nat) (st : Stage) (t : Task) (i : Nat) (h : s0.Keeps s) :
    s0.Keeps (State.funcRow s core slot n st t i) := by
  unfold State.funcRow
  try dsimp only
  repeat' first
    | with_reducible assumption
    | (split <;> (rename_i heq; simp only [Prod.ext_iff] at heq; first | obtain ⟨rfl, rfl, rfl, rfl⟩ := heq | obtain ⟨rfl, rfl, rfl⟩ := heq | obtain ⟨rfl, rfl⟩ := heq | obtain ⟨_, rfl⟩ := heq | obtain ⟨_, _, rfl⟩ := heq))
    | split | with_reducible apply State.drawWords_keeps | with_reducible apply State.writeElems_keeps
    | with_reducible apply State.readElems_keeps | with_reducible apply State.bump_keeps
    | with_reducible apply State.raise_keeps | with_reducible apply State.deliverRow_keeps | with_reducible apply foldl_keeps
    | (intro; try dsimp only)

theorem State.noiseRow_keeps (s : State) (core : Nat) (slot : Nat) (n : Nat) (st : Stage) (t : Task) (i : Nat) (h : s0.Keeps s) :
    s0.Keeps (State.noiseRow s core slot n st t i) := by
  unfold State.noiseRow
  try dsimp only
  repeat' first
    | with_reducible assumption
    | (split <;> (rename_i heq; simp only [Prod.ext_iff] at heq; first | obtain ⟨rfl, rfl, rfl, rfl⟩ := heq | obtain ⟨rfl, rfl, rfl⟩ := heq | obtain ⟨rfl, rfl⟩ := heq | obtain ⟨_, rfl⟩ := heq | obtain ⟨_, _, rfl⟩ := heq))
    | split | with_reducible apply State.drawWords_keeps | with_reducible apply State.writeElems_keeps
    | with_reducible apply State.raise_keeps | with_reducible apply State.deliverRow_keeps | with_reducible apply foldl_keeps
    | (intro; try dsimp only)

theorem State.rowWork_keeps (s : State) (core : Nat) (slot : Nat) (n : Nat) (st : Stage) (t : Task) (i : Nat) (h : s0.Keeps s) :
    s0.Keeps (State.rowWork s core slot n st t i).2 := by
  unfold State.rowWork
  try dsimp only
  repeat' first
    | with_reducible assumption
    | (split <;> (rename_i heq; simp only [Prod.ext_iff] at heq; first | obtain ⟨rfl, rfl, rfl, rfl⟩ := heq | obtain ⟨rfl, rfl, rfl⟩ := heq | obtain ⟨rfl, rfl⟩ := heq | obtain ⟨_, rfl⟩ := heq | obtain ⟨_, _, rfl⟩ := heq))
    | split | with_reducible apply State.fmaRow_keeps | with_reducible apply State.funcRow_keeps
    | with_reducible apply State.noiseRow_keeps | with_reducible apply State.redRow_keeps

theorem State.normPart_keeps (s : State) (n : Nat) (st : Stage) (t : Task) (i : Nat) (h : s0.Keeps s) :
    s0.Keeps (State.normPart s n st t i).2 := by
  unfold State.normPart
  try dsimp only
  repeat' first
    | with_reducible assumption
    | (split <;> (rename_i heq; simp only [Prod.ext_iff] at heq; first | obtain ⟨rfl, rfl, rfl, rfl⟩ := heq | obtain ⟨rfl, rfl, rfl⟩ := heq | obtain ⟨rfl, rfl⟩ := heq | obtain ⟨_, rfl⟩ := heq | obtain ⟨_, _, rfl⟩ := heq))
    | split | with_reducible apply State.readElems_keeps | with_reducible apply State.raise_keeps
    | with_reducible apply foldl_keeps | (intro; try dsimp only)

theorem State.normWork_keeps (s : State) (n : Nat) (st : Stage) (t : Task) (h : s0.Keeps s) :
    s0.Keeps (State.normWork s n st t).2 := by
  unfold State.normWork
  try dsimp only
  repeat' first
    | with_reducible assumption
    | (split <;> (rename_i heq; simp only [Prod.ext_iff] at heq; first | obtain ⟨rfl, rfl, rfl, rfl⟩ := heq | obtain ⟨rfl, rfl, rfl⟩ := heq | obtain ⟨rfl, rfl⟩ := heq | obtain ⟨_, rfl⟩ := heq | obtain ⟨_, _, rfl⟩ := heq))
    | with_reducible apply State.normPart_keeps | with_reducible apply foldl_keeps2 | (intro; try dsimp only)

theorem State.normRowEnd_keeps (s : State) (core : Nat) (n : Nat) (st : Stage) (ws : List Word64) (h : s0.Keeps s) :
    s0.Keeps (State.normRowEnd s core n st ws).2 := by
  unfold State.normRowEnd
  try dsimp only
  repeat' first
    | with_reducible assumption
    | (split <;> (rename_i heq; simp only [Prod.ext_iff] at heq; first | obtain ⟨rfl, rfl, rfl, rfl⟩ := heq | obtain ⟨rfl, rfl, rfl⟩ := heq | obtain ⟨rfl, rfl⟩ := heq | obtain ⟨_, rfl⟩ := heq | obtain ⟨_, _, rfl⟩ := heq))
    | with_reducible apply State.tick1_keeps | with_reducible apply State.raise_keeps

/-! ### Thresher -/

theorem State.candRow_keeps (s : State) (core : Nat) (n : Nat) (st : Stage) (t : Task) (row : Nat) (h : s0.Keeps s) :
    s0.Keeps (State.candRow s core n st t row).2 := by
  unfold State.candRow
  try dsimp only
  repeat' first
    | with_reducible assumption
    | (split <;> (rename_i heq; simp only [Prod.ext_iff] at heq; first | obtain ⟨rfl, rfl, rfl, rfl⟩ := heq | obtain ⟨rfl, rfl, rfl⟩ := heq | obtain ⟨rfl, rfl⟩ := heq | obtain ⟨_, rfl⟩ := heq | obtain ⟨_, _, rfl⟩ := heq))
    | split | with_reducible apply State.readFor_keeps | with_reducible apply State.readElems_keeps
    | with_reducible apply State.bump_keeps

theorem State.topkWork_keeps (s : State) (core : Nat) (n : Nat) (st : Stage) (t : Task) (h : s0.Keeps s) :
    s0.Keeps (State.topkWork s core n st t).2 := by
  unfold State.topkWork
  try dsimp only
  repeat' first
    | with_reducible assumption
    | (split <;> (rename_i heq; simp only [Prod.ext_iff] at heq; first | obtain ⟨rfl, rfl, rfl, rfl⟩ := heq | obtain ⟨rfl, rfl, rfl⟩ := heq | obtain ⟨rfl, rfl⟩ := heq | obtain ⟨_, rfl⟩ := heq | obtain ⟨_, _, rfl⟩ := heq))
    | split | with_reducible apply State.candRow_keeps | with_reducible apply foldl_keeps2 | (intro; try dsimp only)

theorem State.smpSr_keeps (s : State) (core : Nat) (slot : Nat) (st : Stage) (h : s0.Keeps s) :
    s0.Keeps (State.smpSr s core slot st).2 := by
  unfold State.smpSr
  try dsimp only
  repeat' first
    | with_reducible assumption | split | with_reducible apply State.drawWords_keeps

theorem State.smpStreamRow_keeps (s : State) (core : Nat) (slot : Nat) (n : Nat) (st : Stage) (t : Task) (i : Nat) (h : s0.Keeps s) :
    s0.Keeps (State.smpStreamRow s core slot n st t i).2 := by
  unfold State.smpStreamRow
  try dsimp only
  repeat' first
    | with_reducible assumption
    | (split <;> (rename_i heq; simp only [Prod.ext_iff] at heq; first | obtain ⟨rfl, rfl, rfl, rfl⟩ := heq | obtain ⟨rfl, rfl, rfl⟩ := heq | obtain ⟨rfl, rfl⟩ := heq | obtain ⟨_, rfl⟩ := heq | obtain ⟨_, _, rfl⟩ := heq))
    | split | with_reducible apply State.drawWords_keeps | with_reducible apply State.candRow_keeps
    | with_reducible apply State.raise_keeps | with_reducible apply State.smpSr_keeps | with_reducible apply foldl_keeps
    | (intro; try dsimp only)

theorem State.smpRow_keeps (s : State) (core : Nat) (slot : Nat) (n : Nat) (st : Stage) (t : Task) (i : Nat) (h : s0.Keeps s) :
    s0.Keeps (State.smpRow s core slot n st t i).2 := by
  unfold State.smpRow
  try dsimp only
  repeat' first
    | with_reducible assumption
    | (split <;> (rename_i heq; simp only [Prod.ext_iff] at heq; first | obtain ⟨rfl, rfl, rfl, rfl⟩ := heq | obtain ⟨rfl, rfl, rfl⟩ := heq | obtain ⟨rfl, rfl⟩ := heq | obtain ⟨_, rfl⟩ := heq | obtain ⟨_, _, rfl⟩ := heq))
    | split | with_reducible apply State.candRow_keeps | with_reducible apply State.raise_keeps
    | with_reducible apply State.drawWords_keeps | with_reducible apply State.smpSr_keeps | with_reducible apply foldl_keeps
    | (intro; try dsimp only)

theorem State.smpWork_keeps (s : State) (core : Nat) (slot : Nat) (n : Nat) (st : Stage) (t : Task) (h : s0.Keeps s) :
    s0.Keeps (State.smpWork s core slot n st t).2.2 := by
  unfold State.smpWork
  try dsimp only
  repeat' first
    | with_reducible assumption
    | (split <;> (rename_i heq; simp only [Prod.ext_iff] at heq; first | obtain ⟨rfl, rfl, rfl, rfl⟩ := heq | obtain ⟨rfl, rfl, rfl⟩ := heq | obtain ⟨rfl, rfl⟩ := heq | obtain ⟨_, rfl⟩ := heq | obtain ⟨_, _, rfl⟩ := heq))
    | split | with_reducible apply State.smpStreamRow_keeps | with_reducible apply State.smpRow_keeps
    | with_reducible apply State.bump_keeps | with_reducible apply foldl_keeps3 | (intro; try dsimp only)

theorem State.writeRecord_keeps (s : State) (core : Nat) (n : Nat) (st : Stage) (row : Nat) (c : Nat) (xs : List Word64) (h : s0.Keeps s) :
    s0.Keeps (State.writeRecord s core n st row c xs) := by
  unfold State.writeRecord
  try dsimp only
  repeat' first
    | with_reducible assumption | with_reducible apply State.tick1_keeps | with_reducible apply State.bump_keeps
    | with_reducible apply State.writeFor_keeps

/-! ### Attend -/

theorem State.pageRead_keeps (s : State) (n : Nat) (a : Nat) (len : Nat) (h : s0.Keeps s) :
    s0.Keeps (State.pageRead s n a len).2 := by
  unfold State.pageRead
  try dsimp only
  repeat' first
    | with_reducible assumption | with_reducible apply State.innerRead_keeps

theorem State.sheafNamed_keeps (s : State) (n : Nat) (st : Stage) (b : List Byte) (g : Nat) (pages : Nat) (tail : Nat) (h : s0.Keeps s) :
    s0.Keeps (State.sheafNamed s n st b g pages tail).2 := by
  unfold State.sheafNamed
  try dsimp only
  repeat' first
    | with_reducible assumption | split | with_reducible apply State.kvCount_keeps | with_reducible apply State.meet_keeps

theorem State.sheafKeys_keeps (s : State) (n : Nat) (st : Stage) (b : List Byte) (g : Nat) (h : s0.Keeps s) :
    s0.Keeps (State.sheafKeys s n st b g).2 := by
  unfold State.sheafKeys
  try dsimp only
  repeat' first
    | with_reducible assumption
    | (split <;> (rename_i heq; simp only [Prod.ext_iff] at heq; first | obtain ⟨rfl, rfl, rfl, rfl⟩ := heq | obtain ⟨rfl, rfl, rfl⟩ := heq | obtain ⟨rfl, rfl⟩ := heq | obtain ⟨_, rfl⟩ := heq | obtain ⟨_, _, rfl⟩ := heq))
    | split | with_reducible apply State.meet_keeps | with_reducible apply State.kvCount_keeps
    | with_reducible apply State.sheafNamed_keeps

theorem State.meetSheaf_keeps (s : State) (n : Nat) (status : Nat) (h : s0.Keeps s) :
    s0.Keeps (State.meetSheaf s n status) := by
  unfold State.meetSheaf
  try dsimp only
  repeat' first
    | with_reducible assumption
    | (split <;> (rename_i heq; simp only [Prod.ext_iff] at heq; first | obtain ⟨rfl, rfl, rfl, rfl⟩ := heq | obtain ⟨rfl, rfl, rfl⟩ := heq | obtain ⟨rfl, rfl⟩ := heq | obtain ⟨_, rfl⟩ := heq | obtain ⟨_, _, rfl⟩ := heq))
    | split | with_reducible apply State.meet_keeps

theorem State.pagedKeys_keeps (s : State) (n : Nat) (st : Stage) (t : Task) (h : s0.Keeps s) :
    s0.Keeps (State.pagedKeys s n st t).2 := by
  unfold State.pagedKeys
  try dsimp only
  repeat' first
    | with_reducible assumption
    | (split <;> (rename_i heq; simp only [Prod.ext_iff] at heq; first | obtain ⟨rfl, rfl, rfl, rfl⟩ := heq | obtain ⟨rfl, rfl, rfl⟩ := heq | obtain ⟨rfl, rfl⟩ := heq | obtain ⟨_, rfl⟩ := heq | obtain ⟨_, _, rfl⟩ := heq))
    | split | with_reducible apply State.ctrlRead_keeps | with_reducible apply State.meet_keeps
    | with_reducible apply State.setStage_keeps | with_reducible apply State.sheafKeys_keeps
    | with_reducible apply State.meetSheaf_keeps

theorem State.attKeys_keeps (s : State) (n : Nat) (st : Stage) (t : Task) (h : s0.Keeps s) :
    s0.Keeps (State.attKeys s n st t).2 := by
  unfold State.attKeys
  try dsimp only
  repeat' first
    | with_reducible assumption
    | (split <;> (rename_i heq; simp only [Prod.ext_iff] at heq; first | obtain ⟨rfl, rfl, rfl, rfl⟩ := heq | obtain ⟨rfl, rfl, rfl⟩ := heq | obtain ⟨rfl, rfl⟩ := heq | obtain ⟨_, rfl⟩ := heq | obtain ⟨_, _, rfl⟩ := heq))
    | split | with_reducible apply State.pagedKeys_keeps

theorem State.keyRow_keeps (s : State) (n : Nat) (st : Stage) (g : Nat) (value : Bool) (k : KeyRef) (h : s0.Keeps s) :
    s0.Keeps (State.keyRow s n st g value k).2 := by
  unfold State.keyRow
  try dsimp only
  repeat' first
    | with_reducible assumption
    | (split <;> (rename_i heq; simp only [Prod.ext_iff] at heq; first | obtain ⟨rfl, rfl, rfl, rfl⟩ := heq | obtain ⟨rfl, rfl, rfl⟩ := heq | obtain ⟨rfl, rfl⟩ := heq | obtain ⟨_, rfl⟩ := heq | obtain ⟨_, _, rfl⟩ := heq))
    | split | with_reducible apply State.pageRead_keeps | with_reducible apply State.readElems_keeps

theorem State.keyPos_keeps (s : State) (n : Nat) (st : Stage) (k : KeyRef) (h : s0.Keeps s) :
    s0.Keeps (State.keyPos s n st k).2 := by
  unfold State.keyPos
  try dsimp only
  repeat' first
    | with_reducible assumption
    | (split <;> (rename_i heq; simp only [Prod.ext_iff] at heq; first | obtain ⟨rfl, rfl, rfl, rfl⟩ := heq | obtain ⟨rfl, rfl, rfl⟩ := heq | obtain ⟨rfl, rfl⟩ := heq | obtain ⟨_, rfl⟩ := heq | obtain ⟨_, _, rfl⟩ := heq))
    | split | with_reducible apply State.pageRead_keeps

theorem State.biasTables_keeps (s : State) (n : Nat) (st : Stage) (hh : Nat) (h : s0.Keeps s) :
    s0.Keeps (State.biasTables s n st hh).2 := by
  unfold State.biasTables
  try dsimp only
  repeat' first
    | with_reducible assumption | split | with_reducible apply State.readFor_keeps

theorem State.queries_keeps (s : State) (n : Nat) (st : Stage) (t : Task) (h : s0.Keeps s) :
    s0.Keeps (State.queries s n st t).2 := by
  unfold State.queries
  try dsimp only
  repeat' first
    | with_reducible assumption
    | (split <;> (rename_i heq; simp only [Prod.ext_iff] at heq; first | obtain ⟨rfl, rfl, rfl, rfl⟩ := heq | obtain ⟨rfl, rfl, rfl⟩ := heq | obtain ⟨rfl, rfl⟩ := heq | obtain ⟨_, rfl⟩ := heq | obtain ⟨_, _, rfl⟩ := heq))
    | with_reducible apply State.readElems_keeps | with_reducible apply foldl_keeps2 | (intro; try dsimp only)

theorem State.scoresOf_keeps (s : State) (n : Nat) (st : Stage) (t : Task) (tab : List Byte) (ks : List KeyRef) (h : s0.Keeps s) :
    s0.Keeps (State.scoresOf s n st t tab ks).2 := by
  unfold State.scoresOf
  try dsimp only
  repeat' first
    | with_reducible assumption
    | (split <;> (rename_i heq; simp only [Prod.ext_iff] at heq; first | obtain ⟨rfl, rfl, rfl, rfl⟩ := heq | obtain ⟨rfl, rfl, rfl⟩ := heq | obtain ⟨rfl, rfl⟩ := heq | obtain ⟨_, rfl⟩ := heq | obtain ⟨_, _, rfl⟩ := heq))
    | split | with_reducible apply State.raise_keeps | with_reducible apply State.keyRow_keeps | with_reducible apply State.keyPos_keeps
    | with_reducible apply State.queries_keeps | with_reducible apply foldl_keeps | with_reducible apply foldl_keeps2
    | with_reducible apply foldl_keeps3 | (intro; try dsimp only)

theorem State.attPass1_keeps (s : State) (n : Nat) (st : Stage) (t : Task) (tab : List Byte) (h : s0.Keeps s) :
    s0.Keeps (State.attPass1 s n st t tab).2 := by
  unfold State.attPass1
  try dsimp only
  repeat' first
    | with_reducible assumption
    | (split <;> (rename_i heq; simp only [Prod.ext_iff] at heq; first | obtain ⟨rfl, rfl, rfl, rfl⟩ := heq | obtain ⟨rfl, rfl, rfl⟩ := heq | obtain ⟨rfl, rfl⟩ := heq | obtain ⟨_, rfl⟩ := heq | obtain ⟨_, _, rfl⟩ := heq))
    | split | with_reducible apply State.scoresOf_keeps | with_reducible apply foldl_keeps | with_reducible apply foldl_keeps2
    | with_reducible apply foldl_keeps3 | (intro; try dsimp only)

theorem State.attScores_keeps (s : State) (n : Nat) (st : Stage) (t : Task) (tab : List Byte) (k0 : Nat) (ks : List KeyRef) (h : s0.Keeps s) :
    s0.Keeps (State.attScores s n st t tab k0 ks).2 := by
  unfold State.attScores
  try dsimp only
  repeat' first
    | with_reducible assumption | split | with_reducible apply State.scoresOf_keeps | (intro; try dsimp only)

theorem State.attPass2_keeps (s : State) (n : Nat) (st : Stage) (t : Task) (tab : List Byte) (h : s0.Keeps s) :
    s0.Keeps (State.attPass2 s n st t tab).2 := by
  unfold State.attPass2
  try dsimp only
  repeat' first
    | with_reducible assumption
    | (split <;> (rename_i heq; simp only [Prod.ext_iff] at heq; first | obtain ⟨rfl, rfl, rfl, rfl⟩ := heq | obtain ⟨rfl, rfl, rfl⟩ := heq | obtain ⟨rfl, rfl⟩ := heq | obtain ⟨_, rfl⟩ := heq | obtain ⟨_, _, rfl⟩ := heq))
    | split | with_reducible apply State.raise_keeps | with_reducible apply State.keyRow_keeps
    | with_reducible apply State.attScores_keeps | with_reducible apply foldl_keeps | with_reducible apply foldl_keeps2
    | with_reducible apply foldl_keeps3 | (intro; try dsimp only)

theorem State.attWork_keeps (s : State) (n : Nat) (st : Stage) (t : Task) (h : s0.Keeps s) :
    s0.Keeps (State.attWork s n st t).2 := by
  unfold State.attWork
  try dsimp only
  repeat' first
    | with_reducible assumption
    | (split <;> (rename_i heq; simp only [Prod.ext_iff] at heq; first | obtain ⟨rfl, rfl, rfl, rfl⟩ := heq | obtain ⟨rfl, rfl, rfl⟩ := heq | obtain ⟨rfl, rfl⟩ := heq | obtain ⟨_, rfl⟩ := heq | obtain ⟨_, _, rfl⟩ := heq))
    | split | with_reducible apply State.biasTables_keeps | with_reducible apply State.attPass1_keeps
    | with_reducible apply State.attPass2_keeps

theorem State.attRow_keeps (s : State) (n : Nat) (st : Stage) (t : Task) (i : Nat) (h : s0.Keeps s) :
    s0.Keeps (State.attRow s n st t i).2 := by
  unfold State.attRow
  try dsimp only
  repeat' first
    | with_reducible assumption
    | (split <;> (rename_i heq; simp only [Prod.ext_iff] at heq; first | obtain ⟨rfl, rfl, rfl, rfl⟩ := heq | obtain ⟨rfl, rfl, rfl⟩ := heq | obtain ⟨rfl, rfl⟩ := heq | obtain ⟨_, rfl⟩ := heq | obtain ⟨_, _, rfl⟩ := heq))
    | split | with_reducible apply State.raise_keeps | with_reducible apply foldl_keeps | (intro; try dsimp only)

theorem State.blockQuery_keeps (s : State) (n : Nat) (st : Stage) (smp : Nat) (b : Nat) (g : Nat) (h : s0.Keeps s) :
    s0.Keeps (State.blockQuery s n st smp b g).2 := by
  unfold State.blockQuery
  try dsimp only
  repeat' first
    | with_reducible assumption
    | (split <;> (rename_i heq; simp only [Prod.ext_iff] at heq; first | obtain ⟨rfl, rfl, rfl, rfl⟩ := heq | obtain ⟨rfl, rfl, rfl⟩ := heq | obtain ⟨rfl, rfl⟩ := heq | obtain ⟨_, rfl⟩ := heq | obtain ⟨_, _, rfl⟩ := heq))
    | with_reducible apply State.readElems_keeps | with_reducible apply State.raise_keeps | with_reducible apply foldl_keeps2
    | (intro; try dsimp only)

theorem State.retWork_keeps (s : State) (n : Nat) (st : Stage) (t : Task) (h : s0.Keeps s) :
    s0.Keeps (State.retWork s n st t).2 := by
  unfold State.retWork
  try dsimp only
  repeat' first
    | with_reducible assumption
    | (split <;> (rename_i heq; simp only [Prod.ext_iff] at heq; first | obtain ⟨rfl, rfl, rfl, rfl⟩ := heq | obtain ⟨rfl, rfl, rfl⟩ := heq | obtain ⟨rfl, rfl⟩ := heq | obtain ⟨_, rfl⟩ := heq | obtain ⟨_, _, rfl⟩ := heq))
    | split | with_reducible apply State.blockQuery_keeps | with_reducible apply State.pageRead_keeps
    | with_reducible apply State.raise_keeps | with_reducible apply foldl_keeps2 | (intro; try dsimp only)

theorem State.writeSheaf_keeps (s : State) (n : Nat) (st : Stage) (t : Task) (i : Nat) (h : s0.Keeps s) :
    s0.Keeps (State.writeSheaf s n st t i) := by
  unfold State.writeSheaf
  try dsimp only
  repeat' first
    | with_reducible assumption
    | (split <;> (rename_i heq; simp only [Prod.ext_iff] at heq; first | obtain ⟨rfl, rfl, rfl, rfl⟩ := heq | obtain ⟨rfl, rfl, rfl⟩ := heq | obtain ⟨rfl, rfl⟩ := heq | obtain ⟨_, rfl⟩ := heq | obtain ⟨_, _, rfl⟩ := heq))
    | split | with_reducible apply State.kvCount_keeps | with_reducible apply State.writeFor_keeps

/-! ### Tasks -/

theorem State.dropEnding_keeps (s : State) (c : Nat) (slot : Nat) (n : Nat) (h : s0.Keeps s) :
    s0.Keeps (State.dropEnding s c slot n) := by
  unfold State.dropEnding
  try dsimp only
  repeat' first
    | with_reducible assumption | split | with_reducible apply State.setCore_keeps | with_reducible apply State.finish_keeps

theorem State.preload_keeps (s : State) (c : Nat) (slot : Nat) (st : Stage) (t : Task) (p : PassSpec) (h : s0.Keeps s) :
    s0.Keeps (State.preload s c slot st t p) := by
  unfold State.preload
  try dsimp only
  repeat' first
    | with_reducible assumption
    | (split <;> (rename_i heq; simp only [Prod.ext_iff] at heq; first | obtain ⟨rfl, rfl, rfl, rfl⟩ := heq | obtain ⟨rfl, rfl, rfl⟩ := heq | obtain ⟨rfl, rfl⟩ := heq | obtain ⟨_, rfl⟩ := heq | obtain ⟨_, _, rfl⟩ := heq))
    | split | with_reducible apply State.startWords_keeps | with_reducible apply State.setTask_keeps

theorem State.startPass_keeps (s : State) (c : Nat) (slot : Nat) (st : Stage) (t : Task) (h : s0.Keeps s) :
    s0.Keeps (State.startPass s c slot st t) := by
  unfold State.startPass
  try dsimp only
  repeat' first
    | with_reducible assumption
    | (split <;> (rename_i heq; simp only [Prod.ext_iff] at heq; first | obtain ⟨rfl, rfl, rfl, rfl⟩ := heq | obtain ⟨rfl, rfl, rfl⟩ := heq | obtain ⟨rfl, rfl⟩ := heq | obtain ⟨_, rfl⟩ := heq | obtain ⟨_, _, rfl⟩ := heq))
    | split | with_reducible apply State.setCore_keeps | with_reducible apply State.preload_keeps

theorem State.markFirst_keeps (s : State) (n : Nat) (h : s0.Keeps s) :
    s0.Keeps (State.markFirst s n) := by
  unfold State.markFirst
  try dsimp only
  repeat' first
    | with_reducible assumption
    | (split <;> (rename_i heq; simp only [Prod.ext_iff] at heq; first | obtain ⟨rfl, rfl, rfl, rfl⟩ := heq | obtain ⟨rfl, rfl, rfl⟩ := heq | obtain ⟨rfl, rfl⟩ := heq | obtain ⟨_, rfl⟩ := heq | obtain ⟨_, _, rfl⟩ := heq))
    | split | with_reducible apply State.setStage_keeps

theorem State.markPreempted_keeps (s : State) (n : Nat) (h : s0.Keeps s) :
    s0.Keeps (State.markPreempted s n) := by
  unfold State.markPreempted
  try dsimp only
  repeat' first
    | with_reducible assumption
    | (split <;> (rename_i heq; simp only [Prod.ext_iff] at heq; first | obtain ⟨rfl, rfl, rfl, rfl⟩ := heq | obtain ⟨rfl, rfl, rfl⟩ := heq | obtain ⟨rfl, rfl⟩ := heq | obtain ⟨_, rfl⟩ := heq | obtain ⟨_, _, rfl⟩ := heq))
    | split | with_reducible apply State.setStage_keeps | with_reducible apply State.markFirst_keeps

theorem State.decideKeep_keeps (s : State) (c : Nat) (slot : Nat) (st : Stage) (h : s0.Keeps s) :
    s0.Keeps (State.decideKeep s c slot st) := by
  unfold State.decideKeep
  try dsimp only
  repeat' first
    | with_reducible assumption
    | (split <;> (rename_i heq; simp only [Prod.ext_iff] at heq; first | obtain ⟨rfl, rfl, rfl, rfl⟩ := heq | obtain ⟨rfl, rfl, rfl⟩ := heq | obtain ⟨rfl, rfl⟩ := heq | obtain ⟨_, rfl⟩ := heq | obtain ⟨_, _, rfl⟩ := heq))
    | split | with_reducible apply State.kvCount_keeps | with_reducible apply State.setTask_keeps

theorem State.beginChain_keeps (s : State) (n : Nat) (st : Stage) (t : Task) (h : s0.Keeps s) :
    s0.Keeps (State.beginChain s n st t).2 := by
  unfold State.beginChain
  try dsimp only
  repeat' first
    | with_reducible assumption
    | (split <;> (rename_i heq; simp only [Prod.ext_iff] at heq; first | obtain ⟨rfl, rfl, rfl, rfl⟩ := heq | obtain ⟨rfl, rfl, rfl⟩ := heq | obtain ⟨rfl, rfl⟩ := heq | obtain ⟨_, rfl⟩ := heq | obtain ⟨_, _, rfl⟩ := heq))
    | split | with_reducible apply State.attKeys_keeps | with_reducible apply State.startWords_keeps

theorem State.seed_keeps (s : State) (c : Nat) (slot : Nat) (st : Stage) (t : Task) (h : s0.Keeps s) :
    s0.Keeps (State.seed s c slot st t) := by
  unfold State.seed
  try dsimp only
  repeat' first
    | with_reducible assumption | with_reducible apply State.tick1_keeps | with_reducible apply State.setCore_keeps

theorem State.firstPass_keeps (s : State) (c : Nat) (slot : Nat) (st : Stage) (h : s0.Keeps s) :
    s0.Keeps (State.firstPass s c slot st) := by
  unfold State.firstPass
  try dsimp only
  repeat' first
    | with_reducible assumption
    | (split <;> (rename_i heq; simp only [Prod.ext_iff] at heq; first | obtain ⟨rfl, rfl, rfl, rfl⟩ := heq | obtain ⟨rfl, rfl, rfl⟩ := heq | obtain ⟨rfl, rfl⟩ := heq | obtain ⟨_, rfl⟩ := heq | obtain ⟨_, _, rfl⟩ := heq))
    | split | with_reducible apply State.knock_keeps | with_reducible apply State.startPass_keeps

theorem State.enterPasses_keeps (s : State) (c : Nat) (slot : Nat) (st : Stage) (old : Task) (t : Task) (h : s0.Keeps s) :
    s0.Keeps (State.enterPasses s c slot st old t) := by
  unfold State.enterPasses
  try dsimp only
  repeat' first
    | with_reducible assumption
    | (split <;> (rename_i heq; simp only [Prod.ext_iff] at heq; first | obtain ⟨rfl, rfl, rfl, rfl⟩ := heq | obtain ⟨rfl, rfl, rfl⟩ := heq | obtain ⟨rfl, rfl⟩ := heq | obtain ⟨_, rfl⟩ := heq | obtain ⟨_, _, rfl⟩ := heq))
    | split | with_reducible apply State.setCore_keeps | with_reducible apply State.setTask_keeps
    | with_reducible apply State.markFirst_keeps | with_reducible apply State.decideKeep_keeps | with_reducible apply State.seed_keeps
    | with_reducible apply State.firstPass_keeps

theorem execTaskStart_keeps (core : Nat) (s : State) (h : s0.Keeps s) :
    ∀ t, execTaskStart core s = .next t → s0.Keeps t := by
  intro t ht
  unfold execTaskStart answer at ht
  injection ht with ht
  subst ht
  apply State.settle_keeps _ _ h
  try dsimp only
  repeat' first
    | with_reducible assumption
    | (split <;> (rename_i heq; simp only [Prod.ext_iff] at heq; first | obtain ⟨rfl, rfl, rfl, rfl⟩ := heq | obtain ⟨rfl, rfl, rfl⟩ := heq | obtain ⟨rfl, rfl⟩ := heq | obtain ⟨_, rfl⟩ := heq | obtain ⟨_, _, rfl⟩ := heq))
    | split | with_reducible apply State.enterPasses_keeps | with_reducible apply State.beginChain_keeps
    | with_reducible apply State.tileDone_keeps

theorem execArrayPassComplete_keeps (core : Nat) (s : State) (h : s0.Keeps s) :
    ∀ t, execArrayPassComplete core s = .next t → s0.Keeps t := by
  intro t ht
  unfold execArrayPassComplete answer at ht
  injection ht with ht
  subst ht
  apply State.settle_keeps _ _ h
  try dsimp only
  repeat' first
    | with_reducible assumption
    | (split <;> (rename_i heq; simp only [Prod.ext_iff] at heq; first | obtain ⟨rfl, rfl, rfl, rfl⟩ := heq | obtain ⟨rfl, rfl, rfl⟩ := heq | obtain ⟨rfl, rfl⟩ := heq | obtain ⟨_, rfl⟩ := heq | obtain ⟨_, _, rfl⟩ := heq))
    | split | with_reducible apply State.passWork_keeps | with_reducible apply State.startPass_keeps
    | with_reducible apply State.setTask_keeps

theorem State.preemptAt_keeps (s : State) (c : Nat) (slot : Nat) (st : Stage) (t : Task) (h : s0.Keeps s) :
    s0.Keeps (State.preemptAt s c slot st t) := by
  unfold State.preemptAt
  try dsimp only
  repeat' first
    | with_reducible assumption
    | (split <;> (rename_i heq; simp only [Prod.ext_iff] at heq; first | obtain ⟨rfl, rfl, rfl, rfl⟩ := heq | obtain ⟨rfl, rfl, rfl⟩ := heq | obtain ⟨rfl, rfl⟩ := heq | obtain ⟨_, rfl⟩ := heq | obtain ⟨_, _, rfl⟩ := heq))
    | split | with_reducible apply State.setTask_keeps | with_reducible apply State.tick1_keeps
    | with_reducible apply State.markPreempted_keeps | with_reducible apply State.suspend_keeps

theorem execHarrowRowEnd_keeps (core : Nat) (s : State) (h : s0.Keeps s) :
    ∀ t, execHarrowRowEnd core s = .next t → s0.Keeps t := by
  intro t ht
  unfold execHarrowRowEnd answer at ht
  injection ht with ht
  subst ht
  apply State.settle_keeps _ _ h
  try dsimp only
  repeat' first
    | with_reducible assumption
    | (split <;> (rename_i heq; simp only [Prod.ext_iff] at heq; first | obtain ⟨rfl, rfl, rfl, rfl⟩ := heq | obtain ⟨rfl, rfl, rfl⟩ := heq | obtain ⟨rfl, rfl⟩ := heq | obtain ⟨_, rfl⟩ := heq | obtain ⟨_, _, rfl⟩ := heq))
    | split | with_reducible apply State.rowWork_keeps | with_reducible apply State.dropEnding_keeps
    | with_reducible apply State.preemptAt_keeps | with_reducible apply State.setTask_keeps

theorem State.wholeWork_keeps (s : State) (c : Nat) (slot : Nat) (n : Nat) (st : Stage) (t : Task) (h : s0.Keeps s) :
    s0.Keeps (State.wholeWork s c slot n st t).2 := by
  unfold State.wholeWork
  try dsimp only
  repeat' first
    | with_reducible assumption
    | (split <;> (rename_i heq; simp only [Prod.ext_iff] at heq; first | obtain ⟨rfl, rfl, rfl, rfl⟩ := heq | obtain ⟨rfl, rfl, rfl⟩ := heq | obtain ⟨rfl, rfl⟩ := heq | obtain ⟨_, rfl⟩ := heq | obtain ⟨_, _, rfl⟩ := heq))
    | split | with_reducible apply State.attWork_keeps | with_reducible apply State.retWork_keeps
    | with_reducible apply State.normWork_keeps | with_reducible apply State.topkWork_keeps
    | with_reducible apply State.smpWork_keeps | with_reducible apply State.bump_keeps | dsimp only

theorem execTaskPassesEnd_keeps (core : Nat) (s : State) (h : s0.Keeps s) :
    ∀ t, execTaskPassesEnd core s = .next t → s0.Keeps t := by
  intro t ht
  unfold execTaskPassesEnd answer at ht
  injection ht with ht
  subst ht
  apply State.settle_keeps _ _ h
  try dsimp only
  repeat' first
    | with_reducible assumption
    | (split <;> (rename_i heq; simp only [Prod.ext_iff] at heq; first | obtain ⟨rfl, rfl, rfl, rfl⟩ := heq | obtain ⟨rfl, rfl, rfl⟩ := heq | obtain ⟨rfl, rfl⟩ := heq | obtain ⟨_, rfl⟩ := heq | obtain ⟨_, _, rfl⟩ := heq))
    | split | with_reducible apply State.wholeWork_keeps | with_reducible apply State.setCore_keeps
    | with_reducible apply State.dropEnding_keeps | with_reducible apply State.preemptAt_keeps
    | with_reducible apply State.setTask_keeps

theorem execSpillComplete_keeps (core : Nat) (s : State) (h : s0.Keeps s) :
    ∀ t, execSpillComplete core s = .next t → s0.Keeps t := by
  intro t ht
  unfold execSpillComplete answer at ht
  injection ht with ht
  subst ht
  apply State.settle_keeps _ _ h
  try dsimp only
  repeat' first
    | with_reducible assumption
    | (split <;> (rename_i heq; simp only [Prod.ext_iff] at heq; first | obtain ⟨rfl, rfl, rfl, rfl⟩ := heq | obtain ⟨rfl, rfl, rfl⟩ := heq | obtain ⟨rfl, rfl⟩ := heq | obtain ⟨_, rfl⟩ := heq | obtain ⟨_, _, rfl⟩ := heq))
    | split | with_reducible apply State.makeSpace_keeps | with_reducible apply State.setTask_keeps
    | with_reducible apply State.decideKeep_keeps | with_reducible apply State.markFirst_keeps

theorem State.abandon_keeps (s : State) (c : Nat) (slot : Nat) (n : Nat) (status : Nat) (h : s0.Keeps s) :
    s0.Keeps (State.abandon s c slot n status) := by
  unfold State.abandon
  try dsimp only
  repeat' first
    | with_reducible assumption
    | (split <;> (rename_i heq; simp only [Prod.ext_iff] at heq; first | obtain ⟨rfl, rfl, rfl, rfl⟩ := heq | obtain ⟨rfl, rfl, rfl⟩ := heq | obtain ⟨rfl, rfl⟩ := heq | obtain ⟨_, rfl⟩ := heq | obtain ⟨_, _, rfl⟩ := heq))
    | split | with_reducible apply State.setCore_keeps | with_reducible apply State.setStage_keeps
    | with_reducible apply State.tileDone_keeps | with_reducible apply State.meet_keeps

theorem execRestoreComplete_keeps (core : Nat) (headerOk : Bool) (s : State) (h : s0.Keeps s) :
    ∀ t, execRestoreComplete core headerOk s = .next t → s0.Keeps t := by
  intro t ht
  unfold execRestoreComplete answer at ht
  injection ht with ht
  subst ht
  apply State.settle_keeps _ _ h
  try dsimp only
  repeat' first
    | with_reducible assumption
    | (split <;> (rename_i heq; simp only [Prod.ext_iff] at heq; first | obtain ⟨rfl, rfl, rfl, rfl⟩ := heq | obtain ⟨rfl, rfl, rfl⟩ := heq | obtain ⟨rfl, rfl⟩ := heq | obtain ⟨_, rfl⟩ := heq | obtain ⟨_, _, rfl⟩ := heq))
    | split | with_reducible apply State.frameRead_keeps | with_reducible apply State.restoreTask_keeps
    | with_reducible apply State.firstPass_keeps | with_reducible apply State.abandon_keeps

theorem execArrayClockStop_keeps (core : Nat) (array : Nat) (s : State) (h : s0.Keeps s) :
    ∀ t, execArrayClockStop core array s = .next t → s0.Keeps t := by
  intro t ht
  unfold execArrayClockStop answer at ht
  injection ht with ht
  subst ht
  apply State.settle_keeps _ _ h
  try dsimp only
  repeat' first
    | with_reducible assumption | split | with_reducible apply State.setCore_keeps

theorem execLaneContextTakeover_keeps (core : Nat) (s : State) (h : s0.Keeps s) :
    ∀ t, execLaneContextTakeover core s = .next t → s0.Keeps t := by
  intro t ht
  unfold execLaneContextTakeover answer at ht
  injection ht with ht
  subst ht
  apply State.settle_keeps _ _ h
  try dsimp only
  repeat' first
    | with_reducible assumption
    | (split <;> (rename_i heq; simp only [Prod.ext_iff] at heq; first | obtain ⟨rfl, rfl, rfl, rfl⟩ := heq | obtain ⟨rfl, rfl, rfl⟩ := heq | obtain ⟨rfl, rfl⟩ := heq | obtain ⟨_, rfl⟩ := heq | obtain ⟨_, _, rfl⟩ := heq))
    | split | with_reducible apply State.setCore_keeps

/-! ### Drain -/

theorem State.putSet_keeps (s : State) (st : Stage) (x : RetSet) (h : s0.Keeps s) :
    s0.Keeps (State.putSet s st x) :=
  h

theorem State.homeTile_keeps (s : State) (c : Nat) (n : Nat) (st : Stage) (t : Task) (h : s0.Keeps s) :
    s0.Keeps (State.homeTile s c n st t) := by
  unfold State.homeTile
  try dsimp only
  repeat' first
    | with_reducible assumption
    | (split <;> (rename_i heq; simp only [Prod.ext_iff] at heq; first | obtain ⟨rfl, rfl, rfl, rfl⟩ := heq | obtain ⟨rfl, rfl, rfl⟩ := heq | obtain ⟨rfl, rfl⟩ := heq | obtain ⟨_, rfl⟩ := heq | obtain ⟨_, _, rfl⟩ := heq))
    | split | with_reducible apply State.tick1_keeps | with_reducible apply State.putSet_keeps

theorem State.keepRow_keeps (s : State) (n : Nat) (st : Stage) (t : Task) (row : List Byte) (h : s0.Keeps s) :
    s0.Keeps (State.keepRow s n st t row).2 := by
  unfold State.keepRow
  try dsimp only
  repeat' first
    | with_reducible assumption
    | (split <;> (rename_i heq; simp only [Prod.ext_iff] at heq; first | obtain ⟨rfl, rfl, rfl, rfl⟩ := heq | obtain ⟨rfl, rfl, rfl⟩ := heq | obtain ⟨rfl, rfl⟩ := heq | obtain ⟨_, rfl⟩ := heq | obtain ⟨_, _, rfl⟩ := heq))
    | split | with_reducible apply State.putSet_keeps

theorem State.srWords_keeps (s : State) (c : Nat) (slot : Nat) (st : Stage) (k : Nat) (h : s0.Keeps s) :
    s0.Keeps (State.srWords s c slot st k).2 := by
  unfold State.srWords
  try dsimp only
  repeat' first
    | with_reducible assumption | split | with_reducible apply State.drawWords_keeps

theorem State.drainMat_keeps (s : State) (c : Nat) (slot : Nat) (n : Nat) (st : Stage) (t : Task) (i : Nat) (h : s0.Keeps s) :
    s0.Keeps (State.drainMat s c slot n st t i) := by
  unfold State.drainMat
  try dsimp only
  repeat' first
    | with_reducible assumption
    | (split <;> (rename_i heq; simp only [Prod.ext_iff] at heq; first | obtain ⟨rfl, rfl, rfl, rfl⟩ := heq | obtain ⟨rfl, rfl, rfl⟩ := heq | obtain ⟨rfl, rfl⟩ := heq | obtain ⟨_, rfl⟩ := heq | obtain ⟨_, _, rfl⟩ := heq))
    | split | with_reducible apply State.srWords_keeps | with_reducible apply State.deliverRow_keeps
    | with_reducible apply State.writeRecord_keeps | with_reducible apply State.keepRow_keeps
    | with_reducible apply State.writeElems_keeps

theorem State.drainRed_keeps (s : State) (c : Nat) (slot : Nat) (n : Nat) (st : Stage) (t : Task) (i : Nat) (h : s0.Keeps s) :
    s0.Keeps (State.drainRed s c slot n st t i) := by
  unfold State.drainRed
  try dsimp only
  repeat' first
    | with_reducible assumption
    | (split <;> (rename_i heq; simp only [Prod.ext_iff] at heq; first | obtain ⟨rfl, rfl, rfl, rfl⟩ := heq | obtain ⟨rfl, rfl, rfl⟩ := heq | obtain ⟨rfl, rfl⟩ := heq | obtain ⟨_, rfl⟩ := heq | obtain ⟨_, _, rfl⟩ := heq))
    | split | with_reducible apply State.raise_keeps | with_reducible apply State.srWords_keeps
    | with_reducible apply State.deliverRow_keeps | with_reducible apply State.writeElems_keeps
    | with_reducible apply foldl_keeps | (intro; try dsimp only)

theorem State.drainNorm_keeps (s : State) (c : Nat) (slot : Nat) (n : Nat) (st : Stage) (t : Task) (i : Nat) (h : s0.Keeps s) :
    s0.Keeps (State.drainNorm s c slot n st t i) := by
  unfold State.drainNorm
  try dsimp only
  repeat' first
    | with_reducible assumption
    | (split <;> (rename_i heq; simp only [Prod.ext_iff] at heq; first | obtain ⟨rfl, rfl, rfl, rfl⟩ := heq | obtain ⟨rfl, rfl, rfl⟩ := heq | obtain ⟨rfl, rfl⟩ := heq | obtain ⟨_, rfl⟩ := heq | obtain ⟨_, _, rfl⟩ := heq))
    | split | with_reducible apply State.srWords_keeps | with_reducible apply State.normRowEnd_keeps
    | with_reducible apply State.deliverRow_keeps | with_reducible apply State.writeElems_keeps

theorem State.drainTop_keeps (s : State) (c : Nat) (slot : Nat) (n : Nat) (st : Stage) (t : Task) (i : Nat) (h : s0.Keeps s) :
    s0.Keeps (State.drainTop s c slot n st t i) := by
  unfold State.drainTop
  try dsimp only
  repeat' first
    | with_reducible assumption
    | (split <;> (rename_i heq; simp only [Prod.ext_iff] at heq; first | obtain ⟨rfl, rfl, rfl, rfl⟩ := heq | obtain ⟨rfl, rfl, rfl⟩ := heq | obtain ⟨rfl, rfl⟩ := heq | obtain ⟨_, rfl⟩ := heq | obtain ⟨_, _, rfl⟩ := heq))
    | split | with_reducible apply State.srWords_keeps | with_reducible apply State.deliverRow_keeps
    | with_reducible apply State.writeElems_keeps

theorem State.drainSmp_keeps (s : State) (c : Nat) (n : Nat) (st : Stage) (t : Task) (i : Nat) (h : s0.Keeps s) :
    s0.Keeps (State.drainSmp s c n st t i) := by
  unfold State.drainSmp
  try dsimp only
  repeat' first
    | with_reducible assumption
    | (split <;> (rename_i heq; simp only [Prod.ext_iff] at heq; first | obtain ⟨rfl, rfl, rfl, rfl⟩ := heq | obtain ⟨rfl, rfl, rfl⟩ := heq | obtain ⟨rfl, rfl⟩ := heq | obtain ⟨_, rfl⟩ := heq | obtain ⟨_, _, rfl⟩ := heq))
    | split | with_reducible apply State.deliverRow_keeps | with_reducible apply State.writeElems_keeps

theorem State.drainAtt_keeps (s : State) (c : Nat) (slot : Nat) (n : Nat) (st : Stage) (t : Task) (i : Nat) (h : s0.Keeps s) :
    s0.Keeps (State.drainAtt s c slot n st t i) := by
  unfold State.drainAtt
  try dsimp only
  repeat' first
    | with_reducible assumption
    | (split <;> (rename_i heq; simp only [Prod.ext_iff] at heq; first | obtain ⟨rfl, rfl, rfl, rfl⟩ := heq | obtain ⟨rfl, rfl, rfl⟩ := heq | obtain ⟨rfl, rfl⟩ := heq | obtain ⟨_, rfl⟩ := heq | obtain ⟨_, _, rfl⟩ := heq))
    | split | with_reducible apply State.attRow_keeps | with_reducible apply State.srWords_keeps
    | with_reducible apply State.deliverRow_keeps | with_reducible apply State.writeElems_keeps

theorem State.drainWork_keeps (s : State) (c : Nat) (slot : Nat) (n : Nat) (st : Stage) (t : Task) (h : s0.Keeps s) :
    s0.Keeps (State.drainWork s c slot n st t) := by
  unfold State.drainWork
  try dsimp only
  repeat' first
    | with_reducible assumption
    | (split <;> (rename_i heq; simp only [Prod.ext_iff] at heq; first | obtain ⟨rfl, rfl, rfl, rfl⟩ := heq | obtain ⟨rfl, rfl, rfl⟩ := heq | obtain ⟨rfl, rfl⟩ := heq | obtain ⟨_, rfl⟩ := heq | obtain ⟨_, _, rfl⟩ := heq))
    | split | with_reducible apply State.drainMat_keeps | with_reducible apply State.drainAtt_keeps
    | with_reducible apply State.drainNorm_keeps | with_reducible apply State.bump_keeps
    | with_reducible apply State.drainTop_keeps | with_reducible apply State.drainRed_keeps
    | with_reducible apply State.drainSmp_keeps | with_reducible apply State.writeSheaf_keeps
    | with_reducible apply foldl_keeps | (intro; try dsimp only)

theorem execTaskDrainStart_keeps (core : Nat) (s : State) (h : s0.Keeps s) :
    ∀ t, execTaskDrainStart core s = .next t → s0.Keeps t := by
  intro t ht
  unfold execTaskDrainStart answer at ht
  injection ht with ht
  subst ht
  apply State.settle_keeps _ _ h
  try dsimp only
  repeat' first
    | with_reducible assumption
    | (split <;> (rename_i heq; simp only [Prod.ext_iff] at heq; first | obtain ⟨rfl, rfl, rfl, rfl⟩ := heq | obtain ⟨rfl, rfl, rfl⟩ := heq | obtain ⟨rfl, rfl⟩ := heq | obtain ⟨_, rfl⟩ := heq | obtain ⟨_, _, rfl⟩ := heq))
    | split | with_reducible apply State.setCore_keeps | with_reducible apply State.setTask_keeps | with_reducible apply State.seed_keeps
    | with_reducible apply State.homeTile_keeps

theorem execTaskDrainEnd_keeps (core : Nat) (s : State) (h : s0.Keeps s) :
    ∀ t, execTaskDrainEnd core s = .next t → s0.Keeps t := by
  intro t ht
  unfold execTaskDrainEnd answer at ht
  injection ht with ht
  subst ht
  apply State.settle_keeps _ _ h
  try dsimp only
  repeat' first
    | with_reducible assumption
    | (split <;> (rename_i heq; simp only [Prod.ext_iff] at heq; first | obtain ⟨rfl, rfl, rfl, rfl⟩ := heq | obtain ⟨rfl, rfl, rfl⟩ := heq | obtain ⟨rfl, rfl⟩ := heq | obtain ⟨_, rfl⟩ := heq | obtain ⟨_, _, rfl⟩ := heq))
    | split | with_reducible apply State.tileDone_keeps | with_reducible apply State.tick1_keeps
    | with_reducible apply State.drainWork_keeps

end Sys2Proof.Machine
end

