-- ==== Sys2Proof/Laws/KeepLinks.lean ====
section
/-!
SUPPORT. What the operations and commands of the light links, their windows, COPY and COLLECTIVE keep: the memory tiers in order, the fuses only burnt
further, the record of messages only longer, the queue of commands as it was. One lemma for each definition of Machine/.
-/
namespace Sys2Proof.Machine

variable {s0 : State}

/-! ### Links -/

theorem State.setPort_keeps (s : State) (p : Nat) (x : Port) (h : s0.Keeps s) :
    s0.Keeps (State.setPort s p x) :=
  h

theorem State.setPeer_keeps (s : State) (d : Nat) (x : Peer) (h : s0.Keeps s) :
    s0.Keeps (State.setPeer s d x) :=
  h

theorem State.keepCtrl_keeps (s : State) (d : Option Nat) (h : s0.Keeps s) :
    s0.Keeps (State.keepCtrl s d) := by
  unfold State.keepCtrl
  try dsimp only
  repeat' first
    | with_reducible assumption
    | split
    | with_reducible apply State.setPeer_keeps
    | (intro; try dsimp only)

theorem State.takePlace_keeps (s : State) (p : Nat) (h : s0.Keeps s) :
    s0.Keeps (State.takePlace s p).2.2 := by
  unfold State.takePlace
  try dsimp only
  repeat' first
    | with_reducible assumption | with_reducible apply State.setPort_keeps

theorem State.emitCtrl_keeps (s : State) (d : Nat) (nak : Bool) (x : Nat × Nat × Nat × List Byte) (h : s0.Keeps s) :
    s0.Keeps (State.emitCtrl s d nak x) := by
  unfold State.emitCtrl
  try dsimp only
  repeat' first
    | with_reducible assumption
    | (split <;> (rename_i heq; simp only [Prod.ext_iff] at heq; first | obtain ⟨rfl, rfl, rfl, rfl⟩ := heq | obtain ⟨rfl, rfl, rfl⟩ := heq | obtain ⟨rfl, rfl⟩ := heq | obtain ⟨_, rfl⟩ := heq | obtain ⟨_, _, rfl⟩ := heq))
    | split | with_reducible apply State.tick1_keeps | with_reducible apply State.emit_keeps | with_reducible apply State.takePlace_keeps

theorem State.transmit_keeps (s : State) (d : Nat) (msg : List Byte) (nak : Bool) (on : Option Nat) (h : s0.Keeps s) :
    s0.Keeps (State.transmit s d msg nak on) := by
  unfold State.transmit
  try dsimp only
  repeat' first
    | with_reducible assumption
    | split
    | with_reducible apply State.emitCtrl_keeps
    | with_reducible apply State.setPeer_keeps
    | with_reducible apply State.setPort_keeps
    | (intro; try dsimp only)

theorem State.queueMsg_keeps (s : State) (d : Nat) (msg : List Byte) (h : s0.Keeps s) :
    s0.Keeps (State.queueMsg s d msg) := by
  unfold State.queueMsg
  try dsimp only
  repeat' first
    | with_reducible assumption | split | with_reducible apply State.transmit_keeps | with_reducible apply State.setPeer_keeps

theorem State.sendNak_keeps (s : State) (d : Nat) (h : s0.Keeps s) :
    s0.Keeps (State.sendNak s d) := by
  unfold State.sendNak
  try dsimp only
  repeat' first
    | with_reducible assumption | split | with_reducible apply State.setPeer_keeps | with_reducible apply State.transmit_keeps

theorem State.sendQueued_keeps (s : State) (d n : Nat) (h : s0.Keeps s) : s0.Keeps (s.sendQueued d n) := by
  induction n generalizing s with
  | zero => exact h
  | succ n ih =>
    unfold State.sendQueued
    dsimp only
    split
    · exact h
    · split
      · exact ih _ (State.transmit_keeps _ _ _ _ _ h)
      · exact h

theorem State.strand_keeps (s : State) (dst : Nat) (m : List Byte) (h : s0.Keeps s) :
    s0.Keeps (State.strand s dst m) := by
  unfold State.strand
  try dsimp only
  repeat' first
    | with_reducible assumption | split | with_reducible apply State.tick1_keeps

theorem State.sendMsg_keeps (s : State) (dst : Nat) (kind : Nat) (tag : Nat) (body : List Byte) (h : s0.Keeps s) :
    s0.Keeps (State.sendMsg s dst kind tag body) := by
  unfold State.sendMsg
  try dsimp only
  repeat' first
    | with_reducible assumption
    | (split <;> (rename_i heq; simp only [Prod.ext_iff] at heq; first | obtain ⟨rfl, rfl, rfl, rfl⟩ := heq | obtain ⟨rfl, rfl, rfl⟩ := heq | obtain ⟨rfl, rfl⟩ := heq | obtain ⟨_, rfl⟩ := heq | obtain ⟨_, _, rfl⟩ := heq))
    | split | with_reducible apply State.queueMsg_keeps | with_reducible apply State.strand_keeps

theorem State.onMsg_keeps (s : State) (src : Nat) (kind : Nat) (body : List Byte) (act : Nat → List Byte → State) (h : s0.Keeps s) (hact : ∀ t b, s0.Keeps (act t b)) :
    s0.Keeps (State.onMsg s src kind body act) := by
  unfold State.onMsg
  try dsimp only
  repeat' first
    | with_reducible assumption | split | with_reducible apply hact | with_reducible apply State.tick1_keeps
    | (intro; try dsimp only)

theorem State.flitOut_keeps (s : State) (p : Nat) (e : Nat × List Byte) (h : s0.Keeps s) :
    s0.Keeps (State.flitOut s p e) := by
  unfold State.flitOut
  try dsimp only
  repeat' first
    | with_reducible assumption
    | (split <;> (rename_i heq; simp only [Prod.ext_iff] at heq; first | obtain ⟨rfl, rfl, rfl, rfl⟩ := heq | obtain ⟨rfl, rfl, rfl⟩ := heq | obtain ⟨rfl, rfl⟩ := heq | obtain ⟨_, rfl⟩ := heq | obtain ⟨_, _, rfl⟩ := heq))
    | split | with_reducible apply State.tick1_keeps | with_reducible apply State.emit_keeps | with_reducible apply State.setPort_keeps
    | with_reducible apply State.takePlace_keeps

theorem State.drainHeld_keeps (s : State) (k : Nat) (h : s0.Keeps s) : s0.Keeps (s.drainHeld k) := by
  induction k generalizing s with
  | zero => exact h
  | succ k ih =>
    unfold State.drainHeld
    split
    · exact h
    · exact ih _ (State.flitOut_keeps s _ _ h)

theorem State.flushHeld_keeps (s : State) (h : s0.Keeps s) :
    s0.Keeps (State.flushHeld s) := by
  unfold State.flushHeld
  try dsimp only
  repeat' first
    | with_reducible assumption
    | (split <;> (rename_i heq; simp only [Prod.ext_iff] at heq; first | obtain ⟨rfl, rfl, rfl, rfl⟩ := heq | obtain ⟨rfl, rfl, rfl⟩ := heq | obtain ⟨rfl, rfl⟩ := heq | obtain ⟨_, rfl⟩ := heq | obtain ⟨_, _, rfl⟩ := heq))
    | split | with_reducible apply State.queueMsg_keeps | with_reducible apply State.drainHeld_keeps | with_reducible apply foldl_keeps
    | with_reducible apply foldl_keeps2 | with_reducible apply foldl_keeps3 | (intro; try dsimp only)

theorem State.sendFlit_keeps (s : State) (dst : Nat) (bytes : List Byte) (h : s0.Keeps s) :
    s0.Keeps (State.sendFlit s dst bytes) := by
  unfold State.sendFlit
  try dsimp only
  repeat' first
    | with_reducible assumption | with_reducible apply State.drainHeld_keeps

theorem State.routeDrop_keeps (s : State) (src : Nat) (dst : Nat) (h : s0.Keeps s) :
    s0.Keeps (State.routeDrop s src dst) := by
  unfold State.routeDrop
  try dsimp only
  repeat' first
    | with_reducible assumption | split | with_reducible apply State.tick1_keeps | with_reducible apply State.sendMsg_keeps

theorem State.forwardFlit_keeps (s : State) (bytes : List Byte) (h : s0.Keeps s) :
    s0.Keeps (State.forwardFlit s bytes) := by
  unfold State.forwardFlit
  try dsimp only
  repeat' first
    | with_reducible assumption | split | with_reducible apply State.routeDrop_keeps
    | with_reducible apply State.sendFlit_keeps | with_reducible apply State.tick1_keeps

theorem State.resendFrom_keeps (s : State) (d : Nat) (seq : Nat) (h : s0.Keeps s) :
    s0.Keeps (State.resendFrom s d seq) := by
  unfold State.resendFrom
  try dsimp only
  repeat' first
    | with_reducible assumption
    | (split <;> (rename_i heq; simp only [Prod.ext_iff] at heq; first | obtain ⟨rfl, rfl, rfl, rfl⟩ := heq | obtain ⟨rfl, rfl, rfl⟩ := heq | obtain ⟨rfl, rfl⟩ := heq | obtain ⟨_, rfl⟩ := heq | obtain ⟨_, _, rfl⟩ := heq))
    | split | with_reducible apply State.tick1_keeps | with_reducible apply State.emitCtrl_keeps
    | with_reducible apply foldl_keeps | (intro; try dsimp only)

theorem State.portRetrain_keeps (s : State) (p : Nat) (cause : Nat) (h : s0.Keeps s) :
    s0.Keeps (State.portRetrain s p cause) := by
  unfold State.portRetrain
  try dsimp only
  repeat' first
    | with_reducible assumption
    | (split <;> (rename_i heq; simp only [Prod.ext_iff] at heq; first | obtain ⟨rfl, rfl, rfl, rfl⟩ := heq | obtain ⟨rfl, rfl, rfl⟩ := heq | obtain ⟨rfl, rfl⟩ := heq | obtain ⟨_, rfl⟩ := heq | obtain ⟨_, _, rfl⟩ := heq))
    | split | with_reducible apply State.log_keeps | with_reducible apply State.tick1_keeps
    | with_reducible apply State.setPort_keeps | with_reducible apply State.resendFrom_keeps
    | with_reducible apply State.keepCtrl_keeps

theorem execLinkFrameRx_keeps (port : Nat) (corrected : Nat) (uncorrectable : List Nat) (types : List Nat) (s : State) (h : s0.Keeps s) :
    ∀ t, execLinkFrameRx port corrected uncorrectable types s = .next t → s0.Keeps t := by
  intro t ht
  unfold execLinkFrameRx answer at ht
  injection ht with ht
  subst ht
  apply State.settle_keeps _ _ h
  try dsimp only
  repeat' first
    | with_reducible assumption | split | with_reducible apply State.bump_keeps | with_reducible apply State.setPort_keeps
    | with_reducible apply State.portRetrain_keeps | (intro; try dsimp only)

theorem State.arrival_keeps (s : State) (port : Nat) (type : Nat) (h : s0.Keeps s) :
    s0.Keeps (State.arrival s port type).2 := by
  unfold State.arrival
  try dsimp only
  repeat' first
    | with_reducible assumption
    | (split <;> (rename_i heq; simp only [Prod.ext_iff] at heq; first | obtain ⟨rfl, rfl, rfl, rfl⟩ := heq | obtain ⟨rfl, rfl, rfl⟩ := heq | obtain ⟨rfl, rfl⟩ := heq | obtain ⟨_, rfl⟩ := heq | obtain ⟨_, _, rfl⟩ := heq))
    | split | with_reducible apply State.setPort_keeps | (intro; try dsimp only)

theorem State.routeMsg_keeps (s : State) (m : List Byte) (h : s0.Keeps s) :
    s0.Keeps (State.routeMsg s m) := by
  unfold State.routeMsg
  try dsimp only
  repeat' first
    | with_reducible assumption
    | (split <;> (rename_i heq; simp only [Prod.ext_iff] at heq; first | obtain ⟨rfl, rfl, rfl, rfl⟩ := heq | obtain ⟨rfl, rfl, rfl⟩ := heq | obtain ⟨rfl, rfl⟩ := heq | obtain ⟨_, rfl⟩ := heq | obtain ⟨_, _, rfl⟩ := heq))
    | split | with_reducible apply State.tick1_keeps | with_reducible apply State.routeDrop_keeps
    | with_reducible apply State.queueMsg_keeps

theorem State.takeAck_keeps (s : State) (port : Nat) (d : Nat) (bytes : List Byte) (h : s0.Keeps s) :
    s0.Keeps (State.takeAck s port d bytes) := by
  unfold State.takeAck
  try dsimp only
  repeat' first
    | with_reducible assumption | split | with_reducible apply State.setPort_keeps | with_reducible apply State.setPeer_keeps
    | with_reducible apply State.sendNak_keeps | with_reducible apply State.sendQueued_keeps | with_reducible apply State.flushHeld_keeps
    | with_reducible apply State.resendFrom_keeps | (intro; try dsimp only)

theorem State.makePresent_keeps (s : State) (d : Nat) (h : s0.Keeps s) :
    s0.Keeps (State.makePresent s d) := by
  unfold State.makePresent
  try dsimp only
  repeat' first
    | with_reducible assumption | split | with_reducible apply State.log_keeps | with_reducible apply State.setPeer_keeps

theorem State.tagFail_keeps (s : State) (port : Nat) (h : s0.Keeps s) :
    s0.Keeps (State.tagFail s port) := by
  unfold State.tagFail
  try dsimp only
  repeat' first
    | with_reducible assumption | split | with_reducible apply State.tick1_keeps | with_reducible apply State.setPort_keeps
    | with_reducible apply State.portRetrain_keeps | (intro; try dsimp only)

theorem execControlFlitRx_keeps (port : Nat) (bytes : List Byte) (s : State) (h : s0.Keeps s) :
    ∀ t, execControlFlitRx port bytes s = .next t → s0.Keeps t := by
  intro t ht
  unfold execControlFlitRx answer at ht
  injection ht with ht
  subst ht
  apply State.settle_keeps _ _ h
  try dsimp only
  repeat' first
    | with_reducible assumption
    | (split <;> (rename_i heq; simp only [Prod.ext_iff] at heq; first | obtain ⟨rfl, rfl, rfl, rfl⟩ := heq | obtain ⟨rfl, rfl, rfl⟩ := heq | obtain ⟨rfl, rfl⟩ := heq | obtain ⟨_, rfl⟩ := heq | obtain ⟨_, _, rfl⟩ := heq))
    | split | with_reducible apply State.tick1_keeps | with_reducible apply State.setPeer_keeps | with_reducible apply State.sendNak_keeps
    | with_reducible apply State.arrival_keeps | with_reducible apply State.routeMsg_keeps | with_reducible apply State.takeAck_keeps
    | with_reducible apply State.makePresent_keeps | with_reducible apply State.tagFail_keeps | with_reducible apply foldl_keeps
    | with_reducible apply foldl_keeps2 | with_reducible apply foldl_keeps3 | (intro; try dsimp only)

theorem execControlReplayTimeout_keeps (peer : Nat) (s : State) (h : s0.Keeps s) :
    ∀ t, execControlReplayTimeout peer s = .next t → s0.Keeps t := by
  intro t ht
  unfold execControlReplayTimeout answer at ht
  injection ht with ht
  subst ht
  apply State.settle_keeps _ _ h
  try dsimp only
  repeat' first
    | with_reducible assumption | with_reducible apply State.resendFrom_keeps
    | with_reducible apply foldl_keeps
    | (intro; try dsimp only)

theorem execCreditReturn_keeps (port : Nat) (s : State) (h : s0.Keeps s) :
    ∀ t, execCreditReturn port s = .next t → s0.Keeps t := by
  intro t ht
  unfold execCreditReturn answer at ht
  injection ht with ht
  subst ht
  apply State.settle_keeps _ _ h
  try dsimp only
  repeat' first
    | with_reducible assumption
    | (split <;> (rename_i heq; simp only [Prod.ext_iff] at heq; first | obtain ⟨rfl, rfl, rfl, rfl⟩ := heq | obtain ⟨rfl, rfl, rfl⟩ := heq | obtain ⟨rfl, rfl⟩ := heq | obtain ⟨_, rfl⟩ := heq | obtain ⟨_, _, rfl⟩ := heq))
    | split | with_reducible apply State.transmit_keeps

theorem State.portBegin_keeps (s : State) (p : Nat) (alt : Nat) (attempt : Nat) (h : s0.Keeps s) :
    s0.Keeps (State.portBegin s p alt attempt) := by
  unfold State.portBegin
  try dsimp only
  repeat' first
    | with_reducible assumption | split | with_reducible apply State.setPort_keeps

theorem State.portTrain_keeps (s : State) (p : Nat) (h : s0.Keeps s) :
    s0.Keeps (State.portTrain s p) := by
  unfold State.portTrain
  try dsimp only
  repeat' first
    | with_reducible assumption | with_reducible apply State.portBegin_keeps

theorem State.portFail_keeps (s : State) (p : Nat) (h : s0.Keeps s) :
    s0.Keeps (State.portFail s p) := by
  unfold State.portFail
  try dsimp only
  repeat' first
    | with_reducible assumption
    | (split <;> (rename_i heq; simp only [Prod.ext_iff] at heq; first | obtain ⟨rfl, rfl, rfl, rfl⟩ := heq | obtain ⟨rfl, rfl, rfl⟩ := heq | obtain ⟨rfl, rfl⟩ := heq | obtain ⟨_, rfl⟩ := heq | obtain ⟨_, _, rfl⟩ := heq))
    | split | with_reducible apply State.portBegin_keeps | with_reducible apply State.log_keeps
    | with_reducible apply State.setPort_keeps

theorem State.sendKey_keeps (s : State) (p : Nat) (step : Nat) (data : List Byte) (h : s0.Keeps s) :
    s0.Keeps (State.sendKey s p step data) := by
  unfold State.sendKey
  try dsimp only
  repeat' first
    | with_reducible assumption
    | (split <;> (rename_i heq; simp only [Prod.ext_iff] at heq; first | obtain ⟨rfl, rfl, rfl, rfl⟩ := heq | obtain ⟨rfl, rfl, rfl⟩ := heq | obtain ⟨rfl, rfl⟩ := heq | obtain ⟨_, rfl⟩ := heq | obtain ⟨_, _, rfl⟩ := heq))
    | with_reducible apply State.tick1_keeps | with_reducible apply State.emit_keeps | with_reducible apply foldl_keeps
    | with_reducible apply foldl_keeps2 | with_reducible apply foldl_keeps3 | (intro; try dsimp only)

theorem State.enterAuth_keeps (s : State) (p : Nat) (h : s0.Keeps s) :
    s0.Keeps (State.enterAuth s p) := by
  unfold State.enterAuth
  try dsimp only
  repeat' first
    | with_reducible assumption
    | (split <;> (rename_i heq; simp only [Prod.ext_iff] at heq; first | obtain ⟨rfl, rfl, rfl, rfl⟩ := heq | obtain ⟨rfl, rfl, rfl⟩ := heq | obtain ⟨rfl, rfl⟩ := heq | obtain ⟨_, rfl⟩ := heq | obtain ⟨_, _, rfl⟩ := heq))
    | with_reducible apply State.fresh_keeps | with_reducible apply State.setPort_keeps
    | with_reducible apply State.sendKey_keeps

theorem State.portNext_keeps (s : State) (p : Nat) (w : PortSt) (h : s0.Keeps s) :
    s0.Keeps (State.portNext s p w) := by
  unfold State.portNext
  try dsimp only
  repeat' first
    | with_reducible assumption | split | with_reducible apply State.setPort_keeps | with_reducible apply State.enterAuth_keeps

theorem execPortCalibrateEnd_keeps (port : Nat) (passed : Bool) (s : State) (h : s0.Keeps s) :
    ∀ t, execPortCalibrateEnd port passed s = .next t → s0.Keeps t := by
  intro t ht
  unfold execPortCalibrateEnd answer at ht
  injection ht with ht
  subst ht
  apply State.settle_keeps _ _ h
  try dsimp only
  repeat' first
    | with_reducible assumption | split | with_reducible apply State.portNext_keeps | with_reducible apply State.portFail_keeps

theorem execPortAlignEnd_keeps (port : Nat) (passed : Bool) (s : State) (h : s0.Keeps s) :
    ∀ t, execPortAlignEnd port passed s = .next t → s0.Keeps t := by
  intro t ht
  unfold execPortAlignEnd answer at ht
  injection ht with ht
  subst ht
  apply State.settle_keeps _ _ h
  try dsimp only
  repeat' first
    | with_reducible assumption | split | with_reducible apply State.portNext_keeps | with_reducible apply State.portFail_keeps

theorem execPortVerifyEnd_keeps (port : Nat) (passed : Bool) (s : State) (h : s0.Keeps s) :
    ∀ t, execPortVerifyEnd port passed s = .next t → s0.Keeps t := by
  intro t ht
  unfold execPortVerifyEnd answer at ht
  injection ht with ht
  subst ht
  apply State.settle_keeps _ _ h
  try dsimp only
  repeat' first
    | with_reducible assumption | split | with_reducible apply State.portFail_keeps | with_reducible apply State.portNext_keeps
    | with_reducible apply State.setPort_keeps

theorem State.portActive_keeps (s : State) (p : Nat) (h : s0.Keeps s) :
    s0.Keeps (State.portActive s p) := by
  unfold State.portActive
  try dsimp only
  repeat' first
    | with_reducible assumption
    | (split <;> (rename_i heq; simp only [Prod.ext_iff] at heq; first | obtain ⟨rfl, rfl, rfl, rfl⟩ := heq | obtain ⟨rfl, rfl, rfl⟩ := heq | obtain ⟨rfl, rfl⟩ := heq | obtain ⟨_, rfl⟩ := heq | obtain ⟨_, _, rfl⟩ := heq))
    | split | with_reducible apply State.setPort_keeps | with_reducible apply State.flushHeld_keeps
    | with_reducible apply State.resendFrom_keeps
    | with_reducible apply State.keepCtrl_keeps

theorem execPortAuthEnd_keeps (port : Nat) (passed : Bool) (s : State) (h : s0.Keeps s) :
    ∀ t, execPortAuthEnd port passed s = .next t → s0.Keeps t := by
  intro t ht
  unfold execPortAuthEnd answer at ht
  injection ht with ht
  subst ht
  apply State.settle_keeps _ _ h
  try dsimp only
  repeat' first
    | with_reducible assumption | split | with_reducible apply State.portActive_keeps
    | with_reducible apply State.portFail_keeps | with_reducible apply State.tick1_keeps

theorem execPortTrainTimeout_keeps (port : Nat) (s : State) (h : s0.Keeps s) :
    ∀ t, execPortTrainTimeout port s = .next t → s0.Keeps t := by
  intro t ht
  unfold execPortTrainTimeout answer at ht
  injection ht with ht
  subst ht
  apply State.settle_keeps _ _ h
  try dsimp only
  repeat' first
    | with_reducible assumption | split | with_reducible apply State.portFail_keeps | with_reducible apply State.tick1_keeps

theorem execPortRetryTimer_keeps (port : Nat) (s : State) (h : s0.Keeps s) :
    ∀ t, execPortRetryTimer port s = .next t → s0.Keeps t := by
  intro t ht
  unfold execPortRetryTimer answer at ht
  injection ht with ht
  subst ht
  apply State.settle_keeps _ _ h
  try dsimp only
  repeat' first
    | with_reducible assumption | split | with_reducible apply State.portTrain_keeps

theorem execPortRetrainEntry_keeps (port : Nat) (cause : RetrainCause) (s : State) (h : s0.Keeps s) :
    ∀ t, execPortRetrainEntry port cause s = .next t → s0.Keeps t := by
  intro t ht
  unfold execPortRetrainEntry answer at ht
  injection ht with ht
  subst ht
  apply State.settle_keeps _ _ h
  try dsimp only
  repeat' first
    | with_reducible assumption | with_reducible apply State.portRetrain_keeps

theorem execMicroringRecal_keeps (port : Nat) (s : State) (h : s0.Keeps s) :
    ∀ t, execMicroringRecal port s = .next t → s0.Keeps t := by
  intro t ht
  unfold execMicroringRecal answer at ht
  injection ht with ht
  subst ht
  apply State.settle_keeps _ _ h
  try dsimp only
  repeat' first
    | with_reducible assumption | split | with_reducible apply State.setPort_keeps

theorem execMicroringRecalEnd_keeps (port : Nat) (s : State) (h : s0.Keeps s) :
    ∀ t, execMicroringRecalEnd port s = .next t → s0.Keeps t := by
  intro t ht
  unfold execMicroringRecalEnd answer at ht
  injection ht with ht
  subst ht
  apply State.settle_keeps _ _ h
  try dsimp only
  repeat' first
    | with_reducible assumption | with_reducible apply State.flushHeld_keeps | with_reducible apply State.setPort_keeps

theorem State.sendProof_keeps (s : State) (p : Nat) (h : s0.Keeps s) :
    s0.Keeps (State.sendProof s p) := by
  unfold State.sendProof
  try dsimp only
  repeat' first
    | with_reducible assumption
    | (split <;> (rename_i heq; simp only [Prod.ext_iff] at heq; first | obtain ⟨rfl, rfl, rfl, rfl⟩ := heq | obtain ⟨rfl, rfl, rfl⟩ := heq | obtain ⟨rfl, rfl⟩ := heq | obtain ⟨_, rfl⟩ := heq | obtain ⟨_, _, rfl⟩ := heq))
    | split | with_reducible apply State.setPort_keeps | with_reducible apply State.sendKey_keeps

theorem execKey_keeps (port : Nat) (body : List Byte) (s : State) (h : s0.Keeps s) :
    ∀ t, execKey port body s = .next t → s0.Keeps t := by
  intro t ht
  unfold execKey answer at ht
  injection ht with ht
  subst ht
  apply State.settle_keeps _ _ h
  try dsimp only
  repeat' first
    | with_reducible assumption | split | with_reducible apply State.tick1_keeps | with_reducible apply State.sendProof_keeps
    | with_reducible apply State.setPort_keeps

theorem State.setLaser_keeps (s : State) (k : Nat) (x : Laser) (h : s0.Keeps s) :
    s0.Keeps (State.setLaser s k x) :=
  h

theorem State.laserOutputs_keeps (s : State) (k : Nat) (h : s0.Keeps s) :
    s0.Keeps (State.laserOutputs s k) := by
  unfold State.laserOutputs
  try dsimp only
  repeat' first
    | with_reducible assumption | with_reducible apply State.setLaser_keeps

theorem execLaserModuleInsert_keeps (module : Nat) (s : State) (h : s0.Keeps s) :
    ∀ t, execLaserModuleInsert module s = .next t → s0.Keeps t := by
  intro t ht
  unfold execLaserModuleInsert answer at ht
  injection ht with ht
  subst ht
  apply State.settle_keeps _ _ h
  try dsimp only
  repeat' first
    | with_reducible assumption | with_reducible apply State.log_keeps | with_reducible apply State.setLaser_keeps

theorem execLaserModuleRemove_keeps (module : Nat) (s : State) (h : s0.Keeps s) :
    ∀ t, execLaserModuleRemove module s = .next t → s0.Keeps t := by
  intro t ht
  unfold execLaserModuleRemove answer at ht
  injection ht with ht
  subst ht
  apply State.settle_keeps _ _ h
  try dsimp only
  repeat' first
    | with_reducible assumption | with_reducible apply State.portRetrain_keeps | with_reducible apply State.log_keeps
    | with_reducible apply State.setLaser_keeps | with_reducible apply foldl_keeps | (intro; try dsimp only)

theorem execLaserPresenceTimer_keeps (module : Nat) (s : State) (h : s0.Keeps s) :
    ∀ t, execLaserPresenceTimer module s = .next t → s0.Keeps t := by
  intro t ht
  unfold execLaserPresenceTimer answer at ht
  injection ht with ht
  subst ht
  apply State.settle_keeps _ _ h
  try dsimp only
  repeat' first
    | with_reducible assumption | split | with_reducible apply State.setLaser_keeps
    | with_reducible apply State.portTrain_keeps | with_reducible apply State.laserOutputs_keeps
    | with_reducible apply foldl_keeps | (intro; try dsimp only)

/-! ### Windows -/

theorem State.setWindow_keeps (s : State) (hh : Nat) (w : LinkWindow) (h : s0.Keeps s) :
    s0.Keeps (State.setWindow s hh w) :=
  h

theorem State.answerWindow_keeps (s : State) (src : Nat) (tag : Nat) (b : List Byte) (h : s0.Keeps s) :
    s0.Keeps (State.answerWindow s src tag b) := by
  unfold State.answerWindow
  try dsimp only
  repeat' first
    | with_reducible assumption
    | (split <;> (rename_i heq; simp only [Prod.ext_iff] at heq; first | obtain ⟨rfl, rfl, rfl, rfl⟩ := heq | obtain ⟨rfl, rfl, rfl⟩ := heq | obtain ⟨rfl, rfl⟩ := heq | obtain ⟨_, rfl⟩ := heq | obtain ⟨_, _, rfl⟩ := heq))
    | split | with_reducible apply State.sendMsg_keeps | with_reducible apply State.deny_keeps
    | with_reducible apply State.setWindow_keeps

theorem State.serveWaiting_keeps (s : State) (h : s0.Keeps s) :
    s0.Keeps (State.serveWaiting s) := by
  unfold State.serveWaiting
  try dsimp only
  repeat' first
    | with_reducible assumption
    | (split <;> (rename_i heq; simp only [Prod.ext_iff] at heq; first | obtain ⟨rfl, rfl, rfl, rfl⟩ := heq | obtain ⟨rfl, rfl, rfl⟩ := heq | obtain ⟨rfl, rfl⟩ := heq | obtain ⟨_, rfl⟩ := heq | obtain ⟨_, _, rfl⟩ := heq))
    | with_reducible apply State.answerWindow_keeps | with_reducible apply foldl_keeps | with_reducible apply foldl_keeps2
    | with_reducible apply foldl_keeps3 | (intro; try dsimp only)

theorem State.closeWindow_keeps (s : State) (hv : Nat) (h : s0.Keeps s) :
    s0.Keeps (State.closeWindow s hv) := by
  unfold State.closeWindow
  try dsimp only
  repeat' first
    | with_reducible assumption | with_reducible apply State.serveWaiting_keeps

theorem State.doneWindow_keeps (s : State) (hh : Nat) (h : s0.Keeps s) :
    s0.Keeps (State.doneWindow s hh) := by
  unfold State.doneWindow
  try dsimp only
  repeat' first
    | with_reducible assumption
    | (split <;> (rename_i heq; simp only [Prod.ext_iff] at heq; first | obtain ⟨rfl, rfl, rfl, rfl⟩ := heq | obtain ⟨rfl, rfl, rfl⟩ := heq | obtain ⟨rfl, rfl⟩ := heq | obtain ⟨_, rfl⟩ := heq | obtain ⟨_, _, rfl⟩ := heq))
    | split | with_reducible apply State.closeWindow_keeps | with_reducible apply State.sendMsg_keeps

theorem execWinReq_keeps (src : Nat) (body : List Byte) (s : State) (h : s0.Keeps s) :
    ∀ t, execWinReq src body s = .next t → s0.Keeps t := by
  intro t ht
  unfold execWinReq answer at ht
  injection ht with ht
  subst ht
  apply State.settle_keeps _ _ h
  try dsimp only
  repeat' first
    | with_reducible assumption | with_reducible apply State.onMsg_keeps | with_reducible apply State.answerWindow_keeps
    | (intro; try dsimp only)

theorem execWinEnd_keeps (src : Nat) (body : List Byte) (s : State) (h : s0.Keeps s) :
    ∀ t, execWinEnd src body s = .next t → s0.Keeps t := by
  intro t ht
  unfold execWinEnd answer at ht
  injection ht with ht
  subst ht
  apply State.settle_keeps _ _ h
  try dsimp only
  repeat' first
    | with_reducible assumption
    | (split <;> (rename_i heq; simp only [Prod.ext_iff] at heq; first | obtain ⟨rfl, rfl, rfl, rfl⟩ := heq | obtain ⟨rfl, rfl, rfl⟩ := heq | obtain ⟨rfl, rfl⟩ := heq | obtain ⟨_, rfl⟩ := heq | obtain ⟨_, _, rfl⟩ := heq))
    | split | with_reducible apply State.onMsg_keeps | with_reducible apply State.setWindow_keeps
    | with_reducible apply State.doneWindow_keeps | (intro; try dsimp only)

theorem execWinDoneTimeout_keeps (window : Nat) (s : State) (h : s0.Keeps s) :
    ∀ t, execWinDoneTimeout window s = .next t → s0.Keeps t := by
  intro t ht
  unfold execWinDoneTimeout answer at ht
  injection ht with ht
  subst ht
  apply State.settle_keeps _ _ h
  try dsimp only
  repeat' first
    | with_reducible assumption
    | (split <;> (rename_i heq; simp only [Prod.ext_iff] at heq; first | obtain ⟨rfl, rfl, rfl, rfl⟩ := heq | obtain ⟨rfl, rfl, rfl⟩ := heq | obtain ⟨rfl, rfl⟩ := heq | obtain ⟨_, rfl⟩ := heq | obtain ⟨_, _, rfl⟩ := heq))
    | split | with_reducible apply State.doneWindow_keeps

theorem execWinDone_keeps (src : Nat) (body : List Byte) (s : State) (h : s0.Keeps s) :
    ∀ t, execWinDone src body s = .next t → s0.Keeps t := by
  intro t ht
  unfold execWinDone answer at ht
  injection ht with ht
  subst ht
  apply State.settle_keeps _ _ h
  try dsimp only
  repeat' first
    | with_reducible assumption | split | with_reducible apply State.onMsg_keeps | (intro; try dsimp only)

theorem State.countLanded_keeps (s : State) (a : Nat) (n : Nat) (h : s0.Keeps s) :
    s0.Keeps (State.countLanded s a n) := by
  unfold State.countLanded
  try dsimp only
  repeat' first
    | with_reducible assumption | split

theorem State.copyBytesOf_keeps (s : State) (n : Nat) (st : Stage) (r : Nat) (e0 : Nat) (xs : List Nat) (h : s0.Keeps s) :
    s0.Keeps (State.copyBytesOf s n st r e0 xs).2 := by
  unfold State.copyBytesOf
  try dsimp only
  repeat' first
    | with_reducible assumption
    | (split <;> (rename_i heq; simp only [Prod.ext_iff] at heq; first | obtain ⟨rfl, rfl, rfl, rfl⟩ := heq | obtain ⟨rfl, rfl, rfl⟩ := heq | obtain ⟨rfl, rfl⟩ := heq | obtain ⟨_, rfl⟩ := heq | obtain ⟨_, _, rfl⟩ := heq))
    | split | with_reducible apply State.raise_keeps

theorem State.copyLocal_keeps (s : State) (n : Nat) (st : Stage) (a : Nat) (bs : List Byte) (h : s0.Keeps s) :
    s0.Keeps (State.copyLocal s n st a bs) := by
  unfold State.copyLocal
  try dsimp only
  repeat' first
    | with_reducible assumption
    | (split <;> (rename_i heq; simp only [Prod.ext_iff] at heq; first | obtain ⟨rfl, rfl, rfl, rfl⟩ := heq | obtain ⟨rfl, rfl, rfl⟩ := heq | obtain ⟨rfl, rfl⟩ := heq | obtain ⟨_, rfl⟩ := heq | obtain ⟨_, _, rfl⟩ := heq))
    | split | with_reducible apply State.bump_keeps | with_reducible apply State.atomicsFor_keeps
    | with_reducible apply State.meet_keeps | with_reducible apply State.raise_keeps
    | with_reducible apply State.writeFor_keeps | with_reducible apply foldl_keeps | (intro; try dsimp only)

theorem State.copyElems_keeps (s : State) (n : Nat) (st : Stage) (r : Nat) (e0 : Nat) (xs : List Nat) (h : s0.Keeps s) :
    s0.Keeps (State.copyElems s n st r e0 xs) := by
  unfold State.copyElems
  try dsimp only
  repeat' first
    | with_reducible assumption
    | (split <;> (rename_i heq; simp only [Prod.ext_iff] at heq; first | obtain ⟨rfl, rfl, rfl, rfl⟩ := heq | obtain ⟨rfl, rfl, rfl⟩ := heq | obtain ⟨rfl, rfl⟩ := heq | obtain ⟨_, rfl⟩ := heq | obtain ⟨_, _, rfl⟩ := heq))
    | split | with_reducible apply State.copyBytesOf_keeps | with_reducible apply State.copyLocal_keeps

theorem State.fillCopies_keeps (s : State) (hub k : Nat) (h : s0.Keeps s) : s0.Keeps (s.fillCopies hub k) := by
  induction k generalizing s with
  | zero => exact h
  | succ k ih =>
    unfold State.fillCopies
    dsimp only
    split
    · exact h
    · split
      · exact h
      · exact ih _ h

theorem State.startPieces_keeps (s : State) (h : s0.Keeps s) :
    s0.Keeps (State.startPieces s) := by
  unfold State.startPieces
  try dsimp only
  repeat' first
    | with_reducible assumption | with_reducible apply State.fillCopies_keeps

theorem State.endCopy_keeps (s : State) (n : Nat) (own : Nat) (h : s0.Keeps s) :
    s0.Keeps (State.endCopy s n own) := by
  unfold State.endCopy
  try dsimp only
  repeat' first
    | with_reducible assumption
    | (split <;> (rename_i heq; simp only [Prod.ext_iff] at heq; first | obtain ⟨rfl, rfl, rfl, rfl⟩ := heq | obtain ⟨rfl, rfl, rfl⟩ := heq | obtain ⟨rfl, rfl⟩ := heq | obtain ⟨_, rfl⟩ := heq | obtain ⟨_, _, rfl⟩ := heq))
    | with_reducible apply State.finishWorst_keeps | with_reducible apply State.closeWindow_keeps
    | with_reducible apply State.startPieces_keeps | with_reducible apply foldl_keeps | with_reducible apply foldl_keeps2
    | with_reducible apply foldl_keeps3 | (intro; try dsimp only)

theorem State.settleRest_keeps (s : State) (n : Nat) (st : Stage) (run : CopyRun) (h : s0.Keeps s) :
    s0.Keeps (State.settleRest s n st run) := by
  unfold State.settleRest
  try dsimp only
  repeat' first
    | with_reducible assumption
    | (split <;> (rename_i heq; simp only [Prod.ext_iff] at heq; first | obtain ⟨rfl, rfl, rfl, rfl⟩ := heq | obtain ⟨rfl, rfl, rfl⟩ := heq | obtain ⟨rfl, rfl⟩ := heq | obtain ⟨_, rfl⟩ := heq | obtain ⟨_, _, rfl⟩ := heq))
    | split | with_reducible apply State.countLanded_keeps | with_reducible apply State.copyElems_keeps | with_reducible apply foldl_keeps
    | with_reducible apply foldl_keeps2 | with_reducible apply foldl_keeps3 | (intro; try dsimp only)

theorem State.settleCopy_keeps (s : State) (n : Nat) (h : s0.Keeps s) :
    s0.Keeps (State.settleCopy s n) := by
  unfold State.settleCopy
  try dsimp only
  repeat' first
    | with_reducible assumption
    | (split <;> (rename_i heq; simp only [Prod.ext_iff] at heq; first | obtain ⟨rfl, rfl, rfl, rfl⟩ := heq | obtain ⟨rfl, rfl, rfl⟩ := heq | obtain ⟨rfl, rfl⟩ := heq | obtain ⟨_, rfl⟩ := heq | obtain ⟨_, _, rfl⟩ := heq))
    | split | with_reducible apply State.countLanded_keeps | with_reducible apply State.copyElems_keeps
    | with_reducible apply State.endCopy_keeps | with_reducible apply State.settleRest_keeps | with_reducible apply foldl_keeps
    | with_reducible apply foldl_keeps2 | with_reducible apply foldl_keeps3 | (intro; try dsimp only)

theorem State.landCopy_keeps (s : State) (n : Nat) (off : Nat) (bs : List Byte) (poison : Bool) (h : s0.Keeps s) :
    s0.Keeps (State.landCopy s n off bs poison) := by
  unfold State.landCopy
  try dsimp only
  repeat' first
    | with_reducible assumption
    | (split <;> (rename_i heq; simp only [Prod.ext_iff] at heq; first | obtain ⟨rfl, rfl, rfl, rfl⟩ := heq | obtain ⟨rfl, rfl, rfl⟩ := heq | obtain ⟨rfl, rfl⟩ := heq | obtain ⟨_, rfl⟩ := heq | obtain ⟨_, _, rfl⟩ := heq))
    | split | with_reducible apply State.settleCopy_keeps | with_reducible apply State.meet_keeps

theorem State.countElems_keeps (s : State) (o : TDesc) (k : Nat) (n : Nat) (h : s0.Keeps s) :
    s0.Keeps (State.countElems s o k n) := by
  unfold State.countElems
  try dsimp only
  repeat' first
    | with_reducible assumption
    | (split <;> (rename_i heq; simp only [Prod.ext_iff] at heq; first | obtain ⟨rfl, rfl, rfl, rfl⟩ := heq | obtain ⟨rfl, rfl, rfl⟩ := heq | obtain ⟨rfl, rfl⟩ := heq | obtain ⟨_, rfl⟩ := heq | obtain ⟨_, _, rfl⟩ := heq))
    | split | with_reducible apply State.countLanded_keeps | with_reducible apply foldl_keeps | with_reducible apply foldl_keeps2
    | with_reducible apply foldl_keeps3 | (intro; try dsimp only)

theorem State.landResults_keeps (s : State) (n : Nat) (rank : Nat) (off : Nat) (bs : List Byte) (h : s0.Keeps s) :
    s0.Keeps (State.landResults s n rank off bs) := by
  unfold State.landResults
  try dsimp only
  repeat' first
    | with_reducible assumption
    | (split <;> (rename_i heq; simp only [Prod.ext_iff] at heq; first | obtain ⟨rfl, rfl, rfl, rfl⟩ := heq | obtain ⟨rfl, rfl, rfl⟩ := heq | obtain ⟨rfl, rfl⟩ := heq | obtain ⟨_, rfl⟩ := heq | obtain ⟨_, _, rfl⟩ := heq))
    | split | with_reducible apply State.writeStream_keeps | with_reducible apply State.countElems_keeps

theorem State.landPartials_keeps (s : State) (n : Nat) (rank : Nat) (off : Nat) (bs : List Byte) (h : s0.Keeps s) :
    s0.Keeps (State.landPartials s n rank off bs) := by
  unfold State.landPartials
  try dsimp only
  repeat' first
    | with_reducible assumption
    | (split <;> (rename_i heq; simp only [Prod.ext_iff] at heq; first | obtain ⟨rfl, rfl, rfl, rfl⟩ := heq | obtain ⟨rfl, rfl, rfl⟩ := heq | obtain ⟨rfl, rfl⟩ := heq | obtain ⟨_, rfl⟩ := heq | obtain ⟨_, _, rfl⟩ := heq))
    | split

theorem State.flitWrite_keeps (s : State) (w : LinkWindow) (a : Nat) (bs : List Byte) (h : s0.Keeps s) :
    s0.Keeps (State.flitWrite s w a bs).2.2 := by
  unfold State.flitWrite
  try dsimp only
  repeat' first
    | with_reducible assumption
    | (split <;> (rename_i heq; simp only [Prod.ext_iff] at heq; first | obtain ⟨rfl, rfl, rfl, rfl⟩ := heq | obtain ⟨rfl, rfl, rfl⟩ := heq | obtain ⟨rfl, rfl⟩ := heq | obtain ⟨_, rfl⟩ := heq | obtain ⟨_, _, rfl⟩ := heq))
    | split | with_reducible apply State.writePiece_keeps | with_reducible apply State.countLanded_keeps
    | with_reducible apply foldl_keeps3 | (intro; try dsimp only)

theorem State.flitAtomic_keeps (s : State) (w : LinkWindow) (a : Nat) (attr : Nat) (bs : List Byte) (h : s0.Keeps s) :
    s0.Keeps (State.flitAtomic s w a attr bs).2.2.2 := by
  unfold State.flitAtomic
  try dsimp only
  repeat' first
    | with_reducible assumption
    | (split <;> (rename_i heq; simp only [Prod.ext_iff] at heq; first | obtain ⟨rfl, rfl, rfl, rfl⟩ := heq | obtain ⟨rfl, rfl, rfl⟩ := heq | obtain ⟨rfl, rfl⟩ := heq | obtain ⟨_, rfl⟩ := heq | obtain ⟨_, _, rfl⟩ := heq))
    | with_reducible apply State.atomicsFor_keeps | with_reducible apply State.countLanded_keeps
    | with_reducible apply foldl_keeps | (intro; try dsimp only)

theorem State.applyFlit_keeps (s : State) (hh : Nat) (w : LinkWindow) (bytes : List Byte) (h : s0.Keeps s) :
    s0.Keeps (State.applyFlit s hh w bytes) := by
  unfold State.applyFlit
  try dsimp only
  repeat' first
    | with_reducible assumption
    | (split <;> (rename_i heq; simp only [Prod.ext_iff] at heq; first | obtain ⟨rfl, rfl, rfl, rfl⟩ := heq | obtain ⟨rfl, rfl, rfl⟩ := heq | obtain ⟨rfl, rfl⟩ := heq | obtain ⟨_, rfl⟩ := heq | obtain ⟨_, _, rfl⟩ := heq))
    | split | with_reducible apply State.landCopy_keeps | with_reducible apply State.landPartials_keeps
    | with_reducible apply State.landResults_keeps | with_reducible apply State.flitAtomic_keeps
    | with_reducible apply State.flitWrite_keeps | with_reducible apply State.setWindow_keeps
    | with_reducible apply State.doneWindow_keeps

theorem State.landFlit_keeps (s : State) (bytes : List Byte) (h : s0.Keeps s) :
    s0.Keeps (State.landFlit s bytes) := by
  unfold State.landFlit
  try dsimp only
  repeat' first
    | with_reducible assumption
    | (split <;> (rename_i heq; simp only [Prod.ext_iff] at heq; first | obtain ⟨rfl, rfl, rfl, rfl⟩ := heq | obtain ⟨rfl, rfl, rfl⟩ := heq | obtain ⟨rfl, rfl⟩ := heq | obtain ⟨_, rfl⟩ := heq | obtain ⟨_, _, rfl⟩ := heq))
    | split | with_reducible apply State.tick1_keeps | with_reducible apply State.applyFlit_keeps

theorem State.dataFlitIn_keeps (s : State) (port : Nat) (bytes : List Byte) (h : s0.Keeps s) :
    s0.Keeps (State.dataFlitIn s port bytes) := by
  unfold State.dataFlitIn
  try dsimp only
  repeat' first
    | with_reducible assumption
    | (split <;> (rename_i heq; simp only [Prod.ext_iff] at heq; first | obtain ⟨rfl, rfl, rfl, rfl⟩ := heq | obtain ⟨rfl, rfl, rfl⟩ := heq | obtain ⟨rfl, rfl⟩ := heq | obtain ⟨_, rfl⟩ := heq | obtain ⟨_, _, rfl⟩ := heq))
    | split | with_reducible apply State.tick1_keeps | with_reducible apply State.knock_keeps | with_reducible apply State.setPort_keeps
    | with_reducible apply State.forwardFlit_keeps | with_reducible apply State.landFlit_keeps

theorem State.takeGated_keeps (s : State) (d : Nat) (h : s0.Keeps s) :
    s0.Keeps (State.takeGated s d) := by
  unfold State.takeGated
  try dsimp only
  repeat' first
    | with_reducible assumption
    | (split <;> (rename_i heq; simp only [Prod.ext_iff] at heq; first | obtain ⟨rfl, rfl, rfl, rfl⟩ := heq | obtain ⟨rfl, rfl, rfl⟩ := heq | obtain ⟨rfl, rfl⟩ := heq | obtain ⟨_, rfl⟩ := heq | obtain ⟨_, _, rfl⟩ := heq))
    | with_reducible apply State.setPort_keeps | with_reducible apply State.landFlit_keeps | with_reducible apply foldl_keeps
    | with_reducible apply foldl_keeps2 | with_reducible apply foldl_keeps3 | (intro; try dsimp only)

theorem State.flitOfKind_keeps (s : State) (kind : Nat) (port : Nat) (bytes : List Byte) (h : s0.Keeps s) :
    s0.Keeps (State.flitOfKind s kind port bytes) := by
  unfold State.flitOfKind
  try dsimp only
  repeat' first
    | with_reducible assumption
    | (split <;> (rename_i heq; simp only [Prod.ext_iff] at heq; first | obtain ⟨rfl, rfl, rfl, rfl⟩ := heq | obtain ⟨rfl, rfl, rfl⟩ := heq | obtain ⟨rfl, rfl⟩ := heq | obtain ⟨_, rfl⟩ := heq | obtain ⟨_, _, rfl⟩ := heq))
    | split | with_reducible apply State.arrival_keeps | with_reducible apply State.dataFlitIn_keeps

theorem execDataFlitWrite_keeps (port : Nat) (bytes : List Byte) (s : State) (h : s0.Keeps s) :
    ∀ t, execDataFlitWrite port bytes s = .next t → s0.Keeps t := by
  intro t ht
  unfold execDataFlitWrite answer at ht
  injection ht with ht
  subst ht
  apply State.settle_keeps _ _ h
  try dsimp only
  repeat' first
    | with_reducible assumption | with_reducible apply State.flitOfKind_keeps

theorem execDataFlitAtomic_keeps (port : Nat) (bytes : List Byte) (s : State) (h : s0.Keeps s) :
    ∀ t, execDataFlitAtomic port bytes s = .next t → s0.Keeps t := by
  intro t ht
  unfold execDataFlitAtomic answer at ht
  injection ht with ht
  subst ht
  apply State.settle_keeps _ _ h
  try dsimp only
  repeat' first
    | with_reducible assumption | with_reducible apply State.flitOfKind_keeps

theorem execDataFlitReadData_keeps (port : Nat) (bytes : List Byte) (s : State) (h : s0.Keeps s) :
    ∀ t, execDataFlitReadData port bytes s = .next t → s0.Keeps t := by
  intro t ht
  unfold execDataFlitReadData answer at ht
  injection ht with ht
  subst ht
  apply State.settle_keeps _ _ h
  try dsimp only
  repeat' first
    | with_reducible assumption | with_reducible apply State.flitOfKind_keeps

theorem execDataFlitReadPoison_keeps (port : Nat) (bytes : List Byte) (s : State) (h : s0.Keeps s) :
    ∀ t, execDataFlitReadPoison port bytes s = .next t → s0.Keeps t := by
  intro t ht
  unfold execDataFlitReadPoison answer at ht
  injection ht with ht
  subst ht
  apply State.settle_keeps _ _ h
  try dsimp only
  repeat' first
    | with_reducible assumption | with_reducible apply State.flitOfKind_keeps

theorem State.serveRead_keeps (s : State) (src : Nat) (win : Nat) (off : Nat) (cls : Nat) (secure : Bool) (a : Nat) (n : Nat) (h : s0.Keeps s) :
    s0.Keeps (State.serveRead s src win off cls secure a n) := by
  unfold State.serveRead
  try dsimp only
  repeat' first
    | with_reducible assumption
    | (split <;> (rename_i heq; simp only [Prod.ext_iff] at heq; first | obtain ⟨rfl, rfl, rfl, rfl⟩ := heq | obtain ⟨rfl, rfl, rfl⟩ := heq | obtain ⟨rfl, rfl⟩ := heq | obtain ⟨_, rfl⟩ := heq | obtain ⟨_, _, rfl⟩ := heq))
    | split | with_reducible apply State.readPiece_keeps | with_reducible apply State.sendFlit_keeps
    | with_reducible apply foldl_keeps | (intro; try dsimp only)

theorem execReadReq_keeps (src : Nat) (body : List Byte) (s : State) (h : s0.Keeps s) :
    ∀ t, execReadReq src body s = .next t → s0.Keeps t := by
  intro t ht
  unfold execReadReq answer at ht
  injection ht with ht
  subst ht
  apply State.settle_keeps _ _ h
  try dsimp only
  repeat' first
    | with_reducible assumption | split | with_reducible apply State.onMsg_keeps | with_reducible apply State.sendMsg_keeps
    | with_reducible apply State.deny_keeps | with_reducible apply State.serveRead_keeps | (intro; try dsimp only)

theorem execReadEnd_keeps (src : Nat) (body : List Byte) (s : State) (h : s0.Keeps s) :
    ∀ t, execReadEnd src body s = .next t → s0.Keeps t := by
  intro t ht
  unfold execReadEnd answer at ht
  injection ht with ht
  subst ht
  apply State.settle_keeps _ _ h
  try dsimp only
  repeat' first
    | with_reducible assumption
    | (split <;> (rename_i heq; simp only [Prod.ext_iff] at heq; first | obtain ⟨rfl, rfl, rfl, rfl⟩ := heq | obtain ⟨rfl, rfl, rfl⟩ := heq | obtain ⟨rfl, rfl⟩ := heq | obtain ⟨_, rfl⟩ := heq | obtain ⟨_, _, rfl⟩ := heq))
    | split | with_reducible apply State.onMsg_keeps | with_reducible apply State.settleCopy_keeps
    | with_reducible apply State.meet_keeps | (intro; try dsimp only)

theorem State.freshTag_keeps (s : State) (h : s0.Keeps s) :
    s0.Keeps (State.freshTag s).2 :=
  h

theorem State.requestRuns_keeps (s : State) (n : Nat) (st : Stage) (peer w : Nat) (l : List (Nat × Nat × Nat)) (h : s0.Keeps s) :
    s0.Keeps (s.requestRuns n st peer w l) := by
  induction l generalizing s with
  | nil => exact h
  | cons p rest ih =>
    obtain ⟨o, a, len⟩ := p
    unfold State.requestRuns
    exact ih _ (State.sendMsg_keeps _ _ _ _ _ (State.freshTag_keeps s h))

theorem execCopyStart_keeps (slot : Nat) (s : State) (h : s0.Keeps s) :
    ∀ t, execCopyStart slot s = .next t → s0.Keeps t := by
  intro t ht
  unfold execCopyStart answer at ht
  injection ht with ht
  subst ht
  apply State.settle_keeps _ _ h
  try dsimp only
  repeat' first
    | with_reducible assumption
    | (split <;> (rename_i heq; simp only [Prod.ext_iff] at heq; first | obtain ⟨rfl, rfl, rfl, rfl⟩ := heq | obtain ⟨rfl, rfl, rfl⟩ := heq | obtain ⟨rfl, rfl⟩ := heq | obtain ⟨_, rfl⟩ := heq | obtain ⟨_, _, rfl⟩ := heq))
    | split | with_reducible apply State.log_keeps | with_reducible apply State.finishWorst_keeps
    | with_reducible apply State.sendMsg_keeps | with_reducible apply State.setWindow_keeps | with_reducible apply State.startPieces_keeps
    | with_reducible apply State.freshTag_keeps | with_reducible apply State.requestRuns_keeps | (intro; try dsimp only)

theorem execWinGrant_keeps (src : Nat) (body : List Byte) (s : State) (h : s0.Keeps s) :
    ∀ t, execWinGrant src body s = .next t → s0.Keeps t := by
  intro t ht
  unfold execWinGrant answer at ht
  injection ht with ht
  subst ht
  apply State.settle_keeps _ _ h
  try dsimp only
  repeat' first
    | with_reducible assumption
    | (split <;> (rename_i heq; simp only [Prod.ext_iff] at heq; first | obtain ⟨rfl, rfl, rfl, rfl⟩ := heq | obtain ⟨rfl, rfl, rfl⟩ := heq | obtain ⟨rfl, rfl⟩ := heq | obtain ⟨_, rfl⟩ := heq | obtain ⟨_, _, rfl⟩ := heq))
    | split | with_reducible apply State.onMsg_keeps | with_reducible apply State.startPieces_keeps | (intro; try dsimp only)

theorem execWinDeny_keeps (src : Nat) (body : List Byte) (s : State) (h : s0.Keeps s) :
    ∀ t, execWinDeny src body s = .next t → s0.Keeps t := by
  intro t ht
  unfold execWinDeny answer at ht
  injection ht with ht
  subst ht
  apply State.settle_keeps _ _ h
  try dsimp only
  repeat' first
    | with_reducible assumption
    | (split <;> (rename_i heq; simp only [Prod.ext_iff] at heq; first | obtain ⟨rfl, rfl, rfl, rfl⟩ := heq | obtain ⟨rfl, rfl, rfl⟩ := heq | obtain ⟨rfl, rfl⟩ := heq | obtain ⟨_, rfl⟩ := heq | obtain ⟨_, _, rfl⟩ := heq))
    | split | with_reducible apply State.meet_keeps | with_reducible apply State.onMsg_keeps
    | with_reducible apply State.startPieces_keeps | (intro; try dsimp only)

theorem State.sendRuns_keeps (s : State) (st : Stage) (peer : Nat) (hh : Nat) (runs : List (Nat × List Byte)) (h : s0.Keeps s) :
    s0.Keeps (State.sendRuns s st peer hh runs) := by
  unfold State.sendRuns
  try dsimp only
  repeat' first
    | with_reducible assumption | split | with_reducible apply State.sendFlit_keeps | with_reducible apply State.bump_keeps
    | with_reducible apply foldl_keeps | (intro; try dsimp only)

theorem State.pieceSegments_keeps (s : State) (n : Nat) (st : Stage) (rows : List (Nat × Nat × Nat)) (h : s0.Keeps s) :
    s0.Keeps (State.pieceSegments s n st rows).2 := by
  unfold State.pieceSegments
  try dsimp only
  repeat' first
    | with_reducible assumption
    | (split <;> (rename_i heq; simp only [Prod.ext_iff] at heq; first | obtain ⟨rfl, rfl, rfl, rfl⟩ := heq | obtain ⟨rfl, rfl, rfl⟩ := heq | obtain ⟨rfl, rfl⟩ := heq | obtain ⟨_, rfl⟩ := heq | obtain ⟨_, _, rfl⟩ := heq))
    | split | with_reducible apply State.readElems_keeps | with_reducible apply State.copyBytesOf_keeps
    | with_reducible apply foldl_keeps2 | (intro; try dsimp only)

theorem State.stopCopy_keeps (s : State) (n : Nat) (h : s0.Keeps s) :
    s0.Keeps (State.stopCopy s n) := by
  unfold State.stopCopy
  try dsimp only
  repeat' first
    | with_reducible assumption
    | split
    | with_reducible apply State.endCopy_keeps
    | with_reducible apply State.sendMsg_keeps
    | (intro; try dsimp only)

theorem State.pieceDone_keeps (s : State) (n : Nat) (k : Nat) (h : s0.Keeps s) :
    s0.Keeps (State.pieceDone s n k) := by
  unfold State.pieceDone
  try dsimp only
  repeat' first
    | with_reducible assumption | with_reducible apply State.startPieces_keeps

theorem State.copyPiece_keeps (s : State) (n : Nat) (st : Stage) (run : CopyRun) (h : s0.Keeps s) :
    s0.Keeps (State.copyPiece s n st run).2 := by
  unfold State.copyPiece
  try dsimp only
  repeat' first
    | with_reducible assumption
    | (split <;> (rename_i heq; simp only [Prod.ext_iff] at heq; first | obtain ⟨rfl, rfl, rfl, rfl⟩ := heq | obtain ⟨rfl, rfl, rfl⟩ := heq | obtain ⟨rfl, rfl⟩ := heq | obtain ⟨_, rfl⟩ := heq | obtain ⟨_, _, rfl⟩ := heq))
    | split | with_reducible apply State.readElems_keeps | with_reducible apply State.copyElems_keeps
    | with_reducible apply State.sendRuns_keeps | with_reducible apply State.pieceSegments_keeps | with_reducible apply foldl_keeps
    | with_reducible apply foldl_keeps2 | with_reducible apply foldl_keeps3 | (intro; try dsimp only)

theorem State.copyEnd_keeps (s : State) (n : Nat) (h : s0.Keeps s) :
    s0.Keeps (State.copyEnd s n) := by
  unfold State.copyEnd
  try dsimp only
  repeat' first
    | with_reducible assumption
    | (split <;> (rename_i heq; simp only [Prod.ext_iff] at heq; first | obtain ⟨rfl, rfl, rfl, rfl⟩ := heq | obtain ⟨rfl, rfl, rfl⟩ := heq | obtain ⟨rfl, rfl⟩ := heq | obtain ⟨_, rfl⟩ := heq | obtain ⟨_, _, rfl⟩ := heq))
    | split | with_reducible apply State.sendMsg_keeps | with_reducible apply State.endCopy_keeps

theorem execCopyPieceComplete_keeps (slot : Nat) (s : State) (h : s0.Keeps s) :
    ∀ t, execCopyPieceComplete slot s = .next t → s0.Keeps t := by
  intro t ht
  unfold execCopyPieceComplete answer at ht
  injection ht with ht
  subst ht
  apply State.settle_keeps _ _ h
  try dsimp only
  repeat' first
    | with_reducible assumption
    | (split <;> (rename_i heq; simp only [Prod.ext_iff] at heq; first | obtain ⟨rfl, rfl, rfl, rfl⟩ := heq | obtain ⟨rfl, rfl, rfl⟩ := heq | obtain ⟨rfl, rfl⟩ := heq | obtain ⟨_, rfl⟩ := heq | obtain ⟨_, _, rfl⟩ := heq))
    | split | with_reducible apply State.stopCopy_keeps | with_reducible apply State.pieceDone_keeps
    | with_reducible apply State.copyPiece_keeps | with_reducible apply State.copyEnd_keeps

/-! ### Collectives -/

theorem State.setColl_keeps (s : State) (n : Nat) (r : CollRun) (h : s0.Keeps s) :
    s0.Keeps (State.setColl s n r) :=
  h

theorem State.toMembers_keeps (s : State) (r : CollRun) (rank : Nat) (body : Nat → List Byte) (h : s0.Keeps s) :
    s0.Keeps (State.toMembers s r rank body) := by
  unfold State.toMembers
  try dsimp only
  repeat' first
    | with_reducible assumption | with_reducible apply State.sendMsg_keeps | with_reducible apply foldl_keeps
    | (intro; try dsimp only)

theorem State.sendCodes_keeps (s : State) (cls : Nat) (dst : Nat) (hh : Nat) (f : Fmt) (off : Nat) (cs : List Nat) (h : s0.Keeps s) :
    s0.Keeps (State.sendCodes s cls dst hh f off cs) := by
  unfold State.sendCodes
  try dsimp only
  repeat' first
    | with_reducible assumption | with_reducible apply State.sendFlit_keeps | with_reducible apply foldl_keeps
    | with_reducible apply foldl_keeps2 | (intro; try dsimp only)

theorem State.spreadResults_keeps (s : State) (n : Nat) (st : Stage) (r : CollRun) (k : Nat) (cs : List Nat) (own : Bool) (dests : List (Nat × Nat)) (h : s0.Keeps s) :
    s0.Keeps (State.spreadResults s n st r k cs own dests) := by
  unfold State.spreadResults
  try dsimp only
  repeat' first
    | with_reducible assumption | split | with_reducible apply State.writeStream_keeps
    | with_reducible apply State.setColl_keeps | with_reducible apply State.sendCodes_keeps | with_reducible apply foldl_keeps
    | (intro; try dsimp only)

theorem State.finalRound_keeps (s : State) (n : Nat) (h : s0.Keeps s) :
    s0.Keeps (State.finalRound s n) := by
  unfold State.finalRound
  try dsimp only
  repeat' first
    | with_reducible assumption
    | (split <;> (rename_i heq; simp only [Prod.ext_iff] at heq; first | obtain ⟨rfl, rfl, rfl, rfl⟩ := heq | obtain ⟨rfl, rfl, rfl⟩ := heq | obtain ⟨rfl, rfl⟩ := heq | obtain ⟨_, rfl⟩ := heq | obtain ⟨_, _, rfl⟩ := heq))
    | split | with_reducible apply State.toMembers_keeps | with_reducible apply State.setColl_keeps

theorem State.collData_keeps (s : State) (n : Nat) (st : Stage) (r : CollRun) (h : s0.Keeps s) :
    s0.Keeps (State.collData s n st r) := by
  unfold State.collData
  try dsimp only
  repeat' first
    | with_reducible assumption
    | (split <;> (rename_i heq; simp only [Prod.ext_iff] at heq; first | obtain ⟨rfl, rfl, rfl, rfl⟩ := heq | obtain ⟨rfl, rfl, rfl⟩ := heq | obtain ⟨rfl, rfl⟩ := heq | obtain ⟨_, rfl⟩ := heq | obtain ⟨_, _, rfl⟩ := heq))
    | split | with_reducible apply State.setColl_keeps | with_reducible apply State.readStream_keeps
    | with_reducible apply State.sendCodes_keeps | with_reducible apply State.spreadResults_keeps
    | with_reducible apply State.raise_keeps | with_reducible apply State.finalRound_keeps | with_reducible apply foldl_keeps
    | (intro; try dsimp only)

theorem State.startColls_keeps (s : State) (hub k : Nat) (h : s0.Keeps s) : s0.Keeps (s.startColls hub k) := by
  induction k generalizing s with
  | zero => exact h
  | succ k ih =>
    unfold State.startColls
    dsimp only
    split
    · exact h
    · split
      · exact h
      · exact ih _ (State.collData_keeps s _ _ _ h)

theorem State.endColl_keeps (s : State) (n : Nat) (own : Nat) (h : s0.Keeps s) :
    s0.Keeps (State.endColl s n own) := by
  unfold State.endColl
  try dsimp only
  repeat' first
    | with_reducible assumption
    | (split <;> (rename_i heq; simp only [Prod.ext_iff] at heq; first | obtain ⟨rfl, rfl, rfl, rfl⟩ := heq | obtain ⟨rfl, rfl, rfl⟩ := heq | obtain ⟨rfl, rfl⟩ := heq | obtain ⟨_, rfl⟩ := heq | obtain ⟨_, _, rfl⟩ := heq))
    | split | with_reducible apply State.tick1_keeps | with_reducible apply State.finishWorst_keeps
    | with_reducible apply State.closeWindow_keeps | with_reducible apply State.startColls_keeps | with_reducible apply foldl_keeps
    | with_reducible apply foldl_keeps2 | with_reducible apply foldl_keeps3 | (intro; try dsimp only)

theorem State.tryJoin_keeps (s : State) (n : Nat) (h : s0.Keeps s) :
    s0.Keeps (State.tryJoin s n) := by
  unfold State.tryJoin
  try dsimp only
  repeat' first
    | with_reducible assumption
    | (split <;> (rename_i heq; simp only [Prod.ext_iff] at heq; first | obtain ⟨rfl, rfl, rfl, rfl⟩ := heq | obtain ⟨rfl, rfl, rfl⟩ := heq | obtain ⟨rfl, rfl⟩ := heq | obtain ⟨_, rfl⟩ := heq | obtain ⟨_, _, rfl⟩ := heq))
    | split | with_reducible apply State.startColls_keeps | with_reducible apply State.endColl_keeps

theorem State.keepJoin_keeps (s : State) (j : EarlyJoin) (h : s0.Keeps s) :
    s0.Keeps (State.keepJoin s j) :=
  h

theorem State.takeJoin_keeps (s : State) (n : Nat) (st : Stage) (j : EarlyJoin) (h : s0.Keeps s) :
    s0.Keeps (State.takeJoin s n st j) := by
  unfold State.takeJoin
  try dsimp only
  repeat' first
    | with_reducible assumption
    | (split <;> (rename_i heq; simp only [Prod.ext_iff] at heq; first | obtain ⟨rfl, rfl, rfl, rfl⟩ := heq | obtain ⟨rfl, rfl, rfl⟩ := heq | obtain ⟨rfl, rfl⟩ := heq | obtain ⟨_, rfl⟩ := heq | obtain ⟨_, _, rfl⟩ := heq))
    | split | with_reducible apply State.setColl_keeps | with_reducible apply State.toMembers_keeps
    | with_reducible apply State.endColl_keeps | with_reducible apply State.tryJoin_keeps | with_reducible apply State.keepJoin_keeps
    | (intro; try dsimp only)

theorem State.leaveJoin_keeps (s : State) (n : Nat) (st : Stage) (r : CollRun) (own : Nat) (h : s0.Keeps s) :
    s0.Keeps (State.leaveJoin s n st r own) := by
  unfold State.leaveJoin
  try dsimp only
  repeat' first
    | with_reducible assumption
    | split
    | with_reducible apply State.endColl_keeps
    | with_reducible apply State.toMembers_keeps
    | (intro; try dsimp only)

theorem State.markJoin_keeps (s : State) (p : EarlyJoin → Bool) (h : s0.Keeps s) :
    s0.Keeps (State.markJoin s p) := by
  unfold State.markJoin
  try dsimp only
  repeat' first
    | with_reducible assumption | split | (intro; try dsimp only)

theorem State.dropJoin_keeps (s : State) (p : EarlyJoin → Bool) (h : s0.Keeps s) :
    s0.Keeps (State.dropJoin s p) := by
  unfold State.dropJoin
  try dsimp only
  repeat' first
    | with_reducible assumption | (intro; try dsimp only)

theorem execColl_keeps (src : Nat) (body : List Byte) (s : State) (h : s0.Keeps s) :
    ∀ t, execColl src body s = .next t → s0.Keeps t := by
  intro t ht
  unfold execColl answer at ht
  injection ht with ht
  subst ht
  apply State.settle_keeps _ _ h
  try dsimp only
  repeat' first
    | with_reducible assumption
    | (split <;> (rename_i heq; simp only [Prod.ext_iff] at heq; first | obtain ⟨rfl, rfl, rfl, rfl⟩ := heq | obtain ⟨rfl, rfl, rfl⟩ := heq | obtain ⟨rfl, rfl⟩ := heq | obtain ⟨_, rfl⟩ := heq | obtain ⟨_, _, rfl⟩ := heq))
    | split | with_reducible apply State.raise_keeps | with_reducible apply State.meet_keeps | with_reducible apply State.onMsg_keeps
    | with_reducible apply State.setColl_keeps | with_reducible apply State.keepJoin_keeps | with_reducible apply State.takeJoin_keeps
    | with_reducible apply State.leaveJoin_keeps | with_reducible apply State.markJoin_keeps | with_reducible apply State.dropJoin_keeps
    | (intro; try dsimp only)

theorem State.openCollWindows_keeps (s : State) (n : Nat) (st : Stage) (r : CollRun) (h : s0.Keeps s) :
    s0.Keeps (State.openCollWindows s n st r).2 := by
  unfold State.openCollWindows
  try dsimp only
  repeat' first
    | with_reducible assumption
    | (split <;> (rename_i heq; simp only [Prod.ext_iff] at heq; first | obtain ⟨rfl, rfl, rfl, rfl⟩ := heq | obtain ⟨rfl, rfl, rfl⟩ := heq | obtain ⟨rfl, rfl⟩ := heq | obtain ⟨_, rfl⟩ := heq | obtain ⟨_, _, rfl⟩ := heq))
    | with_reducible apply State.setWindow_keeps | with_reducible apply foldl_keeps2 | (intro; try dsimp only)

theorem execCollectiveStart_keeps (slot : Nat) (s : State) (h : s0.Keeps s) :
    ∀ t, execCollectiveStart slot s = .next t → s0.Keeps t := by
  intro t ht
  unfold execCollectiveStart answer at ht
  injection ht with ht
  subst ht
  apply State.settle_keeps _ _ h
  try dsimp only
  repeat' first
    | with_reducible assumption
    | (split <;> (rename_i heq; simp only [Prod.ext_iff] at heq; first | obtain ⟨rfl, rfl, rfl, rfl⟩ := heq | obtain ⟨rfl, rfl, rfl⟩ := heq | obtain ⟨rfl, rfl⟩ := heq | obtain ⟨_, rfl⟩ := heq | obtain ⟨_, _, rfl⟩ := heq))
    | split | with_reducible apply State.tick1_keeps | with_reducible apply State.meet_keeps
    | with_reducible apply State.finishWorst_keeps | with_reducible apply State.ctrlRead_keeps | with_reducible apply State.setColl_keeps
    | with_reducible apply State.toMembers_keeps | with_reducible apply State.tryJoin_keeps | with_reducible apply State.takeJoin_keeps
    | with_reducible apply State.leaveJoin_keeps | with_reducible apply State.dropJoin_keeps
    | with_reducible apply State.openCollWindows_keeps | with_reducible apply foldl_keeps | with_reducible apply foldl_keeps2
    | with_reducible apply foldl_keeps3 | (intro; try dsimp only)

theorem State.stopColl_keeps (s : State) (n : Nat) (st : Stage) (h : s0.Keeps s) :
    s0.Keeps (State.stopColl s n st) := by
  unfold State.stopColl
  try dsimp only
  repeat' first
    | with_reducible assumption
    | split
    | with_reducible apply State.endColl_keeps
    | with_reducible apply State.leaveJoin_keeps
    | (intro; try dsimp only)

theorem execCollectiveJoinTimeout_keeps (slot : Nat) (s : State) (h : s0.Keeps s) :
    ∀ t, execCollectiveJoinTimeout slot s = .next t → s0.Keeps t := by
  intro t ht
  unfold execCollectiveJoinTimeout answer at ht
  injection ht with ht
  subst ht
  apply State.settle_keeps _ _ h
  try dsimp only
  repeat' first
    | with_reducible assumption
    | (split <;> (rename_i heq; simp only [Prod.ext_iff] at heq; first | obtain ⟨rfl, rfl, rfl, rfl⟩ := heq | obtain ⟨rfl, rfl, rfl⟩ := heq | obtain ⟨rfl, rfl⟩ := heq | obtain ⟨_, rfl⟩ := heq | obtain ⟨_, _, rfl⟩ := heq))
    | split | with_reducible apply State.endColl_keeps
    | with_reducible apply State.leaveJoin_keeps

theorem State.blockCodes_keeps (s : State) (n : Nat) (st : Stage) (r : CollRun) (block : Nat) (h : s0.Keeps s) :
    s0.Keeps (State.blockCodes s n st r block).2 := by
  unfold State.blockCodes
  try dsimp only
  repeat' first
    | with_reducible assumption
    | (split <;> (rename_i heq; simp only [Prod.ext_iff] at heq; first | obtain ⟨rfl, rfl, rfl, rfl⟩ := heq | obtain ⟨rfl, rfl, rfl⟩ := heq | obtain ⟨rfl, rfl⟩ := heq | obtain ⟨_, rfl⟩ := heq | obtain ⟨_, _, rfl⟩ := heq))
    | split | with_reducible apply State.readStream_keeps

theorem execCollectiveBlockReduce_keeps (slot : Nat) (block : Nat) (s : State) (h : s0.Keeps s) :
    ∀ t, execCollectiveBlockReduce slot block s = .next t → s0.Keeps t := by
  intro t ht
  unfold execCollectiveBlockReduce answer at ht
  injection ht with ht
  subst ht
  apply State.settle_keeps _ _ h
  try dsimp only
  repeat' first
    | with_reducible assumption
    | (split <;> (rename_i heq; simp only [Prod.ext_iff] at heq; first | obtain ⟨rfl, rfl, rfl, rfl⟩ := heq | obtain ⟨rfl, rfl, rfl⟩ := heq | obtain ⟨rfl, rfl⟩ := heq | obtain ⟨_, rfl⟩ := heq | obtain ⟨_, _, rfl⟩ := heq))
    | split | with_reducible apply State.endColl_keeps | with_reducible apply State.blockCodes_keeps
    | with_reducible apply State.raise_keeps | with_reducible apply State.setColl_keeps
    | with_reducible apply State.finalRound_keeps | with_reducible apply State.spreadResults_keeps
    | with_reducible apply foldl_keeps
    | with_reducible apply State.stopColl_keeps
    | (intro; try dsimp only)

theorem execCollectivePartialTimeout_keeps (slot : Nat) (s : State) (h : s0.Keeps s) :
    ∀ t, execCollectivePartialTimeout slot s = .next t → s0.Keeps t := by
  intro t ht
  unfold execCollectivePartialTimeout answer at ht
  injection ht with ht
  subst ht
  apply State.settle_keeps _ _ h
  try dsimp only
  repeat' first
    | with_reducible assumption
    | (split <;> (rename_i heq; simp only [Prod.ext_iff] at heq; first | obtain ⟨rfl, rfl, rfl, rfl⟩ := heq | obtain ⟨rfl, rfl, rfl⟩ := heq | obtain ⟨rfl, rfl⟩ := heq | obtain ⟨_, rfl⟩ := heq | obtain ⟨_, _, rfl⟩ := heq))
    | split | with_reducible apply State.finalRound_keeps | with_reducible apply State.setColl_keeps
    | with_reducible apply State.meet_keeps

theorem execCollectiveComplete_keeps (slot : Nat) (s : State) (h : s0.Keeps s) :
    ∀ t, execCollectiveComplete slot s = .next t → s0.Keeps t := by
  intro t ht
  unfold execCollectiveComplete answer at ht
  injection ht with ht
  subst ht
  apply State.settle_keeps _ _ h
  try dsimp only
  repeat' first
    | with_reducible assumption
    | (split <;> (rename_i heq; simp only [Prod.ext_iff] at heq; first | obtain ⟨rfl, rfl, rfl, rfl⟩ := heq | obtain ⟨rfl, rfl, rfl⟩ := heq | obtain ⟨rfl, rfl⟩ := heq | obtain ⟨_, rfl⟩ := heq | obtain ⟨_, _, rfl⟩ := heq))
    | split | with_reducible apply State.endColl_keeps
    | with_reducible apply State.stopColl_keeps

/-! ### Peers -/

theorem execHelloPeriodTimer_keeps (s : State) (h : s0.Keeps s) :
    ∀ t, execHelloPeriodTimer s = .next t → s0.Keeps t := by
  intro t ht
  unfold execHelloPeriodTimer answer at ht
  injection ht with ht
  subst ht
  apply State.settle_keeps _ _ h
  try dsimp only
  repeat' first
    | with_reducible assumption | split | with_reducible apply State.emit_keeps | with_reducible apply State.tick1_keeps
    | with_reducible apply foldl_keeps | (intro; try dsimp only)

theorem State.loseStages_keeps (s : State) (d : Nat) (h : s0.Keeps s) :
    s0.Keeps (State.loseStages s d) := by
  unfold State.loseStages
  try dsimp only
  repeat' first
    | with_reducible assumption
    | (split <;> (rename_i heq; simp only [Prod.ext_iff] at heq; first | obtain ⟨rfl, rfl, rfl, rfl⟩ := heq | obtain ⟨rfl, rfl, rfl⟩ := heq | obtain ⟨rfl, rfl⟩ := heq | obtain ⟨_, rfl⟩ := heq | obtain ⟨_, _, rfl⟩ := heq))
    | split | with_reducible apply State.setStage_keeps | with_reducible apply State.meet_keeps | with_reducible apply State.arrival_keeps
    | with_reducible apply State.endCopy_keeps | with_reducible apply State.endColl_keeps | with_reducible apply foldl_keeps
    | with_reducible apply foldl_keeps2 | with_reducible apply foldl_keeps3 | (intro; try dsimp only)

theorem State.dropHeld_keeps (s : State) (d : Nat) (h : s0.Keeps s) :
    s0.Keeps (State.dropHeld s d) := by
  unfold State.dropHeld
  try dsimp only
  repeat' first
    | with_reducible assumption
    | split
    | with_reducible apply State.routeDrop_keeps
    | with_reducible apply foldl_keeps
    | (intro; try dsimp only)

theorem State.dropForwarded_keeps (s : State) (p : Peer) (h : s0.Keeps s) :
    s0.Keeps (State.dropForwarded s p) := by
  unfold State.dropForwarded
  try dsimp only
  repeat' first
    | with_reducible assumption
    | split
    | with_reducible apply State.routeDrop_keeps
    | with_reducible apply foldl_keeps
    | (intro; try dsimp only)

theorem State.losePeer_keeps (s : State) (d : Nat) (cause : Nat) (h : s0.Keeps s) :
    s0.Keeps (State.losePeer s d cause) := by
  unfold State.losePeer
  try dsimp only
  repeat' first
    | with_reducible assumption
    | (split <;> (rename_i heq; simp only [Prod.ext_iff] at heq; first | obtain ⟨rfl, rfl, rfl, rfl⟩ := heq | obtain ⟨rfl, rfl, rfl⟩ := heq | obtain ⟨rfl, rfl⟩ := heq | obtain ⟨_, rfl⟩ := heq | obtain ⟨_, _, rfl⟩ := heq))
    | split | with_reducible apply State.tick1_keeps | with_reducible apply State.log_keeps | with_reducible apply State.setPeer_keeps
    | with_reducible apply State.serveWaiting_keeps | with_reducible apply State.loseStages_keeps
    | with_reducible apply State.dropHeld_keeps | with_reducible apply State.dropForwarded_keeps | (intro; try dsimp only)

theorem State.freePort_keeps (s : State) (port d : Nat) (h : s0.Keeps s) : s0.Keeps (State.freePort s port d) :=
  h

theorem State.refuseHello_keeps (s : State) (port : Nat) (b : List Byte) (h : s0.Keeps s) :
    s0.Keeps (State.refuseHello s port b) := by
  unfold State.refuseHello
  try dsimp only
  repeat' first
    | with_reducible assumption
    | split
    | with_reducible apply State.setPort_keeps
    | with_reducible apply State.freePort_keeps
    | (intro; try dsimp only)

theorem State.takeHello_keeps (s : State) (port d : Nat) (b : List Byte) (h : s0.Keeps s) : s0.Keeps (s.takeHello port d b) := by
  unfold State.takeHello
  extract_lets
  have h1 : ∀ x w, s0.Keeps (if w = true then s.setPort port x else (s.setPort port x).log 0x0205 port (d + 2 ^ 63)) := by
    intro x w; split
    · exact h
    · exact State.log_keeps _ _ _ _ _ h
  have h2 : ∀ (t : State) (c : Prop) [Decidable c], s0.Keeps t → s0.Keeps (if c then t.losePeer d 3 else t) := by
    intro t c _ ht; split
    · exact State.losePeer_keeps _ _ _ ht
    · exact ht
  split
  · exact State.keepCtrl_keeps _ _ (State.freePort_keeps _ _ _ (h2 _ _ (h1 _ _)))
  · split
    · exact State.makePresent_keeps _ _ (State.setPeer_keeps _ _ _ (State.keepCtrl_keeps _ _ (State.freePort_keeps _ _ _ (h2 _ _ (h1 _ _)))))
    · exact State.setPeer_keeps _ _ _ (State.setPeer_keeps _ _ _ (State.keepCtrl_keeps _ _ (State.freePort_keeps _ _ _ (h2 _ _ (h1 _ _)))))

theorem execHello_keeps (port : Nat) (src : Nat) (body : List Byte) (s : State) (h : s0.Keeps s) :
    ∀ t, execHello port src body s = .next t → s0.Keeps t := by
  intro t ht
  unfold execHello answer at ht
  injection ht with ht
  subst ht
  apply State.settle_keeps _ _ h
  try dsimp only
  repeat' first
    | with_reducible assumption
    | (split <;> (rename_i heq; simp only [Prod.ext_iff] at heq; first | obtain ⟨rfl, rfl, rfl, rfl⟩ := heq | obtain ⟨rfl, rfl, rfl⟩ := heq | obtain ⟨rfl, rfl⟩ := heq | obtain ⟨_, rfl⟩ := heq | obtain ⟨_, _, rfl⟩ := heq))
    | split | with_reducible apply State.tick1_keeps | with_reducible apply State.setPort_keeps
    | with_reducible apply State.log_keeps | with_reducible apply State.takeHello_keeps
    | with_reducible apply State.refuseHello_keeps

theorem execDupDevidExpiry_keeps (s : State) (h : s0.Keeps s) :
    ∀ t, execDupDevidExpiry s = .next t → s0.Keeps t := by
  intro t ht
  unfold execDupDevidExpiry answer at ht
  injection ht with ht
  subst ht
  apply State.settle_keeps _ _ h
  try dsimp only
  repeat' first
    | with_reducible assumption

theorem execLeave_keeps (src : Nat) (s : State) (h : s0.Keeps s) :
    ∀ t, execLeave src s = .next t → s0.Keeps t := by
  intro t ht
  unfold execLeave answer at ht
  injection ht with ht
  subst ht
  apply State.settle_keeps _ _ h
  try dsimp only
  repeat' first
    | with_reducible assumption | with_reducible apply State.losePeer_keeps

theorem execPeerTimeout_keeps (peer : Nat) (s : State) (h : s0.Keeps s) :
    ∀ t, execPeerTimeout peer s = .next t → s0.Keeps t := by
  intro t ht
  unfold execPeerTimeout answer at ht
  injection ht with ht
  subst ht
  apply State.settle_keeps _ _ h
  try dsimp only
  repeat' first
    | with_reducible assumption | split | with_reducible apply State.losePeer_keeps

theorem execRetrainGraceExpiry_keeps (peer : Nat) (s : State) (h : s0.Keeps s) :
    ∀ t, execRetrainGraceExpiry peer s = .next t → s0.Keeps t := by
  intro t ht
  unfold execRetrainGraceExpiry answer at ht
  injection ht with ht
  subst ht
  apply State.settle_keeps _ _ h
  try dsimp only
  repeat' first
    | with_reducible assumption | split | with_reducible apply State.losePeer_keeps
    | with_reducible apply State.dropHeld_keeps

theorem execPeerAbsentTimeout_keeps (peer : Nat) (s : State) (h : s0.Keeps s) :
    ∀ t, execPeerAbsentTimeout peer s = .next t → s0.Keeps t := by
  intro t ht
  unfold execPeerAbsentTimeout answer at ht
  injection ht with ht
  subst ht
  apply State.settle_keeps _ _ h
  try dsimp only
  repeat' first
    | with_reducible assumption | split | with_reducible apply State.setPeer_keeps

theorem execTimeExchangeTimer_keeps (s : State) (h : s0.Keeps s) :
    ∀ t, execTimeExchangeTimer s = .next t → s0.Keeps t := by
  intro t ht
  unfold execTimeExchangeTimer answer at ht
  injection ht with ht
  subst ht
  apply State.settle_keeps _ _ h
  try dsimp only
  repeat' first
    | with_reducible assumption | with_reducible apply State.sendMsg_keeps | with_reducible apply foldl_keeps
    | (intro; try dsimp only)

theorem State.followTime_keeps (s : State) (theirs : Nat) (h : s0.Keeps s) :
    s0.Keeps (State.followTime s theirs) := by
  unfold State.followTime
  try dsimp only
  repeat' first
    | with_reducible assumption | split

theorem execTime_keeps (src : Nat) (body : List Byte) (s : State) (h : s0.Keeps s) :
    ∀ t, execTime src body s = .next t → s0.Keeps t := by
  intro t ht
  unfold execTime answer at ht
  injection ht with ht
  subst ht
  apply State.settle_keeps _ _ h
  try dsimp only
  repeat' first
    | with_reducible assumption | split | with_reducible apply State.onMsg_keeps | with_reducible apply State.followTime_keeps
    | with_reducible apply State.setPeer_keeps | (intro; try dsimp only)

theorem execRouteDrop_keeps (src : Nat) (body : List Byte) (s : State) (h : s0.Keeps s) :
    ∀ t, execRouteDrop src body s = .next t → s0.Keeps t := by
  intro t ht
  unfold execRouteDrop answer at ht
  injection ht with ht
  subst ht
  apply State.settle_keeps _ _ h
  try dsimp only
  repeat' first
    | with_reducible assumption | with_reducible apply State.onMsg_keeps | (intro; try dsimp only)

end Sys2Proof.Machine
end

