-- ==== Sys2Proof/Laws/KeepMedia.lean ====
section
/-!
SUPPORT. What the operations and commands of ingest, video, paced output and the start and end of stages keep: the memory tiers in order, the fuses only burnt
further, the record of messages only longer, the queue of commands as it was. One lemma for each definition of Machine/.
-/
namespace Sys2Proof.Machine

variable {s0 : State}

/-! ### VideoStream -/

theorem State.holdFrame_keeps (s : State) (slot : Nat) (f : Nat) (h : s0.Keeps s) :
    s0.Keeps (State.holdFrame s slot f) := by
  unfold State.holdFrame
  try dsimp only
  repeat' first
    | with_reducible assumption
    | (split <;> (rename_i heq; simp only [Prod.ext_iff] at heq; first | obtain ⟨rfl, rfl, rfl, rfl⟩ := heq | obtain ⟨rfl, rfl, rfl⟩ := heq | obtain ⟨rfl, rfl⟩ := heq | obtain ⟨_, rfl⟩ := heq | obtain ⟨_, _, rfl⟩ := heq))
    | split

theorem State.releaseHold_keeps (s : State) (slot : Nat) (gen : Word32) (f : Nat) (num : Nat) (h : s0.Keeps s) :
    s0.Keeps (State.releaseHold s slot gen f num) := by
  unfold State.releaseHold
  try dsimp only
  repeat' first
    | with_reducible assumption
    | (split <;> (rename_i heq; simp only [Prod.ext_iff] at heq; first | obtain ⟨rfl, rfl, rfl, rfl⟩ := heq | obtain ⟨rfl, rfl, rfl⟩ := heq | obtain ⟨rfl, rfl⟩ := heq | obtain ⟨_, rfl⟩ := heq | obtain ⟨_, _, rfl⟩ := heq))
    | split | (intro; try dsimp only)

theorem State.writeHead_keeps (s : State) (who : Requester) (record : Nat) (handle : Nat) (count : Nat) (units : Nat) (bytes : Nat) (h : s0.Keeps s) :
    s0.Keeps (State.writeHead s who record handle count units bytes) := by
  unfold State.writeHead
  try dsimp only
  repeat' first
    | with_reducible assumption | with_reducible apply State.writeFor_keeps

theorem State.writeEnt_keeps (s : State) (who : Requester) (record : Nat) (p : Nat) (b : List Byte) (h : s0.Keeps s) :
    s0.Keeps (State.writeEnt s who record p b) := by
  unfold State.writeEnt
  try dsimp only
  repeat' first
    | with_reducible assumption | with_reducible apply State.writeFor_keeps

theorem State.endVdec_keeps (s : State) (n : Nat) (slot : Nat) (st : Stage) (own : Nat) (h : s0.Keeps s) :
    s0.Keeps (State.endVdec s n slot st own) := by
  unfold State.endVdec
  try dsimp only
  repeat' first
    | with_reducible assumption
    | (split <;> (rename_i heq; simp only [Prod.ext_iff] at heq; first | obtain ⟨rfl, rfl, rfl, rfl⟩ := heq | obtain ⟨rfl, rfl, rfl⟩ := heq | obtain ⟨rfl, rfl⟩ := heq | obtain ⟨_, rfl⟩ := heq | obtain ⟨_, _, rfl⟩ := heq))
    | split | with_reducible apply State.finishWorst_keeps | with_reducible apply State.writeHead_keeps

theorem State.endDecode_keeps (s : State) (n : Nat) (own : Nat) (h : s0.Keeps s) :
    s0.Keeps (State.endDecode s n own) := by
  unfold State.endDecode
  try dsimp only
  repeat' first
    | with_reducible assumption
    | (split <;> (rename_i heq; simp only [Prod.ext_iff] at heq; first | obtain ⟨rfl, rfl, rfl, rfl⟩ := heq | obtain ⟨rfl, rfl, rfl⟩ := heq | obtain ⟨rfl, rfl⟩ := heq | obtain ⟨_, rfl⟩ := heq | obtain ⟨_, _, rfl⟩ := heq))
    | split | with_reducible apply State.bump_keeps | with_reducible apply State.endVdec_keeps

theorem State.frameBytes_keeps (s : State) (n : Nat) (x : DecStream) (f : Nat) (h : s0.Keeps s) :
    s0.Keeps (State.frameBytes s n x f).2 := by
  unfold State.frameBytes
  try dsimp only
  repeat' first
    | with_reducible assumption
    | (split <;> (rename_i heq; simp only [Prod.ext_iff] at heq; first | obtain ⟨rfl, rfl, rfl, rfl⟩ := heq | obtain ⟨rfl, rfl, rfl⟩ := heq | obtain ⟨rfl, rfl⟩ := heq | obtain ⟨_, rfl⟩ := heq | obtain ⟨_, _, rfl⟩ := heq))
    | split | with_reducible apply State.innerRead_keeps | with_reducible apply foldl_keeps | with_reducible apply foldl_keeps2
    | with_reducible apply foldl_keeps3 | (intro; try dsimp only)

theorem State.codePicture_keeps (s : State) (n : Nat) (r : DecRun) (x : DecStream) (f : Nat) (h : s0.Keeps s) :
    s0.Keeps (State.codePicture s n r x f).2 := by
  unfold State.codePicture
  try dsimp only
  repeat' first
    | with_reducible assumption
    | (split <;> (rename_i heq; simp only [Prod.ext_iff] at heq; first | obtain ⟨rfl, rfl, rfl, rfl⟩ := heq | obtain ⟨rfl, rfl, rfl⟩ := heq | obtain ⟨rfl, rfl⟩ := heq | obtain ⟨_, rfl⟩ := heq | obtain ⟨_, _, rfl⟩ := heq))
    | split | with_reducible apply State.writeRaw_keeps | with_reducible apply State.frameBytes_keeps | with_reducible apply foldl_keeps
    | with_reducible apply foldl_keeps2 | with_reducible apply foldl_keeps3 | (intro; try dsimp only)

theorem State.codePictures_keeps (s : State) (n k : Nat) (r : DecRun) (x : DecStream) (h : s0.Keeps s) :
    s0.Keeps (s.codePictures n k r x).2.2 := by
  induction k generalizing s r x with
  | zero => exact h
  | succ k ih =>
    unfold State.codePictures
    dsimp only
    split
    · exact h
    · split
      · exact h
      · exact ih _ _ _ (State.codePicture_keeps s _ _ _ _ h)

theorem State.takeUnit_keeps (s : State) (n : Nat) (r : DecRun) (h : s0.Keeps s) :
    s0.Keeps (State.takeUnit s n r).2 := by
  unfold State.takeUnit
  try dsimp only
  repeat' first
    | with_reducible assumption
    | (split <;> (rename_i heq; simp only [Prod.ext_iff] at heq; first | obtain ⟨rfl, rfl, rfl, rfl⟩ := heq | obtain ⟨rfl, rfl, rfl⟩ := heq | obtain ⟨rfl, rfl⟩ := heq | obtain ⟨_, rfl⟩ := heq | obtain ⟨_, _, rfl⟩ := heq))
    | split | with_reducible apply State.bump_keeps | with_reducible apply State.readElems_keeps | with_reducible apply State.knock_keeps
    | with_reducible apply State.endDecode_keeps | with_reducible apply State.codePictures_keeps | (intro; try dsimp only)

theorem State.serveDec_keeps (s : State) (g n : Nat) (h : s0.Keeps s) : s0.Keeps (s.serveDec g n) := by
  induction n generalizing s with
  | zero => exact h
  | succ n ih =>
    have hq : ∀ q : List (Nat × DecRun), s0.Keeps (q.foldl (fun (acc : Bool × State) p =>
        if acc.1 then acc else acc.2.takeUnit p.1 p.2) (false, s)).2 := by
      intro q
      apply foldl_keeps2 _ _ _ _ h
      intro acc p ha
      split
      · exact ha
      · exact State.takeUnit_keeps _ _ _ ha
    unfold State.serveDec
    dsimp only
    split
    · exact h
    · split
      · exact ih _ (hq _)
      · exact hq _

theorem State.serveAll_keeps (s : State) (h : s0.Keeps s) :
    s0.Keeps (State.serveAll s) := by
  unfold State.serveAll
  try dsimp only
  repeat' first
    | with_reducible assumption | with_reducible apply State.serveDec_keeps | with_reducible apply foldl_keeps
    | (intro; try dsimp only)

/-! ### Ingest -/

theorem State.putIng_keeps (s : State) (n : Nat) (r : IngRun) (h : s0.Keeps s) :
    s0.Keeps (State.putIng s n r) :=
  h

theorem State.setEntry_keeps (s : State) (n : Nat) (i : Nat) (e : IngEntry) (h : s0.Keeps s) :
    s0.Keeps (State.setEntry s n i e) := by
  unfold State.setEntry
  try dsimp only
  repeat' first
    | with_reducible assumption
    | (split <;> (rename_i heq; simp only [Prod.ext_iff] at heq; first | obtain ⟨rfl, rfl, rfl, rfl⟩ := heq | obtain ⟨rfl, rfl, rfl⟩ := heq | obtain ⟨rfl, rfl⟩ := heq | obtain ⟨_, rfl⟩ := heq | obtain ⟨_, _, rfl⟩ := heq))
    | split | with_reducible apply State.putIng_keeps

theorem State.assignEngines_keeps (s : State) (h : s0.Keeps s) :
    s0.Keeps (State.assignEngines s) := by
  unfold State.assignEngines
  try dsimp only
  repeat' first
    | with_reducible assumption
    | (split <;> (rename_i heq; simp only [Prod.ext_iff] at heq; first | obtain ⟨rfl, rfl, rfl, rfl⟩ := heq | obtain ⟨rfl, rfl, rfl⟩ := heq | obtain ⟨rfl, rfl⟩ := heq | obtain ⟨_, rfl⟩ := heq | obtain ⟨_, _, rfl⟩ := heq))
    | split | with_reducible apply State.knock_keeps | with_reducible apply State.setEntry_keeps
    | with_reducible apply foldl_keeps | (intro; try dsimp only)

theorem State.readyEntry_keeps (s : State) (n : Nat) (i : Nat) (e : IngEntry) (h : s0.Keeps s) :
    s0.Keeps (State.readyEntry s n i e) := by
  unfold State.readyEntry
  try dsimp only
  repeat' first
    | with_reducible assumption | with_reducible apply State.bump_keeps | with_reducible apply State.setEntry_keeps

theorem State.lookDecoded_keeps (s : State) (n : Nat) (i : Nat) (e : IngEntry) (h : s0.Keeps s) :
    s0.Keeps (State.lookDecoded s n i e) := by
  unfold State.lookDecoded
  try dsimp only
  repeat' first
    | with_reducible assumption
    | (split <;> (rename_i heq; simp only [Prod.ext_iff] at heq; first | obtain ⟨rfl, rfl, rfl, rfl⟩ := heq | obtain ⟨rfl, rfl, rfl⟩ := heq | obtain ⟨rfl, rfl⟩ := heq | obtain ⟨_, rfl⟩ := heq | obtain ⟨_, _, rfl⟩ := heq))
    | split | with_reducible apply State.readyEntry_keeps | with_reducible apply State.holdFrame_keeps

theorem State.lookAll_keeps (s : State) (h : s0.Keeps s) :
    s0.Keeps (State.lookAll s) := by
  unfold State.lookAll
  try dsimp only
  repeat' first
    | with_reducible assumption
    | (split <;> (rename_i heq; simp only [Prod.ext_iff] at heq; first | obtain ⟨rfl, rfl, rfl, rfl⟩ := heq | obtain ⟨rfl, rfl, rfl⟩ := heq | obtain ⟨rfl, rfl⟩ := heq | obtain ⟨_, rfl⟩ := heq | obtain ⟨_, _, rfl⟩ := heq))
    | split | with_reducible apply State.assignEngines_keeps | with_reducible apply State.lookDecoded_keeps
    | with_reducible apply foldl_keeps | (intro; try dsimp only)

theorem State.missAll_keeps (s : State) (hh : Nat) (h : s0.Keeps s) :
    s0.Keeps (State.missAll s hh) := by
  unfold State.missAll
  try dsimp only
  repeat' first
    | with_reducible assumption
    | (split <;> (rename_i heq; simp only [Prod.ext_iff] at heq; first | obtain ⟨rfl, rfl, rfl, rfl⟩ := heq | obtain ⟨rfl, rfl, rfl⟩ := heq | obtain ⟨rfl, rfl⟩ := heq | obtain ⟨_, rfl⟩ := heq | obtain ⟨_, _, rfl⟩ := heq))
    | split | with_reducible apply State.assignEngines_keeps | with_reducible apply State.readyEntry_keeps
    | with_reducible apply foldl_keeps | (intro; try dsimp only)

theorem State.beginEntry_keeps (s : State) (n : Nat) (st : Stage) (tab : List Byte) (i : Nat) (h : s0.Keeps s) :
    s0.Keeps (State.beginEntry s n st tab i) := by
  unfold State.beginEntry
  try dsimp only
  repeat' first
    | with_reducible assumption
    | (split <;> (rename_i heq; simp only [Prod.ext_iff] at heq; first | obtain ⟨rfl, rfl, rfl, rfl⟩ := heq | obtain ⟨rfl, rfl, rfl⟩ := heq | obtain ⟨rfl, rfl⟩ := heq | obtain ⟨_, rfl⟩ := heq | obtain ⟨_, _, rfl⟩ := heq))
    | split | with_reducible apply State.readyEntry_keeps | with_reducible apply State.lookDecoded_keeps

theorem execIngestStart_keeps (slot : Nat) (s : State) (h : s0.Keeps s) :
    ∀ t, execIngestStart slot s = .next t → s0.Keeps t := by
  intro t ht
  unfold execIngestStart answer at ht
  injection ht with ht
  subst ht
  apply State.settle_keeps _ _ h
  try dsimp only
  repeat' first
    | with_reducible assumption
    | (split <;> (rename_i heq; simp only [Prod.ext_iff] at heq; first | obtain ⟨rfl, rfl, rfl, rfl⟩ := heq | obtain ⟨rfl, rfl, rfl⟩ := heq | obtain ⟨rfl, rfl⟩ := heq | obtain ⟨_, rfl⟩ := heq | obtain ⟨_, _, rfl⟩ := heq))
    | split | with_reducible apply State.readFor_keeps | with_reducible apply State.finishWorst_keeps
    | with_reducible apply State.deny_keeps | with_reducible apply State.putIng_keeps
    | with_reducible apply State.assignEngines_keeps | with_reducible apply State.beginEntry_keeps
    | with_reducible apply foldl_keeps | (intro; try dsimp only)

theorem State.writeCons_keeps (s : State) (who : Requester) (q : Nat) (cons : Nat) (h : s0.Keeps s) :
    s0.Keeps (State.writeCons s who q cons) := by
  unfold State.writeCons
  try dsimp only
  repeat' first
    | with_reducible assumption | with_reducible apply State.writeFor_keeps

theorem State.takeFrame_keeps (s : State) (n i : Nat) (st : Stage) (tab : List Byte) (q : Nat) (hd : Nat × Nat × Nat) (fuel : Nat)
    (e : IngEntry) (h : s0.Keeps s) : s0.Keeps (s.takeFrame n i st tab q hd fuel e) := by
  induction fuel generalizing s e with
  | zero => exact State.setEntry_keeps _ _ _ _ h
  | succ fuel ih =>
    unfold State.takeFrame
    dsimp only
    repeat' first
      | with_reducible assumption
      | split
      | with_reducible apply ih
      | with_reducible apply State.setEntry_keeps
      | with_reducible apply State.readyEntry_keeps
      | with_reducible apply State.writeCons_keeps
      | with_reducible apply State.tick1_keeps
      | with_reducible apply State.meet_keeps
      | with_reducible apply State.ctrlRead_keeps
      | with_reducible apply State.readFor_keeps

theorem State.pollQueue_keeps (s : State) (slot : Nat) (entry : Nat) (h : s0.Keeps s) :
    s0.Keeps (State.pollQueue s slot entry) := by
  unfold State.pollQueue
  try dsimp only
  repeat' first
    | with_reducible assumption
    | (split <;> (rename_i heq; simp only [Prod.ext_iff] at heq; first | obtain ⟨rfl, rfl, rfl, rfl⟩ := heq | obtain ⟨rfl, rfl, rfl⟩ := heq | obtain ⟨rfl, rfl⟩ := heq | obtain ⟨_, rfl⟩ := heq | obtain ⟨_, _, rfl⟩ := heq))
    | split | with_reducible apply State.meet_keeps | with_reducible apply State.ctrlRead_keeps
    | with_reducible apply State.readyEntry_keeps | with_reducible apply State.takeFrame_keeps

theorem execLiveQueuePoll_keeps (slot : Nat) (entry : Nat) (s : State) (h : s0.Keeps s) :
    ∀ t, execLiveQueuePoll slot entry s = .next t → s0.Keeps t := by
  intro t ht
  unfold execLiveQueuePoll answer at ht
  injection ht with ht
  subst ht
  apply State.settle_keeps _ _ h
  try dsimp only
  repeat' first
    | with_reducible assumption | with_reducible apply State.assignEngines_keeps | with_reducible apply State.pollQueue_keeps

theorem execIngestWaitTimeout_keeps (slot : Nat) (entry : Nat) (s : State) (h : s0.Keeps s) :
    ∀ t, execIngestWaitTimeout slot entry s = .next t → s0.Keeps t := by
  intro t ht
  unfold execIngestWaitTimeout answer at ht
  injection ht with ht
  subst ht
  apply State.settle_keeps _ _ h
  try dsimp only
  repeat' first
    | with_reducible assumption
    | (split <;> (rename_i heq; simp only [Prod.ext_iff] at heq; first | obtain ⟨rfl, rfl, rfl, rfl⟩ := heq | obtain ⟨rfl, rfl, rfl⟩ := heq | obtain ⟨rfl, rfl⟩ := heq | obtain ⟨_, rfl⟩ := heq | obtain ⟨_, _, rfl⟩ := heq))
    | split | with_reducible apply State.assignEngines_keeps | with_reducible apply State.readyEntry_keeps
    | with_reducible apply State.pollQueue_keeps | (intro; try dsimp only)

theorem State.writeFrame_keeps (s : State) (n : Nat) (st : Stage) (e : List Byte) (tab : List Byte) (p : Option Pix) (h : s0.Keeps s) :
    s0.Keeps (State.writeFrame s n st e tab p) := by
  unfold State.writeFrame
  try dsimp only
  repeat' first
    | with_reducible assumption
    | (split <;> (rename_i heq; simp only [Prod.ext_iff] at heq; first | obtain ⟨rfl, rfl, rfl, rfl⟩ := heq | obtain ⟨rfl, rfl, rfl⟩ := heq | obtain ⟨rfl, rfl⟩ := heq | obtain ⟨_, rfl⟩ := heq | obtain ⟨_, _, rfl⟩ := heq))
    | split | with_reducible apply State.raise_keeps | with_reducible apply State.writeElems_keeps
    | with_reducible apply State.bump_keeps | with_reducible apply foldl_keeps | (intro; try dsimp only)

theorem State.writeRec_keeps (s : State) (n : Nat) (st : Stage) (tab : List Byte) (i : Nat) (e : IngEntry) (outcome : Nat) (h : s0.Keeps s) :
    s0.Keeps (State.writeRec s n st tab i e outcome) := by
  unfold State.writeRec
  try dsimp only
  repeat' first
    | with_reducible assumption | split | with_reducible apply State.writeFor_keeps

theorem State.readFrame_keeps (s : State) (n : Nat) (st : Stage) (e : IngEntry) (h : s0.Keeps s) :
    s0.Keeps (State.readFrame s n st e).2.2 := by
  unfold State.readFrame
  try dsimp only
  repeat' first
    | with_reducible assumption | split | with_reducible apply State.deny_keeps | with_reducible apply State.ctrlRead_keeps

theorem State.countOutcome_keeps (s : State) (o : Nat) (h : s0.Keeps s) :
    s0.Keeps (State.countOutcome s o) := by
  unfold State.countOutcome
  try dsimp only
  repeat' first
    | with_reducible assumption
    | (split <;> (rename_i heq; simp only [Prod.ext_iff] at heq; first | obtain ⟨rfl, rfl, rfl, rfl⟩ := heq | obtain ⟨rfl, rfl, rfl⟩ := heq | obtain ⟨rfl, rfl⟩ := heq | obtain ⟨_, rfl⟩ := heq | obtain ⟨_, _, rfl⟩ := heq))
    | split | with_reducible apply State.tick1_keeps

theorem State.endEntry_keeps (s : State) (n : Nat) (i : Nat) (st : Stage) (tab : List Byte) (e : IngEntry) (h : s0.Keeps s) :
    s0.Keeps (State.endEntry s n i st tab e) := by
  unfold State.endEntry
  try dsimp only
  repeat' first
    | with_reducible assumption
    | (split <;> (rename_i heq; simp only [Prod.ext_iff] at heq; first | obtain ⟨rfl, rfl, rfl, rfl⟩ := heq | obtain ⟨rfl, rfl, rfl⟩ := heq | obtain ⟨rfl, rfl⟩ := heq | obtain ⟨_, rfl⟩ := heq | obtain ⟨_, _, rfl⟩ := heq))
    | split | with_reducible apply State.readFrame_keeps | with_reducible apply State.meet_keeps
    | with_reducible apply State.readFor_keeps | with_reducible apply State.writeCons_keeps
    | with_reducible apply State.releaseHold_keeps | with_reducible apply State.writeFrame_keeps
    | with_reducible apply State.writeRec_keeps | with_reducible apply State.countOutcome_keeps
    | with_reducible apply State.setEntry_keeps

theorem execIngestEntryComplete_keeps (slot : Nat) (entry : Nat) (s : State) (h : s0.Keeps s) :
    ∀ t, execIngestEntryComplete slot entry s = .next t → s0.Keeps t := by
  intro t ht
  unfold execIngestEntryComplete answer at ht
  injection ht with ht
  subst ht
  apply State.settle_keeps _ _ h
  try dsimp only
  repeat' first
    | with_reducible assumption
    | (split <;> (rename_i heq; simp only [Prod.ext_iff] at heq; first | obtain ⟨rfl, rfl, rfl, rfl⟩ := heq | obtain ⟨rfl, rfl, rfl⟩ := heq | obtain ⟨rfl, rfl⟩ := heq | obtain ⟨_, rfl⟩ := heq | obtain ⟨_, _, rfl⟩ := heq))
    | split | with_reducible apply State.lookAll_keeps | with_reducible apply State.serveAll_keeps
    | with_reducible apply State.endEntry_keeps

theorem State.zeroInvalid_keeps (s : State) (n : Nat) (st : Stage) (r : IngRun) (h : s0.Keeps s) :
    s0.Keeps (State.zeroInvalid s n st r) := by
  unfold State.zeroInvalid
  try dsimp only
  repeat' first
    | with_reducible assumption | split | with_reducible apply State.writeRec_keeps
    | with_reducible apply State.writeFrame_keeps | with_reducible apply foldl_keeps | (intro; try dsimp only)

theorem State.writeMask_keeps (s : State) (n : Nat) (st : Stage) (r : IngRun) (h : s0.Keeps s) :
    s0.Keeps (State.writeMask s n st r) := by
  unfold State.writeMask
  try dsimp only
  repeat' first
    | with_reducible assumption | split | with_reducible apply State.writeFor_keeps

theorem State.endIngest_keeps (s : State) (n : Nat) (own : Nat) (h : s0.Keeps s) :
    s0.Keeps (State.endIngest s n own) := by
  unfold State.endIngest
  try dsimp only
  repeat' first
    | with_reducible assumption | with_reducible apply State.releaseHold_keeps | with_reducible apply State.finishWorst_keeps
    | with_reducible apply foldl_keeps | (intro; try dsimp only)

theorem execIngestComplete_keeps (slot : Nat) (s : State) (h : s0.Keeps s) :
    ∀ t, execIngestComplete slot s = .next t → s0.Keeps t := by
  intro t ht
  unfold execIngestComplete answer at ht
  injection ht with ht
  subst ht
  apply State.settle_keeps _ _ h
  try dsimp only
  repeat' first
    | with_reducible assumption
    | (split <;> (rename_i heq; simp only [Prod.ext_iff] at heq; first | obtain ⟨rfl, rfl, rfl, rfl⟩ := heq | obtain ⟨rfl, rfl, rfl⟩ := heq | obtain ⟨rfl, rfl⟩ := heq | obtain ⟨_, rfl⟩ := heq | obtain ⟨_, _, rfl⟩ := heq))
    | split | with_reducible apply State.lookAll_keeps | with_reducible apply State.serveAll_keeps
    | with_reducible apply State.endIngest_keeps | with_reducible apply State.writeMask_keeps
    | with_reducible apply State.zeroInvalid_keeps

theorem State.pyrSource_keeps (s : State) (n : Nat) (st : Stage) (h : s0.Keeps s) :
    s0.Keeps (State.pyrSource s n st).2 := by
  unfold State.pyrSource
  try dsimp only
  repeat' first
    | with_reducible assumption
    | (split <;> (rename_i heq; simp only [Prod.ext_iff] at heq; first | obtain ⟨rfl, rfl, rfl, rfl⟩ := heq | obtain ⟨rfl, rfl, rfl⟩ := heq | obtain ⟨rfl, rfl⟩ := heq | obtain ⟨_, rfl⟩ := heq | obtain ⟨_, _, rfl⟩ := heq))
    | with_reducible apply State.readElems_keeps | with_reducible apply foldl_keeps2 | (intro; try dsimp only)

theorem execPyramidStart_keeps (slot : Nat) (s : State) (h : s0.Keeps s) :
    ∀ t, execPyramidStart slot s = .next t → s0.Keeps t := by
  intro t ht
  unfold execPyramidStart answer at ht
  injection ht with ht
  subst ht
  apply State.settle_keeps _ _ h
  try dsimp only
  repeat' first
    | with_reducible assumption
    | (split <;> (rename_i heq; simp only [Prod.ext_iff] at heq; first | obtain ⟨rfl, rfl, rfl, rfl⟩ := heq | obtain ⟨rfl, rfl, rfl⟩ := heq | obtain ⟨rfl, rfl⟩ := heq | obtain ⟨_, rfl⟩ := heq | obtain ⟨_, _, rfl⟩ := heq))
    | split | with_reducible apply State.knock_keeps | (intro; try dsimp only)

theorem State.writeLevel_keeps (s : State) (n : Nat) (st : Stage) (o : TDesc) (vs : List Fp) (h : s0.Keeps s) :
    s0.Keeps (State.writeLevel s n st o vs) := by
  unfold State.writeLevel
  try dsimp only
  repeat' first
    | with_reducible assumption
    | (split <;> (rename_i heq; simp only [Prod.ext_iff] at heq; first | obtain ⟨rfl, rfl, rfl, rfl⟩ := heq | obtain ⟨rfl, rfl, rfl⟩ := heq | obtain ⟨rfl, rfl⟩ := heq | obtain ⟨_, rfl⟩ := heq | obtain ⟨_, _, rfl⟩ := heq))
    | split | with_reducible apply State.raise_keeps | with_reducible apply State.writeElems_keeps
    | with_reducible apply foldl_keeps | (intro; try dsimp only)

theorem State.endPyramid_keeps (s : State) (n : Nat) (own : Nat) (h : s0.Keeps s) :
    s0.Keeps (State.endPyramid s n own) := by
  unfold State.endPyramid
  try dsimp only
  repeat' first
    | with_reducible assumption | with_reducible apply State.finishWorst_keeps

theorem execPyramidLevelComplete_keeps (slot : Nat) (s : State) (h : s0.Keeps s) :
    ∀ t, execPyramidLevelComplete slot s = .next t → s0.Keeps t := by
  intro t ht
  unfold execPyramidLevelComplete answer at ht
  injection ht with ht
  subst ht
  apply State.settle_keeps _ _ h
  try dsimp only
  repeat' first
    | with_reducible assumption
    | (split <;> (rename_i heq; simp only [Prod.ext_iff] at heq; first | obtain ⟨rfl, rfl, rfl, rfl⟩ := heq | obtain ⟨rfl, rfl, rfl⟩ := heq | obtain ⟨rfl, rfl⟩ := heq | obtain ⟨_, rfl⟩ := heq | obtain ⟨_, _, rfl⟩ := heq))
    | split | with_reducible apply State.pyrSource_keeps | with_reducible apply State.bump_keeps
    | with_reducible apply State.writeLevel_keeps | with_reducible apply State.raise_keeps
    | with_reducible apply State.endPyramid_keeps | with_reducible apply foldl_keeps | (intro; try dsimp only)

/-! ### Video -/

theorem State.newRecord_keeps (s : State) (who : Requester) (record : Nat) (handle : Nat) (h : s0.Keeps s) :
    s0.Keeps (State.newRecord s who record handle) := by
  unfold State.newRecord
  try dsimp only
  repeat' first
    | with_reducible assumption | with_reducible apply State.writeHead_keeps | with_reducible apply State.writeFor_keeps

theorem execVdecOpen_keeps (slot : Nat) (s : State) (h : s0.Keeps s) :
    ∀ t, execVdecOpen slot s = .next t → s0.Keeps t := by
  intro t ht
  unfold execVdecOpen answer at ht
  injection ht with ht
  subst ht
  apply State.settle_keeps _ _ h
  try dsimp only
  repeat' first
    | with_reducible assumption
    | (split <;> (rename_i heq; simp only [Prod.ext_iff] at heq; first | obtain ⟨rfl, rfl, rfl, rfl⟩ := heq | obtain ⟨rfl, rfl, rfl⟩ := heq | obtain ⟨rfl, rfl⟩ := heq | obtain ⟨_, rfl⟩ := heq | obtain ⟨_, _, rfl⟩ := heq))
    | split | with_reducible apply State.finishWorst_keeps | with_reducible apply State.newRecord_keeps

theorem execVdecDecode_keeps (slot : Nat) (s : State) (h : s0.Keeps s) :
    ∀ t, execVdecDecode slot s = .next t → s0.Keeps t := by
  intro t ht
  unfold execVdecDecode answer at ht
  injection ht with ht
  subst ht
  apply State.settle_keeps _ _ h
  try dsimp only
  repeat' first
    | with_reducible assumption
    | (split <;> (rename_i heq; simp only [Prod.ext_iff] at heq; first | obtain ⟨rfl, rfl, rfl, rfl⟩ := heq | obtain ⟨rfl, rfl, rfl⟩ := heq | obtain ⟨rfl, rfl⟩ := heq | obtain ⟨_, rfl⟩ := heq | obtain ⟨_, _, rfl⟩ := heq))
    | split | with_reducible apply State.finishWorst_keeps | with_reducible apply State.lookAll_keeps
    | with_reducible apply State.serveAll_keeps

theorem execVdecRelease_keeps (slot : Nat) (s : State) (h : s0.Keeps s) :
    ∀ t, execVdecRelease slot s = .next t → s0.Keeps t := by
  intro t ht
  unfold execVdecRelease answer at ht
  injection ht with ht
  subst ht
  apply State.settle_keeps _ _ h
  try dsimp only
  repeat' first
    | with_reducible assumption
    | (split <;> (rename_i heq; simp only [Prod.ext_iff] at heq; first | obtain ⟨rfl, rfl, rfl, rfl⟩ := heq | obtain ⟨rfl, rfl, rfl⟩ := heq | obtain ⟨rfl, rfl⟩ := heq | obtain ⟨_, rfl⟩ := heq | obtain ⟨_, _, rfl⟩ := heq))
    | split | with_reducible apply State.finishWorst_keeps | with_reducible apply State.lookAll_keeps
    | with_reducible apply State.serveAll_keeps | with_reducible apply State.endVdec_keeps

theorem State.closeDec_keeps (s : State) (i : Nat) (h : s0.Keeps s) :
    s0.Keeps (State.closeDec s i) := by
  unfold State.closeDec
  try dsimp only
  repeat' first
    | with_reducible assumption
    | (split <;> (rename_i heq; simp only [Prod.ext_iff] at heq; first | obtain ⟨rfl, rfl, rfl, rfl⟩ := heq | obtain ⟨rfl, rfl, rfl⟩ := heq | obtain ⟨rfl, rfl⟩ := heq | obtain ⟨_, rfl⟩ := heq | obtain ⟨_, _, rfl⟩ := heq))
    | split | with_reducible apply State.missAll_keeps

theorem execVdecClose_keeps (slot : Nat) (s : State) (h : s0.Keeps s) :
    ∀ t, execVdecClose slot s = .next t → s0.Keeps t := by
  intro t ht
  unfold execVdecClose answer at ht
  injection ht with ht
  subst ht
  apply State.settle_keeps _ _ h
  try dsimp only
  repeat' first
    | with_reducible assumption
    | (split <;> (rename_i heq; simp only [Prod.ext_iff] at heq; first | obtain ⟨rfl, rfl, rfl, rfl⟩ := heq | obtain ⟨rfl, rfl, rfl⟩ := heq | obtain ⟨rfl, rfl⟩ := heq | obtain ⟨_, rfl⟩ := heq | obtain ⟨_, _, rfl⟩ := heq))
    | split | with_reducible apply State.finishWorst_keeps | with_reducible apply State.closeDec_keeps
    | with_reducible apply State.endVdec_keeps

theorem State.outputPicture_keeps (s : State) (n : Nat) (st : Stage) (r : DecRun) (x : DecStream) (h : s0.Keeps s) :
    s0.Keeps (State.outputPicture s n st r x) := by
  unfold State.outputPicture
  try dsimp only
  repeat' first
    | with_reducible assumption | split | with_reducible apply State.writeRaw_keeps | with_reducible apply State.writeEnt_keeps
    | with_reducible apply State.tick1_keeps | with_reducible apply foldl_keeps | (intro; try dsimp only)

theorem execDecodePictureOutput_keeps (slot : Nat) (s : State) (h : s0.Keeps s) :
    ∀ t, execDecodePictureOutput slot s = .next t → s0.Keeps t := by
  intro t ht
  unfold execDecodePictureOutput answer at ht
  injection ht with ht
  subst ht
  apply State.settle_keeps _ _ h
  try dsimp only
  repeat' first
    | with_reducible assumption
    | (split <;> (rename_i heq; simp only [Prod.ext_iff] at heq; first | obtain ⟨rfl, rfl, rfl, rfl⟩ := heq | obtain ⟨rfl, rfl, rfl⟩ := heq | obtain ⟨rfl, rfl⟩ := heq | obtain ⟨_, rfl⟩ := heq | obtain ⟨_, _, rfl⟩ := heq))
    | split | with_reducible apply State.outputPicture_keeps | with_reducible apply State.endDecode_keeps
    | with_reducible apply State.lookAll_keeps | with_reducible apply State.serveAll_keeps

theorem execVidPoolWaitTimeout_keeps (slot : Nat) (s : State) (h : s0.Keeps s) :
    ∀ t, execVidPoolWaitTimeout slot s = .next t → s0.Keeps t := by
  intro t ht
  unfold execVidPoolWaitTimeout answer at ht
  injection ht with ht
  subst ht
  apply State.settle_keeps _ _ h
  try dsimp only
  repeat' first
    | with_reducible assumption
    | (split <;> (rename_i heq; simp only [Prod.ext_iff] at heq; first | obtain ⟨rfl, rfl, rfl, rfl⟩ := heq | obtain ⟨rfl, rfl, rfl⟩ := heq | obtain ⟨rfl, rfl⟩ := heq | obtain ⟨_, rfl⟩ := heq | obtain ⟨_, _, rfl⟩ := heq))
    | split | with_reducible apply State.serveAll_keeps | with_reducible apply State.endDecode_keeps

theorem execVencOpen_keeps (slot : Nat) (s : State) (h : s0.Keeps s) :
    ∀ t, execVencOpen slot s = .next t → s0.Keeps t := by
  intro t ht
  unfold execVencOpen answer at ht
  injection ht with ht
  subst ht
  apply State.settle_keeps _ _ h
  try dsimp only
  repeat' first
    | with_reducible assumption
    | (split <;> (rename_i heq; simp only [Prod.ext_iff] at heq; first | obtain ⟨rfl, rfl, rfl, rfl⟩ := heq | obtain ⟨rfl, rfl, rfl⟩ := heq | obtain ⟨rfl, rfl⟩ := heq | obtain ⟨_, rfl⟩ := heq | obtain ⟨_, _, rfl⟩ := heq))
    | split | with_reducible apply State.finishWorst_keeps | with_reducible apply State.newRecord_keeps

theorem State.endVenc_keeps (s : State) (n : Nat) (i : Nat) (st : Stage) (own : Nat) (h : s0.Keeps s) :
    s0.Keeps (State.endVenc s n i st own) := by
  unfold State.endVenc
  try dsimp only
  repeat' first
    | with_reducible assumption
    | (split <;> (rename_i heq; simp only [Prod.ext_iff] at heq; first | obtain ⟨rfl, rfl, rfl, rfl⟩ := heq | obtain ⟨rfl, rfl, rfl⟩ := heq | obtain ⟨rfl, rfl⟩ := heq | obtain ⟨_, rfl⟩ := heq | obtain ⟨_, _, rfl⟩ := heq))
    | split | with_reducible apply State.finishWorst_keeps | with_reducible apply State.writeHead_keeps

theorem State.serveEnc_keeps (s : State) (g : Nat) (h : s0.Keeps s) :
    s0.Keeps (State.serveEnc s g) := by
  unfold State.serveEnc
  try dsimp only
  repeat' first
    | with_reducible assumption
    | (split <;> (rename_i heq; simp only [Prod.ext_iff] at heq; first | obtain ⟨rfl, rfl, rfl, rfl⟩ := heq | obtain ⟨rfl, rfl, rfl⟩ := heq | obtain ⟨rfl, rfl⟩ := heq | obtain ⟨_, rfl⟩ := heq | obtain ⟨_, _, rfl⟩ := heq))
    | split | with_reducible apply State.knock_keeps | (intro; try dsimp only)

theorem execVencEncode_keeps (slot : Nat) (s : State) (h : s0.Keeps s) :
    ∀ t, execVencEncode slot s = .next t → s0.Keeps t := by
  intro t ht
  unfold execVencEncode answer at ht
  injection ht with ht
  subst ht
  apply State.settle_keeps _ _ h
  try dsimp only
  repeat' first
    | with_reducible assumption
    | (split <;> (rename_i heq; simp only [Prod.ext_iff] at heq; first | obtain ⟨rfl, rfl, rfl, rfl⟩ := heq | obtain ⟨rfl, rfl, rfl⟩ := heq | obtain ⟨rfl, rfl⟩ := heq | obtain ⟨_, rfl⟩ := heq | obtain ⟨_, _, rfl⟩ := heq))
    | split | with_reducible apply State.finishWorst_keeps | with_reducible apply State.serveEnc_keeps

theorem State.encFrame_keeps (s : State) (n : Nat) (st : Stage) (x : EncStream) (t : Nat) (h : s0.Keeps s) :
    s0.Keeps (State.encFrame s n st x t).2.2 := by
  unfold State.encFrame
  try dsimp only
  repeat' first
    | with_reducible assumption
    | (split <;> (rename_i heq; simp only [Prod.ext_iff] at heq; first | obtain ⟨rfl, rfl, rfl, rfl⟩ := heq | obtain ⟨rfl, rfl, rfl⟩ := heq | obtain ⟨rfl, rfl⟩ := heq | obtain ⟨_, rfl⟩ := heq | obtain ⟨_, _, rfl⟩ := heq))
    | with_reducible apply State.readElems_keeps | with_reducible apply foldl_keeps2 | (intro; try dsimp only)

theorem State.endEncode_keeps (s : State) (n : Nat) (own : Nat) (h : s0.Keeps s) :
    s0.Keeps (State.endEncode s n own) := by
  unfold State.endEncode
  try dsimp only
  repeat' first
    | with_reducible assumption
    | (split <;> (rename_i heq; simp only [Prod.ext_iff] at heq; first | obtain ⟨rfl, rfl, rfl, rfl⟩ := heq | obtain ⟨rfl, rfl, rfl⟩ := heq | obtain ⟨rfl, rfl⟩ := heq | obtain ⟨_, rfl⟩ := heq | obtain ⟨_, _, rfl⟩ := heq))
    | split | with_reducible apply State.setStage_keeps | with_reducible apply State.endVenc_keeps

theorem State.writeUnit_keeps (s : State) (n : Nat) (st : Stage) (r : EncRun) (x : EncStream) (key : Bool) (req : Bool) (h : s0.Keeps s) :
    s0.Keeps (State.writeUnit s n st r x key req) := by
  unfold State.writeUnit
  try dsimp only
  repeat' first
    | with_reducible assumption
    | (split <;> (rename_i heq; simp only [Prod.ext_iff] at heq; first | obtain ⟨rfl, rfl, rfl, rfl⟩ := heq | obtain ⟨rfl, rfl, rfl⟩ := heq | obtain ⟨rfl, rfl⟩ := heq | obtain ⟨_, rfl⟩ := heq | obtain ⟨_, _, rfl⟩ := heq))
    | split | with_reducible apply State.encFrame_keeps | with_reducible apply State.endEncode_keeps
    | with_reducible apply State.writeElems_keeps | with_reducible apply State.raise_keeps
    | with_reducible apply State.writeEnt_keeps | with_reducible apply State.bump_keeps
    | with_reducible apply State.tick1_keeps

theorem execEncodeUnitWritten_keeps (slot : Nat) (s : State) (h : s0.Keeps s) :
    ∀ t, execEncodeUnitWritten slot s = .next t → s0.Keeps t := by
  intro t ht
  unfold execEncodeUnitWritten answer at ht
  injection ht with ht
  subst ht
  apply State.settle_keeps _ _ h
  try dsimp only
  repeat' first
    | with_reducible assumption
    | (split <;> (rename_i heq; simp only [Prod.ext_iff] at heq; first | obtain ⟨rfl, rfl, rfl, rfl⟩ := heq | obtain ⟨rfl, rfl, rfl⟩ := heq | obtain ⟨rfl, rfl⟩ := heq | obtain ⟨_, rfl⟩ := heq | obtain ⟨_, _, rfl⟩ := heq))
    | split | with_reducible apply State.serveEnc_keeps | with_reducible apply State.writeUnit_keeps

theorem State.closeEnc_keeps (s : State) (i : Nat) (h : s0.Keeps s) :
    s0.Keeps (State.closeEnc s i) := by
  unfold State.closeEnc
  try dsimp only
  repeat' first
    | with_reducible assumption | split

theorem execVencClose_keeps (slot : Nat) (s : State) (h : s0.Keeps s) :
    ∀ t, execVencClose slot s = .next t → s0.Keeps t := by
  intro t ht
  unfold execVencClose answer at ht
  injection ht with ht
  subst ht
  apply State.settle_keeps _ _ h
  try dsimp only
  repeat' first
    | with_reducible assumption
    | (split <;> (rename_i heq; simp only [Prod.ext_iff] at heq; first | obtain ⟨rfl, rfl, rfl, rfl⟩ := heq | obtain ⟨rfl, rfl, rfl⟩ := heq | obtain ⟨rfl, rfl⟩ := heq | obtain ⟨_, rfl⟩ := heq | obtain ⟨_, _, rfl⟩ := heq))
    | split | with_reducible apply State.finishWorst_keeps | with_reducible apply State.closeEnc_keeps
    | with_reducible apply State.endVenc_keeps

/-! ### Pace -/

theorem State.setChan_keeps (s : State) (c : Nat) (x : PaceChan) (h : s0.Keeps s) :
    s0.Keeps (State.setChan s c x) :=
  h

theorem State.staleCommit_keeps (s : State) (c : Nat) (n : Nat) (h : s0.Keeps s) :
    s0.Keeps (State.staleCommit s c n) := by
  unfold State.staleCommit
  try dsimp only
  repeat' first
    | with_reducible assumption | with_reducible apply State.tick1_keeps | with_reducible apply State.finishWorst_keeps

theorem State.dropPending_keeps (s : State) (c : Nat) (h : s0.Keeps s) :
    s0.Keeps (State.dropPending s c) := by
  unfold State.dropPending
  try dsimp only
  repeat' first
    | with_reducible assumption
    | (split <;> (rename_i heq; simp only [Prod.ext_iff] at heq; first | obtain ⟨rfl, rfl, rfl, rfl⟩ := heq | obtain ⟨rfl, rfl, rfl⟩ := heq | obtain ⟨rfl, rfl⟩ := heq | obtain ⟨_, rfl⟩ := heq | obtain ⟨_, _, rfl⟩ := heq))
    | split | with_reducible apply State.setChan_keeps | with_reducible apply State.staleCommit_keeps

theorem State.dropLater_keeps (s : State) (c : Nat) (h : s0.Keeps s) :
    s0.Keeps (State.dropLater s c) := by
  unfold State.dropLater
  try dsimp only
  repeat' first
    | with_reducible assumption
    | (split <;> (rename_i heq; simp only [Prod.ext_iff] at heq; first | obtain ⟨rfl, rfl, rfl, rfl⟩ := heq | obtain ⟨rfl, rfl, rfl⟩ := heq | obtain ⟨rfl, rfl⟩ := heq | obtain ⟨_, rfl⟩ := heq | obtain ⟨_, _, rfl⟩ := heq))
    | split | with_reducible apply State.setChan_keeps | with_reducible apply State.staleCommit_keeps

theorem State.dropCommit_keeps (s : State) (c : Nat) (h : s0.Keeps s) :
    s0.Keeps (State.dropCommit s c) := by
  unfold State.dropCommit
  try dsimp only
  repeat' first
    | with_reducible assumption | with_reducible apply State.dropPending_keeps | with_reducible apply State.dropLater_keeps

theorem State.stopChan_keeps (s : State) (c : Nat) (h : s0.Keeps s) :
    s0.Keeps (State.stopChan s c) := by
  unfold State.stopChan
  try dsimp only
  repeat' first
    | with_reducible assumption | with_reducible apply State.dropCommit_keeps | with_reducible apply State.setChan_keeps

theorem execPaceStart_keeps (slot : Nat) (s : State) (h : s0.Keeps s) :
    ∀ t, execPaceStart slot s = .next t → s0.Keeps t := by
  intro t ht
  unfold execPaceStart answer at ht
  injection ht with ht
  subst ht
  apply State.settle_keeps _ _ h
  try dsimp only
  repeat' first
    | with_reducible assumption
    | (split <;> (rename_i heq; simp only [Prod.ext_iff] at heq; first | obtain ⟨rfl, rfl, rfl, rfl⟩ := heq | obtain ⟨rfl, rfl, rfl⟩ := heq | obtain ⟨rfl, rfl⟩ := heq | obtain ⟨_, rfl⟩ := heq | obtain ⟨_, _, rfl⟩ := heq))
    | split | with_reducible apply State.ctrlRead_keeps | with_reducible apply State.meet_keeps
    | with_reducible apply State.finishWorst_keeps | with_reducible apply State.dropCommit_keeps
    | with_reducible apply State.setChan_keeps

theorem execPaceCommit_keeps (slot : Nat) (s : State) (h : s0.Keeps s) :
    ∀ t, execPaceCommit slot s = .next t → s0.Keeps t := by
  intro t ht
  unfold execPaceCommit answer at ht
  injection ht with ht
  subst ht
  apply State.settle_keeps _ _ h
  try dsimp only
  repeat' first
    | with_reducible assumption
    | (split <;> (rename_i heq; simp only [Prod.ext_iff] at heq; first | obtain ⟨rfl, rfl, rfl, rfl⟩ := heq | obtain ⟨rfl, rfl, rfl⟩ := heq | obtain ⟨rfl, rfl⟩ := heq | obtain ⟨_, rfl⟩ := heq | obtain ⟨_, _, rfl⟩ := heq))
    | split | with_reducible apply State.finishWorst_keeps | with_reducible apply State.setChan_keeps
    | with_reducible apply State.dropLater_keeps | with_reducible apply State.dropCommit_keeps

theorem execPaceStop_keeps (slot : Nat) (s : State) (h : s0.Keeps s) :
    ∀ t, execPaceStop slot s = .next t → s0.Keeps t := by
  intro t ht
  unfold execPaceStop answer at ht
  injection ht with ht
  subst ht
  apply State.settle_keeps _ _ h
  try dsimp only
  repeat' first
    | with_reducible assumption
    | (split <;> (rename_i heq; simp only [Prod.ext_iff] at heq; first | obtain ⟨rfl, rfl, rfl, rfl⟩ := heq | obtain ⟨rfl, rfl, rfl⟩ := heq | obtain ⟨rfl, rfl⟩ := heq | obtain ⟨_, rfl⟩ := heq | obtain ⟨_, _, rfl⟩ := heq))
    | split | with_reducible apply State.finishWorst_keeps | with_reducible apply State.stopChan_keeps

theorem State.prodCons_keeps (s : State) (who : Requester) (q : Nat) (h : s0.Keeps s) :
    s0.Keeps (State.prodCons s who q).2.2 := by
  unfold State.prodCons
  try dsimp only
  repeat' first
    | with_reducible assumption
    | (split <;> (rename_i heq; simp only [Prod.ext_iff] at heq; first | obtain ⟨rfl, rfl, rfl, rfl⟩ := heq | obtain ⟨rfl, rfl, rfl⟩ := heq | obtain ⟨rfl, rfl⟩ := heq | obtain ⟨_, rfl⟩ := heq | obtain ⟨_, _, rfl⟩ := heq))
    | with_reducible apply State.readFor_keeps

theorem State.newCopy_keeps (s : State) (x : PaceChan) (h : s0.Keeps s) :
    s0.Keeps (State.newCopy s x).2 := by
  unfold State.newCopy
  try dsimp only
  repeat' first
    | with_reducible assumption
    | (split <;> (rename_i heq; simp only [Prod.ext_iff] at heq; first | obtain ⟨rfl, rfl, rfl, rfl⟩ := heq | obtain ⟨rfl, rfl, rfl⟩ := heq | obtain ⟨rfl, rfl⟩ := heq | obtain ⟨_, rfl⟩ := heq | obtain ⟨_, _, rfl⟩ := heq))
    | split | with_reducible apply State.readFor_keeps | with_reducible apply foldl_keeps2 | (intro; try dsimp only)

theorem State.overrun_keeps (s : State) (c : Nat) (x : PaceChan) (next : PaceChan) (h : s0.Keeps s) :
    s0.Keeps (State.overrun s c x next) := by
  unfold State.overrun
  try dsimp only
  repeat' first
    | with_reducible assumption
    | (split <;> (rename_i heq; simp only [Prod.ext_iff] at heq; first | obtain ⟨rfl, rfl, rfl, rfl⟩ := heq | obtain ⟨rfl, rfl, rfl⟩ := heq | obtain ⟨rfl, rfl⟩ := heq | obtain ⟨_, rfl⟩ := heq | obtain ⟨_, _, rfl⟩ := heq))
    | split | with_reducible apply State.tick1_keeps | with_reducible apply State.setChan_keeps
    | with_reducible apply State.staleCommit_keeps

theorem execPaceLatch_keeps (channel : Nat) (s : State) (h : s0.Keeps s) : ∀ t, execPaceLatch channel s = .next t → s0.Keeps t := by
  intro t ht
  unfold execPaceLatch answer at ht
  injection ht with ht
  subst ht
  apply State.settle_keeps _ _ h
  extract_lets x ending s1 y next busy
  split
  · exact h
  · have h1 : s0.Keeps s1 := by
      show s0.Keeps (if ending = true then _ else s)
      split
      · split
        · exact State.finishWorst_keeps _ _ _ h
        · exact h
      · exact h
    split
    · exact h1
    · have h2 := State.prodCons_keeps s1 ⟨y.secure, y.fn, y.pending⟩ y.queue h1
      generalize s1.prodCons ⟨y.secure, y.fn, y.pending⟩ y.queue = r at h2
      obtain ⟨prod, cons, s2⟩ := r
      dsimp only at h2 ⊢
      split
      · exact State.overrun_keeps _ _ _ _ h2
      · have h3 := State.newCopy_keeps s2 y h2
        split
        · rename_i heq; rw [heq] at h3; exact h3
        · rename_i heq; rw [heq] at h3; exact h3

theorem State.copyRows_keeps (s : State) (k : PaceCopy) (at_ : Nat) (src : Nat) (h : s0.Keeps s) :
    s0.Keeps (State.copyRows s k at_ src) := by
  unfold State.copyRows
  try dsimp only
  repeat' first
    | with_reducible assumption
    | (split <;> (rename_i heq; simp only [Prod.ext_iff] at heq; first | obtain ⟨rfl, rfl, rfl, rfl⟩ := heq | obtain ⟨rfl, rfl, rfl⟩ := heq | obtain ⟨rfl, rfl⟩ := heq | obtain ⟨_, rfl⟩ := heq | obtain ⟨_, _, rfl⟩ := heq))
    | split | with_reducible apply State.readFor_keeps | with_reducible apply State.writeFor_keeps | with_reducible apply foldl_keeps
    | with_reducible apply foldl_keeps2 | with_reducible apply foldl_keeps3 | (intro; try dsimp only)

theorem State.emitFrame_keeps (s : State) (c : Nat) (k : PaceCopy) (rest : List PaceCopy) (h : s0.Keeps s) :
    s0.Keeps (State.emitFrame s c k rest) := by
  unfold State.emitFrame
  try dsimp only
  repeat' first
    | with_reducible assumption
    | (split <;> (rename_i heq; simp only [Prod.ext_iff] at heq; first | obtain ⟨rfl, rfl, rfl, rfl⟩ := heq | obtain ⟨rfl, rfl, rfl⟩ := heq | obtain ⟨rfl, rfl⟩ := heq | obtain ⟨_, rfl⟩ := heq | obtain ⟨_, _, rfl⟩ := heq))
    | split | with_reducible apply State.tick1_keeps | with_reducible apply State.writeFor_keeps
    | with_reducible apply State.setChan_keeps | with_reducible apply State.prodCons_keeps | with_reducible apply State.copyRows_keeps

theorem execPaceCopyComplete_keeps (channel : Nat) (s : State) (h : s0.Keeps s) :
    ∀ t, execPaceCopyComplete channel s = .next t → s0.Keeps t := by
  intro t ht
  unfold execPaceCopyComplete answer at ht
  injection ht with ht
  subst ht
  apply State.settle_keeps _ _ h
  try dsimp only
  repeat' first
    | with_reducible assumption
    | (split <;> (rename_i heq; simp only [Prod.ext_iff] at heq; first | obtain ⟨rfl, rfl, rfl, rfl⟩ := heq | obtain ⟨rfl, rfl, rfl⟩ := heq | obtain ⟨rfl, rfl⟩ := heq | obtain ⟨_, rfl⟩ := heq | obtain ⟨_, _, rfl⟩ := heq))
    | split | with_reducible apply State.finishWorst_keeps | with_reducible apply State.emitFrame_keeps

/-! ### Stages -/

theorem State.beginSet_keeps (s : State) (n : Nat) (st : Stage) (h : s0.Keeps s) :
    ∀ t, State.beginSet s n st = some t → s0.Keeps t := by
  intro t ht
  unfold State.beginSet at ht
  try dsimp only at ht
  repeat' split at ht
  all_goals first | (injection ht with ht; subst ht) | cases ht
  all_goals (repeat' first
    | with_reducible assumption
    | (split <;> (rename_i heq; simp only [Prod.ext_iff] at heq; first | obtain ⟨rfl, rfl, rfl, rfl⟩ := heq | obtain ⟨rfl, rfl, rfl⟩ := heq | obtain ⟨rfl, rfl⟩ := heq | obtain ⟨_, rfl⟩ := heq | obtain ⟨_, _, rfl⟩ := heq))
    | split
    | with_reducible apply Kept.put
    | with_reducible apply Kept.zero
    | with_reducible apply Kept.filter_cells
    | with_reducible apply Kept.filter_lines
    | with_reducible apply Kept.send
    | with_reducible apply Kept.draw
    | with_reducible apply foldl_keeps
    | with_reducible apply foldl_keeps2
    | with_reducible apply foldl_keeps3
    | (intro; try dsimp only))

theorem State.readMask_keeps (s : State) (n : Nat) (st : Stage) (h : s0.Keeps s) :
    s0.Keeps (State.readMask s n st).2 := by
  unfold State.readMask
  try dsimp only
  repeat' first
    | with_reducible assumption
    | (split <;> (rename_i heq; simp only [Prod.ext_iff] at heq; first | obtain ⟨rfl, rfl, rfl, rfl⟩ := heq | obtain ⟨rfl, rfl, rfl⟩ := heq | obtain ⟨rfl, rfl⟩ := heq | obtain ⟨_, rfl⟩ := heq | obtain ⟨_, _, rfl⟩ := heq))
    | split | with_reducible apply State.ctrlRead_keeps | with_reducible apply State.setStage_keeps
    | with_reducible apply State.finishWorst_keeps

theorem execStageStart_keeps (slot : Nat) (s : State) (h : s0.Keeps s) : ∀ t, execStageStart slot s = .next t → s0.Keeps t := by
  intro t ht
  unfold execStageStart answer at ht
  injection ht with ht
  subst ht
  apply State.settle_keeps _ _ h
  split
  · exact h
  · rename_i st _
    split
    · exact h
    · split
      · exact h
      · extract_lets st' s'
        split
        · exact State.finishWorst_keeps _ _ _ h
        · split
          · exact State.finishWorst_keeps _ _ _ h
          · rename_i s2 hs2
            have h2 := State.beginSet_keeps s' slot st' h _ hs2
            have h3 := State.readMask_keeps s2 slot st' h2
            clear_value s' st'
            dsimp only
            repeat' first
              | with_reducible assumption
              | split
              | with_reducible apply State.startRetrieve_keeps
              | with_reducible apply foldl_keeps
              | with_reducible exact fun s a hs => State.knock_keeps s a hs

theorem State.endEngine_keeps (s : State) (n : Nat) (st : Stage) (h : s0.Keeps s) :
    s0.Keeps (State.endEngine s n st) := by
  unfold State.endEngine
  try dsimp only
  repeat' first
    | with_reducible assumption
    | (split <;> (rename_i heq; simp only [Prod.ext_iff] at heq; first | obtain ⟨rfl, rfl, rfl, rfl⟩ := heq | obtain ⟨rfl, rfl, rfl⟩ := heq | obtain ⟨rfl, rfl⟩ := heq | obtain ⟨_, rfl⟩ := heq | obtain ⟨_, _, rfl⟩ := heq))
    | split | with_reducible apply State.endCopy_keeps | with_reducible apply State.endColl_keeps
    | with_reducible apply State.endDecode_keeps | with_reducible apply State.finishWorst_keeps
    | with_reducible apply State.endEncode_keeps | with_reducible apply State.endIngest_keeps
    | with_reducible apply State.setChan_keeps
    | with_reducible apply State.stopCopy_keeps
    | with_reducible apply State.stopColl_keeps
    | (intro; try dsimp only)

theorem execStageComplete_keeps (slot : Nat) (s : State) (h : s0.Keeps s) :
    ∀ t, execStageComplete slot s = .next t → s0.Keeps t := by
  intro t ht
  unfold execStageComplete answer at ht
  injection ht with ht
  subst ht
  apply State.settle_keeps _ _ h
  try dsimp only
  repeat' first
    | with_reducible assumption
    | (split <;> (rename_i heq; simp only [Prod.ext_iff] at heq; first | obtain ⟨rfl, rfl, rfl, rfl⟩ := heq | obtain ⟨rfl, rfl, rfl⟩ := heq | obtain ⟨rfl, rfl⟩ := heq | obtain ⟨_, rfl⟩ := heq | obtain ⟨_, _, rfl⟩ := heq))
    | split | with_reducible apply State.finishWorst_keeps | with_reducible apply State.endEngine_keeps

theorem State.abortUpTo_keeps (s : State) (ring : Nat) (seq : Word32) (h : s0.Keeps s) :
    s0.Keeps (State.abortUpTo s ring seq) := by
  unfold State.abortUpTo
  try dsimp only
  repeat' first
    | with_reducible assumption | split | with_reducible apply State.finish_keeps | with_reducible apply State.setRing_keeps
    | with_reducible apply foldl_keeps | (intro; try dsimp only)

theorem State.fencePassed_keeps (s : State) (ring : Nat) (seq : Word32) (h : s0.Keeps s) :
    s0.Keeps (State.fencePassed s ring seq) := by
  unfold State.fencePassed
  try dsimp only
  repeat' first
    | with_reducible assumption | with_reducible apply State.setRing_keeps

theorem execFenceComplete_keeps (slot : Nat) (s : State) (h : s0.Keeps s) :
    ∀ t, execFenceComplete slot s = .next t → s0.Keeps t := by
  intro t ht
  unfold execFenceComplete answer at ht
  injection ht with ht
  subst ht
  apply State.settle_keeps _ _ h
  try dsimp only
  repeat' first
    | with_reducible assumption
    | (split <;> (rename_i heq; simp only [Prod.ext_iff] at heq; first | obtain ⟨rfl, rfl, rfl, rfl⟩ := heq | obtain ⟨rfl, rfl, rfl⟩ := heq | obtain ⟨rfl, rfl⟩ := heq | obtain ⟨_, rfl⟩ := heq | obtain ⟨_, _, rfl⟩ := heq))
    | split | with_reducible apply State.raise_keeps | with_reducible apply State.abortUpTo_keeps
    | with_reducible apply State.fencePassed_keeps | with_reducible apply State.finish_keeps | with_reducible apply foldl_keeps
    | (intro; try dsimp only)

theorem State.releaseBarriers_keeps (s : State) (slots : List Nat) (h : s0.Keeps s) :
    s0.Keeps (State.releaseBarriers s slots) := by
  unfold State.releaseBarriers
  try dsimp only
  repeat' first
    | with_reducible assumption
    | (split <;> (rename_i heq; simp only [Prod.ext_iff] at heq; first | obtain ⟨rfl, rfl, rfl, rfl⟩ := heq | obtain ⟨rfl, rfl, rfl⟩ := heq | obtain ⟨rfl, rfl⟩ := heq | obtain ⟨_, rfl⟩ := heq | obtain ⟨_, _, rfl⟩ := heq))
    | split | with_reducible apply State.fencePassed_keeps | with_reducible apply State.finish_keeps
    | with_reducible apply foldl_keeps | (intro; try dsimp only)

theorem execBarrierArrive_keeps (slot : Nat) (s : State) (h : s0.Keeps s) :
    ∀ t, execBarrierArrive slot s = .next t → s0.Keeps t := by
  intro t ht
  unfold execBarrierArrive answer at ht
  injection ht with ht
  subst ht
  apply State.settle_keeps _ _ h
  try dsimp only
  repeat' first
    | with_reducible assumption
    | (split <;> (rename_i heq; simp only [Prod.ext_iff] at heq; first | obtain ⟨rfl, rfl, rfl, rfl⟩ := heq | obtain ⟨rfl, rfl, rfl⟩ := heq | obtain ⟨rfl, rfl⟩ := heq | obtain ⟨_, rfl⟩ := heq | obtain ⟨_, _, rfl⟩ := heq))
    | split | with_reducible apply State.fencePassed_keeps | with_reducible apply State.finish_keeps
    | with_reducible apply State.setStage_keeps | with_reducible apply State.releaseBarriers_keeps

theorem execSpillHintRun_keeps (slot : Nat) (s : State) (h : s0.Keeps s) :
    ∀ t, execSpillHintRun slot s = .next t → s0.Keeps t := by
  intro t ht
  unfold execSpillHintRun answer at ht
  injection ht with ht
  subst ht
  apply State.settle_keeps _ _ h
  try dsimp only
  repeat' first
    | with_reducible assumption
    | (split <;> (rename_i heq; simp only [Prod.ext_iff] at heq; first | obtain ⟨rfl, rfl, rfl, rfl⟩ := heq | obtain ⟨rfl, rfl, rfl⟩ := heq | obtain ⟨rfl, rfl⟩ := heq | obtain ⟨_, rfl⟩ := heq | obtain ⟨_, _, rfl⟩ := heq))
    | split | with_reducible apply State.finishWorst_keeps | with_reducible apply State.spillTile_keeps
    | with_reducible apply foldl_keeps | (intro; try dsimp only)

theorem execArrivalTimeout_keeps (slot : Nat) (s : State) (h : s0.Keeps s) :
    ∀ t, execArrivalTimeout slot s = .next t → s0.Keeps t := by
  intro t ht
  unfold execArrivalTimeout answer at ht
  injection ht with ht
  subst ht
  apply State.settle_keeps _ _ h
  try dsimp only
  repeat' first
    | with_reducible assumption
    | (split <;> (rename_i heq; simp only [Prod.ext_iff] at heq; first | obtain ⟨rfl, rfl, rfl, rfl⟩ := heq | obtain ⟨rfl, rfl, rfl⟩ := heq | obtain ⟨rfl, rfl⟩ := heq | obtain ⟨_, rfl⟩ := heq | obtain ⟨_, _, rfl⟩ := heq))
    | split | with_reducible apply State.meet_keeps | with_reducible apply State.setStage_keeps

end Sys2Proof.Machine
end

