-- ==== Sys2Proof/Laws/KeepHost.lean ====
section
/-!
SUPPORT. What the operations and commands of the host interface, registers, the store, power and memory keep: the memory tiers in order, the fuses only burnt
further, the record of messages only longer, the queue of commands as it was. One lemma for each definition of Machine/.
-/
namespace Sys2Proof.Machine

variable {s0 : State}

/-! ### Regions -/

theorem State.rekey_keeps (s : State) (r : Region) (h : s0.Keeps s) :
    s0.Keeps (State.rekey s r) :=
  h

theorem State.startClearing_keeps (s : State) (i : Nat) (h : s0.Keeps s) :
    s0.Keeps (State.startClearing s i) := by
  unfold State.startClearing
  try dsimp only
  repeat' first
    | with_reducible assumption | with_reducible apply State.setRegion_keeps | with_reducible apply State.rekey_keeps
    | with_reducible apply Kept.filter_lines | (intro; try dsimp only)

theorem State.applyRegion_keeps (s : State) (i : Nat) (new : Region) (h : s0.Keeps s) :
    s0.Keeps (State.applyRegion s i new) := by
  unfold State.applyRegion
  try dsimp only
  repeat' first
    | with_reducible assumption | split | with_reducible apply State.setRegion_keeps | with_reducible apply State.rekey_keeps
    | with_reducible apply State.startClearing_keeps

theorem State.regionRefused_keeps (s : State) (i : Nat) (addr : Nat) (h : s0.Keeps s) :
    s0.Keeps (State.regionRefused s i addr) := by
  unfold State.regionRefused
  try dsimp only
  repeat' first
    | with_reducible assumption | split | with_reducible apply State.tick1_keeps | with_reducible apply State.log_keeps

theorem State.regionAccepted_keeps (s : State) (h : s0.Keeps s) :
    s0.Keeps (State.regionAccepted s) :=
  h

theorem State.regCtrlWrite_keeps (s : State) (i : Nat) (view : View) (value : Word32) (h : s0.Keeps s) :
    s0.Keeps (State.regCtrlWrite s i view value) := by
  unfold State.regCtrlWrite
  try dsimp only
  repeat' first
    | with_reducible assumption | split | with_reducible apply State.regionRefused_keeps
    | with_reducible apply State.regionAccepted_keeps | with_reducible apply State.applyRegion_keeps

theorem execRegCtrlWrite_keeps (descriptor : Nat) (view : View) (value : Word32) (s : State) (h : s0.Keeps s) :
    ∀ t, execRegCtrlWrite descriptor view value s = .next t → s0.Keeps t := by
  intro t ht
  unfold execRegCtrlWrite answer at ht
  injection ht with ht
  subst ht
  apply State.settle_keeps _ _ h
  try dsimp only
  repeat' first
    | with_reducible assumption | split | with_reducible apply State.regCtrlWrite_keeps

theorem State.regExtentWrite_keeps (s : State) (i : Nat) (size : Bool) (view : View) (value : Word32) (h : s0.Keeps s) :
    s0.Keeps (State.regExtentWrite s i size view value) := by
  unfold State.regExtentWrite
  try dsimp only
  repeat' first
    | with_reducible assumption | split | with_reducible apply State.regionRefused_keeps
    | with_reducible apply State.regionAccepted_keeps | with_reducible apply State.setRegion_keeps

theorem execRegionClearComplete_keeps (descriptor : Nat) (s : State) (h : s0.Keeps s) :
    ∀ t, execRegionClearComplete descriptor s = .next t → s0.Keeps t := by
  intro t ht
  unfold execRegionClearComplete answer at ht
  injection ht with ht
  subst ht
  apply State.settle_keeps _ _ h
  try dsimp only
  repeat' first
    | with_reducible assumption | split | with_reducible apply State.setRegion_keeps | with_reducible apply State.log_keeps
    | with_reducible apply State.notifySecure_keeps | with_reducible apply State.bump_keeps | with_reducible apply Kept.zero

/-! ### HostIf -/

theorem State.doorbell_keeps (s : State) (f : Nat) (page : Nat) (view : View) (ide : Bool) (apply : Ring → Option Ring) (h : s0.Keeps s) :
    s0.Keeps (State.doorbell s f page view ide apply) := by
  unfold State.doorbell
  try dsimp only
  repeat' first
    | with_reducible assumption
    | (split <;> (rename_i heq; simp only [Prod.ext_iff] at heq; first | obtain ⟨rfl, rfl, rfl, rfl⟩ := heq | obtain ⟨rfl, rfl, rfl⟩ := heq | obtain ⟨rfl, rfl⟩ := heq | obtain ⟨_, rfl⟩ := heq | obtain ⟨_, _, rfl⟩ := heq))
    | split | with_reducible apply State.ideRefuse_keeps | with_reducible apply State.tick1_keeps
    | with_reducible apply State.setRing_keeps

theorem execHifDbSqTail_keeps (fn : Nat) (page : Nat) (view : View) (value : Word32) (ide : Bool) (s : State) (h : s0.Keeps s) :
    ∀ t, execHifDbSqTail fn page view value ide s = .next t → s0.Keeps t := by
  intro t ht
  unfold execHifDbSqTail answer at ht
  injection ht with ht
  subst ht
  apply State.settle_keeps _ _ h
  try dsimp only
  repeat' first
    | with_reducible assumption | with_reducible apply State.doorbell_keeps

theorem execHifDbCqHead_keeps (fn : Nat) (page : Nat) (view : View) (value : Word32) (ide : Bool) (s : State) (h : s0.Keeps s) :
    ∀ t, execHifDbCqHead fn page view value ide s = .next t → s0.Keeps t := by
  intro t ht
  unfold execHifDbCqHead answer at ht
  injection ht with ht
  subst ht
  apply State.settle_keeps _ _ h
  try dsimp only
  repeat' first
    | with_reducible assumption | with_reducible apply State.doorbell_keeps

theorem State.ringCmd_keeps (s : State) (f page : Nat) (ide : Bool) (act : Nat → Ring → Option State) (h : s0.Keeps s)
    (hact : ∀ r x t, act r x = some t → s0.Keeps t) : s0.Keeps (s.ringCmd f page ide act) := by
  unfold State.ringCmd
  split
  · exact State.ideRefuse_keeps _ _ h
  · rename_i r _
    cases hr : act r (s.ring r) with
    | none => exact State.tick1_keeps _ _ h
    | some t => exact hact _ _ _ hr
  · exact h

theorem State.enableRing_keeps (s : State) (fn r : Nat) (x : Ring) (h : s0.Keeps s) :
    ∀ t, s.enableRing fn r x = some t → s0.Keeps t := by
  intro t ht
  unfold State.enableRing at ht
  split at ht
  · injection ht with ht
    subst ht
    split <;> exact h
  · cases ht

theorem execEnable_keeps (fn page : Nat) (ide : Bool) (s : State) (h : s0.Keeps s) :
    ∀ t, execEnable fn page ide s = .next t → s0.Keeps t := by
  intro t ht
  unfold execEnable answer at ht
  injection ht with ht
  subst ht
  exact State.settle_keeps _ _ h (State.ringCmd_keeps _ _ _ _ _ h (fun _ _ => State.enableRing_keeps _ _ _ _ h))

theorem State.ringMessage_keeps (s : State) (r : Nat) (h : s0.Keeps s) :
    s0.Keeps (State.ringMessage s r) := by
  unfold State.ringMessage
  try dsimp only
  repeat' first
    | with_reducible assumption | split | with_reducible apply State.msix_keeps | with_reducible apply State.setRing_keeps

theorem State.countEntry_keeps (s : State) (r : Nat) (stopped : Bool) (irq : Bool) (h : s0.Keeps s) :
    s0.Keeps (State.countEntry s r stopped irq) := by
  unfold State.countEntry
  try dsimp only
  repeat' first
    | with_reducible assumption | split | with_reducible apply State.setRing_keeps
    | with_reducible apply State.ringMessage_keeps

theorem execIrqDelayExpiry_keeps (ring : Nat) (s : State) (h : s0.Keeps s) :
    ∀ t, execIrqDelayExpiry ring s = .next t → s0.Keeps t := by
  intro t ht
  unfold execIrqDelayExpiry answer at ht
  injection ht with ht
  subst ht
  apply State.settle_keeps _ _ h
  try dsimp only
  repeat' first
    | with_reducible assumption | with_reducible apply State.ringMessage_keeps

theorem State.storeEntry_keeps (s : State) (r : Nat) (e : List Byte) (h : s0.Keeps s) :
    s0.Keeps (State.storeEntry s r e).2 := by
  unfold State.storeEntry
  try dsimp only
  repeat' first
    | with_reducible assumption
    | (split <;> (rename_i heq; simp only [Prod.ext_iff] at heq; first | obtain ⟨rfl, rfl, rfl, rfl⟩ := heq | obtain ⟨rfl, rfl, rfl⟩ := heq | obtain ⟨rfl, rfl⟩ := heq | obtain ⟨_, rfl⟩ := heq | obtain ⟨_, _, rfl⟩ := heq))
    | split | with_reducible apply State.writePiece_keeps | with_reducible apply State.emit_keeps
    | with_reducible apply Kept.put

theorem State.cqFault_keeps (s : State) (r : Nat) (e : List Byte) (h : s0.Keeps s) :
    s0.Keeps (State.cqFault s r e) := by
  unfold State.cqFault
  try dsimp only
  repeat' first
    | with_reducible assumption | with_reducible apply State.setRing_keeps | with_reducible apply State.stopRing_keeps

theorem State.entryWritten_keeps (s : State) (r : Nat) (slot : Nat) (e : List Byte) (h : s0.Keeps s) :
    s0.Keeps (State.entryWritten s r slot e) := by
  unfold State.entryWritten
  try dsimp only
  repeat' first
    | with_reducible assumption | split | with_reducible apply State.setRing_keeps | with_reducible apply State.tick1_keeps
    | with_reducible apply State.stopRing_keeps | with_reducible apply State.drainRing_keeps
    | with_reducible apply State.countEntry_keeps

theorem State.writeEntry_keeps (s : State) (r : Nat) (h : s0.Keeps s) :
    s0.Keeps (State.writeEntry s r) := by
  unfold State.writeEntry
  try dsimp only
  repeat' first
    | with_reducible assumption
    | (split <;> (rename_i heq; simp only [Prod.ext_iff] at heq; first | obtain ⟨rfl, rfl, rfl, rfl⟩ := heq | obtain ⟨rfl, rfl, rfl⟩ := heq | obtain ⟨rfl, rfl⟩ := heq | obtain ⟨_, rfl⟩ := heq | obtain ⟨_, _, rfl⟩ := heq))
    | split | with_reducible apply State.storeEntry_keeps | with_reducible apply State.entryWritten_keeps
    | with_reducible apply State.cqFault_keeps

theorem execCqEntryWrite_keeps (ring : Nat) (s : State) (h : s0.Keeps s) :
    ∀ t, execCqEntryWrite ring s = .next t → s0.Keeps t := by
  intro t ht
  unfold execCqEntryWrite answer at ht
  injection ht with ht
  subst ht
  apply State.settle_keeps _ _ h
  try dsimp only
  repeat' first
    | with_reducible assumption | split | with_reducible apply State.writeEntry_keeps

theorem execCqWriteFault_keeps (ring : Nat) (s : State) (h : s0.Keeps s) :
    ∀ t, execCqWriteFault ring s = .next t → s0.Keeps t := by
  intro t ht
  unfold execCqWriteFault answer at ht
  injection ht with ht
  subst ht
  apply State.settle_keeps _ _ h
  try dsimp only
  repeat' first
    | with_reducible assumption
    | (split <;> (rename_i heq; simp only [Prod.ext_iff] at heq; first | obtain ⟨rfl, rfl, rfl, rfl⟩ := heq | obtain ⟨rfl, rfl, rfl⟩ := heq | obtain ⟨rfl, rfl⟩ := heq | obtain ⟨_, rfl⟩ := heq | obtain ⟨_, _, rfl⟩ := heq))
    | split | with_reducible apply State.cqFault_keeps

theorem State.resumeRing_keeps (s : State) (r : Nat) (x : Ring) (h : s0.Keeps s) :
    ∀ t, s.resumeRing r x = some t → s0.Keeps t := by
  intro t ht
  unfold State.resumeRing at ht
  split at ht
  · injection ht with ht
    subst ht
    have h1 : s0.Keeps ((s.setRing r { x with st := .running, fetchFault := false, cqFault := false }).settle s) :=
      State.settle_keeps _ _ h h
    split
    · exact State.settle_keeps _ _ h1 (State.writeEntry_keeps _ _ h1)
    · exact h1
  · cases ht

theorem execResume_keeps (fn page : Nat) (ide : Bool) (s : State) (h : s0.Keeps s) :
    ∀ t, execResume fn page ide s = .next t → s0.Keeps t := by
  intro t ht
  unfold execResume answer at ht
  injection ht with ht
  subst ht
  exact State.settle_keeps _ _ h (State.ringCmd_keeps _ _ _ _ _ h (fun _ _ => State.resumeRing_keeps _ _ _ h))

theorem State.drainCmd_keeps (s : State) (r : Nat) (x : Ring) (h : s0.Keeps s) :
    ∀ t, s.drainCmd r x = some t → s0.Keeps t := by
  intro t ht
  unfold State.drainCmd at ht
  split at ht
  · injection ht with ht
    subst ht
    exact State.drainRing_keeps _ _ h
  · cases ht

theorem execDrain_keeps (fn page : Nat) (ide : Bool) (s : State) (h : s0.Keeps s) :
    ∀ t, execDrain fn page ide s = .next t → s0.Keeps t := by
  intro t ht
  unfold execDrain answer at ht
  injection ht with ht
  subst ht
  exact State.settle_keeps _ _ h (State.ringCmd_keeps _ _ _ _ _ h (fun _ _ => State.drainCmd_keeps _ _ _ h))

theorem State.resetCmd_keeps (s : State) (r : Nat) (x : Ring) (h : s0.Keeps s) :
    ∀ t, s.resetCmd r x = some t → s0.Keeps t := by
  intro t ht
  unfold State.resetCmd at ht
  split at ht
  · injection ht with ht
    subst ht
    exact State.resetRing_keeps _ _ h
  · cases ht

theorem execReset_keeps (fn page : Nat) (ide : Bool) (s : State) (h : s0.Keeps s) :
    ∀ t, execReset fn page ide s = .next t → s0.Keeps t := by
  intro t ht
  unfold execReset answer at ht
  injection ht with ht
  subst ht
  exact State.settle_keeps _ _ h (State.ringCmd_keeps _ _ _ _ _ h (fun _ _ => State.resetCmd_keeps _ _ _ h))

theorem State.ringCommand_keeps (s : State) (fn page : Nat) (ide : Bool) (v : Nat) (h : s0.Keeps s) :
    s0.Keeps (s.ringCommand fn page ide v) := by
  unfold State.ringCommand
  split
  · exact State.ringCmd_keeps _ _ _ _ _ h (fun _ _ => State.enableRing_keeps _ _ _ _ h)
  · exact State.ringCmd_keeps _ _ _ _ _ h (fun _ _ => State.resumeRing_keeps _ _ _ h)
  · exact State.ringCmd_keeps _ _ _ _ _ h (fun _ _ => State.drainCmd_keeps _ _ _ h)
  · exact State.ringCmd_keeps _ _ _ _ _ h (fun _ _ => State.resetCmd_keeps _ _ _ h)
  · exact h

theorem execRingResetComplete_keeps (ring : Nat) (s : State) (h : s0.Keeps s) :
    ∀ t, execRingResetComplete ring s = .next t → s0.Keeps t := by
  intro t ht
  unfold execRingResetComplete answer at ht
  injection ht with ht
  subst ht
  apply State.settle_keeps _ _ h
  try dsimp only
  repeat' first
    | with_reducible assumption | split | with_reducible apply State.releaseSet_keeps
    | with_reducible apply State.setRing_keeps | with_reducible apply foldl_keeps | (intro; try dsimp only)

theorem execFetchDescriptors_keeps (s : State) (h : s0.Keeps s) :
    ∀ t, execFetchDescriptors s = .next t → s0.Keeps t := by
  intro t ht
  unfold execFetchDescriptors answer at ht
  injection ht with ht
  subst ht
  apply State.settle_keeps _ _ h
  try dsimp only
  repeat' first
    | with_reducible assumption
    | (split <;> (rename_i heq; simp only [Prod.ext_iff] at heq; first | obtain ⟨rfl, rfl, rfl, rfl⟩ := heq | obtain ⟨rfl, rfl, rfl⟩ := heq | obtain ⟨rfl, rfl⟩ := heq | obtain ⟨_, rfl⟩ := heq | obtain ⟨_, _, rfl⟩ := heq))
    | split | with_reducible apply State.setRing_keeps | with_reducible apply State.emit_keeps

theorem execFetchAllowanceTick_keeps (s : State) (h : s0.Keeps s) :
    ∀ t, execFetchAllowanceTick s = .next t → s0.Keeps t := by
  intro t ht
  unfold execFetchAllowanceTick answer at ht
  injection ht with ht
  subst ht
  apply State.settle_keeps _ _ h
  try dsimp only
  repeat' first
    | with_reducible assumption

theorem State.takeStage_keeps (s : State) (r : Nat) (bytes : List Byte) (h : s0.Keeps s) :
    s0.Keeps (State.takeStage s r bytes).2 := by
  unfold State.takeStage
  try dsimp only
  repeat' first
    | with_reducible assumption | with_reducible apply State.setRing_keeps | with_reducible apply State.tick1_keeps
    | with_reducible apply State.setStage_keeps

theorem State.arrive_keeps (s : State) (r : Nat) (bytes : List Byte) (h : s0.Keeps s) :
    s0.Keeps (State.arrive s r bytes) := by
  unfold State.arrive
  try dsimp only
  repeat' first
    | with_reducible assumption | with_reducible apply State.takeStage_keeps | with_reducible apply State.setRing_keeps

theorem State.fetchFails_keeps (s : State) (r : Nat) (status : Nat) (h : s0.Keeps s) :
    s0.Keeps (State.fetchFails s r status) := by
  unfold State.fetchFails
  try dsimp only
  repeat' first
    | with_reducible assumption
    | (split <;> (rename_i heq; simp only [Prod.ext_iff] at heq; first | obtain ⟨rfl, rfl, rfl, rfl⟩ := heq | obtain ⟨rfl, rfl, rfl⟩ := heq | obtain ⟨rfl, rfl⟩ := heq | obtain ⟨_, rfl⟩ := heq | obtain ⟨_, _, rfl⟩ := heq))
    | split | with_reducible apply State.setRing_keeps | with_reducible apply State.aer_keeps | with_reducible apply State.setStage_keeps
    | with_reducible apply State.finish_keeps | with_reducible apply State.takeStage_keeps

theorem State.readPlace_keeps (s : State) (r : Nat) (h : s0.Keeps s) :
    s0.Keeps (State.readPlace s r).2 := by
  unfold State.readPlace
  try dsimp only
  repeat' first
    | with_reducible assumption
    | (split <;> (rename_i heq; simp only [Prod.ext_iff] at heq; first | obtain ⟨rfl, rfl, rfl, rfl⟩ := heq | obtain ⟨rfl, rfl, rfl⟩ := heq | obtain ⟨rfl, rfl⟩ := heq | obtain ⟨_, rfl⟩ := heq | obtain ⟨_, _, rfl⟩ := heq))
    | split | with_reducible apply State.readPiece_keeps

theorem State.arriveLocal_keeps (s : State) (r n : Nat) (h : s0.Keeps s) : s0.Keeps (s.arriveLocal r n) := by
  induction n generalizing s with
  | zero => exact h
  | succ n ih =>
    have h1 := State.readPlace_keeps s r h
    unfold State.arriveLocal
    split
    · exact h
    · split
      · rename_i heq
        rw [heq] at h1
        exact ih _ (State.arrive_keeps _ _ _ h1)
      · rename_i heq
        rw [heq] at h1
        exact State.fetchFails_keeps _ _ _ h1

theorem execDescriptorArrival_keeps (ring : Nat) (bytes : List Byte) (s : State) (h : s0.Keeps s) :
    ∀ t, execDescriptorArrival ring bytes s = .next t → s0.Keeps t := by
  intro t ht
  unfold execDescriptorArrival answer at ht
  injection ht with ht
  subst ht
  apply State.settle_keeps _ _ h
  try dsimp only
  repeat' first
    | with_reducible assumption | split | with_reducible apply State.arriveLocal_keeps
    | with_reducible apply State.fetchFails_keeps | with_reducible apply State.arrive_keeps | with_reducible apply foldl_keeps
    | (intro; try dsimp only)

theorem execDescriptorFetchFault_keeps (ring : Nat) (how : Completion) (s : State) (h : s0.Keeps s) :
    ∀ t, execDescriptorFetchFault ring how s = .next t → s0.Keeps t := by
  intro t ht
  unfold execDescriptorFetchFault answer at ht
  injection ht with ht
  subst ht
  apply State.settle_keeps _ _ h
  try dsimp only
  repeat' first
    | with_reducible assumption | split | with_reducible apply State.fetchFails_keeps

/-! ### Registers -/

theorem State.wordRead_keeps (s : State) (fn : Nat) (bar : Nat) (a : Nat) (h : s0.Keeps s) :
    s0.Keeps (State.wordRead s fn bar a).2 := by
  unfold State.wordRead
  try dsimp only
  repeat' first
    | with_reducible assumption
    | (split <;> (rename_i heq; simp only [Prod.ext_iff] at heq; first | obtain ⟨rfl, rfl, rfl, rfl⟩ := heq | obtain ⟨rfl, rfl, rfl⟩ := heq | obtain ⟨rfl, rfl⟩ := heq | obtain ⟨_, rfl⟩ := heq | obtain ⟨_, _, rfl⟩ := heq))
    | split | with_reducible apply State.fresh_keeps | exact Kept.draw ‹_›

theorem execRegisterLowWordRead_keeps (fn : Nat) (access : BarRead) (s : State) (h : s0.Keeps s) :
    ∀ t, execRegisterLowWordRead fn access s = .next t → s0.Keeps t := by
  intro t ht
  unfold execRegisterLowWordRead answer at ht
  injection ht with ht
  subst ht
  apply State.settle_keeps _ _ h
  try dsimp only
  repeat' first
    | with_reducible assumption
    | (split <;> (rename_i heq; simp only [Prod.ext_iff] at heq; first | obtain ⟨rfl, rfl, rfl, rfl⟩ := heq | obtain ⟨rfl, rfl, rfl⟩ := heq | obtain ⟨rfl, rfl⟩ := heq | obtain ⟨_, rfl⟩ := heq | obtain ⟨_, _, rfl⟩ := heq))
    | split | with_reducible apply State.emit_keeps | with_reducible apply State.ideRefuse_keeps
    | with_reducible apply State.wordRead_keeps | (intro; try dsimp only)

theorem State.reprio_keeps (s : State) (r : Nat) (cls : Nat) (h : s0.Keeps s) :
    s0.Keeps (State.reprio s r cls) := by
  unfold State.reprio
  try dsimp only
  repeat' first
    | with_reducible assumption | split

theorem State.dspReprio_keeps (s : State) (v : Nat) (h : s0.Keeps s) :
    s0.Keeps (State.dspReprio s v) := by
  unfold State.dspReprio
  try dsimp only
  repeat' first
    | with_reducible assumption | split | with_reducible apply State.reprio_keeps | with_reducible apply State.tick1_keeps

theorem execDspReprio_keeps (view : View) (value : Word32) (s : State) (h : s0.Keeps s) :
    ∀ t, execDspReprio view value s = .next t → s0.Keeps t := by
  intro t ht
  unfold execDspReprio answer at ht
  injection ht with ht
  subst ht
  apply State.settle_keeps _ _ h
  try dsimp only
  repeat' first
    | with_reducible assumption | split | with_reducible apply State.dspReprio_keeps

theorem State.vfReprio_keeps (s : State) (f : Nat) (v : Nat) (h : s0.Keeps s) :
    s0.Keeps (State.vfReprio s f v) := by
  unfold State.vfReprio
  try dsimp only
  repeat' first
    | with_reducible assumption | split | with_reducible apply State.reprio_keeps | with_reducible apply State.tick1_keeps

theorem execHifVfReprio_keeps (fn : Nat) (view : View) (value : Word32) (ide : Bool) (s : State) (h : s0.Keeps s) :
    ∀ t, execHifVfReprio fn view value ide s = .next t → s0.Keeps t := by
  intro t ht
  unfold execHifVfReprio answer at ht
  injection ht with ht
  subst ht
  apply State.settle_keeps _ _ h
  try dsimp only
  repeat' first
    | with_reducible assumption | split | with_reducible apply State.ideRefuse_keeps
    | with_reducible apply State.vfReprio_keeps

theorem State.keyRequest_keeps (s : State) (f : Nat) (v : Nat) (h : s0.Keeps s) :
    s0.Keeps (State.keyRequest s f v) := by
  unfold State.keyRequest
  try dsimp only
  repeat' first
    | with_reducible assumption
    | (split <;> (rename_i heq; simp only [Prod.ext_iff] at heq; first | obtain ⟨rfl, rfl, rfl, rfl⟩ := heq | obtain ⟨rfl, rfl, rfl⟩ := heq | obtain ⟨rfl, rfl⟩ := heq | obtain ⟨_, rfl⟩ := heq | obtain ⟨_, _, rfl⟩ := heq))
    | split | with_reducible apply State.tick1_keeps

theorem execVidKeyReq_keeps (view : View) (value : Word32) (s : State) (h : s0.Keeps s) :
    ∀ t, execVidKeyReq view value s = .next t → s0.Keeps t := by
  intro t ht
  unfold execVidKeyReq answer at ht
  injection ht with ht
  subst ht
  apply State.settle_keeps _ _ h
  try dsimp only
  repeat' first
    | with_reducible assumption | split | with_reducible apply State.keyRequest_keeps

theorem execHifVfKeyReq_keeps (fn : Nat) (view : View) (value : Word32) (ide : Bool) (s : State) (h : s0.Keeps s) :
    ∀ t, execHifVfKeyReq fn view value ide s = .next t → s0.Keeps t := by
  intro t ht
  unfold execHifVfKeyReq answer at ht
  injection ht with ht
  subst ht
  apply State.settle_keeps _ _ h
  try dsimp only
  repeat' first
    | with_reducible assumption | split | with_reducible apply State.ideRefuse_keeps
    | with_reducible apply State.keyRequest_keeps

theorem State.ueAck_keeps (s : State) (view : View) (value : Word32) (h : s0.Keeps s) :
    s0.Keeps (State.ueAck s view value) := by
  unfold State.ueAck
  try dsimp only
  repeat' first
    | with_reducible assumption | with_reducible apply State.setReg_keeps

theorem execMemUeAckWrite_keeps (view : View) (value : Word32) (s : State) (h : s0.Keeps s) :
    ∀ t, execMemUeAckWrite view value s = .next t → s0.Keeps t := by
  intro t ht
  unfold execMemUeAckWrite answer at ht
  injection ht with ht
  subst ht
  apply State.settle_keeps _ _ h
  try dsimp only
  repeat' first
    | with_reducible assumption | split | with_reducible apply State.ueAck_keeps

theorem State.fnTableWrite_keeps (s : State) (f : Nat) (off : Nat) (view : View) (value : Word32) (h : s0.Keeps s) :
    s0.Keeps (State.fnTableWrite s f off view value) := by
  unfold State.fnTableWrite
  try dsimp only
  repeat' first
    | with_reducible assumption | split | with_reducible apply State.tick1_keeps

theorem execHifFnTableWrite_keeps (fn : Nat) (entry : Nat) (register : Nat) (view : View) (value : Word32) (s : State) (h : s0.Keeps s) :
    ∀ t, execHifFnTableWrite fn entry register view value s = .next t → s0.Keeps t := by
  intro t ht
  unfold execHifFnTableWrite answer at ht
  injection ht with ht
  subst ht
  apply State.settle_keeps _ _ h
  try dsimp only
  repeat' first
    | with_reducible assumption | split | with_reducible apply State.fnTableWrite_keeps

theorem State.msixWrite_keeps (s : State) (f : Nat) (v : Nat) (k : Nat) (value : Word32) (h : s0.Keeps s) :
    s0.Keeps (State.msixWrite s f v k value) := by
  unfold State.msixWrite
  try dsimp only
  repeat' first
    | with_reducible assumption
    | (split <;> (rename_i heq; simp only [Prod.ext_iff] at heq; first | obtain ⟨rfl, rfl, rfl, rfl⟩ := heq | obtain ⟨rfl, rfl, rfl⟩ := heq | obtain ⟨rfl, rfl⟩ := heq | obtain ⟨_, rfl⟩ := heq | obtain ⟨_, _, rfl⟩ := heq))
    | split | with_reducible apply State.msix_keeps

theorem State.ringWrite_keeps (s : State) (f : Nat) (offset : Nat) (view : View) (value : Word32) (ide : Bool) (h : s0.Keeps s) :
    s0.Keeps (State.ringWrite s f offset view value ide) := by
  unfold State.ringWrite
  try dsimp only
  repeat' first
    | with_reducible assumption
    | (split <;> (rename_i heq; simp only [Prod.ext_iff] at heq; first | obtain ⟨rfl, rfl, rfl, rfl⟩ := heq | obtain ⟨rfl, rfl, rfl⟩ := heq | obtain ⟨rfl, rfl⟩ := heq | obtain ⟨_, rfl⟩ := heq | obtain ⟨_, _, rfl⟩ := heq))
    | split | with_reducible apply State.setRing_keeps | with_reducible apply State.ideRefuse_keeps
    | with_reducible apply State.doorbell_keeps | with_reducible apply State.ringCommand_keeps | (intro; try dsimp only)

theorem State.pfWrite_keeps (s : State) (a : Nat) (view : View) (value : Word32) (h : s0.Keeps s) :
    s0.Keeps (State.pfWrite s a view value) := by
  unfold State.pfWrite
  try dsimp only
  repeat' first
    | with_reducible assumption
    | (split <;> (rename_i heq; simp only [Prod.ext_iff] at heq; first | obtain ⟨rfl, rfl, rfl, rfl⟩ := heq | obtain ⟨rfl, rfl, rfl⟩ := heq | obtain ⟨rfl, rfl⟩ := heq | obtain ⟨_, rfl⟩ := heq | obtain ⟨_, _, rfl⟩ := heq))
    | split | with_reducible apply State.setReg_keeps | with_reducible apply State.fnTableWrite_keeps
    | with_reducible apply State.msixWrite_keeps | with_reducible apply State.dspReprio_keeps
    | with_reducible apply State.keyRequest_keeps | with_reducible apply State.regCtrlWrite_keeps
    | with_reducible apply State.regExtentWrite_keeps

theorem State.vfWrite_keeps (s : State) (f : Nat) (a : Nat) (view : View) (value : Word32) (h : s0.Keeps s) :
    s0.Keeps (State.vfWrite s f a view value) := by
  unfold State.vfWrite
  try dsimp only
  repeat' first
    | with_reducible assumption | split | with_reducible apply State.vfReprio_keeps
    | with_reducible apply State.keyRequest_keeps | with_reducible apply State.msixWrite_keeps

theorem execRegisterWrite_keeps (fn : Nat) (bar : Nat) (page : Nat) (offset : Nat) (value : Word32) (ide : Bool) (s : State) (h : s0.Keeps s) :
    ∀ t, execRegisterWrite fn bar page offset value ide s = .next t → s0.Keeps t := by
  intro t ht
  unfold execRegisterWrite answer at ht
  injection ht with ht
  subst ht
  apply State.settle_keeps _ _ h
  try dsimp only
  repeat' first
    | with_reducible assumption
    | (split <;> (rename_i heq; simp only [Prod.ext_iff] at heq; first | obtain ⟨rfl, rfl, rfl, rfl⟩ := heq | obtain ⟨rfl, rfl, rfl⟩ := heq | obtain ⟨rfl, rfl⟩ := heq | obtain ⟨_, rfl⟩ := heq | obtain ⟨_, _, rfl⟩ := heq))
    | split | with_reducible apply State.ideRefuse_keeps | with_reducible apply State.ringWrite_keeps
    | with_reducible apply State.pfWrite_keeps | with_reducible apply State.vfWrite_keeps

/-! ### Reset -/

theorem State.headland_keeps (s : State) (h : s0.Keeps s) :
    s0.Keeps (State.headland s) :=
  h

theorem State.deviceReset_keeps (s : State) (powerOn : Bool) (code : Nat) (h : s0.Keeps s) : s0.Keeps (s.deviceReset powerOn code) :=
  (Kept.filter_cells h _).no_lines

/-! ### Store -/

theorem State.beginCommit_keeps (s : State) (token : Bool) (h : s0.Keeps s) :
    s0.Keeps (State.beginCommit s token) := by
  unfold State.beginCommit
  try dsimp only
  repeat' first
    | with_reducible assumption | split | with_reducible apply State.headland_keeps

theorem State.bringupCommit_keeps (s : State) (h : s0.Keeps s) :
    s0.Keeps (State.bringupCommit s) := by
  unfold State.bringupCommit
  try dsimp only
  repeat' first
    | with_reducible assumption | with_reducible apply State.beginCommit_keeps

theorem State.endCommit_keeps (s : State) (verified : Bool) (h : s0.Keeps s) :
    s0.Keeps (State.endCommit s verified) := by
  unfold State.endCommit
  try dsimp only
  repeat' first
    | with_reducible assumption
    | (split <;> (rename_i heq; simp only [Prod.ext_iff] at heq; first | obtain ⟨rfl, rfl, rfl, rfl⟩ := heq | obtain ⟨rfl, rfl, rfl⟩ := heq | obtain ⟨rfl, rfl⟩ := heq | obtain ⟨_, rfl⟩ := heq | obtain ⟨_, _, rfl⟩ := heq))
    | split | with_reducible apply State.log_keeps

theorem State.setRec_keeps (s : State) (step : Nat) (k : Nat) (r : BrRec) (h : s0.Keeps s) :
    s0.Keeps (State.setRec s step k r) :=
  h

theorem State.loadValue_keeps (s : State) (i : Nat) (sub : Nat) (v : List Byte) (h : s0.Keeps s) :
    s0.Keeps (State.loadValue s i sub v) := by
  unfold State.loadValue
  try dsimp only
  repeat' first
    | with_reducible assumption
    | (split <;> (rename_i heq; simp only [Prod.ext_iff] at heq; first | obtain ⟨rfl, rfl, rfl, rfl⟩ := heq | obtain ⟨rfl, rfl, rfl⟩ := heq | obtain ⟨rfl, rfl⟩ := heq | obtain ⟨_, rfl⟩ := heq | obtain ⟨_, _, rfl⟩ := heq))
    | split | with_reducible apply State.setUnit_keeps | with_reducible apply State.setRec_keeps

theorem State.applyEntries_keeps (s : State) (es : List StoreEntry) (h : s0.Keeps s) :
    s0.Keeps (State.applyEntries s es).2 := by
  unfold State.applyEntries
  try dsimp only
  repeat' first
    | with_reducible assumption
    | (split <;> (rename_i heq; simp only [Prod.ext_iff] at heq; first | obtain ⟨rfl, rfl, rfl, rfl⟩ := heq | obtain ⟨rfl, rfl, rfl⟩ := heq | obtain ⟨rfl, rfl⟩ := heq | obtain ⟨_, rfl⟩ := heq | obtain ⟨_, _, rfl⟩ := heq))
    | split | with_reducible apply State.log_keeps | with_reducible apply State.loadValue_keeps | with_reducible apply foldl_keeps
    | with_reducible apply foldl_keeps2 | with_reducible apply foldl_keeps3 | (intro; try dsimp only)

theorem State.loadStore_keeps (s : State) (absent : Bool) (h : s0.Keeps s) :
    s0.Keeps (State.loadStore s absent) := by
  unfold State.loadStore
  try dsimp only
  repeat' first
    | with_reducible assumption
    | (split <;> (rename_i heq; simp only [Prod.ext_iff] at heq; first | obtain ⟨rfl, rfl, rfl, rfl⟩ := heq | obtain ⟨rfl, rfl, rfl⟩ := heq | obtain ⟨rfl, rfl⟩ := heq | obtain ⟨_, rfl⟩ := heq | obtain ⟨_, _, rfl⟩ := heq))
    | split | with_reducible apply State.log_keeps | with_reducible apply State.applyEntries_keeps

theorem State.toDefault_keeps (s : State) (i : Nat) (sub : Nat) (h : s0.Keeps s) :
    s0.Keeps (State.toDefault s i sub) :=
  h

theorem State.followSettings_keeps (s : State) (h : s0.Keeps s) :
    s0.Keeps (State.followSettings s) := by
  unfold State.followSettings
  try dsimp only
  repeat' first
    | with_reducible assumption
    | (split <;> (rename_i heq; simp only [Prod.ext_iff] at heq; first | obtain ⟨rfl, rfl, rfl, rfl⟩ := heq | obtain ⟨rfl, rfl, rfl⟩ := heq | obtain ⟨rfl, rfl⟩ := heq | obtain ⟨_, rfl⟩ := heq | obtain ⟨_, _, rfl⟩ := heq))
    | split | with_reducible apply State.laserOutputs_keeps | with_reducible apply foldl_keeps | with_reducible apply foldl_keeps2
    | with_reducible apply foldl_keeps3 | (intro; try dsimp only)

theorem State.sealCheck_keeps (s : State) (h : s0.Keeps s) :
    s0.Keeps (State.sealCheck s) := by
  unfold State.sealCheck
  try dsimp only
  repeat' first
    | with_reducible assumption
    | (split <;> (rename_i heq; simp only [Prod.ext_iff] at heq; first | obtain ⟨rfl, rfl, rfl, rfl⟩ := heq | obtain ⟨rfl, rfl, rfl⟩ := heq | obtain ⟨rfl, rfl⟩ := heq | obtain ⟨_, rfl⟩ := heq | obtain ⟨_, _, rfl⟩ := heq))
    | split | with_reducible apply State.log_keeps | with_reducible apply State.notifySecure_keeps
    | with_reducible apply State.toDefault_keeps | with_reducible apply State.followSettings_keeps | with_reducible apply foldl_keeps
    | with_reducible apply foldl_keeps2 | with_reducible apply foldl_keeps3 | (intro; try dsimp only)

theorem State.restoreDefaults_keeps (s : State) (secure : Bool) (h : s0.Keeps s) :
    s0.Keeps (State.restoreDefaults s secure) := by
  unfold State.restoreDefaults
  try dsimp only
  repeat' first
    | with_reducible assumption
    | (split <;> (rename_i heq; simp only [Prod.ext_iff] at heq; first | obtain ⟨rfl, rfl, rfl, rfl⟩ := heq | obtain ⟨rfl, rfl, rfl⟩ := heq | obtain ⟨rfl, rfl⟩ := heq | obtain ⟨_, rfl⟩ := heq | obtain ⟨_, _, rfl⟩ := heq))
    | split | with_reducible apply State.touchStore_keeps | with_reducible apply State.toDefault_keeps
    | with_reducible apply State.followSettings_keeps | with_reducible apply foldl_keeps | with_reducible apply foldl_keeps2
    | with_reducible apply foldl_keeps3 | (intro; try dsimp only)

theorem execStoreCommitStart_keeps (s : State) (h : s0.Keeps s) :
    ∀ t, execStoreCommitStart s = .next t → s0.Keeps t := by
  intro t ht
  unfold execStoreCommitStart answer at ht
  injection ht with ht
  subst ht
  apply State.settle_keeps _ _ h
  try dsimp only
  repeat' first
    | with_reducible assumption | split | with_reducible apply State.beginCommit_keeps

theorem execStoreCommitEnd_keeps (verified : Bool) (s : State) (h : s0.Keeps s) :
    ∀ t, execStoreCommitEnd verified s = .next t → s0.Keeps t := by
  intro t ht
  unfold execStoreCommitEnd answer at ht
  injection ht with ht
  subst ht
  apply State.settle_keeps _ _ h
  try dsimp only
  repeat' first
    | with_reducible assumption | split | with_reducible apply State.endCommit_keeps
    | with_reducible apply State.deviceReset_keeps

theorem execStoreTokenTick_keeps (s : State) (h : s0.Keeps s) :
    ∀ t, execStoreTokenTick s = .next t → s0.Keeps t := by
  intro t ht
  unfold execStoreTokenTick answer at ht
  injection ht with ht
  subst ht
  apply State.settle_keeps _ _ h
  try dsimp only
  repeat' first
    | with_reducible assumption | with_reducible apply State.headland_keeps

theorem State.setFw_keeps (s : State) (k : Nat) (x : FwSlot) (h : s0.Keeps s) :
    s0.Keeps (State.setFw s k x) :=
  h

theorem execFwSlotEraseComplete_keeps (slot : Nat) (s : State) (h : s0.Keeps s) :
    ∀ t, execFwSlotEraseComplete slot s = .next t → s0.Keeps t := by
  intro t ht
  unfold execFwSlotEraseComplete answer at ht
  injection ht with ht
  subst ht
  apply State.settle_keeps _ _ h
  try dsimp only
  repeat' first
    | with_reducible assumption | split | with_reducible apply State.setFw_keeps

/-! ### Power -/

theorem execDomainClockGate_keeps (domain : Nat) (s : State) (h : s0.Keeps s) :
    ∀ t, execDomainClockGate domain s = .next t → s0.Keeps t := by
  intro t ht
  unfold execDomainClockGate answer at ht
  injection ht with ht
  subst ht
  apply State.settle_keeps _ _ h
  try dsimp only
  repeat' first
    | with_reducible assumption | split | with_reducible apply State.setDomain_keeps

theorem execDomainDrainStart_keeps (domain : Nat) (s : State) (h : s0.Keeps s) :
    ∀ t, execDomainDrainStart domain s = .next t → s0.Keeps t := by
  intro t ht
  unfold execDomainDrainStart answer at ht
  injection ht with ht
  subst ht
  apply State.settle_keeps _ _ h
  try dsimp only
  repeat' first
    | with_reducible assumption | split | with_reducible apply State.setDomain_keeps

theorem execDomainDrainComplete_keeps (domain : Nat) (s : State) (h : s0.Keeps s) :
    ∀ t, execDomainDrainComplete domain s = .next t → s0.Keeps t := by
  intro t ht
  unfold execDomainDrainComplete answer at ht
  injection ht with ht
  subst ht
  apply State.settle_keeps _ _ h
  try dsimp only
  repeat' first
    | with_reducible assumption | split | with_reducible apply State.setDomain_keeps

theorem execDomainPowerOffComplete_keeps (domain : Nat) (s : State) (h : s0.Keeps s) :
    ∀ t, execDomainPowerOffComplete domain s = .next t → s0.Keeps t := by
  intro t ht
  unfold execDomainPowerOffComplete answer at ht
  injection ht with ht
  subst ht
  apply State.settle_keeps _ _ h
  try dsimp only
  repeat' first
    | with_reducible assumption | split | with_reducible apply State.startWakes_keeps
    | with_reducible apply State.setDomain_keeps

theorem State.hold_keeps (s : State) (d : Nat) (packet : Nat) (h : s0.Keeps s) :
    s0.Keeps (State.hold s d packet) := by
  unfold State.hold
  try dsimp only
  repeat' first
    | with_reducible assumption | split

theorem execGatePacketArrival_keeps (domain : Nat) (packet : Nat) (s : State) (h : s0.Keeps s) :
    ∀ t, execGatePacketArrival domain packet s = .next t → s0.Keeps t := by
  intro t ht
  unfold execGatePacketArrival answer at ht
  injection ht with ht
  subst ht
  apply State.settle_keeps _ _ h
  try dsimp only
  repeat' first
    | with_reducible assumption
    | (split <;> (rename_i heq; simp only [Prod.ext_iff] at heq; first | obtain ⟨rfl, rfl, rfl, rfl⟩ := heq | obtain ⟨rfl, rfl, rfl⟩ := heq | obtain ⟨rfl, rfl⟩ := heq | obtain ⟨_, rfl⟩ := heq | obtain ⟨_, _, rfl⟩ := heq))
    | split | with_reducible apply State.knock_keeps | with_reducible apply State.hold_keeps

theorem State.freshDomain_keeps (s : State) (d : Nat) (h : s0.Keeps s) :
    s0.Keeps (State.freshDomain s d) := by
  unfold State.freshDomain
  try dsimp only
  repeat' first
    | with_reducible assumption | split | with_reducible apply State.setCore_keeps | with_reducible apply Kept.draw

theorem execDomainWakeComplete_keeps (domain : Nat) (s : State) (h : s0.Keeps s) :
    ∀ t, execDomainWakeComplete domain s = .next t → s0.Keeps t := by
  intro t ht
  unfold execDomainWakeComplete answer at ht
  injection ht with ht
  subst ht
  apply State.settle_keeps _ _ h
  try dsimp only
  repeat' first
    | with_reducible assumption | split | with_reducible apply State.setDomain_keeps | with_reducible apply State.takeGated_keeps
    | with_reducible apply State.freshDomain_keeps

theorem execDomainWakeWindow_keeps (s : State) (h : s0.Keeps s) :
    ∀ t, execDomainWakeWindow s = .next t → s0.Keeps t := by
  intro t ht
  unfold execDomainWakeWindow answer at ht
  injection ht with ht
  subst ht
  apply State.settle_keeps _ _ h
  try dsimp only
  repeat' first
    | with_reducible assumption | with_reducible apply State.startWakes_keeps

theorem execHeadlandClockIdleStop_keeps (s : State) (h : s0.Keeps s) :
    ∀ t, execHeadlandClockIdleStop s = .next t → s0.Keeps t := by
  intro t ht
  unfold execHeadlandClockIdleStop answer at ht
  injection ht with ht
  subst ht
  apply State.settle_keeps _ _ h
  try dsimp only
  repeat' first
    | with_reducible assumption | split

theorem State.writeSetPoint_keeps (s : State) (h : s0.Keeps s) :
    s0.Keeps (State.writeSetPoint s) :=
  h

theorem State.setTarget_keeps (s : State) (f : Nat) (p : Nat) (h : s0.Keeps s) :
    s0.Keeps (State.setTarget s f p) :=
  h

theorem execDvfsTick_keeps (power : List Nat) (s : State) (h : s0.Keeps s) :
    ∀ t, execDvfsTick power s = .next t → s0.Keeps t := by
  intro t ht
  unfold execDvfsTick answer at ht
  injection ht with ht
  subst ht
  apply State.settle_keeps _ _ h
  try dsimp only
  repeat' first
    | with_reducible assumption | split | with_reducible apply State.bump_keeps | with_reducible apply State.setTarget_keeps
    | with_reducible apply State.writeSetPoint_keeps | with_reducible apply foldl_keeps | (intro; try dsimp only)

theorem execPstateChangeComplete_keeps (die : Nat) (s : State) (h : s0.Keeps s) :
    ∀ t, execPstateChangeComplete die s = .next t → s0.Keeps t := by
  intro t ht
  unfold execPstateChangeComplete answer at ht
  injection ht with ht
  subst ht
  apply State.settle_keeps _ _ h
  try dsimp only
  repeat' first
    | with_reducible assumption | split | with_reducible apply State.writeSetPoint_keeps

theorem State.supplyWarn_keeps (s : State) (rail : Nat) (mv : Nat) (h : s0.Keeps s) :
    s0.Keeps (State.supplyWarn s rail mv) := by
  unfold State.supplyWarn
  try dsimp only
  repeat' first
    | with_reducible assumption
    | (split <;> (rename_i heq; simp only [Prod.ext_iff] at heq; first | obtain ⟨rfl, rfl, rfl, rfl⟩ := heq | obtain ⟨rfl, rfl, rfl⟩ := heq | obtain ⟨rfl, rfl⟩ := heq | obtain ⟨_, rfl⟩ := heq | obtain ⟨_, _, rfl⟩ := heq))
    | split | with_reducible apply State.tick1_keeps

theorem execSupplyWarning_keeps (rail : Nat) (millivolts : Nat) (s : State) (h : s0.Keeps s) :
    ∀ t, execSupplyWarning rail millivolts s = .next t → s0.Keeps t := by
  intro t ht
  unfold execSupplyWarning answer at ht
  injection ht with ht
  subst ht
  apply State.settle_keeps _ _ h
  try dsimp only
  repeat' first
    | with_reducible assumption | split | with_reducible apply State.supplyWarn_keeps

theorem execSupplyWarningRecover_keeps (s : State) (h : s0.Keeps s) :
    ∀ t, execSupplyWarningRecover s = .next t → s0.Keeps t := by
  intro t ht
  unfold execSupplyWarningRecover answer at ht
  injection ht with ht
  subst ht
  apply State.settle_keeps _ _ h
  try dsimp only
  repeat' first
    | with_reducible assumption | with_reducible apply State.log_keeps | with_reducible apply foldl_keeps
    | (intro; try dsimp only)

theorem execSupplyResetLevel_keeps (rail : Nat) (millivolts : Nat) (s : State) (h : s0.Keeps s) :
    ∀ t, execSupplyResetLevel rail millivolts s = .next t → s0.Keeps t := by
  intro t ht
  unfold execSupplyResetLevel answer at ht
  injection ht with ht
  subst ht
  apply State.settle_keeps _ _ h
  try dsimp only
  repeat' first
    | with_reducible assumption | split | with_reducible apply State.deviceReset_keeps

theorem execAvsReadback_keeps (millivolts : Option Nat) (s : State) (h : s0.Keeps s) :
    ∀ t, execAvsReadback millivolts s = .next t → s0.Keeps t := by
  intro t ht
  unfold execAvsReadback answer at ht
  injection ht with ht
  subst ht
  apply State.settle_keeps _ _ h
  try dsimp only
  repeat' first
    | with_reducible assumption
    | (split <;> (rename_i heq; simp only [Prod.ext_iff] at heq; first | obtain ⟨rfl, rfl, rfl, rfl⟩ := heq | obtain ⟨rfl, rfl, rfl⟩ := heq | obtain ⟨rfl, rfl⟩ := heq | obtain ⟨_, rfl⟩ := heq | obtain ⟨_, _, rfl⟩ := heq))
    | split | with_reducible apply State.supplyWarn_keeps

theorem execCurrentLimitTrip_keeps (s : State) (h : s0.Keeps s) :
    ∀ t, execCurrentLimitTrip s = .next t → s0.Keeps t := by
  intro t ht
  unfold execCurrentLimitTrip answer at ht
  injection ht with ht
  subst ht
  apply State.settle_keeps _ _ h
  try dsimp only
  repeat' first
    | with_reducible assumption | split | with_reducible apply State.tick1_keeps

theorem execCurrentLimitRelease_keeps (s : State) (h : s0.Keeps s) :
    ∀ t, execCurrentLimitRelease s = .next t → s0.Keeps t := by
  intro t ht
  unfold execCurrentLimitRelease answer at ht
  injection ht with ht
  subst ht
  apply State.settle_keeps _ _ h
  try dsimp only
  repeat' first
    | with_reducible assumption
    | (split <;> (rename_i heq; simp only [Prod.ext_iff] at heq; first | obtain ⟨rfl, rfl, rfl, rfl⟩ := heq | obtain ⟨rfl, rfl, rfl⟩ := heq | obtain ⟨rfl, rfl⟩ := heq | obtain ⟨_, rfl⟩ := heq | obtain ⟨_, _, rfl⟩ := heq))
    | split | with_reducible apply State.log_keeps

theorem State.logHot_keeps (s : State) (old : Hot) (new : Hot) (die : Nat) (row : Nat) (t : Nat) (h : s0.Keeps s) :
    s0.Keeps (State.logHot s old new die row t) := by
  unfold State.logHot
  try dsimp only
  repeat' first
    | with_reducible assumption | split | with_reducible apply State.log_keeps

theorem State.readThrottle_keeps (s : State) (f : Nat) (t : Nat) (h : s0.Keeps s) :
    s0.Keeps (State.readThrottle s f t) := by
  unfold State.readThrottle
  try dsimp only
  repeat' first
    | with_reducible assumption | with_reducible apply State.logHot_keeps

theorem State.readHard_keeps (s : State) (die : Nat) (t : Nat) (h : s0.Keeps s) :
    s0.Keeps (State.readHard s die t) := by
  unfold State.readHard
  try dsimp only
  repeat' first
    | with_reducible assumption | split | with_reducible apply State.logHot_keeps | with_reducible apply State.setTarget_keeps

theorem execDieTempSample_keeps (readings : List Nat) (s : State) (h : s0.Keeps s) :
    ∀ t, execDieTempSample readings s = .next t → s0.Keeps t := by
  intro t ht
  unfold execDieTempSample answer at ht
  injection ht with ht
  subst ht
  apply State.settle_keeps _ _ h
  try dsimp only
  repeat' first
    | with_reducible assumption | split | with_reducible apply State.readThrottle_keeps
    | with_reducible apply State.readHard_keeps | with_reducible apply State.emit_keeps | with_reducible apply foldl_keeps
    | (intro; try dsimp only)

theorem execThermalTrip_keeps (die : Nat) (s : State) (h : s0.Keeps s) :
    ∀ t, execThermalTrip die s = .next t → s0.Keeps t := by
  intro t ht
  unfold execThermalTrip answer at ht
  injection ht with ht
  subst ht
  apply State.settle_keeps _ _ h
  try dsimp only
  repeat' first
    | with_reducible assumption | split | with_reducible apply State.deviceReset_keeps | with_reducible apply State.emit_keeps
    | with_reducible apply State.log_keeps

/-! ### Memory -/

theorem State.wait_keeps (s : State) (w : Waiting) (h : s0.Keeps s) :
    s0.Keeps (State.wait s w) :=
  h

theorem State.writeDone_keeps (s : State) (who : Requester) (a : Nat) (status : Nat) (h : s0.Keeps s) :
    s0.Keeps (State.writeDone s who a status) := by
  unfold State.writeDone
  try dsimp only
  repeat' first
    | with_reducible assumption | split | with_reducible apply State.meet_keeps | with_reducible apply State.log_keeps

theorem State.memRead_keeps (s : State) (who : Requester) (a : Nat) (n : Nat) (hint : Nat) (h : s0.Keeps s) :
    s0.Keeps (State.memRead s who a n hint) := by
  unfold State.memRead
  try dsimp only
  repeat' first
    | with_reducible assumption
    | (split <;> (rename_i heq; simp only [Prod.ext_iff] at heq; first | obtain ⟨rfl, rfl, rfl, rfl⟩ := heq | obtain ⟨rfl, rfl, rfl⟩ := heq | obtain ⟨rfl, rfl⟩ := heq | obtain ⟨_, rfl⟩ := heq | obtain ⟨_, _, rfl⟩ := heq))
    | split | with_reducible apply State.readPiece_keeps | with_reducible apply State.emit_keeps
    | with_reducible apply State.meet_keeps

theorem State.memWrite_keeps (s : State) (who : Requester) (a : Nat) (bs : List Byte) (hint : Nat) (h : s0.Keeps s) :
    s0.Keeps (State.memWrite s who a bs hint) := by
  unfold State.memWrite
  try dsimp only
  repeat' first
    | with_reducible assumption
    | (split <;> (rename_i heq; simp only [Prod.ext_iff] at heq; first | obtain ⟨rfl, rfl, rfl, rfl⟩ := heq | obtain ⟨rfl, rfl, rfl⟩ := heq | obtain ⟨rfl, rfl⟩ := heq | obtain ⟨_, rfl⟩ := heq | obtain ⟨_, _, rfl⟩ := heq))
    | with_reducible apply State.writePiece_keeps | with_reducible apply State.writeDone_keeps

theorem State.memAtomic_keeps (s : State) (who : Requester) (a : Nat) (op : Nat) (fmt : Nat) (wrap : Bool) (bs : List Byte) (h : s0.Keeps s) :
    s0.Keeps (State.memAtomic s who a op fmt wrap bs) := by
  unfold State.memAtomic
  try dsimp only
  repeat' first
    | with_reducible assumption
    | (split <;> (rename_i heq; simp only [Prod.ext_iff] at heq; first | obtain ⟨rfl, rfl, rfl, rfl⟩ := heq | obtain ⟨rfl, rfl, rfl⟩ := heq | obtain ⟨rfl, rfl⟩ := heq | obtain ⟨_, rfl⟩ := heq | obtain ⟨_, _, rfl⟩ := heq))
    | split | with_reducible apply State.atomicFor_keeps | with_reducible apply State.raise_keeps
    | with_reducible apply State.meet_keeps

theorem State.bar4Piece_keeps (s : State) (who : Requester) (a : Nat) (n : Nat) (h : s0.Keeps s) :
    s0.Keeps (State.bar4Piece s who a n).2.2 := by
  unfold State.bar4Piece
  try dsimp only
  repeat' first
    | with_reducible assumption
    | (split <;> (rename_i heq; simp only [Prod.ext_iff] at heq; first | obtain ⟨rfl, rfl, rfl, rfl⟩ := heq | obtain ⟨rfl, rfl, rfl⟩ := heq | obtain ⟨rfl, rfl⟩ := heq | obtain ⟨_, rfl⟩ := heq | obtain ⟨_, _, rfl⟩ := heq))
    | split | with_reducible apply State.readPiece_keeps

theorem State.bar4Read_keeps (s : State) (who : Requester) (a : Nat) (n : Nat) (h : s0.Keeps s) :
    s0.Keeps (State.bar4Read s who a n) := by
  unfold State.bar4Read
  try dsimp only
  repeat' first
    | with_reducible assumption
    | (split <;> (rename_i heq; simp only [Prod.ext_iff] at heq; first | obtain ⟨rfl, rfl, rfl, rfl⟩ := heq | obtain ⟨rfl, rfl, rfl⟩ := heq | obtain ⟨rfl, rfl⟩ := heq | obtain ⟨_, rfl⟩ := heq | obtain ⟨_, _, rfl⟩ := heq))
    | split | with_reducible apply State.bar4Piece_keeps | with_reducible apply State.emit_keeps
    | with_reducible apply foldl_keeps3 | (intro; try dsimp only)

theorem State.bar4Ask_keeps (s : State) (who : Requester) (a : Nat) (n : Nat) (h : s0.Keeps s) :
    s0.Keeps (State.bar4Ask s who a n) := by
  unfold State.bar4Ask
  try dsimp only
  repeat' first
    | with_reducible assumption
    | (split <;> (rename_i heq; simp only [Prod.ext_iff] at heq; first | obtain ⟨rfl, rfl, rfl, rfl⟩ := heq | obtain ⟨rfl, rfl, rfl⟩ := heq | obtain ⟨rfl, rfl⟩ := heq | obtain ⟨_, rfl⟩ := heq | obtain ⟨_, _, rfl⟩ := heq))
    | split | with_reducible apply State.wait_keeps | with_reducible apply State.bar4Read_keeps | (intro; try dsimp only)

theorem State.serve_keeps (s : State) (k : Waiting) (h : s0.Keeps s) : s0.Keeps (s.serve k) := by
  unfold State.serve
  split
  · exact State.memRead_keeps _ _ _ _ _ h
  · exact State.memWrite_keeps _ _ _ _ _ h
  · exact State.memAtomic_keeps _ _ _ _ _ _ _ h
  · exact State.bar4Ask_keeps _ _ _ _ h

theorem State.serveLine_keeps (s : State) (l : Nat) (h : s0.Keeps s) :
    s0.Keeps (State.serveLine s l) := by
  unfold State.serveLine
  try dsimp only
  repeat' first
    | with_reducible assumption | with_reducible apply State.serve_keeps | with_reducible apply foldl_keeps
    | (intro; try dsimp only)

theorem State.issue_keeps (s : State) (u : Nat) (h : s0.Keeps s) :
    s0.Keeps (State.issue s u) := by
  unfold State.issue
  try dsimp only
  repeat' first
    | with_reducible assumption
    | (split <;> (rename_i heq; simp only [Prod.ext_iff] at heq; first | obtain ⟨rfl, rfl, rfl, rfl⟩ := heq | obtain ⟨rfl, rfl, rfl⟩ := heq | obtain ⟨rfl, rfl⟩ := heq | obtain ⟨_, rfl⟩ := heq | obtain ⟨_, _, rfl⟩ := heq))
    | split | with_reducible apply State.serveLine_keeps | with_reducible apply foldl_keeps | (intro; try dsimp only)

theorem State.scratchPut_keeps (s : State) (a : Nat) (bs : List Byte) (h : s0.Keeps s) : s0.Keeps (s.scratchPut a bs) := by
  unfold State.scratchPut
  extract_lets l t src u
  have ht : s0.Keeps t := h
  have hu : s0.Keeps u := by
    show s0.Keeps (if (t.resident l).isSome = true then t else _)
    split
    · exact ht
    · rename_i hn
      exact (Kept.add_line ht { line := l, secure := true, cls := .normal }
        (fun x hx => State.resident_none (by simpa using hn) x hx) (fun x hx => by cases hx)).2
  exact State.storeLine_keeps _ _ _ _ _ hu

theorem State.requestRead_keeps (s : State) (who : Requester) (a : Nat) (n : Nat) (hint : Nat) (h : s0.Keeps s) :
    s0.Keeps (State.requestRead s who a n hint) := by
  unfold State.requestRead
  try dsimp only
  repeat' first
    | with_reducible assumption
    | (split <;> (rename_i heq; simp only [Prod.ext_iff] at heq; first | obtain ⟨rfl, rfl, rfl, rfl⟩ := heq | obtain ⟨rfl, rfl, rfl⟩ := heq | obtain ⟨rfl, rfl⟩ := heq | obtain ⟨_, rfl⟩ := heq | obtain ⟨_, _, rfl⟩ := heq))
    | split | with_reducible apply State.tick1_keeps | with_reducible apply State.emit_keeps | with_reducible apply State.meet_keeps
    | with_reducible apply State.deny_keeps | with_reducible apply State.wait_keeps | with_reducible apply State.memRead_keeps
    | (intro; try dsimp only)

theorem execMemoryRead_keeps (who : Requester) (addr : Nat) (length : Nat) (hint : Nat) (s : State) (h : s0.Keeps s) :
    ∀ t, execMemoryRead who addr length hint s = .next t → s0.Keeps t := by
  intro t ht
  unfold execMemoryRead answer at ht
  injection ht with ht
  subst ht
  apply State.settle_keeps _ _ h
  try dsimp only
  repeat' first
    | with_reducible assumption | with_reducible apply State.requestRead_keeps | with_reducible apply foldl_keeps
    | (intro; try dsimp only)

theorem State.requestWrite_keeps (s : State) (who : Requester) (a : Nat) (bs : List Byte) (hint : Nat) (h : s0.Keeps s) :
    s0.Keeps (State.requestWrite s who a bs hint) := by
  unfold State.requestWrite
  try dsimp only
  repeat' first
    | with_reducible assumption
    | (split <;> (rename_i heq; simp only [Prod.ext_iff] at heq; first | obtain ⟨rfl, rfl, rfl, rfl⟩ := heq | obtain ⟨rfl, rfl, rfl⟩ := heq | obtain ⟨rfl, rfl⟩ := heq | obtain ⟨_, rfl⟩ := heq | obtain ⟨_, _, rfl⟩ := heq))
    | split | with_reducible apply State.meet_keeps | with_reducible apply State.deny_keeps | with_reducible apply State.wait_keeps
    | with_reducible apply State.memWrite_keeps | with_reducible apply State.scratchPut_keeps

theorem execMemoryWrite_keeps (who : Requester) (addr : Nat) (bytes : List Byte) (hint : Nat) (s : State) (h : s0.Keeps s) :
    ∀ t, execMemoryWrite who addr bytes hint s = .next t → s0.Keeps t := by
  intro t ht
  unfold execMemoryWrite answer at ht
  injection ht with ht
  subst ht
  apply State.settle_keeps _ _ h
  try dsimp only
  repeat' first
    | with_reducible assumption | with_reducible apply State.requestWrite_keeps | with_reducible apply foldl_keeps
    | (intro; try dsimp only)

theorem State.requestAtomic_keeps (s : State) (who : Requester) (a : Nat) (op : Nat) (fmt : Nat) (wrap : Bool) (bs : List Byte) (h : s0.Keeps s) :
    s0.Keeps (State.requestAtomic s who a op fmt wrap bs) := by
  unfold State.requestAtomic
  try dsimp only
  repeat' first
    | with_reducible assumption | split | with_reducible apply State.tick1_keeps | with_reducible apply State.wait_keeps
    | with_reducible apply State.memAtomic_keeps | with_reducible apply State.scratchPut_keeps

theorem execAtomicRequest_keeps (who : Requester) (addr : Nat) (op : Nat) (fmt : Nat) (wrap : Bool) (bytes : List Byte) (s : State) (h : s0.Keeps s) :
    ∀ t, execAtomicRequest who addr op fmt wrap bytes s = .next t → s0.Keeps t := by
  intro t ht
  unfold execAtomicRequest answer at ht
  injection ht with ht
  subst ht
  apply State.settle_keeps _ _ h
  try dsimp only
  repeat' first
    | with_reducible assumption | split | with_reducible apply State.requestAtomic_keeps

theorem State.startRemap_keeps (s : State) (u : Nat) (row : Nat) (h : s0.Keeps s) :
    s0.Keeps (State.startRemap s u row) := by
  unfold State.startRemap
  try dsimp only
  repeat' first
    | with_reducible assumption | split | with_reducible apply State.log_keeps | with_reducible apply State.setUnit_keeps

theorem State.poisonLine_keeps (s : State) (u : Nat) (l : Nat) (h : s0.Keeps s) :
    s0.Keeps (State.poisonLine s u l) := by
  unfold State.poisonLine
  try dsimp only
  repeat' first
    | with_reducible assumption | split | with_reducible apply State.log_keeps | with_reducible apply State.setUnit_keeps

theorem State.correct_keeps (s : State) (u : Nat) (l : Nat) (again : Bool) (h : s0.Keeps s) :
    s0.Keeps (State.correct s u l again) := by
  unfold State.correct
  try dsimp only
  repeat' first
    | with_reducible assumption
    | (split <;> (rename_i heq; simp only [Prod.ext_iff] at heq; first | obtain ⟨rfl, rfl, rfl, rfl⟩ := heq | obtain ⟨rfl, rfl, rfl⟩ := heq | obtain ⟨rfl, rfl⟩ := heq | obtain ⟨_, rfl⟩ := heq | obtain ⟨_, _, rfl⟩ := heq))
    | split | with_reducible apply State.tick1_keeps | with_reducible apply State.setUnit_keeps
    | with_reducible apply State.startRemap_keeps

theorem State.uncorrected_keeps (s : State) (u : Nat) (l : Nat) (h : s0.Keeps s) :
    s0.Keeps (State.uncorrected s u l) := by
  unfold State.uncorrected
  try dsimp only
  repeat' first
    | with_reducible assumption | split | with_reducible apply State.notifySecure_keeps
    | with_reducible apply State.tick1_keeps | with_reducible apply State.startRemap_keeps
    | with_reducible apply State.poisonLine_keeps

theorem State.found_keeps (s : State) (u : Nat) (l : Nat) (ecc : EccResult) (h : s0.Keeps s) :
    s0.Keeps (State.found s u l ecc) := by
  unfold State.found
  try dsimp only
  repeat' first
    | with_reducible assumption
    | (split <;> (rename_i heq; simp only [Prod.ext_iff] at heq; first | obtain ⟨rfl, rfl, rfl, rfl⟩ := heq | obtain ⟨rfl, rfl, rfl⟩ := heq | obtain ⟨rfl, rfl⟩ := heq | obtain ⟨_, rfl⟩ := heq | obtain ⟨_, _, rfl⟩ := heq))
    | split | with_reducible apply State.correct_keeps | with_reducible apply State.uncorrected_keeps

theorem State.serveAtomics_keeps (s : State) (l : Nat) (h : s0.Keeps s) :
    s0.Keeps (State.serveAtomics s l) := by
  unfold State.serveAtomics
  try dsimp only
  repeat' first
    | with_reducible assumption
    | (split <;> (rename_i heq; simp only [Prod.ext_iff] at heq; first | obtain ⟨rfl, rfl, rfl, rfl⟩ := heq | obtain ⟨rfl, rfl, rfl⟩ := heq | obtain ⟨rfl, rfl⟩ := heq | obtain ⟨_, rfl⟩ := heq | obtain ⟨_, _, rfl⟩ := heq))
    | split | with_reducible apply State.serve_keeps | with_reducible apply foldl_keeps | (intro; try dsimp only)

theorem State.lineRead_keeps (s : State) (l : Nat) (ecc : EccResult) (fill : Bool) (h : s0.Keeps s) :
    s0.Keeps (State.lineRead s l ecc fill) := by
  unfold State.lineRead
  try dsimp only
  repeat' first
    | with_reducible assumption | split | with_reducible apply State.setUnit_keeps | with_reducible apply State.serveLine_keeps
    | with_reducible apply State.found_keeps | with_reducible apply State.serveAtomics_keeps

theorem execMissFillComplete_keeps (line : Nat) (ecc : EccResult) (s : State) (h : s0.Keeps s) :
    ∀ t, execMissFillComplete line ecc s = .next t → s0.Keeps t := by
  intro t ht
  unfold execMissFillComplete answer at ht
  injection ht with ht
  subst ht
  apply State.settle_keeps _ _ h
  try dsimp only
  repeat' first
    | with_reducible assumption | split | with_reducible apply State.lineRead_keeps

theorem execAtomicApplyMc_keeps (line : Nat) (ecc : EccResult) (s : State) (h : s0.Keeps s) :
    ∀ t, execAtomicApplyMc line ecc s = .next t → s0.Keeps t := by
  intro t ht
  unfold execAtomicApplyMc answer at ht
  injection ht with ht
  subst ht
  apply State.settle_keeps _ _ h
  try dsimp only
  repeat' first
    | with_reducible assumption
    | (split <;> (rename_i heq; simp only [Prod.ext_iff] at heq; first | obtain ⟨rfl, rfl, rfl, rfl⟩ := heq | obtain ⟨rfl, rfl, rfl⟩ := heq | obtain ⟨rfl, rfl⟩ := heq | obtain ⟨_, rfl⟩ := heq | obtain ⟨_, _, rfl⟩ := heq))
    | split | with_reducible apply State.lineRead_keeps | (intro; try dsimp only)

theorem State.remapped_keeps (s : State) (u : Nat) (row : Nat) (h : s0.Keeps s) :
    s0.Keeps (State.remapped s u row) := by
  unfold State.remapped
  try dsimp only
  repeat' first
    | with_reducible assumption | with_reducible apply State.setUnit_keeps | with_reducible apply State.issue_keeps
    | with_reducible apply State.touchStore_keeps | with_reducible apply State.log_keeps
    | with_reducible apply State.tick1_keeps

theorem execRowRemapComplete_keeps (unit : Nat) (s : State) (h : s0.Keeps s) :
    ∀ t, execRowRemapComplete unit s = .next t → s0.Keeps t := by
  intro t ht
  unfold execRowRemapComplete answer at ht
  injection ht with ht
  subst ht
  apply State.settle_keeps _ _ h
  try dsimp only
  repeat' first
    | with_reducible assumption
    | (split <;> (rename_i heq; simp only [Prod.ext_iff] at heq; first | obtain ⟨rfl, rfl, rfl, rfl⟩ := heq | obtain ⟨rfl, rfl, rfl⟩ := heq | obtain ⟨rfl, rfl⟩ := heq | obtain ⟨_, rfl⟩ := heq | obtain ⟨_, _, rfl⟩ := heq))
    | split | with_reducible apply State.remapped_keeps

theorem State.scrub_keeps (s : State) (u : Nat) (ecc : EccResult) (forced : Bool) (h : s0.Keeps s) :
    s0.Keeps (State.scrub s u ecc forced) := by
  unfold State.scrub
  try dsimp only
  repeat' first
    | with_reducible assumption | split | with_reducible apply State.setUnit_keeps | with_reducible apply State.tick1_keeps
    | with_reducible apply State.log_keeps | with_reducible apply State.uncorrected_keeps
    | with_reducible apply State.found_keeps

theorem execScrubRead_keeps (unit : Nat) (ecc : EccResult) (forced : Bool) (s : State) (h : s0.Keeps s) :
    ∀ t, execScrubRead unit ecc forced s = .next t → s0.Keeps t := by
  intro t ht
  unfold execScrubRead answer at ht
  injection ht with ht
  subst ht
  apply State.settle_keeps _ _ h
  try dsimp only
  repeat' first
    | with_reducible assumption | split | with_reducible apply State.scrub_keeps

theorem execMemTempRead_keeps (unit : Nat) (celsius : Option Nat) (s : State) (h : s0.Keeps s) :
    ∀ t, execMemTempRead unit celsius s = .next t → s0.Keeps t := by
  intro t ht
  unfold execMemTempRead answer at ht
  injection ht with ht
  subst ht
  apply State.settle_keeps _ _ h
  try dsimp only
  repeat' first
    | with_reducible assumption | with_reducible apply State.setUnit_keeps

theorem execCeRateTick_keeps (s : State) (h : s0.Keeps s) :
    ∀ t, execCeRateTick s = .next t → s0.Keeps t := by
  intro t ht
  unfold execCeRateTick answer at ht
  injection ht with ht
  subst ht
  apply State.settle_keeps _ _ h
  try dsimp only
  repeat' first
    | with_reducible assumption | split | with_reducible apply State.log_keeps

theorem State.unitOut_keeps (s : State) (u : Nat) (attempts : Nat) (h : s0.Keeps s) :
    s0.Keeps (State.unitOut s u attempts) := by
  unfold State.unitOut
  try dsimp only
  repeat' first
    | with_reducible assumption | with_reducible apply State.setUnit_keeps | with_reducible apply State.log_keeps
    | with_reducible apply State.serveLine_keeps | with_reducible apply foldl_keeps | (intro; try dsimp only)

theorem State.retrainStart_keeps (s : State) (u : Nat) (cause : Nat) (h : s0.Keeps s) :
    s0.Keeps (State.retrainStart s u cause) := by
  unfold State.retrainStart
  try dsimp only
  repeat' first
    | with_reducible assumption | split | with_reducible apply State.unitOut_keeps | with_reducible apply State.log_keeps
    | with_reducible apply State.setUnit_keeps

theorem execUnitRetrainStart_keeps (unit : Nat) (cause : Nat) (s : State) (h : s0.Keeps s) :
    ∀ t, execUnitRetrainStart unit cause s = .next t → s0.Keeps t := by
  intro t ht
  unfold execUnitRetrainStart answer at ht
  injection ht with ht
  subst ht
  apply State.settle_keeps _ _ h
  try dsimp only
  repeat' first
    | with_reducible assumption | split | with_reducible apply State.retrainStart_keeps

theorem State.attemptEnd_keeps (s : State) (u : Nat) (passed : Bool) (h : s0.Keeps s) :
    s0.Keeps (State.attemptEnd s u passed) := by
  unfold State.attemptEnd
  try dsimp only
  repeat' first
    | with_reducible assumption | split | with_reducible apply State.issue_keeps | with_reducible apply State.log_keeps
    | with_reducible apply State.setUnit_keeps | with_reducible apply State.unitOut_keeps

theorem execUnitRetrainAttemptEnd_keeps (unit : Nat) (passed : Bool) (s : State) (h : s0.Keeps s) :
    ∀ t, execUnitRetrainAttemptEnd unit passed s = .next t → s0.Keeps t := by
  intro t ht
  unfold execUnitRetrainAttemptEnd answer at ht
  injection ht with ht
  subst ht
  apply State.settle_keeps _ _ h
  try dsimp only
  repeat' first
    | with_reducible assumption | split | with_reducible apply State.attemptEnd_keeps

theorem execBar4Read_keeps (fn : Nat) (offset : Nat) (length : Nat) (ide : Bool) (s : State) (h : s0.Keeps s) :
    ∀ t, execBar4Read fn offset length ide s = .next t → s0.Keeps t := by
  intro t ht
  unfold execBar4Read answer at ht
  injection ht with ht
  subst ht
  apply State.settle_keeps _ _ h
  try dsimp only
  repeat' first
    | with_reducible assumption | split | with_reducible apply State.emit_keeps | with_reducible apply State.aer_keeps
    | with_reducible apply State.ideRefuse_keeps | with_reducible apply State.bar4Ask_keeps

theorem State.bar4Put_keeps (s : State) (who : Requester) (a : Nat) (bs : List Byte) (h : s0.Keeps s) :
    s0.Keeps (State.bar4Put s who a bs) := by
  unfold State.bar4Put
  try dsimp only
  repeat' first
    | with_reducible assumption
    | (split <;> (rename_i heq; simp only [Prod.ext_iff] at heq; first | obtain ⟨rfl, rfl, rfl, rfl⟩ := heq | obtain ⟨rfl, rfl, rfl⟩ := heq | obtain ⟨rfl, rfl⟩ := heq | obtain ⟨_, rfl⟩ := heq | obtain ⟨_, _, rfl⟩ := heq))
    | split | with_reducible apply State.writePiece_keeps | with_reducible apply State.wait_keeps
    | with_reducible apply State.writeDone_keeps

theorem execBar4Write_keeps (fn : Nat) (offset : Nat) (bytes : List Byte) (ide : Bool) (s : State) (h : s0.Keeps s) :
    ∀ t, execBar4Write fn offset bytes ide s = .next t → s0.Keeps t := by
  intro t ht
  unfold execBar4Write answer at ht
  injection ht with ht
  subst ht
  apply State.settle_keeps _ _ h
  try dsimp only
  repeat' first
    | with_reducible assumption
    | (split <;> (rename_i heq; simp only [Prod.ext_iff] at heq; first | obtain ⟨rfl, rfl, rfl, rfl⟩ := heq | obtain ⟨rfl, rfl, rfl⟩ := heq | obtain ⟨rfl, rfl⟩ := heq | obtain ⟨_, rfl⟩ := heq | obtain ⟨_, _, rfl⟩ := heq))
    | split | with_reducible apply State.aer_keeps | with_reducible apply State.ideRefuse_keeps | with_reducible apply State.bar4Put_keeps
    | with_reducible apply foldl_keeps | with_reducible apply foldl_keeps2 | with_reducible apply foldl_keeps3 | (intro; try dsimp only)

theorem execHostWindowCompletion_keeps (addr : Nat) (how : Completion) (bytes : List Byte) (s : State) (h : s0.Keeps s) :
    ∀ t, execHostWindowCompletion addr how bytes s = .next t → s0.Keeps t := by
  intro t ht
  unfold execHostWindowCompletion answer at ht
  injection ht with ht
  subst ht
  apply State.settle_keeps _ _ h
  try dsimp only
  repeat' first
    | with_reducible assumption | split | with_reducible apply Kept.put

theorem State.msixRelease_keeps (s : State) (f : Nat) (h : s0.Keeps s) :
    s0.Keeps (State.msixRelease s f) := by
  unfold State.msixRelease
  try dsimp only
  repeat' first
    | with_reducible assumption
    | (split <;> (rename_i heq; simp only [Prod.ext_iff] at heq; first | obtain ⟨rfl, rfl, rfl, rfl⟩ := heq | obtain ⟨rfl, rfl, rfl⟩ := heq | obtain ⟨rfl, rfl⟩ := heq | obtain ⟨_, rfl⟩ := heq | obtain ⟨_, _, rfl⟩ := heq))
    | split | with_reducible apply State.msix_keeps | with_reducible apply foldl_keeps | with_reducible apply foldl_keeps2
    | with_reducible apply foldl_keeps3 | (intro; try dsimp only)

theorem State.configWrite_keeps (s : State) (fn : Nat) (r : ConfigReg) (value : Word32) (h : s0.Keeps s) :
    s0.Keeps (State.configWrite s fn r value) := by
  unfold State.configWrite
  try dsimp only
  repeat' first
    | with_reducible assumption
    | (split <;> (rename_i heq; simp only [Prod.ext_iff] at heq; first | obtain ⟨rfl, rfl, rfl, rfl⟩ := heq | obtain ⟨rfl, rfl, rfl⟩ := heq | obtain ⟨rfl, rfl⟩ := heq | obtain ⟨_, rfl⟩ := heq | obtain ⟨_, _, rfl⟩ := heq))
    | split | with_reducible apply State.setCfg_keeps | with_reducible apply State.msixRelease_keeps

theorem execPcieConfigRequest_keeps (fn : Nat) (access : ConfigAccess) (s : State) (h : s0.Keeps s) :
    ∀ t, execPcieConfigRequest fn access s = .next t → s0.Keeps t := by
  intro t ht
  unfold execPcieConfigRequest answer at ht
  injection ht with ht
  subst ht
  apply State.settle_keeps _ _ h
  try dsimp only
  repeat' first
    | with_reducible assumption
    | (split <;> (rename_i heq; simp only [Prod.ext_iff] at heq; first | obtain ⟨rfl, rfl, rfl, rfl⟩ := heq | obtain ⟨rfl, rfl, rfl⟩ := heq | obtain ⟨rfl, rfl⟩ := heq | obtain ⟨_, rfl⟩ := heq | obtain ⟨_, _, rfl⟩ := heq))
    | split | with_reducible apply State.emit_keeps | with_reducible apply State.fresh_keeps
    | with_reducible apply State.configWrite_keeps | exact Kept.draw ‹_›

end Sys2Proof.Machine
end

