-- ==== Sys2Proof/Laws/KeepControl.lean ====
section
/-!
SUPPORT. What the operations and commands of security, the dictionary, the management buses, bring-up, faults and SPDM keep: the memory tiers in order, the fuses only burnt
further, the record of messages only longer, the queue of commands as it was. One lemma for each definition of Machine/.
-/
namespace Sys2Proof.Machine

variable {s0 : State}

/-! ### Security -/

theorem State.setTd_keeps (s : State) (f : Nat) (x : TdState) (h : s0.Keeps s) :
    s0.Keeps (State.setTd s f x) :=
  h

theorem State.resetRings_keeps (s : State) (f : Nat) (h : s0.Keeps s) :
    s0.Keeps (State.resetRings s f) := by
  unfold State.resetRings
  try dsimp only
  repeat' first
    | with_reducible assumption | with_reducible apply State.resetRing_keeps | with_reducible apply foldl_keeps
    | (intro; try dsimp only)

theorem State.endSecure_keeps (s : State) (f : Nat) (h : s0.Keeps s) :
    s0.Keeps (State.endSecure s f) := by
  unfold State.endSecure
  try dsimp only
  repeat' first
    | with_reducible assumption | split | with_reducible apply State.releaseSet_keeps
    | with_reducible apply State.closeDec_keeps | with_reducible apply State.closeEnc_keeps
    | with_reducible apply State.stopChan_keeps | with_reducible apply State.startRelease_keeps
    | with_reducible apply foldl_keeps | (intro; try dsimp only)

theorem State.leaveTd_keeps (s : State) (f : Nat) (x : TdState) (h : s0.Keeps s) :
    s0.Keeps (State.leaveTd s f x) := by
  unfold State.leaveTd
  try dsimp only
  repeat' first
    | with_reducible assumption | split | with_reducible apply State.setTd_keeps | with_reducible apply State.endSecure_keeps
    | with_reducible apply State.resetRings_keeps

theorem State.tdError_keeps (s : State) (f : Nat) (h : s0.Keeps s) :
    s0.Keeps (State.tdError s f) := by
  unfold State.tdError
  try dsimp only
  repeat' first
    | with_reducible assumption | split | with_reducible apply State.leaveTd_keeps

theorem State.clearConfig_keeps (s : State) (f : Nat) (h : s0.Keeps s) :
    s0.Keeps (State.clearConfig s f) := by
  unfold State.clearConfig
  try dsimp only
  repeat' first
    | with_reducible assumption | split | (intro; try dsimp only)

theorem State.flr_keeps (s : State) (f : Nat) (h : s0.Keeps s) :
    s0.Keeps (State.flr s f) := by
  unfold State.flr
  try dsimp only
  repeat' first
    | with_reducible assumption | with_reducible apply State.resetRings_keeps | with_reducible apply State.tdError_keeps
    | with_reducible apply State.clearConfig_keeps

theorem execFunctionLevelReset_keeps (fn : Nat) (s : State) (h : s0.Keeps s) :
    ∀ t, execFunctionLevelReset fn s = .next t → s0.Keeps t := by
  intro t ht
  unfold execFunctionLevelReset answer at ht
  injection ht with ht
  subst ht
  apply State.settle_keeps _ _ h
  try dsimp only
  repeat' first
    | with_reducible assumption | with_reducible apply State.flr_keeps

theorem execPcieHotReset_keeps (s : State) (h : s0.Keeps s) :
    ∀ t, execPcieHotReset s = .next t → s0.Keeps t := by
  intro t ht
  unfold execPcieHotReset answer at ht
  injection ht with ht
  subst ht
  apply State.settle_keeps _ _ h
  try dsimp only
  repeat' first
    | with_reducible assumption | with_reducible apply State.flr_keeps | with_reducible apply foldl_keeps
    | (intro; try dsimp only)

theorem State.reply_keeps (s : State) (via : Transport) (m : OutMsg) (h : s0.Keeps s) :
    s0.Keeps (State.reply s via m) := by
  unfold State.reply
  try dsimp only
  repeat' first
    | with_reducible assumption
    | (split <;> (rename_i heq; simp only [Prod.ext_iff] at heq; first | obtain ⟨rfl, rfl, rfl, rfl⟩ := heq | obtain ⟨rfl, rfl, rfl⟩ := heq | obtain ⟨rfl, rfl⟩ := heq | obtain ⟨_, rfl⟩ := heq | obtain ⟨_, _, rfl⟩ := heq))
    | split | with_reducible apply State.emit_keeps

theorem State.tdisp_keeps (s : State) (session : Nat) (vf : Nat) (act : State → Nat × List Byte × State) (h : s0.Keeps s) (hact : ∀ s, s0.Keeps s → s0.Keeps (act s).2.2) :
    s0.Keeps (State.tdisp s session vf act) := by
  unfold State.tdisp
  try dsimp only
  repeat' first
    | with_reducible assumption
    | (split <;> (rename_i heq; simp only [Prod.ext_iff] at heq; first | obtain ⟨rfl, rfl, rfl, rfl⟩ := heq | obtain ⟨rfl, rfl, rfl⟩ := heq | obtain ⟨rfl, rfl⟩ := heq | obtain ⟨_, rfl⟩ := heq | obtain ⟨_, _, rfl⟩ := heq))
    | split | with_reducible apply hact | with_reducible apply State.emit_keeps | (intro; try dsimp only)

theorem tdispError_keeps (code : Nat) (s : State) (h : s0.Keeps s) :
    s0.Keeps (tdispError code s).2.2 :=
  h

theorem execGetTdispVersion_keeps (session : Nat) (vf : Nat) (s : State) (h : s0.Keeps s) :
    ∀ t, execGetTdispVersion session vf s = .next t → s0.Keeps t := by
  intro t ht
  unfold execGetTdispVersion answer at ht
  injection ht with ht
  subst ht
  apply State.settle_keeps _ _ h
  try dsimp only
  repeat' first
    | with_reducible assumption | with_reducible apply State.tdisp_keeps | (intro; try dsimp only)

theorem execGetTdispCapabilities_keeps (session : Nat) (vf : Nat) (s : State) (h : s0.Keeps s) :
    ∀ t, execGetTdispCapabilities session vf s = .next t → s0.Keeps t := by
  intro t ht
  unfold execGetTdispCapabilities answer at ht
  injection ht with ht
  subst ht
  apply State.settle_keeps _ _ h
  try dsimp only
  repeat' first
    | with_reducible assumption | with_reducible apply State.tdisp_keeps | (intro; try dsimp only)

theorem execLockInterfaceRequest_keeps (session : Nat) (vf : Nat) (s : State) (h : s0.Keeps s) :
    ∀ t, execLockInterfaceRequest session vf s = .next t → s0.Keeps t := by
  intro t ht
  unfold execLockInterfaceRequest answer at ht
  injection ht with ht
  subst ht
  apply State.settle_keeps _ _ h
  try dsimp only
  repeat' first
    | with_reducible assumption | split | with_reducible apply State.tdisp_keeps | with_reducible apply tdispError_keeps
    | with_reducible apply State.setTd_keeps | with_reducible apply State.fresh_keeps | (intro; try dsimp only)

theorem execGetDeviceInterfaceReport_keeps (session : Nat) (vf : Nat) (s : State) (h : s0.Keeps s) :
    ∀ t, execGetDeviceInterfaceReport session vf s = .next t → s0.Keeps t := by
  intro t ht
  unfold execGetDeviceInterfaceReport answer at ht
  injection ht with ht
  subst ht
  apply State.settle_keeps _ _ h
  try dsimp only
  repeat' first
    | with_reducible assumption | with_reducible apply State.tdisp_keeps | (intro; try dsimp only)

theorem execGetDeviceInterfaceState_keeps (session : Nat) (vf : Nat) (s : State) (h : s0.Keeps s) :
    ∀ t, execGetDeviceInterfaceState session vf s = .next t → s0.Keeps t := by
  intro t ht
  unfold execGetDeviceInterfaceState answer at ht
  injection ht with ht
  subst ht
  apply State.settle_keeps _ _ h
  try dsimp only
  repeat' first
    | with_reducible assumption | with_reducible apply State.tdisp_keeps | (intro; try dsimp only)

theorem execStartInterfaceRequest_keeps (session : Nat) (vf : Nat) (s : State) (h : s0.Keeps s) :
    ∀ t, execStartInterfaceRequest session vf s = .next t → s0.Keeps t := by
  intro t ht
  unfold execStartInterfaceRequest answer at ht
  injection ht with ht
  subst ht
  apply State.settle_keeps _ _ h
  try dsimp only
  repeat' first
    | with_reducible assumption | split | with_reducible apply State.tdisp_keeps | with_reducible apply tdispError_keeps
    | with_reducible apply State.setTd_keeps | (intro; try dsimp only)

theorem execStopInterfaceRequest_keeps (session : Nat) (vf : Nat) (s : State) (h : s0.Keeps s) :
    ∀ t, execStopInterfaceRequest session vf s = .next t → s0.Keeps t := by
  intro t ht
  unfold execStopInterfaceRequest answer at ht
  injection ht with ht
  subst ht
  apply State.settle_keeps _ _ h
  try dsimp only
  repeat' first
    | with_reducible assumption | with_reducible apply State.tdisp_keeps | with_reducible apply State.leaveTd_keeps
    | (intro; try dsimp only)

theorem execTdispUnsupportedRequest_keeps (session : Nat) (vf : Nat) (code : Nat) (s : State) (h : s0.Keeps s) :
    ∀ t, execTdispUnsupportedRequest session vf code s = .next t → s0.Keeps t := by
  intro t ht
  unfold execTdispUnsupportedRequest answer at ht
  injection ht with ht
  subst ht
  apply State.settle_keeps _ _ h
  try dsimp only
  repeat' first
    | with_reducible assumption | with_reducible apply State.tdisp_keeps | (intro; try dsimp only)

theorem execIdeKmKeyProg_keeps (session : Nat) (stream : Nat) (keySet : Nat) (vfs : List Nat) (key : List Byte) (s : State) (h : s0.Keeps s) :
    ∀ t, execIdeKmKeyProg session stream keySet vfs key s = .next t → s0.Keeps t := by
  intro t ht
  unfold execIdeKmKeyProg answer at ht
  injection ht with ht
  subst ht
  apply State.settle_keeps _ _ h
  try dsimp only
  repeat' first
    | with_reducible assumption | split

theorem execIdeStreamFail_keeps (stream : Nat) (s : State) (h : s0.Keeps s) :
    ∀ t, execIdeStreamFail stream s = .next t → s0.Keeps t := by
  intro t ht
  unfold execIdeStreamFail answer at ht
  injection ht with ht
  subst ht
  apply State.settle_keeps _ _ h
  try dsimp only
  repeat' first
    | with_reducible assumption
    | (split <;> (rename_i heq; simp only [Prod.ext_iff] at heq; first | obtain ⟨rfl, rfl, rfl, rfl⟩ := heq | obtain ⟨rfl, rfl, rfl⟩ := heq | obtain ⟨rfl, rfl⟩ := heq | obtain ⟨_, rfl⟩ := heq | obtain ⟨_, _, rfl⟩ := heq))
    | split | with_reducible apply State.tdError_keeps | with_reducible apply foldl_keeps | (intro; try dsimp only)

theorem execEntropyHealthFail_keeps (s : State) (h : s0.Keeps s) :
    ∀ t, execEntropyHealthFail s = .next t → s0.Keeps t := by
  intro t ht
  unfold execEntropyHealthFail answer at ht
  injection ht with ht
  subst ht
  apply State.settle_keeps _ _ h
  try dsimp only
  repeat' first
    | with_reducible assumption | split | with_reducible apply State.notifySecure_keeps | with_reducible apply State.log_keeps

theorem set_owner_grew (f : Fuses) (k : Nat) (x : OwnerSlot) (hd : ∀ d, (f.owners.getD k {}).digest = some d → x.digest = some d)
    (hr : (f.owners.getD k {}).revoked = true → x.revoked = true) : f.Grew { f with owners := f.owners.set k x } := by
  have hk : ∀ j, ((f.owners.set k x).getD j {} : OwnerSlot) = if k = j ∧ j < f.owners.length then x else f.owners.getD j {} := by
    intro j
    simp only [List.getD_eq_getElem?_getD, List.getElem?_set]
    by_cases h1 : k = j
    · subst h1
      by_cases h2 : k < f.owners.length
      · simp [h2]
      · simp [h2]
    · simp [h1]
  refine ⟨rfl, rfl, rfl, rfl, ?_, ?_⟩
  · intro j d hj
    show ((f.owners.set k x).getD j {} : OwnerSlot).digest = some d
    rw [hk]; split
    · rename_i h; exact hd d (h.1 ▸ hj)
    · exact hj
  · intro j hj
    show ((f.owners.set k x).getD j {} : OwnerSlot).revoked = true
    rw [hk]; split
    · rename_i h; exact hr (h.1 ▸ hj)
    · exact hj

theorem State.claimOwner_keeps (s : State) (digest : List Byte) (h : s0.Keeps s) :
    ∀ t, State.claimOwner s digest = some t → s0.Keeps t := by
  intro t ht
  unfold State.claimOwner at ht
  split at ht
  · cases ht
  · split at ht
    · cases ht
    · rename_i k hk
      injection ht with ht
      subst ht
      apply State.log_keeps
      refine Kept.burn h (set_owner_grew _ _ _ ?_ ?_)
      · intro d hd
        have := List.find?_some hk
        rw [hd] at this
        cases this
      · intro hr; exact hr

theorem State.clearSecure_keeps (s : State) (h : s0.Keeps s) :
    s0.Keeps (State.clearSecure s) := by
  unfold State.clearSecure
  try dsimp only
  repeat' first
    | with_reducible assumption | with_reducible apply State.startClearing_keeps | with_reducible apply foldl_keeps
    | (intro; try dsimp only)

theorem State.emptySecureFns_keeps (s : State) (h : s0.Keeps s) :
    s0.Keeps (State.emptySecureFns s) := by
  unfold State.emptySecureFns
  try dsimp only
  repeat' first
    | with_reducible assumption | split

theorem State.wipeSettings_keeps (s : State) (h : s0.Keeps s) :
    s0.Keeps (State.wipeSettings s) := by
  unfold State.wipeSettings
  try dsimp only
  repeat' first
    | with_reducible assumption
    | (split <;> (rename_i heq; simp only [Prod.ext_iff] at heq; first | obtain ⟨rfl, rfl, rfl, rfl⟩ := heq | obtain ⟨rfl, rfl, rfl⟩ := heq | obtain ⟨rfl, rfl⟩ := heq | obtain ⟨_, rfl⟩ := heq | obtain ⟨_, _, rfl⟩ := heq))
    | split | with_reducible apply State.touchStore_keeps | with_reducible apply State.beginCommit_keeps
    | with_reducible apply State.toDefault_keeps | with_reducible apply State.followSettings_keeps | with_reducible apply foldl_keeps
    | with_reducible apply foldl_keeps2 | with_reducible apply foldl_keeps3 | (intro; try dsimp only)

theorem State.revokeOwner_keeps (s : State) (h : s0.Keeps s) : ∀ t, State.revokeOwner s = some t → s0.Keeps t := by
  intro t ht
  unfold State.revokeOwner at ht
  split at ht
  · cases ht
  · rename_i k _
    injection ht with ht
    subst ht
    apply State.wipeSettings_keeps
    apply State.emptySecureFns_keeps
    apply State.clearSecure_keeps
    refine foldl_keeps _ _ _ ?_ ?_
    · intro s f hs
      split
      · exact State.leaveTd_keeps _ _ _ hs
      · exact hs
    · exact Kept.burn h (set_owner_grew _ _ _ (fun d hd => hd) (fun _ => rfl))

/-! ### Dictionary -/

theorem State.hear_keeps (s : State) (k : Manager) (h : s0.Keeps s) :
    s0.Keeps (State.hear s k) := by
  unfold State.hear
  try dsimp only
  repeat' first
    | with_reducible assumption | split | with_reducible apply State.headland_keeps

theorem State.setMgr_keeps (s : State) (x : ManagerSt) (h : s0.Keeps s) :
    s0.Keeps (State.setMgr s x) := by
  unfold State.setMgr
  try dsimp only
  repeat' first
    | with_reducible assumption | split

theorem State.weloc_keeps (s : State) (m : Manager) (b : List Byte) (h : s0.Keeps s) :
    s0.Keeps (State.weloc s m b) := by
  unfold State.weloc
  try dsimp only
  repeat' first
    | with_reducible assumption
    | (split <;> (rename_i heq; simp only [Prod.ext_iff] at heq; first | obtain ⟨rfl, rfl, rfl, rfl⟩ := heq | obtain ⟨rfl, rfl, rfl⟩ := heq | obtain ⟨rfl, rfl⟩ := heq | obtain ⟨_, rfl⟩ := heq | obtain ⟨_, _, rfl⟩ := heq))
    | split | with_reducible apply State.sendMsg_keeps | with_reducible apply State.reply_keeps

theorem State.sendReply_keeps (s : State) (m : Manager) (req : List Byte) (r : Reply) (h : s0.Keeps s) :
    s0.Keeps (State.sendReply s m req r) := by
  unfold State.sendReply
  try dsimp only
  repeat' first
    | with_reducible assumption
    | (split <;> (rename_i heq; simp only [Prod.ext_iff] at heq; first | obtain ⟨rfl, rfl, rfl, rfl⟩ := heq | obtain ⟨rfl, rfl, rfl⟩ := heq | obtain ⟨rfl, rfl⟩ := heq | obtain ⟨_, rfl⟩ := heq | obtain ⟨_, _, rfl⟩ := heq))
    | split | with_reducible apply State.weloc_keeps

theorem State.keep_keeps (s : State) (m : Manager) (req : List Byte) (r : Reply) (h : s0.Keeps s) :
    s0.Keeps (State.keep s m req r) := by
  unfold State.keep
  try dsimp only
  repeat' first
    | with_reducible assumption
    | (split <;> (rename_i heq; simp only [Prod.ext_iff] at heq; first | obtain ⟨rfl, rfl, rfl, rfl⟩ := heq | obtain ⟨rfl, rfl, rfl⟩ := heq | obtain ⟨rfl, rfl⟩ := heq | obtain ⟨_, rfl⟩ := heq | obtain ⟨_, _, rfl⟩ := heq))
    | split | with_reducible apply State.setMgr_keeps

theorem State.denyObject_keeps (s : State) (i : Nat) (sub : Nat) (h : s0.Keeps s) :
    s0.Keeps (State.denyObject s i sub) := by
  unfold State.denyObject
  try dsimp only
  repeat' first
    | with_reducible assumption | split | with_reducible apply State.log_keeps | with_reducible apply State.notifySecure_keeps
    | with_reducible apply State.tick1_keeps

theorem State.regionRun_keeps (s : State) (i : Nat) (sub : Nat) (w : Nat) (h : s0.Keeps s) :
    s0.Keeps (State.regionRun s i sub w).2 := by
  unfold State.regionRun
  try dsimp only
  repeat' first
    | with_reducible assumption
    | (split <;> (rename_i heq; simp only [Prod.ext_iff] at heq; first | obtain ⟨rfl, rfl, rfl, rfl⟩ := heq | obtain ⟨rfl, rfl, rfl⟩ := heq | obtain ⟨rfl, rfl⟩ := heq | obtain ⟨_, rfl⟩ := heq | obtain ⟨_, _, rfl⟩ := heq))
    | split | with_reducible apply State.applyRegion_keeps | with_reducible apply State.setRegion_keeps

theorem State.fnWrite_keeps (s : State) (k : Nat) (image : List Byte) (h : s0.Keeps s) :
    s0.Keeps (State.fnWrite s k image).2 := by
  unfold State.fnWrite
  try dsimp only
  repeat' first
    | with_reducible assumption | split

theorem State.settingWrite_keeps (s : State) (i : Nat) (sub : Nat) (e : ObjRow) (v : List Byte) (secure : Bool) (h : s0.Keeps s) :
    s0.Keeps (State.settingWrite s i sub e v secure).2 := by
  unfold State.settingWrite
  try dsimp only
  repeat' first
    | with_reducible assumption | split | with_reducible apply State.denyObject_keeps
    | with_reducible apply State.laserOutputs_keeps | with_reducible apply State.touchStore_keeps
    | with_reducible apply foldl_keeps | (intro; try dsimp only)

theorem State.applyValue_keeps (s : State) (m : Manager) (i : Nat) (sub : Nat) (e : ObjRow) (v : List Byte) (h : s0.Keeps s) :
    s0.Keeps (State.applyValue s m i sub e v).2 := by
  unfold State.applyValue
  try dsimp only
  repeat' first
    | with_reducible assumption
    | (split <;> (rename_i heq; simp only [Prod.ext_iff] at heq; first | obtain ⟨rfl, rfl, rfl, rfl⟩ := heq | obtain ⟨rfl, rfl, rfl⟩ := heq | obtain ⟨rfl, rfl⟩ := heq | obtain ⟨_, rfl⟩ := heq | obtain ⟨_, _, rfl⟩ := heq))
    | split | with_reducible apply State.restoreDefaults_keeps | with_reducible apply State.setMgr_keeps
    | with_reducible apply State.regionRun_keeps | with_reducible apply State.fnWrite_keeps
    | with_reducible apply State.settingWrite_keeps | exact State.claimOwner_keeps _ _ (by assumption) _ (by assumption)
    | exact State.revokeOwner_keeps _ (by assumption) _ (by assumption)

theorem State.writeWhole_keeps (s : State) (m : Manager) (i : Nat) (sub : Nat) (e : ObjRow) (v : List Byte) (h : s0.Keeps s) :
    s0.Keeps (State.writeWhole s m i sub e v).2 := by
  unfold State.writeWhole
  try dsimp only
  repeat' first
    | with_reducible assumption
    | (split <;> (rename_i heq; simp only [Prod.ext_iff] at heq; first | obtain ⟨rfl, rfl, rfl, rfl⟩ := heq | obtain ⟨rfl, rfl, rfl⟩ := heq | obtain ⟨rfl, rfl⟩ := heq | obtain ⟨_, rfl⟩ := heq | obtain ⟨_, _, rfl⟩ := heq))
    | split | with_reducible apply State.denyObject_keeps | with_reducible apply State.applyValue_keeps

theorem State.dropXfer_keeps (s : State) (n : Nat) (h : s0.Keeps s) :
    s0.Keeps (State.dropXfer s n) :=
  h

theorem State.setXfer_keeps (s : State) (n : Nat) (x : Xfer) (h : s0.Keeps s) :
    s0.Keeps (State.setXfer s n x) :=
  h

theorem State.opener_keeps (s : State) (m : Manager) (req : List Byte) (act : State → State) (h : s0.Keeps s) (hact : ∀ s, s0.Keeps s → s0.Keeps (act s)) :
    s0.Keeps (State.opener s m req act) := by
  unfold State.opener
  try dsimp only
  repeat' first
    | with_reducible assumption
    | (split <;> (rename_i heq; simp only [Prod.ext_iff] at heq; first | obtain ⟨rfl, rfl, rfl, rfl⟩ := heq | obtain ⟨rfl, rfl, rfl⟩ := heq | obtain ⟨rfl, rfl⟩ := heq | obtain ⟨_, rfl⟩ := heq | obtain ⟨_, _, rfl⟩ := heq))
    | split | with_reducible apply hact | with_reducible apply State.weloc_keeps | with_reducible apply State.dropXfer_keeps
    | (intro; try dsimp only)

theorem State.refuseReq_keeps (s : State) (m : Manager) (req : List Byte) (r : Reply) (h : s0.Keeps s) :
    s0.Keeps (State.refuseReq s m req r) := by
  unfold State.refuseReq
  try dsimp only
  repeat' first
    | with_reducible assumption | with_reducible apply State.keep_keeps | with_reducible apply State.sendReply_keeps

theorem State.openXfer_keeps (s : State) (m : Manager) (req : List Byte) (n : Nat) (x : Xfer) (ans : List Byte) (h : s0.Keeps s) :
    s0.Keeps (State.openXfer s m req n x ans) := by
  unfold State.openXfer
  try dsimp only
  repeat' first
    | with_reducible assumption | with_reducible apply State.weloc_keeps | with_reducible apply State.setXfer_keeps

theorem State.welocRead_keeps (s : State) (m : Manager) (req : List Byte) (h : s0.Keeps s) :
    s0.Keeps (State.welocRead s m req) := by
  unfold State.welocRead
  try dsimp only
  repeat' first
    | with_reducible assumption
    | (split <;> (rename_i heq; simp only [Prod.ext_iff] at heq; first | obtain ⟨rfl, rfl, rfl, rfl⟩ := heq | obtain ⟨rfl, rfl, rfl⟩ := heq | obtain ⟨rfl, rfl⟩ := heq | obtain ⟨_, rfl⟩ := heq | obtain ⟨_, _, rfl⟩ := heq))
    | split | with_reducible apply State.refuseReq_keeps | with_reducible apply State.opener_keeps
    | with_reducible apply State.denyObject_keeps | with_reducible apply State.setMgr_keeps
    | with_reducible apply State.weloc_keeps | with_reducible apply State.openXfer_keeps | (intro; try dsimp only)

theorem State.welocWrite_keeps (s : State) (m : Manager) (req : List Byte) (h : s0.Keeps s) :
    s0.Keeps (State.welocWrite s m req) := by
  unfold State.welocWrite
  try dsimp only
  repeat' first
    | with_reducible assumption
    | (split <;> (rename_i heq; simp only [Prod.ext_iff] at heq; first | obtain ⟨rfl, rfl, rfl, rfl⟩ := heq | obtain ⟨rfl, rfl, rfl⟩ := heq | obtain ⟨rfl, rfl⟩ := heq | obtain ⟨_, rfl⟩ := heq | obtain ⟨_, _, rfl⟩ := heq))
    | split | with_reducible apply State.refuseReq_keeps | with_reducible apply State.opener_keeps
    | with_reducible apply State.writeWhole_keeps | (intro; try dsimp only)

theorem State.fwInit_keeps (s : State) (m : Manager) (req : List Byte) (k : Nat) (n : Nat) (total : Nat) (x : Xfer) (h : s0.Keeps s) :
    s0.Keeps (State.fwInit s m req k n total x) := by
  unfold State.fwInit
  try dsimp only
  repeat' first
    | with_reducible assumption | split | with_reducible apply State.refuseReq_keeps | with_reducible apply State.fresh_keeps
    | with_reducible apply State.setFw_keeps | with_reducible apply State.openXfer_keeps

theorem State.welocInit_keeps (s : State) (m : Manager) (req : List Byte) (h : s0.Keeps s) :
    s0.Keeps (State.welocInit s m req) := by
  unfold State.welocInit
  try dsimp only
  repeat' first
    | with_reducible assumption
    | (split <;> (rename_i heq; simp only [Prod.ext_iff] at heq; first | obtain ⟨rfl, rfl, rfl, rfl⟩ := heq | obtain ⟨rfl, rfl, rfl⟩ := heq | obtain ⟨rfl, rfl⟩ := heq | obtain ⟨_, rfl⟩ := heq | obtain ⟨_, _, rfl⟩ := heq))
    | split | with_reducible apply State.fresh_keeps | with_reducible apply State.log_keeps | with_reducible apply State.denyObject_keeps
    | with_reducible apply State.opener_keeps | with_reducible apply State.refuseReq_keeps | with_reducible apply State.openXfer_keeps
    | with_reducible apply State.fwInit_keeps | exact Kept.draw ‹_› | (intro; try dsimp only)

theorem State.continuation_keeps (s : State) (m : Manager) (req : List Byte) (write : Bool) (act : Nat → Xfer → State) (h : s0.Keeps s)
    (hact : ∀ n x, s0.Keeps (act n x)) : s0.Keeps (State.continuation s m req write act) := by
  unfold State.continuation
  try dsimp only
  repeat' first
    | with_reducible assumption
    | split | with_reducible apply hact | with_reducible apply State.sendReply_keeps | with_reducible apply State.weloc_keeps
    | with_reducible apply State.denyObject_keeps | with_reducible apply State.dropXfer_keeps

theorem State.endXfer_keeps (s : State) (m : Manager) (req : List Byte) (n : Nat) (code : Nat) (h : s0.Keeps s) :
    s0.Keeps (State.endXfer s m req n code) := by
  unfold State.endXfer
  try dsimp only
  repeat' first
    | with_reducible assumption | with_reducible apply State.sendReply_keeps | with_reducible apply State.dropXfer_keeps

theorem State.welocNext_keeps (s : State) (m : Manager) (req : List Byte) (h : s0.Keeps s) :
    s0.Keeps (State.welocNext s m req) := by
  unfold State.welocNext
  try dsimp only
  repeat' first
    | with_reducible assumption | split | with_reducible apply State.continuation_keeps
    | with_reducible apply State.endXfer_keeps | with_reducible apply State.weloc_keeps
    | with_reducible apply State.setXfer_keeps | (intro; try dsimp only)

theorem State.welocSeg_keeps (s : State) (m : Manager) (req : List Byte) (h : s0.Keeps s) :
    s0.Keeps (State.welocSeg s m req) := by
  unfold State.welocSeg
  try dsimp only
  repeat' first
    | with_reducible assumption
    | (split <;> (rename_i heq; simp only [Prod.ext_iff] at heq; first | obtain ⟨rfl, rfl, rfl, rfl⟩ := heq | obtain ⟨rfl, rfl, rfl⟩ := heq | obtain ⟨rfl, rfl⟩ := heq | obtain ⟨_, rfl⟩ := heq | obtain ⟨_, _, rfl⟩ := heq))
    | split | with_reducible apply State.continuation_keeps | with_reducible apply State.endXfer_keeps
    | with_reducible apply State.setFw_keeps | with_reducible apply State.weloc_keeps
    | with_reducible apply State.setXfer_keeps | (intro; try dsimp only)

theorem State.fwWritten_keeps (s : State) (k : Nat) (h : s0.Keeps s) :
    s0.Keeps (State.fwWritten s k) := by
  unfold State.fwWritten
  try dsimp only
  repeat' first
    | with_reducible assumption | split | with_reducible apply State.setFw_keeps | with_reducible apply State.setRec_keeps
    | with_reducible apply State.touchStore_keeps

theorem State.welocEnd_keeps (s : State) (m : Manager) (req : List Byte) (h : s0.Keeps s) :
    s0.Keeps (State.welocEnd s m req) := by
  unfold State.welocEnd
  try dsimp only
  repeat' first
    | with_reducible assumption
    | (split <;> (rename_i heq; simp only [Prod.ext_iff] at heq; first | obtain ⟨rfl, rfl, rfl, rfl⟩ := heq | obtain ⟨rfl, rfl, rfl⟩ := heq | obtain ⟨rfl, rfl⟩ := heq | obtain ⟨_, rfl⟩ := heq | obtain ⟨_, _, rfl⟩ := heq))
    | split | with_reducible apply State.continuation_keeps | with_reducible apply State.endXfer_keeps
    | with_reducible apply State.sendReply_keeps | with_reducible apply State.setXfer_keeps
    | with_reducible apply State.fwWritten_keeps | with_reducible apply State.setFw_keeps
    | with_reducible apply State.writeWhole_keeps | (intro; try dsimp only)

theorem State.welocAbort_keeps (s : State) (m : Manager) (req : List Byte) (h : s0.Keeps s) :
    s0.Keeps (State.welocAbort s m req) := by
  unfold State.welocAbort
  try dsimp only
  repeat' first
    | with_reducible assumption
    | (split <;> (rename_i heq; simp only [Prod.ext_iff] at heq; first | obtain ⟨rfl, rfl, rfl, rfl⟩ := heq | obtain ⟨rfl, rfl, rfl⟩ := heq | obtain ⟨rfl, rfl⟩ := heq | obtain ⟨_, rfl⟩ := heq | obtain ⟨_, _, rfl⟩ := heq))
    | split | with_reducible apply State.dropXfer_keeps | (intro; try dsimp only)

theorem State.welocDo_keeps (s : State) (m : Manager) (req : List Byte) (h : s0.Keeps s) :
    s0.Keeps (State.welocDo s m req) := by
  unfold State.welocDo
  try dsimp only
  repeat' first
    | with_reducible assumption
    | (split <;> (rename_i heq; simp only [Prod.ext_iff] at heq; first | obtain ⟨rfl, rfl, rfl, rfl⟩ := heq | obtain ⟨rfl, rfl, rfl⟩ := heq | obtain ⟨rfl, rfl⟩ := heq | obtain ⟨_, rfl⟩ := heq | obtain ⟨_, _, rfl⟩ := heq))
    | split | with_reducible apply State.welocRead_keeps | with_reducible apply State.welocNext_keeps
    | with_reducible apply State.welocWrite_keeps | with_reducible apply State.welocInit_keeps
    | with_reducible apply State.welocSeg_keeps | with_reducible apply State.welocEnd_keeps
    | with_reducible apply State.welocAbort_keeps | with_reducible apply State.refuseReq_keeps

theorem State.welocIn_keeps (s : State) (m : Manager) (req : List Byte) (wanted : Nat → Bool) (h : s0.Keeps s) :
    s0.Keeps (State.welocIn s m req wanted) := by
  unfold State.welocIn
  try dsimp only
  repeat' first
    | with_reducible assumption
    | (split <;> (rename_i heq; simp only [Prod.ext_iff] at heq; first | obtain ⟨rfl, rfl, rfl, rfl⟩ := heq | obtain ⟨rfl, rfl, rfl⟩ := heq | obtain ⟨rfl, rfl⟩ := heq | obtain ⟨_, rfl⟩ := heq | obtain ⟨_, _, rfl⟩ := heq))
    | split | with_reducible apply State.hear_keeps | with_reducible apply State.weloc_keeps
    | with_reducible apply State.welocDo_keeps

theorem execRead_keeps (from_ : Manager) (segment : List Byte) (s : State) (h : s0.Keeps s) :
    ∀ t, execRead from_ segment s = .next t → s0.Keeps t := by
  intro t ht
  unfold execRead answer at ht
  injection ht with ht
  subst ht
  apply State.settle_keeps _ _ h
  try dsimp only
  repeat' first
    | with_reducible assumption | with_reducible apply State.welocIn_keeps

theorem execUploadNext_keeps (from_ : Manager) (segment : List Byte) (s : State) (h : s0.Keeps s) :
    ∀ t, execUploadNext from_ segment s = .next t → s0.Keeps t := by
  intro t ht
  unfold execUploadNext answer at ht
  injection ht with ht
  subst ht
  apply State.settle_keeps _ _ h
  try dsimp only
  repeat' first
    | with_reducible assumption | with_reducible apply State.welocIn_keeps

theorem execWrite_keeps (from_ : Manager) (segment : List Byte) (s : State) (h : s0.Keeps s) :
    ∀ t, execWrite from_ segment s = .next t → s0.Keeps t := by
  intro t ht
  unfold execWrite answer at ht
  injection ht with ht
  subst ht
  apply State.settle_keeps _ _ h
  try dsimp only
  repeat' first
    | with_reducible assumption | with_reducible apply State.welocIn_keeps

theorem execWriteInit_keeps (from_ : Manager) (segment : List Byte) (s : State) (h : s0.Keeps s) :
    ∀ t, execWriteInit from_ segment s = .next t → s0.Keeps t := by
  intro t ht
  unfold execWriteInit answer at ht
  injection ht with ht
  subst ht
  apply State.settle_keeps _ _ h
  try dsimp only
  repeat' first
    | with_reducible assumption | with_reducible apply State.welocIn_keeps

theorem execWriteSeg_keeps (from_ : Manager) (segment : List Byte) (s : State) (h : s0.Keeps s) :
    ∀ t, execWriteSeg from_ segment s = .next t → s0.Keeps t := by
  intro t ht
  unfold execWriteSeg answer at ht
  injection ht with ht
  subst ht
  apply State.settle_keeps _ _ h
  try dsimp only
  repeat' first
    | with_reducible assumption | with_reducible apply State.welocIn_keeps

theorem execWriteEnd_keeps (from_ : Manager) (segment : List Byte) (s : State) (h : s0.Keeps s) :
    ∀ t, execWriteEnd from_ segment s = .next t → s0.Keeps t := by
  intro t ht
  unfold execWriteEnd answer at ht
  injection ht with ht
  subst ht
  apply State.settle_keeps _ _ h
  try dsimp only
  repeat' first
    | with_reducible assumption | with_reducible apply State.welocIn_keeps

theorem execAbort_keeps (from_ : Manager) (segment : List Byte) (s : State) (h : s0.Keeps s) :
    ∀ t, execAbort from_ segment s = .next t → s0.Keeps t := by
  intro t ht
  unfold execAbort answer at ht
  injection ht with ht
  subst ht
  apply State.settle_keeps _ _ h
  try dsimp only
  repeat' first
    | with_reducible assumption | with_reducible apply State.welocIn_keeps

theorem execWelocUnknownCmd_keeps (from_ : Manager) (segment : List Byte) (s : State) (h : s0.Keeps s) :
    ∀ t, execWelocUnknownCmd from_ segment s = .next t → s0.Keeps t := by
  intro t ht
  unfold execWelocUnknownCmd answer at ht
  injection ht with ht
  subst ht
  apply State.settle_keeps _ _ h
  try dsimp only
  repeat' first
    | with_reducible assumption | with_reducible apply State.welocIn_keeps

theorem execWeloc_keeps (src : Nat) (body : List Byte) (s : State) (h : s0.Keeps s) :
    ∀ t, execWeloc src body s = .next t → s0.Keeps t := by
  intro t ht
  unfold execWeloc answer at ht
  injection ht with ht
  subst ht
  apply State.settle_keeps _ _ h
  try dsimp only
  repeat' first
    | with_reducible assumption
    | split
    | with_reducible apply State.tick1_keeps
    | with_reducible apply State.welocIn_keeps
    | (intro; try dsimp only)

theorem execWelocContextTimeout_keeps (context : Nat) (s : State) (h : s0.Keeps s) :
    ∀ t, execWelocContextTimeout context s = .next t → s0.Keeps t := by
  intro t ht
  unfold execWelocContextTimeout answer at ht
  injection ht with ht
  subst ht
  apply State.settle_keeps _ _ h
  try dsimp only
  repeat' first
    | with_reducible assumption | with_reducible apply State.dropXfer_keeps | with_reducible apply State.headland_keeps

theorem execWelocDuplicateExpiry_keeps (manager : Manager) (s : State) (h : s0.Keeps s) :
    ∀ t, execWelocDuplicateExpiry manager s = .next t → s0.Keeps t := by
  intro t ht
  unfold execWelocDuplicateExpiry answer at ht
  injection ht with ht
  subst ht
  apply State.settle_keeps _ _ h
  try dsimp only
  repeat' first
    | with_reducible assumption | with_reducible apply State.setMgr_keeps | with_reducible apply State.headland_keeps

theorem State.managerWrite_keeps (s : State) (m : Manager) (i : Nat) (sub : Nat) (v : List Byte) (h : s0.Keeps s) :
    s0.Keeps (State.managerWrite s m i sub v) := by
  unfold State.managerWrite
  try dsimp only
  repeat' first
    | with_reducible assumption
    | (split <;> (rename_i heq; simp only [Prod.ext_iff] at heq; first | obtain ⟨rfl, rfl, rfl, rfl⟩ := heq | obtain ⟨rfl, rfl, rfl⟩ := heq | obtain ⟨rfl, rfl⟩ := heq | obtain ⟨_, rfl⟩ := heq | obtain ⟨_, _, rfl⟩ := heq))
    | split | with_reducible apply State.hear_keeps | with_reducible apply State.sendReply_keeps
    | with_reducible apply State.writeWhole_keeps

theorem execFnImageWrite_keeps (from_ : Manager) (function : Nat) (image : List Byte) (s : State) (h : s0.Keeps s) :
    ∀ t, execFnImageWrite from_ function image s = .next t → s0.Keeps t := by
  intro t ht
  unfold execFnImageWrite answer at ht
  injection ht with ht
  subst ht
  apply State.settle_keeps _ _ h
  try dsimp only
  repeat' first
    | with_reducible assumption | with_reducible apply State.managerWrite_keeps

theorem execRestoreDefaults_keeps (from_ : Manager) (value : Nat) (s : State) (h : s0.Keeps s) :
    ∀ t, execRestoreDefaults from_ value s = .next t → s0.Keeps t := by
  intro t ht
  unfold execRestoreDefaults answer at ht
  injection ht with ht
  subst ht
  apply State.settle_keeps _ _ h
  try dsimp only
  repeat' first
    | with_reducible assumption | with_reducible apply State.managerWrite_keeps

theorem execBrRestore_keeps (from_ : Manager) (value : Nat) (s : State) (h : s0.Keeps s) :
    ∀ t, execBrRestore from_ value s = .next t → s0.Keeps t := by
  intro t ht
  unfold execBrRestore answer at ht
  injection ht with ht
  subst ht
  apply State.settle_keeps _ _ h
  try dsimp only
  repeat' first
    | with_reducible assumption | with_reducible apply State.managerWrite_keeps

theorem execBrClear_keeps (from_ : Manager) (value : Nat) (s : State) (h : s0.Keeps s) :
    ∀ t, execBrClear from_ value s = .next t → s0.Keeps t := by
  intro t ht
  unfold execBrClear answer at ht
  injection ht with ht
  subst ht
  apply State.settle_keeps _ _ h
  try dsimp only
  repeat' first
    | with_reducible assumption | with_reducible apply State.managerWrite_keeps

theorem execSecOwnerClaim_keeps (from_ : Manager) (digest : List Byte) (s : State) (h : s0.Keeps s) :
    ∀ t, execSecOwnerClaim from_ digest s = .next t → s0.Keeps t := by
  intro t ht
  unfold execSecOwnerClaim answer at ht
  injection ht with ht
  subst ht
  apply State.settle_keeps _ _ h
  try dsimp only
  repeat' first
    | with_reducible assumption | with_reducible apply State.managerWrite_keeps

theorem execSecOwnerRevoke_keeps (from_ : Manager) (value : Nat) (s : State) (h : s0.Keeps s) :
    ∀ t, execSecOwnerRevoke from_ value s = .next t → s0.Keeps t := by
  intro t ht
  unfold execSecOwnerRevoke answer at ht
  injection ht with ht
  subst ht
  apply State.settle_keeps _ _ h
  try dsimp only
  repeat' first
    | with_reducible assumption | with_reducible apply State.managerWrite_keeps

theorem execRegionRunWrite_keeps (from_ : Manager) (descriptor : Nat) (sub : Nat) (value : Word32) (s : State) (h : s0.Keeps s) :
    ∀ t, execRegionRunWrite from_ descriptor sub value s = .next t → s0.Keeps t := by
  intro t ht
  unfold execRegionRunWrite answer at ht
  injection ht with ht
  subst ht
  apply State.settle_keeps _ _ h
  try dsimp only
  repeat' first
    | with_reducible assumption | with_reducible apply State.managerWrite_keeps

theorem execLogCursorWrite_keeps (from_ : Manager) (value : Word64) (s : State) (h : s0.Keeps s) :
    ∀ t, execLogCursorWrite from_ value s = .next t → s0.Keeps t := by
  intro t ht
  unfold execLogCursorWrite answer at ht
  injection ht with ht
  subst ht
  apply State.settle_keeps _ _ h
  try dsimp only
  repeat' first
    | with_reducible assumption | with_reducible apply State.managerWrite_keeps

/-! ### Mgmt -/

theorem State.mctp_keeps (s : State) (via : Transport) (act : Nat → State → Nat × Nat × List Byte × State) (h : s0.Keeps s) (hact : ∀ k s, s0.Keeps s → s0.Keeps (act k s).2.2.2) :
    s0.Keeps (State.mctp s via act) := by
  unfold State.mctp
  try dsimp only
  repeat' first
    | with_reducible assumption
    | (split <;> (rename_i heq; simp only [Prod.ext_iff] at heq; first | obtain ⟨rfl, rfl, rfl, rfl⟩ := heq | obtain ⟨rfl, rfl, rfl⟩ := heq | obtain ⟨rfl, rfl⟩ := heq | obtain ⟨_, rfl⟩ := heq | obtain ⟨_, _, rfl⟩ := heq))
    | split | with_reducible apply hact | with_reducible apply State.reply_keeps | (intro; try dsimp only)

theorem State.forgetVia_keeps (s : State) (via : Transport) (h : s0.Keeps s) :
    s0.Keeps (State.forgetVia s via) := by
  unfold State.forgetVia
  try dsimp only
  repeat' first
    | with_reducible assumption | split

theorem State.setEid_keeps (s : State) (via : Transport) (k : Nat) (eid : Nat) (h : s0.Keeps s) :
    s0.Keeps (State.setEid s via k eid) := by
  unfold State.setEid
  try dsimp only
  repeat' first
    | with_reducible assumption | split | with_reducible apply State.forgetVia_keeps

theorem execSetEndpointId_keeps (via : Transport) (operation : Nat) (eid : Nat) (s : State) (h : s0.Keeps s) :
    ∀ t, execSetEndpointId via operation eid s = .next t → s0.Keeps t := by
  intro t ht
  unfold execSetEndpointId answer at ht
  injection ht with ht
  subst ht
  apply State.settle_keeps _ _ h
  try dsimp only
  repeat' first
    | with_reducible assumption | split | with_reducible apply State.mctp_keeps | with_reducible apply State.setEid_keeps
    | (intro; try dsimp only)

theorem execGetEndpointId_keeps (via : Transport) (s : State) (h : s0.Keeps s) :
    ∀ t, execGetEndpointId via s = .next t → s0.Keeps t := by
  intro t ht
  unfold execGetEndpointId answer at ht
  injection ht with ht
  subst ht
  apply State.settle_keeps _ _ h
  try dsimp only
  repeat' first
    | with_reducible assumption | with_reducible apply State.mctp_keeps | (intro; try dsimp only)

theorem execGetEndpointUuid_keeps (via : Transport) (s : State) (h : s0.Keeps s) :
    ∀ t, execGetEndpointUuid via s = .next t → s0.Keeps t := by
  intro t ht
  unfold execGetEndpointUuid answer at ht
  injection ht with ht
  subst ht
  apply State.settle_keeps _ _ h
  try dsimp only
  repeat' first
    | with_reducible assumption | with_reducible apply State.mctp_keeps | (intro; try dsimp only)

theorem execGetMctpVersionSupport_keeps (via : Transport) (messageType : Nat) (s : State) (h : s0.Keeps s) :
    ∀ t, execGetMctpVersionSupport via messageType s = .next t → s0.Keeps t := by
  intro t ht
  unfold execGetMctpVersionSupport answer at ht
  injection ht with ht
  subst ht
  apply State.settle_keeps _ _ h
  try dsimp only
  repeat' first
    | with_reducible assumption | split | with_reducible apply State.mctp_keeps | (intro; try dsimp only)

theorem execGetMessageTypeSupport_keeps (via : Transport) (s : State) (h : s0.Keeps s) :
    ∀ t, execGetMessageTypeSupport via s = .next t → s0.Keeps t := by
  intro t ht
  unfold execGetMessageTypeSupport answer at ht
  injection ht with ht
  subst ht
  apply State.settle_keeps _ _ h
  try dsimp only
  repeat' first
    | with_reducible assumption | with_reducible apply State.mctp_keeps | (intro; try dsimp only)

theorem execGetVendorDefinedMessageSupport_keeps (via : Transport) (selector : Nat) (s : State) (h : s0.Keeps s) :
    ∀ t, execGetVendorDefinedMessageSupport via selector s = .next t → s0.Keeps t := by
  intro t ht
  unfold execGetVendorDefinedMessageSupport answer at ht
  injection ht with ht
  subst ht
  apply State.settle_keeps _ _ h
  try dsimp only
  repeat' first
    | with_reducible assumption | split | with_reducible apply State.mctp_keeps | (intro; try dsimp only)

theorem execMctpUnsupportedCmd_keeps (via : Transport) (command : Nat) (s : State) (h : s0.Keeps s) :
    ∀ t, execMctpUnsupportedCmd via command s = .next t → s0.Keeps t := by
  intro t ht
  unfold execMctpUnsupportedCmd answer at ht
  injection ht with ht
  subst ht
  apply State.settle_keeps _ _ h
  try dsimp only
  repeat' first
    | with_reducible assumption | with_reducible apply State.mctp_keeps | (intro; try dsimp only)

theorem State.setAddr_keeps (s : State) (b : Nat) (a : Nat) (h : s0.Keeps s) :
    s0.Keeps (State.setAddr s b a) := by
  unfold State.setAddr
  try dsimp only
  repeat' first
    | with_reducible assumption | split | with_reducible apply State.forgetVia_keeps

theorem State.loseAddr_keeps (s : State) (b : Nat) (h : s0.Keeps s) :
    s0.Keeps (State.loseAddr s b) := by
  unfold State.loseAddr
  try dsimp only
  repeat' first
    | with_reducible assumption | with_reducible apply State.setEid_keeps

theorem execEntdaa_keeps (bus : Nat) (address : Nat) (s : State) (h : s0.Keeps s) :
    ∀ t, execEntdaa bus address s = .next t → s0.Keeps t := by
  intro t ht
  unfold execEntdaa answer at ht
  injection ht with ht
  subst ht
  apply State.settle_keeps _ _ h
  try dsimp only
  repeat' first
    | with_reducible assumption | split | with_reducible apply State.loseAddr_keeps | with_reducible apply State.emit_keeps
    | with_reducible apply State.setAddr_keeps

theorem execSetnewda_keeps (bus : Nat) (address : Nat) (s : State) (h : s0.Keeps s) :
    ∀ t, execSetnewda bus address s = .next t → s0.Keeps t := by
  intro t ht
  unfold execSetnewda answer at ht
  injection ht with ht
  subst ht
  apply State.settle_keeps _ _ h
  try dsimp only
  repeat' first
    | with_reducible assumption | split | with_reducible apply State.setAddr_keeps

theorem execRstdaa_keeps (bus : Nat) (s : State) (h : s0.Keeps s) :
    ∀ t, execRstdaa bus s = .next t → s0.Keeps t := by
  intro t ht
  unfold execRstdaa answer at ht
  injection ht with ht
  subst ht
  apply State.settle_keeps _ _ h
  try dsimp only
  repeat' first
    | with_reducible assumption | split | with_reducible apply State.setAddr_keeps | with_reducible apply State.loseAddr_keeps

theorem execSetmwl_keeps (bus : Nat) (length : Nat) (s : State) (h : s0.Keeps s) :
    ∀ t, execSetmwl bus length s = .next t → s0.Keeps t := by
  intro t ht
  unfold execSetmwl answer at ht
  injection ht with ht
  subst ht
  apply State.settle_keeps _ _ h
  try dsimp only
  repeat' first
    | with_reducible assumption | split

theorem execSetmrl_keeps (bus : Nat) (length : Nat) (s : State) (h : s0.Keeps s) :
    ∀ t, execSetmrl bus length s = .next t → s0.Keeps t := by
  intro t ht
  unfold execSetmrl answer at ht
  injection ht with ht
  subst ht
  apply State.settle_keeps _ _ h
  try dsimp only
  repeat' first
    | with_reducible assumption | split

theorem execI3cPrivateRead_keeps (bus : Nat) (s : State) (h : s0.Keeps s) :
    ∀ t, execI3cPrivateRead bus s = .next t → s0.Keeps t := by
  intro t ht
  unfold execI3cPrivateRead answer at ht
  injection ht with ht
  subst ht
  apply State.settle_keeps _ _ h
  try dsimp only
  repeat' first
    | with_reducible assumption
    | (split <;> (rename_i heq; simp only [Prod.ext_iff] at heq; first | obtain ⟨rfl, rfl, rfl, rfl⟩ := heq | obtain ⟨rfl, rfl, rfl⟩ := heq | obtain ⟨rfl, rfl⟩ := heq | obtain ⟨_, rfl⟩ := heq | obtain ⟨_, _, rfl⟩ := heq))
    | split | with_reducible apply State.emit_keeps

theorem execI3cHotJoinTimer_keeps (bus : Nat) (s : State) (h : s0.Keeps s) :
    ∀ t, execI3cHotJoinTimer bus s = .next t → s0.Keeps t := by
  intro t ht
  unfold execI3cHotJoinTimer answer at ht
  injection ht with ht
  subst ht
  apply State.settle_keeps _ _ h
  try dsimp only
  repeat' first
    | with_reducible assumption | split | with_reducible apply State.emit_keeps

/-! ### Boot -/

theorem State.setRunning_keeps (s : State) (key : Nat × Nat) (alt : Nat) (n : Nat) (h : s0.Keeps s) :
    s0.Keeps (State.setRunning s key alt n) :=
  h

theorem State.stopRunning_keeps (s : State) (key : Nat × Nat) (h : s0.Keeps s) :
    s0.Keeps (State.stopRunning s key) :=
  h

theorem State.joinUnits_keeps (s : State) (step : Nat) (h : s0.Keeps s) :
    s0.Keeps (State.joinUnits s step) := by
  unfold State.joinUnits
  try dsimp only
  repeat' first
    | with_reducible assumption | split | with_reducible apply State.setRec_keeps | with_reducible apply foldl_keeps
    | (intro; try dsimp only)

theorem State.endKey_keeps (s : State) (key : Nat × Nat) (h : s0.Keeps s) :
    s0.Keeps (State.endKey s key) := by
  unfold State.endKey
  try dsimp only
  repeat' first
    | with_reducible assumption | with_reducible apply State.stopRunning_keeps | with_reducible apply State.joinUnits_keeps

theorem State.domainsOn_keeps (s : State) (ds : List Nat) (h : s0.Keeps s) :
    s0.Keeps (State.domainsOn s ds) := by
  unfold State.domainsOn
  try dsimp only
  repeat' first
    | with_reducible assumption | split | with_reducible apply State.setDomain_keeps | with_reducible apply foldl_keeps
    | (intro; try dsimp only)

theorem State.domainsHeld_keeps (s : State) (ds : List Nat) (h : s0.Keeps s) :
    s0.Keeps (State.domainsHeld s ds) := by
  unfold State.domainsHeld
  try dsimp only
  repeat' first
    | with_reducible assumption | with_reducible apply State.setDomain_keeps | with_reducible apply foldl_keeps
    | (intro; try dsimp only)

theorem State.passBs00_keeps (s : State) (tpos : Nat) (h : s0.Keeps s) :
    s0.Keeps (State.passBs00 s tpos) := by
  unfold State.passBs00
  try dsimp only
  repeat' first
    | with_reducible assumption | split | with_reducible apply State.domainsHeld_keeps

theorem State.applyFlags_keeps (s : State) (h : s0.Keeps s) :
    s0.Keeps (State.applyFlags s) := by
  unfold State.applyFlags
  try dsimp only
  repeat' first
    | with_reducible assumption | split

theorem State.passBs02_keeps (s : State) (absent : Bool) (h : s0.Keeps s) :
    s0.Keeps (State.passBs02 s absent) := by
  unfold State.passBs02
  try dsimp only
  repeat' first
    | with_reducible assumption | split | with_reducible apply State.applyFlags_keeps
    | with_reducible apply State.loadStore_keeps | with_reducible apply State.log_keeps

theorem State.passBs03_keeps (s : State) (alt : Nat) (h : s0.Keeps s) :
    s0.Keeps (State.passBs03 s alt) := by
  unfold State.passBs03
  try dsimp only
  repeat' first
    | with_reducible assumption | with_reducible apply State.sealCheck_keeps

theorem State.repair_keeps (s : State) (units : List Nat) (kept : Nat) (h : s0.Keeps s) :
    s0.Keeps (State.repair s units kept) := by
  unfold State.repair
  try dsimp only
  repeat' first
    | with_reducible assumption | with_reducible apply State.setUnit_keeps | with_reducible apply foldl_keeps2
    | (intro; try dsimp only)

theorem State.setTiming_keeps (s : State) (units : List Nat) (t : Nat) (h : s0.Keeps s) :
    s0.Keeps (State.setTiming s units t) := by
  unfold State.setTiming
  try dsimp only
  repeat' first
    | with_reducible assumption | with_reducible apply State.setUnit_keeps | with_reducible apply foldl_keeps
    | (intro; try dsimp only)

theorem State.passBs10_keeps (s : State) (hh : Nat) (alt : Nat) (result : Nat) (h : s0.Keeps s) :
    s0.Keeps (State.passBs10 s hh alt result) := by
  unfold State.passBs10
  try dsimp only
  repeat' first
    | with_reducible assumption | with_reducible apply State.setTiming_keeps | with_reducible apply State.repair_keeps

theorem State.passBs11_keeps (s : State) (hh : Nat) (alt : Nat) (result : Nat) (h : s0.Keeps s) :
    s0.Keeps (State.passBs11 s hh alt result) := by
  unfold State.passBs11
  try dsimp only
  repeat' first
    | with_reducible assumption
    | (split <;> (rename_i heq; simp only [Prod.ext_iff] at heq; first | obtain ⟨rfl, rfl, rfl, rfl⟩ := heq | obtain ⟨rfl, rfl, rfl⟩ := heq | obtain ⟨rfl, rfl⟩ := heq | obtain ⟨_, rfl⟩ := heq | obtain ⟨_, _, rfl⟩ := heq))
    | with_reducible apply State.setTiming_keeps | with_reducible apply State.repair_keeps

theorem State.reject_keeps (s : State) (source : Nat) (base : Nat) (h : s0.Keeps s) :
    s0.Keeps (State.reject s source base) := by
  unfold State.reject
  try dsimp only
  repeat' first
    | with_reducible assumption | with_reducible apply State.log_keeps

theorem State.latchSpill_keeps (s : State) (hh : Nat) (h : s0.Keeps s) :
    s0.Keeps (State.latchSpill s hh) := by
  unfold State.latchSpill
  try dsimp only
  repeat' first
    | with_reducible assumption | split | with_reducible apply State.reject_keeps

theorem State.loadRegion_keeps (s : State) (i : Nat) (h : s0.Keeps s) :
    s0.Keeps (State.loadRegion s i) := by
  unfold State.loadRegion
  try dsimp only
  repeat' first
    | with_reducible assumption | split | with_reducible apply State.reject_keeps | with_reducible apply State.setRegion_keeps

theorem State.passBs12_keeps (s : State) (result : Nat) (h : s0.Keeps s) : s0.Keeps (s.passBs12 result) := by
  unfold State.passBs12
  dsimp only
  apply foldl_keeps _ _ _ (fun s i hs => State.loadRegion_keeps s i hs)
  apply foldl_keeps _ _ _ (fun s i hs => State.latchSpill_keeps s i hs)
  apply foldl_keeps _ _ _ (fun s u hs => State.setUnit_keeps s u _ hs)
  exact ((Kept.filter_cells h _).no_lines).draw

theorem State.latchKv_keeps (s : State) (secure : Bool) (g7 : Bool) (h : s0.Keeps s) :
    s0.Keeps (State.latchKv s secure g7) := by
  unfold State.latchKv
  try dsimp only
  repeat' first
    | with_reducible assumption | split | with_reducible apply State.reject_keeps | with_reducible apply State.setKvPool_keeps

theorem State.latchPool_keeps (s : State) (secure : Bool) (h : s0.Keeps s) :
    s0.Keeps (State.latchPool s secure) := by
  unfold State.latchPool
  try dsimp only
  repeat' first
    | with_reducible assumption | split | with_reducible apply State.reject_keeps

theorem State.latchPools_keeps (s : State) (other : Nat) (h : s0.Keeps s) :
    s0.Keeps (State.latchPools s other) := by
  unfold State.latchPools
  try dsimp only
  repeat' first
    | with_reducible assumption | split | with_reducible apply State.latchPool_keeps

theorem State.passBs17_keeps (s : State) (h : s0.Keeps s) :
    s0.Keeps (State.passBs17 s) := by
  unfold State.passBs17
  try dsimp only
  repeat' first
    | with_reducible assumption | with_reducible apply State.domainsOn_keeps | with_reducible apply State.latchKv_keeps
    | with_reducible apply State.latchPools_keeps

theorem State.passBs19_keeps (s : State) (alt : Nat) (result : Nat) (h : s0.Keeps s) :
    s0.Keeps (State.passBs19 s alt result) := by
  unfold State.passBs19
  try dsimp only
  repeat' first
    | with_reducible assumption | split | with_reducible apply State.domainsOn_keeps | with_reducible apply State.domainsHeld_keeps
    | with_reducible apply State.latchPools_keeps | (intro; try dsimp only)

theorem State.passBs20_keeps (s : State) (alt : Nat) (result : Nat) (h : s0.Keeps s) :
    s0.Keeps (State.passBs20 s alt result) := by
  unfold State.passBs20
  try dsimp only
  repeat' first
    | with_reducible assumption | split | with_reducible apply State.domainsOn_keeps
    | with_reducible apply State.domainsHeld_keeps

theorem State.passBs15_keeps (s : State) (p : Nat) (h : s0.Keeps s) :
    s0.Keeps (State.passBs15 s p) := by
  unfold State.passBs15
  try dsimp only
  repeat' first
    | with_reducible assumption | split | with_reducible apply State.setPort_keeps | with_reducible apply State.portNext_keeps

theorem State.passBs23_keeps (s : State) (h : s0.Keeps s) :
    s0.Keeps (State.passBs23 s) := by
  unfold State.passBs23
  try dsimp only
  repeat' first
    | with_reducible assumption | split | with_reducible apply State.emit_keeps | with_reducible apply State.portTrain_keeps
    | with_reducible apply foldl_keeps | (intro; try dsimp only)

theorem State.passStep_keeps (s : State) (step : Nat) (unit : Nat) (alt : Nat) (result : Nat) (h : s0.Keeps s) :
    s0.Keeps (State.passStep s step unit alt result) := by
  unfold State.passStep
  try dsimp only
  repeat' first
    | with_reducible assumption
    | (split <;> (rename_i heq; simp only [Prod.ext_iff] at heq; first | obtain ⟨rfl, rfl, rfl, rfl⟩ := heq | obtain ⟨rfl, rfl, rfl⟩ := heq | obtain ⟨rfl, rfl⟩ := heq | obtain ⟨_, rfl⟩ := heq | obtain ⟨_, _, rfl⟩ := heq))
    | split | with_reducible apply State.passBs00_keeps | with_reducible apply State.passBs02_keeps
    | with_reducible apply State.passBs03_keeps | with_reducible apply State.writeSetPoint_keeps
    | with_reducible apply State.domainsOn_keeps | with_reducible apply State.passBs10_keeps
    | with_reducible apply State.passBs11_keeps | with_reducible apply State.passBs12_keeps
    | with_reducible apply State.laserOutputs_keeps | with_reducible apply State.setLaser_keeps
    | with_reducible apply State.passBs15_keeps | with_reducible apply State.passBs17_keeps
    | with_reducible apply State.passBs19_keeps | with_reducible apply State.passBs20_keeps
    | with_reducible apply State.bringupCommit_keeps | with_reducible apply State.passBs23_keeps

theorem State.absentStep_keeps (s : State) (step : Nat) (unit : Nat) (h : s0.Keeps s) :
    s0.Keeps (State.absentStep s step unit) := by
  unfold State.absentStep
  try dsimp only
  repeat' first
    | with_reducible assumption
    | (split <;> (rename_i heq; simp only [Prod.ext_iff] at heq; first | obtain ⟨rfl, rfl, rfl, rfl⟩ := heq | obtain ⟨rfl, rfl, rfl⟩ := heq | obtain ⟨rfl, rfl⟩ := heq | obtain ⟨_, rfl⟩ := heq | obtain ⟨_, _, rfl⟩ := heq))
    | split | with_reducible apply State.setPort_keeps | with_reducible apply State.domainsHeld_keeps

theorem State.stand_keeps (s : State) (h : s0.Keeps s) :
    s0.Keeps (State.stand s) := by
  unfold State.stand
  try dsimp only
  repeat' first
    | with_reducible assumption | with_reducible apply State.bringupCommit_keeps | with_reducible apply State.emit_keeps

theorem State.enterSafe_keeps (s : State) (step : Nat) (fails : Nat) (h : s0.Keeps s) :
    s0.Keeps (State.enterSafe s step fails) := by
  unfold State.enterSafe
  try dsimp only
  repeat' first
    | with_reducible assumption | with_reducible apply State.stand_keeps | with_reducible apply State.log_keeps

theorem State.safeReturn_keeps (s : State) (h : s0.Keeps s) :
    s0.Keeps (State.safeReturn s) := by
  unfold State.safeReturn
  try dsimp only
  repeat' first
    | with_reducible assumption | split | with_reducible apply State.stand_keeps

theorem State.safeSkip_keeps (s : State) (step : Nat) (h : s0.Keeps s) :
    s0.Keeps (State.safeSkip s step) :=
  h

theorem State.attempt_keeps (s : State) (key : Nat × Nat) (alt : Nat) (n : Nat) (h : s0.Keeps s) :
    s0.Keeps (State.attempt s key alt n) := by
  unfold State.attempt
  try dsimp only
  repeat' first
    | with_reducible assumption | split | with_reducible apply State.setRunning_keeps
    | with_reducible apply State.headland_keeps | with_reducible apply State.setRec_keeps
    | with_reducible apply State.portBegin_keeps

theorem State.mandatoryFail_keeps (s : State) (key : Nat × Nat) (h : s0.Keeps s) :
    s0.Keeps (State.mandatoryFail s key) := by
  unfold State.mandatoryFail
  try dsimp only
  repeat' first
    | with_reducible assumption | split | with_reducible apply State.safeReturn_keeps
    | with_reducible apply State.safeSkip_keeps | with_reducible apply State.endKey_keeps
    | with_reducible apply State.enterSafe_keeps | with_reducible apply State.bringupCommit_keeps
    | with_reducible apply State.deviceReset_keeps

theorem State.stepFail_keeps (s : State) (key : Nat × Nat) (unit : Nat) (alt : Nat) (h : s0.Keeps s) :
    s0.Keeps (State.stepFail s key unit alt) := by
  unfold State.stepFail
  try dsimp only
  repeat' first
    | with_reducible assumption | split | with_reducible apply State.setRec_keeps | with_reducible apply State.log_keeps
    | with_reducible apply State.safeReturn_keeps | with_reducible apply State.endKey_keeps
    | with_reducible apply State.absentStep_keeps | with_reducible apply State.mandatoryFail_keeps
    | with_reducible apply State.stopRunning_keeps

theorem State.stepPass_keeps (s : State) (key : Nat × Nat) (unit : Nat) (alt : Nat) (result : Nat) (h : s0.Keeps s) :
    s0.Keeps (State.stepPass s key unit alt result) := by
  unfold State.stepPass
  try dsimp only
  repeat' first
    | with_reducible assumption | with_reducible apply State.setRec_keeps | with_reducible apply State.safeReturn_keeps
    | with_reducible apply State.endKey_keeps | with_reducible apply State.passStep_keeps

theorem State.attemptOver_keeps (s : State) (step : Nat) (unit : Nat) (passed : Bool) (result : Nat) (micros : Nat) (h : s0.Keeps s) :
    s0.Keeps (State.attemptOver s step unit passed result micros) := by
  unfold State.attemptOver
  try dsimp only
  repeat' first
    | with_reducible assumption
    | (split <;> (rename_i heq; simp only [Prod.ext_iff] at heq; first | obtain ⟨rfl, rfl, rfl, rfl⟩ := heq | obtain ⟨rfl, rfl, rfl⟩ := heq | obtain ⟨rfl, rfl⟩ := heq | obtain ⟨_, rfl⟩ := heq | obtain ⟨_, _, rfl⟩ := heq))
    | split | with_reducible apply State.stepPass_keeps | with_reducible apply State.attempt_keeps
    | with_reducible apply State.stepFail_keeps

theorem State.openStep_keeps (s : State) (step : Nat) (h : s0.Keeps s) :
    s0.Keeps (State.openStep s step) := by
  unfold State.openStep
  try dsimp only
  repeat' first
    | with_reducible assumption | split | with_reducible apply State.portNext_keeps | with_reducible apply State.setPort_keeps
    | with_reducible apply foldl_keeps | (intro; try dsimp only)

theorem State.startStep_keeps (s : State) (step : Nat) (unit : Nat) (h : s0.Keeps s) :
    s0.Keeps (State.startStep s step unit) := by
  unfold State.startStep
  try dsimp only
  repeat' first
    | with_reducible assumption | split | with_reducible apply State.safeReturn_keeps | with_reducible apply State.endKey_keeps
    | with_reducible apply State.absentStep_keeps | with_reducible apply State.setRec_keeps
    | with_reducible apply State.attempt_keeps | with_reducible apply State.openStep_keeps

theorem execBringupStepRun_keeps (step : Nat) (unit : Nat) (s : State) (h : s0.Keeps s) :
    ∀ t, execBringupStepRun step unit s = .next t → s0.Keeps t := by
  intro t ht
  unfold execBringupStepRun answer at ht
  injection ht with ht
  subst ht
  apply State.settle_keeps _ _ h
  try dsimp only
  repeat' first
    | with_reducible assumption | with_reducible apply State.startStep_keeps

theorem execBringupAttemptEnd_keeps (step : Nat) (unit : Nat) (passed : Bool) (result : Nat) (micros : Nat) (s : State) (h : s0.Keeps s) :
    ∀ t, execBringupAttemptEnd step unit passed result micros s = .next t → s0.Keeps t := by
  intro t ht
  unfold execBringupAttemptEnd answer at ht
  injection ht with ht
  subst ht
  apply State.settle_keeps _ _ h
  try dsimp only
  repeat' first
    | with_reducible assumption | with_reducible apply State.attemptOver_keeps

theorem execBringupAttemptTimeout_keeps (step : Nat) (unit : Nat) (s : State) (h : s0.Keeps s) :
    ∀ t, execBringupAttemptTimeout step unit s = .next t → s0.Keeps t := by
  intro t ht
  unfold execBringupAttemptTimeout answer at ht
  injection ht with ht
  subst ht
  apply State.settle_keeps _ _ h
  try dsimp only
  repeat' first
    | with_reducible assumption | with_reducible apply State.attemptOver_keeps

theorem State.setLines_keeps (s : State) (x : Lines) (h : s0.Keeps s) :
    s0.Keeps (State.setLines s x) :=
  h

theorem execPowerOnReset_keeps (s : State) (h : s0.Keeps s) :
    ∀ t, execPowerOnReset s = .next t → s0.Keeps t := by
  intro t ht
  unfold execPowerOnReset answer at ht
  injection ht with ht
  subst ht
  apply State.settle_keeps _ _ h
  try dsimp only
  repeat' first
    | with_reducible assumption | with_reducible apply State.deviceReset_keeps

theorem execRstNAssert_keeps (s : State) (h : s0.Keeps s) :
    ∀ t, execRstNAssert s = .next t → s0.Keeps t := by
  intro t ht
  unfold execRstNAssert answer at ht
  injection ht with ht
  subst ht
  apply State.settle_keeps _ _ h
  try dsimp only
  repeat' first
    | with_reducible assumption | with_reducible apply State.deviceReset_keeps | with_reducible apply State.setLines_keeps

theorem execRstNDeassert_keeps (s : State) (h : s0.Keeps s) :
    ∀ t, execRstNDeassert s = .next t → s0.Keeps t := by
  intro t ht
  unfold execRstNDeassert answer at ht
  injection ht with ht
  subst ht
  apply State.settle_keeps _ _ h
  try dsimp only
  repeat' first
    | with_reducible assumption | split | with_reducible apply State.setLines_keeps
    | with_reducible apply State.startStep_keeps

theorem execPerstAssert_keeps (s : State) (h : s0.Keeps s) :
    ∀ t, execPerstAssert s = .next t → s0.Keeps t := by
  intro t ht
  unfold execPerstAssert answer at ht
  injection ht with ht
  subst ht
  apply State.settle_keeps _ _ h
  try dsimp only
  repeat' first
    | with_reducible assumption | split | with_reducible apply State.deviceReset_keeps
    | with_reducible apply State.setLines_keeps

theorem execPerstDeassert_keeps (s : State) (h : s0.Keeps s) :
    ∀ t, execPerstDeassert s = .next t → s0.Keeps t := by
  intro t ht
  unfold execPerstDeassert answer at ht
  injection ht with ht
  subst ht
  apply State.settle_keeps _ _ h
  try dsimp only
  repeat' first
    | with_reducible assumption | with_reducible apply State.setLines_keeps

theorem execTapResetRelease_keeps (s : State) (h : s0.Keeps s) :
    ∀ t, execTapResetRelease s = .next t → s0.Keeps t := by
  intro t ht
  unfold execTapResetRelease answer at ht
  injection ht with ht
  subst ht
  apply State.settle_keeps _ _ h
  try dsimp only
  repeat' first
    | with_reducible assumption | split | with_reducible apply State.deviceReset_keeps
    | with_reducible apply State.setLines_keeps

theorem execTapReset_keeps (s : State) (h : s0.Keeps s) :
    ∀ t, execTapReset s = .next t → s0.Keeps t := by
  intro t ht
  unfold execTapReset answer at ht
  injection ht with ht
  subst ht
  apply State.settle_keeps _ _ h
  try dsimp only
  repeat' first
    | with_reducible assumption | with_reducible apply State.setLines_keeps

/-! ### Faults -/

theorem State.loseLine_keeps (s : State) (l : Nat) (h : s0.Keeps s) :
    s0.Keeps (State.loseLine s l) := by
  unfold State.loseLine
  try dsimp only
  repeat' first
    | with_reducible assumption | split | with_reducible apply State.notifySecure_keeps
    | with_reducible apply State.tick1_keeps | with_reducible apply State.log_keeps
    | with_reducible apply State.poisonLine_keeps | with_reducible apply Kept.filter_lines

theorem State.loseTiles_keeps (s : State) (c : Nat) (h : s0.Keeps s) :
    s0.Keeps (State.loseTiles s c) := by
  unfold State.loseTiles
  try dsimp only
  repeat' first
    | with_reducible assumption
    | (split <;> (rename_i heq; simp only [Prod.ext_iff] at heq; first | obtain ⟨rfl, rfl, rfl, rfl⟩ := heq | obtain ⟨rfl, rfl, rfl⟩ := heq | obtain ⟨rfl, rfl⟩ := heq | obtain ⟨_, rfl⟩ := heq | obtain ⟨_, _, rfl⟩ := heq))
    | split

theorem State.abandonTasks_keeps (s : State) (c : Nat) (h : s0.Keeps s) :
    s0.Keeps (State.abandonTasks s c) := by
  unfold State.abandonTasks
  try dsimp only
  repeat' first
    | with_reducible assumption | with_reducible apply State.tileDone_keeps | with_reducible apply State.meet_keeps
    | with_reducible apply foldl_keeps | (intro; try dsimp only)

theorem State.withdraw_keeps (s : State) (c : Nat) (part : Nat) (h : s0.Keeps s) :
    s0.Keeps (State.withdraw s c part) := by
  unfold State.withdraw
  try dsimp only
  repeat' first
    | with_reducible assumption | split | with_reducible apply State.loseTiles_keeps
    | with_reducible apply State.abandonTasks_keeps | with_reducible apply State.setCore_keeps
    | with_reducible apply State.log_keeps

theorem State.endStream_keeps (s : State) (encode : Bool) (slot : Nat) (h : s0.Keeps s) :
    s0.Keeps (State.endStream s encode slot) := by
  unfold State.endStream
  try dsimp only
  repeat' first
    | with_reducible assumption | split | with_reducible apply State.endDecode_keeps
    | with_reducible apply State.endEncode_keeps | with_reducible apply State.finishWorst_keeps
    | with_reducible apply foldl_keeps | (intro; try dsimp only)

theorem State.loseStream_keeps (s : State) (encode : Bool) (slot : Nat) (h : s0.Keeps s) :
    s0.Keeps (State.loseStream s encode slot) := by
  unfold State.loseStream
  try dsimp only
  repeat' first
    | with_reducible assumption
    | (split <;> (rename_i heq; simp only [Prod.ext_iff] at heq; first | obtain ⟨rfl, rfl, rfl, rfl⟩ := heq | obtain ⟨rfl, rfl, rfl⟩ := heq | obtain ⟨rfl, rfl⟩ := heq | obtain ⟨_, rfl⟩ := heq | obtain ⟨_, _, rfl⟩ := heq))
    | split | with_reducible apply State.log_keeps | with_reducible apply State.closeEnc_keeps
    | with_reducible apply State.endStream_keeps | with_reducible apply State.closeDec_keeps

theorem State.loseChan_keeps (s : State) (c : Nat) (h : s0.Keeps s) :
    s0.Keeps (State.loseChan s c) := by
  unfold State.loseChan
  try dsimp only
  repeat' first
    | with_reducible assumption
    | (split <;> (rename_i heq; simp only [Prod.ext_iff] at heq; first | obtain ⟨rfl, rfl, rfl, rfl⟩ := heq | obtain ⟨rfl, rfl, rfl⟩ := heq | obtain ⟨rfl, rfl⟩ := heq | obtain ⟨_, rfl⟩ := heq | obtain ⟨_, _, rfl⟩ := heq))
    | split | with_reducible apply State.log_keeps | with_reducible apply State.finishWorst_keeps
    | with_reducible apply State.setChan_keeps | with_reducible apply foldl_keeps | with_reducible apply foldl_keeps2
    | with_reducible apply foldl_keeps3 | (intro; try dsimp only)

theorem State.stopAll_keeps (s : State) (h : s0.Keeps s) :
    s0.Keeps (State.stopAll s) := by
  unfold State.stopAll
  try dsimp only
  repeat' first
    | with_reducible assumption
    | (split <;> (rename_i heq; simp only [Prod.ext_iff] at heq; first | obtain ⟨rfl, rfl, rfl, rfl⟩ := heq | obtain ⟨rfl, rfl, rfl⟩ := heq | obtain ⟨rfl, rfl⟩ := heq | obtain ⟨_, rfl⟩ := heq | obtain ⟨_, _, rfl⟩ := heq))
    | split | with_reducible apply State.emit_keeps | with_reducible apply foldl_keeps | (intro; try dsimp only)

theorem State.endAll_keeps (s : State) (h : s0.Keeps s) :
    s0.Keeps (State.endAll s) := by
  unfold State.endAll
  try dsimp only
  repeat' first
    | with_reducible assumption | with_reducible apply State.endStage_keeps | with_reducible apply foldl_keeps
    | (intro; try dsimp only)

theorem State.loseSlot_keeps (s : State) (slot : Option Nat) (h : s0.Keeps s) :
    s0.Keeps (State.loseSlot s slot) := by
  unfold State.loseSlot
  try dsimp only
  repeat' first
    | with_reducible assumption
    | split
    | with_reducible apply State.finish_keeps
    | with_reducible apply State.setStage_keeps
    | (intro; try dsimp only)

theorem State.leaveFabric_keeps (s : State) (h : s0.Keeps s) :
    s0.Keeps (State.leaveFabric s) := by
  unfold State.leaveFabric
  try dsimp only
  repeat' first
    | with_reducible assumption
    | (split <;> (rename_i heq; simp only [Prod.ext_iff] at heq; first | obtain ⟨rfl, rfl, rfl, rfl⟩ := heq | obtain ⟨rfl, rfl, rfl⟩ := heq | obtain ⟨rfl, rfl⟩ := heq | obtain ⟨_, rfl⟩ := heq | obtain ⟨_, _, rfl⟩ := heq))
    | with_reducible apply State.sendMsg_keeps | with_reducible apply foldl_keeps | (intro; try dsimp only)

theorem State.fatalEvent_keeps (s : State) (code : Nat) (address : Nat) (slot : Option Nat) (h : s0.Keeps s) :
    s0.Keeps (State.fatalEvent s code address slot) := by
  unfold State.fatalEvent
  try dsimp only
  repeat' first
    | with_reducible assumption
    | split
    | with_reducible apply State.log_keeps
    | with_reducible apply State.leaveFabric_keeps
    | with_reducible apply State.endAll_keeps
    | with_reducible apply State.stopAll_keeps
    | with_reducible apply State.loseSlot_keeps
    | (intro; try dsimp only)

theorem execControlSramCe_keeps (_where : SramKind) (s : State) (h : s0.Keeps s) :
    ∀ t, execControlSramCe _where s = .next t → s0.Keeps t := by
  intro t ht
  unfold execControlSramCe answer at ht
  injection ht with ht
  subst ht
  apply State.settle_keeps _ _ h
  try dsimp only
  repeat' first
    | with_reducible assumption | with_reducible apply State.tick1_keeps

theorem execControlSramUe_keeps (where_ : SramKind) (s : State) (h : s0.Keeps s) :
    ∀ t, execControlSramUe where_ s = .next t → s0.Keeps t := by
  intro t ht
  unfold execControlSramUe answer at ht
  injection ht with ht
  subst ht
  apply State.settle_keeps _ _ h
  try dsimp only
  repeat' first
    | with_reducible assumption
    | (split <;> (rename_i heq; simp only [Prod.ext_iff] at heq; first | obtain ⟨rfl, rfl, rfl, rfl⟩ := heq | obtain ⟨rfl, rfl, rfl⟩ := heq | obtain ⟨rfl, rfl⟩ := heq | obtain ⟨_, rfl⟩ := heq | obtain ⟨_, _, rfl⟩ := heq))
    | split | with_reducible apply State.tick1_keeps | with_reducible apply State.loseLine_keeps
    | with_reducible apply State.withdraw_keeps | with_reducible apply State.loseStream_keeps
    | with_reducible apply State.loseChan_keeps | with_reducible apply State.fatalEvent_keeps

theorem execBridgeLoss_keeps (s : State) (h : s0.Keeps s) :
    ∀ t, execBridgeLoss s = .next t → s0.Keeps t := by
  intro t ht
  unfold execBridgeLoss answer at ht
  injection ht with ht
  subst ht
  apply State.settle_keeps _ _ h
  try dsimp only
  repeat' first
    | with_reducible assumption

theorem execBridgeLossTimeout_keeps (s : State) (h : s0.Keeps s) :
    ∀ t, execBridgeLossTimeout s = .next t → s0.Keeps t := by
  intro t ht
  unfold execBridgeLossTimeout answer at ht
  injection ht with ht
  subst ht
  apply State.settle_keeps _ _ h
  try dsimp only
  repeat' first
    | with_reducible assumption | split | with_reducible apply State.fatalEvent_keeps

/-! ### Spdm -/

theorem State.spdmSend_keeps (s : State) (via : Transport) (bytes : List Byte) (h : s0.Keeps s) :
    s0.Keeps (State.spdmSend s via bytes) := by
  unfold State.spdmSend
  try dsimp only
  repeat' first
    | with_reducible assumption | split | with_reducible apply State.reply_keeps | with_reducible apply State.fresh_keeps

theorem State.spdm_keeps (s : State) (via : Transport) (code : Nat) (p1 : Nat) (p2 : Nat) (body : List Byte) (h : s0.Keeps s) :
    s0.Keeps (State.spdm s via code p1 p2 body) := by
  unfold State.spdm
  try dsimp only
  repeat' first
    | with_reducible assumption | split | with_reducible apply State.spdmSend_keeps | with_reducible apply State.headland_keeps

theorem State.spdmError_keeps (s : State) (via : Transport) (code : Nat) (data : Nat) (h : s0.Keeps s) :
    s0.Keeps (State.spdmError s via code data) := by
  unfold State.spdmError
  try dsimp only
  repeat' first
    | with_reducible assumption | with_reducible apply State.spdm_keeps

theorem execGetVersion_keeps (via : Transport) (s : State) (h : s0.Keeps s) :
    ∀ t, execGetVersion via s = .next t → s0.Keeps t := by
  intro t ht
  unfold execGetVersion answer at ht
  injection ht with ht
  subst ht
  apply State.settle_keeps _ _ h
  try dsimp only
  repeat' first
    | with_reducible assumption | with_reducible apply State.spdm_keeps

theorem execGetCapabilities_keeps (via : Transport) (s : State) (h : s0.Keeps s) :
    ∀ t, execGetCapabilities via s = .next t → s0.Keeps t := by
  intro t ht
  unfold execGetCapabilities answer at ht
  injection ht with ht
  subst ht
  apply State.settle_keeps _ _ h
  try dsimp only
  repeat' first
    | with_reducible assumption | with_reducible apply State.spdm_keeps

theorem execNegotiateAlgorithms_keeps (via : Transport) (body : List Byte) (s : State) (h : s0.Keeps s) :
    ∀ t, execNegotiateAlgorithms via body s = .next t → s0.Keeps t := by
  intro t ht
  unfold execNegotiateAlgorithms answer at ht
  injection ht with ht
  subst ht
  apply State.settle_keeps _ _ h
  try dsimp only
  repeat' first
    | with_reducible assumption | with_reducible apply State.spdm_keeps

theorem execGetDigests_keeps (via : Transport) (s : State) (h : s0.Keeps s) :
    ∀ t, execGetDigests via s = .next t → s0.Keeps t := by
  intro t ht
  unfold execGetDigests answer at ht
  injection ht with ht
  subst ht
  apply State.settle_keeps _ _ h
  try dsimp only
  repeat' first
    | with_reducible assumption | with_reducible apply State.spdm_keeps

theorem execGetCertificate_keeps (via : Transport) (slot : Nat) (offset : Nat) (length : Nat) (s : State) (h : s0.Keeps s) :
    ∀ t, execGetCertificate via slot offset length s = .next t → s0.Keeps t := by
  intro t ht
  unfold execGetCertificate answer at ht
  injection ht with ht
  subst ht
  apply State.settle_keeps _ _ h
  try dsimp only
  repeat' first
    | with_reducible assumption | split | with_reducible apply State.spdmError_keeps | with_reducible apply State.spdm_keeps

theorem execChallenge_keeps (via : Transport) (slot : Nat) (nonce : List Byte) (s : State) (h : s0.Keeps s) :
    ∀ t, execChallenge via slot nonce s = .next t → s0.Keeps t := by
  intro t ht
  unfold execChallenge answer at ht
  injection ht with ht
  subst ht
  apply State.settle_keeps _ _ h
  try dsimp only
  repeat' first
    | with_reducible assumption | split | with_reducible apply State.spdmError_keeps | with_reducible apply State.spdm_keeps
    | with_reducible apply State.fresh_keeps

theorem execGetMeasurements_keeps (via : Transport) (index : Nat) (signed : Bool) (nonce : List Byte) (s : State) (h : s0.Keeps s) :
    ∀ t, execGetMeasurements via index signed nonce s = .next t → s0.Keeps t := by
  intro t ht
  unfold execGetMeasurements answer at ht
  injection ht with ht
  subst ht
  apply State.settle_keeps _ _ h
  try dsimp only
  repeat' first
    | with_reducible assumption | split | with_reducible apply State.spdmError_keeps | with_reducible apply State.spdm_keeps
    | with_reducible apply State.fresh_keeps

theorem State.setSession_keeps (s : State) (n : Nat) (x : Session) (h : s0.Keeps s) :
    s0.Keeps (State.setSession s n x) :=
  h

theorem State.dropSession_keeps (s : State) (n : Nat) (h : s0.Keeps s) :
    s0.Keeps (State.dropSession s n) :=
  h

theorem execKeyExchange_keeps (via : Transport) (body : List Byte) (s : State) (h : s0.Keeps s) :
    ∀ t, execKeyExchange via body s = .next t → s0.Keeps t := by
  intro t ht
  unfold execKeyExchange answer at ht
  injection ht with ht
  subst ht
  apply State.settle_keeps _ _ h
  try dsimp only
  repeat' first
    | with_reducible assumption
    | (split <;> (rename_i heq; simp only [Prod.ext_iff] at heq; first | obtain ⟨rfl, rfl, rfl, rfl⟩ := heq | obtain ⟨rfl, rfl, rfl⟩ := heq | obtain ⟨rfl, rfl⟩ := heq | obtain ⟨_, rfl⟩ := heq | obtain ⟨_, _, rfl⟩ := heq))
    | split | with_reducible apply State.spdmError_keeps | with_reducible apply State.setSession_keeps
    | with_reducible apply State.fresh_keeps | with_reducible apply State.spdm_keeps

theorem execFinish_keeps (session : Nat) (ownerRoot : Option (List Byte)) (verified : Bool) (s : State) (h : s0.Keeps s) :
    ∀ t, execFinish session ownerRoot verified s = .next t → s0.Keeps t := by
  intro t ht
  unfold execFinish answer at ht
  injection ht with ht
  subst ht
  apply State.settle_keeps _ _ h
  try dsimp only
  repeat' first
    | with_reducible assumption
    | (split <;> (rename_i heq; simp only [Prod.ext_iff] at heq; first | obtain ⟨rfl, rfl, rfl, rfl⟩ := heq | obtain ⟨rfl, rfl, rfl⟩ := heq | obtain ⟨rfl, rfl⟩ := heq | obtain ⟨_, rfl⟩ := heq | obtain ⟨_, _, rfl⟩ := heq))
    | split | with_reducible apply State.spdmError_keeps | with_reducible apply State.dropSession_keeps
    | with_reducible apply State.spdm_keeps | with_reducible apply State.setSession_keeps

theorem State.inSession_keeps (s : State) (n : Nat) (act : Session → State) (h : s0.Keeps s) (hact : ∀ x, s0.Keeps (act x)) :
    s0.Keeps (State.inSession s n act) := by
  unfold State.inSession
  try dsimp only
  repeat' first
    | with_reducible assumption
    | (split <;> (rename_i heq; simp only [Prod.ext_iff] at heq; first | obtain ⟨rfl, rfl, rfl, rfl⟩ := heq | obtain ⟨rfl, rfl, rfl⟩ := heq | obtain ⟨rfl, rfl⟩ := heq | obtain ⟨_, rfl⟩ := heq | obtain ⟨_, _, rfl⟩ := heq))
    | split | with_reducible apply hact | (intro; try dsimp only)

theorem execHeartbeat_keeps (session : Nat) (s : State) (h : s0.Keeps s) :
    ∀ t, execHeartbeat session s = .next t → s0.Keeps t := by
  intro t ht
  unfold execHeartbeat answer at ht
  injection ht with ht
  subst ht
  apply State.settle_keeps _ _ h
  try dsimp only
  repeat' first
    | with_reducible assumption | with_reducible apply State.inSession_keeps | with_reducible apply State.spdm_keeps
    | (intro; try dsimp only)

theorem execKeyUpdate_keeps (session : Nat) (operation : Nat) (s : State) (h : s0.Keeps s) :
    ∀ t, execKeyUpdate session operation s = .next t → s0.Keeps t := by
  intro t ht
  unfold execKeyUpdate answer at ht
  injection ht with ht
  subst ht
  apply State.settle_keeps _ _ h
  try dsimp only
  repeat' first
    | with_reducible assumption | split | with_reducible apply State.inSession_keeps | with_reducible apply State.spdm_keeps
    | with_reducible apply State.setSession_keeps | with_reducible apply State.fresh_keeps
    | with_reducible apply State.spdmError_keeps | (intro; try dsimp only)

theorem execEndSession_keeps (session : Nat) (s : State) (h : s0.Keeps s) :
    ∀ t, execEndSession session s = .next t → s0.Keeps t := by
  intro t ht
  unfold execEndSession answer at ht
  injection ht with ht
  subst ht
  apply State.settle_keeps _ _ h
  try dsimp only
  repeat' first
    | with_reducible assumption | with_reducible apply State.inSession_keeps | with_reducible apply State.spdm_keeps
    | with_reducible apply State.dropSession_keeps | (intro; try dsimp only)

theorem execChunkSend_keeps (via : Transport) (handle : Nat) (number : Nat) (last : Bool) (total : Nat) (bytes : List Byte) (s : State) (h : s0.Keeps s) :
    ∀ t, execChunkSend via handle number last total bytes s = .next t → s0.Keeps t := by
  intro t ht
  unfold execChunkSend answer at ht
  injection ht with ht
  subst ht
  apply State.settle_keeps _ _ h
  try dsimp only
  repeat' first
    | with_reducible assumption
    | (split <;> (rename_i heq; simp only [Prod.ext_iff] at heq; first | obtain ⟨rfl, rfl, rfl, rfl⟩ := heq | obtain ⟨rfl, rfl, rfl⟩ := heq | obtain ⟨rfl, rfl⟩ := heq | obtain ⟨_, rfl⟩ := heq | obtain ⟨_, _, rfl⟩ := heq))
    | split | with_reducible apply State.spdmError_keeps | with_reducible apply State.spdm_keeps

theorem execChunkGet_keeps (via : Transport) (handle : Nat) (number : Nat) (s : State) (h : s0.Keeps s) :
    ∀ t, execChunkGet via handle number s = .next t → s0.Keeps t := by
  intro t ht
  unfold execChunkGet answer at ht
  injection ht with ht
  subst ht
  apply State.settle_keeps _ _ h
  try dsimp only
  repeat' first
    | with_reducible assumption
    | (split <;> (rename_i heq; simp only [Prod.ext_iff] at heq; first | obtain ⟨rfl, rfl, rfl, rfl⟩ := heq | obtain ⟨rfl, rfl, rfl⟩ := heq | obtain ⟨rfl, rfl⟩ := heq | obtain ⟨_, rfl⟩ := heq | obtain ⟨_, _, rfl⟩ := heq))
    | split | with_reducible apply State.spdmError_keeps | with_reducible apply State.reply_keeps

theorem execVendorDefinedRequest_keeps (session : Option Nat) (protocol : Nat) (_body : List Byte) (s : State) (h : s0.Keeps s) :
    ∀ t, execVendorDefinedRequest session protocol _body s = .next t → s0.Keeps t := by
  intro t ht
  unfold execVendorDefinedRequest answer at ht
  injection ht with ht
  subst ht
  apply State.settle_keeps _ _ h
  try dsimp only
  repeat' first
    | with_reducible assumption
    | (split <;> (rename_i heq; simp only [Prod.ext_iff] at heq; first | obtain ⟨rfl, rfl, rfl, rfl⟩ := heq | obtain ⟨rfl, rfl, rfl⟩ := heq | obtain ⟨rfl, rfl⟩ := heq | obtain ⟨_, rfl⟩ := heq | obtain ⟨_, _, rfl⟩ := heq))
    | split | with_reducible apply State.spdmError_keeps

theorem execSpdmUnsupportedRequest_keeps (via : Transport) (code : Nat) (s : State) (h : s0.Keeps s) :
    ∀ t, execSpdmUnsupportedRequest via code s = .next t → s0.Keeps t := by
  intro t ht
  unfold execSpdmUnsupportedRequest answer at ht
  injection ht with ht
  subst ht
  apply State.settle_keeps _ _ h
  try dsimp only
  repeat' first
    | with_reducible assumption | with_reducible apply State.spdmError_keeps

theorem execDoeDiscovery_keeps (index : Nat) (s : State) (h : s0.Keeps s) :
    ∀ t, execDoeDiscovery index s = .next t → s0.Keeps t := by
  intro t ht
  unfold execDoeDiscovery answer at ht
  injection ht with ht
  subst ht
  apply State.settle_keeps _ _ h
  try dsimp only
  repeat' first
    | with_reducible assumption | split | with_reducible apply State.emit_keeps

end Sys2Proof.Machine
end

