-- ==== Sys2Proof/Laws/Map.lean ====
section
/-!
SUPPORT. The sparse tables: what an entry reads as after a table is changed.
-/
namespace Sys2Proof

variable {κ α : Type} [DecidableEq κ]

@[simp] theorem Map.get_nil (d : α) (k : κ) : Map.get ([] : Map κ α) d k = d := rfl
@[simp] theorem Map.find_nil (k : κ) : Map.find ([] : Map κ α) k = none := rfl

theorem Map.get_put (m : Map κ α) (d : α) (k k' : κ) (a : α) : (m.put k a).get d k' = if k = k' then a else m.get d k' := by
  induction m with
  | nil => simp [Map.put, Map.get]
  | cons p rest ih =>
    obtain ⟨k0, b⟩ := p
    simp only [Map.put]
    split
    · subst_vars; simp only [Map.get]; split <;> rfl
    · simp only [Map.get, ih]
      split
      · split
        · subst_vars; contradiction
        · rfl
      · rfl

@[simp] theorem Map.get_put_same (m : Map κ α) (d : α) (k : κ) (a : α) : (m.put k a).get d k = a := by simp [Map.get_put]

theorem Map.get_put_other (m : Map κ α) (d : α) {k k' : κ} (a : α) (h : k ≠ k') : (m.put k a).get d k' = m.get d k' := by
  simp [Map.get_put, h]

theorem Map.find_put (m : Map κ α) (k k' : κ) (a : α) : (m.put k a).find k' = if k = k' then some a else m.find k' := by
  induction m with
  | nil => simp [Map.put, Map.find]
  | cons p rest ih =>
    obtain ⟨k0, b⟩ := p
    simp only [Map.put]
    split
    · subst_vars; simp only [Map.find]; split <;> rfl
    · simp only [Map.find, ih]
      split
      · split
        · subst_vars; contradiction
        · rfl
      · rfl

@[simp] theorem Map.find_put_same (m : Map κ α) (k : κ) (a : α) : (m.put k a).find k = some a := by simp [Map.find_put]

theorem Map.find_put_other (m : Map κ α) {k k' : κ} (a : α) (h : k ≠ k') : (m.put k a).find k' = m.find k' := by
  simp [Map.find_put, h]

theorem Map.find_del (m : Map κ α) (k k' : κ) : (m.del k).find k' = if k = k' then none else m.find k' := by
  induction m with
  | nil => simp [Map.del, Map.find]
  | cons p rest ih =>
    obtain ⟨k0, b⟩ := p
    simp only [Map.del]
    split
    · subst_vars; rw [ih]; split
      · rfl
      · rename_i h; simp [Map.find, h]
    · simp only [Map.find, ih]
      split
      · split
        · subst_vars; contradiction
        · rfl
      · rfl

theorem Map.get_map (m : Map κ α) (d : α) (k : κ) (f : α → α) (hd : f d = d) :
    Map.get (m.map (fun p => (p.1, f p.2))) d k = f (m.get d k) := by
  induction m with
  | nil => simp [Map.get, hd]
  | cons p rest ih => simp only [List.map, Map.get]; split <;> simp_all

end Sys2Proof
end

