-- ==== Sys2Proof/Laws/Peek.lean ====
section
/-!
SUPPORT. What a byte reads as through the Granary: lines come and go without changing it, a write changes the bytes it stores.
-/
namespace Sys2Proof.Machine

/-- No unit is out of service. -/
abbrev State.UnitsIn (s : State) : Prop := ∀ u, (s.unit u).st ≠ .out

theorem State.peek_congr {s t : State} (h : t.mem = s.mem) (x : Nat) : t.peek x = s.peek x := by
  unfold State.peek State.resident; rw [h]

theorem cellGet_foldr {m : List Host.Cell} (h : Memory.wf m = true) (d : List Host.Cell) (x : Nat) :
    cellGet (d.foldr (fun c m => cellPut m c.1 c.2) m) x = (dirtyGet d x).getD (cellGet m x) := by
  induction d with
  | nil => rfl
  | cons c rest ih =>
    obtain ⟨b, v⟩ := c
    simp only [List.foldr, dirtyGet]
    by_cases hb : b = x
    · subst hb; simp [cellGet_put_same (foldr_put_wf rest h)]
    · rw [cellGet_put_other (foldr_put_wf rest h) v (fun e => hb e.symm), ih]; simp [hb]

theorem dirtyGet_none {d : List Host.Cell} {x : Nat} (h : ∀ c ∈ d, c.1 ≠ x) : dirtyGet d x = none := by
  induction d with
  | nil => rfl
  | cons c rest ih =>
    obtain ⟨b, v⟩ := c
    have hb : b ≠ x := h (b, v) (by simp)
    simp only [dirtyGet, hb, if_false]
    exact ih (fun c hc => h c (by simp [hc]))

theorem dirtyGet_append (d e : List Host.Cell) (x : Nat) : dirtyGet (d ++ e) x = (dirtyGet d x).or (dirtyGet e x) := by
  induction d with
  | nil => rfl
  | cons c rest ih => obtain ⟨b, v⟩ := c; simp only [List.cons_append, dirtyGet]; split <;> simp_all

theorem dirtyGet_filter {d : List Host.Cell} {x : Nat} (p : Host.Cell → Bool) (h : ∀ v, p (x, v) = true) :
    dirtyGet (d.filter p) x = dirtyGet d x := by
  induction d with
  | nil => rfl
  | cons c rest ih =>
    obtain ⟨b, v⟩ := c
    rw [List.filter_cons]
    by_cases hb : b = x
    · subst hb; simp [h v, dirtyGet]
    · split <;> simp [dirtyGet, hb, ih]

/-- The line of a number is resident where it is in the Granary, lines being there once. -/
theorem TiersOk.find_line {cells : List Host.Cell} {lines : List GLine} (h : TiersOk cells lines) {g : GLine} (hg : g ∈ lines) :
    lines.find? (fun x => x.line == g.line) = some g := by
  have : ∀ ls : List GLine, (ls.map GLine.line).Nodup → g ∈ ls → ls.find? (fun x => x.line == g.line) = some g := by
    intro ls
    induction ls with
    | nil => intro _ hg; cases hg
    | cons a rest ih =>
      intro hn hg
      simp only [List.map_cons, List.nodup_cons, List.mem_map, not_exists, not_and] at hn
      rcases List.mem_cons.mp hg with rfl | hr
      · simp
      · have : a.line ≠ g.line := fun e => hn.1 g hr e.symm
        simp [this, ih hn.2 hr]
  exact this lines h.once hg

/-- Two Granaries with the same lines, whatever their order, read alike. -/
theorem peek_of_lines {s t : State} (ht : t.mem.Ok) (hc : t.mem.cells = s.mem.cells)
    (h1 : ∀ g ∈ s.mem.lines, ∃ g' ∈ t.mem.lines, g'.line = g.line ∧ g'.dirty = g.dirty)
    (h2 : ∀ g ∈ t.mem.lines, (∃ g' ∈ s.mem.lines, g'.line = g.line) ∨ g.dirty = []) (x : Nat) : t.peek x = s.peek x := by
  unfold State.peek
  cases hs : s.resident (x / 256) with
  | some g =>
    obtain ⟨hg, hl⟩ := State.resident_mem hs
    obtain ⟨g', hg', hl', hd'⟩ := h1 g hg
    have : t.resident (x / 256) = some g' := by
      have := ht.find_line hg'
      rw [hl', hl] at this
      exact this
    simp [this, hc, hd']
  | none =>
    cases htr : t.resident (x / 256) with
    | none => rw [hc]
    | some g' =>
      obtain ⟨hg', hl'⟩ := State.resident_mem htr
      rcases h2 g' hg' with ⟨g, hg, hl⟩ | hd
      · exact absurd (hl.trans hl') (State.resident_none hs g hg)
      · simp [hd, dirtyGet, hc]

@[simp] theorem State.clearPoison_st (s : State) (l u : Nat) : ((s.clearPoison l).unit u).st = (s.unit u).st := by
  have h := congrArg MemUnit.st (Map.get_map s.mem.units ({} : MemUnit) u
    (fun p : MemUnit => { p with poisonTable := p.poisonTable.filter (· != l) }) rfl)
  exact h

@[simp] theorem State.writeback_st (s : State) (g : GLine) (u : Nat) : ((s.writeback g).unit u).st = (s.unit u).st := by
  unfold State.writeback
  split
  · rfl
  · split
    · rfl
    · exact State.clearPoison_st { s with mem := { s.mem with cells := g.dirty.foldr (fun c m => cellPut m c.1 c.2) s.mem.cells } }
        g.line u

theorem State.writeback_peek (s : State) (g : GLine) (h : s.mem.Ok) (hg : g ∈ s.mem.lines) (hu : s.UnitsIn) (x : Nat) :
    (s.writeback g).peek x = s.peek x := by
  unfold State.writeback
  split
  · rfl
  · split
    · rename_i ho; exact absurd ho (hu _)
    · show (match (s.mem.lines.find? (fun g => g.line == x / 256)) with
        | none => cellGet (g.dirty.foldr (fun c m => cellPut m c.1 c.2) s.mem.cells) x
        | some g' => (dirtyGet g'.dirty x).getD (cellGet (g.dirty.foldr (fun c m => cellPut m c.1 c.2) s.mem.cells) x)) = s.peek x
      unfold State.peek State.resident
      rw [cellGet_foldr h.cells]
      cases hf : s.mem.lines.find? (fun g => g.line == x / 256) with
      | none =>
        have : dirtyGet g.dirty x = none := dirtyGet_none (fun c hc he => by
          have h1 := h.inside g hg c hc
          have h2 := List.find?_eq_none.mp hf g hg
          rw [he] at h1
          simp [h1] at h2)
        simp [this]
      | some g' =>
        have hg' := List.mem_of_find?_eq_some hf
        have hl' : g'.line = x / 256 := by simpa using List.find?_some hf
        cases hd : dirtyGet g'.dirty x with
        | some v => simp [hd]
        | none =>
          have : dirtyGet g.dirty x = none := by
            by_cases he : g.line = g'.line
            · have h1 := h.find_line hg
              have h2 := h.find_line hg'
              rw [he, h2] at h1
              injection h1 with h1
              rw [← h1]; exact hd
            · exact dirtyGet_none (fun c hc hx => by
                have h1 := h.inside g hg c hc
                rw [hx] at h1
                exact he (h1.symm.trans hl'.symm))
          simp [this]

theorem State.evict_peek (s : State) (g : GLine) (h : s.mem.Ok) (hg : g ∈ s.mem.lines) (hu : s.UnitsIn) (x : Nat) :
    (s.evict g).peek x = s.peek x := by
  have hk := State.writeback_keeps s g (State.Keeps.start h)
  rw [← State.writeback_peek s g h hg hu x]
  unfold State.evict State.peek
  by_cases hx : x / 256 = g.line
  · have h1 : ((s.writeback g).dropLine g.line).resident (x / 256) = none := by
      unfold State.resident
      rw [State.dropLine_lines, List.find?_eq_none]
      intro y hy
      have := (List.mem_filter.mp hy).2
      rw [hx]
      simpa using this
    have h2 : (s.writeback g).resident (x / 256) = some g := by
      unfold State.resident
      rw [State.writeback_lines, hx]
      exact h.find_line hg
    rw [h1, h2]
    have hw : (s.writeback g).mem.cells = if g.dirty = [] then s.mem.cells else
        g.dirty.foldr (fun c m => cellPut m c.1 c.2) s.mem.cells := by
      unfold State.writeback
      split
      · rfl
      · split
        · rename_i ho; exact absurd ho (hu _)
        · rfl
    show cellGet (s.writeback g).mem.cells x = (dirtyGet g.dirty x).getD (cellGet (s.writeback g).mem.cells x)
    rw [hw]
    split
    · rename_i hd; simp [hd, dirtyGet]
    · rw [cellGet_foldr h.cells]
      cases dirtyGet g.dirty x <;> rfl
  · have h1 : ((s.writeback g).dropLine g.line).resident (x / 256) = (s.writeback g).resident (x / 256) := by
      unfold State.resident
      rw [State.dropLine_lines, List.find?_filter]
      congr 1
      funext y
      by_cases hy : y.line = x / 256
      · simp [hy, hx]
      · simp [hy]
    rw [h1]
    rfl

theorem State.evict_units (s : State) (g : GLine) (hu : s.UnitsIn) : (s.evict g).UnitsIn := by
  intro u
  show ((s.writeback g).unit u).st ≠ .out
  rw [State.writeback_st]
  exact hu u

/-- Making room, allocating, hitting: the lines of a Granary come and go without a byte changing. -/
theorem State.makeRoom_peek (s : State) (l : Nat) (cls : LineClass) (h : s.mem.Ok) (hu : s.UnitsIn) :
    (∀ x, (s.makeRoom l cls).peek x = s.peek x) ∧ (s.makeRoom l cls).UnitsIn := by
  have hv : ∀ (ls : List GLine) (g : GLine), s.victim ls = some g → g ∈ ls := by
    intro ls g hg
    unfold State.victim at hg
    dsimp only at hg
    have hsub : ∀ y, y ∈ (if ls.filter (fun g => g.dirty = [] || (s.unit (unitOf g.line)).st != .out) = [] then ls
        else ls.filter (fun g => g.dirty = [] || (s.unit (unitOf g.line)).st != .out)) → y ∈ ls := by
      intro y hy
      split at hy
      · exact hy
      · exact (List.mem_filter.mp hy).1
    apply hsub
    split at hg
    · rename_i hf; cases hg; exact List.mem_of_find?_eq_some hf
    · split at hg
      · rename_i hf; cases hg; exact List.mem_of_find?_eq_some hf
      · exact List.mem_of_mem_head? hg
  unfold State.makeRoom
  dsimp only
  split
  · split
    · rename_i g hg
      have hm : g ∈ s.mem.lines := (List.mem_filter.mp (List.mem_filter.mp (List.mem_of_mem_head? hg)).1).1
      exact ⟨State.evict_peek s g h hm hu, State.evict_units s g hu⟩
    · exact ⟨fun _ => rfl, hu⟩
  · split
    · split
      · rename_i g hg
        have hm : g ∈ s.mem.lines := (List.mem_filter.mp (hv _ _ hg)).1
        exact ⟨State.evict_peek s g h hm hu, State.evict_units s g hu⟩
      · exact ⟨fun _ => rfl, hu⟩
    · exact ⟨fun _ => rfl, hu⟩

theorem State.allocate_peek (s : State) (l hint : Nat) (mark : Option Nat) (h : s.mem.Ok) (hn : s.resident l = none)
    (hu : s.UnitsIn) : (∀ x, (s.allocate l hint mark).peek x = s.peek x) ∧ (s.allocate l hint mark).UnitsIn := by
  have hr := State.makeRoom_peek s l ((s.hintClass hint).getD .normal) h hu
  have hk := State.makeRoom_keeps s l ((s.hintClass hint).getD .normal) (State.Keeps.start h)
  have ha := State.allocate_keeps s l hint mark (State.Keeps.start h) hn
  refine ⟨fun x => ?_, hr.2⟩
  rw [← hr.1 x]
  refine peek_of_lines (s := s.makeRoom l ((s.hintClass hint).getD .normal)) ha.tiers rfl ?_ ?_ x
  · intro g hg
    refine ⟨g, ?_, rfl, rfl⟩
    show g ∈ placeLine _ _
    unfold placeLine
    split <;> simp [hg]
  · intro g hg
    have hg : g ∈ placeLine _ (s.makeRoom l ((s.hintClass hint).getD .normal)).mem.lines := hg
    unfold placeLine at hg
    split at hg
    · rcases List.mem_cons.mp hg with rfl | hg
      · right; rfl
      · left; exact ⟨g, hg, rfl⟩
    · rcases List.mem_append.mp hg with hg | hg
      · left; exact ⟨g, hg, rfl⟩
      · right; rw [List.mem_singleton.mp hg]

theorem State.hit_peek (s : State) (g : GLine) (hint : Nat) (who : Option Nat) (w : Bool) (h : s.mem.Ok) (hg : g ∈ s.mem.lines)
    (hu : s.UnitsIn) : (∀ x, (s.hit g hint who w).peek x = s.peek x) ∧ (s.hit g hint who w).UnitsIn := by
  have hk := State.hit_keeps s g hint who w (State.Keeps.start h) hg
  refine ⟨fun x => ?_, hu⟩
  refine peek_of_lines (s := s) hk.tiers rfl ?_ ?_ x
  · intro y hy
    by_cases he : y.line = g.line
    · have h1 := h.find_line hy
      have h2 := h.find_line hg
      rw [he, h2] at h1
      injection h1 with h1
      subst h1
      unfold State.hit
      dsimp only
      split
      · exact ⟨_, List.mem_cons_self, rfl, rfl⟩
      · exact ⟨_, List.mem_append_right _ List.mem_cons_self, rfl, rfl⟩
    · refine ⟨y, ?_, rfl, rfl⟩
      unfold State.hit
      dsimp only
      split <;> simp [hy, he]
  · intro y hy
    left
    unfold State.hit at hy
    dsimp only at hy
    split at hy
    · rcases List.mem_cons.mp hy with rfl | hy
      · exact ⟨g, hg, rfl⟩
      · exact ⟨y, (List.mem_filter.mp hy).1, rfl⟩
    · rcases List.mem_append.mp hy with hy | hy
      · exact ⟨y, (List.mem_filter.mp hy).1, rfl⟩
      · rw [List.mem_singleton.mp hy]; exact ⟨g, hg, rfl⟩

/-- A read as far as the Granary goes changes no byte. -/
theorem State.touchRead_peek (s : State) (l hint : Nat) (who : Option Nat) (h : s.mem.Ok) (hu : s.UnitsIn) :
    (∀ x, (s.touchRead l hint who).peek x = s.peek x) ∧ (s.touchRead l hint who).UnitsIn := by
  unfold State.touchRead
  split
  · rename_i g hg
    exact State.hit_peek (s.tick1 grnHit) g hint who false h (State.resident_mem hg).1 hu
  · rename_i hn
    exact State.allocate_peek (s.tick1 grnMiss) l hint _ h hn hu

end Sys2Proof.Machine
end

