-- ==== Sys2Proof/WellFormed.lean ====
section
/-!
DEFINITION. Which commands are well-formed: each number names a unit that the device has (spec/00 R2, spec/01 R28), each message
fits its carrier. The meanings do not read these checks (notes/assumptions 2).
-/
namespace Sys2Proof

/-- The unit numbers and addresses a command names, each with the count of the units of its kind. -/
def Instr.bounds : Instr → List (Nat × Nat)
  | .hifDbSqTail fn page _ _ _ => [(fn, 65), (page, 65536)]
  | .hifDbCqHead fn page _ _ _ => [(fn, 65), (page, 65536)]
  | .enable fn page _ => [(fn, 65), (page, 65536)]
  | .resume fn page _ => [(fn, 65), (page, 65536)]
  | .drain fn page _ => [(fn, 65), (page, 65536)]
  | .reset fn page _ => [(fn, 65), (page, 65536)]
  | .functionLevelReset fn => [(fn, 65)]
  | .pcieHotReset => []
  | .ringResetComplete ring => [(ring, 65536)]
  | .fetchDescriptors => []
  | .fetchAllowanceTick => []
  | .descriptorArrival ring _ => [(ring, 65536)]
  | .descriptorFetchFault ring _ => [(ring, 65536)]
  | .admitStage slot => [(slot, 2048)]
  | .chainBlockCheck slot => [(slot, 2048)]
  | .stageStart slot => [(slot, 2048)]
  | .stageComplete slot => [(slot, 2048)]
  | .cqEntryWrite ring => [(ring, 65536)]
  | .cqWriteFault ring => [(ring, 65536)]
  | .irqDelayExpiry ring => [(ring, 65536)]
  | .pcieConfigRequest fn _ => [(fn, 65)]
  | .bar4Read fn offset _ _ => [(fn, 65), (offset, 2 ^ 48)]
  | .bar4Write fn offset _ _ => [(fn, 65), (offset, 2 ^ 48)]
  | .registerWrite fn _ page offset _ _ => [(fn, 65), (page, 2 ^ 36), (offset, 2 ^ 12)]
  | .registerLowWordRead fn access => [(fn, 65), (access.offset, 2 ^ 48)]
  | .hifFnTableWrite fn entry _ _ _ => [(fn, 65), (entry, 65)]
  | .dspReprio _ _ => []
  | .hifVfReprio fn _ _ _ => [(fn, 65)]
  | .vidKeyReq _ _ => []
  | .hifVfKeyReq fn _ _ _ => [(fn, 65)]
  | .memUeAckWrite _ _ => []
  | .regCtrlWrite descriptor _ _ => [(descriptor, 256)]
  | .placeTask => []
  | .taskStart core => [(core, 96)]
  | .arrayPassComplete core => [(core, 96)]
  | .taskPassesEnd core => [(core, 96)]
  | .harrowRowEnd core => [(core, 96)]
  | .spillComplete core => [(core, 96)]
  | .restoreComplete core _ => [(core, 96)]
  | .taskDrainStart core => [(core, 96)]
  | .taskDrainEnd core => [(core, 96)]
  | .arrayClockStop core array => [(core, 96), (array, 4)]
  | .gleanRequest core => [(core, 96)]
  | .gleanServe victim => [(victim, 96)]
  | .gleanTransferComplete core => [(core, 96)]
  | .gleanExclusionExpiry core victim => [(core, 96), (victim, 96)]
  | .fenceComplete slot => [(slot, 2048)]
  | .barrierArrive slot => [(slot, 2048)]
  | .spillHintRun slot => [(slot, 2048)]
  | .arrivalTimeout slot => [(slot, 2048)]
  | .laneContextTakeover core => [(core, 96)]
  | .kvAppendStart slot => [(slot, 2048)]
  | .kvAppendComplete slot => [(slot, 2048)]
  | .kvReleaseStart slot => [(slot, 2048)]
  | .kvReleaseComplete slot => [(slot, 2048)]
  | .memoryRead _ addr _ _ => [(addr, 2 ^ 48)]
  | .memoryWrite _ addr _ _ => [(addr, 2 ^ 48)]
  | .missFillComplete line _ => [(line, 2 ^ 40)]
  | .atomicRequest _ addr _ _ _ _ => [(addr, 2 ^ 48)]
  | .atomicApplyMc line _ => [(line, 2 ^ 40)]
  | .rowRemapComplete unit => [(unit, 24)]
  | .scrubRead unit _ _ => [(unit, 24)]
  | .memTempRead unit _ => [(unit, 24)]
  | .ceRateTick => []
  | .unitRetrainStart unit _ => [(unit, 24)]
  | .unitRetrainAttemptEnd unit _ => [(unit, 24)]
  | .linkFrameRx port _ _ _ => [(port, 32)]
  | .dataFlitWrite port _ => [(port, 32)]
  | .dataFlitAtomic port _ => [(port, 32)]
  | .dataFlitReadData port _ => [(port, 32)]
  | .dataFlitReadPoison port _ => [(port, 32)]
  | .controlFlitRx port _ => [(port, 32)]
  | .controlReplayTimeout peer => [(peer, 1024)]
  | .creditReturn port => [(port, 32)]
  | .hello port src _ => [(port, 32), (src, 1024)]
  | .leave src => [(src, 1024)]
  | .time src _ => [(src, 1024)]
  | .winReq src _ => [(src, 1024)]
  | .winGrant src _ => [(src, 1024)]
  | .winDeny src _ => [(src, 1024)]
  | .winEnd src _ => [(src, 1024)]
  | .winDone src _ => [(src, 1024)]
  | .winDoneTimeout window => [(window, 4096)]
  | .readReq src _ => [(src, 1024)]
  | .readEnd src _ => [(src, 1024)]
  | .coll src _ => [(src, 1024)]
  | .weloc src _ => [(src, 1024)]
  | .key port _ => [(port, 32)]
  | .routeDrop src _ => [(src, 1024)]
  | .helloPeriodTimer => []
  | .timeExchangeTimer => []
  | .peerTimeout peer => [(peer, 1024)]
  | .retrainGraceExpiry peer => [(peer, 1024)]
  | .peerAbsentTimeout peer => [(peer, 1024)]
  | .portCalibrateEnd port _ => [(port, 32)]
  | .portAlignEnd port _ => [(port, 32)]
  | .portVerifyEnd port _ => [(port, 32)]
  | .portAuthEnd port _ => [(port, 32)]
  | .portTrainTimeout port => [(port, 32)]
  | .portRetryTimer port => [(port, 32)]
  | .portRetrainEntry port _ => [(port, 32)]
  | .microringRecal port => [(port, 32)]
  | .microringRecalEnd port => [(port, 32)]
  | .laserModuleInsert module => [(module, 4)]
  | .laserModuleRemove module => [(module, 4)]
  | .laserPresenceTimer module => [(module, 4)]
  | .copyStart slot => [(slot, 2048)]
  | .copyPieceComplete slot => [(slot, 2048)]
  | .collectiveStart slot => [(slot, 2048)]
  | .collectiveJoinTimeout slot => [(slot, 2048)]
  | .collectiveBlockReduce slot _ => [(slot, 2048)]
  | .collectivePartialTimeout slot => [(slot, 2048)]
  | .collectiveComplete slot => [(slot, 2048)]
  | .ingestStart slot => [(slot, 2048)]
  | .liveQueuePoll slot entry => [(slot, 2048), (entry, 4096)]
  | .ingestWaitTimeout slot entry => [(slot, 2048), (entry, 4096)]
  | .ingestEntryComplete slot entry => [(slot, 2048), (entry, 4096)]
  | .ingestComplete slot => [(slot, 2048)]
  | .pyramidStart slot => [(slot, 2048)]
  | .pyramidLevelComplete slot => [(slot, 2048)]
  | .vdecOpen slot => [(slot, 2048)]
  | .vdecDecode slot => [(slot, 2048)]
  | .vdecRelease slot => [(slot, 2048)]
  | .vdecClose slot => [(slot, 2048)]
  | .decodePictureOutput slot => [(slot, 2048)]
  | .vidPoolWaitTimeout slot => [(slot, 2048)]
  | .vencOpen slot => [(slot, 2048)]
  | .vencEncode slot => [(slot, 2048)]
  | .vencClose slot => [(slot, 2048)]
  | .encodeUnitWritten slot => [(slot, 2048)]
  | .paceStart slot => [(slot, 2048)]
  | .paceCommit slot => [(slot, 2048)]
  | .paceStop slot => [(slot, 2048)]
  | .paceLatch channel => [(channel, 16)]
  | .paceCopyComplete channel => [(channel, 16)]
  | .read _ _ => []
  | .uploadNext _ _ => []
  | .write _ _ => []
  | .writeInit _ _ => []
  | .writeSeg _ _ => []
  | .writeEnd _ _ => []
  | .abort _ _ => []
  | .welocUnknownCmd _ _ => []
  | .welocContextTimeout context => [(context, 8)]
  | .welocDuplicateExpiry _ => []
  | .setEndpointId _ _ _ => []
  | .getEndpointId _ => []
  | .getEndpointUuid _ => []
  | .getMctpVersionSupport _ _ => []
  | .getMessageTypeSupport _ => []
  | .getVendorDefinedMessageSupport _ _ => []
  | .mctpUnsupportedCmd _ _ => []
  | .entdaa bus _ => [(bus, 2)]
  | .setnewda bus _ => [(bus, 2)]
  | .rstdaa bus => [(bus, 2)]
  | .setmwl bus _ => [(bus, 2)]
  | .setmrl bus _ => [(bus, 2)]
  | .i3cPrivateRead bus => [(bus, 2)]
  | .i3cHotJoinTimer bus => [(bus, 2)]
  | .storeCommitStart => []
  | .storeCommitEnd _ => []
  | .storeTokenTick => []
  | .fwSlotEraseComplete slot => [(slot, 2)]
  | .fnImageWrite _ function _ => [(function, 256)]
  | .restoreDefaults _ _ => []
  | .brRestore _ _ => []
  | .brClear _ _ => []
  | .secOwnerClaim _ _ => []
  | .secOwnerRevoke _ _ => []
  | .regionRunWrite _ descriptor _ _ => [(descriptor, 256)]
  | .logCursorWrite _ _ => []
  | .getVersion _ => []
  | .getCapabilities _ => []
  | .negotiateAlgorithms _ _ => []
  | .getDigests _ => []
  | .getCertificate _ slot offset _ => [(slot, 8), (offset, 65536)]
  | .challenge _ slot _ => [(slot, 8)]
  | .getMeasurements _ index _ _ => [(index, 256)]
  | .keyExchange _ _ => []
  | .finish session _ _ => [(session, 4)]
  | .heartbeat session => [(session, 4)]
  | .keyUpdate session _ => [(session, 4)]
  | .endSession session => [(session, 4)]
  | .chunkSend _ _ _ _ _ _ => []
  | .chunkGet _ _ _ => []
  | .vendorDefinedRequest _ _ _ => []
  | .spdmUnsupportedRequest _ _ => []
  | .getTdispVersion session vf => [(session, 4), (vf, 65)]
  | .getTdispCapabilities session vf => [(session, 4), (vf, 65)]
  | .lockInterfaceRequest session vf => [(session, 4), (vf, 65)]
  | .getDeviceInterfaceReport session vf => [(session, 4), (vf, 65)]
  | .getDeviceInterfaceState session vf => [(session, 4), (vf, 65)]
  | .startInterfaceRequest session vf => [(session, 4), (vf, 65)]
  | .stopInterfaceRequest session vf => [(session, 4), (vf, 65)]
  | .tdispUnsupportedRequest session vf _ => [(session, 4), (vf, 65)]
  | .ideKmKeyProg session stream _ _ _ => [(session, 4), (stream, 4)]
  | .ideStreamFail stream => [(stream, 4)]
  | .doeDiscovery index => [(index, 256)]
  | .regionClearComplete descriptor => [(descriptor, 256)]
  | .entropyHealthFail => []
  | .domainClockGate domain => [(domain, 212)]
  | .domainDrainStart domain => [(domain, 212)]
  | .domainDrainComplete domain => [(domain, 212)]
  | .domainPowerOffComplete domain => [(domain, 212)]
  | .gatePacketArrival domain _ => [(domain, 212)]
  | .domainWakeComplete domain => [(domain, 212)]
  | .domainWakeWindow => []
  | .headlandClockIdleStop => []
  | .dvfsTick _ => []
  | .pstateChangeComplete die => [(die, 8)]
  | .avsReadback _ => []
  | .currentLimitTrip => []
  | .currentLimitRelease => []
  | .dieTempSample _ => []
  | .thermalTrip die => [(die, 10)]
  | .supplyWarning rail _ => [(rail, 11)]
  | .supplyWarningRecover => []
  | .supplyResetLevel rail _ => [(rail, 11)]
  | .powerOnReset => []
  | .rstNAssert => []
  | .perstAssert => []
  | .perstDeassert => []
  | .tapResetRelease => []
  | .bringupStepRun step unit => [(step, 24), (unit, 128)]
  | .bringupAttemptEnd step unit _ _ _ => [(step, 24), (unit, 128)]
  | .bringupAttemptTimeout step unit => [(step, 24), (unit, 128)]
  | .controlSramCe _ => []
  | .controlSramUe _ => []
  | .bridgeLossTimeout => []
  | .hostWindowCompletion addr _ _ => [(addr, 2 ^ 48)]
  | .rstNDeassert => []
  | .tapReset => []
  | .bridgeLoss => []
  | .dupDevidExpiry => []

/-- Whether the command's message has the length of its carrier: a flit is 256 bytes (spec/11 R294, R299), a temperature
sample has four readings of each of ten dies (spec/17 R463). -/
def Instr.lengths : Instr → Bool
  | .hifDbSqTail _ _ _ _ _ => true
  | .hifDbCqHead _ _ _ _ _ => true
  | .enable _ _ _ => true
  | .resume _ _ _ => true
  | .drain _ _ _ => true
  | .reset _ _ _ => true
  | .functionLevelReset _ => true
  | .pcieHotReset => true
  | .ringResetComplete _ => true
  | .fetchDescriptors => true
  | .fetchAllowanceTick => true
  | .descriptorArrival _ _ => true
  | .descriptorFetchFault _ _ => true
  | .admitStage _ => true
  | .chainBlockCheck _ => true
  | .stageStart _ => true
  | .stageComplete _ => true
  | .cqEntryWrite _ => true
  | .cqWriteFault _ => true
  | .irqDelayExpiry _ => true
  | .pcieConfigRequest _ _ => true
  | .bar4Read _ _ _ _ => true
  | .bar4Write _ _ _ _ => true
  | .registerWrite _ _ _ _ _ _ => true
  | .registerLowWordRead _ _ => true
  | .hifFnTableWrite _ _ _ _ _ => true
  | .dspReprio _ _ => true
  | .hifVfReprio _ _ _ _ => true
  | .vidKeyReq _ _ => true
  | .hifVfKeyReq _ _ _ _ => true
  | .memUeAckWrite _ _ => true
  | .regCtrlWrite _ _ _ => true
  | .placeTask => true
  | .taskStart _ => true
  | .arrayPassComplete _ => true
  | .taskPassesEnd _ => true
  | .harrowRowEnd _ => true
  | .spillComplete _ => true
  | .restoreComplete _ _ => true
  | .taskDrainStart _ => true
  | .taskDrainEnd _ => true
  | .arrayClockStop _ _ => true
  | .gleanRequest _ => true
  | .gleanServe _ => true
  | .gleanTransferComplete _ => true
  | .gleanExclusionExpiry _ _ => true
  | .fenceComplete _ => true
  | .barrierArrive _ => true
  | .spillHintRun _ => true
  | .arrivalTimeout _ => true
  | .laneContextTakeover _ => true
  | .kvAppendStart _ => true
  | .kvAppendComplete _ => true
  | .kvReleaseStart _ => true
  | .kvReleaseComplete _ => true
  | .memoryRead _ _ _ _ => true
  | .memoryWrite _ _ _ _ => true
  | .missFillComplete _ _ => true
  | .atomicRequest _ _ _ _ _ _ => true
  | .atomicApplyMc _ _ => true
  | .rowRemapComplete _ => true
  | .scrubRead _ _ _ => true
  | .memTempRead _ _ => true
  | .ceRateTick => true
  | .unitRetrainStart _ _ => true
  | .unitRetrainAttemptEnd _ _ => true
  | .linkFrameRx _ _ _ _ => true
  | .dataFlitWrite _ bytes => bytes.length == 256
  | .dataFlitAtomic _ bytes => bytes.length == 256
  | .dataFlitReadData _ bytes => bytes.length == 256
  | .dataFlitReadPoison _ bytes => bytes.length == 256
  | .controlFlitRx _ bytes => bytes.length == 256
  | .controlReplayTimeout _ => true
  | .creditReturn _ => true
  | .hello _ _ _ => true
  | .leave _ => true
  | .time _ _ => true
  | .winReq _ _ => true
  | .winGrant _ _ => true
  | .winDeny _ _ => true
  | .winEnd _ _ => true
  | .winDone _ _ => true
  | .winDoneTimeout _ => true
  | .readReq _ _ => true
  | .readEnd _ _ => true
  | .coll _ _ => true
  | .weloc _ _ => true
  | .key _ _ => true
  | .routeDrop _ _ => true
  | .helloPeriodTimer => true
  | .timeExchangeTimer => true
  | .peerTimeout _ => true
  | .retrainGraceExpiry _ => true
  | .peerAbsentTimeout _ => true
  | .portCalibrateEnd _ _ => true
  | .portAlignEnd _ _ => true
  | .portVerifyEnd _ _ => true
  | .portAuthEnd _ _ => true
  | .portTrainTimeout _ => true
  | .portRetryTimer _ => true
  | .portRetrainEntry _ _ => true
  | .microringRecal _ => true
  | .microringRecalEnd _ => true
  | .laserModuleInsert _ => true
  | .laserModuleRemove _ => true
  | .laserPresenceTimer _ => true
  | .copyStart _ => true
  | .copyPieceComplete _ => true
  | .collectiveStart _ => true
  | .collectiveJoinTimeout _ => true
  | .collectiveBlockReduce _ _ => true
  | .collectivePartialTimeout _ => true
  | .collectiveComplete _ => true
  | .ingestStart _ => true
  | .liveQueuePoll _ _ => true
  | .ingestWaitTimeout _ _ => true
  | .ingestEntryComplete _ _ => true
  | .ingestComplete _ => true
  | .pyramidStart _ => true
  | .pyramidLevelComplete _ => true
  | .vdecOpen _ => true
  | .vdecDecode _ => true
  | .vdecRelease _ => true
  | .vdecClose _ => true
  | .decodePictureOutput _ => true
  | .vidPoolWaitTimeout _ => true
  | .vencOpen _ => true
  | .vencEncode _ => true
  | .vencClose _ => true
  | .encodeUnitWritten _ => true
  | .paceStart _ => true
  | .paceCommit _ => true
  | .paceStop _ => true
  | .paceLatch _ => true
  | .paceCopyComplete _ => true
  | .read _ _ => true
  | .uploadNext _ _ => true
  | .write _ _ => true
  | .writeInit _ _ => true
  | .writeSeg _ _ => true
  | .writeEnd _ _ => true
  | .abort _ _ => true
  | .welocUnknownCmd _ _ => true
  | .welocContextTimeout _ => true
  | .welocDuplicateExpiry _ => true
  | .setEndpointId _ _ _ => true
  | .getEndpointId _ => true
  | .getEndpointUuid _ => true
  | .getMctpVersionSupport _ _ => true
  | .getMessageTypeSupport _ => true
  | .getVendorDefinedMessageSupport _ _ => true
  | .mctpUnsupportedCmd _ _ => true
  | .entdaa _ _ => true
  | .setnewda _ _ => true
  | .rstdaa _ => true
  | .setmwl _ _ => true
  | .setmrl _ _ => true
  | .i3cPrivateRead _ => true
  | .i3cHotJoinTimer _ => true
  | .storeCommitStart => true
  | .storeCommitEnd _ => true
  | .storeTokenTick => true
  | .fwSlotEraseComplete _ => true
  | .fnImageWrite _ _ _ => true
  | .restoreDefaults _ _ => true
  | .brRestore _ _ => true
  | .brClear _ _ => true
  | .secOwnerClaim _ _ => true
  | .secOwnerRevoke _ _ => true
  | .regionRunWrite _ _ _ _ => true
  | .logCursorWrite _ _ => true
  | .getVersion _ => true
  | .getCapabilities _ => true
  | .negotiateAlgorithms _ _ => true
  | .getDigests _ => true
  | .getCertificate _ _ _ _ => true
  | .challenge _ _ _ => true
  | .getMeasurements _ _ _ _ => true
  | .keyExchange _ _ => true
  | .finish _ _ _ => true
  | .heartbeat _ => true
  | .keyUpdate _ _ => true
  | .endSession _ => true
  | .chunkSend _ _ _ _ _ _ => true
  | .chunkGet _ _ _ => true
  | .vendorDefinedRequest _ _ _ => true
  | .spdmUnsupportedRequest _ _ => true
  | .getTdispVersion _ _ => true
  | .getTdispCapabilities _ _ => true
  | .lockInterfaceRequest _ _ => true
  | .getDeviceInterfaceReport _ _ => true
  | .getDeviceInterfaceState _ _ => true
  | .startInterfaceRequest _ _ => true
  | .stopInterfaceRequest _ _ => true
  | .tdispUnsupportedRequest _ _ _ => true
  | .ideKmKeyProg _ _ _ _ _ => true
  | .ideStreamFail _ => true
  | .doeDiscovery _ => true
  | .regionClearComplete _ => true
  | .entropyHealthFail => true
  | .domainClockGate _ => true
  | .domainDrainStart _ => true
  | .domainDrainComplete _ => true
  | .domainPowerOffComplete _ => true
  | .gatePacketArrival _ _ => true
  | .domainWakeComplete _ => true
  | .domainWakeWindow => true
  | .headlandClockIdleStop => true
  | .dvfsTick _ => true
  | .pstateChangeComplete _ => true
  | .avsReadback _ => true
  | .currentLimitTrip => true
  | .currentLimitRelease => true
  | .dieTempSample readings => readings.length == 40
  | .thermalTrip _ => true
  | .supplyWarning _ _ => true
  | .supplyWarningRecover => true
  | .supplyResetLevel _ _ => true
  | .powerOnReset => true
  | .rstNAssert => true
  | .perstAssert => true
  | .perstDeassert => true
  | .tapResetRelease => true
  | .bringupStepRun _ _ => true
  | .bringupAttemptEnd _ _ _ _ _ => true
  | .bringupAttemptTimeout _ _ => true
  | .controlSramCe _ => true
  | .controlSramUe _ => true
  | .bridgeLossTimeout => true
  | .hostWindowCompletion _ _ _ => true
  | .rstNDeassert => true
  | .tapReset => true
  | .bridgeLoss => true
  | .dupDevidExpiry => true

/-- A well-formed command. -/
def Instr.wf (i : Instr) : Bool := i.bounds.all (fun p => decide (p.1 < p.2)) && i.lengths

end Sys2Proof
end

