-- ==== Sys2Proof/Laws/PerInstr.lean ====
section
/-! SUPPORT. Statements made per command. Units: a well-formed command names only units that the device has. -/
namespace Sys2Proof.Laws

theorem Units.ofWf (i : Instr) (h : i.wf = true) : ∀ p ∈ i.bounds, p.1 < p.2 := by
  intro p hp
  unfold Instr.wf at h
  simp only [Bool.and_eq_true, List.all_eq_true, decide_eq_true_eq] at h
  exact h.1 p hp

def Units.Statement (i : Instr) : Prop := i.wf = true → ∀ p ∈ i.bounds, p.1 < p.2

theorem Units.hifDbSqTail (x0 : Nat) (x1 : Nat) (x2 : View) (x3 : Word32) (x4 : Bool) : Units.Statement (.hifDbSqTail x0 x1 x2 x3 x4) := Units.ofWf _
theorem Units.hifDbCqHead (x0 : Nat) (x1 : Nat) (x2 : View) (x3 : Word32) (x4 : Bool) : Units.Statement (.hifDbCqHead x0 x1 x2 x3 x4) := Units.ofWf _
theorem Units.enable (x0 : Nat) (x1 : Nat) (x2 : Bool) : Units.Statement (.enable x0 x1 x2) := Units.ofWf _
theorem Units.resume (x0 : Nat) (x1 : Nat) (x2 : Bool) : Units.Statement (.resume x0 x1 x2) := Units.ofWf _
theorem Units.drain (x0 : Nat) (x1 : Nat) (x2 : Bool) : Units.Statement (.drain x0 x1 x2) := Units.ofWf _
theorem Units.reset (x0 : Nat) (x1 : Nat) (x2 : Bool) : Units.Statement (.reset x0 x1 x2) := Units.ofWf _
theorem Units.functionLevelReset (x0 : Nat) : Units.Statement (.functionLevelReset x0) := Units.ofWf _
theorem Units.pcieHotReset  : Units.Statement (.pcieHotReset) := Units.ofWf _
theorem Units.ringResetComplete (x0 : Nat) : Units.Statement (.ringResetComplete x0) := Units.ofWf _
theorem Units.fetchDescriptors  : Units.Statement (.fetchDescriptors) := Units.ofWf _
theorem Units.fetchAllowanceTick  : Units.Statement (.fetchAllowanceTick) := Units.ofWf _
theorem Units.descriptorArrival (x0 : Nat) (x1 : List Byte) : Units.Statement (.descriptorArrival x0 x1) := Units.ofWf _
theorem Units.descriptorFetchFault (x0 : Nat) (x1 : Completion) : Units.Statement (.descriptorFetchFault x0 x1) := Units.ofWf _
theorem Units.admitStage (x0 : Nat) : Units.Statement (.admitStage x0) := Units.ofWf _
theorem Units.chainBlockCheck (x0 : Nat) : Units.Statement (.chainBlockCheck x0) := Units.ofWf _
theorem Units.stageStart (x0 : Nat) : Units.Statement (.stageStart x0) := Units.ofWf _
theorem Units.stageComplete (x0 : Nat) : Units.Statement (.stageComplete x0) := Units.ofWf _
theorem Units.cqEntryWrite (x0 : Nat) : Units.Statement (.cqEntryWrite x0) := Units.ofWf _
theorem Units.cqWriteFault (x0 : Nat) : Units.Statement (.cqWriteFault x0) := Units.ofWf _
theorem Units.irqDelayExpiry (x0 : Nat) : Units.Statement (.irqDelayExpiry x0) := Units.ofWf _
theorem Units.pcieConfigRequest (x0 : Nat) (x1 : ConfigAccess) : Units.Statement (.pcieConfigRequest x0 x1) := Units.ofWf _
theorem Units.bar4Read (x0 : Nat) (x1 : Nat) (x2 : Nat) (x3 : Bool) : Units.Statement (.bar4Read x0 x1 x2 x3) := Units.ofWf _
theorem Units.bar4Write (x0 : Nat) (x1 : Nat) (x2 : List Byte) (x3 : Bool) : Units.Statement (.bar4Write x0 x1 x2 x3) := Units.ofWf _
theorem Units.registerWrite (x0 : Nat) (x1 : Nat) (x2 : Nat) (x3 : Nat) (x4 : Word32) (x5 : Bool) : Units.Statement (.registerWrite x0 x1 x2 x3 x4 x5) := Units.ofWf _
theorem Units.registerLowWordRead (x0 : Nat) (x1 : BarRead) : Units.Statement (.registerLowWordRead x0 x1) := Units.ofWf _
theorem Units.hifFnTableWrite (x0 : Nat) (x1 : Nat) (x2 : Nat) (x3 : View) (x4 : Word32) : Units.Statement (.hifFnTableWrite x0 x1 x2 x3 x4) := Units.ofWf _
theorem Units.dspReprio (x0 : View) (x1 : Word32) : Units.Statement (.dspReprio x0 x1) := Units.ofWf _
theorem Units.hifVfReprio (x0 : Nat) (x1 : View) (x2 : Word32) (x3 : Bool) : Units.Statement (.hifVfReprio x0 x1 x2 x3) := Units.ofWf _
theorem Units.vidKeyReq (x0 : View) (x1 : Word32) : Units.Statement (.vidKeyReq x0 x1) := Units.ofWf _
theorem Units.hifVfKeyReq (x0 : Nat) (x1 : View) (x2 : Word32) (x3 : Bool) : Units.Statement (.hifVfKeyReq x0 x1 x2 x3) := Units.ofWf _
theorem Units.memUeAckWrite (x0 : View) (x1 : Word32) : Units.Statement (.memUeAckWrite x0 x1) := Units.ofWf _
theorem Units.regCtrlWrite (x0 : Nat) (x1 : View) (x2 : Word32) : Units.Statement (.regCtrlWrite x0 x1 x2) := Units.ofWf _
theorem Units.placeTask  : Units.Statement (.placeTask) := Units.ofWf _
theorem Units.taskStart (x0 : Nat) : Units.Statement (.taskStart x0) := Units.ofWf _
theorem Units.arrayPassComplete (x0 : Nat) : Units.Statement (.arrayPassComplete x0) := Units.ofWf _
theorem Units.taskPassesEnd (x0 : Nat) : Units.Statement (.taskPassesEnd x0) := Units.ofWf _
theorem Units.harrowRowEnd (x0 : Nat) : Units.Statement (.harrowRowEnd x0) := Units.ofWf _
theorem Units.spillComplete (x0 : Nat) : Units.Statement (.spillComplete x0) := Units.ofWf _
theorem Units.restoreComplete (x0 : Nat) (x1 : Bool) : Units.Statement (.restoreComplete x0 x1) := Units.ofWf _
theorem Units.taskDrainStart (x0 : Nat) : Units.Statement (.taskDrainStart x0) := Units.ofWf _
theorem Units.taskDrainEnd (x0 : Nat) : Units.Statement (.taskDrainEnd x0) := Units.ofWf _
theorem Units.arrayClockStop (x0 : Nat) (x1 : Nat) : Units.Statement (.arrayClockStop x0 x1) := Units.ofWf _
theorem Units.gleanRequest (x0 : Nat) : Units.Statement (.gleanRequest x0) := Units.ofWf _
theorem Units.gleanServe (x0 : Nat) : Units.Statement (.gleanServe x0) := Units.ofWf _
theorem Units.gleanTransferComplete (x0 : Nat) : Units.Statement (.gleanTransferComplete x0) := Units.ofWf _
theorem Units.gleanExclusionExpiry (x0 : Nat) (x1 : Nat) : Units.Statement (.gleanExclusionExpiry x0 x1) := Units.ofWf _
theorem Units.fenceComplete (x0 : Nat) : Units.Statement (.fenceComplete x0) := Units.ofWf _
theorem Units.barrierArrive (x0 : Nat) : Units.Statement (.barrierArrive x0) := Units.ofWf _
theorem Units.spillHintRun (x0 : Nat) : Units.Statement (.spillHintRun x0) := Units.ofWf _
theorem Units.arrivalTimeout (x0 : Nat) : Units.Statement (.arrivalTimeout x0) := Units.ofWf _
theorem Units.laneContextTakeover (x0 : Nat) : Units.Statement (.laneContextTakeover x0) := Units.ofWf _
theorem Units.kvAppendStart (x0 : Nat) : Units.Statement (.kvAppendStart x0) := Units.ofWf _
theorem Units.kvAppendComplete (x0 : Nat) : Units.Statement (.kvAppendComplete x0) := Units.ofWf _
theorem Units.kvReleaseStart (x0 : Nat) : Units.Statement (.kvReleaseStart x0) := Units.ofWf _
theorem Units.kvReleaseComplete (x0 : Nat) : Units.Statement (.kvReleaseComplete x0) := Units.ofWf _
theorem Units.memoryRead (x0 : Requester) (x1 : Nat) (x2 : Nat) (x3 : Nat) : Units.Statement (.memoryRead x0 x1 x2 x3) := Units.ofWf _
theorem Units.memoryWrite (x0 : Requester) (x1 : Nat) (x2 : List Byte) (x3 : Nat) : Units.Statement (.memoryWrite x0 x1 x2 x3) := Units.ofWf _
theorem Units.missFillComplete (x0 : Nat) (x1 : EccResult) : Units.Statement (.missFillComplete x0 x1) := Units.ofWf _
theorem Units.atomicRequest (x0 : Requester) (x1 : Nat) (x2 : Nat) (x3 : Nat) (x4 : Bool) (x5 : List Byte) : Units.Statement (.atomicRequest x0 x1 x2 x3 x4 x5) := Units.ofWf _
theorem Units.atomicApplyMc (x0 : Nat) (x1 : EccResult) : Units.Statement (.atomicApplyMc x0 x1) := Units.ofWf _
theorem Units.rowRemapComplete (x0 : Nat) : Units.Statement (.rowRemapComplete x0) := Units.ofWf _
theorem Units.scrubRead (x0 : Nat) (x1 : EccResult) (x2 : Bool) : Units.Statement (.scrubRead x0 x1 x2) := Units.ofWf _
theorem Units.memTempRead (x0 : Nat) (x1 : Option Nat) : Units.Statement (.memTempRead x0 x1) := Units.ofWf _
theorem Units.ceRateTick  : Units.Statement (.ceRateTick) := Units.ofWf _
theorem Units.unitRetrainStart (x0 : Nat) (x1 : Nat) : Units.Statement (.unitRetrainStart x0 x1) := Units.ofWf _
theorem Units.unitRetrainAttemptEnd (x0 : Nat) (x1 : Bool) : Units.Statement (.unitRetrainAttemptEnd x0 x1) := Units.ofWf _
theorem Units.linkFrameRx (x0 : Nat) (x1 : Nat) (x2 : List Nat) (x3 : List Nat) : Units.Statement (.linkFrameRx x0 x1 x2 x3) := Units.ofWf _
theorem Units.dataFlitWrite (x0 : Nat) (x1 : List Byte) : Units.Statement (.dataFlitWrite x0 x1) := Units.ofWf _
theorem Units.dataFlitAtomic (x0 : Nat) (x1 : List Byte) : Units.Statement (.dataFlitAtomic x0 x1) := Units.ofWf _
theorem Units.dataFlitReadData (x0 : Nat) (x1 : List Byte) : Units.Statement (.dataFlitReadData x0 x1) := Units.ofWf _
theorem Units.dataFlitReadPoison (x0 : Nat) (x1 : List Byte) : Units.Statement (.dataFlitReadPoison x0 x1) := Units.ofWf _
theorem Units.controlFlitRx (x0 : Nat) (x1 : List Byte) : Units.Statement (.controlFlitRx x0 x1) := Units.ofWf _
theorem Units.controlReplayTimeout (x0 : Nat) : Units.Statement (.controlReplayTimeout x0) := Units.ofWf _
theorem Units.creditReturn (x0 : Nat) : Units.Statement (.creditReturn x0) := Units.ofWf _
theorem Units.hello (x0 : Nat) (x1 : Nat) (x2 : List Byte) : Units.Statement (.hello x0 x1 x2) := Units.ofWf _
theorem Units.leave (x0 : Nat) : Units.Statement (.leave x0) := Units.ofWf _
theorem Units.time (x0 : Nat) (x1 : List Byte) : Units.Statement (.time x0 x1) := Units.ofWf _
theorem Units.winReq (x0 : Nat) (x1 : List Byte) : Units.Statement (.winReq x0 x1) := Units.ofWf _
theorem Units.winGrant (x0 : Nat) (x1 : List Byte) : Units.Statement (.winGrant x0 x1) := Units.ofWf _
theorem Units.winDeny (x0 : Nat) (x1 : List Byte) : Units.Statement (.winDeny x0 x1) := Units.ofWf _
theorem Units.winEnd (x0 : Nat) (x1 : List Byte) : Units.Statement (.winEnd x0 x1) := Units.ofWf _
theorem Units.winDone (x0 : Nat) (x1 : List Byte) : Units.Statement (.winDone x0 x1) := Units.ofWf _
theorem Units.winDoneTimeout (x0 : Nat) : Units.Statement (.winDoneTimeout x0) := Units.ofWf _
theorem Units.readReq (x0 : Nat) (x1 : List Byte) : Units.Statement (.readReq x0 x1) := Units.ofWf _
theorem Units.readEnd (x0 : Nat) (x1 : List Byte) : Units.Statement (.readEnd x0 x1) := Units.ofWf _
theorem Units.coll (x0 : Nat) (x1 : List Byte) : Units.Statement (.coll x0 x1) := Units.ofWf _
theorem Units.weloc (x0 : Nat) (x1 : List Byte) : Units.Statement (.weloc x0 x1) := Units.ofWf _
theorem Units.key (x0 : Nat) (x1 : List Byte) : Units.Statement (.key x0 x1) := Units.ofWf _
theorem Units.routeDrop (x0 : Nat) (x1 : List Byte) : Units.Statement (.routeDrop x0 x1) := Units.ofWf _
theorem Units.helloPeriodTimer  : Units.Statement (.helloPeriodTimer) := Units.ofWf _
theorem Units.timeExchangeTimer  : Units.Statement (.timeExchangeTimer) := Units.ofWf _
theorem Units.peerTimeout (x0 : Nat) : Units.Statement (.peerTimeout x0) := Units.ofWf _
theorem Units.retrainGraceExpiry (x0 : Nat) : Units.Statement (.retrainGraceExpiry x0) := Units.ofWf _
theorem Units.peerAbsentTimeout (x0 : Nat) : Units.Statement (.peerAbsentTimeout x0) := Units.ofWf _
theorem Units.portCalibrateEnd (x0 : Nat) (x1 : Bool) : Units.Statement (.portCalibrateEnd x0 x1) := Units.ofWf _
theorem Units.portAlignEnd (x0 : Nat) (x1 : Bool) : Units.Statement (.portAlignEnd x0 x1) := Units.ofWf _
theorem Units.portVerifyEnd (x0 : Nat) (x1 : Bool) : Units.Statement (.portVerifyEnd x0 x1) := Units.ofWf _
theorem Units.portAuthEnd (x0 : Nat) (x1 : Bool) : Units.Statement (.portAuthEnd x0 x1) := Units.ofWf _
theorem Units.portTrainTimeout (x0 : Nat) : Units.Statement (.portTrainTimeout x0) := Units.ofWf _
theorem Units.portRetryTimer (x0 : Nat) : Units.Statement (.portRetryTimer x0) := Units.ofWf _
theorem Units.portRetrainEntry (x0 : Nat) (x1 : RetrainCause) : Units.Statement (.portRetrainEntry x0 x1) := Units.ofWf _
theorem Units.microringRecal (x0 : Nat) : Units.Statement (.microringRecal x0) := Units.ofWf _
theorem Units.microringRecalEnd (x0 : Nat) : Units.Statement (.microringRecalEnd x0) := Units.ofWf _
theorem Units.laserModuleInsert (x0 : Nat) : Units.Statement (.laserModuleInsert x0) := Units.ofWf _
theorem Units.laserModuleRemove (x0 : Nat) : Units.Statement (.laserModuleRemove x0) := Units.ofWf _
theorem Units.laserPresenceTimer (x0 : Nat) : Units.Statement (.laserPresenceTimer x0) := Units.ofWf _
theorem Units.copyStart (x0 : Nat) : Units.Statement (.copyStart x0) := Units.ofWf _
theorem Units.copyPieceComplete (x0 : Nat) : Units.Statement (.copyPieceComplete x0) := Units.ofWf _
theorem Units.collectiveStart (x0 : Nat) : Units.Statement (.collectiveStart x0) := Units.ofWf _
theorem Units.collectiveJoinTimeout (x0 : Nat) : Units.Statement (.collectiveJoinTimeout x0) := Units.ofWf _
theorem Units.collectiveBlockReduce (x0 : Nat) (x1 : Nat) : Units.Statement (.collectiveBlockReduce x0 x1) := Units.ofWf _
theorem Units.collectivePartialTimeout (x0 : Nat) : Units.Statement (.collectivePartialTimeout x0) := Units.ofWf _
theorem Units.collectiveComplete (x0 : Nat) : Units.Statement (.collectiveComplete x0) := Units.ofWf _
theorem Units.ingestStart (x0 : Nat) : Units.Statement (.ingestStart x0) := Units.ofWf _
theorem Units.liveQueuePoll (x0 : Nat) (x1 : Nat) : Units.Statement (.liveQueuePoll x0 x1) := Units.ofWf _
theorem Units.ingestWaitTimeout (x0 : Nat) (x1 : Nat) : Units.Statement (.ingestWaitTimeout x0 x1) := Units.ofWf _
theorem Units.ingestEntryComplete (x0 : Nat) (x1 : Nat) : Units.Statement (.ingestEntryComplete x0 x1) := Units.ofWf _
theorem Units.ingestComplete (x0 : Nat) : Units.Statement (.ingestComplete x0) := Units.ofWf _
theorem Units.pyramidStart (x0 : Nat) : Units.Statement (.pyramidStart x0) := Units.ofWf _
theorem Units.pyramidLevelComplete (x0 : Nat) : Units.Statement (.pyramidLevelComplete x0) := Units.ofWf _
theorem Units.vdecOpen (x0 : Nat) : Units.Statement (.vdecOpen x0) := Units.ofWf _
theorem Units.vdecDecode (x0 : Nat) : Units.Statement (.vdecDecode x0) := Units.ofWf _
theorem Units.vdecRelease (x0 : Nat) : Units.Statement (.vdecRelease x0) := Units.ofWf _
theorem Units.vdecClose (x0 : Nat) : Units.Statement (.vdecClose x0) := Units.ofWf _
theorem Units.decodePictureOutput (x0 : Nat) : Units.Statement (.decodePictureOutput x0) := Units.ofWf _
theorem Units.vidPoolWaitTimeout (x0 : Nat) : Units.Statement (.vidPoolWaitTimeout x0) := Units.ofWf _
theorem Units.vencOpen (x0 : Nat) : Units.Statement (.vencOpen x0) := Units.ofWf _
theorem Units.vencEncode (x0 : Nat) : Units.Statement (.vencEncode x0) := Units.ofWf _
theorem Units.vencClose (x0 : Nat) : Units.Statement (.vencClose x0) := Units.ofWf _
theorem Units.encodeUnitWritten (x0 : Nat) : Units.Statement (.encodeUnitWritten x0) := Units.ofWf _
theorem Units.paceStart (x0 : Nat) : Units.Statement (.paceStart x0) := Units.ofWf _
theorem Units.paceCommit (x0 : Nat) : Units.Statement (.paceCommit x0) := Units.ofWf _
theorem Units.paceStop (x0 : Nat) : Units.Statement (.paceStop x0) := Units.ofWf _
theorem Units.paceLatch (x0 : Nat) : Units.Statement (.paceLatch x0) := Units.ofWf _
theorem Units.paceCopyComplete (x0 : Nat) : Units.Statement (.paceCopyComplete x0) := Units.ofWf _
theorem Units.read (x0 : Manager) (x1 : List Byte) : Units.Statement (.read x0 x1) := Units.ofWf _
theorem Units.uploadNext (x0 : Manager) (x1 : List Byte) : Units.Statement (.uploadNext x0 x1) := Units.ofWf _
theorem Units.write (x0 : Manager) (x1 : List Byte) : Units.Statement (.write x0 x1) := Units.ofWf _
theorem Units.writeInit (x0 : Manager) (x1 : List Byte) : Units.Statement (.writeInit x0 x1) := Units.ofWf _
theorem Units.writeSeg (x0 : Manager) (x1 : List Byte) : Units.Statement (.writeSeg x0 x1) := Units.ofWf _
theorem Units.writeEnd (x0 : Manager) (x1 : List Byte) : Units.Statement (.writeEnd x0 x1) := Units.ofWf _
theorem Units.abort (x0 : Manager) (x1 : List Byte) : Units.Statement (.abort x0 x1) := Units.ofWf _
theorem Units.welocUnknownCmd (x0 : Manager) (x1 : List Byte) : Units.Statement (.welocUnknownCmd x0 x1) := Units.ofWf _
theorem Units.welocContextTimeout (x0 : Nat) : Units.Statement (.welocContextTimeout x0) := Units.ofWf _
theorem Units.welocDuplicateExpiry (x0 : Manager) : Units.Statement (.welocDuplicateExpiry x0) := Units.ofWf _
theorem Units.setEndpointId (x0 : Transport) (x1 : Nat) (x2 : Nat) : Units.Statement (.setEndpointId x0 x1 x2) := Units.ofWf _
theorem Units.getEndpointId (x0 : Transport) : Units.Statement (.getEndpointId x0) := Units.ofWf _
theorem Units.getEndpointUuid (x0 : Transport) : Units.Statement (.getEndpointUuid x0) := Units.ofWf _
theorem Units.getMctpVersionSupport (x0 : Transport) (x1 : Nat) : Units.Statement (.getMctpVersionSupport x0 x1) := Units.ofWf _
theorem Units.getMessageTypeSupport (x0 : Transport) : Units.Statement (.getMessageTypeSupport x0) := Units.ofWf _
theorem Units.getVendorDefinedMessageSupport (x0 : Transport) (x1 : Nat) : Units.Statement (.getVendorDefinedMessageSupport x0 x1) := Units.ofWf _
theorem Units.mctpUnsupportedCmd (x0 : Transport) (x1 : Nat) : Units.Statement (.mctpUnsupportedCmd x0 x1) := Units.ofWf _
theorem Units.entdaa (x0 : Nat) (x1 : Nat) : Units.Statement (.entdaa x0 x1) := Units.ofWf _
theorem Units.setnewda (x0 : Nat) (x1 : Nat) : Units.Statement (.setnewda x0 x1) := Units.ofWf _
theorem Units.rstdaa (x0 : Nat) : Units.Statement (.rstdaa x0) := Units.ofWf _
theorem Units.setmwl (x0 : Nat) (x1 : Nat) : Units.Statement (.setmwl x0 x1) := Units.ofWf _
theorem Units.setmrl (x0 : Nat) (x1 : Nat) : Units.Statement (.setmrl x0 x1) := Units.ofWf _
theorem Units.i3cPrivateRead (x0 : Nat) : Units.Statement (.i3cPrivateRead x0) := Units.ofWf _
theorem Units.i3cHotJoinTimer (x0 : Nat) : Units.Statement (.i3cHotJoinTimer x0) := Units.ofWf _
theorem Units.storeCommitStart  : Units.Statement (.storeCommitStart) := Units.ofWf _
theorem Units.storeCommitEnd (x0 : Bool) : Units.Statement (.storeCommitEnd x0) := Units.ofWf _
theorem Units.storeTokenTick  : Units.Statement (.storeTokenTick) := Units.ofWf _
theorem Units.fwSlotEraseComplete (x0 : Nat) : Units.Statement (.fwSlotEraseComplete x0) := Units.ofWf _
theorem Units.fnImageWrite (x0 : Manager) (x1 : Nat) (x2 : List Byte) : Units.Statement (.fnImageWrite x0 x1 x2) := Units.ofWf _
theorem Units.restoreDefaults (x0 : Manager) (x1 : Nat) : Units.Statement (.restoreDefaults x0 x1) := Units.ofWf _
theorem Units.brRestore (x0 : Manager) (x1 : Nat) : Units.Statement (.brRestore x0 x1) := Units.ofWf _
theorem Units.brClear (x0 : Manager) (x1 : Nat) : Units.Statement (.brClear x0 x1) := Units.ofWf _
theorem Units.secOwnerClaim (x0 : Manager) (x1 : List Byte) : Units.Statement (.secOwnerClaim x0 x1) := Units.ofWf _
theorem Units.secOwnerRevoke (x0 : Manager) (x1 : Nat) : Units.Statement (.secOwnerRevoke x0 x1) := Units.ofWf _
theorem Units.regionRunWrite (x0 : Manager) (x1 : Nat) (x2 : Nat) (x3 : Word32) : Units.Statement (.regionRunWrite x0 x1 x2 x3) := Units.ofWf _
theorem Units.logCursorWrite (x0 : Manager) (x1 : Word64) : Units.Statement (.logCursorWrite x0 x1) := Units.ofWf _
theorem Units.getVersion (x0 : Transport) : Units.Statement (.getVersion x0) := Units.ofWf _
theorem Units.getCapabilities (x0 : Transport) : Units.Statement (.getCapabilities x0) := Units.ofWf _
theorem Units.negotiateAlgorithms (x0 : Transport) (x1 : List Byte) : Units.Statement (.negotiateAlgorithms x0 x1) := Units.ofWf _
theorem Units.getDigests (x0 : Transport) : Units.Statement (.getDigests x0) := Units.ofWf _
theorem Units.getCertificate (x0 : Transport) (x1 : Nat) (x2 : Nat) (x3 : Nat) : Units.Statement (.getCertificate x0 x1 x2 x3) := Units.ofWf _
theorem Units.challenge (x0 : Transport) (x1 : Nat) (x2 : List Byte) : Units.Statement (.challenge x0 x1 x2) := Units.ofWf _
theorem Units.getMeasurements (x0 : Transport) (x1 : Nat) (x2 : Bool) (x3 : List Byte) : Units.Statement (.getMeasurements x0 x1 x2 x3) := Units.ofWf _
theorem Units.keyExchange (x0 : Transport) (x1 : List Byte) : Units.Statement (.keyExchange x0 x1) := Units.ofWf _
theorem Units.finish (x0 : Nat) (x1 : Option (List Byte)) (x2 : Bool) : Units.Statement (.finish x0 x1 x2) := Units.ofWf _
theorem Units.heartbeat (x0 : Nat) : Units.Statement (.heartbeat x0) := Units.ofWf _
theorem Units.keyUpdate (x0 : Nat) (x1 : Nat) : Units.Statement (.keyUpdate x0 x1) := Units.ofWf _
theorem Units.endSession (x0 : Nat) : Units.Statement (.endSession x0) := Units.ofWf _
theorem Units.chunkSend (x0 : Transport) (x1 : Nat) (x2 : Nat) (x3 : Bool) (x4 : Nat) (x5 : List Byte) : Units.Statement (.chunkSend x0 x1 x2 x3 x4 x5) := Units.ofWf _
theorem Units.chunkGet (x0 : Transport) (x1 : Nat) (x2 : Nat) : Units.Statement (.chunkGet x0 x1 x2) := Units.ofWf _
theorem Units.vendorDefinedRequest (x0 : Option Nat) (x1 : Nat) (x2 : List Byte) : Units.Statement (.vendorDefinedRequest x0 x1 x2) := Units.ofWf _
theorem Units.spdmUnsupportedRequest (x0 : Transport) (x1 : Nat) : Units.Statement (.spdmUnsupportedRequest x0 x1) := Units.ofWf _
theorem Units.getTdispVersion (x0 : Nat) (x1 : Nat) : Units.Statement (.getTdispVersion x0 x1) := Units.ofWf _
theorem Units.getTdispCapabilities (x0 : Nat) (x1 : Nat) : Units.Statement (.getTdispCapabilities x0 x1) := Units.ofWf _
theorem Units.lockInterfaceRequest (x0 : Nat) (x1 : Nat) : Units.Statement (.lockInterfaceRequest x0 x1) := Units.ofWf _
theorem Units.getDeviceInterfaceReport (x0 : Nat) (x1 : Nat) : Units.Statement (.getDeviceInterfaceReport x0 x1) := Units.ofWf _
theorem Units.getDeviceInterfaceState (x0 : Nat) (x1 : Nat) : Units.Statement (.getDeviceInterfaceState x0 x1) := Units.ofWf _
theorem Units.startInterfaceRequest (x0 : Nat) (x1 : Nat) : Units.Statement (.startInterfaceRequest x0 x1) := Units.ofWf _
theorem Units.stopInterfaceRequest (x0 : Nat) (x1 : Nat) : Units.Statement (.stopInterfaceRequest x0 x1) := Units.ofWf _
theorem Units.tdispUnsupportedRequest (x0 : Nat) (x1 : Nat) (x2 : Nat) : Units.Statement (.tdispUnsupportedRequest x0 x1 x2) := Units.ofWf _
theorem Units.ideKmKeyProg (x0 : Nat) (x1 : Nat) (x2 : Nat) (x3 : List Nat) (x4 : List Byte) : Units.Statement (.ideKmKeyProg x0 x1 x2 x3 x4) := Units.ofWf _
theorem Units.ideStreamFail (x0 : Nat) : Units.Statement (.ideStreamFail x0) := Units.ofWf _
theorem Units.doeDiscovery (x0 : Nat) : Units.Statement (.doeDiscovery x0) := Units.ofWf _
theorem Units.regionClearComplete (x0 : Nat) : Units.Statement (.regionClearComplete x0) := Units.ofWf _
theorem Units.entropyHealthFail  : Units.Statement (.entropyHealthFail) := Units.ofWf _
theorem Units.domainClockGate (x0 : Nat) : Units.Statement (.domainClockGate x0) := Units.ofWf _
theorem Units.domainDrainStart (x0 : Nat) : Units.Statement (.domainDrainStart x0) := Units.ofWf _
theorem Units.domainDrainComplete (x0 : Nat) : Units.Statement (.domainDrainComplete x0) := Units.ofWf _
theorem Units.domainPowerOffComplete (x0 : Nat) : Units.Statement (.domainPowerOffComplete x0) := Units.ofWf _
theorem Units.gatePacketArrival (x0 : Nat) (x1 : Nat) : Units.Statement (.gatePacketArrival x0 x1) := Units.ofWf _
theorem Units.domainWakeComplete (x0 : Nat) : Units.Statement (.domainWakeComplete x0) := Units.ofWf _
theorem Units.domainWakeWindow  : Units.Statement (.domainWakeWindow) := Units.ofWf _
theorem Units.headlandClockIdleStop  : Units.Statement (.headlandClockIdleStop) := Units.ofWf _
theorem Units.dvfsTick (x0 : List Nat) : Units.Statement (.dvfsTick x0) := Units.ofWf _
theorem Units.pstateChangeComplete (x0 : Nat) : Units.Statement (.pstateChangeComplete x0) := Units.ofWf _
theorem Units.avsReadback (x0 : Option Nat) : Units.Statement (.avsReadback x0) := Units.ofWf _
theorem Units.currentLimitTrip  : Units.Statement (.currentLimitTrip) := Units.ofWf _
theorem Units.currentLimitRelease  : Units.Statement (.currentLimitRelease) := Units.ofWf _
theorem Units.dieTempSample (x0 : List Nat) : Units.Statement (.dieTempSample x0) := Units.ofWf _
theorem Units.thermalTrip (x0 : Nat) : Units.Statement (.thermalTrip x0) := Units.ofWf _
theorem Units.supplyWarning (x0 : Nat) (x1 : Nat) : Units.Statement (.supplyWarning x0 x1) := Units.ofWf _
theorem Units.supplyWarningRecover  : Units.Statement (.supplyWarningRecover) := Units.ofWf _
theorem Units.supplyResetLevel (x0 : Nat) (x1 : Nat) : Units.Statement (.supplyResetLevel x0 x1) := Units.ofWf _
theorem Units.powerOnReset  : Units.Statement (.powerOnReset) := Units.ofWf _
theorem Units.rstNAssert  : Units.Statement (.rstNAssert) := Units.ofWf _
theorem Units.perstAssert  : Units.Statement (.perstAssert) := Units.ofWf _
theorem Units.perstDeassert  : Units.Statement (.perstDeassert) := Units.ofWf _
theorem Units.tapResetRelease  : Units.Statement (.tapResetRelease) := Units.ofWf _
theorem Units.bringupStepRun (x0 : Nat) (x1 : Nat) : Units.Statement (.bringupStepRun x0 x1) := Units.ofWf _
theorem Units.bringupAttemptEnd (x0 : Nat) (x1 : Nat) (x2 : Bool) (x3 : Nat) (x4 : Nat) : Units.Statement (.bringupAttemptEnd x0 x1 x2 x3 x4) := Units.ofWf _
theorem Units.bringupAttemptTimeout (x0 : Nat) (x1 : Nat) : Units.Statement (.bringupAttemptTimeout x0 x1) := Units.ofWf _
theorem Units.controlSramCe (x0 : SramKind) : Units.Statement (.controlSramCe x0) := Units.ofWf _
theorem Units.controlSramUe (x0 : SramKind) : Units.Statement (.controlSramUe x0) := Units.ofWf _
theorem Units.bridgeLossTimeout  : Units.Statement (.bridgeLossTimeout) := Units.ofWf _
theorem Units.hostWindowCompletion (x0 : Nat) (x1 : Completion) (x2 : List Byte) : Units.Statement (.hostWindowCompletion x0 x1 x2) := Units.ofWf _
theorem Units.rstNDeassert  : Units.Statement (.rstNDeassert) := Units.ofWf _
theorem Units.tapReset  : Units.Statement (.tapReset) := Units.ofWf _
theorem Units.bridgeLoss  : Units.Statement (.bridgeLoss) := Units.ofWf _
theorem Units.dupDevidExpiry  : Units.Statement (.dupDevidExpiry) := Units.ofWf _

end Sys2Proof.Laws
end

