-- ==== Sys2Proof/Laws/State.lean ====
section
/-!
SUPPORT. What each named update of State leaves of each field, and what the accessors read after it.
-/
namespace Sys2Proof.Machine

variable (s : State)

@[simp] theorem State.bump_pending (a n : Nat) : (s.bump a n).pending = s.pending := rfl
@[simp] theorem State.bump_freeCount (a n : Nat) : (s.bump a n).freeCount = s.freeCount := rfl
@[simp] theorem State.bump_time (a n : Nat) : (s.bump a n).time = s.time := rfl
@[simp] theorem State.bump_phase (a n : Nat) : (s.bump a n).phase = s.phase := rfl
@[simp] theorem State.bump_fuses (a n : Nat) : (s.bump a n).fuses = s.fuses := rfl
@[simp] theorem State.bump_hif (a n : Nat) : (s.bump a n).hif = s.hif := rfl
@[simp] theorem State.bump_dsp (a n : Nat) : (s.bump a n).dsp = s.dsp := rfl
@[simp] theorem State.bump_cores (a n : Nat) : (s.bump a n).cores = s.cores := rfl
@[simp] theorem State.bump_mem (a n : Nat) : (s.bump a n).mem = s.mem := rfl
@[simp] theorem State.bump_kv (a n : Nat) : (s.bump a n).kv = s.kv := rfl
@[simp] theorem State.bump_fnSlots (a n : Nat) : (s.bump a n).fnSlots = s.fnSlots := rfl
@[simp] theorem State.bump_framePools (a n : Nat) : (s.bump a n).framePools = s.framePools := rfl
@[simp] theorem State.bump_sec (a n : Nat) : (s.bump a n).sec = s.sec := rfl
@[simp] theorem State.bump_pwr (a n : Nat) : (s.bump a n).pwr = s.pwr := rfl
@[simp] theorem State.bump_lnk (a n : Nat) : (s.bump a n).lnk = s.lnk := rfl
@[simp] theorem State.bump_ing (a n : Nat) : (s.bump a n).ing = s.ing := rfl
@[simp] theorem State.bump_vid (a n : Nat) : (s.bump a n).vid = s.vid := rfl
@[simp] theorem State.bump_pace (a n : Nat) : (s.bump a n).pace = s.pace := rfl
@[simp] theorem State.bump_lines (a n : Nat) : (s.bump a n).lines = s.lines := rfl
@[simp] theorem State.bump_regs (a n : Nat) : (s.bump a n).regs = s.regs := rfl
@[simp] theorem State.bump_objs (a n : Nat) : (s.bump a n).objs = s.objs := rfl
@[simp] theorem State.bump_dict (a n : Nat) : (s.bump a n).dict = s.dict := rfl
@[simp] theorem State.bump_store (a n : Nat) : (s.bump a n).store = s.store := rfl
@[simp] theorem State.bump_boot (a n : Nat) : (s.bump a n).boot = s.boot := rfl
@[simp] theorem State.bump_evlog (a n : Nat) : (s.bump a n).evlog = s.evlog := rfl
@[simp] theorem State.bump_flt (a n : Nat) : (s.bump a n).flt = s.flt := rfl
@[simp] theorem State.bump_out (a n : Nat) : (s.bump a n).out = s.out := rfl

@[simp] theorem State.tick1_pending (a : Nat) : (s.tick1 a).pending = s.pending := rfl
@[simp] theorem State.tick1_freeCount (a : Nat) : (s.tick1 a).freeCount = s.freeCount := rfl
@[simp] theorem State.tick1_time (a : Nat) : (s.tick1 a).time = s.time := rfl
@[simp] theorem State.tick1_phase (a : Nat) : (s.tick1 a).phase = s.phase := rfl
@[simp] theorem State.tick1_fuses (a : Nat) : (s.tick1 a).fuses = s.fuses := rfl
@[simp] theorem State.tick1_hif (a : Nat) : (s.tick1 a).hif = s.hif := rfl
@[simp] theorem State.tick1_dsp (a : Nat) : (s.tick1 a).dsp = s.dsp := rfl
@[simp] theorem State.tick1_cores (a : Nat) : (s.tick1 a).cores = s.cores := rfl
@[simp] theorem State.tick1_mem (a : Nat) : (s.tick1 a).mem = s.mem := rfl
@[simp] theorem State.tick1_kv (a : Nat) : (s.tick1 a).kv = s.kv := rfl
@[simp] theorem State.tick1_fnSlots (a : Nat) : (s.tick1 a).fnSlots = s.fnSlots := rfl
@[simp] theorem State.tick1_framePools (a : Nat) : (s.tick1 a).framePools = s.framePools := rfl
@[simp] theorem State.tick1_sec (a : Nat) : (s.tick1 a).sec = s.sec := rfl
@[simp] theorem State.tick1_pwr (a : Nat) : (s.tick1 a).pwr = s.pwr := rfl
@[simp] theorem State.tick1_lnk (a : Nat) : (s.tick1 a).lnk = s.lnk := rfl
@[simp] theorem State.tick1_ing (a : Nat) : (s.tick1 a).ing = s.ing := rfl
@[simp] theorem State.tick1_vid (a : Nat) : (s.tick1 a).vid = s.vid := rfl
@[simp] theorem State.tick1_pace (a : Nat) : (s.tick1 a).pace = s.pace := rfl
@[simp] theorem State.tick1_lines (a : Nat) : (s.tick1 a).lines = s.lines := rfl
@[simp] theorem State.tick1_regs (a : Nat) : (s.tick1 a).regs = s.regs := rfl
@[simp] theorem State.tick1_objs (a : Nat) : (s.tick1 a).objs = s.objs := rfl
@[simp] theorem State.tick1_dict (a : Nat) : (s.tick1 a).dict = s.dict := rfl
@[simp] theorem State.tick1_store (a : Nat) : (s.tick1 a).store = s.store := rfl
@[simp] theorem State.tick1_boot (a : Nat) : (s.tick1 a).boot = s.boot := rfl
@[simp] theorem State.tick1_evlog (a : Nat) : (s.tick1 a).evlog = s.evlog := rfl
@[simp] theorem State.tick1_flt (a : Nat) : (s.tick1 a).flt = s.flt := rfl
@[simp] theorem State.tick1_out (a : Nat) : (s.tick1 a).out = s.out := rfl

@[simp] theorem State.emit_pending (m : OutMsg) : (s.emit m).pending = s.pending := rfl
@[simp] theorem State.emit_freeCount (m : OutMsg) : (s.emit m).freeCount = s.freeCount := rfl
@[simp] theorem State.emit_time (m : OutMsg) : (s.emit m).time = s.time := rfl
@[simp] theorem State.emit_phase (m : OutMsg) : (s.emit m).phase = s.phase := rfl
@[simp] theorem State.emit_fuses (m : OutMsg) : (s.emit m).fuses = s.fuses := rfl
@[simp] theorem State.emit_hif (m : OutMsg) : (s.emit m).hif = s.hif := rfl
@[simp] theorem State.emit_dsp (m : OutMsg) : (s.emit m).dsp = s.dsp := rfl
@[simp] theorem State.emit_cores (m : OutMsg) : (s.emit m).cores = s.cores := rfl
@[simp] theorem State.emit_mem (m : OutMsg) : (s.emit m).mem = s.mem := rfl
@[simp] theorem State.emit_kv (m : OutMsg) : (s.emit m).kv = s.kv := rfl
@[simp] theorem State.emit_fnSlots (m : OutMsg) : (s.emit m).fnSlots = s.fnSlots := rfl
@[simp] theorem State.emit_framePools (m : OutMsg) : (s.emit m).framePools = s.framePools := rfl
@[simp] theorem State.emit_sec (m : OutMsg) : (s.emit m).sec = s.sec := rfl
@[simp] theorem State.emit_pwr (m : OutMsg) : (s.emit m).pwr = s.pwr := rfl
@[simp] theorem State.emit_lnk (m : OutMsg) : (s.emit m).lnk = s.lnk := rfl
@[simp] theorem State.emit_ing (m : OutMsg) : (s.emit m).ing = s.ing := rfl
@[simp] theorem State.emit_vid (m : OutMsg) : (s.emit m).vid = s.vid := rfl
@[simp] theorem State.emit_pace (m : OutMsg) : (s.emit m).pace = s.pace := rfl
@[simp] theorem State.emit_lines (m : OutMsg) : (s.emit m).lines = s.lines := rfl
@[simp] theorem State.emit_regs (m : OutMsg) : (s.emit m).regs = s.regs := rfl
@[simp] theorem State.emit_ctrs (m : OutMsg) : (s.emit m).ctrs = s.ctrs := rfl
@[simp] theorem State.emit_objs (m : OutMsg) : (s.emit m).objs = s.objs := rfl
@[simp] theorem State.emit_dict (m : OutMsg) : (s.emit m).dict = s.dict := rfl
@[simp] theorem State.emit_store (m : OutMsg) : (s.emit m).store = s.store := rfl
@[simp] theorem State.emit_boot (m : OutMsg) : (s.emit m).boot = s.boot := rfl
@[simp] theorem State.emit_evlog (m : OutMsg) : (s.emit m).evlog = s.evlog := rfl
@[simp] theorem State.emit_flt (m : OutMsg) : (s.emit m).flt = s.flt := rfl

@[simp] theorem State.log_pending (code source data : Nat) (w : Bool) : (s.log code source data w).pending = s.pending := rfl
@[simp] theorem State.log_freeCount (code source data : Nat) (w : Bool) : (s.log code source data w).freeCount = s.freeCount := rfl
@[simp] theorem State.log_time (code source data : Nat) (w : Bool) : (s.log code source data w).time = s.time := rfl
@[simp] theorem State.log_phase (code source data : Nat) (w : Bool) : (s.log code source data w).phase = s.phase := rfl
@[simp] theorem State.log_fuses (code source data : Nat) (w : Bool) : (s.log code source data w).fuses = s.fuses := rfl
@[simp] theorem State.log_hif (code source data : Nat) (w : Bool) : (s.log code source data w).hif = s.hif := rfl
@[simp] theorem State.log_dsp (code source data : Nat) (w : Bool) : (s.log code source data w).dsp = s.dsp := rfl
@[simp] theorem State.log_cores (code source data : Nat) (w : Bool) : (s.log code source data w).cores = s.cores := rfl
@[simp] theorem State.log_mem (code source data : Nat) (w : Bool) : (s.log code source data w).mem = s.mem := rfl
@[simp] theorem State.log_kv (code source data : Nat) (w : Bool) : (s.log code source data w).kv = s.kv := rfl
@[simp] theorem State.log_fnSlots (code source data : Nat) (w : Bool) : (s.log code source data w).fnSlots = s.fnSlots := rfl
@[simp] theorem State.log_framePools (code source data : Nat) (w : Bool) : (s.log code source data w).framePools = s.framePools := rfl
@[simp] theorem State.log_sec (code source data : Nat) (w : Bool) : (s.log code source data w).sec = s.sec := rfl
@[simp] theorem State.log_pwr (code source data : Nat) (w : Bool) : (s.log code source data w).pwr = s.pwr := rfl
@[simp] theorem State.log_lnk (code source data : Nat) (w : Bool) : (s.log code source data w).lnk = s.lnk := rfl
@[simp] theorem State.log_ing (code source data : Nat) (w : Bool) : (s.log code source data w).ing = s.ing := rfl
@[simp] theorem State.log_vid (code source data : Nat) (w : Bool) : (s.log code source data w).vid = s.vid := rfl
@[simp] theorem State.log_pace (code source data : Nat) (w : Bool) : (s.log code source data w).pace = s.pace := rfl
@[simp] theorem State.log_lines (code source data : Nat) (w : Bool) : (s.log code source data w).lines = s.lines := rfl
@[simp] theorem State.log_regs (code source data : Nat) (w : Bool) : (s.log code source data w).regs = s.regs := rfl
@[simp] theorem State.log_ctrs (code source data : Nat) (w : Bool) : (s.log code source data w).ctrs = s.ctrs := rfl
@[simp] theorem State.log_objs (code source data : Nat) (w : Bool) : (s.log code source data w).objs = s.objs := rfl
@[simp] theorem State.log_dict (code source data : Nat) (w : Bool) : (s.log code source data w).dict = s.dict := rfl
@[simp] theorem State.log_store (code source data : Nat) (w : Bool) : (s.log code source data w).store = s.store := rfl
@[simp] theorem State.log_boot (code source data : Nat) (w : Bool) : (s.log code source data w).boot = s.boot := rfl
@[simp] theorem State.log_flt (code source data : Nat) (w : Bool) : (s.log code source data w).flt = s.flt := rfl
@[simp] theorem State.log_out (code source data : Nat) (w : Bool) : (s.log code source data w).out = s.out := rfl

@[simp] theorem State.setReg_pending (a : Nat) (v : Word32) : (s.setReg a v).pending = s.pending := rfl
@[simp] theorem State.setReg_freeCount (a : Nat) (v : Word32) : (s.setReg a v).freeCount = s.freeCount := rfl
@[simp] theorem State.setReg_time (a : Nat) (v : Word32) : (s.setReg a v).time = s.time := rfl
@[simp] theorem State.setReg_phase (a : Nat) (v : Word32) : (s.setReg a v).phase = s.phase := rfl
@[simp] theorem State.setReg_fuses (a : Nat) (v : Word32) : (s.setReg a v).fuses = s.fuses := rfl
@[simp] theorem State.setReg_hif (a : Nat) (v : Word32) : (s.setReg a v).hif = s.hif := rfl
@[simp] theorem State.setReg_dsp (a : Nat) (v : Word32) : (s.setReg a v).dsp = s.dsp := rfl
@[simp] theorem State.setReg_cores (a : Nat) (v : Word32) : (s.setReg a v).cores = s.cores := rfl
@[simp] theorem State.setReg_mem (a : Nat) (v : Word32) : (s.setReg a v).mem = s.mem := rfl
@[simp] theorem State.setReg_kv (a : Nat) (v : Word32) : (s.setReg a v).kv = s.kv := rfl
@[simp] theorem State.setReg_fnSlots (a : Nat) (v : Word32) : (s.setReg a v).fnSlots = s.fnSlots := rfl
@[simp] theorem State.setReg_framePools (a : Nat) (v : Word32) : (s.setReg a v).framePools = s.framePools := rfl
@[simp] theorem State.setReg_sec (a : Nat) (v : Word32) : (s.setReg a v).sec = s.sec := rfl
@[simp] theorem State.setReg_pwr (a : Nat) (v : Word32) : (s.setReg a v).pwr = s.pwr := rfl
@[simp] theorem State.setReg_lnk (a : Nat) (v : Word32) : (s.setReg a v).lnk = s.lnk := rfl
@[simp] theorem State.setReg_ing (a : Nat) (v : Word32) : (s.setReg a v).ing = s.ing := rfl
@[simp] theorem State.setReg_vid (a : Nat) (v : Word32) : (s.setReg a v).vid = s.vid := rfl
@[simp] theorem State.setReg_pace (a : Nat) (v : Word32) : (s.setReg a v).pace = s.pace := rfl
@[simp] theorem State.setReg_lines (a : Nat) (v : Word32) : (s.setReg a v).lines = s.lines := rfl
@[simp] theorem State.setReg_ctrs (a : Nat) (v : Word32) : (s.setReg a v).ctrs = s.ctrs := rfl
@[simp] theorem State.setReg_objs (a : Nat) (v : Word32) : (s.setReg a v).objs = s.objs := rfl
@[simp] theorem State.setReg_dict (a : Nat) (v : Word32) : (s.setReg a v).dict = s.dict := rfl
@[simp] theorem State.setReg_store (a : Nat) (v : Word32) : (s.setReg a v).store = s.store := rfl
@[simp] theorem State.setReg_boot (a : Nat) (v : Word32) : (s.setReg a v).boot = s.boot := rfl
@[simp] theorem State.setReg_evlog (a : Nat) (v : Word32) : (s.setReg a v).evlog = s.evlog := rfl
@[simp] theorem State.setReg_flt (a : Nat) (v : Word32) : (s.setReg a v).flt = s.flt := rfl
@[simp] theorem State.setReg_out (a : Nat) (v : Word32) : (s.setReg a v).out = s.out := rfl

@[simp] theorem State.setRing_pending (r : Nat) (x : Ring) : (s.setRing r x).pending = s.pending := rfl
@[simp] theorem State.setRing_freeCount (r : Nat) (x : Ring) : (s.setRing r x).freeCount = s.freeCount := rfl
@[simp] theorem State.setRing_time (r : Nat) (x : Ring) : (s.setRing r x).time = s.time := rfl
@[simp] theorem State.setRing_phase (r : Nat) (x : Ring) : (s.setRing r x).phase = s.phase := rfl
@[simp] theorem State.setRing_fuses (r : Nat) (x : Ring) : (s.setRing r x).fuses = s.fuses := rfl
@[simp] theorem State.setRing_dsp (r : Nat) (x : Ring) : (s.setRing r x).dsp = s.dsp := rfl
@[simp] theorem State.setRing_cores (r : Nat) (x : Ring) : (s.setRing r x).cores = s.cores := rfl
@[simp] theorem State.setRing_mem (r : Nat) (x : Ring) : (s.setRing r x).mem = s.mem := rfl
@[simp] theorem State.setRing_kv (r : Nat) (x : Ring) : (s.setRing r x).kv = s.kv := rfl
@[simp] theorem State.setRing_fnSlots (r : Nat) (x : Ring) : (s.setRing r x).fnSlots = s.fnSlots := rfl
@[simp] theorem State.setRing_framePools (r : Nat) (x : Ring) : (s.setRing r x).framePools = s.framePools := rfl
@[simp] theorem State.setRing_sec (r : Nat) (x : Ring) : (s.setRing r x).sec = s.sec := rfl
@[simp] theorem State.setRing_pwr (r : Nat) (x : Ring) : (s.setRing r x).pwr = s.pwr := rfl
@[simp] theorem State.setRing_lnk (r : Nat) (x : Ring) : (s.setRing r x).lnk = s.lnk := rfl
@[simp] theorem State.setRing_ing (r : Nat) (x : Ring) : (s.setRing r x).ing = s.ing := rfl
@[simp] theorem State.setRing_vid (r : Nat) (x : Ring) : (s.setRing r x).vid = s.vid := rfl
@[simp] theorem State.setRing_pace (r : Nat) (x : Ring) : (s.setRing r x).pace = s.pace := rfl
@[simp] theorem State.setRing_lines (r : Nat) (x : Ring) : (s.setRing r x).lines = s.lines := rfl
@[simp] theorem State.setRing_regs (r : Nat) (x : Ring) : (s.setRing r x).regs = s.regs := rfl
@[simp] theorem State.setRing_ctrs (r : Nat) (x : Ring) : (s.setRing r x).ctrs = s.ctrs := rfl
@[simp] theorem State.setRing_objs (r : Nat) (x : Ring) : (s.setRing r x).objs = s.objs := rfl
@[simp] theorem State.setRing_dict (r : Nat) (x : Ring) : (s.setRing r x).dict = s.dict := rfl
@[simp] theorem State.setRing_store (r : Nat) (x : Ring) : (s.setRing r x).store = s.store := rfl
@[simp] theorem State.setRing_boot (r : Nat) (x : Ring) : (s.setRing r x).boot = s.boot := rfl
@[simp] theorem State.setRing_evlog (r : Nat) (x : Ring) : (s.setRing r x).evlog = s.evlog := rfl
@[simp] theorem State.setRing_flt (r : Nat) (x : Ring) : (s.setRing r x).flt = s.flt := rfl
@[simp] theorem State.setRing_out (r : Nat) (x : Ring) : (s.setRing r x).out = s.out := rfl
@[simp] theorem State.setRing_hif_fns (r : Nat) (x : Ring) : (s.setRing r x).hif.fns = s.hif.fns := rfl
@[simp] theorem State.setRing_hif_td (r : Nat) (x : Ring) : (s.setRing r x).hif.td = s.hif.td := rfl
@[simp] theorem State.setRing_hif_msix (r : Nat) (x : Ring) : (s.setRing r x).hif.msix = s.hif.msix := rfl
@[simp] theorem State.setRing_hif_notReady (r : Nat) (x : Ring) : (s.setRing r x).hif.notReady = s.hif.notReady := rfl
@[simp] theorem State.setRing_hif_safeMode (r : Nat) (x : Ring) : (s.setRing r x).hif.safeMode = s.hif.safeMode := rfl
@[simp] theorem State.setRing_hif_linkRate (r : Nat) (x : Ring) : (s.setRing r x).hif.linkRate = s.hif.linkRate := rfl
@[simp] theorem State.setRing_hif_linkWidth (r : Nat) (x : Ring) : (s.setRing r x).hif.linkWidth = s.hif.linkWidth := rfl
@[simp] theorem State.setRing_hif_drsSent (r : Nat) (x : Ring) : (s.setRing r x).hif.drsSent = s.hif.drsSent := rfl
@[simp] theorem State.setRing_hif_lastVisited (r : Nat) (x : Ring) : (s.setRing r x).hif.lastVisited = s.hif.lastVisited := rfl
@[simp] theorem State.setRing_hif_shadow (r : Nat) (x : Ring) : (s.setRing r x).hif.shadow = s.hif.shadow := rfl
@[simp] theorem State.setRing_hif_bar4Size (r : Nat) (x : Ring) : (s.setRing r x).hif.bar4Size = s.hif.bar4Size := rfl

@[simp] theorem State.setTd_pending (f : Nat) (x : TdState) : (s.setTd f x).pending = s.pending := rfl
@[simp] theorem State.setTd_freeCount (f : Nat) (x : TdState) : (s.setTd f x).freeCount = s.freeCount := rfl
@[simp] theorem State.setTd_time (f : Nat) (x : TdState) : (s.setTd f x).time = s.time := rfl
@[simp] theorem State.setTd_phase (f : Nat) (x : TdState) : (s.setTd f x).phase = s.phase := rfl
@[simp] theorem State.setTd_fuses (f : Nat) (x : TdState) : (s.setTd f x).fuses = s.fuses := rfl
@[simp] theorem State.setTd_dsp (f : Nat) (x : TdState) : (s.setTd f x).dsp = s.dsp := rfl
@[simp] theorem State.setTd_cores (f : Nat) (x : TdState) : (s.setTd f x).cores = s.cores := rfl
@[simp] theorem State.setTd_mem (f : Nat) (x : TdState) : (s.setTd f x).mem = s.mem := rfl
@[simp] theorem State.setTd_kv (f : Nat) (x : TdState) : (s.setTd f x).kv = s.kv := rfl
@[simp] theorem State.setTd_fnSlots (f : Nat) (x : TdState) : (s.setTd f x).fnSlots = s.fnSlots := rfl
@[simp] theorem State.setTd_framePools (f : Nat) (x : TdState) : (s.setTd f x).framePools = s.framePools := rfl
@[simp] theorem State.setTd_sec (f : Nat) (x : TdState) : (s.setTd f x).sec = s.sec := rfl
@[simp] theorem State.setTd_pwr (f : Nat) (x : TdState) : (s.setTd f x).pwr = s.pwr := rfl
@[simp] theorem State.setTd_lnk (f : Nat) (x : TdState) : (s.setTd f x).lnk = s.lnk := rfl
@[simp] theorem State.setTd_ing (f : Nat) (x : TdState) : (s.setTd f x).ing = s.ing := rfl
@[simp] theorem State.setTd_vid (f : Nat) (x : TdState) : (s.setTd f x).vid = s.vid := rfl
@[simp] theorem State.setTd_pace (f : Nat) (x : TdState) : (s.setTd f x).pace = s.pace := rfl
@[simp] theorem State.setTd_lines (f : Nat) (x : TdState) : (s.setTd f x).lines = s.lines := rfl
@[simp] theorem State.setTd_regs (f : Nat) (x : TdState) : (s.setTd f x).regs = s.regs := rfl
@[simp] theorem State.setTd_ctrs (f : Nat) (x : TdState) : (s.setTd f x).ctrs = s.ctrs := rfl
@[simp] theorem State.setTd_objs (f : Nat) (x : TdState) : (s.setTd f x).objs = s.objs := rfl
@[simp] theorem State.setTd_dict (f : Nat) (x : TdState) : (s.setTd f x).dict = s.dict := rfl
@[simp] theorem State.setTd_store (f : Nat) (x : TdState) : (s.setTd f x).store = s.store := rfl
@[simp] theorem State.setTd_boot (f : Nat) (x : TdState) : (s.setTd f x).boot = s.boot := rfl
@[simp] theorem State.setTd_evlog (f : Nat) (x : TdState) : (s.setTd f x).evlog = s.evlog := rfl
@[simp] theorem State.setTd_flt (f : Nat) (x : TdState) : (s.setTd f x).flt = s.flt := rfl
@[simp] theorem State.setTd_out (f : Nat) (x : TdState) : (s.setTd f x).out = s.out := rfl
@[simp] theorem State.setTd_hif_rings (f : Nat) (x : TdState) : (s.setTd f x).hif.rings = s.hif.rings := rfl
@[simp] theorem State.setTd_hif_fns (f : Nat) (x : TdState) : (s.setTd f x).hif.fns = s.hif.fns := rfl
@[simp] theorem State.setTd_hif_msix (f : Nat) (x : TdState) : (s.setTd f x).hif.msix = s.hif.msix := rfl
@[simp] theorem State.setTd_hif_notReady (f : Nat) (x : TdState) : (s.setTd f x).hif.notReady = s.hif.notReady := rfl
@[simp] theorem State.setTd_hif_safeMode (f : Nat) (x : TdState) : (s.setTd f x).hif.safeMode = s.hif.safeMode := rfl
@[simp] theorem State.setTd_hif_linkRate (f : Nat) (x : TdState) : (s.setTd f x).hif.linkRate = s.hif.linkRate := rfl
@[simp] theorem State.setTd_hif_linkWidth (f : Nat) (x : TdState) : (s.setTd f x).hif.linkWidth = s.hif.linkWidth := rfl
@[simp] theorem State.setTd_hif_drsSent (f : Nat) (x : TdState) : (s.setTd f x).hif.drsSent = s.hif.drsSent := rfl
@[simp] theorem State.setTd_hif_lastVisited (f : Nat) (x : TdState) : (s.setTd f x).hif.lastVisited = s.hif.lastVisited := rfl
@[simp] theorem State.setTd_hif_shadow (f : Nat) (x : TdState) : (s.setTd f x).hif.shadow = s.hif.shadow := rfl
@[simp] theorem State.setTd_hif_bar4Size (f : Nat) (x : TdState) : (s.setTd f x).hif.bar4Size = s.hif.bar4Size := rfl

@[simp] theorem State.setStage_pending (n : Nat) (x : Stage) : (s.setStage n x).pending = s.pending := rfl
@[simp] theorem State.setStage_freeCount (n : Nat) (x : Stage) : (s.setStage n x).freeCount = s.freeCount := rfl
@[simp] theorem State.setStage_time (n : Nat) (x : Stage) : (s.setStage n x).time = s.time := rfl
@[simp] theorem State.setStage_phase (n : Nat) (x : Stage) : (s.setStage n x).phase = s.phase := rfl
@[simp] theorem State.setStage_fuses (n : Nat) (x : Stage) : (s.setStage n x).fuses = s.fuses := rfl
@[simp] theorem State.setStage_hif (n : Nat) (x : Stage) : (s.setStage n x).hif = s.hif := rfl
@[simp] theorem State.setStage_cores (n : Nat) (x : Stage) : (s.setStage n x).cores = s.cores := rfl
@[simp] theorem State.setStage_mem (n : Nat) (x : Stage) : (s.setStage n x).mem = s.mem := rfl
@[simp] theorem State.setStage_kv (n : Nat) (x : Stage) : (s.setStage n x).kv = s.kv := rfl
@[simp] theorem State.setStage_fnSlots (n : Nat) (x : Stage) : (s.setStage n x).fnSlots = s.fnSlots := rfl
@[simp] theorem State.setStage_framePools (n : Nat) (x : Stage) : (s.setStage n x).framePools = s.framePools := rfl
@[simp] theorem State.setStage_sec (n : Nat) (x : Stage) : (s.setStage n x).sec = s.sec := rfl
@[simp] theorem State.setStage_pwr (n : Nat) (x : Stage) : (s.setStage n x).pwr = s.pwr := rfl
@[simp] theorem State.setStage_lnk (n : Nat) (x : Stage) : (s.setStage n x).lnk = s.lnk := rfl
@[simp] theorem State.setStage_ing (n : Nat) (x : Stage) : (s.setStage n x).ing = s.ing := rfl
@[simp] theorem State.setStage_vid (n : Nat) (x : Stage) : (s.setStage n x).vid = s.vid := rfl
@[simp] theorem State.setStage_pace (n : Nat) (x : Stage) : (s.setStage n x).pace = s.pace := rfl
@[simp] theorem State.setStage_lines (n : Nat) (x : Stage) : (s.setStage n x).lines = s.lines := rfl
@[simp] theorem State.setStage_regs (n : Nat) (x : Stage) : (s.setStage n x).regs = s.regs := rfl
@[simp] theorem State.setStage_ctrs (n : Nat) (x : Stage) : (s.setStage n x).ctrs = s.ctrs := rfl
@[simp] theorem State.setStage_objs (n : Nat) (x : Stage) : (s.setStage n x).objs = s.objs := rfl
@[simp] theorem State.setStage_dict (n : Nat) (x : Stage) : (s.setStage n x).dict = s.dict := rfl
@[simp] theorem State.setStage_store (n : Nat) (x : Stage) : (s.setStage n x).store = s.store := rfl
@[simp] theorem State.setStage_boot (n : Nat) (x : Stage) : (s.setStage n x).boot = s.boot := rfl
@[simp] theorem State.setStage_evlog (n : Nat) (x : Stage) : (s.setStage n x).evlog = s.evlog := rfl
@[simp] theorem State.setStage_flt (n : Nat) (x : Stage) : (s.setStage n x).flt = s.flt := rfl
@[simp] theorem State.setStage_out (n : Nat) (x : Stage) : (s.setStage n x).out = s.out := rfl
@[simp] theorem State.setStage_dsp_admCount (n : Nat) (x : Stage) : (s.setStage n x).dsp.admCount = s.dsp.admCount := rfl
@[simp] theorem State.setStage_dsp_sets (n : Nat) (x : Stage) : (s.setStage n x).dsp.sets = s.dsp.sets := rfl
@[simp] theorem State.setStage_dsp_barriers (n : Nat) (x : Stage) : (s.setStage n x).dsp.barriers = s.dsp.barriers := rfl

@[simp] theorem State.setCore_pending (c : Nat) (x : Core) : (s.setCore c x).pending = s.pending := rfl
@[simp] theorem State.setCore_freeCount (c : Nat) (x : Core) : (s.setCore c x).freeCount = s.freeCount := rfl
@[simp] theorem State.setCore_time (c : Nat) (x : Core) : (s.setCore c x).time = s.time := rfl
@[simp] theorem State.setCore_phase (c : Nat) (x : Core) : (s.setCore c x).phase = s.phase := rfl
@[simp] theorem State.setCore_fuses (c : Nat) (x : Core) : (s.setCore c x).fuses = s.fuses := rfl
@[simp] theorem State.setCore_hif (c : Nat) (x : Core) : (s.setCore c x).hif = s.hif := rfl
@[simp] theorem State.setCore_dsp (c : Nat) (x : Core) : (s.setCore c x).dsp = s.dsp := rfl
@[simp] theorem State.setCore_mem (c : Nat) (x : Core) : (s.setCore c x).mem = s.mem := rfl
@[simp] theorem State.setCore_kv (c : Nat) (x : Core) : (s.setCore c x).kv = s.kv := rfl
@[simp] theorem State.setCore_fnSlots (c : Nat) (x : Core) : (s.setCore c x).fnSlots = s.fnSlots := rfl
@[simp] theorem State.setCore_framePools (c : Nat) (x : Core) : (s.setCore c x).framePools = s.framePools := rfl
@[simp] theorem State.setCore_sec (c : Nat) (x : Core) : (s.setCore c x).sec = s.sec := rfl
@[simp] theorem State.setCore_pwr (c : Nat) (x : Core) : (s.setCore c x).pwr = s.pwr := rfl
@[simp] theorem State.setCore_lnk (c : Nat) (x : Core) : (s.setCore c x).lnk = s.lnk := rfl
@[simp] theorem State.setCore_ing (c : Nat) (x : Core) : (s.setCore c x).ing = s.ing := rfl
@[simp] theorem State.setCore_vid (c : Nat) (x : Core) : (s.setCore c x).vid = s.vid := rfl
@[simp] theorem State.setCore_pace (c : Nat) (x : Core) : (s.setCore c x).pace = s.pace := rfl
@[simp] theorem State.setCore_lines (c : Nat) (x : Core) : (s.setCore c x).lines = s.lines := rfl
@[simp] theorem State.setCore_regs (c : Nat) (x : Core) : (s.setCore c x).regs = s.regs := rfl
@[simp] theorem State.setCore_ctrs (c : Nat) (x : Core) : (s.setCore c x).ctrs = s.ctrs := rfl
@[simp] theorem State.setCore_objs (c : Nat) (x : Core) : (s.setCore c x).objs = s.objs := rfl
@[simp] theorem State.setCore_dict (c : Nat) (x : Core) : (s.setCore c x).dict = s.dict := rfl
@[simp] theorem State.setCore_store (c : Nat) (x : Core) : (s.setCore c x).store = s.store := rfl
@[simp] theorem State.setCore_boot (c : Nat) (x : Core) : (s.setCore c x).boot = s.boot := rfl
@[simp] theorem State.setCore_evlog (c : Nat) (x : Core) : (s.setCore c x).evlog = s.evlog := rfl
@[simp] theorem State.setCore_flt (c : Nat) (x : Core) : (s.setCore c x).flt = s.flt := rfl
@[simp] theorem State.setCore_out (c : Nat) (x : Core) : (s.setCore c x).out = s.out := rfl
@[simp] theorem State.setCore_cores_placeOrder (c : Nat) (x : Core) : (s.setCore c x).cores.placeOrder = s.cores.placeOrder := rfl
@[simp] theorem State.setCore_cores_susOrder (c : Nat) (x : Core) : (s.setCore c x).cores.susOrder = s.cores.susOrder := rfl

@[simp] theorem State.setUnit_pending (u : Nat) (x : MemUnit) : (s.setUnit u x).pending = s.pending := rfl
@[simp] theorem State.setUnit_freeCount (u : Nat) (x : MemUnit) : (s.setUnit u x).freeCount = s.freeCount := rfl
@[simp] theorem State.setUnit_time (u : Nat) (x : MemUnit) : (s.setUnit u x).time = s.time := rfl
@[simp] theorem State.setUnit_phase (u : Nat) (x : MemUnit) : (s.setUnit u x).phase = s.phase := rfl
@[simp] theorem State.setUnit_fuses (u : Nat) (x : MemUnit) : (s.setUnit u x).fuses = s.fuses := rfl
@[simp] theorem State.setUnit_hif (u : Nat) (x : MemUnit) : (s.setUnit u x).hif = s.hif := rfl
@[simp] theorem State.setUnit_dsp (u : Nat) (x : MemUnit) : (s.setUnit u x).dsp = s.dsp := rfl
@[simp] theorem State.setUnit_cores (u : Nat) (x : MemUnit) : (s.setUnit u x).cores = s.cores := rfl
@[simp] theorem State.setUnit_kv (u : Nat) (x : MemUnit) : (s.setUnit u x).kv = s.kv := rfl
@[simp] theorem State.setUnit_fnSlots (u : Nat) (x : MemUnit) : (s.setUnit u x).fnSlots = s.fnSlots := rfl
@[simp] theorem State.setUnit_framePools (u : Nat) (x : MemUnit) : (s.setUnit u x).framePools = s.framePools := rfl
@[simp] theorem State.setUnit_sec (u : Nat) (x : MemUnit) : (s.setUnit u x).sec = s.sec := rfl
@[simp] theorem State.setUnit_pwr (u : Nat) (x : MemUnit) : (s.setUnit u x).pwr = s.pwr := rfl
@[simp] theorem State.setUnit_lnk (u : Nat) (x : MemUnit) : (s.setUnit u x).lnk = s.lnk := rfl
@[simp] theorem State.setUnit_ing (u : Nat) (x : MemUnit) : (s.setUnit u x).ing = s.ing := rfl
@[simp] theorem State.setUnit_vid (u : Nat) (x : MemUnit) : (s.setUnit u x).vid = s.vid := rfl
@[simp] theorem State.setUnit_pace (u : Nat) (x : MemUnit) : (s.setUnit u x).pace = s.pace := rfl
@[simp] theorem State.setUnit_lines (u : Nat) (x : MemUnit) : (s.setUnit u x).lines = s.lines := rfl
@[simp] theorem State.setUnit_regs (u : Nat) (x : MemUnit) : (s.setUnit u x).regs = s.regs := rfl
@[simp] theorem State.setUnit_ctrs (u : Nat) (x : MemUnit) : (s.setUnit u x).ctrs = s.ctrs := rfl
@[simp] theorem State.setUnit_objs (u : Nat) (x : MemUnit) : (s.setUnit u x).objs = s.objs := rfl
@[simp] theorem State.setUnit_dict (u : Nat) (x : MemUnit) : (s.setUnit u x).dict = s.dict := rfl
@[simp] theorem State.setUnit_store (u : Nat) (x : MemUnit) : (s.setUnit u x).store = s.store := rfl
@[simp] theorem State.setUnit_boot (u : Nat) (x : MemUnit) : (s.setUnit u x).boot = s.boot := rfl
@[simp] theorem State.setUnit_evlog (u : Nat) (x : MemUnit) : (s.setUnit u x).evlog = s.evlog := rfl
@[simp] theorem State.setUnit_flt (u : Nat) (x : MemUnit) : (s.setUnit u x).flt = s.flt := rfl
@[simp] theorem State.setUnit_out (u : Nat) (x : MemUnit) : (s.setUnit u x).out = s.out := rfl
@[simp] theorem State.setUnit_mem_cells (u : Nat) (x : MemUnit) : (s.setUnit u x).mem.cells = s.mem.cells := rfl
@[simp] theorem State.setUnit_mem_lines (u : Nat) (x : MemUnit) : (s.setUnit u x).mem.lines = s.mem.lines := rfl
@[simp] theorem State.setUnit_mem_poison (u : Nat) (x : MemUnit) : (s.setUnit u x).mem.poison = s.mem.poison := rfl
@[simp] theorem State.setUnit_mem_waiting (u : Nat) (x : MemUnit) : (s.setUnit u x).mem.waiting = s.mem.waiting := rfl
@[simp] theorem State.setUnit_mem_inService (u : Nat) (x : MemUnit) : (s.setUnit u x).mem.inService = s.mem.inService := rfl
@[simp] theorem State.setUnit_mem_ceSecond (u : Nat) (x : MemUnit) : (s.setUnit u x).mem.ceSecond = s.mem.ceSecond := rfl
@[simp] theorem State.setUnit_mem_ceLimit (u : Nat) (x : MemUnit) : (s.setUnit u x).mem.ceLimit = s.mem.ceLimit := rfl
@[simp] theorem State.setUnit_mem_ceRate (u : Nat) (x : MemUnit) : (s.setUnit u x).mem.ceRate = s.mem.ceRate := rfl
@[simp] theorem State.setUnit_mem_hostBad (u : Nat) (x : MemUnit) : (s.setUnit u x).mem.hostBad = s.mem.hostBad := rfl
@[simp] theorem State.setUnit_mem_spillBase (u : Nat) (x : MemUnit) : (s.setUnit u x).mem.spillBase = s.mem.spillBase := rfl
@[simp] theorem State.setUnit_mem_windrowMib (u : Nat) (x : MemUnit) : (s.setUnit u x).mem.windrowMib = s.mem.windrowMib := rfl
@[simp] theorem State.setUnit_mem_windrowSecureMib (u : Nat) (x : MemUnit) : (s.setUnit u x).mem.windrowSecureMib = s.mem.windrowSecureMib := rfl
@[simp] theorem State.setUnit_mem_g7Density (u : Nat) (x : MemUnit) : (s.setUnit u x).mem.g7Density = s.mem.g7Density := rfl
@[simp] theorem State.setUnit_mem_g7Rate (u : Nat) (x : MemUnit) : (s.setUnit u x).mem.g7Rate = s.mem.g7Rate := rfl

@[simp] theorem State.setRegion_pending (i : Nat) (x : Region) : (s.setRegion i x).pending = s.pending := rfl
@[simp] theorem State.setRegion_freeCount (i : Nat) (x : Region) : (s.setRegion i x).freeCount = s.freeCount := rfl
@[simp] theorem State.setRegion_time (i : Nat) (x : Region) : (s.setRegion i x).time = s.time := rfl
@[simp] theorem State.setRegion_phase (i : Nat) (x : Region) : (s.setRegion i x).phase = s.phase := rfl
@[simp] theorem State.setRegion_fuses (i : Nat) (x : Region) : (s.setRegion i x).fuses = s.fuses := rfl
@[simp] theorem State.setRegion_hif (i : Nat) (x : Region) : (s.setRegion i x).hif = s.hif := rfl
@[simp] theorem State.setRegion_dsp (i : Nat) (x : Region) : (s.setRegion i x).dsp = s.dsp := rfl
@[simp] theorem State.setRegion_cores (i : Nat) (x : Region) : (s.setRegion i x).cores = s.cores := rfl
@[simp] theorem State.setRegion_mem (i : Nat) (x : Region) : (s.setRegion i x).mem = s.mem := rfl
@[simp] theorem State.setRegion_kv (i : Nat) (x : Region) : (s.setRegion i x).kv = s.kv := rfl
@[simp] theorem State.setRegion_fnSlots (i : Nat) (x : Region) : (s.setRegion i x).fnSlots = s.fnSlots := rfl
@[simp] theorem State.setRegion_framePools (i : Nat) (x : Region) : (s.setRegion i x).framePools = s.framePools := rfl
@[simp] theorem State.setRegion_pwr (i : Nat) (x : Region) : (s.setRegion i x).pwr = s.pwr := rfl
@[simp] theorem State.setRegion_lnk (i : Nat) (x : Region) : (s.setRegion i x).lnk = s.lnk := rfl
@[simp] theorem State.setRegion_ing (i : Nat) (x : Region) : (s.setRegion i x).ing = s.ing := rfl
@[simp] theorem State.setRegion_vid (i : Nat) (x : Region) : (s.setRegion i x).vid = s.vid := rfl
@[simp] theorem State.setRegion_pace (i : Nat) (x : Region) : (s.setRegion i x).pace = s.pace := rfl
@[simp] theorem State.setRegion_lines (i : Nat) (x : Region) : (s.setRegion i x).lines = s.lines := rfl
@[simp] theorem State.setRegion_regs (i : Nat) (x : Region) : (s.setRegion i x).regs = s.regs := rfl
@[simp] theorem State.setRegion_ctrs (i : Nat) (x : Region) : (s.setRegion i x).ctrs = s.ctrs := rfl
@[simp] theorem State.setRegion_objs (i : Nat) (x : Region) : (s.setRegion i x).objs = s.objs := rfl
@[simp] theorem State.setRegion_dict (i : Nat) (x : Region) : (s.setRegion i x).dict = s.dict := rfl
@[simp] theorem State.setRegion_store (i : Nat) (x : Region) : (s.setRegion i x).store = s.store := rfl
@[simp] theorem State.setRegion_boot (i : Nat) (x : Region) : (s.setRegion i x).boot = s.boot := rfl
@[simp] theorem State.setRegion_evlog (i : Nat) (x : Region) : (s.setRegion i x).evlog = s.evlog := rfl
@[simp] theorem State.setRegion_flt (i : Nat) (x : Region) : (s.setRegion i x).flt = s.flt := rfl
@[simp] theorem State.setRegion_out (i : Nat) (x : Region) : (s.setRegion i x).out = s.out := rfl
@[simp] theorem State.setRegion_sec_regionErr (i : Nat) (x : Region) : (s.setRegion i x).sec.regionErr = s.sec.regionErr := rfl
@[simp] theorem State.setRegion_sec_entropyFail (i : Nat) (x : Region) : (s.setRegion i x).sec.entropyFail = s.sec.entropyFail := rfl
@[simp] theorem State.setRegion_sec_sealFail (i : Nat) (x : Region) : (s.setRegion i x).sec.sealFail = s.sec.sealFail := rfl
@[simp] theorem State.setRegion_sec_sessions (i : Nat) (x : Region) : (s.setRegion i x).sec.sessions = s.sec.sessions := rfl
@[simp] theorem State.setRegion_sec_chunkIn (i : Nat) (x : Region) : (s.setRegion i x).sec.chunkIn = s.sec.chunkIn := rfl
@[simp] theorem State.setRegion_sec_chunkOut (i : Nat) (x : Region) : (s.setRegion i x).sec.chunkOut = s.sec.chunkOut := rfl
@[simp] theorem State.setRegion_sec_ide (i : Nat) (x : Region) : (s.setRegion i x).sec.ide = s.sec.ide := rfl
@[simp] theorem State.setRegion_sec_memKeyGen (i : Nat) (x : Region) : (s.setRegion i x).sec.memKeyGen = s.sec.memKeyGen := rfl
@[simp] theorem State.setRegion_sec_denials (i : Nat) (x : Region) : (s.setRegion i x).sec.denials = s.sec.denials := rfl

@[simp] theorem State.setSession_pending (n : Nat) (x : Session) : (s.setSession n x).pending = s.pending := rfl
@[simp] theorem State.setSession_freeCount (n : Nat) (x : Session) : (s.setSession n x).freeCount = s.freeCount := rfl
@[simp] theorem State.setSession_time (n : Nat) (x : Session) : (s.setSession n x).time = s.time := rfl
@[simp] theorem State.setSession_phase (n : Nat) (x : Session) : (s.setSession n x).phase = s.phase := rfl
@[simp] theorem State.setSession_fuses (n : Nat) (x : Session) : (s.setSession n x).fuses = s.fuses := rfl
@[simp] theorem State.setSession_hif (n : Nat) (x : Session) : (s.setSession n x).hif = s.hif := rfl
@[simp] theorem State.setSession_dsp (n : Nat) (x : Session) : (s.setSession n x).dsp = s.dsp := rfl
@[simp] theorem State.setSession_cores (n : Nat) (x : Session) : (s.setSession n x).cores = s.cores := rfl
@[simp] theorem State.setSession_mem (n : Nat) (x : Session) : (s.setSession n x).mem = s.mem := rfl
@[simp] theorem State.setSession_kv (n : Nat) (x : Session) : (s.setSession n x).kv = s.kv := rfl
@[simp] theorem State.setSession_fnSlots (n : Nat) (x : Session) : (s.setSession n x).fnSlots = s.fnSlots := rfl
@[simp] theorem State.setSession_framePools (n : Nat) (x : Session) : (s.setSession n x).framePools = s.framePools := rfl
@[simp] theorem State.setSession_pwr (n : Nat) (x : Session) : (s.setSession n x).pwr = s.pwr := rfl
@[simp] theorem State.setSession_lnk (n : Nat) (x : Session) : (s.setSession n x).lnk = s.lnk := rfl
@[simp] theorem State.setSession_ing (n : Nat) (x : Session) : (s.setSession n x).ing = s.ing := rfl
@[simp] theorem State.setSession_vid (n : Nat) (x : Session) : (s.setSession n x).vid = s.vid := rfl
@[simp] theorem State.setSession_pace (n : Nat) (x : Session) : (s.setSession n x).pace = s.pace := rfl
@[simp] theorem State.setSession_lines (n : Nat) (x : Session) : (s.setSession n x).lines = s.lines := rfl
@[simp] theorem State.setSession_regs (n : Nat) (x : Session) : (s.setSession n x).regs = s.regs := rfl
@[simp] theorem State.setSession_ctrs (n : Nat) (x : Session) : (s.setSession n x).ctrs = s.ctrs := rfl
@[simp] theorem State.setSession_objs (n : Nat) (x : Session) : (s.setSession n x).objs = s.objs := rfl
@[simp] theorem State.setSession_dict (n : Nat) (x : Session) : (s.setSession n x).dict = s.dict := rfl
@[simp] theorem State.setSession_store (n : Nat) (x : Session) : (s.setSession n x).store = s.store := rfl
@[simp] theorem State.setSession_boot (n : Nat) (x : Session) : (s.setSession n x).boot = s.boot := rfl
@[simp] theorem State.setSession_evlog (n : Nat) (x : Session) : (s.setSession n x).evlog = s.evlog := rfl
@[simp] theorem State.setSession_flt (n : Nat) (x : Session) : (s.setSession n x).flt = s.flt := rfl
@[simp] theorem State.setSession_out (n : Nat) (x : Session) : (s.setSession n x).out = s.out := rfl
@[simp] theorem State.setSession_sec_regions (n : Nat) (x : Session) : (s.setSession n x).sec.regions = s.sec.regions := rfl
@[simp] theorem State.setSession_sec_regionErr (n : Nat) (x : Session) : (s.setSession n x).sec.regionErr = s.sec.regionErr := rfl
@[simp] theorem State.setSession_sec_entropyFail (n : Nat) (x : Session) : (s.setSession n x).sec.entropyFail = s.sec.entropyFail := rfl
@[simp] theorem State.setSession_sec_sealFail (n : Nat) (x : Session) : (s.setSession n x).sec.sealFail = s.sec.sealFail := rfl
@[simp] theorem State.setSession_sec_chunkIn (n : Nat) (x : Session) : (s.setSession n x).sec.chunkIn = s.sec.chunkIn := rfl
@[simp] theorem State.setSession_sec_chunkOut (n : Nat) (x : Session) : (s.setSession n x).sec.chunkOut = s.sec.chunkOut := rfl
@[simp] theorem State.setSession_sec_ide (n : Nat) (x : Session) : (s.setSession n x).sec.ide = s.sec.ide := rfl
@[simp] theorem State.setSession_sec_memKeyGen (n : Nat) (x : Session) : (s.setSession n x).sec.memKeyGen = s.sec.memKeyGen := rfl
@[simp] theorem State.setSession_sec_denials (n : Nat) (x : Session) : (s.setSession n x).sec.denials = s.sec.denials := rfl

@[simp] theorem State.setPort_pending (p : Nat) (x : Port) : (s.setPort p x).pending = s.pending := rfl
@[simp] theorem State.setPort_freeCount (p : Nat) (x : Port) : (s.setPort p x).freeCount = s.freeCount := rfl
@[simp] theorem State.setPort_time (p : Nat) (x : Port) : (s.setPort p x).time = s.time := rfl
@[simp] theorem State.setPort_phase (p : Nat) (x : Port) : (s.setPort p x).phase = s.phase := rfl
@[simp] theorem State.setPort_fuses (p : Nat) (x : Port) : (s.setPort p x).fuses = s.fuses := rfl
@[simp] theorem State.setPort_hif (p : Nat) (x : Port) : (s.setPort p x).hif = s.hif := rfl
@[simp] theorem State.setPort_dsp (p : Nat) (x : Port) : (s.setPort p x).dsp = s.dsp := rfl
@[simp] theorem State.setPort_cores (p : Nat) (x : Port) : (s.setPort p x).cores = s.cores := rfl
@[simp] theorem State.setPort_mem (p : Nat) (x : Port) : (s.setPort p x).mem = s.mem := rfl
@[simp] theorem State.setPort_kv (p : Nat) (x : Port) : (s.setPort p x).kv = s.kv := rfl
@[simp] theorem State.setPort_fnSlots (p : Nat) (x : Port) : (s.setPort p x).fnSlots = s.fnSlots := rfl
@[simp] theorem State.setPort_framePools (p : Nat) (x : Port) : (s.setPort p x).framePools = s.framePools := rfl
@[simp] theorem State.setPort_sec (p : Nat) (x : Port) : (s.setPort p x).sec = s.sec := rfl
@[simp] theorem State.setPort_pwr (p : Nat) (x : Port) : (s.setPort p x).pwr = s.pwr := rfl
@[simp] theorem State.setPort_ing (p : Nat) (x : Port) : (s.setPort p x).ing = s.ing := rfl
@[simp] theorem State.setPort_vid (p : Nat) (x : Port) : (s.setPort p x).vid = s.vid := rfl
@[simp] theorem State.setPort_pace (p : Nat) (x : Port) : (s.setPort p x).pace = s.pace := rfl
@[simp] theorem State.setPort_lines (p : Nat) (x : Port) : (s.setPort p x).lines = s.lines := rfl
@[simp] theorem State.setPort_regs (p : Nat) (x : Port) : (s.setPort p x).regs = s.regs := rfl
@[simp] theorem State.setPort_ctrs (p : Nat) (x : Port) : (s.setPort p x).ctrs = s.ctrs := rfl
@[simp] theorem State.setPort_objs (p : Nat) (x : Port) : (s.setPort p x).objs = s.objs := rfl
@[simp] theorem State.setPort_dict (p : Nat) (x : Port) : (s.setPort p x).dict = s.dict := rfl
@[simp] theorem State.setPort_store (p : Nat) (x : Port) : (s.setPort p x).store = s.store := rfl
@[simp] theorem State.setPort_boot (p : Nat) (x : Port) : (s.setPort p x).boot = s.boot := rfl
@[simp] theorem State.setPort_evlog (p : Nat) (x : Port) : (s.setPort p x).evlog = s.evlog := rfl
@[simp] theorem State.setPort_flt (p : Nat) (x : Port) : (s.setPort p x).flt = s.flt := rfl
@[simp] theorem State.setPort_out (p : Nat) (x : Port) : (s.setPort p x).out = s.out := rfl
@[simp] theorem State.setPort_lnk_peers (p : Nat) (x : Port) : (s.setPort p x).lnk.peers = s.lnk.peers := rfl
@[simp] theorem State.setPort_lnk_windows (p : Nat) (x : Port) : (s.setPort p x).lnk.windows = s.lnk.windows := rfl
@[simp] theorem State.setPort_lnk_winWait (p : Nat) (x : Port) : (s.setPort p x).lnk.winWait = s.lnk.winWait := rfl
@[simp] theorem State.setPort_lnk_outWins (p : Nat) (x : Port) : (s.setPort p x).lnk.outWins = s.lnk.outWins := rfl
@[simp] theorem State.setPort_lnk_held (p : Nat) (x : Port) : (s.setPort p x).lnk.held = s.lnk.held := rfl
@[simp] theorem State.setPort_lnk_early (p : Nat) (x : Port) : (s.setPort p x).lnk.early = s.lnk.early := rfl
@[simp] theorem State.setPort_lnk_copies (p : Nat) (x : Port) : (s.setPort p x).lnk.copies = s.lnk.copies := rfl
@[simp] theorem State.setPort_lnk_colls (p : Nat) (x : Port) : (s.setPort p x).lnk.colls = s.lnk.colls := rfl
@[simp] theorem State.setPort_lnk_lasers (p : Nat) (x : Port) : (s.setPort p x).lnk.lasers = s.lnk.lasers := rfl
@[simp] theorem State.setPort_lnk_devid (p : Nat) (x : Port) : (s.setPort p x).lnk.devid = s.lnk.devid := rfl
@[simp] theorem State.setPort_lnk_domain (p : Nat) (x : Port) : (s.setPort p x).lnk.domain = s.lnk.domain := rfl
@[simp] theorem State.setPort_lnk_tpos (p : Nat) (x : Port) : (s.setPort p x).lnk.tpos = s.lnk.tpos := rfl
@[simp] theorem State.setPort_lnk_dupDevid (p : Nat) (x : Port) : (s.setPort p x).lnk.dupDevid = s.lnk.dupDevid := rfl
@[simp] theorem State.setPort_lnk_slew (p : Nat) (x : Port) : (s.setPort p x).lnk.slew = s.lnk.slew := rfl
@[simp] theorem State.setPort_lnk_slewPhase (p : Nat) (x : Port) : (s.setPort p x).lnk.slewPhase = s.lnk.slewPhase := rfl
@[simp] theorem State.setPort_lnk_nextTag (p : Nat) (x : Port) : (s.setPort p x).lnk.nextTag = s.lnk.nextTag := rfl

@[simp] theorem State.setPeer_pending (d : Nat) (x : Peer) : (s.setPeer d x).pending = s.pending := rfl
@[simp] theorem State.setPeer_freeCount (d : Nat) (x : Peer) : (s.setPeer d x).freeCount = s.freeCount := rfl
@[simp] theorem State.setPeer_time (d : Nat) (x : Peer) : (s.setPeer d x).time = s.time := rfl
@[simp] theorem State.setPeer_phase (d : Nat) (x : Peer) : (s.setPeer d x).phase = s.phase := rfl
@[simp] theorem State.setPeer_fuses (d : Nat) (x : Peer) : (s.setPeer d x).fuses = s.fuses := rfl
@[simp] theorem State.setPeer_hif (d : Nat) (x : Peer) : (s.setPeer d x).hif = s.hif := rfl
@[simp] theorem State.setPeer_dsp (d : Nat) (x : Peer) : (s.setPeer d x).dsp = s.dsp := rfl
@[simp] theorem State.setPeer_cores (d : Nat) (x : Peer) : (s.setPeer d x).cores = s.cores := rfl
@[simp] theorem State.setPeer_mem (d : Nat) (x : Peer) : (s.setPeer d x).mem = s.mem := rfl
@[simp] theorem State.setPeer_kv (d : Nat) (x : Peer) : (s.setPeer d x).kv = s.kv := rfl
@[simp] theorem State.setPeer_fnSlots (d : Nat) (x : Peer) : (s.setPeer d x).fnSlots = s.fnSlots := rfl
@[simp] theorem State.setPeer_framePools (d : Nat) (x : Peer) : (s.setPeer d x).framePools = s.framePools := rfl
@[simp] theorem State.setPeer_sec (d : Nat) (x : Peer) : (s.setPeer d x).sec = s.sec := rfl
@[simp] theorem State.setPeer_pwr (d : Nat) (x : Peer) : (s.setPeer d x).pwr = s.pwr := rfl
@[simp] theorem State.setPeer_ing (d : Nat) (x : Peer) : (s.setPeer d x).ing = s.ing := rfl
@[simp] theorem State.setPeer_vid (d : Nat) (x : Peer) : (s.setPeer d x).vid = s.vid := rfl
@[simp] theorem State.setPeer_pace (d : Nat) (x : Peer) : (s.setPeer d x).pace = s.pace := rfl
@[simp] theorem State.setPeer_lines (d : Nat) (x : Peer) : (s.setPeer d x).lines = s.lines := rfl
@[simp] theorem State.setPeer_regs (d : Nat) (x : Peer) : (s.setPeer d x).regs = s.regs := rfl
@[simp] theorem State.setPeer_ctrs (d : Nat) (x : Peer) : (s.setPeer d x).ctrs = s.ctrs := rfl
@[simp] theorem State.setPeer_objs (d : Nat) (x : Peer) : (s.setPeer d x).objs = s.objs := rfl
@[simp] theorem State.setPeer_dict (d : Nat) (x : Peer) : (s.setPeer d x).dict = s.dict := rfl
@[simp] theorem State.setPeer_store (d : Nat) (x : Peer) : (s.setPeer d x).store = s.store := rfl
@[simp] theorem State.setPeer_boot (d : Nat) (x : Peer) : (s.setPeer d x).boot = s.boot := rfl
@[simp] theorem State.setPeer_evlog (d : Nat) (x : Peer) : (s.setPeer d x).evlog = s.evlog := rfl
@[simp] theorem State.setPeer_flt (d : Nat) (x : Peer) : (s.setPeer d x).flt = s.flt := rfl
@[simp] theorem State.setPeer_out (d : Nat) (x : Peer) : (s.setPeer d x).out = s.out := rfl
@[simp] theorem State.setPeer_lnk_ports (d : Nat) (x : Peer) : (s.setPeer d x).lnk.ports = s.lnk.ports := rfl
@[simp] theorem State.setPeer_lnk_windows (d : Nat) (x : Peer) : (s.setPeer d x).lnk.windows = s.lnk.windows := rfl
@[simp] theorem State.setPeer_lnk_winWait (d : Nat) (x : Peer) : (s.setPeer d x).lnk.winWait = s.lnk.winWait := rfl
@[simp] theorem State.setPeer_lnk_outWins (d : Nat) (x : Peer) : (s.setPeer d x).lnk.outWins = s.lnk.outWins := rfl
@[simp] theorem State.setPeer_lnk_held (d : Nat) (x : Peer) : (s.setPeer d x).lnk.held = s.lnk.held := rfl
@[simp] theorem State.setPeer_lnk_early (d : Nat) (x : Peer) : (s.setPeer d x).lnk.early = s.lnk.early := rfl
@[simp] theorem State.setPeer_lnk_copies (d : Nat) (x : Peer) : (s.setPeer d x).lnk.copies = s.lnk.copies := rfl
@[simp] theorem State.setPeer_lnk_colls (d : Nat) (x : Peer) : (s.setPeer d x).lnk.colls = s.lnk.colls := rfl
@[simp] theorem State.setPeer_lnk_lasers (d : Nat) (x : Peer) : (s.setPeer d x).lnk.lasers = s.lnk.lasers := rfl
@[simp] theorem State.setPeer_lnk_devid (d : Nat) (x : Peer) : (s.setPeer d x).lnk.devid = s.lnk.devid := rfl
@[simp] theorem State.setPeer_lnk_domain (d : Nat) (x : Peer) : (s.setPeer d x).lnk.domain = s.lnk.domain := rfl
@[simp] theorem State.setPeer_lnk_tpos (d : Nat) (x : Peer) : (s.setPeer d x).lnk.tpos = s.lnk.tpos := rfl
@[simp] theorem State.setPeer_lnk_dupDevid (d : Nat) (x : Peer) : (s.setPeer d x).lnk.dupDevid = s.lnk.dupDevid := rfl
@[simp] theorem State.setPeer_lnk_slew (d : Nat) (x : Peer) : (s.setPeer d x).lnk.slew = s.lnk.slew := rfl
@[simp] theorem State.setPeer_lnk_slewPhase (d : Nat) (x : Peer) : (s.setPeer d x).lnk.slewPhase = s.lnk.slewPhase := rfl
@[simp] theorem State.setPeer_lnk_nextTag (d : Nat) (x : Peer) : (s.setPeer d x).lnk.nextTag = s.lnk.nextTag := rfl

@[simp] theorem State.setWindow_pending (h : Nat) (w : LinkWindow) : (s.setWindow h w).pending = s.pending := rfl
@[simp] theorem State.setWindow_freeCount (h : Nat) (w : LinkWindow) : (s.setWindow h w).freeCount = s.freeCount := rfl
@[simp] theorem State.setWindow_time (h : Nat) (w : LinkWindow) : (s.setWindow h w).time = s.time := rfl
@[simp] theorem State.setWindow_phase (h : Nat) (w : LinkWindow) : (s.setWindow h w).phase = s.phase := rfl
@[simp] theorem State.setWindow_fuses (h : Nat) (w : LinkWindow) : (s.setWindow h w).fuses = s.fuses := rfl
@[simp] theorem State.setWindow_hif (h : Nat) (w : LinkWindow) : (s.setWindow h w).hif = s.hif := rfl
@[simp] theorem State.setWindow_dsp (h : Nat) (w : LinkWindow) : (s.setWindow h w).dsp = s.dsp := rfl
@[simp] theorem State.setWindow_cores (h : Nat) (w : LinkWindow) : (s.setWindow h w).cores = s.cores := rfl
@[simp] theorem State.setWindow_mem (h : Nat) (w : LinkWindow) : (s.setWindow h w).mem = s.mem := rfl
@[simp] theorem State.setWindow_kv (h : Nat) (w : LinkWindow) : (s.setWindow h w).kv = s.kv := rfl
@[simp] theorem State.setWindow_fnSlots (h : Nat) (w : LinkWindow) : (s.setWindow h w).fnSlots = s.fnSlots := rfl
@[simp] theorem State.setWindow_framePools (h : Nat) (w : LinkWindow) : (s.setWindow h w).framePools = s.framePools := rfl
@[simp] theorem State.setWindow_sec (h : Nat) (w : LinkWindow) : (s.setWindow h w).sec = s.sec := rfl
@[simp] theorem State.setWindow_pwr (h : Nat) (w : LinkWindow) : (s.setWindow h w).pwr = s.pwr := rfl
@[simp] theorem State.setWindow_ing (h : Nat) (w : LinkWindow) : (s.setWindow h w).ing = s.ing := rfl
@[simp] theorem State.setWindow_vid (h : Nat) (w : LinkWindow) : (s.setWindow h w).vid = s.vid := rfl
@[simp] theorem State.setWindow_pace (h : Nat) (w : LinkWindow) : (s.setWindow h w).pace = s.pace := rfl
@[simp] theorem State.setWindow_lines (h : Nat) (w : LinkWindow) : (s.setWindow h w).lines = s.lines := rfl
@[simp] theorem State.setWindow_regs (h : Nat) (w : LinkWindow) : (s.setWindow h w).regs = s.regs := rfl
@[simp] theorem State.setWindow_ctrs (h : Nat) (w : LinkWindow) : (s.setWindow h w).ctrs = s.ctrs := rfl
@[simp] theorem State.setWindow_objs (h : Nat) (w : LinkWindow) : (s.setWindow h w).objs = s.objs := rfl
@[simp] theorem State.setWindow_dict (h : Nat) (w : LinkWindow) : (s.setWindow h w).dict = s.dict := rfl
@[simp] theorem State.setWindow_store (h : Nat) (w : LinkWindow) : (s.setWindow h w).store = s.store := rfl
@[simp] theorem State.setWindow_boot (h : Nat) (w : LinkWindow) : (s.setWindow h w).boot = s.boot := rfl
@[simp] theorem State.setWindow_evlog (h : Nat) (w : LinkWindow) : (s.setWindow h w).evlog = s.evlog := rfl
@[simp] theorem State.setWindow_flt (h : Nat) (w : LinkWindow) : (s.setWindow h w).flt = s.flt := rfl
@[simp] theorem State.setWindow_out (h : Nat) (w : LinkWindow) : (s.setWindow h w).out = s.out := rfl
@[simp] theorem State.setWindow_lnk_ports (h : Nat) (w : LinkWindow) : (s.setWindow h w).lnk.ports = s.lnk.ports := rfl
@[simp] theorem State.setWindow_lnk_peers (h : Nat) (w : LinkWindow) : (s.setWindow h w).lnk.peers = s.lnk.peers := rfl
@[simp] theorem State.setWindow_lnk_winWait (h : Nat) (w : LinkWindow) : (s.setWindow h w).lnk.winWait = s.lnk.winWait := rfl
@[simp] theorem State.setWindow_lnk_outWins (h : Nat) (w : LinkWindow) : (s.setWindow h w).lnk.outWins = s.lnk.outWins := rfl
@[simp] theorem State.setWindow_lnk_held (h : Nat) (w : LinkWindow) : (s.setWindow h w).lnk.held = s.lnk.held := rfl
@[simp] theorem State.setWindow_lnk_early (h : Nat) (w : LinkWindow) : (s.setWindow h w).lnk.early = s.lnk.early := rfl
@[simp] theorem State.setWindow_lnk_copies (h : Nat) (w : LinkWindow) : (s.setWindow h w).lnk.copies = s.lnk.copies := rfl
@[simp] theorem State.setWindow_lnk_colls (h : Nat) (w : LinkWindow) : (s.setWindow h w).lnk.colls = s.lnk.colls := rfl
@[simp] theorem State.setWindow_lnk_lasers (h : Nat) (w : LinkWindow) : (s.setWindow h w).lnk.lasers = s.lnk.lasers := rfl
@[simp] theorem State.setWindow_lnk_devid (h : Nat) (w : LinkWindow) : (s.setWindow h w).lnk.devid = s.lnk.devid := rfl
@[simp] theorem State.setWindow_lnk_domain (h : Nat) (w : LinkWindow) : (s.setWindow h w).lnk.domain = s.lnk.domain := rfl
@[simp] theorem State.setWindow_lnk_tpos (h : Nat) (w : LinkWindow) : (s.setWindow h w).lnk.tpos = s.lnk.tpos := rfl
@[simp] theorem State.setWindow_lnk_dupDevid (h : Nat) (w : LinkWindow) : (s.setWindow h w).lnk.dupDevid = s.lnk.dupDevid := rfl
@[simp] theorem State.setWindow_lnk_slew (h : Nat) (w : LinkWindow) : (s.setWindow h w).lnk.slew = s.lnk.slew := rfl
@[simp] theorem State.setWindow_lnk_slewPhase (h : Nat) (w : LinkWindow) : (s.setWindow h w).lnk.slewPhase = s.lnk.slewPhase := rfl
@[simp] theorem State.setWindow_lnk_nextTag (h : Nat) (w : LinkWindow) : (s.setWindow h w).lnk.nextTag = s.lnk.nextTag := rfl

@[simp] theorem State.setColl_pending (n : Nat) (x : CollRun) : (s.setColl n x).pending = s.pending := rfl
@[simp] theorem State.setColl_freeCount (n : Nat) (x : CollRun) : (s.setColl n x).freeCount = s.freeCount := rfl
@[simp] theorem State.setColl_time (n : Nat) (x : CollRun) : (s.setColl n x).time = s.time := rfl
@[simp] theorem State.setColl_phase (n : Nat) (x : CollRun) : (s.setColl n x).phase = s.phase := rfl
@[simp] theorem State.setColl_fuses (n : Nat) (x : CollRun) : (s.setColl n x).fuses = s.fuses := rfl
@[simp] theorem State.setColl_hif (n : Nat) (x : CollRun) : (s.setColl n x).hif = s.hif := rfl
@[simp] theorem State.setColl_dsp (n : Nat) (x : CollRun) : (s.setColl n x).dsp = s.dsp := rfl
@[simp] theorem State.setColl_cores (n : Nat) (x : CollRun) : (s.setColl n x).cores = s.cores := rfl
@[simp] theorem State.setColl_mem (n : Nat) (x : CollRun) : (s.setColl n x).mem = s.mem := rfl
@[simp] theorem State.setColl_kv (n : Nat) (x : CollRun) : (s.setColl n x).kv = s.kv := rfl
@[simp] theorem State.setColl_fnSlots (n : Nat) (x : CollRun) : (s.setColl n x).fnSlots = s.fnSlots := rfl
@[simp] theorem State.setColl_framePools (n : Nat) (x : CollRun) : (s.setColl n x).framePools = s.framePools := rfl
@[simp] theorem State.setColl_sec (n : Nat) (x : CollRun) : (s.setColl n x).sec = s.sec := rfl
@[simp] theorem State.setColl_pwr (n : Nat) (x : CollRun) : (s.setColl n x).pwr = s.pwr := rfl
@[simp] theorem State.setColl_ing (n : Nat) (x : CollRun) : (s.setColl n x).ing = s.ing := rfl
@[simp] theorem State.setColl_vid (n : Nat) (x : CollRun) : (s.setColl n x).vid = s.vid := rfl
@[simp] theorem State.setColl_pace (n : Nat) (x : CollRun) : (s.setColl n x).pace = s.pace := rfl
@[simp] theorem State.setColl_lines (n : Nat) (x : CollRun) : (s.setColl n x).lines = s.lines := rfl
@[simp] theorem State.setColl_regs (n : Nat) (x : CollRun) : (s.setColl n x).regs = s.regs := rfl
@[simp] theorem State.setColl_ctrs (n : Nat) (x : CollRun) : (s.setColl n x).ctrs = s.ctrs := rfl
@[simp] theorem State.setColl_objs (n : Nat) (x : CollRun) : (s.setColl n x).objs = s.objs := rfl
@[simp] theorem State.setColl_dict (n : Nat) (x : CollRun) : (s.setColl n x).dict = s.dict := rfl
@[simp] theorem State.setColl_store (n : Nat) (x : CollRun) : (s.setColl n x).store = s.store := rfl
@[simp] theorem State.setColl_boot (n : Nat) (x : CollRun) : (s.setColl n x).boot = s.boot := rfl
@[simp] theorem State.setColl_evlog (n : Nat) (x : CollRun) : (s.setColl n x).evlog = s.evlog := rfl
@[simp] theorem State.setColl_flt (n : Nat) (x : CollRun) : (s.setColl n x).flt = s.flt := rfl
@[simp] theorem State.setColl_out (n : Nat) (x : CollRun) : (s.setColl n x).out = s.out := rfl
@[simp] theorem State.setColl_lnk_ports (n : Nat) (x : CollRun) : (s.setColl n x).lnk.ports = s.lnk.ports := rfl
@[simp] theorem State.setColl_lnk_peers (n : Nat) (x : CollRun) : (s.setColl n x).lnk.peers = s.lnk.peers := rfl
@[simp] theorem State.setColl_lnk_windows (n : Nat) (x : CollRun) : (s.setColl n x).lnk.windows = s.lnk.windows := rfl
@[simp] theorem State.setColl_lnk_winWait (n : Nat) (x : CollRun) : (s.setColl n x).lnk.winWait = s.lnk.winWait := rfl
@[simp] theorem State.setColl_lnk_outWins (n : Nat) (x : CollRun) : (s.setColl n x).lnk.outWins = s.lnk.outWins := rfl
@[simp] theorem State.setColl_lnk_held (n : Nat) (x : CollRun) : (s.setColl n x).lnk.held = s.lnk.held := rfl
@[simp] theorem State.setColl_lnk_early (n : Nat) (x : CollRun) : (s.setColl n x).lnk.early = s.lnk.early := rfl
@[simp] theorem State.setColl_lnk_copies (n : Nat) (x : CollRun) : (s.setColl n x).lnk.copies = s.lnk.copies := rfl
@[simp] theorem State.setColl_lnk_lasers (n : Nat) (x : CollRun) : (s.setColl n x).lnk.lasers = s.lnk.lasers := rfl
@[simp] theorem State.setColl_lnk_devid (n : Nat) (x : CollRun) : (s.setColl n x).lnk.devid = s.lnk.devid := rfl
@[simp] theorem State.setColl_lnk_domain (n : Nat) (x : CollRun) : (s.setColl n x).lnk.domain = s.lnk.domain := rfl
@[simp] theorem State.setColl_lnk_tpos (n : Nat) (x : CollRun) : (s.setColl n x).lnk.tpos = s.lnk.tpos := rfl
@[simp] theorem State.setColl_lnk_dupDevid (n : Nat) (x : CollRun) : (s.setColl n x).lnk.dupDevid = s.lnk.dupDevid := rfl
@[simp] theorem State.setColl_lnk_slew (n : Nat) (x : CollRun) : (s.setColl n x).lnk.slew = s.lnk.slew := rfl
@[simp] theorem State.setColl_lnk_slewPhase (n : Nat) (x : CollRun) : (s.setColl n x).lnk.slewPhase = s.lnk.slewPhase := rfl
@[simp] theorem State.setColl_lnk_nextTag (n : Nat) (x : CollRun) : (s.setColl n x).lnk.nextTag = s.lnk.nextTag := rfl

@[simp] theorem State.setKvSeq_pending (k : Nat) (q : KvSeq) : (s.setKvSeq k q).pending = s.pending := rfl
@[simp] theorem State.setKvSeq_freeCount (k : Nat) (q : KvSeq) : (s.setKvSeq k q).freeCount = s.freeCount := rfl
@[simp] theorem State.setKvSeq_time (k : Nat) (q : KvSeq) : (s.setKvSeq k q).time = s.time := rfl
@[simp] theorem State.setKvSeq_phase (k : Nat) (q : KvSeq) : (s.setKvSeq k q).phase = s.phase := rfl
@[simp] theorem State.setKvSeq_fuses (k : Nat) (q : KvSeq) : (s.setKvSeq k q).fuses = s.fuses := rfl
@[simp] theorem State.setKvSeq_hif (k : Nat) (q : KvSeq) : (s.setKvSeq k q).hif = s.hif := rfl
@[simp] theorem State.setKvSeq_dsp (k : Nat) (q : KvSeq) : (s.setKvSeq k q).dsp = s.dsp := rfl
@[simp] theorem State.setKvSeq_cores (k : Nat) (q : KvSeq) : (s.setKvSeq k q).cores = s.cores := rfl
@[simp] theorem State.setKvSeq_mem (k : Nat) (q : KvSeq) : (s.setKvSeq k q).mem = s.mem := rfl
@[simp] theorem State.setKvSeq_fnSlots (k : Nat) (q : KvSeq) : (s.setKvSeq k q).fnSlots = s.fnSlots := rfl
@[simp] theorem State.setKvSeq_framePools (k : Nat) (q : KvSeq) : (s.setKvSeq k q).framePools = s.framePools := rfl
@[simp] theorem State.setKvSeq_sec (k : Nat) (q : KvSeq) : (s.setKvSeq k q).sec = s.sec := rfl
@[simp] theorem State.setKvSeq_pwr (k : Nat) (q : KvSeq) : (s.setKvSeq k q).pwr = s.pwr := rfl
@[simp] theorem State.setKvSeq_lnk (k : Nat) (q : KvSeq) : (s.setKvSeq k q).lnk = s.lnk := rfl
@[simp] theorem State.setKvSeq_ing (k : Nat) (q : KvSeq) : (s.setKvSeq k q).ing = s.ing := rfl
@[simp] theorem State.setKvSeq_vid (k : Nat) (q : KvSeq) : (s.setKvSeq k q).vid = s.vid := rfl
@[simp] theorem State.setKvSeq_pace (k : Nat) (q : KvSeq) : (s.setKvSeq k q).pace = s.pace := rfl
@[simp] theorem State.setKvSeq_lines (k : Nat) (q : KvSeq) : (s.setKvSeq k q).lines = s.lines := rfl
@[simp] theorem State.setKvSeq_regs (k : Nat) (q : KvSeq) : (s.setKvSeq k q).regs = s.regs := rfl
@[simp] theorem State.setKvSeq_ctrs (k : Nat) (q : KvSeq) : (s.setKvSeq k q).ctrs = s.ctrs := rfl
@[simp] theorem State.setKvSeq_objs (k : Nat) (q : KvSeq) : (s.setKvSeq k q).objs = s.objs := rfl
@[simp] theorem State.setKvSeq_dict (k : Nat) (q : KvSeq) : (s.setKvSeq k q).dict = s.dict := rfl
@[simp] theorem State.setKvSeq_store (k : Nat) (q : KvSeq) : (s.setKvSeq k q).store = s.store := rfl
@[simp] theorem State.setKvSeq_boot (k : Nat) (q : KvSeq) : (s.setKvSeq k q).boot = s.boot := rfl
@[simp] theorem State.setKvSeq_evlog (k : Nat) (q : KvSeq) : (s.setKvSeq k q).evlog = s.evlog := rfl
@[simp] theorem State.setKvSeq_flt (k : Nat) (q : KvSeq) : (s.setKvSeq k q).flt = s.flt := rfl
@[simp] theorem State.setKvSeq_out (k : Nat) (q : KvSeq) : (s.setKvSeq k q).out = s.out := rfl
@[simp] theorem State.setKvSeq_kv_p (k : Nat) (q : KvSeq) : (s.setKvSeq k q).kv.p = s.kv.p := rfl
@[simp] theorem State.setKvSeq_kv_fmt (k : Nat) (q : KvSeq) : (s.setKvSeq k q).kv.fmt = s.kv.fmt := rfl
@[simp] theorem State.setKvSeq_kv_d (k : Nat) (q : KvSeq) : (s.setKvSeq k q).kv.d = s.kv.d := rfl
@[simp] theorem State.setKvSeq_kv_chunksOpen (k : Nat) (q : KvSeq) : (s.setKvSeq k q).kv.chunksOpen = s.kv.chunksOpen := rfl
@[simp] theorem State.setKvSeq_kv_chunksSecure (k : Nat) (q : KvSeq) : (s.setKvSeq k q).kv.chunksSecure = s.kv.chunksSecure := rfl
@[simp] theorem State.setKvSeq_kv_openPool (k : Nat) (q : KvSeq) : (s.setKvSeq k q).kv.openPool = s.kv.openPool := rfl
@[simp] theorem State.setKvSeq_kv_secPool (k : Nat) (q : KvSeq) : (s.setKvSeq k q).kv.secPool = s.kv.secPool := rfl
@[simp] theorem State.setKvSeq_kv_freeSlots (k : Nat) (q : KvSeq) : (s.setKvSeq k q).kv.freeSlots = s.kv.freeSlots := rfl
@[simp] theorem State.setKvSeq_kv_runs (k : Nat) (q : KvSeq) : (s.setKvSeq k q).kv.runs = s.kv.runs := rfl
@[simp] theorem State.setKvSeq_kv_releases (k : Nat) (q : KvSeq) : (s.setKvSeq k q).kv.releases = s.kv.releases := rfl
@[simp] theorem State.setKvSeq_kv_since (k : Nat) (q : KvSeq) : (s.setKvSeq k q).kv.since = s.kv.since := rfl

@[simp] theorem State.setChan_pending (c : Nat) (x : PaceChan) : (s.setChan c x).pending = s.pending := rfl
@[simp] theorem State.setChan_freeCount (c : Nat) (x : PaceChan) : (s.setChan c x).freeCount = s.freeCount := rfl
@[simp] theorem State.setChan_time (c : Nat) (x : PaceChan) : (s.setChan c x).time = s.time := rfl
@[simp] theorem State.setChan_phase (c : Nat) (x : PaceChan) : (s.setChan c x).phase = s.phase := rfl
@[simp] theorem State.setChan_fuses (c : Nat) (x : PaceChan) : (s.setChan c x).fuses = s.fuses := rfl
@[simp] theorem State.setChan_hif (c : Nat) (x : PaceChan) : (s.setChan c x).hif = s.hif := rfl
@[simp] theorem State.setChan_dsp (c : Nat) (x : PaceChan) : (s.setChan c x).dsp = s.dsp := rfl
@[simp] theorem State.setChan_cores (c : Nat) (x : PaceChan) : (s.setChan c x).cores = s.cores := rfl
@[simp] theorem State.setChan_mem (c : Nat) (x : PaceChan) : (s.setChan c x).mem = s.mem := rfl
@[simp] theorem State.setChan_kv (c : Nat) (x : PaceChan) : (s.setChan c x).kv = s.kv := rfl
@[simp] theorem State.setChan_fnSlots (c : Nat) (x : PaceChan) : (s.setChan c x).fnSlots = s.fnSlots := rfl
@[simp] theorem State.setChan_framePools (c : Nat) (x : PaceChan) : (s.setChan c x).framePools = s.framePools := rfl
@[simp] theorem State.setChan_sec (c : Nat) (x : PaceChan) : (s.setChan c x).sec = s.sec := rfl
@[simp] theorem State.setChan_pwr (c : Nat) (x : PaceChan) : (s.setChan c x).pwr = s.pwr := rfl
@[simp] theorem State.setChan_lnk (c : Nat) (x : PaceChan) : (s.setChan c x).lnk = s.lnk := rfl
@[simp] theorem State.setChan_ing (c : Nat) (x : PaceChan) : (s.setChan c x).ing = s.ing := rfl
@[simp] theorem State.setChan_vid (c : Nat) (x : PaceChan) : (s.setChan c x).vid = s.vid := rfl
@[simp] theorem State.setChan_lines (c : Nat) (x : PaceChan) : (s.setChan c x).lines = s.lines := rfl
@[simp] theorem State.setChan_regs (c : Nat) (x : PaceChan) : (s.setChan c x).regs = s.regs := rfl
@[simp] theorem State.setChan_ctrs (c : Nat) (x : PaceChan) : (s.setChan c x).ctrs = s.ctrs := rfl
@[simp] theorem State.setChan_objs (c : Nat) (x : PaceChan) : (s.setChan c x).objs = s.objs := rfl
@[simp] theorem State.setChan_dict (c : Nat) (x : PaceChan) : (s.setChan c x).dict = s.dict := rfl
@[simp] theorem State.setChan_store (c : Nat) (x : PaceChan) : (s.setChan c x).store = s.store := rfl
@[simp] theorem State.setChan_boot (c : Nat) (x : PaceChan) : (s.setChan c x).boot = s.boot := rfl
@[simp] theorem State.setChan_evlog (c : Nat) (x : PaceChan) : (s.setChan c x).evlog = s.evlog := rfl
@[simp] theorem State.setChan_flt (c : Nat) (x : PaceChan) : (s.setChan c x).flt = s.flt := rfl
@[simp] theorem State.setChan_out (c : Nat) (x : PaceChan) : (s.setChan c x).out = s.out := rfl

@[simp] theorem State.setDomain_pending (d : Nat) (x : DomSt) : (s.setDomain d x).pending = s.pending := rfl
@[simp] theorem State.setDomain_freeCount (d : Nat) (x : DomSt) : (s.setDomain d x).freeCount = s.freeCount := rfl
@[simp] theorem State.setDomain_time (d : Nat) (x : DomSt) : (s.setDomain d x).time = s.time := rfl
@[simp] theorem State.setDomain_phase (d : Nat) (x : DomSt) : (s.setDomain d x).phase = s.phase := rfl
@[simp] theorem State.setDomain_fuses (d : Nat) (x : DomSt) : (s.setDomain d x).fuses = s.fuses := rfl
@[simp] theorem State.setDomain_hif (d : Nat) (x : DomSt) : (s.setDomain d x).hif = s.hif := rfl
@[simp] theorem State.setDomain_dsp (d : Nat) (x : DomSt) : (s.setDomain d x).dsp = s.dsp := rfl
@[simp] theorem State.setDomain_cores (d : Nat) (x : DomSt) : (s.setDomain d x).cores = s.cores := rfl
@[simp] theorem State.setDomain_mem (d : Nat) (x : DomSt) : (s.setDomain d x).mem = s.mem := rfl
@[simp] theorem State.setDomain_kv (d : Nat) (x : DomSt) : (s.setDomain d x).kv = s.kv := rfl
@[simp] theorem State.setDomain_fnSlots (d : Nat) (x : DomSt) : (s.setDomain d x).fnSlots = s.fnSlots := rfl
@[simp] theorem State.setDomain_framePools (d : Nat) (x : DomSt) : (s.setDomain d x).framePools = s.framePools := rfl
@[simp] theorem State.setDomain_sec (d : Nat) (x : DomSt) : (s.setDomain d x).sec = s.sec := rfl
@[simp] theorem State.setDomain_lnk (d : Nat) (x : DomSt) : (s.setDomain d x).lnk = s.lnk := rfl
@[simp] theorem State.setDomain_ing (d : Nat) (x : DomSt) : (s.setDomain d x).ing = s.ing := rfl
@[simp] theorem State.setDomain_vid (d : Nat) (x : DomSt) : (s.setDomain d x).vid = s.vid := rfl
@[simp] theorem State.setDomain_pace (d : Nat) (x : DomSt) : (s.setDomain d x).pace = s.pace := rfl
@[simp] theorem State.setDomain_lines (d : Nat) (x : DomSt) : (s.setDomain d x).lines = s.lines := rfl
@[simp] theorem State.setDomain_regs (d : Nat) (x : DomSt) : (s.setDomain d x).regs = s.regs := rfl
@[simp] theorem State.setDomain_ctrs (d : Nat) (x : DomSt) : (s.setDomain d x).ctrs = s.ctrs := rfl
@[simp] theorem State.setDomain_objs (d : Nat) (x : DomSt) : (s.setDomain d x).objs = s.objs := rfl
@[simp] theorem State.setDomain_dict (d : Nat) (x : DomSt) : (s.setDomain d x).dict = s.dict := rfl
@[simp] theorem State.setDomain_store (d : Nat) (x : DomSt) : (s.setDomain d x).store = s.store := rfl
@[simp] theorem State.setDomain_boot (d : Nat) (x : DomSt) : (s.setDomain d x).boot = s.boot := rfl
@[simp] theorem State.setDomain_evlog (d : Nat) (x : DomSt) : (s.setDomain d x).evlog = s.evlog := rfl
@[simp] theorem State.setDomain_flt (d : Nat) (x : DomSt) : (s.setDomain d x).flt = s.flt := rfl
@[simp] theorem State.setDomain_out (d : Nat) (x : DomSt) : (s.setDomain d x).out = s.out := rfl
@[simp] theorem State.setDomain_pwr_gates (d : Nat) (x : DomSt) : (s.setDomain d x).pwr.gates = s.pwr.gates := rfl
@[simp] theorem State.setDomain_pwr_knocks (d : Nat) (x : DomSt) : (s.setDomain d x).pwr.knocks = s.pwr.knocks := rfl
@[simp] theorem State.setDomain_pwr_begun (d : Nat) (x : DomSt) : (s.setDomain d x).pwr.begun = s.pwr.begun := rfl
@[simp] theorem State.setDomain_pwr_point (d : Nat) (x : DomSt) : (s.setDomain d x).pwr.point = s.pwr.point := rfl
@[simp] theorem State.setDomain_pwr_target (d : Nat) (x : DomSt) : (s.setDomain d x).pwr.target = s.pwr.target := rfl
@[simp] theorem State.setDomain_pwr_setMv (d : Nat) (x : DomSt) : (s.setDomain d x).pwr.setMv = s.pwr.setMv := rfl
@[simp] theorem State.setDomain_pwr_avsOk (d : Nat) (x : DomSt) : (s.setDomain d x).pwr.avsOk = s.pwr.avsOk := rfl
@[simp] theorem State.setDomain_pwr_currentLimit (d : Nat) (x : DomSt) : (s.setDomain d x).pwr.currentLimit = s.pwr.currentLimit := rfl
@[simp] theorem State.setDomain_pwr_temps (d : Nat) (x : DomSt) : (s.setDomain d x).pwr.temps = s.pwr.temps := rfl
@[simp] theorem State.setDomain_pwr_throttle (d : Nat) (x : DomSt) : (s.setDomain d x).pwr.throttle = s.pwr.throttle := rfl
@[simp] theorem State.setDomain_pwr_hard (d : Nat) (x : DomSt) : (s.setDomain d x).pwr.hard = s.pwr.hard := rfl
@[simp] theorem State.setDomain_pwr_trip (d : Nat) (x : DomSt) : (s.setDomain d x).pwr.trip = s.pwr.trip := rfl
@[simp] theorem State.setDomain_pwr_rails (d : Nat) (x : DomSt) : (s.setDomain d x).pwr.rails = s.pwr.rails := rfl
@[simp] theorem State.setDomain_pwr_pkgPower (d : Nat) (x : DomSt) : (s.setDomain d x).pwr.pkgPower = s.pwr.pkgPower := rfl
@[simp] theorem State.setDomain_pwr_powerHeld (d : Nat) (x : DomSt) : (s.setDomain d x).pwr.powerHeld = s.pwr.powerHeld := rfl
@[simp] theorem State.setDomain_pwr_fastClock (d : Nat) (x : DomSt) : (s.setDomain d x).pwr.fastClock = s.pwr.fastClock := rfl

@[simp] theorem State.headland_pending : s.headland.pending = s.pending := rfl
@[simp] theorem State.headland_freeCount : s.headland.freeCount = s.freeCount := rfl
@[simp] theorem State.headland_time : s.headland.time = s.time := rfl
@[simp] theorem State.headland_phase : s.headland.phase = s.phase := rfl
@[simp] theorem State.headland_fuses : s.headland.fuses = s.fuses := rfl
@[simp] theorem State.headland_hif : s.headland.hif = s.hif := rfl
@[simp] theorem State.headland_dsp : s.headland.dsp = s.dsp := rfl
@[simp] theorem State.headland_cores : s.headland.cores = s.cores := rfl
@[simp] theorem State.headland_mem : s.headland.mem = s.mem := rfl
@[simp] theorem State.headland_kv : s.headland.kv = s.kv := rfl
@[simp] theorem State.headland_fnSlots : s.headland.fnSlots = s.fnSlots := rfl
@[simp] theorem State.headland_framePools : s.headland.framePools = s.framePools := rfl
@[simp] theorem State.headland_sec : s.headland.sec = s.sec := rfl
@[simp] theorem State.headland_lnk : s.headland.lnk = s.lnk := rfl
@[simp] theorem State.headland_ing : s.headland.ing = s.ing := rfl
@[simp] theorem State.headland_vid : s.headland.vid = s.vid := rfl
@[simp] theorem State.headland_pace : s.headland.pace = s.pace := rfl
@[simp] theorem State.headland_lines : s.headland.lines = s.lines := rfl
@[simp] theorem State.headland_regs : s.headland.regs = s.regs := rfl
@[simp] theorem State.headland_ctrs : s.headland.ctrs = s.ctrs := rfl
@[simp] theorem State.headland_objs : s.headland.objs = s.objs := rfl
@[simp] theorem State.headland_dict : s.headland.dict = s.dict := rfl
@[simp] theorem State.headland_store : s.headland.store = s.store := rfl
@[simp] theorem State.headland_boot : s.headland.boot = s.boot := rfl
@[simp] theorem State.headland_evlog : s.headland.evlog = s.evlog := rfl
@[simp] theorem State.headland_flt : s.headland.flt = s.flt := rfl
@[simp] theorem State.headland_out : s.headland.out = s.out := rfl
@[simp] theorem State.headland_pwr_doms  : (s.headland).pwr.doms = s.pwr.doms := rfl
@[simp] theorem State.headland_pwr_gates  : (s.headland).pwr.gates = s.pwr.gates := rfl
@[simp] theorem State.headland_pwr_knocks  : (s.headland).pwr.knocks = s.pwr.knocks := rfl
@[simp] theorem State.headland_pwr_begun  : (s.headland).pwr.begun = s.pwr.begun := rfl
@[simp] theorem State.headland_pwr_point  : (s.headland).pwr.point = s.pwr.point := rfl
@[simp] theorem State.headland_pwr_target  : (s.headland).pwr.target = s.pwr.target := rfl
@[simp] theorem State.headland_pwr_setMv  : (s.headland).pwr.setMv = s.pwr.setMv := rfl
@[simp] theorem State.headland_pwr_avsOk  : (s.headland).pwr.avsOk = s.pwr.avsOk := rfl
@[simp] theorem State.headland_pwr_currentLimit  : (s.headland).pwr.currentLimit = s.pwr.currentLimit := rfl
@[simp] theorem State.headland_pwr_temps  : (s.headland).pwr.temps = s.pwr.temps := rfl
@[simp] theorem State.headland_pwr_throttle  : (s.headland).pwr.throttle = s.pwr.throttle := rfl
@[simp] theorem State.headland_pwr_hard  : (s.headland).pwr.hard = s.pwr.hard := rfl
@[simp] theorem State.headland_pwr_trip  : (s.headland).pwr.trip = s.pwr.trip := rfl
@[simp] theorem State.headland_pwr_rails  : (s.headland).pwr.rails = s.pwr.rails := rfl
@[simp] theorem State.headland_pwr_pkgPower  : (s.headland).pwr.pkgPower = s.pwr.pkgPower := rfl
@[simp] theorem State.headland_pwr_powerHeld  : (s.headland).pwr.powerHeld = s.pwr.powerHeld := rfl

@[simp] theorem State.setXfer_pending (n : Nat) (x : Xfer) : (s.setXfer n x).pending = s.pending := rfl
@[simp] theorem State.setXfer_freeCount (n : Nat) (x : Xfer) : (s.setXfer n x).freeCount = s.freeCount := rfl
@[simp] theorem State.setXfer_time (n : Nat) (x : Xfer) : (s.setXfer n x).time = s.time := rfl
@[simp] theorem State.setXfer_phase (n : Nat) (x : Xfer) : (s.setXfer n x).phase = s.phase := rfl
@[simp] theorem State.setXfer_fuses (n : Nat) (x : Xfer) : (s.setXfer n x).fuses = s.fuses := rfl
@[simp] theorem State.setXfer_hif (n : Nat) (x : Xfer) : (s.setXfer n x).hif = s.hif := rfl
@[simp] theorem State.setXfer_dsp (n : Nat) (x : Xfer) : (s.setXfer n x).dsp = s.dsp := rfl
@[simp] theorem State.setXfer_cores (n : Nat) (x : Xfer) : (s.setXfer n x).cores = s.cores := rfl
@[simp] theorem State.setXfer_mem (n : Nat) (x : Xfer) : (s.setXfer n x).mem = s.mem := rfl
@[simp] theorem State.setXfer_kv (n : Nat) (x : Xfer) : (s.setXfer n x).kv = s.kv := rfl
@[simp] theorem State.setXfer_fnSlots (n : Nat) (x : Xfer) : (s.setXfer n x).fnSlots = s.fnSlots := rfl
@[simp] theorem State.setXfer_framePools (n : Nat) (x : Xfer) : (s.setXfer n x).framePools = s.framePools := rfl
@[simp] theorem State.setXfer_sec (n : Nat) (x : Xfer) : (s.setXfer n x).sec = s.sec := rfl
@[simp] theorem State.setXfer_pwr (n : Nat) (x : Xfer) : (s.setXfer n x).pwr = s.pwr := rfl
@[simp] theorem State.setXfer_lnk (n : Nat) (x : Xfer) : (s.setXfer n x).lnk = s.lnk := rfl
@[simp] theorem State.setXfer_ing (n : Nat) (x : Xfer) : (s.setXfer n x).ing = s.ing := rfl
@[simp] theorem State.setXfer_vid (n : Nat) (x : Xfer) : (s.setXfer n x).vid = s.vid := rfl
@[simp] theorem State.setXfer_pace (n : Nat) (x : Xfer) : (s.setXfer n x).pace = s.pace := rfl
@[simp] theorem State.setXfer_lines (n : Nat) (x : Xfer) : (s.setXfer n x).lines = s.lines := rfl
@[simp] theorem State.setXfer_regs (n : Nat) (x : Xfer) : (s.setXfer n x).regs = s.regs := rfl
@[simp] theorem State.setXfer_ctrs (n : Nat) (x : Xfer) : (s.setXfer n x).ctrs = s.ctrs := rfl
@[simp] theorem State.setXfer_objs (n : Nat) (x : Xfer) : (s.setXfer n x).objs = s.objs := rfl
@[simp] theorem State.setXfer_store (n : Nat) (x : Xfer) : (s.setXfer n x).store = s.store := rfl
@[simp] theorem State.setXfer_boot (n : Nat) (x : Xfer) : (s.setXfer n x).boot = s.boot := rfl
@[simp] theorem State.setXfer_evlog (n : Nat) (x : Xfer) : (s.setXfer n x).evlog = s.evlog := rfl
@[simp] theorem State.setXfer_flt (n : Nat) (x : Xfer) : (s.setXfer n x).flt = s.flt := rfl
@[simp] theorem State.setXfer_out (n : Nat) (x : Xfer) : (s.setXfer n x).out = s.out := rfl
@[simp] theorem State.setXfer_dict_managers (n : Nat) (x : Xfer) : (s.setXfer n x).dict.managers = s.dict.managers := rfl
@[simp] theorem State.setXfer_dict_discards (n : Nat) (x : Xfer) : (s.setXfer n x).dict.discards = s.dict.discards := rfl
@[simp] theorem State.setXfer_dict_busy (n : Nat) (x : Xfer) : (s.setXfer n x).dict.busy = s.dict.busy := rfl
@[simp] theorem State.setXfer_dict_addrs (n : Nat) (x : Xfer) : (s.setXfer n x).dict.addrs = s.dict.addrs := rfl
@[simp] theorem State.setXfer_dict_eids (n : Nat) (x : Xfer) : (s.setXfer n x).dict.eids = s.dict.eids := rfl
@[simp] theorem State.setXfer_dict_mwl (n : Nat) (x : Xfer) : (s.setXfer n x).dict.mwl = s.dict.mwl := rfl
@[simp] theorem State.setXfer_dict_mrl (n : Nat) (x : Xfer) : (s.setXfer n x).dict.mrl = s.dict.mrl := rfl
@[simp] theorem State.setXfer_dict_waiting (n : Nat) (x : Xfer) : (s.setXfer n x).dict.waiting = s.dict.waiting := rfl

@[simp] theorem State.setRec_pending (a k : Nat) (x : BrRec) : (s.setRec a k x).pending = s.pending := rfl
@[simp] theorem State.setRec_freeCount (a k : Nat) (x : BrRec) : (s.setRec a k x).freeCount = s.freeCount := rfl
@[simp] theorem State.setRec_time (a k : Nat) (x : BrRec) : (s.setRec a k x).time = s.time := rfl
@[simp] theorem State.setRec_phase (a k : Nat) (x : BrRec) : (s.setRec a k x).phase = s.phase := rfl
@[simp] theorem State.setRec_fuses (a k : Nat) (x : BrRec) : (s.setRec a k x).fuses = s.fuses := rfl
@[simp] theorem State.setRec_hif (a k : Nat) (x : BrRec) : (s.setRec a k x).hif = s.hif := rfl
@[simp] theorem State.setRec_dsp (a k : Nat) (x : BrRec) : (s.setRec a k x).dsp = s.dsp := rfl
@[simp] theorem State.setRec_cores (a k : Nat) (x : BrRec) : (s.setRec a k x).cores = s.cores := rfl
@[simp] theorem State.setRec_mem (a k : Nat) (x : BrRec) : (s.setRec a k x).mem = s.mem := rfl
@[simp] theorem State.setRec_kv (a k : Nat) (x : BrRec) : (s.setRec a k x).kv = s.kv := rfl
@[simp] theorem State.setRec_fnSlots (a k : Nat) (x : BrRec) : (s.setRec a k x).fnSlots = s.fnSlots := rfl
@[simp] theorem State.setRec_framePools (a k : Nat) (x : BrRec) : (s.setRec a k x).framePools = s.framePools := rfl
@[simp] theorem State.setRec_sec (a k : Nat) (x : BrRec) : (s.setRec a k x).sec = s.sec := rfl
@[simp] theorem State.setRec_pwr (a k : Nat) (x : BrRec) : (s.setRec a k x).pwr = s.pwr := rfl
@[simp] theorem State.setRec_lnk (a k : Nat) (x : BrRec) : (s.setRec a k x).lnk = s.lnk := rfl
@[simp] theorem State.setRec_ing (a k : Nat) (x : BrRec) : (s.setRec a k x).ing = s.ing := rfl
@[simp] theorem State.setRec_vid (a k : Nat) (x : BrRec) : (s.setRec a k x).vid = s.vid := rfl
@[simp] theorem State.setRec_pace (a k : Nat) (x : BrRec) : (s.setRec a k x).pace = s.pace := rfl
@[simp] theorem State.setRec_lines (a k : Nat) (x : BrRec) : (s.setRec a k x).lines = s.lines := rfl
@[simp] theorem State.setRec_regs (a k : Nat) (x : BrRec) : (s.setRec a k x).regs = s.regs := rfl
@[simp] theorem State.setRec_ctrs (a k : Nat) (x : BrRec) : (s.setRec a k x).ctrs = s.ctrs := rfl
@[simp] theorem State.setRec_objs (a k : Nat) (x : BrRec) : (s.setRec a k x).objs = s.objs := rfl
@[simp] theorem State.setRec_dict (a k : Nat) (x : BrRec) : (s.setRec a k x).dict = s.dict := rfl
@[simp] theorem State.setRec_store (a k : Nat) (x : BrRec) : (s.setRec a k x).store = s.store := rfl
@[simp] theorem State.setRec_evlog (a k : Nat) (x : BrRec) : (s.setRec a k x).evlog = s.evlog := rfl
@[simp] theorem State.setRec_flt (a k : Nat) (x : BrRec) : (s.setRec a k x).flt = s.flt := rfl
@[simp] theorem State.setRec_out (a k : Nat) (x : BrRec) : (s.setRec a k x).out = s.out := rfl
@[simp] theorem State.setRec_boot_running (a k : Nat) (x : BrRec) : (s.setRec a k x).boot.running = s.boot.running := rfl
@[simp] theorem State.setRec_boot_warnAt (a k : Nat) (x : BrRec) : (s.setRec a k x).boot.warnAt = s.boot.warnAt := rfl
@[simp] theorem State.setRec_boot_ended (a k : Nat) (x : BrRec) : (s.setRec a k x).boot.ended = s.boot.ended := rfl
@[simp] theorem State.setRec_boot_duration (a k : Nat) (x : BrRec) : (s.setRec a k x).boot.duration = s.boot.duration := rfl
@[simp] theorem State.setRec_boot_starts (a k : Nat) (x : BrRec) : (s.setRec a k x).boot.starts = s.boot.starts := rfl
@[simp] theorem State.setRec_boot_lastReset (a k : Nat) (x : BrRec) : (s.setRec a k x).boot.lastReset = s.boot.lastReset := rfl
@[simp] theorem State.setRec_boot_readyUs (a k : Nat) (x : BrRec) : (s.setRec a k x).boot.readyUs = s.boot.readyUs := rfl
@[simp] theorem State.setRec_boot_startTime (a k : Nat) (x : BrRec) : (s.setRec a k x).boot.startTime = s.boot.startTime := rfl
@[simp] theorem State.setRec_boot_safe (a k : Nat) (x : BrRec) : (s.setRec a k x).boot.safe = s.boot.safe := rfl
@[simp] theorem State.setRec_boot_restore (a k : Nat) (x : BrRec) : (s.setRec a k x).boot.restore = s.boot.restore := rfl
@[simp] theorem State.setRec_boot_clear (a k : Nat) (x : BrRec) : (s.setRec a k x).boot.clear = s.boot.clear := rfl
@[simp] theorem State.setRec_boot_full (a k : Nat) (x : BrRec) : (s.setRec a k x).boot.full = s.boot.full := rfl
@[simp] theorem State.setRec_boot_restart (a k : Nat) (x : BrRec) : (s.setRec a k x).boot.restart = s.boot.restart := rfl
@[simp] theorem State.setRec_boot_spdm (a k : Nat) (x : BrRec) : (s.setRec a k x).boot.spdm = s.boot.spdm := rfl
@[simp] theorem State.setRec_boot_authOpen (a k : Nat) (x : BrRec) : (s.setRec a k x).boot.authOpen = s.boot.authOpen := rfl

@[simp] theorem State.setFw_pending (k : Nat) (x : FwSlot) : (s.setFw k x).pending = s.pending := rfl
@[simp] theorem State.setFw_freeCount (k : Nat) (x : FwSlot) : (s.setFw k x).freeCount = s.freeCount := rfl
@[simp] theorem State.setFw_time (k : Nat) (x : FwSlot) : (s.setFw k x).time = s.time := rfl
@[simp] theorem State.setFw_phase (k : Nat) (x : FwSlot) : (s.setFw k x).phase = s.phase := rfl
@[simp] theorem State.setFw_fuses (k : Nat) (x : FwSlot) : (s.setFw k x).fuses = s.fuses := rfl
@[simp] theorem State.setFw_hif (k : Nat) (x : FwSlot) : (s.setFw k x).hif = s.hif := rfl
@[simp] theorem State.setFw_dsp (k : Nat) (x : FwSlot) : (s.setFw k x).dsp = s.dsp := rfl
@[simp] theorem State.setFw_cores (k : Nat) (x : FwSlot) : (s.setFw k x).cores = s.cores := rfl
@[simp] theorem State.setFw_mem (k : Nat) (x : FwSlot) : (s.setFw k x).mem = s.mem := rfl
@[simp] theorem State.setFw_kv (k : Nat) (x : FwSlot) : (s.setFw k x).kv = s.kv := rfl
@[simp] theorem State.setFw_fnSlots (k : Nat) (x : FwSlot) : (s.setFw k x).fnSlots = s.fnSlots := rfl
@[simp] theorem State.setFw_framePools (k : Nat) (x : FwSlot) : (s.setFw k x).framePools = s.framePools := rfl
@[simp] theorem State.setFw_sec (k : Nat) (x : FwSlot) : (s.setFw k x).sec = s.sec := rfl
@[simp] theorem State.setFw_pwr (k : Nat) (x : FwSlot) : (s.setFw k x).pwr = s.pwr := rfl
@[simp] theorem State.setFw_lnk (k : Nat) (x : FwSlot) : (s.setFw k x).lnk = s.lnk := rfl
@[simp] theorem State.setFw_ing (k : Nat) (x : FwSlot) : (s.setFw k x).ing = s.ing := rfl
@[simp] theorem State.setFw_vid (k : Nat) (x : FwSlot) : (s.setFw k x).vid = s.vid := rfl
@[simp] theorem State.setFw_pace (k : Nat) (x : FwSlot) : (s.setFw k x).pace = s.pace := rfl
@[simp] theorem State.setFw_lines (k : Nat) (x : FwSlot) : (s.setFw k x).lines = s.lines := rfl
@[simp] theorem State.setFw_regs (k : Nat) (x : FwSlot) : (s.setFw k x).regs = s.regs := rfl
@[simp] theorem State.setFw_ctrs (k : Nat) (x : FwSlot) : (s.setFw k x).ctrs = s.ctrs := rfl
@[simp] theorem State.setFw_objs (k : Nat) (x : FwSlot) : (s.setFw k x).objs = s.objs := rfl
@[simp] theorem State.setFw_dict (k : Nat) (x : FwSlot) : (s.setFw k x).dict = s.dict := rfl
@[simp] theorem State.setFw_boot (k : Nat) (x : FwSlot) : (s.setFw k x).boot = s.boot := rfl
@[simp] theorem State.setFw_evlog (k : Nat) (x : FwSlot) : (s.setFw k x).evlog = s.evlog := rfl
@[simp] theorem State.setFw_flt (k : Nat) (x : FwSlot) : (s.setFw k x).flt = s.flt := rfl
@[simp] theorem State.setFw_out (k : Nat) (x : FwSlot) : (s.setFw k x).out = s.out := rfl
@[simp] theorem State.setFw_store_banks (k : Nat) (x : FwSlot) : (s.setFw k x).store.banks = s.store.banks := rfl
@[simp] theorem State.setFw_store_winner (k : Nat) (x : FwSlot) : (s.setFw k x).store.winner = s.store.winner := rfl
@[simp] theorem State.setFw_store_seq (k : Nat) (x : FwSlot) : (s.setFw k x).store.seq = s.store.seq := rfl
@[simp] theorem State.setFw_store_absent (k : Nat) (x : FwSlot) : (s.setFw k x).store.absent = s.store.absent := rfl
@[simp] theorem State.setFw_store_failed (k : Nat) (x : FwSlot) : (s.setFw k x).store.failed = s.store.failed := rfl
@[simp] theorem State.setFw_store_pending (k : Nat) (x : FwSlot) : (s.setFw k x).store.pending = s.store.pending := rfl
@[simp] theorem State.setFw_store_writing (k : Nat) (x : FwSlot) : (s.setFw k x).store.writing = s.store.writing := rfl
@[simp] theorem State.setFw_store_again (k : Nat) (x : FwSlot) : (s.setFw k x).store.again = s.store.again := rfl
@[simp] theorem State.setFw_store_tokens (k : Nat) (x : FwSlot) : (s.setFw k x).store.tokens = s.store.tokens := rfl
@[simp] theorem State.setFw_store_load (k : Nat) (x : FwSlot) : (s.setFw k x).store.load = s.store.load := rfl
@[simp] theorem State.setFw_store_fwActive (k : Nat) (x : FwSlot) : (s.setFw k x).store.fwActive = s.store.fwActive := rfl

@[simp] theorem State.setLines_pending (x : Lines) : (s.setLines x).pending = s.pending := rfl
@[simp] theorem State.setLines_freeCount (x : Lines) : (s.setLines x).freeCount = s.freeCount := rfl
@[simp] theorem State.setLines_time (x : Lines) : (s.setLines x).time = s.time := rfl
@[simp] theorem State.setLines_phase (x : Lines) : (s.setLines x).phase = s.phase := rfl
@[simp] theorem State.setLines_fuses (x : Lines) : (s.setLines x).fuses = s.fuses := rfl
@[simp] theorem State.setLines_hif (x : Lines) : (s.setLines x).hif = s.hif := rfl
@[simp] theorem State.setLines_dsp (x : Lines) : (s.setLines x).dsp = s.dsp := rfl
@[simp] theorem State.setLines_cores (x : Lines) : (s.setLines x).cores = s.cores := rfl
@[simp] theorem State.setLines_mem (x : Lines) : (s.setLines x).mem = s.mem := rfl
@[simp] theorem State.setLines_kv (x : Lines) : (s.setLines x).kv = s.kv := rfl
@[simp] theorem State.setLines_fnSlots (x : Lines) : (s.setLines x).fnSlots = s.fnSlots := rfl
@[simp] theorem State.setLines_framePools (x : Lines) : (s.setLines x).framePools = s.framePools := rfl
@[simp] theorem State.setLines_sec (x : Lines) : (s.setLines x).sec = s.sec := rfl
@[simp] theorem State.setLines_pwr (x : Lines) : (s.setLines x).pwr = s.pwr := rfl
@[simp] theorem State.setLines_lnk (x : Lines) : (s.setLines x).lnk = s.lnk := rfl
@[simp] theorem State.setLines_ing (x : Lines) : (s.setLines x).ing = s.ing := rfl
@[simp] theorem State.setLines_vid (x : Lines) : (s.setLines x).vid = s.vid := rfl
@[simp] theorem State.setLines_pace (x : Lines) : (s.setLines x).pace = s.pace := rfl
@[simp] theorem State.setLines_regs (x : Lines) : (s.setLines x).regs = s.regs := rfl
@[simp] theorem State.setLines_ctrs (x : Lines) : (s.setLines x).ctrs = s.ctrs := rfl
@[simp] theorem State.setLines_objs (x : Lines) : (s.setLines x).objs = s.objs := rfl
@[simp] theorem State.setLines_dict (x : Lines) : (s.setLines x).dict = s.dict := rfl
@[simp] theorem State.setLines_store (x : Lines) : (s.setLines x).store = s.store := rfl
@[simp] theorem State.setLines_boot (x : Lines) : (s.setLines x).boot = s.boot := rfl
@[simp] theorem State.setLines_evlog (x : Lines) : (s.setLines x).evlog = s.evlog := rfl
@[simp] theorem State.setLines_flt (x : Lines) : (s.setLines x).flt = s.flt := rfl
@[simp] theorem State.setLines_out (x : Lines) : (s.setLines x).out = s.out := rfl

@[simp] theorem State.setRing_ring (i j : Nat) (x : Ring) : (s.setRing i x).ring j = if i = j then x else s.ring j := by
  simp [State.setRing, State.ring, Map.get_put]
@[simp] theorem State.setUnit_unit (i j : Nat) (x : MemUnit) : (s.setUnit i x).unit j = if i = j then x else s.unit j := by
  simp [State.setUnit, State.unit, Map.get_put]
@[simp] theorem State.setCore_core (i j : Nat) (x : Core) : (s.setCore i x).core j = if i = j then x else s.core j := by
  simp [State.setCore, State.core, Map.get_put]
@[simp] theorem State.setRegion_region (i j : Nat) (x : Region) : (s.setRegion i x).region j = if i = j then x else s.region j := by
  simp [State.setRegion, State.region, Map.get_put]
@[simp] theorem State.setPort_port (i j : Nat) (x : Port) : (s.setPort i x).port j = if i = j then x else s.port j := by
  simp [State.setPort, State.port, Map.get_put]
@[simp] theorem State.setPeer_peer (i j : Nat) (x : Peer) : (s.setPeer i x).peer j = if i = j then x else s.peer j := by
  simp [State.setPeer, State.peer, Map.get_put]
@[simp] theorem State.setChan_chan (i j : Nat) (x : PaceChan) : (s.setChan i x).chan j = if i = j then x else s.chan j := by
  simp [State.setChan, State.chan, Map.get_put]
@[simp] theorem State.setDomain_domain (i j : Nat) (x : DomSt) : (s.setDomain i x).domain j = if i = j then x else s.domain j := by
  simp [State.setDomain, State.domain, Map.get_put]
@[simp] theorem State.setTd_tdi (i j : Nat) (x : TdState) : (s.setTd i x).tdi j = if i = j then x else s.tdi j := by
  simp [State.setTd, State.tdi, Map.get_put]
@[simp] theorem State.setStage_stage (i j : Nat) (x : Stage) : (s.setStage i x).stage j = if i = j then some x else s.stage j := by
  simp [State.setStage, State.stage, Map.find_put]
@[simp] theorem State.setReg_reg (a b : Nat) (v : Word32) : (s.setReg a v).reg b = if a = b then v else s.reg b := by
  simp [State.setReg, State.reg, Map.get_put]
@[simp] theorem State.bump_ring (a n : Nat) (j : Nat) : (s.bump a n).ring j = s.ring j := rfl
@[simp] theorem State.tick1_ring (a : Nat) (j : Nat) : (s.tick1 a).ring j = s.ring j := rfl
@[simp] theorem State.emit_ring (m : OutMsg) (j : Nat) : (s.emit m).ring j = s.ring j := rfl
@[simp] theorem State.log_ring (code source data : Nat) (w : Bool) (j : Nat) : (s.log code source data w).ring j = s.ring j := rfl
@[simp] theorem State.setReg_ring (a : Nat) (v : Word32) (j : Nat) : (s.setReg a v).ring j = s.ring j := rfl
@[simp] theorem State.setTd_ring_other (f : Nat) (x : TdState) (j : Nat) : (s.setTd f x).ring j = s.ring j := rfl
@[simp] theorem State.setStage_ring (n : Nat) (x : Stage) (j : Nat) : (s.setStage n x).ring j = s.ring j := rfl
@[simp] theorem State.setCore_ring (c : Nat) (x : Core) (j : Nat) : (s.setCore c x).ring j = s.ring j := rfl
@[simp] theorem State.setUnit_ring (u : Nat) (x : MemUnit) (j : Nat) : (s.setUnit u x).ring j = s.ring j := rfl
@[simp] theorem State.setRegion_ring (i : Nat) (x : Region) (j : Nat) : (s.setRegion i x).ring j = s.ring j := rfl
@[simp] theorem State.setSession_ring (n : Nat) (x : Session) (j : Nat) : (s.setSession n x).ring j = s.ring j := rfl
@[simp] theorem State.setPort_ring (p : Nat) (x : Port) (j : Nat) : (s.setPort p x).ring j = s.ring j := rfl
@[simp] theorem State.setPeer_ring (d : Nat) (x : Peer) (j : Nat) : (s.setPeer d x).ring j = s.ring j := rfl
@[simp] theorem State.setWindow_ring (h : Nat) (w : LinkWindow) (j : Nat) : (s.setWindow h w).ring j = s.ring j := rfl
@[simp] theorem State.setColl_ring (n : Nat) (x : CollRun) (j : Nat) : (s.setColl n x).ring j = s.ring j := rfl
@[simp] theorem State.setKvSeq_ring (k : Nat) (q : KvSeq) (j : Nat) : (s.setKvSeq k q).ring j = s.ring j := rfl
@[simp] theorem State.setChan_ring (c : Nat) (x : PaceChan) (j : Nat) : (s.setChan c x).ring j = s.ring j := rfl
@[simp] theorem State.setDomain_ring (d : Nat) (x : DomSt) (j : Nat) : (s.setDomain d x).ring j = s.ring j := rfl
@[simp] theorem State.headland_ring (j : Nat) : (s.headland).ring j = s.ring j := rfl
@[simp] theorem State.setXfer_ring (n : Nat) (x : Xfer) (j : Nat) : (s.setXfer n x).ring j = s.ring j := rfl
@[simp] theorem State.setRec_ring (a k : Nat) (x : BrRec) (j : Nat) : (s.setRec a k x).ring j = s.ring j := rfl
@[simp] theorem State.setFw_ring (k : Nat) (x : FwSlot) (j : Nat) : (s.setFw k x).ring j = s.ring j := rfl
@[simp] theorem State.setLines_ring (x : Lines) (j : Nat) : (s.setLines x).ring j = s.ring j := rfl
@[simp] theorem State.bump_stage (a n : Nat) (j : Nat) : (s.bump a n).stage j = s.stage j := rfl
@[simp] theorem State.tick1_stage (a : Nat) (j : Nat) : (s.tick1 a).stage j = s.stage j := rfl
@[simp] theorem State.emit_stage (m : OutMsg) (j : Nat) : (s.emit m).stage j = s.stage j := rfl
@[simp] theorem State.log_stage (code source data : Nat) (w : Bool) (j : Nat) : (s.log code source data w).stage j = s.stage j := rfl
@[simp] theorem State.setReg_stage (a : Nat) (v : Word32) (j : Nat) : (s.setReg a v).stage j = s.stage j := rfl
@[simp] theorem State.setRing_stage (r : Nat) (x : Ring) (j : Nat) : (s.setRing r x).stage j = s.stage j := rfl
@[simp] theorem State.setTd_stage (f : Nat) (x : TdState) (j : Nat) : (s.setTd f x).stage j = s.stage j := rfl
@[simp] theorem State.setCore_stage (c : Nat) (x : Core) (j : Nat) : (s.setCore c x).stage j = s.stage j := rfl
@[simp] theorem State.setUnit_stage (u : Nat) (x : MemUnit) (j : Nat) : (s.setUnit u x).stage j = s.stage j := rfl
@[simp] theorem State.setRegion_stage (i : Nat) (x : Region) (j : Nat) : (s.setRegion i x).stage j = s.stage j := rfl
@[simp] theorem State.setSession_stage (n : Nat) (x : Session) (j : Nat) : (s.setSession n x).stage j = s.stage j := rfl
@[simp] theorem State.setPort_stage (p : Nat) (x : Port) (j : Nat) : (s.setPort p x).stage j = s.stage j := rfl
@[simp] theorem State.setPeer_stage (d : Nat) (x : Peer) (j : Nat) : (s.setPeer d x).stage j = s.stage j := rfl
@[simp] theorem State.setWindow_stage (h : Nat) (w : LinkWindow) (j : Nat) : (s.setWindow h w).stage j = s.stage j := rfl
@[simp] theorem State.setColl_stage (n : Nat) (x : CollRun) (j : Nat) : (s.setColl n x).stage j = s.stage j := rfl
@[simp] theorem State.setKvSeq_stage (k : Nat) (q : KvSeq) (j : Nat) : (s.setKvSeq k q).stage j = s.stage j := rfl
@[simp] theorem State.setChan_stage (c : Nat) (x : PaceChan) (j : Nat) : (s.setChan c x).stage j = s.stage j := rfl
@[simp] theorem State.setDomain_stage (d : Nat) (x : DomSt) (j : Nat) : (s.setDomain d x).stage j = s.stage j := rfl
@[simp] theorem State.headland_stage (j : Nat) : (s.headland).stage j = s.stage j := rfl
@[simp] theorem State.setXfer_stage (n : Nat) (x : Xfer) (j : Nat) : (s.setXfer n x).stage j = s.stage j := rfl
@[simp] theorem State.setRec_stage (a k : Nat) (x : BrRec) (j : Nat) : (s.setRec a k x).stage j = s.stage j := rfl
@[simp] theorem State.setFw_stage (k : Nat) (x : FwSlot) (j : Nat) : (s.setFw k x).stage j = s.stage j := rfl
@[simp] theorem State.setLines_stage (x : Lines) (j : Nat) : (s.setLines x).stage j = s.stage j := rfl
@[simp] theorem State.bump_unit (a n : Nat) (j : Nat) : (s.bump a n).unit j = s.unit j := rfl
@[simp] theorem State.tick1_unit (a : Nat) (j : Nat) : (s.tick1 a).unit j = s.unit j := rfl
@[simp] theorem State.emit_unit (m : OutMsg) (j : Nat) : (s.emit m).unit j = s.unit j := rfl
@[simp] theorem State.log_unit (code source data : Nat) (w : Bool) (j : Nat) : (s.log code source data w).unit j = s.unit j := rfl
@[simp] theorem State.setReg_unit (a : Nat) (v : Word32) (j : Nat) : (s.setReg a v).unit j = s.unit j := rfl
@[simp] theorem State.setRing_unit (r : Nat) (x : Ring) (j : Nat) : (s.setRing r x).unit j = s.unit j := rfl
@[simp] theorem State.setTd_unit (f : Nat) (x : TdState) (j : Nat) : (s.setTd f x).unit j = s.unit j := rfl
@[simp] theorem State.setStage_unit (n : Nat) (x : Stage) (j : Nat) : (s.setStage n x).unit j = s.unit j := rfl
@[simp] theorem State.setCore_unit (c : Nat) (x : Core) (j : Nat) : (s.setCore c x).unit j = s.unit j := rfl
@[simp] theorem State.setRegion_unit (i : Nat) (x : Region) (j : Nat) : (s.setRegion i x).unit j = s.unit j := rfl
@[simp] theorem State.setSession_unit (n : Nat) (x : Session) (j : Nat) : (s.setSession n x).unit j = s.unit j := rfl
@[simp] theorem State.setPort_unit (p : Nat) (x : Port) (j : Nat) : (s.setPort p x).unit j = s.unit j := rfl
@[simp] theorem State.setPeer_unit (d : Nat) (x : Peer) (j : Nat) : (s.setPeer d x).unit j = s.unit j := rfl
@[simp] theorem State.setWindow_unit (h : Nat) (w : LinkWindow) (j : Nat) : (s.setWindow h w).unit j = s.unit j := rfl
@[simp] theorem State.setColl_unit (n : Nat) (x : CollRun) (j : Nat) : (s.setColl n x).unit j = s.unit j := rfl
@[simp] theorem State.setKvSeq_unit (k : Nat) (q : KvSeq) (j : Nat) : (s.setKvSeq k q).unit j = s.unit j := rfl
@[simp] theorem State.setChan_unit (c : Nat) (x : PaceChan) (j : Nat) : (s.setChan c x).unit j = s.unit j := rfl
@[simp] theorem State.setDomain_unit (d : Nat) (x : DomSt) (j : Nat) : (s.setDomain d x).unit j = s.unit j := rfl
@[simp] theorem State.headland_unit (j : Nat) : (s.headland).unit j = s.unit j := rfl
@[simp] theorem State.setXfer_unit (n : Nat) (x : Xfer) (j : Nat) : (s.setXfer n x).unit j = s.unit j := rfl
@[simp] theorem State.setRec_unit (a k : Nat) (x : BrRec) (j : Nat) : (s.setRec a k x).unit j = s.unit j := rfl
@[simp] theorem State.setFw_unit (k : Nat) (x : FwSlot) (j : Nat) : (s.setFw k x).unit j = s.unit j := rfl
@[simp] theorem State.setLines_unit (x : Lines) (j : Nat) : (s.setLines x).unit j = s.unit j := rfl
@[simp] theorem State.bump_core (a n : Nat) (j : Nat) : (s.bump a n).core j = s.core j := rfl
@[simp] theorem State.tick1_core (a : Nat) (j : Nat) : (s.tick1 a).core j = s.core j := rfl
@[simp] theorem State.emit_core (m : OutMsg) (j : Nat) : (s.emit m).core j = s.core j := rfl
@[simp] theorem State.log_core (code source data : Nat) (w : Bool) (j : Nat) : (s.log code source data w).core j = s.core j := rfl
@[simp] theorem State.setReg_core (a : Nat) (v : Word32) (j : Nat) : (s.setReg a v).core j = s.core j := rfl
@[simp] theorem State.setRing_core (r : Nat) (x : Ring) (j : Nat) : (s.setRing r x).core j = s.core j := rfl
@[simp] theorem State.setTd_core (f : Nat) (x : TdState) (j : Nat) : (s.setTd f x).core j = s.core j := rfl
@[simp] theorem State.setStage_core (n : Nat) (x : Stage) (j : Nat) : (s.setStage n x).core j = s.core j := rfl
@[simp] theorem State.setUnit_core (u : Nat) (x : MemUnit) (j : Nat) : (s.setUnit u x).core j = s.core j := rfl
@[simp] theorem State.setRegion_core (i : Nat) (x : Region) (j : Nat) : (s.setRegion i x).core j = s.core j := rfl
@[simp] theorem State.setSession_core (n : Nat) (x : Session) (j : Nat) : (s.setSession n x).core j = s.core j := rfl
@[simp] theorem State.setPort_core (p : Nat) (x : Port) (j : Nat) : (s.setPort p x).core j = s.core j := rfl
@[simp] theorem State.setPeer_core (d : Nat) (x : Peer) (j : Nat) : (s.setPeer d x).core j = s.core j := rfl
@[simp] theorem State.setWindow_core (h : Nat) (w : LinkWindow) (j : Nat) : (s.setWindow h w).core j = s.core j := rfl
@[simp] theorem State.setColl_core (n : Nat) (x : CollRun) (j : Nat) : (s.setColl n x).core j = s.core j := rfl
@[simp] theorem State.setKvSeq_core (k : Nat) (q : KvSeq) (j : Nat) : (s.setKvSeq k q).core j = s.core j := rfl
@[simp] theorem State.setChan_core (c : Nat) (x : PaceChan) (j : Nat) : (s.setChan c x).core j = s.core j := rfl
@[simp] theorem State.setDomain_core (d : Nat) (x : DomSt) (j : Nat) : (s.setDomain d x).core j = s.core j := rfl
@[simp] theorem State.headland_core (j : Nat) : (s.headland).core j = s.core j := rfl
@[simp] theorem State.setXfer_core (n : Nat) (x : Xfer) (j : Nat) : (s.setXfer n x).core j = s.core j := rfl
@[simp] theorem State.setRec_core (a k : Nat) (x : BrRec) (j : Nat) : (s.setRec a k x).core j = s.core j := rfl
@[simp] theorem State.setFw_core (k : Nat) (x : FwSlot) (j : Nat) : (s.setFw k x).core j = s.core j := rfl
@[simp] theorem State.setLines_core (x : Lines) (j : Nat) : (s.setLines x).core j = s.core j := rfl
@[simp] theorem State.bump_region (a n : Nat) (j : Nat) : (s.bump a n).region j = s.region j := rfl
@[simp] theorem State.tick1_region (a : Nat) (j : Nat) : (s.tick1 a).region j = s.region j := rfl
@[simp] theorem State.emit_region (m : OutMsg) (j : Nat) : (s.emit m).region j = s.region j := rfl
@[simp] theorem State.log_region (code source data : Nat) (w : Bool) (j : Nat) : (s.log code source data w).region j = s.region j := rfl
@[simp] theorem State.setReg_region (a : Nat) (v : Word32) (j : Nat) : (s.setReg a v).region j = s.region j := rfl
@[simp] theorem State.setRing_region (r : Nat) (x : Ring) (j : Nat) : (s.setRing r x).region j = s.region j := rfl
@[simp] theorem State.setTd_region (f : Nat) (x : TdState) (j : Nat) : (s.setTd f x).region j = s.region j := rfl
@[simp] theorem State.setStage_region (n : Nat) (x : Stage) (j : Nat) : (s.setStage n x).region j = s.region j := rfl
@[simp] theorem State.setCore_region (c : Nat) (x : Core) (j : Nat) : (s.setCore c x).region j = s.region j := rfl
@[simp] theorem State.setUnit_region (u : Nat) (x : MemUnit) (j : Nat) : (s.setUnit u x).region j = s.region j := rfl
@[simp] theorem State.setSession_region_other (n : Nat) (x : Session) (j : Nat) : (s.setSession n x).region j = s.region j := rfl
@[simp] theorem State.setPort_region (p : Nat) (x : Port) (j : Nat) : (s.setPort p x).region j = s.region j := rfl
@[simp] theorem State.setPeer_region (d : Nat) (x : Peer) (j : Nat) : (s.setPeer d x).region j = s.region j := rfl
@[simp] theorem State.setWindow_region (h : Nat) (w : LinkWindow) (j : Nat) : (s.setWindow h w).region j = s.region j := rfl
@[simp] theorem State.setColl_region (n : Nat) (x : CollRun) (j : Nat) : (s.setColl n x).region j = s.region j := rfl
@[simp] theorem State.setKvSeq_region (k : Nat) (q : KvSeq) (j : Nat) : (s.setKvSeq k q).region j = s.region j := rfl
@[simp] theorem State.setChan_region (c : Nat) (x : PaceChan) (j : Nat) : (s.setChan c x).region j = s.region j := rfl
@[simp] theorem State.setDomain_region (d : Nat) (x : DomSt) (j : Nat) : (s.setDomain d x).region j = s.region j := rfl
@[simp] theorem State.headland_region (j : Nat) : (s.headland).region j = s.region j := rfl
@[simp] theorem State.setXfer_region (n : Nat) (x : Xfer) (j : Nat) : (s.setXfer n x).region j = s.region j := rfl
@[simp] theorem State.setRec_region (a k : Nat) (x : BrRec) (j : Nat) : (s.setRec a k x).region j = s.region j := rfl
@[simp] theorem State.setFw_region (k : Nat) (x : FwSlot) (j : Nat) : (s.setFw k x).region j = s.region j := rfl
@[simp] theorem State.setLines_region (x : Lines) (j : Nat) : (s.setLines x).region j = s.region j := rfl
@[simp] theorem State.bump_port (a n : Nat) (j : Nat) : (s.bump a n).port j = s.port j := rfl
@[simp] theorem State.tick1_port (a : Nat) (j : Nat) : (s.tick1 a).port j = s.port j := rfl
@[simp] theorem State.emit_port (m : OutMsg) (j : Nat) : (s.emit m).port j = s.port j := rfl
@[simp] theorem State.log_port (code source data : Nat) (w : Bool) (j : Nat) : (s.log code source data w).port j = s.port j := rfl
@[simp] theorem State.setReg_port (a : Nat) (v : Word32) (j : Nat) : (s.setReg a v).port j = s.port j := rfl
@[simp] theorem State.setRing_port (r : Nat) (x : Ring) (j : Nat) : (s.setRing r x).port j = s.port j := rfl
@[simp] theorem State.setTd_port (f : Nat) (x : TdState) (j : Nat) : (s.setTd f x).port j = s.port j := rfl
@[simp] theorem State.setStage_port (n : Nat) (x : Stage) (j : Nat) : (s.setStage n x).port j = s.port j := rfl
@[simp] theorem State.setCore_port (c : Nat) (x : Core) (j : Nat) : (s.setCore c x).port j = s.port j := rfl
@[simp] theorem State.setUnit_port (u : Nat) (x : MemUnit) (j : Nat) : (s.setUnit u x).port j = s.port j := rfl
@[simp] theorem State.setRegion_port (i : Nat) (x : Region) (j : Nat) : (s.setRegion i x).port j = s.port j := rfl
@[simp] theorem State.setSession_port (n : Nat) (x : Session) (j : Nat) : (s.setSession n x).port j = s.port j := rfl
@[simp] theorem State.setPeer_port_other (d : Nat) (x : Peer) (j : Nat) : (s.setPeer d x).port j = s.port j := rfl
@[simp] theorem State.setWindow_port_other (h : Nat) (w : LinkWindow) (j : Nat) : (s.setWindow h w).port j = s.port j := rfl
@[simp] theorem State.setColl_port_other (n : Nat) (x : CollRun) (j : Nat) : (s.setColl n x).port j = s.port j := rfl
@[simp] theorem State.setKvSeq_port (k : Nat) (q : KvSeq) (j : Nat) : (s.setKvSeq k q).port j = s.port j := rfl
@[simp] theorem State.setChan_port (c : Nat) (x : PaceChan) (j : Nat) : (s.setChan c x).port j = s.port j := rfl
@[simp] theorem State.setDomain_port (d : Nat) (x : DomSt) (j : Nat) : (s.setDomain d x).port j = s.port j := rfl
@[simp] theorem State.headland_port (j : Nat) : (s.headland).port j = s.port j := rfl
@[simp] theorem State.setXfer_port (n : Nat) (x : Xfer) (j : Nat) : (s.setXfer n x).port j = s.port j := rfl
@[simp] theorem State.setRec_port (a k : Nat) (x : BrRec) (j : Nat) : (s.setRec a k x).port j = s.port j := rfl
@[simp] theorem State.setFw_port (k : Nat) (x : FwSlot) (j : Nat) : (s.setFw k x).port j = s.port j := rfl
@[simp] theorem State.setLines_port (x : Lines) (j : Nat) : (s.setLines x).port j = s.port j := rfl
@[simp] theorem State.bump_peer (a n : Nat) (j : Nat) : (s.bump a n).peer j = s.peer j := rfl
@[simp] theorem State.tick1_peer (a : Nat) (j : Nat) : (s.tick1 a).peer j = s.peer j := rfl
@[simp] theorem State.emit_peer (m : OutMsg) (j : Nat) : (s.emit m).peer j = s.peer j := rfl
@[simp] theorem State.log_peer (code source data : Nat) (w : Bool) (j : Nat) : (s.log code source data w).peer j = s.peer j := rfl
@[simp] theorem State.setReg_peer (a : Nat) (v : Word32) (j : Nat) : (s.setReg a v).peer j = s.peer j := rfl
@[simp] theorem State.setRing_peer (r : Nat) (x : Ring) (j : Nat) : (s.setRing r x).peer j = s.peer j := rfl
@[simp] theorem State.setTd_peer (f : Nat) (x : TdState) (j : Nat) : (s.setTd f x).peer j = s.peer j := rfl
@[simp] theorem State.setStage_peer (n : Nat) (x : Stage) (j : Nat) : (s.setStage n x).peer j = s.peer j := rfl
@[simp] theorem State.setCore_peer (c : Nat) (x : Core) (j : Nat) : (s.setCore c x).peer j = s.peer j := rfl
@[simp] theorem State.setUnit_peer (u : Nat) (x : MemUnit) (j : Nat) : (s.setUnit u x).peer j = s.peer j := rfl
@[simp] theorem State.setRegion_peer (i : Nat) (x : Region) (j : Nat) : (s.setRegion i x).peer j = s.peer j := rfl
@[simp] theorem State.setSession_peer (n : Nat) (x : Session) (j : Nat) : (s.setSession n x).peer j = s.peer j := rfl
@[simp] theorem State.setPort_peer_other (p : Nat) (x : Port) (j : Nat) : (s.setPort p x).peer j = s.peer j := rfl
@[simp] theorem State.setWindow_peer_other (h : Nat) (w : LinkWindow) (j : Nat) : (s.setWindow h w).peer j = s.peer j := rfl
@[simp] theorem State.setColl_peer_other (n : Nat) (x : CollRun) (j : Nat) : (s.setColl n x).peer j = s.peer j := rfl
@[simp] theorem State.setKvSeq_peer (k : Nat) (q : KvSeq) (j : Nat) : (s.setKvSeq k q).peer j = s.peer j := rfl
@[simp] theorem State.setChan_peer (c : Nat) (x : PaceChan) (j : Nat) : (s.setChan c x).peer j = s.peer j := rfl
@[simp] theorem State.setDomain_peer (d : Nat) (x : DomSt) (j : Nat) : (s.setDomain d x).peer j = s.peer j := rfl
@[simp] theorem State.headland_peer (j : Nat) : (s.headland).peer j = s.peer j := rfl
@[simp] theorem State.setXfer_peer (n : Nat) (x : Xfer) (j : Nat) : (s.setXfer n x).peer j = s.peer j := rfl
@[simp] theorem State.setRec_peer (a k : Nat) (x : BrRec) (j : Nat) : (s.setRec a k x).peer j = s.peer j := rfl
@[simp] theorem State.setFw_peer (k : Nat) (x : FwSlot) (j : Nat) : (s.setFw k x).peer j = s.peer j := rfl
@[simp] theorem State.setLines_peer (x : Lines) (j : Nat) : (s.setLines x).peer j = s.peer j := rfl
@[simp] theorem State.bump_chan (a n : Nat) (j : Nat) : (s.bump a n).chan j = s.chan j := rfl
@[simp] theorem State.tick1_chan (a : Nat) (j : Nat) : (s.tick1 a).chan j = s.chan j := rfl
@[simp] theorem State.emit_chan (m : OutMsg) (j : Nat) : (s.emit m).chan j = s.chan j := rfl
@[simp] theorem State.log_chan (code source data : Nat) (w : Bool) (j : Nat) : (s.log code source data w).chan j = s.chan j := rfl
@[simp] theorem State.setReg_chan (a : Nat) (v : Word32) (j : Nat) : (s.setReg a v).chan j = s.chan j := rfl
@[simp] theorem State.setRing_chan (r : Nat) (x : Ring) (j : Nat) : (s.setRing r x).chan j = s.chan j := rfl
@[simp] theorem State.setTd_chan (f : Nat) (x : TdState) (j : Nat) : (s.setTd f x).chan j = s.chan j := rfl
@[simp] theorem State.setStage_chan (n : Nat) (x : Stage) (j : Nat) : (s.setStage n x).chan j = s.chan j := rfl
@[simp] theorem State.setCore_chan (c : Nat) (x : Core) (j : Nat) : (s.setCore c x).chan j = s.chan j := rfl
@[simp] theorem State.setUnit_chan (u : Nat) (x : MemUnit) (j : Nat) : (s.setUnit u x).chan j = s.chan j := rfl
@[simp] theorem State.setRegion_chan (i : Nat) (x : Region) (j : Nat) : (s.setRegion i x).chan j = s.chan j := rfl
@[simp] theorem State.setSession_chan (n : Nat) (x : Session) (j : Nat) : (s.setSession n x).chan j = s.chan j := rfl
@[simp] theorem State.setPort_chan (p : Nat) (x : Port) (j : Nat) : (s.setPort p x).chan j = s.chan j := rfl
@[simp] theorem State.setPeer_chan (d : Nat) (x : Peer) (j : Nat) : (s.setPeer d x).chan j = s.chan j := rfl
@[simp] theorem State.setWindow_chan (h : Nat) (w : LinkWindow) (j : Nat) : (s.setWindow h w).chan j = s.chan j := rfl
@[simp] theorem State.setColl_chan (n : Nat) (x : CollRun) (j : Nat) : (s.setColl n x).chan j = s.chan j := rfl
@[simp] theorem State.setKvSeq_chan (k : Nat) (q : KvSeq) (j : Nat) : (s.setKvSeq k q).chan j = s.chan j := rfl
@[simp] theorem State.setDomain_chan (d : Nat) (x : DomSt) (j : Nat) : (s.setDomain d x).chan j = s.chan j := rfl
@[simp] theorem State.headland_chan (j : Nat) : (s.headland).chan j = s.chan j := rfl
@[simp] theorem State.setXfer_chan (n : Nat) (x : Xfer) (j : Nat) : (s.setXfer n x).chan j = s.chan j := rfl
@[simp] theorem State.setRec_chan (a k : Nat) (x : BrRec) (j : Nat) : (s.setRec a k x).chan j = s.chan j := rfl
@[simp] theorem State.setFw_chan (k : Nat) (x : FwSlot) (j : Nat) : (s.setFw k x).chan j = s.chan j := rfl
@[simp] theorem State.setLines_chan (x : Lines) (j : Nat) : (s.setLines x).chan j = s.chan j := rfl
@[simp] theorem State.bump_domain (a n : Nat) (j : Nat) : (s.bump a n).domain j = s.domain j := rfl
@[simp] theorem State.tick1_domain (a : Nat) (j : Nat) : (s.tick1 a).domain j = s.domain j := rfl
@[simp] theorem State.emit_domain (m : OutMsg) (j : Nat) : (s.emit m).domain j = s.domain j := rfl
@[simp] theorem State.log_domain (code source data : Nat) (w : Bool) (j : Nat) : (s.log code source data w).domain j = s.domain j := rfl
@[simp] theorem State.setReg_domain (a : Nat) (v : Word32) (j : Nat) : (s.setReg a v).domain j = s.domain j := rfl
@[simp] theorem State.setRing_domain (r : Nat) (x : Ring) (j : Nat) : (s.setRing r x).domain j = s.domain j := rfl
@[simp] theorem State.setTd_domain (f : Nat) (x : TdState) (j : Nat) : (s.setTd f x).domain j = s.domain j := rfl
@[simp] theorem State.setStage_domain (n : Nat) (x : Stage) (j : Nat) : (s.setStage n x).domain j = s.domain j := rfl
@[simp] theorem State.setCore_domain (c : Nat) (x : Core) (j : Nat) : (s.setCore c x).domain j = s.domain j := rfl
@[simp] theorem State.setUnit_domain (u : Nat) (x : MemUnit) (j : Nat) : (s.setUnit u x).domain j = s.domain j := rfl
@[simp] theorem State.setRegion_domain (i : Nat) (x : Region) (j : Nat) : (s.setRegion i x).domain j = s.domain j := rfl
@[simp] theorem State.setSession_domain (n : Nat) (x : Session) (j : Nat) : (s.setSession n x).domain j = s.domain j := rfl
@[simp] theorem State.setPort_domain (p : Nat) (x : Port) (j : Nat) : (s.setPort p x).domain j = s.domain j := rfl
@[simp] theorem State.setPeer_domain (d : Nat) (x : Peer) (j : Nat) : (s.setPeer d x).domain j = s.domain j := rfl
@[simp] theorem State.setWindow_domain (h : Nat) (w : LinkWindow) (j : Nat) : (s.setWindow h w).domain j = s.domain j := rfl
@[simp] theorem State.setColl_domain (n : Nat) (x : CollRun) (j : Nat) : (s.setColl n x).domain j = s.domain j := rfl
@[simp] theorem State.setKvSeq_domain (k : Nat) (q : KvSeq) (j : Nat) : (s.setKvSeq k q).domain j = s.domain j := rfl
@[simp] theorem State.setChan_domain (c : Nat) (x : PaceChan) (j : Nat) : (s.setChan c x).domain j = s.domain j := rfl
@[simp] theorem State.headland_domain_other (j : Nat) : (s.headland).domain j = s.domain j := rfl
@[simp] theorem State.setXfer_domain (n : Nat) (x : Xfer) (j : Nat) : (s.setXfer n x).domain j = s.domain j := rfl
@[simp] theorem State.setRec_domain (a k : Nat) (x : BrRec) (j : Nat) : (s.setRec a k x).domain j = s.domain j := rfl
@[simp] theorem State.setFw_domain (k : Nat) (x : FwSlot) (j : Nat) : (s.setFw k x).domain j = s.domain j := rfl
@[simp] theorem State.setLines_domain (x : Lines) (j : Nat) : (s.setLines x).domain j = s.domain j := rfl
@[simp] theorem State.bump_tdi (a n : Nat) (j : Nat) : (s.bump a n).tdi j = s.tdi j := rfl
@[simp] theorem State.tick1_tdi (a : Nat) (j : Nat) : (s.tick1 a).tdi j = s.tdi j := rfl
@[simp] theorem State.emit_tdi (m : OutMsg) (j : Nat) : (s.emit m).tdi j = s.tdi j := rfl
@[simp] theorem State.log_tdi (code source data : Nat) (w : Bool) (j : Nat) : (s.log code source data w).tdi j = s.tdi j := rfl
@[simp] theorem State.setReg_tdi (a : Nat) (v : Word32) (j : Nat) : (s.setReg a v).tdi j = s.tdi j := rfl
@[simp] theorem State.setRing_tdi_other (r : Nat) (x : Ring) (j : Nat) : (s.setRing r x).tdi j = s.tdi j := rfl
@[simp] theorem State.setStage_tdi (n : Nat) (x : Stage) (j : Nat) : (s.setStage n x).tdi j = s.tdi j := rfl
@[simp] theorem State.setCore_tdi (c : Nat) (x : Core) (j : Nat) : (s.setCore c x).tdi j = s.tdi j := rfl
@[simp] theorem State.setUnit_tdi (u : Nat) (x : MemUnit) (j : Nat) : (s.setUnit u x).tdi j = s.tdi j := rfl
@[simp] theorem State.setRegion_tdi (i : Nat) (x : Region) (j : Nat) : (s.setRegion i x).tdi j = s.tdi j := rfl
@[simp] theorem State.setSession_tdi (n : Nat) (x : Session) (j : Nat) : (s.setSession n x).tdi j = s.tdi j := rfl
@[simp] theorem State.setPort_tdi (p : Nat) (x : Port) (j : Nat) : (s.setPort p x).tdi j = s.tdi j := rfl
@[simp] theorem State.setPeer_tdi (d : Nat) (x : Peer) (j : Nat) : (s.setPeer d x).tdi j = s.tdi j := rfl
@[simp] theorem State.setWindow_tdi (h : Nat) (w : LinkWindow) (j : Nat) : (s.setWindow h w).tdi j = s.tdi j := rfl
@[simp] theorem State.setColl_tdi (n : Nat) (x : CollRun) (j : Nat) : (s.setColl n x).tdi j = s.tdi j := rfl
@[simp] theorem State.setKvSeq_tdi (k : Nat) (q : KvSeq) (j : Nat) : (s.setKvSeq k q).tdi j = s.tdi j := rfl
@[simp] theorem State.setChan_tdi (c : Nat) (x : PaceChan) (j : Nat) : (s.setChan c x).tdi j = s.tdi j := rfl
@[simp] theorem State.setDomain_tdi (d : Nat) (x : DomSt) (j : Nat) : (s.setDomain d x).tdi j = s.tdi j := rfl
@[simp] theorem State.headland_tdi (j : Nat) : (s.headland).tdi j = s.tdi j := rfl
@[simp] theorem State.setXfer_tdi (n : Nat) (x : Xfer) (j : Nat) : (s.setXfer n x).tdi j = s.tdi j := rfl
@[simp] theorem State.setRec_tdi (a k : Nat) (x : BrRec) (j : Nat) : (s.setRec a k x).tdi j = s.tdi j := rfl
@[simp] theorem State.setFw_tdi (k : Nat) (x : FwSlot) (j : Nat) : (s.setFw k x).tdi j = s.tdi j := rfl
@[simp] theorem State.setLines_tdi (x : Lines) (j : Nat) : (s.setLines x).tdi j = s.tdi j := rfl
@[simp] theorem State.bump_owner (a n : Nat) (j : Nat) : (s.bump a n).owner j = s.owner j := rfl
@[simp] theorem State.tick1_owner (a : Nat) (j : Nat) : (s.tick1 a).owner j = s.owner j := rfl
@[simp] theorem State.emit_owner (m : OutMsg) (j : Nat) : (s.emit m).owner j = s.owner j := rfl
@[simp] theorem State.log_owner (code source data : Nat) (w : Bool) (j : Nat) : (s.log code source data w).owner j = s.owner j := rfl
@[simp] theorem State.setReg_owner (a : Nat) (v : Word32) (j : Nat) : (s.setReg a v).owner j = s.owner j := rfl
@[simp] theorem State.setRing_owner_other (r : Nat) (x : Ring) (j : Nat) : (s.setRing r x).owner j = s.owner j := rfl
@[simp] theorem State.setTd_owner_other (f : Nat) (x : TdState) (j : Nat) : (s.setTd f x).owner j = s.owner j := rfl
@[simp] theorem State.setStage_owner (n : Nat) (x : Stage) (j : Nat) : (s.setStage n x).owner j = s.owner j := rfl
@[simp] theorem State.setCore_owner (c : Nat) (x : Core) (j : Nat) : (s.setCore c x).owner j = s.owner j := rfl
@[simp] theorem State.setUnit_owner (u : Nat) (x : MemUnit) (j : Nat) : (s.setUnit u x).owner j = s.owner j := rfl
@[simp] theorem State.setRegion_owner (i : Nat) (x : Region) (j : Nat) : (s.setRegion i x).owner j = s.owner j := rfl
@[simp] theorem State.setSession_owner (n : Nat) (x : Session) (j : Nat) : (s.setSession n x).owner j = s.owner j := rfl
@[simp] theorem State.setPort_owner (p : Nat) (x : Port) (j : Nat) : (s.setPort p x).owner j = s.owner j := rfl
@[simp] theorem State.setPeer_owner (d : Nat) (x : Peer) (j : Nat) : (s.setPeer d x).owner j = s.owner j := rfl
@[simp] theorem State.setWindow_owner (h : Nat) (w : LinkWindow) (j : Nat) : (s.setWindow h w).owner j = s.owner j := rfl
@[simp] theorem State.setColl_owner (n : Nat) (x : CollRun) (j : Nat) : (s.setColl n x).owner j = s.owner j := rfl
@[simp] theorem State.setKvSeq_owner (k : Nat) (q : KvSeq) (j : Nat) : (s.setKvSeq k q).owner j = s.owner j := rfl
@[simp] theorem State.setChan_owner (c : Nat) (x : PaceChan) (j : Nat) : (s.setChan c x).owner j = s.owner j := rfl
@[simp] theorem State.setDomain_owner (d : Nat) (x : DomSt) (j : Nat) : (s.setDomain d x).owner j = s.owner j := rfl
@[simp] theorem State.headland_owner (j : Nat) : (s.headland).owner j = s.owner j := rfl
@[simp] theorem State.setXfer_owner (n : Nat) (x : Xfer) (j : Nat) : (s.setXfer n x).owner j = s.owner j := rfl
@[simp] theorem State.setRec_owner (a k : Nat) (x : BrRec) (j : Nat) : (s.setRec a k x).owner j = s.owner j := rfl
@[simp] theorem State.setFw_owner (k : Nat) (x : FwSlot) (j : Nat) : (s.setFw k x).owner j = s.owner j := rfl
@[simp] theorem State.setLines_owner (x : Lines) (j : Nat) : (s.setLines x).owner j = s.owner j := rfl
@[simp] theorem State.bump_fn (a n : Nat) (j : Nat) : (s.bump a n).fn j = s.fn j := rfl
@[simp] theorem State.tick1_fn (a : Nat) (j : Nat) : (s.tick1 a).fn j = s.fn j := rfl
@[simp] theorem State.emit_fn (m : OutMsg) (j : Nat) : (s.emit m).fn j = s.fn j := rfl
@[simp] theorem State.log_fn (code source data : Nat) (w : Bool) (j : Nat) : (s.log code source data w).fn j = s.fn j := rfl
@[simp] theorem State.setReg_fn (a : Nat) (v : Word32) (j : Nat) : (s.setReg a v).fn j = s.fn j := rfl
@[simp] theorem State.setRing_fn_other (r : Nat) (x : Ring) (j : Nat) : (s.setRing r x).fn j = s.fn j := rfl
@[simp] theorem State.setTd_fn_other (f : Nat) (x : TdState) (j : Nat) : (s.setTd f x).fn j = s.fn j := rfl
@[simp] theorem State.setStage_fn (n : Nat) (x : Stage) (j : Nat) : (s.setStage n x).fn j = s.fn j := rfl
@[simp] theorem State.setCore_fn (c : Nat) (x : Core) (j : Nat) : (s.setCore c x).fn j = s.fn j := rfl
@[simp] theorem State.setUnit_fn (u : Nat) (x : MemUnit) (j : Nat) : (s.setUnit u x).fn j = s.fn j := rfl
@[simp] theorem State.setRegion_fn (i : Nat) (x : Region) (j : Nat) : (s.setRegion i x).fn j = s.fn j := rfl
@[simp] theorem State.setSession_fn (n : Nat) (x : Session) (j : Nat) : (s.setSession n x).fn j = s.fn j := rfl
@[simp] theorem State.setPort_fn (p : Nat) (x : Port) (j : Nat) : (s.setPort p x).fn j = s.fn j := rfl
@[simp] theorem State.setPeer_fn (d : Nat) (x : Peer) (j : Nat) : (s.setPeer d x).fn j = s.fn j := rfl
@[simp] theorem State.setWindow_fn (h : Nat) (w : LinkWindow) (j : Nat) : (s.setWindow h w).fn j = s.fn j := rfl
@[simp] theorem State.setColl_fn (n : Nat) (x : CollRun) (j : Nat) : (s.setColl n x).fn j = s.fn j := rfl
@[simp] theorem State.setKvSeq_fn (k : Nat) (q : KvSeq) (j : Nat) : (s.setKvSeq k q).fn j = s.fn j := rfl
@[simp] theorem State.setChan_fn (c : Nat) (x : PaceChan) (j : Nat) : (s.setChan c x).fn j = s.fn j := rfl
@[simp] theorem State.setDomain_fn (d : Nat) (x : DomSt) (j : Nat) : (s.setDomain d x).fn j = s.fn j := rfl
@[simp] theorem State.headland_fn (j : Nat) : (s.headland).fn j = s.fn j := rfl
@[simp] theorem State.setXfer_fn (n : Nat) (x : Xfer) (j : Nat) : (s.setXfer n x).fn j = s.fn j := rfl
@[simp] theorem State.setRec_fn (a k : Nat) (x : BrRec) (j : Nat) : (s.setRec a k x).fn j = s.fn j := rfl
@[simp] theorem State.setFw_fn (k : Nat) (x : FwSlot) (j : Nat) : (s.setFw k x).fn j = s.fn j := rfl
@[simp] theorem State.setLines_fn (x : Lines) (j : Nat) : (s.setLines x).fn j = s.fn j := rfl
@[simp] theorem State.bump_reg (a n : Nat) (j : Nat) : (s.bump a n).reg j = s.reg j := rfl
@[simp] theorem State.tick1_reg (a : Nat) (j : Nat) : (s.tick1 a).reg j = s.reg j := rfl
@[simp] theorem State.emit_reg (m : OutMsg) (j : Nat) : (s.emit m).reg j = s.reg j := rfl
@[simp] theorem State.log_reg (code source data : Nat) (w : Bool) (j : Nat) : (s.log code source data w).reg j = s.reg j := rfl
@[simp] theorem State.setRing_reg (r : Nat) (x : Ring) (j : Nat) : (s.setRing r x).reg j = s.reg j := rfl
@[simp] theorem State.setTd_reg (f : Nat) (x : TdState) (j : Nat) : (s.setTd f x).reg j = s.reg j := rfl
@[simp] theorem State.setStage_reg (n : Nat) (x : Stage) (j : Nat) : (s.setStage n x).reg j = s.reg j := rfl
@[simp] theorem State.setCore_reg (c : Nat) (x : Core) (j : Nat) : (s.setCore c x).reg j = s.reg j := rfl
@[simp] theorem State.setUnit_reg (u : Nat) (x : MemUnit) (j : Nat) : (s.setUnit u x).reg j = s.reg j := rfl
@[simp] theorem State.setRegion_reg (i : Nat) (x : Region) (j : Nat) : (s.setRegion i x).reg j = s.reg j := rfl
@[simp] theorem State.setSession_reg (n : Nat) (x : Session) (j : Nat) : (s.setSession n x).reg j = s.reg j := rfl
@[simp] theorem State.setPort_reg (p : Nat) (x : Port) (j : Nat) : (s.setPort p x).reg j = s.reg j := rfl
@[simp] theorem State.setPeer_reg (d : Nat) (x : Peer) (j : Nat) : (s.setPeer d x).reg j = s.reg j := rfl
@[simp] theorem State.setWindow_reg (h : Nat) (w : LinkWindow) (j : Nat) : (s.setWindow h w).reg j = s.reg j := rfl
@[simp] theorem State.setColl_reg (n : Nat) (x : CollRun) (j : Nat) : (s.setColl n x).reg j = s.reg j := rfl
@[simp] theorem State.setKvSeq_reg (k : Nat) (q : KvSeq) (j : Nat) : (s.setKvSeq k q).reg j = s.reg j := rfl
@[simp] theorem State.setChan_reg (c : Nat) (x : PaceChan) (j : Nat) : (s.setChan c x).reg j = s.reg j := rfl
@[simp] theorem State.setDomain_reg (d : Nat) (x : DomSt) (j : Nat) : (s.setDomain d x).reg j = s.reg j := rfl
@[simp] theorem State.headland_reg (j : Nat) : (s.headland).reg j = s.reg j := rfl
@[simp] theorem State.setXfer_reg (n : Nat) (x : Xfer) (j : Nat) : (s.setXfer n x).reg j = s.reg j := rfl
@[simp] theorem State.setRec_reg (a k : Nat) (x : BrRec) (j : Nat) : (s.setRec a k x).reg j = s.reg j := rfl
@[simp] theorem State.setFw_reg (k : Nat) (x : FwSlot) (j : Nat) : (s.setFw k x).reg j = s.reg j := rfl
@[simp] theorem State.setLines_reg (x : Lines) (j : Nat) : (s.setLines x).reg j = s.reg j := rfl

/-- What delivering the interrupts of a change leaves. -/
structure Delivered (a b : State) : Prop where
  state : b = { a with hif := { a.hif with msix := b.hif.msix }, ctrs := b.ctrs, out := b.out }
  mono : a.out <+: b.out

theorem Delivered.refl (a : State) : Delivered a a := ⟨rfl, List.prefix_refl _⟩

theorem Delivered.trans {a b c : State} (h : Delivered a b) (k : Delivered b c) : Delivered a c :=
  ⟨by rw [k.state, h.state], h.mono.trans k.mono⟩

theorem Delivered.msix {a b : State} (h : Delivered a b) (f v : Nat) : Delivered a (b.msix f v) := by
  apply h.trans
  by_cases c : (if f = 0 then 2048 else 32) ≤ v
  · rw [State.msix, if_pos c]
    exact ⟨rfl, List.prefix_refl _⟩
  · rw [State.msix, if_neg c]
    dsimp only
    split
    · exact ⟨rfl, List.prefix_refl _⟩
    · split
      · exact ⟨rfl, List.prefix_refl _⟩
      · exact ⟨rfl, List.prefix_append _ _⟩

theorem Delivered.notifySecure {a b : State} (h : Delivered a b) : Delivered a b.notifySecure := by
  unfold State.notifySecure
  dsimp only
  split
  · exact h.msix _ _
  · exact h

/-- A run of messages to one vector. -/
theorem Delivered.edges {a b : State} (h : Delivered a b) (l : List Nat) (v : Nat) :
    Delivered a (l.foldl (fun x _ => x.msix 0 v) b) := by
  induction l generalizing b with
  | nil => exact h
  | cons _ l ih => exact ih (h.msix _ _)

/-- A command that meets a line out of reach waits: its answer leaves the state as it was (spec/10 R264; log 65). -/
theorem State.settle_stalled (new old : State) (h : (new.mem.stalled && !old.mem.stalled) = true) : new.settle old = old := by
  rw [State.settle, if_pos h]

/-- Delivering the interrupts of a change touches pending bits, counters and the record of messages. -/
theorem State.settle_delivered (new old : State) (h : (new.mem.stalled && !old.mem.stalled) = false) :
    Delivered new (new.settle old) := by
  have fold : ∀ (l : List ((State → Nat) × Nat × Nat)) (x : State), Delivered new x →
      Delivered new (l.foldl (fun x b => (risingEdges b.1 b.2.1 old new).foldl
        (fun x _ => x.msix 0 (bits (new.reg b.2.2).toNat 0 12)) x) x) := by
    intro l
    induction l with
    | nil => exact fun _ h => h
    | cons b l ih => exact fun x h => ih _ (h.edges _ _)
  rw [State.settle, if_neg (by simp [h])]
  dsimp only
  split
  · exact fold _ _ (Delivered.refl _)
  · exact (fold _ _ (Delivered.refl _)).notifySecure

@[simp] theorem State.settle_pending (new old : State) (h : (new.mem.stalled && !old.mem.stalled) = false) :
    (new.settle old).pending = new.pending := by
  rw [(State.settle_delivered new old h).state]
@[simp] theorem State.settle_freeCount (new old : State) (h : (new.mem.stalled && !old.mem.stalled) = false) :
    (new.settle old).freeCount = new.freeCount := by
  rw [(State.settle_delivered new old h).state]
@[simp] theorem State.settle_time (new old : State) (h : (new.mem.stalled && !old.mem.stalled) = false) :
    (new.settle old).time = new.time := by
  rw [(State.settle_delivered new old h).state]
@[simp] theorem State.settle_phase (new old : State) (h : (new.mem.stalled && !old.mem.stalled) = false) :
    (new.settle old).phase = new.phase := by
  rw [(State.settle_delivered new old h).state]
@[simp] theorem State.settle_fuses (new old : State) (h : (new.mem.stalled && !old.mem.stalled) = false) :
    (new.settle old).fuses = new.fuses := by
  rw [(State.settle_delivered new old h).state]
@[simp] theorem State.settle_dsp (new old : State) (h : (new.mem.stalled && !old.mem.stalled) = false) :
    (new.settle old).dsp = new.dsp := by
  rw [(State.settle_delivered new old h).state]
@[simp] theorem State.settle_cores (new old : State) (h : (new.mem.stalled && !old.mem.stalled) = false) :
    (new.settle old).cores = new.cores := by
  rw [(State.settle_delivered new old h).state]
@[simp] theorem State.settle_mem (new old : State) (h : (new.mem.stalled && !old.mem.stalled) = false) :
    (new.settle old).mem = new.mem := by
  rw [(State.settle_delivered new old h).state]
@[simp] theorem State.settle_kv (new old : State) (h : (new.mem.stalled && !old.mem.stalled) = false) :
    (new.settle old).kv = new.kv := by
  rw [(State.settle_delivered new old h).state]
@[simp] theorem State.settle_fnSlots (new old : State) (h : (new.mem.stalled && !old.mem.stalled) = false) :
    (new.settle old).fnSlots = new.fnSlots := by
  rw [(State.settle_delivered new old h).state]
@[simp] theorem State.settle_framePools (new old : State) (h : (new.mem.stalled && !old.mem.stalled) = false) :
    (new.settle old).framePools = new.framePools := by
  rw [(State.settle_delivered new old h).state]
@[simp] theorem State.settle_sec (new old : State) (h : (new.mem.stalled && !old.mem.stalled) = false) :
    (new.settle old).sec = new.sec := by
  rw [(State.settle_delivered new old h).state]
@[simp] theorem State.settle_pwr (new old : State) (h : (new.mem.stalled && !old.mem.stalled) = false) :
    (new.settle old).pwr = new.pwr := by
  rw [(State.settle_delivered new old h).state]
@[simp] theorem State.settle_lnk (new old : State) (h : (new.mem.stalled && !old.mem.stalled) = false) :
    (new.settle old).lnk = new.lnk := by
  rw [(State.settle_delivered new old h).state]
@[simp] theorem State.settle_ing (new old : State) (h : (new.mem.stalled && !old.mem.stalled) = false) :
    (new.settle old).ing = new.ing := by
  rw [(State.settle_delivered new old h).state]
@[simp] theorem State.settle_vid (new old : State) (h : (new.mem.stalled && !old.mem.stalled) = false) :
    (new.settle old).vid = new.vid := by
  rw [(State.settle_delivered new old h).state]
@[simp] theorem State.settle_pace (new old : State) (h : (new.mem.stalled && !old.mem.stalled) = false) :
    (new.settle old).pace = new.pace := by
  rw [(State.settle_delivered new old h).state]
@[simp] theorem State.settle_lines (new old : State) (h : (new.mem.stalled && !old.mem.stalled) = false) :
    (new.settle old).lines = new.lines := by
  rw [(State.settle_delivered new old h).state]
@[simp] theorem State.settle_regs (new old : State) (h : (new.mem.stalled && !old.mem.stalled) = false) :
    (new.settle old).regs = new.regs := by
  rw [(State.settle_delivered new old h).state]
@[simp] theorem State.settle_objs (new old : State) (h : (new.mem.stalled && !old.mem.stalled) = false) :
    (new.settle old).objs = new.objs := by
  rw [(State.settle_delivered new old h).state]
@[simp] theorem State.settle_dict (new old : State) (h : (new.mem.stalled && !old.mem.stalled) = false) :
    (new.settle old).dict = new.dict := by
  rw [(State.settle_delivered new old h).state]
@[simp] theorem State.settle_store (new old : State) (h : (new.mem.stalled && !old.mem.stalled) = false) :
    (new.settle old).store = new.store := by
  rw [(State.settle_delivered new old h).state]
@[simp] theorem State.settle_boot (new old : State) (h : (new.mem.stalled && !old.mem.stalled) = false) :
    (new.settle old).boot = new.boot := by
  rw [(State.settle_delivered new old h).state]
@[simp] theorem State.settle_evlog (new old : State) (h : (new.mem.stalled && !old.mem.stalled) = false) :
    (new.settle old).evlog = new.evlog := by
  rw [(State.settle_delivered new old h).state]
@[simp] theorem State.settle_flt (new old : State) (h : (new.mem.stalled && !old.mem.stalled) = false) :
    (new.settle old).flt = new.flt := by
  rw [(State.settle_delivered new old h).state]
@[simp] theorem State.settle_hif_rings (new old : State) (h : (new.mem.stalled && !old.mem.stalled) = false) :
    (new.settle old).hif.rings = new.hif.rings := by
  rw [(State.settle_delivered new old h).state]
@[simp] theorem State.settle_hif_fns (new old : State) (h : (new.mem.stalled && !old.mem.stalled) = false) :
    (new.settle old).hif.fns = new.hif.fns := by
  rw [(State.settle_delivered new old h).state]
@[simp] theorem State.settle_hif_td (new old : State) (h : (new.mem.stalled && !old.mem.stalled) = false) :
    (new.settle old).hif.td = new.hif.td := by
  rw [(State.settle_delivered new old h).state]
@[simp] theorem State.settle_hif_notReady (new old : State) (h : (new.mem.stalled && !old.mem.stalled) = false) :
    (new.settle old).hif.notReady = new.hif.notReady := by
  rw [(State.settle_delivered new old h).state]
@[simp] theorem State.settle_hif_safeMode (new old : State) (h : (new.mem.stalled && !old.mem.stalled) = false) :
    (new.settle old).hif.safeMode = new.hif.safeMode := by
  rw [(State.settle_delivered new old h).state]
@[simp] theorem State.settle_hif_linkRate (new old : State) (h : (new.mem.stalled && !old.mem.stalled) = false) :
    (new.settle old).hif.linkRate = new.hif.linkRate := by
  rw [(State.settle_delivered new old h).state]
@[simp] theorem State.settle_hif_linkWidth (new old : State) (h : (new.mem.stalled && !old.mem.stalled) = false) :
    (new.settle old).hif.linkWidth = new.hif.linkWidth := by
  rw [(State.settle_delivered new old h).state]
@[simp] theorem State.settle_hif_drsSent (new old : State) (h : (new.mem.stalled && !old.mem.stalled) = false) :
    (new.settle old).hif.drsSent = new.hif.drsSent := by
  rw [(State.settle_delivered new old h).state]
@[simp] theorem State.settle_hif_lastVisited (new old : State) (h : (new.mem.stalled && !old.mem.stalled) = false) :
    (new.settle old).hif.lastVisited = new.hif.lastVisited := by
  rw [(State.settle_delivered new old h).state]
@[simp] theorem State.settle_hif_shadow (new old : State) (h : (new.mem.stalled && !old.mem.stalled) = false) :
    (new.settle old).hif.shadow = new.hif.shadow := by
  rw [(State.settle_delivered new old h).state]
@[simp] theorem State.settle_hif_bar4Size (new old : State) (h : (new.mem.stalled && !old.mem.stalled) = false) :
    (new.settle old).hif.bar4Size = new.hif.bar4Size := by
  rw [(State.settle_delivered new old h).state]
@[simp] theorem State.settle_hif_cfg (new old : State) (h : (new.mem.stalled && !old.mem.stalled) = false) :
    (new.settle old).hif.cfg = new.hif.cfg := by
  rw [(State.settle_delivered new old h).state]
@[simp] theorem State.settle_ring (new old : State) (j : Nat) (h : (new.mem.stalled && !old.mem.stalled) = false) :
    (new.settle old).ring j = new.ring j := by
  simp [State.ring, h]
@[simp] theorem State.settle_stage (new old : State) (j : Nat) (h : (new.mem.stalled && !old.mem.stalled) = false) :
    (new.settle old).stage j = new.stage j := by
  simp [State.stage, h]
@[simp] theorem State.settle_unit (new old : State) (j : Nat) (h : (new.mem.stalled && !old.mem.stalled) = false) :
    (new.settle old).unit j = new.unit j := by
  simp [State.unit, h]
@[simp] theorem State.settle_core (new old : State) (j : Nat) (h : (new.mem.stalled && !old.mem.stalled) = false) :
    (new.settle old).core j = new.core j := by
  simp [State.core, h]
@[simp] theorem State.settle_region (new old : State) (j : Nat) (h : (new.mem.stalled && !old.mem.stalled) = false) :
    (new.settle old).region j = new.region j := by
  simp [State.region, h]
@[simp] theorem State.settle_port (new old : State) (j : Nat) (h : (new.mem.stalled && !old.mem.stalled) = false) :
    (new.settle old).port j = new.port j := by
  simp [State.port, h]
@[simp] theorem State.settle_peer (new old : State) (j : Nat) (h : (new.mem.stalled && !old.mem.stalled) = false) :
    (new.settle old).peer j = new.peer j := by
  simp [State.peer, h]
@[simp] theorem State.settle_chan (new old : State) (j : Nat) (h : (new.mem.stalled && !old.mem.stalled) = false) :
    (new.settle old).chan j = new.chan j := by
  simp [State.chan, h]
@[simp] theorem State.settle_domain (new old : State) (j : Nat) (h : (new.mem.stalled && !old.mem.stalled) = false) :
    (new.settle old).domain j = new.domain j := by
  simp [State.domain, h]
@[simp] theorem State.settle_tdi (new old : State) (j : Nat) (h : (new.mem.stalled && !old.mem.stalled) = false) :
    (new.settle old).tdi j = new.tdi j := by
  simp [State.tdi, h]
@[simp] theorem State.settle_owner (new old : State) (j : Nat) (h : (new.mem.stalled && !old.mem.stalled) = false) :
    (new.settle old).owner j = new.owner j := by
  simp [State.owner, h]
@[simp] theorem State.settle_fn (new old : State) (j : Nat) (h : (new.mem.stalled && !old.mem.stalled) = false) :
    (new.settle old).fn j = new.fn j := by
  simp [State.fn, h]
@[simp] theorem State.settle_reg (new old : State) (j : Nat) (h : (new.mem.stalled && !old.mem.stalled) = false) :
    (new.settle old).reg j = new.reg j := by
  simp [State.reg, h]

end Sys2Proof.Machine
end

