-- ==== Sys2Proof/Laws/Touch.lean ====
section
/-!
SUPPORT. What a read and a write of a stage or an engine do to the bytes that readers find: a read changes none, a write those it stores.
-/
namespace Sys2Proof.Machine

theorem linePieces_mem {fuel a n : Nat} {p : Nat × Nat} (h : p ∈ linePieces fuel a n) : a ≤ p.1 ∧ p.1 + p.2 ≤ a + n := by
  induction fuel generalizing a n with
  | zero => simp [linePieces] at h
  | succ f ih =>
    unfold linePieces at h
    split at h
    · cases h
    · rcases List.mem_cons.mp h with rfl | h
      · dsimp only; omega
      · have := ih h; omega

/-- The bytes a store puts into a line. -/
theorem dirtyGet_new (a : Nat) (bs : List Byte) (l x : Nat) :
    dirtyGet (((List.range bs.length).map (fun i => (a + i, bs.getD i 0))).filter (fun c => c.1 / 256 == l)) x
      = if a ≤ x ∧ x < a + bs.length ∧ x / 256 = l then some (bs.getD (x - a) 0) else none := by
  have key : ∀ n, dirtyGet (((List.range n).map (fun i => (a + i, bs.getD i 0))).filter (fun c => c.1 / 256 == l)) x
      = if a ≤ x ∧ x < a + n ∧ x / 256 = l then some (bs.getD (x - a) 0) else none := by
    intro n
    induction n with
    | zero => simp [dirtyGet]; intro h1 h2; omega
    | succ n ih =>
      rw [List.range_succ, List.map_append, List.filter_append, dirtyGet_append, ih]
      by_cases hx : x = a + n
      · subst hx
        by_cases hl : (a + n) / 256 = l
        · simp [dirtyGet, hl]
        · simp [dirtyGet, hl]
      · have : dirtyGet (((List.map (fun i => (a + i, bs.getD i 0)) [n])).filter (fun c => c.1 / 256 == l)) x = none := by
          apply dirtyGet_none
          intro c hc
          have := (List.mem_filter.mp hc).1
          simp at this
          subst this
          exact fun e => hx e.symm
        rw [this]
        simp only [Option.or_none]
        have : (a ≤ x ∧ x < a + n ∧ x / 256 = l) ↔ (a ≤ x ∧ x < a + (n + 1) ∧ x / 256 = l) := by omega
        simp only [this]
  exact key bs.length

theorem find_map_line (ls : List GLine) (f : GLine → GLine) (hf : ∀ g, (f g).line = g.line) (l : Nat) :
    (ls.map f).find? (fun g => g.line == l) = (ls.find? (fun g => g.line == l)).map f := by
  induction ls with
  | nil => rfl
  | cons g rest ih => simp only [List.map_cons, List.find?_cons, hf]; split <;> simp_all

theorem State.storeLine_peek (s : State) (l a : Nat) (bs : List Byte) (clean : Bool) (hl : (s.resident l).isSome) (x : Nat) :
    (s.storeLine l a bs clean).peek x
      = if a ≤ x ∧ x < a + bs.length ∧ x / 256 = l then bs.getD (x - a) 0 else s.peek x := by
  unfold State.peek State.resident State.storeLine
  dsimp only
  rw [find_map_line _ _ (by intro g; split <;> rfl)]
  unfold State.resident at hl
  by_cases hx : x / 256 = l
  · rw [hx]
    obtain ⟨g, hg⟩ := Option.isSome_iff_exists.mp hl
    have hgl : g.line = l := by simpa using List.find?_some hg
    simp only [hg, Option.map_some, hgl, beq_self_eq_true, if_true]
    rw [dirtyGet_append, dirtyGet_new]
    by_cases hin : a ≤ x ∧ x < a + bs.length
    · simp [hin, hx]
    · have h0 : ¬ (a ≤ x ∧ x < a + bs.length ∧ x / 256 = l) := by omega
      rw [if_neg h0, dirtyGet_filter]
      · simp only [Option.none_or]
        rw [if_neg (by omega)]
      · intro v; simp; omega
  · have h0 : ¬ (a ≤ x ∧ x < a + bs.length ∧ x / 256 = l) := by omega
    rw [if_neg h0]
    cases hf : s.mem.lines.find? (fun g => g.line == x / 256) with
    | none => rfl
    | some g =>
      have hgl : g.line = x / 256 := by simpa using List.find?_some hf
      have : ¬ g.line = l := by rw [hgl]; exact hx
      simp [this]

theorem State.resident_congr {s t : State} (h : t.mem.lines = s.mem.lines) (l : Nat) : t.resident l = s.resident l := by
  unfold State.resident; rw [h]

theorem State.hit_resident (s : State) (g : GLine) (hint : Nat) (who : Option Nat) (w : Bool) : ((s.hit g hint who w).resident g.line).isSome := by
  unfold State.hit State.resident
  dsimp only
  rw [List.find?_isSome]
  split
  · exact ⟨_, List.mem_cons_self, by simp⟩
  · exact ⟨_, List.mem_append_right _ List.mem_cons_self, by simp⟩

theorem State.allocate_resident (s : State) (l hint : Nat) (mark : Option Nat) : ((s.allocate l hint mark).resident l).isSome := by
  unfold State.allocate State.resident placeLine
  dsimp only
  rw [List.find?_isSome]
  split
  · exact ⟨_, List.mem_cons_self, by simp⟩
  · exact ⟨_, List.mem_append_right _ List.mem_cons_self, by simp⟩

theorem State.touchWrite_peek (s : State) (a : Nat) (bs : List Byte) (hint : Nat) (who : Option Nat) (h : s.mem.Ok) (hu : s.UnitsIn) :
    ((s.touchWrite (a / 256) a bs hint who).2.UnitsIn) ∧ ∀ x,
    (s.touchWrite (a / 256) a bs hint who).2.peek x
      = if (s.touchWrite (a / 256) a bs hint who).1 = false ∧ a ≤ x ∧ x < a + bs.length ∧ x / 256 = a / 256 then bs.getD (x - a) 0 else s.peek x := by
  unfold State.touchWrite
  dsimp only
  split
  · exact ⟨hu, by simp⟩
  · have key : ∀ t : State, t.UnitsIn → (∀ x, t.peek x = s.peek x) → (t.resident (a / 256)).isSome → ∀ (b : Bool) (c : Prop) [Decidable c],
        ((if c then t.clearPoison (a / 256) else t).storeLine (a / 256) a bs b).UnitsIn ∧
        ∀ x, ((if c then t.clearPoison (a / 256) else t).storeLine (a / 256) a bs b).peek x =
          if a ≤ x ∧ x < a + bs.length ∧ x / 256 = a / 256 then bs.getD (x - a) 0 else s.peek x := by
      intro t htu htp htr b c _
      constructor
      · intro u
        split
        · show ((t.clearPoison (a / 256)).unit u).st ≠ _
          rw [State.clearPoison_st]; exact htu u
        · exact htu u
      · intro x
        rw [State.storeLine_peek]
        · have : (if c then t.clearPoison (a / 256) else t).peek x = s.peek x := by
            split
            · rw [← htp x]; rfl
            · exact htp x
          rw [this]
        · split
          · exact htr
          · exact htr
    have hw : ((match s.resident (a / 256) with
        | some g => (s.tick1 grnHit).hit g hint who true
        | none => (s.tick1 grnMiss).allocate (a / 256) hint none).UnitsIn) ∧ (∀ x, (match s.resident (a / 256) with
        | some g => (s.tick1 grnHit).hit g hint who true
        | none => (s.tick1 grnMiss).allocate (a / 256) hint none).peek x = s.peek x) ∧ ((match s.resident (a / 256) with
        | some g => (s.tick1 grnHit).hit g hint who true
        | none => (s.tick1 grnMiss).allocate (a / 256) hint none).resident (a / 256)).isSome := by
      split
      · rename_i g hg
        obtain ⟨h1, h2⟩ := State.resident_mem hg
        have := State.hit_peek (s.tick1 grnHit) g hint who true h h1 hu
        exact ⟨this.2, this.1, h2 ▸ State.hit_resident _ _ _ _ _⟩
      · rename_i hn
        have := State.allocate_peek (s.tick1 grnMiss) (a / 256) hint none h hn hu
        exact ⟨this.2, this.1, State.allocate_resident _ _ _ _⟩
    have := key _ hw.1 hw.2.1 hw.2.2 (a % 256 == 0 && bs.length == 256) ((a % 256 == 0 && bs.length == 256) = true)
    refine ⟨this.1, fun x => (this.2 x).trans ?_⟩
    simp

theorem State.meet_mem (s : State) (n : Option Nat) (st : Nat) : (s.meet n st).mem = s.mem := by
  unfold State.meet; split
  · rfl
  · split
    · rfl
    · split <;> rfl

theorem State.msix_mem (s : State) (f v : Nat) : (s.msix f v).mem = s.mem := by
  unfold State.msix; dsimp only; repeat' split
  all_goals rfl

theorem State.notify_mem (s : State) : s.notifySecure.mem = s.mem := by
  unfold State.notifySecure; extract_lets; split
  · exact State.msix_mem _ _ _
  · rfl

theorem State.poisonRead_mem (s : State) (w : Bool) (f a : Nat) : (s.poisonRead w f a).mem = s.mem := by
  unfold State.poisonRead; extract_lets; split
  · exact State.notify_mem _
  · rfl

theorem State.logDenial_mem (s : State) (f : Nat) (w : Bool) (d a : Nat) : (s.logDenial f w d a).mem = s.mem := by
  unfold State.logDenial; dsimp only; split <;> rfl

theorem State.deny_mem (s : State) (w : Bool) (f a : Nat) : (s.deny w f a).mem = s.mem := by
  unfold State.deny; split
  · rfl
  · extract_lets t
    have : t.mem = s.mem := State.logDenial_mem _ _ _ _ _
    split
    · rw [State.notify_mem]; exact this
    · split
      · rw [State.notify_mem]; exact this
      · exact this

theorem State.units_congr {s t : State} (h : t.mem = s.mem) (hu : s.UnitsIn) : t.UnitsIn := by
  intro u; unfold State.unit; rw [h]; exact hu u

/-- A read of a piece of a line changes no byte, whether its line can be reached or not. -/
theorem State.lineGet_peek (s : State) (a n hint : Nat) (mark : Option Nat) (h : s.mem.Ok) (hu : s.UnitsIn) :
    (s.lineGet a n hint mark).2.2.UnitsIn ∧ ∀ x, (s.lineGet a n hint mark).2.2.peek x = s.peek x := by
  unfold State.lineGet
  extract_lets l zeros
  have ht := State.touchRead_peek s l hint mark h hu
  repeat' split
  · exact ⟨hu, fun _ => rfl⟩
  · exact ⟨hu, fun _ => rfl⟩
  · exact ⟨ht.2, ht.1⟩
  · exact ⟨ht.2, ht.1⟩

theorem State.readPiece_peek (s : State) (who : Requester) (a n hint : Nat) (h : s.mem.Ok) (hu : s.UnitsIn) :
    (s.readPiece who a n hint).2.2.UnitsIn ∧ ∀ x, (s.readPiece who a n hint).2.2.peek x = s.peek x := by
  unfold State.readPiece
  extract_lets l zeros t st
  have pr := fun (t : State) (ht : t.mem = s.mem) => (⟨State.units_congr ht hu, fun x => State.peek_congr ht x⟩ : t.UnitsIn ∧ ∀ x, t.peek x = s.peek x)
  split
  · split
    · exact pr _ (State.poisonRead_mem _ _ _ _)
    · split
      · exact pr _ (State.poisonRead_mem t _ _ _)
      · exact pr _ rfl
  · exact ⟨hu, fun _ => rfl⟩
  · split
    · dsimp only
      split
      · exact pr _ (State.deny_mem _ _ _ _)
      · exact ⟨hu, fun _ => rfl⟩
    · have hg := State.lineGet_peek s a n hint who.stage h hu
      generalize s.lineGet a n hint who.stage = r at hg ⊢
      obtain ⟨bs, bad, t⟩ := r
      dsimp only
      split
      · exact ⟨State.units_congr (State.poisonRead_mem _ _ _ _) hg.1,
          fun x => (State.peek_congr (State.poisonRead_mem _ _ _ _) x).trans (hg.2 x)⟩
      · exact hg

/-- Bytes outside those stored keep their value, the line resident or not. -/
theorem State.storeLine_other (s : State) (l a : Nat) (bs : List Byte) (clean : Bool) (x : Nat)
    (hx : ¬ (a ≤ x ∧ x < a + bs.length)) : (s.storeLine l a bs clean).peek x = s.peek x := by
  cases hl : s.resident l with
  | some g =>
    rw [State.storeLine_peek s l a bs clean (by simp [hl]), if_neg (fun h => hx ⟨h.1, h.2.1⟩)]
  | none =>
    have hn := State.resident_none hl
    have : (s.storeLine l a bs clean).mem.lines = s.mem.lines := by
      unfold State.storeLine
      dsimp only
      refine (List.map_congr_left (fun g hg => ?_)).trans (List.map_id _)
      have : (g.line == l) = false := by simpa using hn g hg
      rw [this]; rfl
    unfold State.peek State.resident
    rw [this]
    rfl

theorem State.storeAll_other (s : State) (l : Nat) (cells : List Host.Cell) (x : Nat) (hx : ∀ c ∈ cells, c.1 ≠ x) :
    (cells.foldl (fun s c => s.storeLine l c.1 [c.2] false) s).peek x = s.peek x := by
  induction cells generalizing s with
  | nil => rfl
  | cons c rest ih =>
    rw [List.foldl_cons, ih _ (fun c' h => hx c' (by simp [h]))]
    refine State.storeLine_other s l c.1 [c.2] false x (fun h => hx c (by simp) ?_)
    simp only [List.length_cons, List.length_nil] at h
    omega

theorem State.storeAll_units (s : State) (l : Nat) (cells : List Host.Cell) :
    (cells.foldl (fun s c => s.storeLine l c.1 [c.2] false) s).mem.units = s.mem.units := by
  induction cells generalizing s with
  | nil => rfl
  | cons c rest ih => rw [List.foldl_cons, ih]; rfl

/-- What a stage's write of a part of a block does to the rest of memory: it may write again bytes of that 64-byte block (spec/04 R114),
and no other. -/
theorem State.shareBlock_peek (s : State) (n a : Nat) (bs : List Byte) (hu : s.UnitsIn) :
    (s.shareBlock n a bs).UnitsIn ∧ ∀ x, x / 64 ≠ a / 64 → (s.shareBlock n a bs).peek x = s.peek x := by
  unfold State.shareBlock
  extract_lets ring here mine foreign old0 old late rest new src t
  have ht : t.UnitsIn := hu
  split
  · refine ⟨fun u => ?_, fun x hx => ?_⟩
    · unfold State.unit; rw [State.storeAll_units]; exact hu u
    · refine (State.storeAll_other _ _ _ _ (fun c hc he => ?_)).trans rfl
      have h2 := (List.mem_filter.mp hc).2
      simp only [Bool.and_eq_true, beq_iff_eq] at h2
      exact hx (he ▸ h2.1)
  · exact ⟨hu, fun _ _ => rfl⟩

theorem blockPieces_mem {fuel a n : Nat} {p : Nat × Nat} (h : p ∈ blockPieces fuel a n) : a ≤ p.1 ∧ p.1 < a + n := by
  induction fuel generalizing a n with
  | zero => simp [blockPieces] at h
  | succ f ih =>
    unfold blockPieces at h
    split at h
    · cases h
    · rcases List.mem_cons.mp h with rfl | h
      · dsimp only; omega
      · have := ih h; omega

/-- The bytes a write of `n` bytes at `a` may change: those it stores, and of a stage those of the 64-byte blocks it touches, which
belong to one stage at a time (spec/04 R114). -/
def Reached (who : Option Nat) (a n x : Nat) : Prop :=
  if who.isSome then a / 64 * 64 ≤ x ∧ x < (a + n + 63) / 64 * 64 else a ≤ x ∧ x < a + n

theorem Reached.stored {who : Option Nat} {a n x : Nat} (h : a ≤ x ∧ x < a + n) : Reached who a n x := by
  unfold Reached; split
  · omega
  · exact h

theorem State.share_peek (s : State) (who : Option Nat) (a : Nat) (bs : List Byte) (hu : s.UnitsIn) :
    (s.share who a bs).UnitsIn ∧ ∀ x, ¬ Reached who a bs.length x → (s.share who a bs).peek x = s.peek x := by
  unfold State.share
  cases who with
  | none => exact ⟨hu, fun _ _ => rfl⟩
  | some n =>
    dsimp only
    have key : ∀ (ps : List (Nat × Nat)) (t : State), (∀ p ∈ ps, a ≤ p.1 ∧ p.1 < a + bs.length) → t.UnitsIn →
        (ps.foldl (fun s p => s.shareBlock n p.1 ((bs.drop (p.1 - a)).take p.2)) t).UnitsIn ∧
        ∀ x, ¬ Reached (some n) a bs.length x →
          (ps.foldl (fun s p => s.shareBlock n p.1 ((bs.drop (p.1 - a)).take p.2)) t).peek x = t.peek x := by
      intro ps
      induction ps with
      | nil => exact fun t _ ht => ⟨ht, fun _ _ => rfl⟩
      | cons p ps ih =>
        intro t hp ht
        have h1 := State.shareBlock_peek t n p.1 ((bs.drop (p.1 - a)).take p.2) ht
        have h2 := ih _ (fun q hq => hp q (by simp [hq])) h1.1
        refine ⟨h2.1, fun x hx => (h2.2 x hx).trans (h1.2 x (fun he => hx ?_))⟩
        have := hp p (by simp)
        simp only [Reached, Option.isSome_some, if_true]
        omega
    exact key _ s (fun p hp => blockPieces_mem hp) hu

theorem State.writePiece_peek (s : State) (who : Requester) (a : Nat) (bs : List Byte) (hint : Nat) (h : s.mem.Ok) (hu : s.UnitsIn) :
    (s.writePiece who a bs hint).2.UnitsIn ∧
      ∀ x, ¬ Reached who.stage a bs.length x → (s.writePiece who a bs hint).2.peek x = s.peek x := by
  unfold State.writePiece
  extract_lets l
  have pr := fun (t : State) (ht : t.mem = s.mem) => (⟨State.units_congr ht hu, fun x _ => State.peek_congr ht x⟩ :
    t.UnitsIn ∧ ∀ x, ¬ Reached who.stage a bs.length x → t.peek x = s.peek x)
  split
  · split
    · exact ⟨hu, fun _ _ => rfl⟩
    · refine ⟨hu, fun x hx => ?_⟩
      show (match s.mem.lines.find? (fun g => g.line == x / 256) with
        | none => cellGet (cellsPut s.mem.cells a bs) x
        | some g => (dirtyGet g.dirty x).getD (cellGet (cellsPut s.mem.cells a bs) x)) = s.peek x
      have hx : x < a ∨ a + bs.length ≤ x := by
        rcases Nat.lt_or_ge x a with h1 | h1
        · exact .inl h1
        · exact .inr (Nat.le_of_not_lt (fun h2 => hx (Reached.stored ⟨h1, h2⟩)))
      rw [cellGet_puts_other h.cells bs hx]
      rfl
  · exact ⟨hu, fun _ _ => rfl⟩
  · split
    · dsimp only; split
      · exact pr _ (State.deny_mem _ _ _ _)
      · exact ⟨hu, fun _ _ => rfl⟩
    · split
      · exact ⟨hu, fun _ _ => rfl⟩
      · split
        · exact ⟨hu, fun _ _ => rfl⟩
        · have := State.touchWrite_peek s a bs hint who.stage h hu
          have hl : l = a / 256 := rfl
          rw [hl]
          generalize s.touchWrite (a / 256) a bs hint who.stage = r at this ⊢
          obtain ⟨d, t⟩ := r
          have ho : ∀ x, ¬ Reached who.stage a bs.length x → t.peek x = s.peek x := by
            intro x hx
            refine (this.2 x).trans ?_
            rw [if_neg (fun hc => hx (Reached.stored ⟨hc.2.1, hc.2.2.1⟩))]
          dsimp only
          split
          · exact ⟨this.1, ho⟩
          · have hs := State.share_peek t who.stage a bs this.1
            exact ⟨hs.1, fun x hx => (hs.2 x hx).trans (ho x hx)⟩

end Sys2Proof.Machine
end

