-- ==== Sys2Proof/Tests/Slice0.lean ====
section
/-!
SUPPORT. The author's own tests: commands that the checks of WellFormed refuse, values that the spec works out, and for each statement of
Certificates/Slice0/Obligations.lean a state that meets what it assumes (witness_<its name>, the clauses in their order).
-/
namespace Sys2Proof.Tests
open Sys2Proof Sys2Proof.Machine

set_option Elab.async false

/-! ### States to build on -/

/-- A structure with fields written over: offset, bytes, value. -/
def put (d : List Byte) (xs : List (Nat × Nat × Nat)) : List Byte := xs.foldl (fun d x => putBytes d x.1 (toLE x.2.1 x.2.2)) d

/-- A descriptor of an opcode with fields written over, without its CRC. -/
def desc (op : Nat) (xs : List (Nat × Nat × Nat)) : List Byte := put (List.replicate 256 0#8) ((0, 1, op) :: xs)

/-- A stage of ring 1 with a sequence number, a phase and a descriptor. -/
def stg (seq : Nat) (ph : StPhase) (d : List Byte) : Stage :=
  { ring := 1, seq := BitVec.ofNat 32 seq, secure := false, fn := 0, desc := d, phase := ph }

/-- The state after reset, READY, with rings 0 to 5 DISABLED, RUNNING, STOPPED, DRAINING, RESETTING, RUNNING; ring 5 is VF 1's. -/
def live : State := { State.reset with
  hif := { State.reset.hif with
    notReady := false
    rings := [(0, {}), (1, { st := .running }), (2, { st := .stopped }), (3, { st := .draining }), (4, { st := .resetting }),
      (5, { st := .running })]
    fns := [(1, { ringBase := 5, ringCount := 1 })] }
  boot := { State.reset.boot with ended := [(0, 0)], full := true, spdm := true } }

/-- `live` with stages in their slots. -/
def withStages (xs : List (Nat × Stage)) : State := { live with dsp := { live.dsp with stages := xs } }

/-- `live` with one stage in slot 0. -/
def withStage (st : Stage) : State := withStages [(0, st)]

/-- `live` in safe mode; with function `f` in RUN, whose requests come on no IDE stream; with a command that waits. -/
def safe : State := { live with hif := { live.hif with safeMode := true } }
def running (f : Nat) : State := { live with hif := { live.hif with td := [(f, .run)] } }
def stalled : State := { live with mem := { live.mem with stalled := true } }
/-- A fatal event on a state. -/
def dying (s : State) : State := { s with flt := { s.flt with diagFatal := 9 } }

/-- `live` with the first 2 MiB VALID and Open, and both hubs' memory in service. -/
def openMem : State := { live with
  sec := { live.sec with regions := [(0, { valid := true, size := 1 })] }
  mem := { live.mem with inService := [true, true], units := [0, 1, 2, 3].map (fun u => (u, { st := .service })) } }

/-- A read that answers bytes, or a status. -/
theorem inl_of {α β γ : Type} {p : (α ⊕ β) × γ} (h : p.1.isLeft = true) : ∃ b s, p = (.inl b, s) := by
  obtain ⟨b | c, s⟩ := p
  · exact ⟨b, s, rfl⟩
  · cases h
theorem inr_of {α β γ : Type} {p : (α ⊕ β) × γ} (h : p.1.isRight = true) : ∃ c s, p = (.inr c, s) := by
  obtain ⟨b | c, s⟩ := p
  · cases h
  · exact ⟨c, s, rfl⟩

theorem live_reaches (r : Nat) (h : r < 65536) (h5 : r ≠ 5) : live.Reaches 0 r false r := by
  have h6 : ¬ (5 ≤ r ∧ r < 6) := by omega
  exact ⟨rfl, rfl, if_pos h, by simp [State.owner, live, h6]⟩

theorem tiers_of_empty {s : State} (h : s.mem.cells = []) (h' : s.mem.lines = []) : s.Inv :=
  ⟨by rw [h]; rfl, by rw [h']; exact List.nodup_nil, by rw [h']; simp⟩

theorem live_inv : live.Inv := tiers_of_empty rfl rfl

/-! ### Ill-formed commands: one term for each check, with one number at its bound or a message one byte short -/

/-- Each is refused. -/
theorem test_refused_1 :
    ([.hifDbSqTail 65 0 .plain 0 false, .hifDbSqTail 0 65536 .plain 0 false, .hifDbCqHead 65 0 .plain 0 false,
   .hifDbCqHead 0 65536 .plain 0 false, .enable 65 0 false, .enable 0 65536 false, .resume 65 0 false, .resume 0 65536 false,
   .drain 65 0 false, .drain 0 65536 false, .reset 65 0 false, .reset 0 65536 false, .functionLevelReset 65,
   .ringResetComplete 65536, .descriptorArrival 65536 [], .descriptorFetchFault 65536 .data, .admitStage 2048,
   .chainBlockCheck 2048, .stageStart 2048, .stageComplete 2048] : List Instr).all (fun c => !c.wf) = true
    ∧ ([.cqEntryWrite 65536, .cqWriteFault 65536, .irqDelayExpiry 65536, .pcieConfigRequest 65 ⟨.ids, none⟩, .bar4Read 65 0 0 false,
   .bar4Read 0 (2 ^ 48) 0 false, .bar4Write 65 0 [] false, .bar4Write 0 (2 ^ 48) [] false, .registerWrite 65 0 0 0 0 false,
   .registerWrite 0 0 0 (2 ^ 12) 0 false, .registerLowWordRead 65 ⟨0, 0, false⟩, .registerLowWordRead 0 ⟨0, 2 ^ 48, false⟩,
   .hifFnTableWrite 65 0 0 .plain 0, .hifFnTableWrite 0 65 0 .plain 0, .hifVfReprio 65 .plain 0 false,
   .hifVfKeyReq 65 .plain 0 false, .regCtrlWrite 256 .plain 0, .taskStart 96, .arrayPassComplete 96, .taskPassesEnd 96] : List Instr).all (fun c => !c.wf) = true
    ∧ ([.harrowRowEnd 96, .spillComplete 96, .restoreComplete 96 false, .taskDrainStart 96, .taskDrainEnd 96, .arrayClockStop 96 0,
   .arrayClockStop 0 4, .gleanRequest 96, .gleanServe 96, .gleanTransferComplete 96, .gleanExclusionExpiry 96 0,
   .gleanExclusionExpiry 0 96, .fenceComplete 2048, .barrierArrive 2048, .spillHintRun 2048, .arrivalTimeout 2048,
   .laneContextTakeover 96, .kvAppendStart 2048, .kvAppendComplete 2048, .kvReleaseStart 2048] : List Instr).all (fun c => !c.wf) = true := by decide +kernel

/-- Each is refused. -/
theorem test_refused_2 :
    ([.kvReleaseComplete 2048, .memoryRead ⟨false, 0, none⟩ (2 ^ 48) 0 0, .memoryWrite ⟨false, 0, none⟩ (2 ^ 48) [] 0,
   .missFillComplete (2 ^ 40) .clean, .atomicRequest ⟨false, 0, none⟩ (2 ^ 48) 0 0 false [], .atomicApplyMc (2 ^ 40) .clean,
   .rowRemapComplete 24, .scrubRead 24 .clean false, .memTempRead 24 none, .unitRetrainStart 24 0,
   .unitRetrainAttemptEnd 24 false, .linkFrameRx 32 0 [] [], .dataFlitWrite 32 (List.replicate 256 0),
   .dataFlitWrite 0 (List.replicate 255 0), .dataFlitAtomic 32 (List.replicate 256 0), .dataFlitAtomic 0 (List.replicate 255 0),
   .dataFlitReadData 32 (List.replicate 256 0), .dataFlitReadData 0 (List.replicate 255 0),
   .dataFlitReadPoison 32 (List.replicate 256 0), .dataFlitReadPoison 0 (List.replicate 255 0)] : List Instr).all (fun c => !c.wf) = true
    ∧ ([.controlFlitRx 32 (List.replicate 256 0), .controlFlitRx 0 (List.replicate 255 0), .controlReplayTimeout 1024,
   .creditReturn 32, .hello 32 0 [], .hello 0 1024 [], .leave 1024, .time 1024 [], .winReq 1024 [], .winGrant 1024 [],
   .winDeny 1024 [], .winEnd 1024 [], .winDone 1024 [], .winDoneTimeout 4096, .readReq 1024 [], .readEnd 1024 [], .coll 1024 [],
   .weloc 1024 [], .key 32 [], .routeDrop 1024 []] : List Instr).all (fun c => !c.wf) = true
    ∧ ([.peerTimeout 1024, .retrainGraceExpiry 1024, .peerAbsentTimeout 1024, .portCalibrateEnd 32 false, .portAlignEnd 32 false,
   .portVerifyEnd 32 false, .portAuthEnd 32 false, .portTrainTimeout 32, .portRetryTimer 32, .portRetrainEntry 32 .lockLost,
   .microringRecal 32, .microringRecalEnd 32, .laserModuleInsert 4, .laserModuleRemove 4, .laserPresenceTimer 4, .copyStart 2048,
   .copyPieceComplete 2048, .collectiveStart 2048, .collectiveJoinTimeout 2048, .collectiveBlockReduce 2048 0] : List Instr).all (fun c => !c.wf) = true := by decide +kernel

/-- Each is refused. -/
theorem test_refused_3 :
    ([.collectivePartialTimeout 2048, .collectiveComplete 2048, .ingestStart 2048, .liveQueuePoll 2048 0, .liveQueuePoll 0 4096,
   .ingestWaitTimeout 2048 0, .ingestWaitTimeout 0 4096, .ingestEntryComplete 2048 0, .ingestEntryComplete 0 4096,
   .ingestComplete 2048, .pyramidStart 2048, .pyramidLevelComplete 2048, .vdecOpen 2048, .vdecDecode 2048, .vdecRelease 2048,
   .vdecClose 2048, .decodePictureOutput 2048, .vidPoolWaitTimeout 2048, .vencOpen 2048, .vencEncode 2048] : List Instr).all (fun c => !c.wf) = true
    ∧ ([.vencClose 2048, .encodeUnitWritten 2048, .paceStart 2048, .paceCommit 2048, .paceStop 2048, .paceLatch 16,
   .paceCopyComplete 16, .welocContextTimeout 8, .entdaa 2 0, .setnewda 2 0, .rstdaa 2, .setmwl 2 0, .setmrl 2 0,
   .i3cPrivateRead 2, .i3cHotJoinTimer 2, .fwSlotEraseComplete 2, .fnImageWrite ⟨.doe, 0, none⟩ 256 [],
   .regionRunWrite ⟨.doe, 0, none⟩ 256 0 0, .getCertificate .doe 8 0 0, .getCertificate .doe 0 65536 0] : List Instr).all (fun c => !c.wf) = true
    ∧ ([.challenge .doe 8 [], .getMeasurements .doe 256 false [], .finish 4 none false, .heartbeat 4, .keyUpdate 4 0, .endSession 4,
   .getTdispVersion 4 0, .getTdispVersion 0 65, .getTdispCapabilities 4 0, .getTdispCapabilities 0 65, .lockInterfaceRequest 4 0,
   .lockInterfaceRequest 0 65, .getDeviceInterfaceReport 4 0, .getDeviceInterfaceReport 0 65, .getDeviceInterfaceState 4 0,
   .getDeviceInterfaceState 0 65, .startInterfaceRequest 4 0, .startInterfaceRequest 0 65, .stopInterfaceRequest 4 0,
   .stopInterfaceRequest 0 65] : List Instr).all (fun c => !c.wf) = true := by decide +kernel

/-- Each is refused. -/
theorem test_refused_4 :
    ([.tdispUnsupportedRequest 4 0 0, .tdispUnsupportedRequest 0 65 0, .ideKmKeyProg 4 0 0 [] [], .ideKmKeyProg 0 4 0 [] [],
   .ideStreamFail 4, .doeDiscovery 256, .regionClearComplete 256, .domainClockGate 212, .domainDrainStart 212,
   .domainDrainComplete 212, .domainPowerOffComplete 212, .gatePacketArrival 212 0, .domainWakeComplete 212,
   .pstateChangeComplete 8, .dieTempSample (List.replicate 39 0), .thermalTrip 10, .supplyWarning 11 0, .supplyResetLevel 11 0,
   .bringupStepRun 24 0, .bringupStepRun 0 128] : List Instr).all (fun c => !c.wf) = true
    ∧ ([.bringupAttemptEnd 24 0 false 0 0, .bringupAttemptEnd 0 128 false 0 0, .bringupAttemptTimeout 24 0,
   .bringupAttemptTimeout 0 128, .hostWindowCompletion (2 ^ 48) .data []] : List Instr).all (fun c => !c.wf) = true := by decide +kernel

/-- One less than each bound, and the message lengths of the spec: each is accepted. -/
theorem test_accepted_1 :
    ([.hifDbSqTail 64 65535 .plain 0 false, .hifDbCqHead 64 65535 .plain 0 false, .enable 64 65535 false, .resume 64 65535 false,
   .drain 64 65535 false, .reset 64 65535 false, .functionLevelReset 64, .ringResetComplete 65535, .descriptorArrival 65535 [],
   .descriptorFetchFault 65535 .data, .admitStage 2047, .chainBlockCheck 2047, .stageStart 2047, .stageComplete 2047,
   .cqEntryWrite 65535, .cqWriteFault 65535, .irqDelayExpiry 65535, .pcieConfigRequest 64 ⟨.ids, none⟩, .bar4Read 64 (2 ^ 48 - 1) 0 false,
   .bar4Write 64 (2 ^ 48 - 1) [] false] : List Instr).all (fun c => c.wf) = true
    ∧ ([.registerWrite 64 0 (2 ^ 36 - 1) (2 ^ 12 - 1) 0 false, .registerLowWordRead 64 ⟨0, 2 ^ 48 - 1, false⟩, .hifFnTableWrite 64 64 0 .plain 0,
   .hifVfReprio 64 .plain 0 false, .hifVfKeyReq 64 .plain 0 false, .regCtrlWrite 255 .plain 0, .taskStart 95,
   .arrayPassComplete 95, .taskPassesEnd 95, .harrowRowEnd 95, .spillComplete 95, .restoreComplete 95 false, .taskDrainStart 95,
   .taskDrainEnd 95, .arrayClockStop 95 3, .gleanRequest 95, .gleanServe 95, .gleanTransferComplete 95,
   .gleanExclusionExpiry 95 95, .fenceComplete 2047] : List Instr).all (fun c => c.wf) = true
    ∧ ([.barrierArrive 2047, .spillHintRun 2047, .arrivalTimeout 2047, .laneContextTakeover 95, .kvAppendStart 2047,
   .kvAppendComplete 2047, .kvReleaseStart 2047, .kvReleaseComplete 2047, .memoryRead ⟨false, 0, none⟩ (2 ^ 48 - 1) 0 0,
   .memoryWrite ⟨false, 0, none⟩ (2 ^ 48 - 1) [] 0, .missFillComplete (2 ^ 40 - 1) .clean,
   .atomicRequest ⟨false, 0, none⟩ (2 ^ 48 - 1) 0 0 false [], .atomicApplyMc (2 ^ 40 - 1) .clean, .rowRemapComplete 23,
   .scrubRead 23 .clean false, .memTempRead 23 none, .unitRetrainStart 23 0, .unitRetrainAttemptEnd 23 false,
   .linkFrameRx 31 0 [] [], .dataFlitWrite 31 (List.replicate 256 0)] : List Instr).all (fun c => c.wf) = true := by decide +kernel

/-- One less than each bound, and the message lengths of the spec: each is accepted. -/
theorem test_accepted_2 :
    ([.dataFlitAtomic 31 (List.replicate 256 0), .dataFlitReadData 31 (List.replicate 256 0),
   .dataFlitReadPoison 31 (List.replicate 256 0), .controlFlitRx 31 (List.replicate 256 0), .controlReplayTimeout 1023,
   .creditReturn 31, .hello 31 1023 [], .leave 1023, .time 1023 [], .winReq 1023 [], .winGrant 1023 [], .winDeny 1023 [],
   .winEnd 1023 [], .winDone 1023 [], .winDoneTimeout 4095, .readReq 1023 [], .readEnd 1023 [], .coll 1023 [], .weloc 1023 [],
   .key 31 []] : List Instr).all (fun c => c.wf) = true
    ∧ ([.routeDrop 1023 [], .peerTimeout 1023, .retrainGraceExpiry 1023, .peerAbsentTimeout 1023, .portCalibrateEnd 31 false,
   .portAlignEnd 31 false, .portVerifyEnd 31 false, .portAuthEnd 31 false, .portTrainTimeout 31, .portRetryTimer 31,
   .portRetrainEntry 31 .lockLost, .microringRecal 31, .microringRecalEnd 31, .laserModuleInsert 3, .laserModuleRemove 3,
   .laserPresenceTimer 3, .copyStart 2047, .copyPieceComplete 2047, .collectiveStart 2047, .collectiveJoinTimeout 2047] : List Instr).all (fun c => c.wf) = true
    ∧ ([.collectiveBlockReduce 2047 0, .collectivePartialTimeout 2047, .collectiveComplete 2047, .ingestStart 2047,
   .liveQueuePoll 2047 4095, .ingestWaitTimeout 2047 4095, .ingestEntryComplete 2047 4095, .ingestComplete 2047,
   .pyramidStart 2047, .pyramidLevelComplete 2047, .vdecOpen 2047, .vdecDecode 2047, .vdecRelease 2047, .vdecClose 2047,
   .decodePictureOutput 2047, .vidPoolWaitTimeout 2047, .vencOpen 2047, .vencEncode 2047, .vencClose 2047,
   .encodeUnitWritten 2047] : List Instr).all (fun c => c.wf) = true := by decide +kernel

/-- One less than each bound, and the message lengths of the spec: each is accepted. -/
theorem test_accepted_3 :
    ([.paceStart 2047, .paceCommit 2047, .paceStop 2047, .paceLatch 15, .paceCopyComplete 15, .welocContextTimeout 7, .entdaa 1 0,
   .setnewda 1 0, .rstdaa 1, .setmwl 1 0, .setmrl 1 0, .i3cPrivateRead 1, .i3cHotJoinTimer 1, .fwSlotEraseComplete 1,
   .fnImageWrite ⟨.doe, 0, none⟩ 255 [], .regionRunWrite ⟨.doe, 0, none⟩ 255 0 0, .getCertificate .doe 7 65535 0,
   .challenge .doe 7 [], .getMeasurements .doe 255 false [], .finish 3 none false] : List Instr).all (fun c => c.wf) = true
    ∧ ([.heartbeat 3, .keyUpdate 3 0, .endSession 3, .getTdispVersion 3 64, .getTdispCapabilities 3 64, .lockInterfaceRequest 3 64,
   .getDeviceInterfaceReport 3 64, .getDeviceInterfaceState 3 64, .startInterfaceRequest 3 64, .stopInterfaceRequest 3 64,
   .tdispUnsupportedRequest 3 64 0, .ideKmKeyProg 3 3 0 [] [], .ideStreamFail 3, .doeDiscovery 255, .regionClearComplete 255,
   .domainClockGate 211, .domainDrainStart 211, .domainDrainComplete 211, .domainPowerOffComplete 211, .gatePacketArrival 211 0] : List Instr).all (fun c => c.wf) = true
    ∧ ([.domainWakeComplete 211, .pstateChangeComplete 7, .dieTempSample (List.replicate 40 0), .thermalTrip 9, .supplyWarning 10 0,
   .supplyResetLevel 10 0, .bringupStepRun 23 127, .bringupAttemptEnd 23 127 false 0 0, .bringupAttemptTimeout 23 127,
   .hostWindowCompletion (2 ^ 48 - 1) .data []] : List Instr).all (fun c => c.wf) = true := by decide +kernel

/-! ### Values that the spec works out -/

/-- spec/00, the worked example of R17: the nine ASCII digits. -/
theorem test_crc32c : crc32c [0x31, 0x32, 0x33, 0x34, 0x35, 0x36, 0x37, 0x38, 0x39] = 0xE3069283
    ∧ toLE 4 0xE3069283 = [0x83, 0x92, 0x06, 0xE3] := by decide +kernel

/-- The table gives its rows no bits, so no word spells a command. -/
theorem test_no_bits : decodeTableWord 16 0xFFFF = none ∧ decodeTableWord 8 0 = none ∧ State.reset.withFetchWord 8 1 = State.reset := by
  decide +kernel

/-- A group of BF16 products into an accumulator (spec/02). -/
def bf16Group (ps : List (Nat × Nat)) (padding : Nat) (acc : Nat) : Word64 × Flags :=
  let r := groupFp .mulAdd (ps.map (fun p => (decodeFp .bf16 p.1, decodeFp .bf16 p.2))) padding (ofAcc (BitVec.ofNat 64 acc))
  (toAcc r.1, r.2)

/-- spec/02, first worked example, the arrays in cases A and B. -/
theorem test_arrays_special :
    bf16Group [(0x3FC0, 0x4000), (0x7180, 0x7180), (0x7FC1, 0x3F80), (0x3E80, 0x4080), (0xBF80, 0x3F80)] 123 0 = (0x7FF8000000000000, 0)
    ∧ bf16Group [(0x3FC0, 0x4000), (0x7180, 0x7180), (0x0000, 0x3F80), (0x3E80, 0x4080), (0xBF80, 0x3F80)] 123 0
      = (0x4C70000000000001, flagInexact) := by decide +kernel

/-- spec/02 Table 2.12, the arrays in case B under RNE: the destinations and their flags. -/
theorem test_case_b_destinations :
    [Fmt.fp32, .bf16, .fp16, .e5m2, .e4m3, .e2m1].map (fun f => (encodeFp f .rne false 0 (ofAcc 0x4C70000000000001)).1)
      = [0x7F800000, 0x7F80, 0x7C00, 0x7C, 0x7F, 0x7]
    ∧ (encodeFp .e4m3 .rne false 0 (ofAcc 0x4C70000000000001)).2 = flagOverflow ||| flagInexact
    ∧ encodeFp .e4m3 .rne false 0 (.inf false) = (0x7F, flagInvalid) := by decide +kernel

/-- spec/02 after Table 2.12, the same under RTZ. -/
theorem test_case_b_rtz :
    [Fmt.fp32, .bf16, .fp16, .e5m2, .e4m3].map (fun f => (encodeFp f .rtz false 0 (ofAcc 0x4C70000000000001)).1)
      = [0x7F7FFFFF, 0x7F7F, 0x7BFF, 0x7B, 0x7E] := by decide +kernel

/-- spec/02, first worked example, the harrow's FP32 chain: the second step exceeds FP32, the third takes the NaN or the zero. -/
theorem test_harrow_chain :
    ieeeFma .fp32 .rne (decodeFp .fp32 0x71800000) (decodeFp .fp32 0x71800000) (decodeFp .fp32 0x40400000)
      = (.inf false, flagOverflow ||| flagInexact)
    ∧ ieeeFma .fp32 .rne (decodeFp .fp32 0x7FC10000) (decodeFp .fp32 0x3F800000) (.inf false) = (.nan, 0)
    ∧ ieeeFma .fp32 .rne .zero (decodeFp .fp32 0x3F800000) (.inf false) = (.inf false, 0)
    ∧ (encodeFp .fp32 .rtz false 0 (ieeeFma .fp32 .rtz (decodeFp .fp32 0x71800000) (decodeFp .fp32 0x71800000)
        (decodeFp .fp32 0x40400000)).1).1 = 0x7F7FFFFF := by decide +kernel

/-- spec/02, second worked example: one group, two groups, the groups reordered. -/
theorem test_cancellation :
    bf16Group [(0x4980, 0x4980), (0x3FC0, 0x4000), (0x3A80, 0x3A80), (0xC980, 0x4980)] 124 0 = (0x4008000080000000, 0)
    ∧ bf16Group [(0x4980, 0x4980), (0x3FC0, 0x4000), (0x3A80, 0x3A80)] 125 0 = (0x4270000000003001, flagInexact)
    ∧ bf16Group [(0xC980, 0x4980)] 127 0x4270000000003001 = (0x4008008000000000, 0)
    ∧ bf16Group [(0xC980, 0x4980)] 127 0 = (0xC270000000000000, 0)
    ∧ bf16Group [(0x4980, 0x4980), (0x3FC0, 0x4000), (0x3A80, 0x3A80)] 125 0xC270000000000000 = (0x4008000080000000, 0) := by
  decide +kernel

/-- spec/07 R182: the distance of the example, the last exact one, and the largest. -/
theorem test_bias_index :
    biasIdx (-3000) 1024 4 2048 = 3095 ∧ biasIdx 1023 1024 4 2048 = 1023 ∧ biasIdx 65535 1024 4 2048 ≤ 1631
    ∧ biasIdx (-127) 128 2 256 = 383 := by decide +kernel

/-- spec/10 Table 10.3: the places of local address 0x0012_3456_7800. -/
theorem test_address_places :
    0x001234567800 / 256 = 0x12345678 ∧ hubOf 0x001234567800 = 0 ∧ unitOf 0x12345678 = 2 ∧ rowOf 0x12345678 = 6589717
    ∧ State.reset.place 0x001234567800 = .hbm 0 := by decide +kernel

/-- spec/12, the worked example of R337: Y 235 gives 1.0, Y 16 gives -1.0, rounded to BF16. -/
theorem test_bf16_ones : (encodeFp .bf16 .rne false 0 (Fp.ofInt false 1 0)).1 = 0x3F80
    ∧ (encodeFp .bf16 .rne false 0 (Fp.ofInt false (-1) 0)).1 = 0xBF80 := by decide +kernel

/-- spec/10 Table 10.12: the refresh rate changes above 85 and above 95 degrees. -/
theorem test_refresh : [85, 86, 95, 96].map refreshOf = [0, 1, 1, 2] := by decide

/-! ### What the statements assume: the machine as a whole and the shared operations -/

theorem witness_StepRunsFront :
    ({ State.reset with pending := [.powerOnReset, .perstAssert] } : State).pending = .powerOnReset :: [.perstAssert]
    ∧ State.reset.pending = [] := by decide +kernel

theorem witness_EveryStepKeepsTheTiers : State.reset.Inv ∧ step State.reset = .next State.reset.tickNs :=
  ⟨tiers_of_empty rfl rfl, rfl⟩

theorem witness_FusesAreOnlyBurnt : live.Inv ∧ step live = .next live.tickNs := ⟨live_inv, rfl⟩

theorem witness_OutputOnlyGrows :
    live.Inv ∧ step { live with pending := [.tapReset] } = exec .tapReset { live with pending := [] } :=
  ⟨live_inv, rfl⟩

theorem witness_CommandsLeaveTheQueue : live.Inv := live_inv

theorem witness_RegisterAccesses :
    ((0x80000001#32).getLsbD 0 = true ∧ (0x80000001#32).getLsbD 31 = true ∧ (0x80000001#32).getLsbD 30 = false)
    ∧ (0x3FC % 0x1000 < 0x400 ∧ unviewed 0 0 (0x3FC + viewOffset .toggle) = false)
    ∧ live.hif.safeMode = false ∧ (0x4, 0xF#32) ∈ plainRegs
    ∧ (live.Reaches 0 0 false 0 ∧ 0x100 ∉ [0x0, 0x4, 0x104] ∧ 0x3FC ∉ [0x0, 0x4, 0x104]
      ∧ (live.ring 0).st = .disabled ∧ (live.ring 0).write 0x100 .plain 0x5#32 ≠ live.ring 0
      ∧ (live.ring 0).write 0x3FC .plain 0x5#32 = live.ring 0)
    ∧ (live.Reaches 0 1 false 1 ∧ (live.ring 1).st ≠ .disabled)
    ∧ live.ideRefused 0 false = false ∧ live.isCounter hifDbWrites = true ∧ live.wide 0 0 hifDbWrites = some 0
    ∧ (live.wide 0 0 (hifDbWrites + 4) = none ∧ 4 ≤ hifDbWrites + 4 ∧ (live.wide 0 0 (hifDbWrites + 4 - 4)).isSome)
    ∧ (live.wide 0 0 0 = none ∧ 0 < 4) ∧ (live.wide 0 0 0x401080 = none ∧ live.wide 0 0 (0x401080 - 4) = none)
    ∧ live.pageRing 0 0 = some 0 ∧ live.pageRing 1 1 = none
    ∧ (safe.hif.safeMode = true ∧ 0x4 % 0x1000 ∈ [0x0, 0x4])
    ∧ ((running 2).hif.safeMode = false ∧ (running 2).ideRefused 2 false = true) := by
  refine ⟨by decide +kernel, by decide +kernel, by decide +kernel, by decide +kernel, ⟨live_reaches 0 (by decide) (by decide), ?_⟩,
    ⟨live_reaches 1 (by decide) (by decide), by decide +kernel⟩, by decide +kernel⟩
  decide +kernel

/-- `live` with the memory block's interrupt enabled, MSI-X of function 0 with a control word and an entry, and the block's status after a
second with too many errors. -/
def quietly (ctrl : Word32) (e : MsixEntry) : State := { live with
  regs := [(0x200004, 0xFF#32)], hif := { live.hif with cfg := [((0, .msixControl), ctrl)], msix := [((0, 0), e)] } }
def noisy (s : State) : State := { s with mem := { s.mem with ceRate := true } }
def quiet : State := quietly 0x80000000#32 { masked := false }

theorem witness_Interrupts :
    ((live.mem.stalled && !live.mem.stalled) = false ∧ (∀ b ∈ statBlocks, risingEdges b.1 b.2.1 live live = []))
    ∧ (stalled.mem.stalled = true ∧ live.mem.stalled = false)
    ∧ (∃ b ∈ statBlocks, ((noisy quiet).mem.stalled && !quiet.mem.stalled) = false
      ∧ (∀ b' ∈ statBlocks, b' ≠ b → risingEdges b'.1 b'.2.1 quiet (noisy quiet) = []) ∧ (noisy quiet).kvStat true = quiet.kvStat true
      ∧ bits ((noisy quiet).reg b.2.2).toNat 0 12 = 0 ∧ ((noisy quiet).hif.msix.get {} (0, 0)).masked = false
      ∧ (noisy quiet).msixEnabled 0 = true ∧ (noisy quiet).msixMasked 0 = false
      ∧ (risingEdges b.1 b.2.1 quiet (noisy quiet)).length = 1)
    ∧ ((noisy (quietly 0x80000000#32 {})).hif.msix.get {} (0, 0)).masked = true
    ∧ (noisy (quietly 0xC0000000#32 {})).msixEnabled 0 = true ∧ (noisy (quietly 0xC0000000#32 {})).msixMasked 0 = true
    ∧ (noisy (quietly 0#32 {})).msixEnabled 0 = false := by
  refine ⟨by decide +kernel, by decide +kernel, ⟨(State.memStat, 0x200004, 0x200008), by simp [statBlocks], by decide +kernel, ?_,
    by decide +kernel⟩, by decide +kernel⟩
  intro b' h hne
  simp only [statBlocks, List.mem_cons, List.not_mem_nil, or_false] at h
  rcases h with rfl | rfl | rfl | rfl | rfl | rfl
  · decide +kernel
  · decide +kernel
  · exact absurd rfl hne
  · decide +kernel
  · decide +kernel
  · decide +kernel

theorem units_in_service : ∀ u, (live.unit u).st ≠ .out := fun u => by cases u <;> simp [live, State.unit, State.reset, Map.get]

theorem witness_ReadsChangeNoByte : live.Inv ∧ ∀ u, (live.unit u).st ≠ .out := ⟨live_inv, units_in_service⟩

theorem witness_WritesChangeOnlyTheirBytes :
    live.Inv ∧ (∀ u, (live.unit u).st ≠ .out) ∧ (⟨false, 0, none⟩ : Requester).stage.isSome = false
    ∧ (0xFF < 0x100 ∨ 0x100 + [1#8].length ≤ 0xFF) ∧ (0x101 < 0x100 ∨ 0x100 + [1#8].length ≤ 0x101)
    ∧ (⟨false, 0, some 3⟩ : Requester).stage.isSome = true
    ∧ (0xBF < 0xFF / 64 * 64 ∨ (0xFF + [1#8].length + 63) / 64 * 64 ≤ 0xBF)
    ∧ (0x100 < 0xFF / 64 * 64 ∨ (0xFF + [1#8].length + 63) / 64 * 64 ≤ 0x100) :=
  ⟨live_inv, units_in_service, by decide, by decide, by decide, by decide, by decide, by decide⟩

/-- `live` with line 1 poisoned at rest. -/
def poisonedLine : State := { live with mem := { live.mem with poison := [1] } }

theorem witness_LineWrites :
    live.Inv ∧ 0x1FF % 256 + [1#8].length ≤ 256 ∧ live.poisoned (0x1FF / 256) = false ∧ 0 < [1#8].length
    ∧ poisonedLine.Inv ∧ poisonedLine.poisoned (0x100 / 256) = true
    ∧ (0x100 % 256 = 0 ∧ (List.replicate 256 7#8).length = 256) ∧ ¬ (0x100 % 256 = 0 ∧ (List.replicate 255 7#8).length = 256) :=
  ⟨live_inv, by decide, by decide +kernel, by decide, tiers_of_empty rfl rfl, by decide +kernel, by decide +kernel, by decide +kernel⟩

theorem witness_HedgerowRows :
    ({ clearing := true } : Region).clearing = true ∧ ({ secure := true } : Region).secure = true
    ∧ ({ secure := false, shared := false } : Region).shared = false ∧ ownerPasses 2 1 = false
    ∧ ownerPasses ({ secure := true } : Region).owner 0 = true ∧ ownerPasses ({ shared := true } : Region).owner 0 = true := by
  decide +kernel

theorem witness_Outcomes :
    (4 ∈ [3, 4] ∧ 4 ∉ [3, 8] ∧ 3 ∈ [3, 8] ∧ 4 ∉ [8] ∧ 3 ∉ [8] ∧ 1 ∉ [8] ∧ 2 ∉ [8] ∧ 8 ∈ [8]
      ∧ 4 ∉ [8, 2] ∧ 3 ∉ [8, 2] ∧ [8, 2].find? (fun y => y == 1 || y == 2) = some 2)
    ∧ (withStage (stg 0 .running [])).stage 0 = some (stg 0 .running []) ∧ (stg 0 .running []).done = false
    ∧ (withStage (stg 0 .running [])).kv.runs.find 0 = none
    ∧ (live.ring 1).st = .running ∧ (live.ring 3).st = .draining ∧ (live.ring 2).st ≠ .running ∧ (live.ring 2).st ≠ .draining := by
  decide +kernel

theorem witness_RepresentableValuesAreKept :
    Fmt.e4m3 ∈ [Fmt.e4m3, .e5m2, .e2m1, .bf16, .fp16, .fp32, .fp64] ∧ 0x7E < 2 ^ Fmt.e4m3.width
    ∧ (decodeFp .e4m3 0x7E).isFin = true ∧ (decodeFp .e4m3 0x7F).isNan = true ∧ 2 ^ 64 - 1 < 2 ^ Fmt.fp64.width
    ∧ (decodeFp .fp64 (2 ^ 64 - 1)).isNan = true := by decide +kernel

/-! ### What the statements assume: host interface -/

theorem witness_DoorbellWrites :
    live.Reaches 0 1 false 1 ∧ live.Reaches 0 0 false 0 ∧ live.Reaches 0 4 false 4 ∧ live.Reaches 1 0 true 5
    ∧ live.hif.notReady = false ∧ live.fatal = false ∧ (live.ring 1).st ≠ .disabled ∧ (live.ring 1).st ≠ .resetting
    ∧ (15#32).toNat % 65536 < 2 ^ (live.ring 1).log2 ∧ 2 ^ (live.ring 1).log2 ≤ (16#32).toNat % 65536
    ∧ 0 = ((0#32).toNat % 65536 + 2 ^ (live.ring 1).log2 - (live.ring 1).head) % 2 ^ (live.ring 1).log2
    ∧ 0 ≤ ((live.ring 1).cqTail + 2 ^ (live.ring 1).log2 - (live.ring 1).head) % 2 ^ (live.ring 1).log2
    ∧ ((live.ring 1).cqTail + 2 ^ (live.ring 1).log2 - (live.ring 1).head) % 2 ^ (live.ring 1).log2
      < ((1#32).toNat % 65536 + 2 ^ (live.ring 1).log2 - (live.ring 1).head) % 2 ^ (live.ring 1).log2
    ∧ (live.ring 0).st = .disabled ∧ (live.ring 4).st = .resetting
    ∧ State.reset.Reaches 0 1 false 1 ∧ State.reset.hif.notReady = true
    ∧ (dying live).Reaches 0 0 false 0 ∧ (dying live).fatal = true ∧ View.set ≠ .plain :=
  ⟨live_reaches 1 (by decide) (by decide), live_reaches 0 (by decide) (by decide), live_reaches 4 (by decide) (by decide),
    ⟨rfl, rfl, rfl, rfl⟩, by decide +kernel, by decide +kernel, by decide +kernel, by decide +kernel, by decide +kernel, by decide +kernel,
    by decide +kernel, by decide +kernel, by decide +kernel, by decide +kernel, by decide +kernel, ⟨rfl, rfl, rfl, rfl⟩, by decide +kernel,
    ⟨rfl, rfl, rfl, rfl⟩, by decide +kernel⟩

/-- `live` with an entry that ring 2 kept, a wrong size on ring 0 and a stage of ring 3. -/
def rings : State := { withStages [(0, { stg 0 .fetched [] with ring := 3 })] with
  hif := { live.hif with rings := [(0, { log2 := 3 }), (1, { st := .running }), (2, { st := .stopped, kept := some [] }),
    (3, { st := .draining })] } }

theorem witness_RingCommandsAndResets :
    live.Reaches 0 0 false 0 ∧ live.Reaches 0 1 false 1 ∧ live.Reaches 0 2 false 2 ∧ live.Reaches 0 3 false 3 ∧ live.Reaches 0 4 false 4
    ∧ rings.Reaches 0 0 false 0 ∧ rings.Reaches 0 2 false 2 ∧ (withStage (stg 0 .fetched [])).Reaches 0 1 false 1
    ∧ (dying live).Reaches 0 0 false 0
    ∧ live.fatal = false ∧ (live.ring 0).st = .disabled ∧ live.settingsOk 0 = true
    ∧ (rings.ring 0).st = .disabled ∧ rings.settingsOk 0 = false
    ∧ (live.ring 2).st = .stopped ∧ (live.ring 2).kept = none ∧ (rings.ring 2).st = .stopped ∧ (rings.ring 2).kept.isSome
    ∧ ((withStage (stg 0 .fetched [])).ring 1).st = .running ∧ (withStage (stg 0 .fetched [])).stagesOf 1 ≠ []
    ∧ (live.ring 1).st = .running ∧ live.stagesOf 1 = [] ∧ (live.ring 1).kept = none ∧ (live.ring 1).fetching = 0
    ∧ (live.ring 3).st = .draining ∧ (live.ring 4).st = .resetting ∧ live.stagesOf 4 = []
    ∧ (dying live).fatal = true
    ∧ (withStage (stg 0 .fetched [])).stage 0 = some (stg 0 .fetched []) ∧ (stg 0 .fetched []).phase = .fetched
    ∧ (stg 0 .chainWait []).phase = .chainWait
    ∧ (dying (withStage (stg 0 .admitted []))).stage 0 = some (stg 0 .admitted []) ∧ (stg 0 .admitted []).phase = .admitted
    ∧ (withStage (stg 0 .admitted [])).fatal = false ∧ (dying (withStage (stg 0 .admitted []))).fatal = true :=
  ⟨live_reaches 0 (by decide) (by decide), live_reaches 1 (by decide) (by decide), live_reaches 2 (by decide) (by decide),
    live_reaches 3 (by decide) (by decide), live_reaches 4 (by decide) (by decide), ⟨rfl, rfl, rfl, rfl⟩, ⟨rfl, rfl, rfl, rfl⟩,
    ⟨rfl, rfl, rfl, rfl⟩, ⟨rfl, rfl, rfl, rfl⟩, by decide +kernel⟩

/-- `live` with descriptors waiting on ring 1: 17 of them, of which a visit takes 16; and one requested. -/
def waiting17 : State := { live with hif := { live.hif with rings := [(1, { st := .running, log2 := 5, tail := 17, allowance := 4096 })] } }
/-- Two descriptors that stand at the end and the beginning of the queue; local queues. -/
def wrapped : State := { live with hif := { live.hif with rings := [(1, { st := .running, log2 := 3, sqHead := 7, tail := 1, allowance := 2 })] } }
def localQueue : State := { openMem with hif := { live.hif with
  rings := [(1, { st := .running, tail := 1, allowance := 1, locSq := true, sqBase := 0x10000#64 }),
    (2, { st := .running, tail := 1, allowance := 1, fetching := 1, locSq := true, sqBase := 0x10000#64 }),
    (3, { st := .running, tail := 1, allowance := 1, fetching := 1, locSq := true, sqBase := 0x800000#64 })] } }
def requested : State := { live with hif := { live.hif with rings := [(1, { st := .running, tail := 1, allowance := 1, fetching := 1 })] } }
/-- A ring of VF 1, which is in RUN and has no IDE stream. -/
def unbound : State := { live with hif := { live.hif with
  rings := [(5, { st := .running, tail := 1, allowance := 1, fetching := 1 })], td := [(1, .run)] } }

theorem witness_Fetching :
    (0 < wrapped.fetchCount 1 ∧ (wrapped.ring 1).locSq = false ∧ wrapped.hostBlocked (wrapped.owner 1) = false
      ∧ nextInTurn wrapped.hif.lastVisited ((wrapped.hif.rings.map Prod.fst).filter (fun q => decide (0 < wrapped.fetchCount q))) = some 1
      ∧ ((wrapped.ring 1).sqHead + (wrapped.ring 1).fetching) % 2 ^ (wrapped.ring 1).log2 = 7
      ∧ 2 ^ (wrapped.ring 1).log2 < 7 + wrapped.fetchCount 1)
    ∧ (nextInTurn localQueue.hif.lastVisited ((localQueue.hif.rings.map Prod.fst).filter (fun q => decide (0 < localQueue.fetchCount q)))
        = some 1 ∧ (localQueue.ring 1).locSq = true)
    ∧ ((List.range 6).all (fun r => State.reset.fetchCount r == 0)) = true
    ∧ 0 < waiting17.fetchCount 1 ∧ waiting17.fetchCount 1 = 16
    ∧ nextInTurn waiting17.hif.lastVisited ((waiting17.hif.rings.map Prod.fst).filter (fun q => decide (0 < waiting17.fetchCount q))) = some 1
    ∧ (waiting17.ring 1).locSq = false ∧ waiting17.hostBlocked (waiting17.owner 1) = false
    ∧ ((waiting17.ring 1).sqHead + (waiting17.ring 1).fetching) % 2 ^ (waiting17.ring 1).log2 + waiting17.fetchCount 1
        ≤ 2 ^ (waiting17.ring 1).log2 := by decide +kernel

theorem witness_NoFetchWithoutSlot :
    2048 ≤ (withStages ((List.range 2048).map (fun n => (n, stg n .fetched [])))).dsp.stages.length := by
  simp [withStages]

theorem witness_DescriptorsArrive :
    ((localQueue.ring 2).locSq = true ∧ (localQueue.ring 2).fetching = 1 ∧ ∃ b s', localQueue.readPlace 2 = (.inl b, s'))
    ∧ ((localQueue.ring 3).locSq = true ∧ (localQueue.ring 3).fetching = 1 ∧ ∃ status s', localQueue.readPlace 3 = (.inr status, s'))
    ∧ ((unbound.ring 5).locSq = false ∧ unbound.hostBlocked (unbound.owner 5) = true ∧ (unbound.ring 5).fetching ≠ 0)
    ∧ (requested.ring 1).locSq = false ∧ requested.hostBlocked (requested.owner 1) = false ∧ (requested.ring 1).fetching ≠ 0
    ∧ (List.replicate 256 0#8).length = 256 ∧ requested.dsp.stages.length < 2048 ∧ (requested.ring 1).fetching ≠ 0
    ∧ Completion.poison ≠ .data ∧ requested.kv.runs.find requested.freeSlot = none :=
  ⟨⟨by decide +kernel, by decide +kernel, inl_of (by decide +kernel)⟩, ⟨by decide +kernel, by decide +kernel,
    inr_of (by decide +kernel)⟩, by decide +kernel⟩

/-! ### What the statements assume: admission, completion, registers, protection -/

/-- A descriptor with its version and its CRC. -/
def crcd (d : List Byte) : List Byte := put (put d [(1, 1, 1)]) [(0xFC, 4, crc32c ((put d [(1, 1, 1)]).take 252))]

/-- `openMem` with one stage of ring 1 in slot 0. -/
def openStage (st : Stage) : State := { openMem with dsp := { openMem.dsp with stages := [(0, st)] } }

theorem openStage_stage (st : Stage) : (openStage st).stage 0 = some st := rfl

/-- A MATMUL of one element; a FENCE; a NOISE that writes one FP32 element at 0x10000, with its chain block at 0x8000 or none; a PYRAMID of one level whose table
stands at 0x8000. -/
def matmul : List Byte := crcd (desc 0x01 [(4, 2, 1), (6, 2, 1), (8, 2, 1), (0xB, 1, 7), (0xC, 12, 2 ^ 96 - 1)])
def fence : List Byte := crcd (desc 0x13 [])
def noise (chain : Nat) : List Byte :=
  crcd (desc 0x08 [(4, 2, 1), (6, 2, 1), (0xB, 1, 4), (0xC, 12, 1), (0x28, 8, chain), (0x90, 8, 0x10000), (0xA4, 4, 4)])
def pyramid : List Byte := crcd (desc 0x11 [(0xE0, 1, 1), (0xE4, 6, 32)])

/-- `openStage` with bytes at 0x8000. -/
def withBytes (st : Stage) (bs : List Byte) : State :=
  let s := openStage st
  { s with mem := { s.mem with cells := cellsPut [] 0x8000 bs } }
def blockOf (xs : List (Nat × Nat × Nat)) : List Byte :=
  let b := put (List.replicate 64 0#8) ([(0, 1, 1), (4, 2, 68), (7, 1, 0xF)] ++ xs)
  b ++ toLE 4 (crc32c b)
def chainBlock : List Byte := blockOf []
/-- A stage whose block has been read. -/
def read (d b : List Byte) : Stage := { stg 0 .chainWait d with chain := b }
/-- A MATMUL whose chain asks for an arrival window, and 256 stages that hold one. -/
def arriver : Stage := read matmul (blockOf [(0x10, 1, 1)])
def windowsFull : State := withStages ((0, arriver) :: (List.range 256).map (fun n => (n + 1, { stg n .running [] with arrival := some ⟨[]⟩ })))
def levelTable (xs : List (Nat × Nat × Nat)) : List Byte :=
  let b := put (List.replicate 40 0#8) xs
  b ++ toLE 4 (crc32c b)
def aborting (st : Stage) : State :=
  let s := openStage st
  s.setRing 1 { st := .running, aborting := true }

theorem witness_Admission :
    (stg 0 .fetched fence).fetchFailed = false
    ∧ (openStage (stg 0 .fetched fence)).kv.runs.find 0 = none
    ∧ ((openStage (stg 0 .fetched fence)).ring 1).aborting = false ∧ usesChain fence = false ∧ dOpcode fence ≠ 0x11
    ∧ admissionChecks (openStage (stg 0 .fetched fence)) (stg 0 .fetched fence) = none
    ∧ admissionChecks (openStage (stg 0 .fetched (noise 0x8000))) (stg 0 .fetched (noise 0x8000)) = none ∧ usesChain (noise 0x8000) = true
    ∧ admissionChecks (openStage (stg 0 .fetched (desc 0x13 []))) (stg 0 .fetched (desc 0x13 [])) = some (1, 1, 15)
    ∧ ((aborting (stg 0 .fetched (noise 0))).ring 1).aborting = true ∧ (stg 0 .fetched (noise 0)).isFence = false
    ∧ dOpcode (noise 0x8000) ≠ 0x11
    ∧ ((withBytes (stg 0 .chainWait (noise 0x8000)) chainBlock).readChain 0 (stg 0 .chainWait (noise 0x8000))).1 = .inl chainBlock
    ∧ dOpcode pyramid = 0x11 := by decide +kernel

theorem witness_Admission_blocks :
    (let p := (withBytes (stg 0 .chainWait pyramid) (levelTable [])).readLevels 0 (stg 0 .chainWait pyramid)
     p.1 = .inl ((levelTable []).take 40) ∧ levelChecks p.2 (stg 0 .chainWait pyramid) ((levelTable []).take 40) = none)
    ∧ (let p := (withBytes (stg 0 .chainWait pyramid) (levelTable [(0x14, 4, 4)])).readLevels 0 (stg 0 .chainWait pyramid)
      p.1 = .inl ((levelTable [(0x14, 4, 4)]).take 40)
        ∧ levelChecks p.2 (stg 0 .chainWait pyramid) ((levelTable [(0x14, 4, 4)]).take 40) = some (2, 9, 10))
    ∧ ((openStage (stg 0 .chainWait (noise 0x8000))).readChain 0 (stg 0 .chainWait (noise 0x8000))).1 = .inr 1
    ∧ ((openStage (stg 0 .chainWait pyramid)).readLevels 0 (stg 0 .chainWait pyramid)).1 = .inr 1
    ∧ (((aborting (stg 0 .fetched fence)).ring 1).aborting = true ∧ (stg 0 .fetched fence).isFence = true
      ∧ admissionChecks (aborting (stg 0 .fetched fence)) (stg 0 .fetched fence) = none)
    ∧ (let p := (openStage (read (noise 0x8000) chainBlock)).readChain 0 (read (noise 0x8000) chainBlock)
      p.1 = .inl chainBlock ∧ check9 p.2 (read (noise 0x8000) chainBlock) = none ∧ dOpcode (noise 0x8000) ≠ 1)
    ∧ (let b := blockOf [(8, 2, 5)]
      let p := (openStage (read (noise 0x8000) b)).readChain 0 (read (noise 0x8000) b)
      p.1 = .inl b ∧ check9 p.2 (read (noise 0x8000) b) = some (2, 9, 4))
    ∧ (let p := (openStage arriver).readChain 0 arriver
      p.1 = .inl arriver.chain ∧ check9 p.2 arriver = none ∧ dOpcode arriver.desc = 1 ∧ cArrival arriver.chain = true
      ∧ p.2.arrivalWindows < 256)
    ∧ (let p := windowsFull.readChain 0 arriver
      p.1 = .inl arriver.chain ∧ check9 p.2 arriver = none ∧ 256 ≤ p.2.arrivalWindows)
    ∧ arriver.done = false := by decide +kernel

/-- A running NOISE all of whose tiles are issued. -/
def issued : Stage := { stg 1 .running (noise 0) with issued := [(0, 0)] }
/-- A FENCE behind a stage that has not completed. -/
def behind : State := withStages [(0, stg 1 .running (noise 0)), (1, stg 2 .admitted fence)]
/-- A MATMUL that consumes or produces set 5, the set there, of the Open or the Secure world; a KV_RETRIEVE behind one of a higher class. -/
def consumer : Stage := { stg 0 .admitted matmul with chain := blockOf [(0xA, 2, 5)] }
def producer : Stage := { stg 0 .admitted matmul with chain := blockOf [(8, 2, 5)] }
def withSet (st : Stage) (secure : Bool) (x : RetSet) : State :=
  let s := openStage st
  { s with dsp := { s.dsp with sets := [((secure, 5), x)] } }
def retained : RetSet := { td2 := (dTd matmul 0).raw, producer := 7, ring := 1, cls := 0, producing := false, tm := 1, tn := 1 }
def retrieve : Stage := stg 0 .admitted (desc 0x0A [])
def retrieving : State := withStages [(0, retrieve), (1, { retrieve with ring := 5, cls := 1 })]

theorem witness_StageLife :
    (openStage (stg 0 .admitted (noise 0))).orderMet (stg 0 .admitted (noise 0)) = true
    ∧ ((openStage (stg 0 .admitted (noise 0))).ring 1).starts = true
    ∧ cRetIn (stg 0 .admitted (noise 0)).chain = 0 ∧ cRetOut (stg 0 .admitted (noise 0)).chain = 0
    ∧ dBatch (noise 0) = 0 ∧ (stg 0 .admitted (noise 0)).opcode ≠ 0x0A
    ∧ (openStage (stg 0 .admitted (noise 0))).setCheck (stg 0 .admitted (noise 0)) = some 0
    ∧ ((openStage consumer).orderMet consumer = true ∧ ((openStage consumer).ring 1).starts = true ∧ consumer.opcode ≠ 0x0A
      ∧ (openStage consumer).setCheck consumer = some 3 ∧ (withSet consumer true retained).setCheck consumer = some 4
      ∧ (withSet consumer false { retained with td2 := [] }).setCheck consumer = some 2
      ∧ (withSet consumer false retained).setCheck consumer = some 0
      ∧ (withSet consumer false { retained with producing := true }).setCheck consumer = none)
    ∧ ((withSet producer false retained).orderMet producer = true ∧ (withSet producer false retained).setCheck producer = some 0
      ∧ ((withSet producer false retained).setStage 0 { producer with phase := .running }).beginSet 0 { producer with phase := .running } = none)
    ∧ (retrieve.opcode = 0x0A ∧ retrieving.stage 0 = some retrieve ∧ retrieving.kvTurn 0 retrieve = false
      ∧ (openStage retrieve).kvTurn 0 retrieve = true)
    ∧ (openStage (stg 1 .running (noise 0))).tilesOver 0 (stg 1 .running (noise 0)) = false
    ∧ (tileWalker 0x0C = false ∧ ({ stg 1 .running (desc 0x0C []) with ending := true } : Stage).ending = true)
    ∧ behind.orderMet (stg 2 .admitted fence) = false
    ∧ tileWalker issued.opcode = true ∧ (openStage issued).tilesOver 0 issued = true
    ∧ issued.ending = false ∧ issued.opcode ≠ 0x0A ∧ (openStage issued).kv.runs.find 0 = none := by decide +kernel

/-- Completion queues in local memory, one of them past the regions; a stopped ring that kept an entry. -/
def cqAt (base : Nat) : State := (openStage (stg 0 .complete fence)).setRing 1 { st := .running, locCq := true, cqBase := BitVec.ofNat 64 base }
def kept : State := (openStage (stg 0 .complete fence)).setRing 1 { st := .stopped, kept := some [1#8] }

theorem witness_CompletionEntries :
    (((cqAt 0x10000).nextEntry 1).isSome ∧ ((cqAt 0x10000).ring 1).kept = none
      ∧ ((cqAt 0x10000).storeEntry 1 ((cqAt 0x10000).entryBytes (stg 0 .complete fence))).1 = true)
    ∧ (((cqAt 0x800000).nextEntry 1).isSome
      ∧ ((cqAt 0x800000).storeEntry 1 ((cqAt 0x800000).entryBytes (stg 0 .complete fence))).1 = false)
    ∧ ((kept.nextEntry 1).isSome ∧ (kept.ring 1).kept.isSome ∧ (kept.ring 1).st = .stopped) ∧
    ((openStage (stg 0 .complete fence)).nextEntry 1).isSome
    ∧ ((openStage (stg 0 .complete fence)).ring 1).kept = none ∧ ((openStage (stg 0 .complete fence)).ring 1).locCq = false
    ∧ (openStage (stg 0 .complete fence)).hostBlocked ((openStage (stg 0 .complete fence)).owner 1) = false
    ∧ ((openStage (stg 0 .complete fence)).ring 1).st = .running ∧ live.nextEntry 1 = none
    ∧ ((live.setRing 1 { st := .running, unsignalled := 1 }).ring 1).unsignalled ≠ 0 := by decide +kernel

/-- `openMem` with descriptor 1 sized but not VALID, 2 in clearing, 3 VALID and Secure. -/
def tables : State := { openMem with sec := { openMem.sec with regions := [(0, { valid := true, size := 1 }), (1, { base := 1, size := 1 }),
  (2, { valid := true, clearing := true, base := 2, size := 1 }), (3, { valid := true, secure := true, base := 3, size := 1 }),
  (4, { valid := true, secure := true, clearing := true, base := 4, size := 1 })] } }

theorem witness_ProtectionTables :
    tables.hif.safeMode = false ∧ 0x14 ∈ [0x00, 0x04, 0x08, 0x10, 0x14]
    ∧ tables.fnRefused 64 ((tables.fn 64).write 0x04 .plain 1#32) = false
    ∧ tables.fnRefused 64 ((tables.fn 64).write 0x04 .plain 2#32) = true
    ∧ (tables.region 1).secure = false
    ∧ ((tables.region 1).withCtrl (viewWrite .plain (BitVec.ofNat 32 (tables.region 1).ctrl) 0x80000000#32 regCtrlRw).toNat).secure = false
    ∧ ((tables.region 1).withCtrl (viewWrite .plain (BitVec.ofNat 32 (tables.region 1).ctrl) 0x80000000#32 regCtrlRw).toNat).valid = true
    ∧ (tables.region 1).valid = false
    ∧ tables.regRefusal 1 ((tables.region 1).withCtrl
        (viewWrite .plain (BitVec.ofNat 32 (tables.region 1).ctrl) 0x80000000#32 regCtrlRw).toNat) = none
    ∧ ((tables.region 0).withCtrl (viewWrite .plain (BitVec.ofNat 32 (tables.region 0).ctrl) 0#32 regCtrlRw).toNat).valid = false
    ∧ tables.regRefusal 0 ((tables.region 0).withCtrl (viewWrite .plain (BitVec.ofNat 32 (tables.region 0).ctrl) 0#32 regCtrlRw).toNat) = none
    ∧ ((tables.region 1).withCtrl (viewWrite .plain (BitVec.ofNat 32 (tables.region 1).ctrl) 0x40000000#32 regCtrlRw).toNat).secure = true
    ∧ (tables.regRefusal 1 ((tables.region 1).withCtrl
        (viewWrite .plain (BitVec.ofNat 32 (tables.region 1).ctrl) 0x00420000#32 regCtrlRw).toNat)).isSome
    ∧ (tables.region 3).secure = true
    ∧ ((tables.region 1).withCtrl (viewWrite .plain (BitVec.ofNat 32 (tables.region 1).ctrl) 0x00420000#32 regCtrlRw).toNat).secure = false
    ∧ (tables.region 2).clearing = true ∧ (tables.region 2).secure = false
    ∧ (tables.region 4).clearing = true ∧ (tables.region 4).secure = true := by decide +kernel

theorem tables_inv : tables.Inv := tiers_of_empty rfl rfl

/-- Streams of 16 by 16 of a function. -/
def decStreamOf (secure : Bool) (f : Nat) : DecStream :=
  { secure := secure, fn := f, engine := 0, autoRelease := false, maxW := 16, maxH := 16, base := 0, record := 0, frames := [] }
def encStreamOf (secure : Bool) (f : Nat) : EncStream :=
  { secure := secure, fn := f, engine := 0, cbr := false, tenBit := false, bt2020 := false, qp := 1, width := 16, height := 16
    keyInterval := 0, target := 0, record := 0, qNext := 1 }

/-- `live` with encode streams of functions 0 and 1. -/
def encoding : State := { live with vid := { live.vid with encs := [0, 1].map (fun f => (f, encStreamOf false f)) } }

theorem witness_ClassAndKeyRequests :
    live.hif.safeMode = false ∧ live.owner ((0x00030001#32).toNat % 65536) = 0 ∧ live.owner ((0x00030005#32).toNat % 65536) ≠ 0
    ∧ 1 ≠ 0 ∧ live.ideRefused 1 false = false ∧ (0x00030000#32).toNat % 1024 < (live.fn 1).ringCount
    ∧ (live.fn 1).ringCount ≤ (0x00030001#32).toNat % 1024
    ∧ (behind.stage 0).isSome ∧ (∃ x, encoding.vid.encs.find ((64#32).toNat % 64) = some x ∧ x.fn = 0)
    ∧ (∃ x, encoding.vid.encs.find ((1#32).toNat % 64) = some x ∧ x.fn = 1 ∧ x.fn ≠ 0)
    ∧ live.vid.encs.find 0 = none ∧ safe.hif.safeMode = true ∧ View.set ≠ .plain ∧ View.clear ≠ .plain :=
  ⟨by decide +kernel, by decide +kernel, by decide +kernel, by decide, by decide +kernel, by decide +kernel, by decide +kernel,
    by decide +kernel, ⟨_, rfl, rfl⟩, ⟨_, rfl, rfl, by decide⟩, by decide +kernel⟩

/-- `openMem` with BAR4 at a base, with a read waiting for line 1, with line 1's unit in RETRAINING; a Secure region in the tables. -/
def barAt (s : State) (base : Nat) : State := { s with hif := { s.hif with fns := [(0, { bar4 := base })] } }
def awaiting : State := { openMem with mem := { openMem.mem with waiting := [(unitOf 1, .read ⟨false, 0, none⟩ 0x100 4 0)] } }
def held1 : State := { openMem with mem := { openMem.mem with units := [(unitOf 1, { st := .retraining })] } }

/-- A BAR4 request of `n` bytes at `a` that meets the hedgerow within its line, with what the hedgerow answers. -/
def bar4Meets (s : State) (a n : Nat) : Nat :=
  if decide (0 < n ∧ a % 256 + n ≤ 256) && s.place a != .reserved && s.place a != .host && s.hubServes a
      && !s.unserved ⟨s.fnSecure 0, 0, none⟩ a && !touches s.kvExtents a n && !touches s.poolExtents a n then
    hedge ((s.regionAt a).map Prod.snd) (s.fnSecure 0) 0
  else 99

theorem witness_HostAccesses_bar4 :
    (openMem.hif.safeMode = false ∧ openMem.ideRefused 0 false = false ∧ 0x1FF = (openMem.fn 0).bar4 + 0x1FF ∧ 0x1FF + 1 ≤ openMem.bar4Bytes 0)
    ∧ (bar4Meets openMem 0x1FF 1 = 0 ∧ openMem.lineWaits (0x1FF / 256) = false ∧ openMem.lineAway (0x1FF / 256) = false
      ∧ openMem.lineOut (0x1FF / 256) = false ∧ openMem.poisoned (0x1FF / 256) = false ∧ touches openMem.mem.rekeyed 0x1FF 1 = false)
    ∧ (bar4Meets awaiting 0x1FF 1 = 0 ∧ awaiting.lineWaits (0x1FF / 256) = true)
    ∧ (bar4Meets held1 0x1FF 1 = 0 ∧ held1.lineAway (0x1FF / 256) = true)
    ∧ (bar4Meets openMem 0x200000 256 = 3 ∧ bar4Meets tables 0x600000 256 = 4)
    ∧ ((barAt openMem (2 ^ 38 - 2 ^ 24)).place (2 ^ 38 - 2 ^ 24) = .reserved ∧ (2 ^ 38 - 2 ^ 24) % 256 + 256 ≤ 256
      ∧ ((barAt openMem (2 ^ 38 - 2 ^ 24)).fn 0).bar4 + 0 = 2 ^ 38 - 2 ^ 24) := by decide +kernel

theorem witness_HostAccesses :
    State.reset.hif.notReady = true ∧ State.reset.hif.safeMode = false ∧ live.hif.notReady = false
    ∧ ConfigReg.linkControl ∈ [ConfigReg.command, .deviceControl, .linkControl]
    ∧ ConfigReg.aerCorrectable ∈ [ConfigReg.aerUncorrectable, .aerCorrectable]
    ∧ 10 = (0xA00#32).toNat / 256 % 64 ∧ 20 = (0x1400#32).toNat / 256 % 64
    ∧ live.Inv ∧ 2 ^ 47 ≤ 2 ^ 48 - 1 ∧ 2 ^ 48 - 1 + [1#8].length ≤ 2 ^ 48 ∧ Completion.abort ≠ .data :=
  ⟨rfl, rfl, rfl, by decide, by decide, by decide +kernel, by decide +kernel, live_inv, by decide +kernel, by decide +kernel, by decide⟩

/-- `live` with VF 1 locked and VF 2 in RUN, a session over DOE, a trained link. -/
def secured : State := { live with
  hif := { live.hif with td := [(1, .locked), (2, .run), (3, .error)], linkRate := 6 }
  boot := { live.boot with ended := [(0, 0), (22, 0), (13, 0)] }
  sec := { live.sec with
    sessions := [(0, { via := .doe, established := true }), (1, { via := .doe })]
    ide := [(0, { keys := [(0, [])], vfs := [2] })] } }

/-- VF 2 in RUN with a Secure decode stream, encode stream, paced channel and key-value sequence. -/
def owned : State := { secured with
  vid := { live.vid with decs := [(0, decStreamOf true 2)], encs := [(0, encStreamOf true 2)] }
  pace := [(3, { running := true, secure := true, fn := 2 })]
  kv := { live.kv with seqs := [(9, { st := .live, secure := true, fn := 2 })] } }

theorem witness_FunctionResets_secure :
    owned.tdi 2 = .run
    ∧ (owned.vid.decs.find 0 = some (decStreamOf true 2) ∧ (decStreamOf true 2).secure = true ∧ (decStreamOf true 2).fn = 2)
    ∧ (owned.vid.encs.find 0 = some (encStreamOf true 2) ∧ (encStreamOf true 2).secure = true ∧ (encStreamOf true 2).fn = 2)
    ∧ ((owned.chan 3).running = true ∧ (owned.chan 3).secure = true ∧ (owned.chan 3).fn = 2)
    ∧ 9 ∈ owned.seqsOf 2 ∧ 0 ≠ 2 := by decide +kernel

theorem witness_FunctionResets :
    1 ∈ live.hif.rings.map Prod.fst ∧ live.owner 1 = 0 ∧ (live.ring 1).st = .running ∧ 2 ∈ live.hif.rings.map Prod.fst ∧ live.owner 2 = 0
    ∧ (live.ring 2).st = .stopped ∧ (live.ring 3).st = .draining ∧ live.owner 5 = 1
    ∧ secured.tdi 1 = .locked ∧ secured.tdi 0 = .unlocked ∧ secured.tdi 3 = .error := by decide +kernel

theorem witness_DeviceInterface :
    secured.doeSession 0 = true ∧ 1 ≤ 64 ∧ secured.tdi 64 = .unlocked ∧ secured.ringsBusy 64 = false ∧ secured.tdi 1 = .locked
    ∧ (({ secured with hif := { secured.hif with td := [] } } : State).tdi 1 = .unlocked
      ∧ ({ secured with hif := { secured.hif with td := [] } } : State).ringsBusy 1 = true)
    ∧ secured.tdi 1 ≠ .unlocked ∧ secured.tdi 64 ≠ .locked := by decide +kernel

theorem witness_StreamsAndEntropy :
    secured.doeSession 0 = true ∧ 0 < 4 ∧ secured.sec.ide.find 0 = some { keys := [(0, [])], vfs := [2] }
    ∧ 2 ∈ ({ keys := [(0, [])], vfs := [2] } : IdeStream).vfs ∧ 1 ∉ ({ keys := [(0, [])], vfs := [2] } : IdeStream).vfs ∧ secured.hears .doe = true
    ∧ secured.sec.entropyFail = false := by decide +kernel

/-- `openMem` with line 1 resident, an unfinished read and atomic of line 2, and a fatal event. -/
def resident : State := { openMem with mem := { openMem.mem with
  lines := [{ line := 1, secure := false, cls := .normal }]
  waiting := [(unitOf 2, .atomic ⟨false, 0, none⟩ 0x200 0 2 false [1#8, 0#8, 0#8, 0#8]), (unitOf 2, .read ⟨false, 0, none⟩ 0x200 4 0)] } }
def dead : State := { live with flt := { live.flt with diagFatal := 9, bridgeLost := true } }

theorem witness_ControlSram :
    (resident.resident 1).isSome ∧ 95 < live.coreCount ∧ (live.core 95).withdrawn = false ∧ live.fatal = false ∧ 9 ≠ 0
    ∧ dead.flt.bridgeLost = true ∧ dead.fatal = true := by decide +kernel

/-- Line 2 waited for, its unit in RETRAINING. -/
def heldBack : State := { resident with mem := { resident.mem with units := [(unitOf 2, { st := .retraining }), (unitOf 3, { st := .retraining })] } }

theorem witness_MemoryRequests_refused :
    (0 < 4 ∧ 0x200000 % 256 + 4 ≤ 256 ∧ openMem.place 0x200000 ≠ .reserved ∧ openMem.place 0x200000 ≠ .host
      ∧ openMem.requestStatus ⟨false, 0, none⟩ 0x200000 4 false = 3 ∧ tables.requestStatus ⟨false, 0, none⟩ 0x600000 4 false = 4
      ∧ openMem.requestStatus ⟨false, 0, none⟩ 0x200000 4 true = 3)
    ∧ (live.place 0x100 ≠ .reserved ∧ live.place 0x100 ≠ .host ∧ live.hubServes 0x100 = false
      ∧ live.requestStatus ⟨false, 0x7F, none⟩ 0x100 4 false = 0 ∧ live.requestStatus ⟨false, 0x7F, none⟩ 0x100 4 true = 0)
    ∧ (resident.requestStatus ⟨false, 0, none⟩ 0x200 4 false = 0 ∧ resident.lineWaits (0x200 / 256) = true
      ∧ (resident.unit (unitOf (0x200 / 256))).st ≠ .out ∧ resident.requestStatus ⟨false, 0, none⟩ 0x200 4 true = 0)
    ∧ (resident.hubServes 0x300 = true ∧ resident.resident (0x300 / 256) = none ∧ 4 ≠ 256)
    ∧ (heldBack.requestStatus ⟨false, 0, none⟩ 0x300 256 true = 0 ∧ heldBack.hubServes 0x300 = true
      ∧ heldBack.resident (0x300 / 256) = none ∧ (heldBack.unit (unitOf (0x300 / 256))).st ≠ .out ∧ heldBack.lineHeld (0x300 / 256) = true)
    ∧ (atomicExists 0x200000 0 2 4 = true ∧ openMem.hubServes 0x200000 = true ∧ openMem.atomicStatus ⟨false, 0, none⟩ 0x200000 4 = 3)
    ∧ (resident.atomicStatus ⟨false, 0, some 5⟩ 0x1FC 4 = 0 ∧ (⟨false, 0, some 5⟩ : Requester).stage = some 5
      ∧ (resident.resident (0x1FC / 256)).isSome ∧ resident.lineWaits (0x1FC / 256) = false)
    ∧ (resident.atomicStatus ⟨false, 0, none⟩ 0x300 4 = 0 ∧ resident.hubServes 0x1FC = true) := by decide +kernel

theorem witness_MemoryRequests :
    (0x1FC % 256 + 4 ≤ 256 ∧ resident.place 0x1FC ≠ .reserved ∧ resident.place 0x1FC ≠ .host ∧ resident.hubServes 0x1FC = true
      ∧ resident.requestStatus ⟨false, 0, none⟩ 0x1FC 4 false = 0 ∧ (resident.resident (0x1FC / 256)).isSome
      ∧ resident.lineWaits (0x1FC / 256) = false ∧ resident.poisoned (0x1FC / 256) = false
      ∧ resident.resident (0x300 / 256) = none ∧ (resident.unit (unitOf (0x300 / 256))).st ≠ .out
      ∧ resident.requestStatus ⟨false, 0, none⟩ 0x300 4 false = 0)
    ∧ (resident.requestStatus ⟨false, 0, none⟩ 0x1FC 4 true = 0 ∧ resident.requestStatus ⟨false, 0, none⟩ 0x300 256 true = 0
      ∧ resident.lineWaits (0x300 / 256) = false ∧ resident.poisoned (0x300 / 256) = false ∧ resident.lineHeld (0x300 / 256) = false)
    ∧ (atomicExists 0x1FC 0 2 4 = true ∧ resident.atomicStatus ⟨false, 0, none⟩ 0x1FC 4 = 0
      ∧ resident.atomicStatus ⟨false, 0, none⟩ 0x300 4 = 0 ∧ resident.hubServes 0x300 = true)
    ∧ (resident.lineWaits 2 = true ∧ resident.lineHeld 2 = false ∧ (resident.unit (unitOf 2)).st = .service
      ∧ resident.mem.waiting.find? (fun w => w.2.line == 2)
        = some (unitOf 2, .atomic ⟨false, 0, none⟩ 0x200 0 2 false [1#8, 0#8, 0#8, 0#8])) := by decide +kernel

theorem witness_AtomicsApply :
    2 ^ 32 - 1 < 2 ^ 32 ∧ openMem.Inv ∧ 0x1FC % 256 + [1#8, 0#8, 0#8, 0#8].length ≤ 256 ∧ Fmt.int32.width = 32 ∧ Fmt.int64.width = 64
    ∧ [1#8, 0#8, 0#8, 0#8].length % (Fmt.int32.width / 8) = 0 :=
  ⟨by decide, tiers_of_empty rfl rfl, by decide, rfl, rfl, by decide⟩

/-- `openMem` with unit 0 copying row 5, unit 1 in service, unit 2 in RETRAINING, unit 3 at its last attempt. -/
def units : State := { openMem with mem := { openMem.mem with
  ceSecond := [(0, 7)], poison := [scrubLine 1 0]
  units := [(4, { st := .service, refresh := 2 }), (5, { st := .service, refresh := 1, cool := 9 }), (6, { st := .service, recent := List.replicate 8 0 }),
    (0, { st := .service, copying := [5] }), (1, { st := .service }), (2, { st := .retraining }), (3, { st := .retraining, attempts := 2 })] } }

/-- A second with too many corrected errors, after one with too many or not. -/
def overLimit (again : Bool) : State := { units with mem := { units.mem with ceSecond := [(0, 1001)], ceLimit := 1000, ceRate := again } }

theorem witness_MemoryUnits :
    (units.unit 0).copying.head? = some 5 ∧ units.mem.waiting = [] ∧ (units.unit 1).st = .service ∧ units.obj 0x6000 1 24 ≠ 0
    ∧ units.unitLines 1 ≠ 0 ∧ (units.unit 1).refresh ≤ refreshOf 85 ∧ (units.mem.ceSecond.map Prod.snd).sum ≤ units.mem.ceLimit
    ∧ retrainCause 7 1 = true ∧ retrainCause 8 0 = true ∧ ((units.unit 1).recent.filter (fun t => decide (units.time < t + 10 ^ 9))).length < 8
    ∧ (units.unit 2).st = .retraining ∧ (units.unit 2).attempts + 1 < 3 ∧ 3 ≤ (units.unit 3).attempts + 1
    ∧ (1 < 8 ∧ units.mem.poison.contains (scrubLine 1 (units.unit 1).scrubPos) = true)
    ∧ (openMem.mem.poison.contains (scrubLine 0 0) = false ∧ (openMem.unit 0).st = .service ∧ openMem.unitLines 0 ≠ 0)
    ∧ (refreshOf 92 < (units.unit 4).refresh ∧ 92 + 3 ≤ 95 ∧ (units.unit 4).refresh = 2 ∧ (units.unit 4).cool < 9)
    ∧ (refreshOf 82 < (units.unit 5).refresh ∧ 82 + 3 ≤ 85 ∧ 9 ≤ (units.unit 5).cool ∧ 85 < 83 + 3 ∧ refreshOf 83 < (units.unit 5).refresh)
    ∧ ((units.mem.ceSecond.map Prod.snd).sum ≤ units.mem.ceLimit ∧ (units.unit 6).st = .service
      ∧ 8 ≤ ((units.unit 6).recent.filter (fun t => decide (units.time < t + 10 ^ 9))).length)
    ∧ ((overLimit false).mem.ceLimit < ((overLimit false).mem.ceSecond.map Prod.snd).sum ∧ (overLimit false).mem.ceRate = false ∧ (overLimit true).mem.ceRate = true) := by decide +kernel

/-! ### What the statements assume: cores, ordering, the key-value store -/

/-- A task of stage 0; `openStage` with a task on core 0, whose domains have power; a FUNC of one element. -/
def tile : Task := { stage := 0, r := 0, c := 0, len := 1 }
def onCore (st : Stage) (t : Task) : State :=
  let s := { openStage st with pwr := { live.pwr with doms := [(0, .on), (1, .on), (192, .on)] } }
  s.setCore 0 { slots := [(0, t)] }
def func : List Byte := crcd (desc 0x04 [(4, 2, 1), (6, 2, 1), (8, 2, 1), (0xB, 1, 5), (0xC, 12, 2 ^ 96 - 1), (0x54, 4, 4), (0xA4, 4, 4)])

theorem onCore_running (st : Stage) (t : Task) (h : t.st = .passes) : ((onCore st t).core 0).running = some (0, t) := by
  show List.find? _ [(0, t)] = _
  simp [List.find?, h]

/-- Core 1 has two tasks not begun that core 0, idle, may take; core 0 has asked. -/
def gleaning : State :=
  let s := openStage (stg 0 .running func)
  ((({ s with time := 10 ^ 6 } : State).setCore 1 { slots := [(0, tile), (1, tile)], gleanReqs := [0], counts := [(0, 2)] }).setCore 2
    { gleanReqs := [0] }).setCore 3 { slots := [(0, { tile with st := .inTransit, arrives := 9 }), (1, { tile with st := .inTransit })] }

theorem witness_PlacementAndGleaning :
    ((openStage (stg 0 .running func)).ready.map Prod.fst = [0] ∧ nextTile (stg 0 .running func) = some (0, 0)
      ∧ (openStage (stg 0 .running func)).findCore func 0 = some 0)
    ∧ (((openStage (stg 0 .running (noise 0))).setCore 0 { withdrawn := true }).ready.map Prod.fst = [0]
      ∧ nextTile (stg 0 .running (noise 0)) = some (0, 0)
      ∧ ((openStage (stg 0 .running (noise 0))).setCore 0 { withdrawn := true }).findCore (noise 0) 0 = none)
    ∧ gleaning.gleans 0 = true ∧ gleaning.gleanVictim 0 = some 1 ∧ minNat (gleaning.core 1).gleanReqs = some 0
    ∧ gleaning.gleans 11 = true ∧ gleaning.gleanVictim 11 = some 1 ∧ 11 ∉ (gleaning.core 1).gleanReqs
    ∧ gleaning.gleanPick (gleaning.gleanable 1 0) = some (0, tile) ∧ gleaning.gleanPick (gleaning.gleanable 2 0) = none
    ∧ gleaning.gleans 3 = true ∧ live.gleanVictim 0 = none ∧ gleaning.gleans 1 = false
    ∧ (gleaning.core 3).firstArrival = some (1, { tile with st := .inTransit }) ∧ State.reset.ready = [] ∧ 1 ≠ 0 := by
  decide +kernel

/-- A task in passes, not begun, with its passes over, at its last row. -/
def passing : Task := { tile with st := .passes, begun := true }

/-- A task of a NOISE that waits while a task of a MATMUL drains. -/
def drawingWaits : State :=
  let s := withStages [(0, stg 0 .running (noise 0)), (1, stg 1 .running matmul)]
  { s with pwr := { live.pwr with doms := [(0, .on), (1, .on), (192, .on)] } }.setCore 0
    { slots := [(0, tile), (1, { tile with stage := 1, st := .draining, begun := true })] }

/-- A FUNC of 3 rows; chains of two tasks; a chain that ends because its ring is reset; a task whose pass waits for a drain's rows. -/
def rows3 : List Byte := put func [(4, 2, 3), (0x4E, 2, 2), (0x9E, 2, 2)]
/-- An ATTEND whose sequence is not there. -/
def attend : Stage := stg 0 .running (desc 0x02 [(4, 2, 1), (6, 2, 1), (8, 2, 1), (0xE0, 1, 4)])
def chained : Task := { passing with pass := 1, len := 2 }
def ending : Stage := { stg 0 .running func with ending := true }
def rowsWait : Core := { slots := [(0, passing), (1, { passing with st := .draining })], rowRelease := true }

theorem witness_TasksRun_chains :
    ({ tile with st := .suspended } : Task).st = .suspended
    ∧ (let t : Task := { tile with st := .suspended }
      (onCore (stg 0 .running func) t).nextTask 0 = some (0, t) ∧ (onCore (stg 0 .running func) t).canStart 0 = true)
    ∧ (onCore (stg 0 .running func) tile).canStart 1 = false ∧ (onCore (stg 0 .running func) passing).nextTask 0 = none
    ∧ ((withStage attend).beginChain 0 attend tile).1 = none
    ∧ (live.atWork 0 = none ∧ rowsWait.rowsHeld = true ∧ (onCore (stg 0 .running matmul) passing).domain 2 = .fallow)
    ∧ (((onCore ending passing).atWork 0).isSome ∧ ending.byRow = true ∧ ending.ending = true ∧ passing.pass < (tileRows func passing.r).2)
    ∧ ((stg 0 .running rows3).byRow = true ∧ passing.pass + 1 < (tileRows rows3 passing.r).2)
    ∧ ((onCore ending { passing with pass := 1 }).passesOver 0 0 ending { passing with pass := 1 } = true)
    ∧ ((onCore (stg 0 .running func) chained).passesOver 0 0 (stg 0 .running func) chained = true
      ∧ ((onCore (stg 0 .running func) chained).wholeWork 0 0 0 (stg 0 .running func) chained).1.k + 1
        < ((onCore (stg 0 .running func) chained).wholeWork 0 0 0 (stg 0 .running func) chained).1.len) := by decide +kernel

theorem witness_TasksRun_drain :
    drawingWaits.nextTask 0 = some (0, tile) ∧ drawingWaits.stage 0 = some (stg 0 .running (noise 0))
      ∧ drawingWaits.drainHoldsBack 0 (stg 0 .running (noise 0)) = true :=
  ⟨by decide +kernel, rfl, by decide +kernel⟩

theorem witness_TasksRun :
    ((onCore (stg 0 .running func) tile).canStart 0 = true ∧ (onCore (stg 0 .running func) tile).nextTask 0 = some (0, tile)
      ∧ (onCore (stg 0 .running func) tile).drainHoldsBack 0 (stg 0 .running func) = false
      ∧ ((onCore (stg 0 .running func) tile).beginChain 0 (stg 0 .running func) tile).1 = some tile)
    ∧ (((onCore (stg 0 .running matmul) passing).atWork 0).isSome ∧ (stg 0 .running matmul).alone = false
      ∧ ((onCore (stg 0 .running matmul) passing).domain (2 * 0)).powered = true
      ∧ ((onCore (stg 0 .running matmul) passing).core 0).rowsHeld = false ∧ ((passesOf (stg 0 .running matmul) passing)[0]?).isSome
      ∧ (stg 0 .running matmul).opcode ≠ 0x02 ∧ (stg 0 .running matmul).opcode ≠ 0x0A)
    ∧ (((onCore (stg 0 .running func) passing).atWork 0).isSome ∧ (stg 0 .running func).byRow = true
      ∧ passing.pass + 1 = (tileRows func passing.r).2 ∧ (stg 0 .running func).draws 0 1 = false ∧ (stg 0 .running func).ending = false)
    ∧ ((onCore (stg 0 .running func) { passing with pass := 1 }).passesOver 0 0 (stg 0 .running func) { passing with pass := 1 } = true
      ∧ ((onCore (stg 0 .running func) { passing with pass := 1 }).wholeWork 0 0 0 (stg 0 .running func) { passing with pass := 1 }).1.len
        ≤ ((onCore (stg 0 .running func) { passing with pass := 1 }).wholeWork 0 0 0 (stg 0 .running func)
            { passing with pass := 1 }).1.k + 1)
    ∧ ((live.core 0).arrays.set 2 .emptying).getD 2 .inPass = .emptying
    ∧ ((live.core 0).arrays.getD 3 .inPass = .idle ∧ (live.core 0).arrays.getD 4 .inPass ≠ .idle)
    ∧ ((live.setCore 0 { staging := some (0, { lanes := [], drawn := 0 }) }).core 0).staging = some (0, { lanes := [], drawn := 0 })
    ∧ ((live.setCore 0 { staging := some (0, { lanes := [], drawn := 0 }) }).core 0).lanes = none := by
  decide +kernel

/-- A core whose running task of class 0 has a waiting one of class 1 beside it, with spill frames free or not. -/
def pressed (frames : List (Option Frame)) : State :=
  let s := withStages [(0, stg 0 .running func), (1, { stg 1 .running func with cls := 1 })]
  s.setCore 0 { slots := [(0, passing), (1, { tile with stage := 1 })], frames := frames }

/-- A core whose task restores from frame 7, which is poisoned or not; a MATMUL that rounds stochastically, draining. -/
def restoring (x : Task) (lanes : Option (Nat × DrawCtx)) (poison : Bool) : State :=
  let s := openStage (stg 0 .running func)
  let s := s.setCore 0 { slots := [(0, { x with st := .passes, begun := true, restoring := true, frame := some 7 })], lanes := lanes }
  { s with mem := { s.mem with poison := if poison then [s.frameAddr 0 7 / 256] else [] } }
def rounding : Stage := stg 0 .running (put matmul [(2, 2, 0x100)])
def drawn : DrawCtx := { lanes := [], drawn := 0 }

theorem witness_SpillsAndPreemption_lanes :
    (restoring tile none true).poisonIn ((restoring tile none true).frameAddr 0 7) 4096 = true
    ∧ (let t : Task := { tile with savedLanes := some drawn }
      (restoring t (some (1, drawn)) false).poisonIn ((restoring t (some (1, drawn)) false).frameAddr 0 7) 4096 = false
      ∧ t.savedLanes.isSome = true ∧ ((restoring t (some (1, drawn)) false).core 0).lanes.isSome = true)
    ∧ ((((restoring tile none false).core 0).running.map Prod.fst) = some 0
      ∧ (((restoring tile none false).frameRead 0 ((restoring tile none false).frameAddr 0 7) 4096).2.stage 0).isSome)
    ∧ (let t : Task := { passing with st := .draining }
      (((onCore rounding t).core 0).draining).map Prod.fst = some 0 ∧ rounding.draws 0 1 = true ∧ rounding.opcode ∉ [0x04, 0x07, 0x08]
      ∧ ((onCore rounding t).core 0).ownsLanes 0 = false
      ∧ (((onCore rounding t).setCore 0 { slots := [(0, t)], lanes := some (0, drawn) }).core 0).ownsLanes 0 = true)
    ∧ (rounding.alone = false ∧ ({ tile with refused := true } : Task).refused = true ∧ tile.refused = false) := by decide +kernel

theorem witness_SpillsAndPreemption :
    ({ passing with spillWait := true, restoring := true } : Task).st = .passes
    ∧ ({ passing with restoring := true, frame := some 7 } : Task).savedLanes = none
    ∧ (onCore (stg 0 .running func) { passing with restoring := true, frame := some 7 }).poisonIn
        ((onCore (stg 0 .running func) { passing with restoring := true, frame := some 7 }).frameAddr 0 7) 4096 = false
    ∧ ((onCore (stg 0 .running func) { passing with ended := true }).core 0).draining = none ∧ (stg 0 .running func).alone = true
    ∧ (((onCore (stg 0 .running matmul) { passing with st := .draining }).core 0).draining).map Prod.fst = some 0
    ∧ (stg 0 .running matmul).draws 0 1 = false
    ∧ (onCore (stg 0 .running func) passing).preemptor 0 0 = none
    ∧ ((pressed (List.replicate 8 none)).preemptor 0 0).map Task.stage = some 1
    ∧ ((pressed (List.replicate 8 none)).core 0).freeFrameNo = some 0
    ∧ ((pressed (List.replicate 8 (some (.task 0 false 0 0)))).preemptor 0 0).map Task.stage = some 1
    ∧ ((pressed (List.replicate 8 (some (.task 0 false 0 0)))).core 0).freeFrameNo = none := by decide +kernel

/-- A SPILL_HINT; a MATMUL with an arrival window whose time-out runs; FENCEs of the device, that abort, of the SYSTEM; a BARRIER of two. -/
def hinting : State := openStage (stg 0 .running (desc 0x15 [(0xE0, 1, 7), (0xE4, 12, 2 ^ 96 - 1)]))
def arriving : Stage := { stg 0 .running matmul with
  arrival := some ⟨[0]⟩, chain := put (List.replicate 64 0#8) [(0x14, 4, 1)] }
def fenced (d : List Byte) (r : Ring) (wins : List OutWin) : State :=
  let s := (openStage (stg 2 .admitted d)).setRing 1 r
  { s with lnk := { s.lnk with outWins := wins } }
def barrier : Stage := stg 2 .admitted (desc 0x14 [(0xE2, 2, 2)])
def arrived (count : Nat) : State :=
  let s := withStages [(0, barrier), (1, { barrier with ring := 2, phase := .running })]
  { s with dsp := { s.dsp with barriers := [((false, 0), ⟨count, [1]⟩)] } }

/-- A SYSTEM fence after a window that has ended with a status. -/
def systemFence : List Byte := desc 0x13 [(0xE0, 1, 1), (0xE1, 1, 1)]
def windowEnded (status : Nat) : State :=
  fenced systemFence { st := .running } [{ ring := 1, seq := 1#32, peer := 1, handle := 0, status := some status }]

theorem witness_OrderingStages_system :
    (((windowEnded 0).stage 0) = some (stg 2 .admitted systemFence) ∧ (windowEnded 0).fenceReady (stg 2 .admitted systemFence) = true
      ∧ op1 systemFence 0xE0 = 1 ∧ op1 systemFence 0xE1 = 1 ∧ ((windowEnded 0).ring 1).failed = [])
    ∧ (∀ w ∈ (windowEnded 0).lnk.outWins, w.before 1 2#32 = true ∧ w.status.isSome ∧ w.status = some 0)
    ∧ (∀ w ∈ (windowEnded 3).lnk.outWins, w.before 1 2#32 = true ∧ w.status.isSome ∧ ((windowEnded 3).ring 1).sinceFence w.seq = true
      ∧ w.status ≠ some 0)
    ∧ (behind.stage 1 = some (stg 2 .admitted fence) ∧ behind.fenceReady (stg 2 .admitted fence) = false) :=
  ⟨⟨rfl, by decide +kernel⟩, by decide +kernel, by decide +kernel, rfl, by decide +kernel⟩

theorem hinting_none : ∀ c, hinting.hintTiles (stg 0 .running []).secure c 7 = [] := fun _ => rfl

theorem witness_OrderingStages :
    (stg 0 .running (desc 0x15 [(0xE0, 1, 7), (0xE4, 12, 2 ^ 96 - 1)])).opcode = 0x15 ∧ hinting.kv.runs.find 0 = none
    ∧ (arriving.arrival.isSome ∧ cArrTimeout arriving.chain ≠ 0 ∧ arriving.noIssue = false
      ∧ arriving.issued.length < (gridFor arriving.desc).r * (gridFor arriving.desc).c ∧ 0x0B ∉ arriving.met)
    ∧ ((stg 2 .admitted fence).isFence = true ∧ (fenced fence { st := .running } []).fenceReady (stg 2 .admitted fence) = true
      ∧ (fenced fence { st := .running } []).kv.runs.find 0 = none ∧ op1 fence 0xE0 = 0
      ∧ ((fenced fence { st := .running } []).ring 1).failed = [])
    ∧ (op1 (desc 0x13 [(0xE1, 1, 1)]) 0xE1 = 1 ∧ ∃ q ∈ ((fenced (desc 0x13 [(0xE1, 1, 1)]) { st := .running, failed := [1#32] } []).ring 1).failed,
      ((fenced (desc 0x13 [(0xE1, 1, 1)]) { st := .running, failed := [1#32] } []).ring 1).sinceFence q = true ∧ seqBefore q 2#32 = true)
    ∧ (op1 (desc 0x13 [(0xE0, 1, 1)]) 0xE0 = 1
      ∧ ∃ w ∈ (fenced (desc 0x13 [(0xE0, 1, 1)]) { st := .running } [{ ring := 1, seq := 1#32, peer := 1, handle := 0 }]).lnk.outWins,
        w.before 1 2#32 = true ∧ w.status = none)
    ∧ (barrier.isBarrier = true ∧ (withStage barrier).fenceReady barrier = true
      ∧ (⟨2, []⟩ : BarrierGen) = (withStage barrier).dsp.barriers.get ⟨op2 barrier.desc 0xE2, []⟩ (barrier.secure, op2 barrier.desc 0xE0)
      ∧ 0 ∉ (⟨2, []⟩ : BarrierGen).arrived ∧ op2 barrier.desc 0xE2 = 2)
    ∧ ((arrived 2).fenceReady barrier = true
      ∧ (⟨2, [1]⟩ : BarrierGen) = (arrived 2).dsp.barriers.get ⟨op2 barrier.desc 0xE2, []⟩ (barrier.secure, op2 barrier.desc 0xE0)
      ∧ (arrived 2).kv.runs = [] ∧ ((arrived 2).stage 1).isSome
      ∧ (⟨3, [1]⟩ : BarrierGen) = (arrived 3).dsp.barriers.get ⟨op2 barrier.desc 0xE2, []⟩ (barrier.secure, op2 barrier.desc 0xE0)) :=
  ⟨by decide +kernel, by decide +kernel, by decide +kernel, by decide +kernel, ⟨by decide +kernel, 1#32, by decide +kernel⟩,
    ⟨by decide +kernel, { ring := 1, seq := 1#32, peer := 1, handle := 0 }, by decide +kernel⟩, by decide +kernel, by decide +kernel⟩

/-- A KV_APPEND and a KV_RELEASE of one entry whose table stands at 0x8000, and a table with its CRC. -/
def append : Stage := stg 0 .running (desc 0x09 [(0xEC, 6, 32)])
def release : Stage := stg 0 .running (desc 0x0B [(0xE2, 2, 1), (0xEC, 6, 32)])
def table : List Byte := List.replicate 16 0#8 ++ toLE 4 (crc32c (List.replicate 16 0#8))
def releasing (readers : List Nat) : State :=
  let s := openStage release
  { s with kv := { s.kv with releases := [⟨some 0, false, readers, [], []⟩], runs := [(0, { table := [] })] } }

/-- A KV_RELEASE of the Open world, with a FROZEN sequence of the Secure world; a KV_APPEND in progress; a running ATTEND. -/
def frozen : State :=
  let s := openStage release
  { s with kv := { s.kv with seqs := [(3, { st := .frozen, secure := true })] } }
def appending : State :=
  let s := openStage append
  { s with kv := { s.kv with runs := [(0, { table := [] })] } }

theorem witness_KeyValueStages_rest :
    ((frozen.stage 0 = some release) ∧ release.phase = .running ∧ release.opcode = 0x0B ∧ frozen.kv.releases = []
      ∧ ((frozen.finish 0 1).kvSeq 3).st = .frozen)
    ∧ (appending.kv.runs.find 0 = some { table := [] } ∧ append.phase = .running ∧ append.opcode = 0x09)
    ∧ (appending.stage 0 = some append ∧ appending.kvTurn 0 append = false)
    ∧ ((openStage release).readTable 0 release (op2 release.desc 0xE2)).1 = .inr 1
    ∧ ((openStage attend).stage 0 = some attend ∧ attend.phase = .running ∧ attend.secure = false ∧ attend.opcode = 0x02) :=
  ⟨⟨rfl, by decide +kernel⟩, by decide +kernel, ⟨rfl, by decide +kernel⟩, by decide +kernel, rfl, by decide +kernel⟩

theorem witness_KeyValueStages :
    (withBytes append table).kvTurn 0 append = true ∧ append.opcode = 0x09
    ∧ ((withBytes append table).readTable 0 append (dTd append.desc 0).n).1 = .inl (table.take 16)
    ∧ (withBytes release table).kvTurn 0 release = true ∧ release.opcode = 0x0B
    ∧ ((withBytes release table).readTable 0 release (op2 release.desc 0xE2)).1 = .inl (table.take 16)
    ∧ ((openStage append).readTable 0 append (dTd append.desc 0).n).1 = .inr 1
    ∧ (releasing []).kv.runs.find 0 = some { table := [] }
    ∧ (releasing []).kv.releases = [⟨some 0, false, [], [], []⟩] ∧ (releasing [3]).kv.releases = [⟨some 0, false, [3], [], []⟩]
    ∧ 3 ∈ [3] := by decide +kernel

/-! ### What the statements assume: light links -/

/-- `openMem` with port 0 ACTIVE to the direct peer 1, PRESENT; peers 2 JOINING, 3 LOST; ports 1 to 6 in the states of training; a window
of peer 1 for the 4 KiB at 0x1000; one that waits for its last bytes; laser modules 0 and 1 seated, 2 and 3 not. -/
def linked : State := { openMem with lnk := { openMem.lnk with
  ports := [(0, { st := .active, peer := some 1, owed := 1 }), (1, { st := .calibrate }), (2, { st := .align }), (3, { st := .verify }),
    (4, { st := .auth }), (5, { st := .retrain }), (31, { st := .disabled })]
  peers := [(1, { st := .present, ports := [0] }), (2, { st := .joining }), (3, { st := .lost }), (4, { st := .present })]
  windows := [(0, { peer := 1, base := 0x1000, length := 0x1000, secure := false, cls := 0, kind := 0 }),
    (1, { peer := 1, base := 0x1000, length := 0x1000, secure := false, cls := 0, kind := 0, total := some 16 })]
  lasers := [{ seated := true, ready := true, released := true, outputs := true }, { seated := true }, {}, {}] } }

theorem linked_inv : linked.Inv := tiers_of_empty rfl rfl

theorem crcBit_lt (c : Nat) (h : c < 2 ^ 32) : crcBit c < 2 ^ 32 := by
  unfold crcBit
  split
  · exact Nat.xor_lt_two_pow (by omega) (by decide)
  · omega

theorem crc32c_lt (bs : List Byte) : crc32c bs < 2 ^ 32 := by
  have h : ∀ (bs : List Byte) (c : Nat), c < 2 ^ 32 → bs.foldl crcByte c < 2 ^ 32 := by
    intro bs
    induction bs with
    | nil => exact fun c h => h
    | cons b bs ih =>
      intro c h
      refine ih _ ?_
      unfold crcByte
      exact crcBit_lt _ (crcBit_lt _ (crcBit_lt _ (crcBit_lt _ (crcBit_lt _ (crcBit_lt _ (crcBit_lt _ (crcBit_lt _
        (Nat.xor_lt_two_pow h (Nat.lt_of_lt_of_le b.isLt (by decide))))))))))
  exact Nat.xor_lt_two_pow (h _ _ (by decide)) (by decide)

theorem ofLE_toLE4 (x : Nat) (h : x < 2 ^ 32) : ofLE (toLE 4 x) = x := by
  simp only [toLE, ofLE, BitVec.toNat_ofNat]
  omega

/-- A control flit without messages, with a good CRC and a TAG. -/
def tagged (seq : Nat) (tag : List Byte) : List Byte :=
  let body := toLE 4 (seq * 65536) ++ List.replicate 228 0#8 ++ tag ++ toLE 4 0
  body ++ toLE 4 (crc32c body)

theorem tagged_parts (seq : Nat) (tag : List Byte) (h : tag.length = 16) :
    field (tagged seq tag) 0xFC 4 = crc32c ((tagged seq tag).take 0xFC) ∧ ((tagged seq tag).drop 0xE8).take 16 = tag
    ∧ (tagged seq tag).take 0xE8 = toLE 4 (seq * 65536) ++ List.replicate 228 0#8 := by
  have h4 : ∀ x, (toLE 4 x).length = 4 := fun _ => rfl
  have hh : (toLE 4 (seq * 65536) ++ List.replicate 228 0#8).length = 232 := rfl
  have hb : (toLE 4 (seq * 65536) ++ List.replicate 228 0#8 ++ tag ++ toLE 4 0).length = 252 := by
    rw [List.length_append, List.length_append, hh, h, h4]
  refine ⟨?_, ?_, ?_⟩
  · rw [tagged, field, List.drop_left' hb, List.take_left' hb, List.take_of_length_le (Nat.le_of_eq (h4 _)), ofLE_toLE4 _ (crc32c_lt _)]
  · rw [tagged, List.append_assoc _ tag, List.append_assoc, List.drop_left' hh, List.append_assoc, List.take_left' h]
  · rw [tagged, List.append_assoc _ tag, List.append_assoc, List.take_left' hh]

/-- Under whatever key: flits whose TAG is good, and whose TAG is not. -/
theorem ctrlFlit_good (seq : Nat) (key : Option Nat) : ∃ b, field b 0xFC 4 = crc32c (b.take 0xFC)
    ∧ (b.drop 0xE8).take 16 = ctrlTag key seq (b.take 0xE8) ∧ b.take 4 = toLE 4 (seq * 65536) := by
  have h16 : ∀ k q b, (ctrlTag k q b).length = 16 := fun k q b => by simp [ctrlTag]
  obtain ⟨h1, h2, h3⟩ := tagged_parts seq _ (h16 key seq (toLE 4 (seq * 65536) ++ List.replicate 228 0#8))
  exact ⟨_, h1, h2.trans (by rw [h3]), rfl⟩
theorem ctrlFlit_bad (seq : Nat) (key : Option Nat) : ∃ b, field b 0xFC 4 = crc32c (b.take 0xFC)
    ∧ (b.drop 0xE8).take 16 ≠ ctrlTag key seq (b.take 0xE8) := by
  let head : List Byte := toLE 4 (seq * 65536) ++ List.replicate 228 0#8
  by_cases h : ctrlTag key seq head = List.replicate 16 0#8
  · obtain ⟨h1, h2, h3⟩ := tagged_parts seq (List.replicate 16 1#8) rfl
    exact ⟨_, h1, by rw [h2, h3]; exact fun e => absurd (e.trans h) (by decide)⟩
  · obtain ⟨h1, h2, h3⟩ := tagged_parts seq (List.replicate 16 0#8) rfl
    exact ⟨_, h1, by rw [h2, h3]; exact fun e => h e.symm⟩

/-- Whatever the key: every flit is what a flit on the fibre deciphers to. -/
theorem cipher_onto (s : State) (p frame n : Nat) (out : Bool) (clear : List Byte) :
    ∃ bytes, s.linkCipher p frame n out bytes = clear := by
  refine ⟨s.linkCipher p frame n out clear, ?_⟩
  simp only [State.linkCipher, flitCipher]
  refine List.ext_getElem (by simp) fun i _ _ => ?_
  simp only [List.getElem_mapIdx, BitVec.xor_assoc, BitVec.xor_self, BitVec.xor_zero]

/-- A data flit of a kind from peer 1 for window `h`: 16 bytes at offset 0 of it. -/
def flit (h kind : Nat) : List Byte := put (List.replicate 256 0#8) [(0, 2, h), (4, 2, 1), (6, 1, kind), (8, 1, 15), (16, 1, 7)]

/-- `linked` with a mismatched port 6, at the far end of which HELLOs name DEVID 9. -/
def stray : State := linked.setPort 6 { st := .active, peer := some 9, mismatched := true, owed := 1 }

/-- `linked` with peer 1 LOST; with a damaged control flit due on port 0; with no place for a flit without an acknowledgement; with an
acknowledgement due and no credit owed; with a COPY in slot 0, whose hub has no power, that reads through window 2. -/
def lostPeer : State := linked.setPeer 1 { linked.peer 1 with st := .lost }
def damagedFlit : State := linked.setPort 0 { linked.port 0 with arriving := [(1, 7, 3, true), (2, 7, 4, false)] }
def unacknowledged : State := linked.setPeer 1 { linked.peer 1 with sent := (List.range 512).map (fun n => (n, 0, 0, [])) }
def acknowledging (due : Bool) : State := (linked.setPort 0 { linked.port 0 with owed := 0 }).setPeer 1 { linked.peer 1 with ackDue := due }
def reads : State := { linked with
  dsp := { linked.dsp with stages := [(0, stg 0 .running (desc 0x0C []))] }
  lnk := { linked.lnk with windows := [(2, { peer := 1, base := 0, length := 64, secure := false, cls := 0, kind := 2, home := .copy 0 })] } }

theorem witness_FlitsArrive_rest :
    ((linked.setPort 0 { linked.port 0 with frame := 2 ^ 44 - 1 }).port 0).st = .active
    ∧ (lostPeer.farEnd 0 = some 1 ∧ (lostPeer.peer 1).st = .lost)
    ∧ ((linked.peer 1).st ≠ .lost ∧ (linked.arrival 0 1).1.2.2 = false ∧ (damagedFlit.arrival 0 1).1 = (7, 3, true)
      ∧ (damagedFlit.port 0).st = .active)
    ∧ ((unacknowledged.port 0).st = .active ∧ 512 ≤ (unacknowledged.peer 1).sent.length)
    ∧ (((acknowledging true).port 0).owed = 0 ∧ ((acknowledging true).peer 1).ackDue = true ∧ ((acknowledging true).peer 1).sent.length < 512
      ∧ ((acknowledging false).port 0).owed = 0 ∧ ((acknowledging false).peer 1).ackDue = false)
    ∧ (field (flit 0 1) 6 1 ≠ 0 ∧ field (flit 0 1) 6 1 ≤ 3 ∧ 3 < field (flit 0 4) 6 1 ∧ 3 ≤ 3)
    ∧ (linked.carriesAll 0 = true ∧ field (put (flit 0 0) [(2, 2, 9)]) 2 2 % 1024 ≠ linked.lnk.devid)
    ∧ (reads.carriesAll 0 = true ∧ reads.flitGate (flit 2 2) = some 204 ∧ linked.flitGate (flit 0 0) = none) := by decide +kernel

theorem witness_FlitsArrive :
    (linked.port 0).st = .active ∧ linked.farEnd 0 = some 1 ∧ (stray.port 6).st = .active ∧ stray.farEnd 6 = some 1030
    ∧ linked.carriesAll 0 = true ∧ stray.carriesAll 6 = false
    ∧ (∀ p, p < 32 → (stray.port p).mismatched = true → (stray.port p).peer ≠ some 1)
    ∧ field (List.replicate 256 0#8) 0xFC 4 ≠ crc32c ((List.replicate 256 0#8).take 0xFC)
    ∧ extSeq (linked.peer 1).recvSeq (field (toLE 4 (1 * 65536)) 2 2) = 1 ∧ (linked.peer 1).recvSeq = 0
    ∧ extSeq (linked.peer 1).recvSeq (field (toLE 4 (0 * 65536)) 2 2) = (linked.peer 1).recvSeq
    ∧ 0 < (linked.port 0).owed ∧ (linked.peer 1).sent.length < 512
    ∧ field (flit 0 0) 6 1 = 0 ∧ field (flit 0 0) 2 2 % 1024 = linked.lnk.devid ∧ 0 = field (flit 0 0) 0 2 % 4096
    ∧ (linked.window 0).map (fun w => w.takes (flit 0 0)) = some true ∧ (linked.window 0).map (fun w => w.takes (flit 0 3)) = some false
    ∧ linked.window 0xFFF = none ∧ 0xFFF = field (flit 0xFFF 1) 0 2 % 4096 := by decide +kernel

theorem witness_FlitsLand :
    linked.Inv ∧ (linked.window 0).map (fun w => (w.home, w.base, w.total)) = some (.memory, 0x1000, none)
    ∧ field (flit 0 0) 6 1 = 0 ∧ ((flit 0 0).drop 16 |>.take (field (flit 0 0) 8 1 + 1)).length = 16 ∧ 0x1000 + field (flit 0 0) 10 6 = 0x1000
    ∧ 0x1000 % 256 + 16 ≤ 256 ∧ linked.place 0x1000 ≠ .reserved ∧ linked.place 0x1000 ≠ .host
    ∧ touches linked.kvExtents 0x1000 16 = false ∧ touches linked.poolExtents 0x1000 16 = false
    ∧ hedge ((linked.regionAt 0x1000).map Prod.snd) false 0x7E = 0 ∧ linked.poisoned (0x1000 / 256) = false
    ∧ linked.lineAway (0x1000 / 256) = false ∧ linked.lineOut (0x1000 / 256) = false :=
  ⟨linked_inv, by decide +kernel⟩

/-- A message body with a TAG and fields from its third byte on. -/
def msg (n : Nat) (xs : List (Nat × Nat × Nat)) : List Byte := put (List.replicate n 0#8) (xs.map (fun x => (x.1 + 2, x.2)))

/-- DEVID 5, whose time master is its direct peer 1. -/
def following : State := { linked with lnk := { linked.lnk with devid := 5, peers := [(1, { st := .present, ports := [0], master := 1 })] } }
def helloLen : Nat := (msgLen 1).getD 0 - 6

theorem witness_PeersAndTime_rest :
    (field (msgBody (msg helloLen [(0, 2, 1)])) 0 2 = 1 ∧ linked.present 1 = true
      ∧ (linked.peer 1).serial = field (msgBody (msg helloLen [(0, 2, 1)])) 12 8
      ∧ (linked.peer 1).serial ≠ field (msgBody (msg helloLen [(0, 2, 1), (12, 8, 5)])) 12 8
      ∧ msgOk 0x01 (msg helloLen [(0, 2, 1), (12, 8, 5)]) = true
      ∧ field (msgBody (msg helloLen [(0, 2, 1), (12, 8, 5)])) 4 4 = linked.lnk.domain)
    ∧ field (msgBody (msg helloLen [])) 0 2 = linked.lnk.devid
    ∧ (((dying linked).port 0).st = .active ∧ (dying linked).fatal = true ∧ msgOk 0x01 (msg 5 []) = false)
    ∧ ((linked.peer 3).incarnation < field (msg 24 [(6, 4, 7)]) 8 4 ∧ (linked.peer 1).incarnation < field (msg 24 [(6, 4, 7)]) 8 4)
    ∧ (following.present 1 = true ∧ following.fatal = false ∧ following.timeHops.2 = some 1
      ∧ field (msgBody (msg 26 [(8, 8, 1)])) 8 8 ≠ 0) := by decide +kernel

theorem witness_PeersAndTime :
    (linked.port 1).st ≠ .active ∧ (linked.port 0).st = .active ∧ linked.fatal = false
    ∧ msgOk 0x01 (msg ((msgLen 1).getD 0 - 6) [(0, 2, 5)]) = true
    ∧ field (msgBody (msg ((msgLen 1).getD 0 - 6) [(0, 2, 5)])) 4 4 = linked.lnk.domain
    ∧ field (msgBody (msg ((msgLen 1).getD 0 - 6) [(0, 2, 5)])) 0 2 ≠ linked.lnk.devid ∧ linked.present 5 = false
    ∧ msgOk 0x01 (msg ((msgLen 1).getD 0 - 6) [(4, 4, 9)]) = true
    ∧ field (msgBody (msg ((msgLen 1).getD 0 - 6) [(4, 4, 9)])) 4 4 ≠ linked.lnk.domain
    ∧ (linked.peer 9).st = .absent ∧ (linked.peer 2).st = .joining ∧ (linked.peer 3).st = .lost
    ∧ field (msgBody (msg ((msgLen 1).getD 0 - 6) [])) 8 4 ≤ (linked.peer 3).incarnation
    ∧ (linked.peer 1).st = .present ∧ (linked.peer 1).ports.any linked.isActive = true
    ∧ (linked.peer 4).st = .present ∧ linked.routeUp 4 = false ∧ 9 < 1024 ∧ (linked.port 0).mismatched = false
    ∧ msgOk 0x03 (msg 26 []) = true ∧ linked.present 1 = true ∧ linked.timeHops.2 ≠ some 1
    ∧ linked.lnk.synced = false ∧ linked.time + 1000000 < 1000001 ∧ 1000000 ≤ linked.time + 1000000
    ∧ ({ linked with lnk := { linked.lnk with synced := true } } : State).lnk.synced = true
    ∧ linked.lnk.slew = 0 ∧ linked.lnk.slewPhase + 1 < 10000 ∧ (msg 25 []).length ≠ 26 ∧ (msg 9 []).length ≠ 10
    ∧ (msg 10 []).length = 10 := by decide +kernel

theorem witness_PortsAndLasers :
    (linked.port 1).st = .calibrate ∧ (linked.port 2).st = .align ∧ (linked.port 3).st = .verify ∧ (linked.port 3).waitAuth = false
    ∧ linked.boot.authOpen = false ∧ ({ linked with boot := { linked.boot with authOpen := true } } : State).boot.authOpen = true
    ∧ (linked.port 4).st = .auth ∧ linked.sec.entropyFail = false ∧ msgOk 0x0D (msg 26 []) = true ∧ (linked.port 0).st = .active
    ∧ (linked.port 7).st = .disabled ∧ linked.hif.notReady = false ∧ linked.portEnabled 7 = true ∧ (linked.laserOf 7).outputs = true
    ∧ (linked.port 31).st = .disabled ∧ (linked.laserOf 31).outputs = false
    ∧ linked.farEnd 4 = none ∧ linked.boot.running.find (15, 1 + 4) = none ∧ linked.portEnabled 4 = true
    ∧ (linked.laserOf 4).outputs = true ∧ (linked.port 4).attempt < 2
    ∧ 3 < linked.lnk.lasers.length ∧ (linked.lnk.lasers.getD 1 {}).seated = true ∧ (linked.lnk.lasers.getD 1 {}).released = false
    ∧ linked.boot.ended.contains (14, 1 + 1) = false
    ∧ ({ linked with boot := { linked.boot with ended := [(14, 2)] } } : State).boot.ended.contains (14, 1 + 1) = true := by decide +kernel

theorem witness_PortsAndLasers_rest :
    ((linked.port 5).st = .retrain ∧ (linked.port 5).sub = .calibrate) ∧ ((linked.port 0).st ≠ .auth ∧ (linked.port 0).st ≠ .retrain)
    ∧ ({ linked with sec := { linked.sec with entropyFail := true } } : State).sec.entropyFail = true
    ∧ linked.lnk.held = [] := by decide +kernel

/-- `linked` with a COPY in slot 0 that waits for a window at peer 1, and one that reads from it. -/
def copying (run : CopyRun) : State := { linked with
  dsp := { linked.dsp with stages := [(0, stg 0 .running (desc 0x0C []))] }, lnk := { linked.lnk with copies := [(0, run)] } }

/-- `linked` with a window request that waits; with Secure regions; with every handle in use. -/
def windowsWait : State := { linked with lnk := { linked.lnk with winWait := [(1, 0, [])] } }
def secureRegions : State := { linked with sec := tables.sec }
def openAll (s : State) (hs : List Nat) : State := { s with lnk := { s.lnk with
  windows := hs.map (fun h => (h, { peer := 1, base := 0, length := 1, secure := false, cls := 0, kind := 0 })) } }
def fullHandles (s : State) : State := openAll s (List.range 4096)

theorem find_of_mem {α : Type} (l : List Nat) (w : α) (h : Nat) (hh : h ∈ l) : Map.find (l.map (fun h => (h, w))) h = some w := by
  induction l with
  | nil => cases hh
  | cons a l ih =>
    show (if a = h then some w else Map.find (l.map (fun h => (h, w))) h) = some w
    split
    · rfl
    · exact ih ((List.mem_cons.1 hh).resolve_left (fun e => by omega))

theorem fullHandles_none (s : State) : (fullHandles s).freeHandle = none := by
  have hs : ∀ (l : List Nat) (h : Nat), h ∈ l → ((openAll s l).window h).isNone = false := fun l h hh => by
    rw [show (openAll s l).window h = some _ from find_of_mem l _ h hh]; rfl
  exact List.find?_eq_none.2 fun h hh => by rw [show (fullHandles s).window h = (openAll s (List.range 4096)).window h from rfl, hs _ _ hh]; decide

def winReq : List Byte := msg 26 [(0, 6, 0x1000), (6, 5, 0x1000)]

theorem witness_Windows_rest :
    (windowsWait.present 1 = true ∧ windowsWait.lnk.winWait ≠ []
      ∧ windowsWait.windowCheck (bit (field (msgBody winReq) 11 1) 0) (field (msgBody winReq) 0 6) (field (msgBody winReq) 6 5) = 0)
    ∧ (fullHandles linked).freeHandle = none
    ∧ (secureRegions.present 1 = true
      ∧ secureRegions.windowCheck false (field (msgBody (msg 26 [(0, 6, 0x600000), (6, 5, 0x1000)])) 0 6)
        (field (msgBody (msg 26 [(0, 6, 0x600000), (6, 5, 0x1000)])) 6 5) = 4)
    ∧ (2 ^ 20 < field (msgBody (msg 26 [(6, 4, 2 ^ 20 + 1)])) 6 4
      ∧ linked.windowCheck false 0x200000 (field (msgBody (msg 26 [(0, 6, 0x200000), (6, 4, 64)])) 6 4) = 3)
    ∧ (linked.window 7 = none ∧ (reads.window 2).map (fun w => decide (w.home ≠ .memory)) = some true)
    ∧ field (msgBody (msg 10 [(2, 1, 3)])) 2 1 ≠ 0 :=
  ⟨by decide +kernel, fullHandles_none _, by decide +kernel, by decide +kernel, by decide +kernel, by decide +kernel⟩

theorem witness_Windows :
    linked.present 1 = true ∧ linked.fatal = false ∧ (copying {}).fatal = false ∧ (copying {}).present 1 = true ∧ (msg 26 [(0, 6, 0x1000), (6, 5, 0x1000)]).length = 26
    ∧ linked.windowCheck (bit (field (msgBody (msg 26 [(0, 6, 0x1000), (6, 5, 0x1000)])) 11 1) 0)
        (field (msgBody (msg 26 [(0, 6, 0x1000), (6, 5, 0x1000)])) 0 6) (field (msgBody (msg 26 [(0, 6, 0x1000), (6, 5, 0x1000)])) 6 5) = 0
    ∧ linked.freeHandle = some 2
    ∧ linked.windowCheck (bit (field (msgBody (msg 26 [])) 11 1) 0) (field (msgBody (msg 26 [])) 0 6) (field (msgBody (msg 26 [])) 6 5) = 3
    ∧ field (msgBody (msg 26 [(6, 4, 2 ^ 20)])) 6 4 ≤ 2 ^ 20 ∧ linked.windowCheck (bit (field (msgBody (msg 26 [(6, 4, 2 ^ 20)])) 18 1) 0)
        (field (msgBody (msg 26 [(6, 4, 2 ^ 20)])) 0 6) (field (msgBody (msg 26 [(6, 4, 2 ^ 20)])) 6 4) = 0
    ∧ (linked.window (field (msgBody (msg 10 [])) 0 2)).map (fun w => (w.peer, w.home, w.applied)) = some (1, .memory, 0)
    ∧ field (msgBody (msg 10 [(2, 6, 1)])) 2 6 ≠ 0 ∧ field (msgBody (msg 10 [])) 2 6 = 0
    ∧ (linked.window 1).map (fun w => w.total.isSome) = some true ∧ linked.lnk.winWait = []
    ∧ (let s := copying { peer := some 1 }
      s.lnk.copies.find? (fun p => !p.2.reading && p.2.peer == some 1 && p.2.tag == msgTag (msg 10 []) && p.2.handle.isNone)
        = some (0, { peer := some 1 }) ∧ (s.stage 0).isSome)
    ∧ (let run : CopyRun := { peer := some 1, reading := true, runs := [(0, 0, 16, false)] }
      (copying run).lnk.copies.find? (fun p => p.2.reading && p.2.peer == some 1 && p.2.runs.any (fun x => x.1 == msgTag (msg 10 [])))
        = some (0, run) ∧ field (msgBody (msg 10 [])) 2 1 = 0) := by decide +kernel

/-- A COPY within the device, to peer 1, to a peer that is not PRESENT. -/
def copyTo (d : Nat) : State := { linked with
  dsp := { linked.dsp with stages := [(0, stg 0 .running (desc 0x0C [(0x90, 8, d * 2 ^ 48)]))] } }

/-- A COPY from peer 1 or from peer 5, which is not PRESENT; runs in progress: a piece on an engine, behind flits that wait, at the end,
denied, of a reset ring. -/
def copyFrom (d : Nat) : State := { linked with
  dsp := { linked.dsp with stages := [(0, stg 0 .running (desc 0x0C [(0x40, 8, d * 2 ^ 48)]))] } }
def holding (run : CopyRun) : State :=
  let s := copying run
  { s with lnk := { s.lnk with held := [(1, put (flit 0 0) [(4, 2, 0)])] } }

theorem witness_Copies_rest :
    ((dTd (desc 0x0C [(0x40, 8, 2 ^ 48)]) 0).devid ≠ (copyFrom 1).lnk.devid ∧ (dTd (desc 0x0C [(0x40, 8, 2 ^ 48)]) 2).devid = (copyFrom 1).lnk.devid
      ∧ (copyFrom 1).present (dTd (desc 0x0C [(0x40, 8, 2 ^ 48)]) 0).devid = true
      ∧ (copyFrom 5).present (dTd (desc 0x0C [(0x40, 8, 5 * 2 ^ 48)]) 0).devid = false)
    ∧ ((fullHandles (copyFrom 1)).freeHandle = none ∧ (copyFrom 1).freeHandle = some 2)
    ∧ (({} : CopyRun).busy = 0 ∧ ({ busy := 1 } : CopyRun).busy ≠ 0)
    ∧ (let run : CopyRun := { peer := some 1, handle := some 0, busy := 1 }
      (holding run).copyHolds run = true ∧ (copying run).copyHolds run = false ∧ run.peer = some 1 ∧ run.handle = some 0)
    ∧ (let run : CopyRun := { peer := some 1, denied := true, piece := 1 }
      run.peer.isSome = true ∧ run.denied = true ∧ run.handle = none ∧ copyPieces (dTd (desc 0x0C []) 2) ≤ run.piece)
    ∧ ({} : CopyRun).piece < copyPieces (dTd (desc 0x0C []) 2)
    ∧ ({ stg 0 .running (desc 0x0C []) with ending := true } : Stage).ending = true :=
  ⟨by decide +kernel, ⟨fullHandles_none _, by decide +kernel⟩, by decide +kernel, by decide +kernel, by decide +kernel, by decide +kernel, rfl⟩

theorem witness_Copies :
    (stg 0 .running (desc 0x0C [])).opcode = 0x0C ∧ (copyTo 0).lnk.copies.find 0 = none
    ∧ (dTd (desc 0x0C [(0x90, 8, 0)]) 2).devid = (copyTo 0).lnk.devid ∧ (dTd (desc 0x0C [(0x90, 8, 0)]) 0).devid = (copyTo 0).lnk.devid
    ∧ (dTd (desc 0x0C [(0x90, 8, 2 ^ 48)]) 2).devid ≠ (copyTo 1).lnk.devid
    ∧ (copyTo 1).present (dTd (desc 0x0C [(0x90, 8, 2 ^ 48)]) 2).devid = true
    ∧ (copyTo 5).present (dTd (desc 0x0C [(0x90, 8, 5 * 2 ^ 48)]) 2).devid = false
    ∧ (copying {}).lnk.copies.find 0 = some {} ∧ (stg 0 .running (desc 0x0C [])).ending = false := by decide +kernel

/-- A COLLECTIVE of one member, this device, whose member table stands at 0x8000; its progress once joined. -/
def collective : Stage := stg 0 .running (desc 0x0D [(0xE2, 2, 1), (0xEC, 4, 5), (0xF0, 6, 32)])
def joined : CollRun := ⟨[0], 0, [], [], true, [], [], 0, [], false⟩
def gathering (r : CollRun) : State :=
  let s := openStage collective
  { s with lnk := { linked.lnk with colls := [(0, r)] } }
def members : State := withBytes collective (toLE 2 0 ++ toLE 4 (crc32c (toLE 2 0)))

/-- A COLLECTIVE of the two members 0, this device, and 1; its table past the regions; with a JOIN or a MISMATCH that came early; joined,
before its partials, behind flits that wait. -/
def pair : Stage := stg 0 .running (desc 0x0D [(0xE2, 2, 2), (0xEC, 4, 5), (0xF0, 6, 32)])
def outside : Stage := stg 0 .running (desc 0x0D [(0xE2, 2, 1), (0xF0, 6, 0x8000)])
def early (mismatch : Bool) : State :=
  { members with lnk := { members.lnk with early := [⟨false, 0, 1, 1, 0, 0, 0, mismatch⟩] } }
def pairing (r : CollRun) : State := { linked with
  dsp := { linked.dsp with stages := [(0, pair)] }, lnk := { linked.lnk with colls := [(0, r)], held := [(1, put (flit 9 0) [(4, 2, 0)])] } }
def pairRun : CollRun := { members := [0, 1], digest := 3, data := true, joins := [(1, (3, 9, 10))] }

theorem witness_Collectives_rest :
    ((openStage outside).ctrlRead (outside.who 0) (opAddr outside.desc 0xF0 % 2 ^ 48) (2 * collM outside.desc + 4)).2.1 = 3
    ∧ (let x := (early true).ctrlRead (collective.who 0) (opAddr collective.desc 0xF0 % 2 ^ 48) (2 * collM collective.desc + 4)
      let o := x.2.2.openCollWindows 0 collective ⟨[0], 0, [], [], false, [], [], 0, [], false⟩
      let w := (o.2.setColl 0 o.1).toMembers o.1 (collRank collective.desc) (fun _ => [])
      (w.lnk.early.filter (fun j => j.secure == collective.secure && j.id == collId collective.desc)).any EarlyJoin.mismatch = true)
    ∧ (({ pairRun with joins := [] } : CollRun).joined pair.desc = false ∧ pairRun.joined pair.desc = true ∧ op4 pair.desc 0xEC ≠ 0
      ∧ op4 outside.desc 0xEC = 0)
    ∧ ((pairing pairRun).collHolds pair pairRun = true ∧ (pairing { pairRun with joins := [] }).collHolds pair { pairRun with joins := [] } = false
      ∧ (gathering joined).collHolds collective joined = false)
    ∧ (0 ∉ pairRun.blocks ∧ 0 < collBlocks pair.desc ∧ ((pairing pairRun).blockCodes 0 pair pairRun 0).1 = none)
    ∧ (pairRun.joins.find 1).isSome = true ∧ ({ pairRun with joins := [] } : CollRun).joins.find 1 = none
    ∧ (pairRun.digest ≠ 4 ∧ pairRun.digest = 3)
    ∧ ((pairing { pairRun with joins := [] }).findColl false 0).isSome
    ∧ field (msgBody (msg 26 [(0, 1, 2), (20, 1, 0x0B)])) 0 1 = 2 ∧ field (msgBody (msg 26 [(0, 1, 2), (20, 1, 0x0B)])) 20 1 = 0x0B
    ∧ ({ collective with ending := true } : Stage).ending = true := by decide +kernel

theorem witness_Collectives :
    collective.opcode = 0x0D ∧ members.lnk.colls.find 0 = none ∧ members.lnk.windows.length + 2 * collM collective.desc ≤ 4096
    ∧ (let x := members.ctrlRead (collective.who 0) (opAddr collective.desc 0xF0 % 2 ^ 48) (2 * collM collective.desc + 4)
      x.2.1 = 0 ∧ x.2.2.memberStatus collective x.1 [0] = 0
      ∧ (x.2.2.openCollWindows 0 collective ⟨[0], 0, [], [], false, [], [], 0, [], false⟩).2.lnk.early = [])
    ∧ (let x := (openStage collective).ctrlRead (collective.who 0) (opAddr collective.desc 0xF0 % 2 ^ 48) (2 * collM collective.desc + 4)
      x.2.1 = 0 ∧ x.2.2.memberStatus collective x.1 [0] ≠ 0)
    ∧ (gathering joined).lnk.colls.find 0 = some joined ∧ joined.data = true ∧ ({ joined with data := false } : CollRun).data = false
    ∧ op4 collective.desc 0xEC ≠ 0 ∧ joined.blocks.length < collBlocks collective.desc
    ∧ (({ joined with finalSent := true, written := 1 } : CollRun).finalSent = true ∧ collM collective.desc ≤ 0 + 1
      ∧ collWrites collective.desc ≤ 1)
    ∧ (0 ∉ joined.blocks ∧ 0 < collBlocks collective.desc ∧ ((gathering joined).blockCodes 0 collective joined 0).1.isSome)
    ∧ linked.present 1 = true ∧ linked.fatal = false ∧ (gathering joined).fatal = false ∧ collective.ending = false
    ∧ (msg 26 []).length = 26 ∧ field (msgBody (msg 26 [])) 0 1 = 0 ∧ linked.findColl false 0 = none
    ∧ ((gathering joined).findColl false 0).isSome ∧ (gathering joined).present 1 = true
    ∧ field (msgBody (msg 26 [(0, 1, 1)])) 0 1 = 1 := by decide +kernel

theorem witness_IntegerReductions :
    [2 ^ 40, -(2 ^ 40)] ≠ ([] : List Int) ∧ [2 ^ 40, -(2 ^ 40)].length ≤ 512
    ∧ (∀ x ∈ [(2 ^ 40 : Int), -(2 ^ 40)], -(2 ^ 40) ≤ x ∧ x ≤ 2 ^ 40) ∧ (List.replicate 512 (0 : Int)).length ≤ 512 := by decide +kernel

/-! ### What the statements assume: ingest, video, paced output -/

/-- A sample table of one GREEN or LIVE entry, and a stage that reads it at 0x8000. -/
def sampleTable (kind : Nat) : List Byte := put (List.replicate 96 0#8) [(0, 1, 1), (2, 2, 1), (64, 1, kind), (72, 8, 0x4000)]
def ingest : Stage := stg 0 .running (desc 0x10 [(0xE0, 6, 32)])
def ingesting (kind : Nat) : State := withBytes ingest (sampleTable kind ++ toLE 4 (crc32c (sampleTable kind)))
/-- An INGEST in progress with one entry, whose queue's header stands at 0x4000 or nowhere. -/
def entryIn (kind : Nat) (e : IngEntry) (header : List Byte) : State :=
  let s := openStage ingest
  { s with ing := { s.ing with runs := [(0, ⟨sampleTable kind, [e]⟩)] }, mem := { s.mem with cells := cellsPut [] 0x4000 header } }
def queueHead : List Byte :=
  let b := put (List.replicate 16 0#8) [(0, 4, 1), (4, 4, 256)]
  b ++ toLE 4 (crc32c b)

/-- An INGEST about to start on a table; one in progress on a table, with entries, its queue's header and counters at 0x4000. -/
def startOn (tab : List Byte) : State := withBytes ingest (tab ++ toLE 4 (crc32c tab))
def inProgress (tab : List Byte) (es : List IngEntry) (queue : List Byte) : State :=
  let s := openStage ingest
  { s with ing := { s.ing with runs := [(0, ⟨tab, es⟩)] }, mem := { s.mem with cells := cellsPut [] 0x4000 queue } }
def readTab (tab : List Byte) : List Byte × State := (startOn tab).readFor (ingest.who 0) (opAddr ingest.desc 0xE0 % 2 ^ 48) (64 + 32 * 1 + 4) 0
def waitTable (kind : Nat) : List Byte := put (sampleTable kind) [(8, 4, 1)]
def twoTable : List Byte := put (waitTable 1 ++ List.replicate 32 0#8) [(2, 2, 2), (96, 1, 1), (98, 2, 1), (104, 8, 0x4000)]
def oneFrame : List Byte := put (List.replicate 192 0#8) [(0x40, 4, 1)] |>.drop 20 |> (queueHead ++ ·)

theorem witness_Ingest_rest :
    ((readTab (put (sampleTable 0) [(2, 2, 2)])).1.take 96 = put (sampleTable 0) [(2, 2, 2)]
      ∧ tabOk ingest.desc (put (sampleTable 0) [(2, 2, 2)]) = false)
    ∧ (let tab := put (sampleTable 0) [(0x28, 8, 0x200000)]
      tabOk ingest.desc tab = true ∧ tabStatus tab ≠ 0 ∧ tabStatus tab >>> 48 = (readTab tab).2.lnk.devid
      ∧ (readTab tab).2.extentCheck false false 0 (tabStatus tab % 2 ^ 48) 16 true = 3)
    ∧ (let s := inProgress (put (sampleTable 1) [(72, 8, 0x800000)]) [{}] []
      s.queueTurn 0 0 0x800000 = true ∧ (s.ctrlRead (ingest.who 0) 0x800000 64).2.1 = 3)
    ∧ (let q := entSrc (tabEntry (put (sampleTable 1) [(72, 8, 2 ^ 48 + 0x4000)]) 0)
      (inProgress (put (sampleTable 1) [(72, 8, 2 ^ 48 + 0x4000)]) [{}] []).queueTurn 0 0 q = true ∧ q >>> 48 ≠ openMem.lnk.devid)
    ∧ (({ st := .ended } : IngEntry).st ≠ .waiting ∧ entKind (tabEntry (sampleTable 0) 0) ≠ 1
      ∧ (inProgress twoTable [{}, {}] []).queueTurn 0 1 0x4000 = false ∧ ({ ingest with ending := true } : Stage).ending = true)
    ∧ field (sampleTable 1) 8 4 = 0 ∧ field (waitTable 1) 8 4 ≠ 0
    ∧ (((inProgress (waitTable 1) [{}] []).pollQueue 0 0).ing.runs.find 0).bind (fun r => (r.entries[0]?).map (fun x => decide (x.st ≠ .waiting)))
      = some true
    ∧ (((inProgress (waitTable 0) [{ drops := 1 }] []).pollQueue 0 0).ing.runs.find 0).bind (fun r => r.entries[0]?)
      = some ({ drops := 1 } : IngEntry)
    ∧ (let s := (inProgress (waitTable 1) [{}] queueHead).pollQueue 0 0
      (s.ing.runs.find 0).bind (fun r => r.entries[0]?) = some ({} : IngEntry) ∧ s.queueHolds (ingest.who 0) 0x4000 = false)
    ∧ (let s := (inProgress twoTable [{}, {}] oneFrame).pollQueue 0 1
      (s.ing.runs.find 0).bind (fun r => r.entries[1]?) = some ({} : IngEntry) ∧ entKind (tabEntry twoTable 1) = 1 ∧ s.queueHolds (ingest.who 0) 0x4000 = true)
    ∧ (∀ g, ({} : IngEntry).st ≠ .busy g) ∧ (∃ e ∈ [({} : IngEntry)], e.st ≠ .ended) := by
  refine ⟨by decide +kernel, by decide +kernel, by decide +kernel, by decide +kernel, by decide +kernel, by decide +kernel, by decide +kernel,
    by decide +kernel, by decide +kernel, by decide +kernel, by decide +kernel, nofun, by decide⟩

theorem witness_Ingest :
    (ingest.opcode = 0x10 ∧ (ingesting 0).ing.runs.find 0 = none ∧ (dTd ingest.desc 2).n * (dTd ingest.desc 2).t = 1
      ∧ (let b := ((ingesting 0).readFor (ingest.who 0) (opAddr ingest.desc 0xE0 % 2 ^ 48) (64 + 32 * 1 + 4) 0).1
        field b (64 + 32 * 1) 4 = crc32c (b.take (64 + 32 * 1)) ∧ field b 0 1 = 1 ∧ tabOk ingest.desc (b.take (64 + 32 * 1)) = true
        ∧ tabStatus (b.take (64 + 32 * 1)) = 0)
      ∧ (let b := ((openStage ingest).readFor (ingest.who 0) (opAddr ingest.desc 0xE0 % 2 ^ 48) (64 + 32 * 1 + 4) 0).1
        field b (64 + 32 * 1) 4 ≠ crc32c (b.take (64 + 32 * 1))))
    ∧ (entKind (tabEntry (sampleTable 1) 0) = 1 ∧ (entryIn 1 {} []).queueTurn 0 0 (entSrc (tabEntry (sampleTable 1) 0)) = true
      ∧ entSrc (tabEntry (sampleTable 1) 0) >>> 48 = (entryIn 1 {} []).lnk.devid
      ∧ (let x := (entryIn 1 {} []).ctrlRead (ingest.who 0) (entSrc (tabEntry (sampleTable 1) 0) % 2 ^ 48) 64
        x.2.1 = 0 ∧ x.2.2.localQueue x.1 = none)
      ∧ (let x := (entryIn 1 {} queueHead).ctrlRead (ingest.who 0) (entSrc (tabEntry (sampleTable 1) 0) % 2 ^ 48) 64
        x.2.1 = 0 ∧ x.2.2.localQueue x.1 = some (1, 256, 0)))
    ∧ ({} : IngEntry).st = .waiting ∧ ingest.ending = false ∧ field (put (sampleTable 1) [(8, 4, 1)]) 8 4 ≠ 0 ∧ ({ st := .busy 3 } : IngEntry).st = .busy 3
    ∧ (∀ e ∈ [({ st := .ended } : IngEntry)], e.st = .ended)
    ∧ (∃ e ∈ [({ outcome := some 4 } : IngEntry)], e.outcome = some 4 ∨ e.outcome = some 5)
    ∧ ((∀ e ∈ [({ outcome := some 3 } : IngEntry)], e.outcome ≠ some 4 ∧ e.outcome ≠ some 5)
      ∧ ∃ e ∈ [({ outcome := some 3 } : IngEntry)], e.outcome = some 3)
    ∧ (∀ e ∈ [({ outcome := some 0 } : IngEntry)], e.outcome ≠ some 3 ∧ e.outcome ≠ some 4 ∧ e.outcome ≠ some 5) := by
  refine ⟨by decide +kernel, by decide +kernel, by decide +kernel, by decide +kernel, by decide +kernel, by decide +kernel,
    by decide +kernel, ⟨_, List.mem_singleton.2 rfl, by decide⟩, ⟨by decide +kernel, _, List.mem_singleton.2 rfl, rfl⟩, by decide +kernel⟩

/-- A PYRAMID in progress whose source is one FP32 element, at its first level of one or two, or at its second. -/
def pyr (levels : Nat) : Stage := { stg 0 .running (desc 0x11 [(0x54, 4, 4), (0xE0, 1, levels)]) with table := levelsTable }
where levelsTable := put (List.replicate 80 0#8) [(0x14, 4, 4), (40 + 0x14, 4, 4)]

theorem witness_Pyramids_turn :
    (openStage (pyr 1)).pyrTurn (pyrEngine (pyr 1).desc) 0 (pyr 1) = true
    ∧ (let p : State := { withStages [(0, pyr 1), (1, { pyr 1 with cls := 1 })] with ing := { live.ing with pyrs := [(5, { engine := 0 })] } }
      p.pyrTurn 0 0 (pyr 1) = false ∧ p.ing.pyrs.any (fun p => p.2.engine == pyrEngine (pyr 1).desc) = true)
    ∧ ({ pyr 1 with ending := true } : Stage).ending = true := by decide +kernel

theorem witness_Pyramids :
    (pyr 1).opcode = 0x11 ∧ (openStage (pyr 1)).ing.pyrs.find 0 = none
    ∧ (openStage (pyr 1)).ing.pyrs.any (fun p => p.2.engine == pyrEngine (pyr 1).desc) = false ∧ (pyr 1).ending = false
    ∧ ((openStage (pyr 1)).pyrSource 0 (pyr 1)).1.length = 1 ∧ ({ engine := 0 } : PyrRun).level = 0
    ∧ ({ engine := 0, level := 1 } : PyrRun).level ≠ 0 ∧ levelSize (pyr 2).desc (1 - 1) = (1, 1)
    ∧ 0 + 1 = op1 (pyr 1).desc 0xE0 ∧ 0 + 1 ≠ op1 (pyr 2).desc 0xE0 ∧ 1 + 1 = op1 (pyr 2).desc 0xE0 := by decide +kernel

/-- An OPEN of a decode stream of 16 by 16 with 10 frames, an Open pool; streams in slot 0, a DECODE and an ENCODE of them in progress. -/
def decOpen : Stage := stg 0 .running (desc 0x0E [(0xEC, 2, 16), (0xEE, 2, 16), (0xF0, 1, 10)])
def decOp (action gen : Nat) : Stage := stg 0 .running (desc 0x0E [(0xE0, 1, action), (0xE6, 4, gen)])
def encOp (action gen : Nat) : Stage := stg 0 .running (desc 0x0F [(0xE0, 1, action), (0xE6, 4, gen)])
def video (st : Stage) (secure : Bool) (dec : List (Nat × DecRun)) (enc : List (Nat × EncRun)) : State :=
  let s := openStage st
  { s with
    framePools := ((0, 2 ^ 20), (0, 0))
    vid := { s.vid with decs := [(0, decStreamOf secure 0)], encs := [(0, encStreamOf false 0)], decRuns := dec, encRuns := enc } }

theorem witness_VideoStreams :
    (decOpen.opcode = 0x0E ∧ op1 decOpen.desc 0xE0 = 0
      ∧ leastLoad (video decOpen false [] []).decLoad ((video decOpen false [] []).enginesOn 4 0) = some 1
      ∧ (List.range 256).find? (fun i => ((video decOpen false [] []).vid.decs.find i).isNone) = some 1
      ∧ freeRun (video decOpen false [] []).framePools.1 ((video decOpen false [] []).poolRuns false)
        (op1 decOpen.desc 0xF0 * decFrameBytes (op2 decOpen.desc 0xEC) (op2 decOpen.desc 0xEE)) = some 0)
    ∧ ((decOp 1 0).opcode = 0x0E ∧ (video (decOp 1 0) false [] []).vidTurn (decOp 1 0) = true ∧ op1 (decOp 1 0).desc 0xE0 = 1
      ∧ (video (decOp 1 0) false [] []).vid.decRuns.find 0 = none ∧ (video (decOp 1 0) false [] []).decOwner (decOp 1 0) = some false
      ∧ (video (decOp 1 1) false [] []).decOwner (decOp 1 1) = none ∧ (video (decOp 1 0) true [] []).decOwner (decOp 1 0) = some true)
    ∧ (op1 (decOp 2 0).desc 0xE0 = 2 ∧ ((video (decOp 2 0) false [] []).decStream (vidHandle (decOp 2 0).desc)).map Prod.fst = some 0
      ∧ op1 (decOp 3 0).desc 0xE0 = 3)
    ∧ ((video (decOp 1 0) false [(0, { stream := 0, left := 1 })] []).vid.decRuns.find 0 = some { stream := 0, left := 1 }
      ∧ (video (decOp 1 0) false [(0, { stream := 0, waitSince := some 0 })] []).vid.decRuns.find 0
        = some { stream := 0, waitSince := some 0 })
    ∧ ((encOp 0 0).opcode = 0x0F ∧ leastLoad (video (encOp 0 0) false [] []).encLoad ((video (encOp 0 0) false [] []).enginesOn 2 1) = some 1
      ∧ (List.range 64).find? (fun i => ((video (encOp 0 0) false [] []).vid.encs.find i).isNone) = some 1)
    ∧ ((video (encOp 1 0) false [] []).vidTurn (encOp 1 0) = true
      ∧ (video (encOp 1 0) false [] []).encStream (vidHandle (encOp 1 0).desc) = some (0, encStreamOf false 0) ∧ (encStreamOf false 0).secure = false
      ∧ op1 (encOp 1 0).desc 0xE0 = 1 ∧ (video (encOp 1 0) false [] []).vid.encRuns.find 0 = none ∧ op1 (encOp 2 0).desc 0xE0 = 2)
    ∧ ((video (encOp 1 0) false [] [(0, { stream := 0, coding := some (true, false) })]).vid.encRuns.find 0
        = some { stream := 0, coding := some (true, false) }
      ∧ (video (encOp 1 0) false [] [(0, { stream := 0, coding := some (true, false) })]).vid.encs.find 0 = some (encStreamOf false 0)) := by
  decide +kernel

/-- An ENCODE of a frame of the stream's size; no frame pool; every encode stream in use. -/
def encSize : Stage := stg 0 .running (desc 0x0F [(0xE0, 1, 1), (0x4C, 2, 15), (0x4E, 2, 15)])
def noPools : State := { video decOpen false [] [] with framePools := ((0, 0), (0, 0)) }
def fullEncs : State := { live with vid := { live.vid with encs := (List.range 64).map (fun i => (i, encStreamOf false 0)) } }

theorem witness_VideoStreams_rest :
    freeRun noPools.framePools.1 (noPools.poolRuns false) (op1 decOpen.desc 0xF0 * decFrameBytes (op2 decOpen.desc 0xEC) (op2 decOpen.desc 0xEE))
      = none
    ∧ ((List.range 64).find? (fun i => (fullEncs.vid.encs.find i).isNone) = none)
    ∧ ({ stg 0 .running (desc 0x0E []) with ending := true } : Stage).ending = true
    ∧ (({ stream := 0, left := 1 } : DecRun).left = 1 ∧ ({ stream := 0 } : DecRun).left = 0 ∧ ({ stream := 0 } : DecRun).waitSince = none
      ∧ ({ stream := 0 } : DecRun).coded ≤ ({ stream := 0 } : DecRun).need ∧ 0 - 0 < 1)
    ∧ ((dTd encSize.desc 0).h = (encStreamOf false 0).height ∧ (dTd encSize.desc 0).w = (encStreamOf false 0).width
      ∧ (video encSize false [] []).vidTurn encSize = true
      ∧ ((video encSize false [] []).encStream (vidHandle encSize.desc)).map Prod.fst = some 0 ∧ op1 encSize.desc 0xE0 = 1)
    ∧ (dTd (encOp 1 0).desc 0).h ≠ (encStreamOf false 0).height
    ∧ ((video (encOp 1 7) false [] []).encStream (vidHandle (encOp 1 7).desc) = none ∧ (encStreamOf true 0).secure ≠ (encOp 1 0).secure) := by
  decide +kernel

/-- PACE stages of channel 15 with its queue at 0x4000, of 4 slots of 256 bytes; the channel running, with a pending commit, a copy that
repeats, copies in progress, a queue that is full. -/
def pace (action : Nat) : Stage := stg 0 .running (desc 0x12 [(0xE0, 1, action), (0xE1, 1, 15), (0xF6, 6, 16)])
def paceQueue (prod : Nat) : List Byte :=
  let b := put (List.replicate 16 0#8) [(0, 4, 4), (4, 4, 256), (8, 8, 0x10000)]
  put (List.replicate 192 0#8) [(0x40, 4, prod)] |>.drop 20 |> (b ++ toLE 4 (crc32c b) ++ ·)
def frameCopy (stage : Option Nat) : PaceCopy :=
  { stage := stage, frame := 0, shown := 0, rows := [[1#8]], lines := 1, width := 1, pitch := 64, pix := 0, secure := false, fn := 0
    queue := 0x4000, slots := 4, slotBytes := 256, slotBase := 0x10000 }
def paced (st : Stage) (prod : Nat) (x : PaceChan) : State :=
  let s := openStage st
  { s with mem := { s.mem with cells := cellsPut [] 0x4000 (paceQueue prod) }, pace := [(15, x)] }
def chan15 : PaceChan := { running := true, num := 1, queue := 0x4000, slots := 4, slotBytes := 256 }

theorem witness_PacedOutput_rest :
    (let x := (openStage (pace 0)).ctrlRead ((pace 0).who 0) (opAddr (pace 0).desc 0xF6 % 2 ^ 48) 64
     x.2.2.localQueue x.1 = none)
    ∧ (let s := paced (pace 1) 0 { chan15 with start := 5 }
      s.time < (s.chan 15).latch (s.chan 15).frame)
    ∧ (let s : State := { paced (pace 1) 0 chan15 with time := 10 ^ 10 }
      (s.chan 15).latch (s.chan 15).frame ≤ s.time)
    ∧ (({} : PaceChan).running = false ∧ ({ chan15 with slotBytes := 64 } : PaceChan).slotBytes
      < 64 + (dTd (pace 1).desc 0).h * roundUp (dTd (pace 1).desc 0).c 64)
    ∧ ({ chan15 with secure := true } : PaceChan).foreign (pace 1) = true
    ∧ (let c : PaceChan := { chan15 with pending := some 0, later := some 1 }
      c.later ≠ none ∧ c.pending = some 0 ∧ chan15.later = none)
    ∧ (frameCopy none).stage = none := by decide +kernel

theorem witness_PacedOutput :
    ((paced (pace 0) 0 {}).paceTurn 0 (pace 0) = true ∧ op1 (pace 0).desc 0xE0 = 0
      ∧ (let x := (paced (pace 0) 0 {}).ctrlRead ((pace 0).who 0) (opAddr (pace 0).desc 0xF6 % 2 ^ 48) 64
        x.2.1 = 0 ∧ x.2.2.localQueue x.1 = some (4, 256, 0x10000)))
    ∧ ((paced (pace 1) 0 chan15).paceTurn 0 (pace 1) = true ∧ op1 (pace 1).desc 0xE0 = 1
      ∧ ((paced (pace 1) 0 chan15).chan 15).foreign (pace 1) = false ∧ ((paced (pace 1) 0 chan15).chan 15).running = true
      ∧ 64 + (dTd (pace 1).desc 0).h * roundUp (dTd (pace 1).desc 0).c 64 ≤ ((paced (pace 1) 0 chan15).chan 15).slotBytes)
    ∧ ((paced (pace 2) 0 chan15).paceTurn 0 (pace 2) = true ∧ op1 (pace 2).desc 0xE0 = 2
      ∧ ((paced (pace 2) 0 chan15).chan 15).foreign (pace 2) = false)
    ∧ (chan15.pending = none ∧ chan15.rep = false)
    ∧ (let c : PaceChan := { chan15 with rep := true, last := some (frameCopy none) }
      ((paced (pace 1) 0 c).chan 15).last = some (frameCopy none) ∧ ((paced (pace 1) 0 c).chan 15).rep = true
      ∧ (let x := (paced (pace 1) 4 c).prodCons ⟨false, 0, none⟩ 0x4000
        c.slots ≤ (x.1 + (c.copies.filter (fun k => k.queue == c.queue)).length + 2 ^ 32 - x.2.1) % 2 ^ 32)
      ∧ (let x := (paced (pace 1) 3 c).prodCons ⟨false, 0, none⟩ 0x4000
        (x.1 + (c.copies.filter (fun k => k.queue == c.queue)).length + 2 ^ 32 - x.2.1) % 2 ^ 32 < c.slots))
    ∧ (let c : PaceChan := { chan15 with pending := some 0 }
      ((paced (pace 1) 0 c).chan 15).pending = some 0 ∧ (pace 1).ending = false
      ∧ (let x := (paced (pace 1) 0 c).prodCons ⟨false, 0, some 0⟩ 0x4000
        (x.1 + (c.copies.filter (fun k => k.queue == c.queue)).length + 2 ^ 32 - x.2.1) % 2 ^ 32 < c.slots
        ∧ (x.2.2.newCopy c).1.isSome))
    ∧ (((paced (pace 1) 0 { chan15 with copies := [frameCopy none] }).chan 15).copies = [frameCopy none]
      ∧ (frameCopy (some 0)).stage = some 0 ∧ (paced (pace 1) 0 chan15).time ≤ (frameCopy none).shown) := by decide +kernel

/-! ### What the statements assume: managers, the store, SPDM -/

/-- `live` heard over I3C bus 0, PCIe VDM and DOE, with a Secure session over I3C, an owner slot in use, a spare descriptor. -/
def managed : State := { live with
  hif := { live.hif with linkRate := 5 }
  dict := { live.dict with addrs := [9, 0], eids := [9, 0, 9] }
  boot := { live.boot with ended := [(0, 0), (22, 0)] }
  fuses := { live.fuses with owners := [{ digest := some (List.replicate 48 1#8) }, {}, {}, {}] }
  sec := { live.sec with
    sessions := [(0, { via := .i3c 0, established := true, secure := true }), (1, { via := .vdm }), (2, { via := .vdm, established := true })]
    regions := [(255, { base := 1, size := 1 })] } }
def open_ : Manager := ⟨.i3c 0, 1, none⟩
def secure_ : Manager := ⟨.i3c 0, 1, some 0⟩
/-- `managed` after the manager is heard, with a context of TAG 7, its erased firmware slot, no owner. -/
def within (x : Xfer) : State := { managed with dict := { managed.dict with xfers := [(0, x)] } }
def spare : State := { managed with store := { managed.store with fw := [{ st := 3, started := true }, { blocks := 1 }] } }
def unowned : State := { managed with fuses := State.reset.fuses }
def ctx (m : Manager) (i sub : Nat) (write : Bool) (data : List Byte) (total : Nat) : Xfer :=
  { manager := mgrKey m, tag := 7, index := i, sub := sub, write := write, data := data, total := total
    done := if write then data.length else 0 }

/-- Segments: a READ of a byte and of a long value, a WRITE, a WRITE_INIT, continuations, WRITE_ENDs with their CRC, ABORT, an unknown
command. -/
def seg (cmd seq i sub : Nat) (data : List Byte) : List Byte := segBytes cmd 0 7 seq i sub data

theorem hears_of {s : State} {m : Manager} {req : List Byte}
    (h : s.reaches m = true ∧ s.hasEid m.via = true ∧ segOk ((welocLimit m.via).getD 0) req = true
      ∧ ((s.hear (mgrKey m)).mgr (mgrKey m)).last = none) : s.Hears (s.hear (mgrKey m)) m req :=
  ⟨h.1, h.2.1, h.2.2.1, rfl, fun l e => by rw [h.2.2.2] at e; cases e⟩

def heard (m : Manager) (s : State) : State := s.hear (mgrKey m)

theorem witness_ManagerRequests :
    (managed.Hears (heard open_ managed) open_ (seg 1 0 0x4010 1 []) ∧ managed.Hears (heard open_ managed) open_ (seg 1 0 0x1008 0 [])
      ∧ managed.Hears (heard open_ managed) open_ (seg 3 0 0x2100 1 [1#8, 0#8, 0#8, 0#8])
      ∧ managed.Hears (heard open_ managed) open_ (seg 4 0 0x4500 1 (toLE 4 9))
      ∧ spare.Hears (heard secure_ spare) secure_ (seg 4 0 0x1F00 4 (toLE 4 65536)))
    ∧ (∃ e, (heard open_ managed).Opens open_ (seg 1 0 0x4010 1 []) e ∧ e.acc ≠ .wo
      ∧ ((heard open_ managed).readObj 0x4010 1 0 false).length ≤ 8 ∧ segLen (seg 1 0 0x4010 1 []) = 0)
    ∧ (∃ e, (heard open_ managed).Opens open_ (seg 1 0 0x8000 1 []) e ∧ e.acc ≠ .wo
      ∧ 8 < ((heard open_ managed).readObj 0x8000 1 0 false).length ∧ (heard open_ managed).freeXfer = some 0)
    ∧ (∃ e, (heard open_ managed).Opens open_ (seg 3 0 0x2100 1 [1#8, 0#8, 0#8, 0#8]) e
      ∧ (heard open_ managed).Admits open_ 0x2100 1 e [1#8, 0#8, 0#8, 0#8]
      ∧ ((heard open_ managed).applyValue open_ 0x2100 1 e [1#8, 0#8, 0#8, 0#8]).1 = 0)
    ∧ (∃ e, (heard open_ managed).Opens open_ (seg 4 0 0x4500 1 (toLE 4 9)) e ∧ (heard open_ managed).writeAccess 0x4500 e false = 0
      ∧ fwSlot 0x4500 1 = none ∧ (heard open_ managed).writeBusy 0x4500 1 e = none ∧ e.ty.fits 9 = true ∧ e.ty.fits 65536 = true)
    ∧ (∃ e, (heard secure_ spare).Opens secure_ (seg 4 0 0x1F00 4 (toLE 4 65536)) e
      ∧ (heard secure_ spare).writeAccess 0x1F00 e ((heard secure_ spare).mgrSecure secure_) = 0 ∧ fwSlot 0x1F00 4 = some 1
      ∧ (heard secure_ spare).fwState 0x1F00 4 = false
      ∧ (heard secure_ spare).openXfers.any (fun p => p.2.write && (fwSlot p.2.index p.2.sub).isSome) = false
      ∧ (heard secure_ spare).writeBusy 0x1F00 4 e = none ∧ e.ty.fits 65536 = true
      ∧ ((heard secure_ spare).store.fw.getD 1 {}).st ≠ 1 ∧ ceilDiv 65536 65536 ≤ ((heard secure_ spare).store.fw.getD 1 {}).blocks)
    ∧ ((within (ctx open_ 0x8000 1 false (List.replicate 20 0#8) 20)).Hears
        (heard open_ (within (ctx open_ 0x8000 1 false (List.replicate 20 0#8) 20))) open_ (seg 2 1 0x8000 1 [])
      ∧ (heard open_ (within (ctx open_ 0x8000 1 false (List.replicate 20 0#8) 20))).Continues open_ (seg 2 1 0x8000 1 []) 0
        (ctx open_ 0x8000 1 false (List.replicate 20 0#8) 20))
    ∧ ((heard open_ (within (ctx open_ 0x4500 1 true [] 9))).Continues open_ (seg 5 1 0x4500 1 (List.replicate 9 0#8)) 0
        (ctx open_ 0x4500 1 true [] 9)
      ∧ (ctx open_ 0x4500 1 true [] 9).done + 9 ≤ (ctx open_ 0x4500 1 true [] 9).total)
    ∧ ((heard secure_ (within (ctx secure_ 0x1F00 4 true [] 9))).Continues secure_ (seg 5 1 0x1F00 4 (List.replicate 9 0#8)) 0
        (ctx secure_ 0x1F00 4 true [] 9))
    ∧ ((heard secure_ (within (ctx secure_ 0x1F00 4 true (List.replicate 9 0#8) 9))).Continues secure_
        (seg 6 1 0x1F00 4 (toLE 4 (crc32c []))) 0 (ctx secure_ 0x1F00 4 true (List.replicate 9 0#8) 9)
      ∧ field (segData (seg 6 1 0x1F00 4 (toLE 4 (crc32c [])))) 0 4
        = crc32c ((heard secure_ (within (ctx secure_ 0x1F00 4 true (List.replicate 9 0#8) 9))).store.fw.getD 1 {}).image)
    ∧ (managed.Hears (heard open_ managed) open_ (seg 0x0F 0 0 0 []) ∧ ((heard open_ (within (ctx open_ 0x4500 1 true [] 9))).xfer
        (mgrKey open_) (segTag (seg 0x0F 0 0 0 []))).map Prod.fst = some 0)
    ∧ (managed.Hears (heard open_ managed) open_ (seg 9 0 0 0 []) ∧ managerCmd (segCmd (seg 9 0 0 0 [])) = false)
    ∧ (msgOk 0x0C (List.replicate ((msgLen 0x0C).getD 0 - 6) 0#8) = true) := by
  refine ⟨⟨hears_of (by decide +kernel), hears_of (by decide +kernel), hears_of (by decide +kernel), hears_of (by decide +kernel),
    hears_of (by decide +kernel)⟩,
    ⟨_, ⟨by decide +kernel, rfl, by decide +kernel, by decide +kernel⟩, by decide +kernel⟩,
    ⟨_, ⟨by decide +kernel, rfl, by decide +kernel, by decide +kernel⟩, by decide +kernel⟩,
    ⟨_, ⟨by decide +kernel, rfl, by decide +kernel, by decide +kernel⟩, ⟨by decide +kernel, by decide +kernel, by decide +kernel,
      by decide +kernel⟩, by decide +kernel⟩,
    ⟨_, ⟨by decide +kernel, rfl, by decide +kernel, by decide +kernel⟩, by decide +kernel⟩,
    ⟨_, ⟨by decide +kernel, rfl, by decide +kernel, by decide +kernel⟩, by decide +kernel⟩,
    ⟨hears_of (by decide +kernel), ⟨by decide +kernel, by decide +kernel, by decide +kernel, by decide +kernel, by decide +kernel,
      by decide +kernel⟩⟩,
    ⟨⟨by decide +kernel, by decide +kernel, by decide +kernel, by decide +kernel, by decide +kernel, by decide +kernel⟩, by decide +kernel⟩,
    ⟨by decide +kernel, by decide +kernel, by decide +kernel, by decide +kernel, by decide +kernel, by decide +kernel⟩,
    ⟨⟨by decide +kernel, by decide +kernel, by decide +kernel, by decide +kernel, by decide +kernel, by decide +kernel⟩, by decide +kernel⟩,
    ⟨hears_of (by decide +kernel), by decide +kernel⟩, ⟨hears_of (by decide +kernel), by decide +kernel⟩, by decide +kernel⟩

/-- A manager whose request has been answered; a segment that is not whole. -/
def answered : State := (heard open_ managed).setMgr { managed.mgr (mgrKey open_) with last := some (seg 1 0 0x1008 0 [], [9#8], 0, false) }

theorem witness_ManagerRequests_again :
    (answered.reaches open_ = true ∧ answered.hasEid open_.via = true ∧ segOk ((welocLimit open_.via).getD 0) (seg 1 0 0x1008 0 []) = true
      ∧ ((heard open_ answered).mgr (mgrKey open_)).last = some (seg 1 0 0x1008 0 [], [9#8], 0, (heard open_ answered).mgrSecure open_)
      ∧ (heard open_ answered).time ≤ 0 + 10 ^ 9)
    ∧ (managed.reaches open_ = true ∧ segOk ((welocLimit open_.via).getD 0) [1#8] = false)
    ∧ linked.present 1 = true := by decide +kernel

/-- An object that a manager may write now with a value. -/
def writable (s : State) (m : Manager) (i sub : Nat) (v : List Byte) : Bool :=
  s.reaches m && s.hasEid m.via && (heard m s).checkObject i sub == none && (match objEntry i sub with
    | none => false
    | some e => (heard m s).writeAccess i e ((heard m s).mgrSecure m) == 0 && fwSlot i sub == none && (heard m s).writeBusy i sub e == none
      && e.ty.fits v.length)

theorem witness_ActingObjects :
    writable managed open_ 0x4500 1 [] = true ∧ writable managed secure_ 0x45FF 1 [] = true ∧ writable managed secure_ 0x1011 1 [1#8] = true
    ∧ writable managed open_ 0xA000 3 [1#8] = true ∧ writable managed open_ 0xA000 4 [1#8] = true
    ∧ (writable unowned secure_ 0x7000 2 (List.replicate 48 2#8) = true ∧ secure_.session.isSome
      ∧ (heard secure_ unowned).ownerSlot = none
      ∧ (List.range 4).find? (fun k => ((heard secure_ unowned).fuses.owners.getD k {}).digest.isNone) = some 0)
    ∧ (writable managed secure_ 0x7000 3 [1#8] = true ∧ (heard secure_ managed).revokeOwner.isSome
      ∧ (heard secure_ managed).ownerSlot = some 0)
    ∧ (writable managed secure_ 0x71FF 1 (toLE 4 (0x80000000#32).toNat) = true ∧ (heard secure_ managed).regRefusal 255
      (((heard secure_ managed).region 255).withCtrl ((0x80000000#32).toNat &&& regCtrlRw.toNat)) = none)
    ∧ (writable managed secure_ 0x71FF 3 (toLE 4 (5#32).toNat) = true ∧ ((heard secure_ managed).region 255).valid = false
      ∧ ((heard secure_ managed).region 255).clearing = false)
    ∧ writable managed open_ 0x9000 5 (toLE 8 (3#64).toNat) = true := by decide +kernel

theorem witness_ManagementBuses :
    (eidIndex (.i3c 0) = some 0 ∧ managed.aoUp = true ∧ managed.hears (.i3c 0) = true ∧ eidIndex .vdm = some 2 ∧ managed.hears .vdm = true
      ∧ 254 ≤ 254 ∧ 2 < managed.dict.eids.length ∧ mctpTypes ≠ [])
    ∧ (managed.dict.addrs.length = 2 ∧ managed.dict.eids.length = 3 ∧ managed.dict.addrs.getD 1 0 = 0 ∧ managed.dict.addrs.getD 0 0 ≠ 0)
    ∧ ({ managed with dict := { managed.dict with waiting := [(1, .pin 0 true), (0, .drs)] } } : State).dict.waiting.find?
      (fun w => w.1 == 0) = some (0, .drs) := by decide +kernel

/-- `live` with a change to commit, a commit in progress, its repeat, a slot being erased. -/
def storing : State := { live with store := { live.store with pending := true } }
def committing (again : Bool) : State := { live with store := { live.store with writing := some (1, 1, []), again := again } }
def erasing : State := { live with store := { live.store with fw := [{ st := 3 }, { st := 1, erasing := 2 }] } }

theorem witness_StoreCommits :
    (storing.store.pending = true ∧ storing.store.writing = none ∧ storing.store.tokens ≠ 0 ∧ storing.warned = false
      ∧ storing.store.absent = false ∧ storing.store.failed = false)
    ∧ ((committing false).store.writing = some (1, 1, []) ∧ (committing false).warned = false ∧ (committing false).boot.restart = false
      ∧ (committing false).store.again = false ∧ (committing true).store.again = true)
    ∧ (erasing.store.fw.getD 1 {}).st = 1 := by decide +kernel

/-- The shortest record, with a SEQ; records whose SEQs lie 1, 2^31 - 1 and 2^31 apart. -/
def bank (seq : Nat) : List Byte :=
  let b := put (List.replicate 64 0#8) [(0, 4, 0x5254534B), (4, 2, 1), (8, 4, seq), (0x0C, 4, 68), (0x14, 4, 0xFFFFFFFF)]
  putBytes (b ++ toLE 4 (crc32c b)) 0x14 (toLE 4 0)

theorem witness_WinningBank :
    bankValid (bank 0) = true ∧ bankValid [] = false ∧ (bankValid (bank 1) = true ∧ (field (bank 1) 8 4 + 2 ^ 32 - field (bank 0) 8 4) % 2 ^ 32 = 1)
    ∧ (field (bank (2 ^ 31 - 1)) 8 4 + 2 ^ 32 - field (bank 0) 8 4) % 2 ^ 32 = 2 ^ 31 - 1
    ∧ ¬ ((field (bank (2 ^ 31)) 8 4 + 2 ^ 32 - field (bank 0) 8 4) % 2 ^ 32 ≤ 2 ^ 31 - 1)
    ∧ ¬ (1 ≤ (field (bank 0) 8 4 + 2 ^ 32 - field (bank 0) 8 4) % 2 ^ 32)
    ∧ live.store.banks = [[], []] ∧ winningBank [] [] = none := by decide +kernel

theorem witness_CommittedRecordsAreValid :
    64 + (([] : List StoreEntry).flatMap entryEncode).length + 4 ≤ 2 ^ 20 := by decide +kernel

/-- `managed` with chunks of a request and of an answer in progress, and after an entropy failure. -/
def chunking : State := { managed with sec := { managed.sec with
  chunkIn := [(.vdm, 1, 1, [])], chunkOut := [(.vdm, 2, [1#8])] } }

theorem witness_SpdmResponder :
    (managed.spdmUp .vdm = true ∧ managed.sec.entropyFail = false ∧ (List.range 4).find? (fun n => (managed.sec.sessions.find n).isNone) = some 3
      ∧ ({ managed with sec := { managed.sec with entropyFail := true } } : State).spdmUp .vdm = true
      ∧ managed.sec.sessions.find 1 = some { via := .vdm } ∧ ({ via := .vdm } : Session).established = false
      ∧ managed.sec.sessions.find 2 = some { via := .vdm, established := true } ∧ [1#8].length ≤ 65536 ∧ (5 ≤ 5 ∨ 5 = 0xFF))
    ∧ (chunking.spdmUp .vdm = true ∧ chunking.sec.chunkIn.find? (fun c => c.1 == .vdm && c.2.1 == 1) = some (.vdm, 1, 1, [])
      ∧ chunking.sec.chunkOut.find? (fun c => c.1 == .vdm && c.2.1 == 2) = some (.vdm, 2, [1#8]) ∧ 0 < 1)
    ∧ secured.doeSession 0 = true ∧ secured.spdmUp .doe = true := by decide +kernel

/-- A chunk of an answer that others follow, and the last one: the piece that holds its end. -/
theorem witness_chunks : (0 + 1) * max 1 Config.dataTransferSize < (List.replicate (max 1 Config.dataTransferSize + 1) 0#8).length := by
  rw [List.length_replicate, Nat.zero_add, Nat.one_mul]; exact Nat.lt_succ_self _

theorem witness_lastChunk : 0 * max 1 Config.dataTransferSize < [1#8].length ∧ [1#8].length ≤ (0 + 1) * max 1 Config.dataTransferSize := by
  constructor
  · rw [Nat.zero_mul]; decide
  · rw [Nat.one_mul]; exact Nat.le_max_left _ _

/-! ### What the statements assume: power, resets, bring-up -/

/-- `live` with domains in each state, a knock held at 4, the dies up, rail 1 below its warning level, the current limit tripped. -/
def powered : State := { live with
  boot := { live.boot with ended := [(0, 0), (8, 0)] }
  pwr := { live.pwr with
    doms := [(211, .on), (1, .clockGated), (0, .clockGated), (2, .draining), (3, .poweringOff), (5, .waking), (7, .waking)]
    gates := [(7, List.replicate 16 0), (5, List.replicate 15 0)], setMv := 800, currentLimit := some 0 } }
def sagging (rails : List (Nat × RailWarn)) : State := { live with pwr := { live.pwr with rails := rails } }

theorem witness_PowerDomains :
    (powered.domain 211 = .on ∧ powered.working 211 = false) ∧ (powered.domain 1 = .clockGated ∧ powered.fallowEnabled = true
      ∧ powered.keptAwake 1 = true) ∧ (powered.domain 0 = .clockGated ∧ powered.keptAwake 0 = false)
    ∧ powered.lnk.gated = []
    ∧ powered.domain 2 = .draining ∧ powered.domain 3 = .poweringOff ∧ 3 ∉ powered.pwr.knocks
    ∧ (powered.domain 5 = .waking ∧ (powered.pwr.gates.get [] 5).length < 16) ∧ (powered.domain 7 = .waking
      ∧ 16 ≤ (powered.pwr.gates.get [] 7).length)
    ∧ (powered.domain 9 = .fallow ∧ (powered.pwr.gates.get [] 9).length < 16 ∧ powered.pwr.knocks = []
      ∧ domShare 9 = some 0 ∧ powered.pwr.begun.getD 0 0 < powered.wakeLimit)
    ∧ powered.store.writing = none ∧ powered.boot.running = [] := by decide +kernel

theorem witness_PowerControl :
    [100] ≠ ([] : List Nat) ∧ live.diesUp = false ∧ powered.diesUp = true ∧ powered.frozen = false ∧ powered.pwr.target.length = 8
    ∧ (powered.pwr.throttle.getD 7 {}).active = false ∧ 0 < powered.ceiling 7 ∧ 7 ≤ 800 ∧ 800 ≤ powered.pwr.setMv + 10
    ∧ powered.pwr.setMv ≤ 790 + 10 ∧ powered.pwr.setMv + 10 < 811 ∧ 789 + 10 < powered.pwr.setMv
    ∧ powered.pwr.currentLimit = some 0 ∧ live.pwr.currentLimit = none
    ∧ (powered.pwr.hard.length = 10 ∧ powered.pwr.throttle.length = 8 ∧ powered.pwr.trip = false)
    ∧ (live.belowWarning 0 719 = true ∧ live.belowWarning 0 720 = false ∧ live.pwr.rails.find 0 = none
      ∧ (sagging [(0, ⟨700, 0⟩)]).belowWarning 0 719 = true ∧ (sagging [(0, ⟨700, 0⟩)]).pwr.rails = [(0, ⟨700, 0⟩)])
    ∧ live.belowReset 0 659 = true ∧ live.belowReset 1 0 = true ∧ 1 ≠ 0 := by decide +kernel

/-- After reset with RST_N low, before BS00. -/
def held : State := { State.reset with lines := { State.reset.lines with rstN := false } }

theorem witness_Resets :
    held.lines.rstN = false ∧ held.lines.tapOut = false ∧ held.pwr.trip = false ∧ held.boot.restart = false ∧ held.boot.ended = []
    ∧ held.boot.running = [] ∧ held.boot.safe = false ∧ held.hif.safeMode = false ∧ (held.brRec 0 0).skip = false
    ∧ State.reset.lines.perst = false ∧ State.reset.lines.tapOut = false := by decide +kernel

/-- BS04 at its last attempt, BS07 at its first of the first alternative and at its last of each. -/
def trying (step alt n : Nat) : State := { State.reset with boot := { State.reset.boot with running := [((step, 0), (alt, n))] } }

theorem witness_BringUp :
    (State.reset.mayRun 0 (brKey 0 0) = true ∧ (State.reset.brRec (brKey 0 0).1 (brKey 0 0).2).skip = false
      ∧ (State.reset.brAlts 0 0).find? (fun a => decide ((State.reset.brRec (brKey 0 0).1 (brKey 0 0).2).alt ≤ a)) = some 0
      ∧ 0 ≠ 15 ∧ 0 ≠ 16)
    ∧ (trying 7 0 1).boot.running.find (brKey 7 0) = some (0, 1) ∧ 10000 ≤ brLimit 7 ∧ (trying 7 0 1).canPass 7 0 0 0 = true
    ∧ 1 < brAttempts 7 ∧ brAttempts 7 ≤ 2 ∧ ((trying 7 0 2).brAlts 7 0).find? (fun a => decide (0 < a)) = some 1
    ∧ ((trying 7 1 2).brAlts 7 0).find? (fun a => decide (1 < a)) = none ∧ 10000 = brLimit 7 ∧ live.boot.safe = false := by decide +kernel

end Sys2Proof.Tests
end

section
/-! No fetch without a free stage slot (spec/04 R101). -/
namespace Sys2Proof.Machine

theorem State.stages_length_le_slotsHeld (s : State) : s.dsp.stages.length ≤ s.slotsHeld :=
  Nat.le_add_right _ _

/-- A visit asks for no more descriptors than the device has free stage slots. -/
theorem State.fetchCount_le_slotsFree (s : State) (r : Nat) : s.fetchCount r ≤ 2048 - s.slotsHeld := by
  unfold State.fetchCount
  dsimp only
  split
  · exact Nat.zero_le _
  · omega

@[simp] theorem nextInTurn_nil (last : Nat) : nextInTurn last [] = none := rfl

/-- Where every ring is passed over, the round-robin reaches none and the visit leaves the state as it was. -/
theorem exec_fetchDescriptors_of_passedOver {s : State} (h : ∀ r, s.fetchCount r = 0) :
    exec .fetchDescriptors s = .next (s.settle s) := by
  have toVisit : (s.hif.rings.map Prod.fst).filter (fun r => decide (0 < s.fetchCount r)) = [] := by simp [h]
  change execFetchDescriptors s = _
  simp only [execFetchDescriptors, answer, toVisit, nextInTurn_nil]

/-- Settles O18: a visit's count is bounded by the free slots, of which none is left. -/
theorem noFetchWithoutSlot : Obligations.NoFetchWithoutSlot := by
  intro s full
  have passedOver : ∀ r, s.fetchCount r = 0 := fun r => by
    have bound := s.fetchCount_le_slotsFree r
    have held := s.stages_length_le_slotsHeld
    omega
  exact ⟨passedOver, exec_fetchDescriptors_of_passedOver passedOver⟩

end Sys2Proof.Machine
end

section
/-! Doorbell writes (spec/14 R387, R385; spec/18 R479). -/
namespace Sys2Proof.Machine

/-- The ring takes no doorbell, whatever its value (R387, R479). -/
abbrev State.DoorbellClosed (s : State) (r : Nat) : Prop :=
  (s.ring r).st = .disabled ∨ (s.ring r).st = .resetting ∨ s.hif.notReady = true ∨ s.fatal = true

theorem State.not_doorbellClosed {s : State} {r : Nat} (ready : s.hif.notReady = false) (alive : s.fatal = false)
    (enabled : (s.ring r).st ≠ .disabled) (settled : (s.ring r).st ≠ .resetting) : ¬ s.DoorbellClosed r := by
  rintro (h | h | h | h)
  · exact enabled h
  · exact settled h
  · exact absurd (ready.symm.trans h) (by decide)
  · exact absurd (alive.symm.trans h) (by decide)

theorem State.Reaches.reach_eq {s : State} {fn page r : Nat} {ide : Bool} (h : s.Reaches fn page ide r) :
    s.reach fn page ide = .ring r := by
  simp [State.reach, h.normal, h.stream, h.page, h.owner]

section
variable {s : State} {fn page r : Nat} {ide : Bool} (h : s.Reaches fn page ide r) (apply : Ring → Option Ring)
include h

/-- A write through a view other than the plain one is ignored (R385). -/
theorem State.Reaches.doorbell_of_view {view : View} (other : view ≠ .plain) : s.doorbell fn page view ide apply = s := by
  rw [State.doorbell, h.reach_eq]
  exact if_pos other

/-- A plain write is dropped by a closed ring; on another it is counted as bad where the ring refuses the value (R387). -/
theorem State.Reaches.doorbell_plain :
    s.doorbell fn page .plain ide apply =
      if s.DoorbellClosed r then s.tick1 hifDbDropped
      else ((apply (s.ring r)).map fun x => (s.setRing r x).tick1 hifDbWrites).getD (s.tick1 hifDbBad) := by
  simp only [State.doorbell, h.reach_eq, ne_eq, not_true_eq_false, if_false]
  cases apply (s.ring r) <;> rfl

theorem State.Reaches.doorbell_of_closed (closed : s.DoorbellClosed r) :
    s.doorbell fn page .plain ide apply = s.tick1 hifDbDropped := by
  rw [h.doorbell_plain, if_pos closed]

variable {apply} (opened : ¬ s.DoorbellClosed r)
include opened

theorem State.Reaches.doorbell_of_refused (refused : apply (s.ring r) = none) :
    s.doorbell fn page .plain ide apply = s.tick1 hifDbBad := by
  rw [h.doorbell_plain, if_neg opened, refused]
  rfl

theorem State.Reaches.doorbell_of_taken {x : Ring} (taken : apply (s.ring r) = some x) :
    s.doorbell fn page .plain ide apply = (s.setRing r x).tick1 hifDbWrites := by
  rw [h.doorbell_plain, if_neg opened, taken]
  rfl

end

theorem Ring.withTail_of_lt {x : Ring} {v : Nat} (h : v < x.entries) : x.withTail v = some { x with tail := v } :=
  if_pos h

theorem Ring.withTail_of_le {x : Ring} {v : Nat} (h : x.entries ≤ v) : x.withTail v = none :=
  if_neg (Nat.not_lt_of_ge h)

/-- Places from HEAD up to `v`, modulo E: how far HEAD moves to come to `v`. -/
def Ring.fromHead (x : Ring) (v : Nat) : Nat := (v + x.entries - x.head) % x.entries

theorem Ring.withHead_of_written {x : Ring} {v : Nat} (place : v < x.entries) (written : x.fromHead v ≤ x.fromHead x.cqTail) :
    x.withHead v = some { x with head := v, headSeq := x.headSeq + BitVec.ofNat 32 (x.fromHead v) } :=
  if_pos ⟨place, written⟩

theorem Ring.withHead_of_unwritten {x : Ring} {v : Nat} (h : x.entries ≤ v ∨ x.fromHead x.cqTail < x.fromHead v) :
    x.withHead v = none :=
  if_neg fun ⟨place, written⟩ => h.elim (Nat.not_le_of_lt place) (Nat.not_lt_of_ge written)

/-- At most E - 1 descriptors wait in a ring (R387). -/
theorem Ring.waiting_le (x : Ring) : x.waiting ≤ x.entries - 1 :=
  Nat.le_sub_one_of_lt (Nat.mod_lt _ (Nat.two_pow_pos x.log2))

theorem State.fetchCount_of_not_running {s : State} {r : Nat} (h : (s.ring r).st ≠ .running) : s.fetchCount r = 0 :=
  if_pos (.inl h)

/-- The low half of the word written is the value of TAIL. -/
theorem exec_hifDbSqTail (fn page : Nat) (view : View) (value : Word32) (ide : Bool) (s : State) :
    exec (.hifDbSqTail fn page view value ide) s
      = .next ((s.doorbell fn page view ide (·.withTail (value.toNat % 65536))).settle s) := rfl

/-- The low half of the word written is the value of HEAD. -/
theorem exec_hifDbCqHead (fn page : Nat) (view : View) (value : Word32) (ide : Bool) (s : State) :
    exec (.hifDbCqHead fn page view value ide) s
      = .next ((s.doorbell fn page view ide (·.withHead (value.toNat % 65536))).settle s) := rfl

/-- Settles O15: the four cases of a doorbell that reaches a ring, with TAIL's and HEAD's own range. -/
theorem doorbellWrites : Obligations.DoorbellWrites := by
  refine ⟨fun s fn page r ide value reaches ready alive enabled settled => ?_, fun s fn page r ide value reaches closed => ?_,
    fun s fn page r ide view value reaches other => ?_, fun x => ⟨rfl, x.waiting_le⟩, fun s r => State.fetchCount_of_not_running⟩
  · have opened := State.not_doorbellClosed ready alive enabled settled
    rw [exec_hifDbSqTail, exec_hifDbCqHead]
    refine ⟨fun place => ?_, fun high => ?_, ?_, fun outside => ?_⟩
    · rw [reaches.doorbell_of_taken opened (Ring.withTail_of_lt place)]
    · rw [reaches.doorbell_of_refused opened (Ring.withTail_of_le high)]
    · rintro k rfl place written
      rw [reaches.doorbell_of_taken opened (Ring.withHead_of_written place written)]
      rfl
    · rw [reaches.doorbell_of_refused opened (Ring.withHead_of_unwritten outside)]
  · simp only [exec_hifDbSqTail, exec_hifDbCqHead, reaches.doorbell_of_closed _ closed, and_self]
  · simp only [exec_hifDbSqTail, exec_hifDbCqHead, reaches.doorbell_of_view _ other, and_self]

end Sys2Proof.Machine
end

section
/-! The winning bank of the store and its loading at BS02 (spec/15 R422, Table 15.13). -/
namespace Sys2Proof.Machine

theorem ofLE_lt_two_pow (bs : List Byte) : ofLE bs < 2 ^ (8 * bs.length) := by
  induction bs with
  | nil => exact Nat.one_pos
  | cons b bs ih =>
    have split : 2 ^ (8 * (b :: bs).length) = 256 * 2 ^ (8 * bs.length) := by
      rw [List.length_cons, Nat.mul_succ, Nat.pow_add, Nat.mul_comm]
    have byte : b.toNat < 256 := b.isLt
    rw [split, ofLE]
    omega

theorem field_lt_two_pow (bs : List Byte) (off n : Nat) : field bs off n < 2 ^ (8 * n) :=
  Nat.lt_of_lt_of_le (ofLE_lt_two_pow _) (Nat.pow_le_pow_right Nat.two_pos (Nat.mul_le_mul_left 8 (List.length_take_le n _)))

theorem bankValid_iff (b : List Byte) :
    bankValid b = true ↔ (field b 0 4 = 0x5254534B ∧ field b 4 2 = 1 ∧ 64 ≤ field b 0x0C 4 ∧ field b 0x0C 4 ≤ 2 ^ 20
      ∧ field b 0x0C 4 % 4 = 0 ∧ b.length = field b 0x0C 4 ∧ field b 0x14 4 = 0
      ∧ field b (field b 0x0C 4 - 4) 4 = crc32c (putBytes (b.take (field b 0x0C 4 - 4)) 0x14 (toLE 4 0xFFFFFFFF))) := by
  simp only [bankValid, Bool.and_eq_true, beq_iff_eq, decide_eq_true_eq, and_assoc]

/-- R422's comparison, for a SEQ of 32 bits. -/
theorem seqLater_iff {a b : Nat} (small : b < 2 ^ 32) :
    seqLater a b = true ↔ 1 ≤ (a + 2 ^ 32 - b) % 2 ^ 32 ∧ (a + 2 ^ 32 - b) % 2 ^ 32 ≤ 2 ^ 31 - 1 := by
  simp only [seqLater, Nat.mod_eq_of_lt small, Bool.and_eq_true, decide_eq_true_eq]
  omega

section
variable {b0 b1 : List Byte}

theorem winningBank_of_neither_valid (h0 : bankValid b0 = false) (h1 : bankValid b1 = false) : winningBank b0 b1 = none := by
  rw [winningBank, h0, h1]

theorem winningBank_of_first_valid (h0 : bankValid b0 = true) (h1 : bankValid b1 = false) : winningBank b0 b1 = some 0 := by
  rw [winningBank, h0, h1]

theorem winningBank_of_second_valid (h0 : bankValid b0 = false) (h1 : bankValid b1 = true) : winningBank b0 b1 = some 1 := by
  rw [winningBank, h0, h1]

/-- Of two valid banks the distance of their SEQs, modulo 2^32, decides. -/
theorem winningBank_of_both_valid (h0 : bankValid b0 = true) (h1 : bankValid b1 = true) {d : Nat}
    (hd : d = (field b1 8 4 + 2 ^ 32 - field b0 8 4) % 2 ^ 32) :
    winningBank b0 b1 = some (if 1 ≤ d ∧ d ≤ 2 ^ 31 - 1 then 1 else 0) := by
  rw [winningBank, h0, h1, hd]
  simp only [seqLater_iff (field_lt_two_pow b0 8 4)]

end

@[simp] theorem State.loadValue_store (s : State) (i sub : Nat) (v : List Byte) : (s.loadValue i sub v).store = s.store := by
  unfold State.loadValue
  dsimp only
  repeat' split
  all_goals rfl

/-- The entries of a record set objects, units and bring-up records, never the store's own fields. -/
@[simp] theorem State.applyEntries_store (s : State) (es : List StoreEntry) : (s.applyEntries es).2.store = s.store := by
  refine List.foldlRecOn (motive := fun acc : Bool × State => acc.2.store = s.store) es _ rfl fun acc kept e _ => ?_
  split
  · exact (State.loadValue_store ..).trans kept
  · exact (State.log_store ..).trans kept

/-- The bank that a load takes: the winning one, none where the store is absent (R422). -/
def State.chosenBank (s : State) (absent : Bool) : Option Nat :=
  if absent then none else winningBank (s.store.banks.getD 0 []) (s.store.banks.getD 1 [])

theorem State.chosenBank_of_banks {s : State} {b0 b1 : List Byte} (h : s.store.banks = [b0, b1]) (absent : Bool) :
    s.chosenBank absent = if absent = true then none else winningBank b0 b1 := by
  rw [State.chosenBank, h]
  rfl

theorem State.loadStore_of_none {s : State} {absent : Bool} (h : s.chosenBank absent = none) :
    s.loadStore absent = ({ s with store := { s.store with absent := absent, winner := none, load := 1 } }).log 0x0601 2 0 := by
  rw [State.chosenBank] at h
  simp only [State.loadStore, h]

/-- Neither the entries nor the mark of a skipped one changes the choice. -/
theorem State.loadStore_winner (s : State) (absent : Bool) : (s.loadStore absent).store.winner = s.chosenBank absent := by
  cases h : s.chosenBank absent with
  | none => rw [State.loadStore_of_none h]; rfl
  | some b =>
    rw [State.chosenBank] at h
    simp only [State.loadStore, h]
    split <;> simp only [State.applyEntries_store]

/-- What BS02 does beside the load leaves the store alone. -/
theorem State.passBs02_store (s : State) (absent : Bool) : (s.passBs02 absent).store = (s.loadStore absent).store := rfl

theorem State.passStep_bs02_winner (s : State) (unit alt result : Nat) :
    (s.passStep 2 unit alt result).store.winner = s.chosenBank (result == 1) := by
  change (s.passBs02 (result == 1)).store.winner = _
  rw [State.passBs02_store, State.loadStore_winner]

/-- Settles O54: validity field by field, the choice case by case, and the load and BS02 through the bank they take. -/
theorem winningBank_holds : Obligations.WinningBank := by
  refine ⟨bankValid_iff, fun b0 b1 => ⟨winningBank_of_neither_valid, winningBank_of_first_valid, winningBank_of_second_valid,
    fun d h0 h1 hd => ?_⟩, fun s b0 b1 banks => ⟨?_, fun none_valid => ?_, fun alt result => ?_⟩⟩
  · rw [winningBank_of_both_valid h0 h1 hd]
    exact ⟨fun later => congrArg some (if_pos later), fun notLater => congrArg some (if_neg notLater)⟩
  · rw [State.loadStore_winner, State.chosenBank_of_banks banks]
    rfl
  · have chosen : s.chosenBank false = none := (State.chosenBank_of_banks banks false).trans none_valid
    rw [State.loadStore_of_none chosen]
    exact ⟨rfl, rfl, rfl⟩
  · rw [State.passStep_bs02_winner, State.chosenBank_of_banks banks]
    simp only [beq_iff_eq]

end Sys2Proof.Machine
end

section
/-! What one step keeps: the memory tiers in order, the fuses only burnt further, the record of messages only longer, the queue a
command runs with (spec/00; spec/10 R252; spec/16 R444). -/
namespace Sys2Proof.Machine

/-- Every command ends in a next state: none faults and none is refused. -/
theorem exec_next (c : Instr) (s : State) : ∃ t, exec c s = .next t := by
  cases c <;> exact ⟨_, rfl⟩

/-- Every command keeps what its meaning keeps. -/
theorem exec_keeps {s0 s t : State} (c : Instr) (h : s0.Keeps s) (ht : exec c s = .next t) : s0.Keeps t := by
  cases c with
  | hifDbSqTail => exact execHifDbSqTail_keeps _ _ _ _ _ _ h t ht
  | hifDbCqHead => exact execHifDbCqHead_keeps _ _ _ _ _ _ h t ht
  | enable => exact execEnable_keeps _ _ _ _ h t ht
  | resume => exact execResume_keeps _ _ _ _ h t ht
  | drain => exact execDrain_keeps _ _ _ _ h t ht
  | reset => exact execReset_keeps _ _ _ _ h t ht
  | functionLevelReset => exact execFunctionLevelReset_keeps _ _ h t ht
  | pcieHotReset => exact execPcieHotReset_keeps _ h t ht
  | ringResetComplete => exact execRingResetComplete_keeps _ _ h t ht
  | fetchDescriptors => exact execFetchDescriptors_keeps _ h t ht
  | fetchAllowanceTick => exact execFetchAllowanceTick_keeps _ h t ht
  | descriptorArrival => exact execDescriptorArrival_keeps _ _ _ h t ht
  | descriptorFetchFault => exact execDescriptorFetchFault_keeps _ _ _ h t ht
  | admitStage => exact execAdmitStage_keeps _ _ h t ht
  | chainBlockCheck => exact execChainBlockCheck_keeps _ _ h t ht
  | stageStart => exact execStageStart_keeps _ _ h t ht
  | stageComplete => exact execStageComplete_keeps _ _ h t ht
  | cqEntryWrite => exact execCqEntryWrite_keeps _ _ h t ht
  | cqWriteFault => exact execCqWriteFault_keeps _ _ h t ht
  | irqDelayExpiry => exact execIrqDelayExpiry_keeps _ _ h t ht
  | pcieConfigRequest => exact execPcieConfigRequest_keeps _ _ _ h t ht
  | bar4Read => exact execBar4Read_keeps _ _ _ _ _ h t ht
  | bar4Write => exact execBar4Write_keeps _ _ _ _ _ h t ht
  | registerWrite => exact execRegisterWrite_keeps _ _ _ _ _ _ _ h t ht
  | registerLowWordRead => exact execRegisterLowWordRead_keeps _ _ _ h t ht
  | hifFnTableWrite => exact execHifFnTableWrite_keeps _ _ _ _ _ _ h t ht
  | dspReprio => exact execDspReprio_keeps _ _ _ h t ht
  | hifVfReprio => exact execHifVfReprio_keeps _ _ _ _ _ h t ht
  | vidKeyReq => exact execVidKeyReq_keeps _ _ _ h t ht
  | hifVfKeyReq => exact execHifVfKeyReq_keeps _ _ _ _ _ h t ht
  | memUeAckWrite => exact execMemUeAckWrite_keeps _ _ _ h t ht
  | regCtrlWrite => exact execRegCtrlWrite_keeps _ _ _ _ h t ht
  | placeTask => exact execPlaceTask_keeps _ h t ht
  | taskStart => exact execTaskStart_keeps _ _ h t ht
  | arrayPassComplete => exact execArrayPassComplete_keeps _ _ h t ht
  | taskPassesEnd => exact execTaskPassesEnd_keeps _ _ h t ht
  | harrowRowEnd => exact execHarrowRowEnd_keeps _ _ h t ht
  | spillComplete => exact execSpillComplete_keeps _ _ h t ht
  | restoreComplete => exact execRestoreComplete_keeps _ _ _ h t ht
  | taskDrainStart => exact execTaskDrainStart_keeps _ _ h t ht
  | taskDrainEnd => exact execTaskDrainEnd_keeps _ _ h t ht
  | arrayClockStop => exact execArrayClockStop_keeps _ _ _ h t ht
  | gleanRequest => exact execGleanRequest_keeps _ _ h t ht
  | gleanServe => exact execGleanServe_keeps _ _ h t ht
  | gleanTransferComplete => exact execGleanTransferComplete_keeps _ _ h t ht
  | gleanExclusionExpiry => exact execGleanExclusionExpiry_keeps _ _ _ h t ht
  | fenceComplete => exact execFenceComplete_keeps _ _ h t ht
  | barrierArrive => exact execBarrierArrive_keeps _ _ h t ht
  | spillHintRun => exact execSpillHintRun_keeps _ _ h t ht
  | arrivalTimeout => exact execArrivalTimeout_keeps _ _ h t ht
  | laneContextTakeover => exact execLaneContextTakeover_keeps _ _ h t ht
  | kvAppendStart => exact execKvAppendStart_keeps _ _ h t ht
  | kvAppendComplete => exact execKvAppendComplete_keeps _ _ h t ht
  | kvReleaseStart => exact execKvReleaseStart_keeps _ _ h t ht
  | kvReleaseComplete => exact execKvReleaseComplete_keeps _ _ h t ht
  | memoryRead => exact execMemoryRead_keeps _ _ _ _ _ h t ht
  | memoryWrite => exact execMemoryWrite_keeps _ _ _ _ _ h t ht
  | missFillComplete => exact execMissFillComplete_keeps _ _ _ h t ht
  | atomicRequest => exact execAtomicRequest_keeps _ _ _ _ _ _ _ h t ht
  | atomicApplyMc => exact execAtomicApplyMc_keeps _ _ _ h t ht
  | rowRemapComplete => exact execRowRemapComplete_keeps _ _ h t ht
  | scrubRead => exact execScrubRead_keeps _ _ _ _ h t ht
  | memTempRead => exact execMemTempRead_keeps _ _ _ h t ht
  | ceRateTick => exact execCeRateTick_keeps _ h t ht
  | unitRetrainStart => exact execUnitRetrainStart_keeps _ _ _ h t ht
  | unitRetrainAttemptEnd => exact execUnitRetrainAttemptEnd_keeps _ _ _ h t ht
  | linkFrameRx => exact execLinkFrameRx_keeps _ _ _ _ _ h t ht
  | dataFlitWrite => exact execDataFlitWrite_keeps _ _ _ h t ht
  | dataFlitAtomic => exact execDataFlitAtomic_keeps _ _ _ h t ht
  | dataFlitReadData => exact execDataFlitReadData_keeps _ _ _ h t ht
  | dataFlitReadPoison => exact execDataFlitReadPoison_keeps _ _ _ h t ht
  | controlFlitRx => exact execControlFlitRx_keeps _ _ _ h t ht
  | controlReplayTimeout => exact execControlReplayTimeout_keeps _ _ h t ht
  | creditReturn => exact execCreditReturn_keeps _ _ h t ht
  | hello _ src => exact execHello_keeps _ src _ _ h t ht
  | leave => exact execLeave_keeps _ _ h t ht
  | time => exact execTime_keeps _ _ _ h t ht
  | winReq => exact execWinReq_keeps _ _ _ h t ht
  | winGrant => exact execWinGrant_keeps _ _ _ h t ht
  | winDeny => exact execWinDeny_keeps _ _ _ h t ht
  | winEnd => exact execWinEnd_keeps _ _ _ h t ht
  | winDone => exact execWinDone_keeps _ _ _ h t ht
  | winDoneTimeout => exact execWinDoneTimeout_keeps _ _ h t ht
  | readReq => exact execReadReq_keeps _ _ _ h t ht
  | readEnd => exact execReadEnd_keeps _ _ _ h t ht
  | coll => exact execColl_keeps _ _ _ h t ht
  | weloc => exact execWeloc_keeps _ _ _ h t ht
  | key => exact execKey_keeps _ _ _ h t ht
  | routeDrop => exact execRouteDrop_keeps _ _ _ h t ht
  | helloPeriodTimer => exact execHelloPeriodTimer_keeps _ h t ht
  | timeExchangeTimer => exact execTimeExchangeTimer_keeps _ h t ht
  | peerTimeout => exact execPeerTimeout_keeps _ _ h t ht
  | retrainGraceExpiry => exact execRetrainGraceExpiry_keeps _ _ h t ht
  | peerAbsentTimeout => exact execPeerAbsentTimeout_keeps _ _ h t ht
  | portCalibrateEnd => exact execPortCalibrateEnd_keeps _ _ _ h t ht
  | portAlignEnd => exact execPortAlignEnd_keeps _ _ _ h t ht
  | portVerifyEnd => exact execPortVerifyEnd_keeps _ _ _ h t ht
  | portAuthEnd => exact execPortAuthEnd_keeps _ _ _ h t ht
  | portTrainTimeout => exact execPortTrainTimeout_keeps _ _ h t ht
  | portRetryTimer => exact execPortRetryTimer_keeps _ _ h t ht
  | portRetrainEntry => exact execPortRetrainEntry_keeps _ _ _ h t ht
  | microringRecal => exact execMicroringRecal_keeps _ _ h t ht
  | microringRecalEnd => exact execMicroringRecalEnd_keeps _ _ h t ht
  | laserModuleInsert => exact execLaserModuleInsert_keeps _ _ h t ht
  | laserModuleRemove => exact execLaserModuleRemove_keeps _ _ h t ht
  | laserPresenceTimer => exact execLaserPresenceTimer_keeps _ _ h t ht
  | copyStart => exact execCopyStart_keeps _ _ h t ht
  | copyPieceComplete => exact execCopyPieceComplete_keeps _ _ h t ht
  | collectiveStart => exact execCollectiveStart_keeps _ _ h t ht
  | collectiveJoinTimeout => exact execCollectiveJoinTimeout_keeps _ _ h t ht
  | collectiveBlockReduce => exact execCollectiveBlockReduce_keeps _ _ _ h t ht
  | collectivePartialTimeout => exact execCollectivePartialTimeout_keeps _ _ h t ht
  | collectiveComplete => exact execCollectiveComplete_keeps _ _ h t ht
  | ingestStart => exact execIngestStart_keeps _ _ h t ht
  | liveQueuePoll => exact execLiveQueuePoll_keeps _ _ _ h t ht
  | ingestWaitTimeout => exact execIngestWaitTimeout_keeps _ _ _ h t ht
  | ingestEntryComplete => exact execIngestEntryComplete_keeps _ _ _ h t ht
  | ingestComplete => exact execIngestComplete_keeps _ _ h t ht
  | pyramidStart => exact execPyramidStart_keeps _ _ h t ht
  | pyramidLevelComplete => exact execPyramidLevelComplete_keeps _ _ h t ht
  | vdecOpen => exact execVdecOpen_keeps _ _ h t ht
  | vdecDecode => exact execVdecDecode_keeps _ _ h t ht
  | vdecRelease => exact execVdecRelease_keeps _ _ h t ht
  | vdecClose => exact execVdecClose_keeps _ _ h t ht
  | decodePictureOutput => exact execDecodePictureOutput_keeps _ _ h t ht
  | vidPoolWaitTimeout => exact execVidPoolWaitTimeout_keeps _ _ h t ht
  | vencOpen => exact execVencOpen_keeps _ _ h t ht
  | vencEncode => exact execVencEncode_keeps _ _ h t ht
  | vencClose => exact execVencClose_keeps _ _ h t ht
  | encodeUnitWritten => exact execEncodeUnitWritten_keeps _ _ h t ht
  | paceStart => exact execPaceStart_keeps _ _ h t ht
  | paceCommit => exact execPaceCommit_keeps _ _ h t ht
  | paceStop => exact execPaceStop_keeps _ _ h t ht
  | paceLatch => exact execPaceLatch_keeps _ _ h t ht
  | paceCopyComplete => exact execPaceCopyComplete_keeps _ _ h t ht
  | read => exact execRead_keeps _ _ _ h t ht
  | uploadNext => exact execUploadNext_keeps _ _ _ h t ht
  | write => exact execWrite_keeps _ _ _ h t ht
  | writeInit => exact execWriteInit_keeps _ _ _ h t ht
  | writeSeg => exact execWriteSeg_keeps _ _ _ h t ht
  | writeEnd => exact execWriteEnd_keeps _ _ _ h t ht
  | abort => exact execAbort_keeps _ _ _ h t ht
  | welocUnknownCmd => exact execWelocUnknownCmd_keeps _ _ _ h t ht
  | welocContextTimeout => exact execWelocContextTimeout_keeps _ _ h t ht
  | welocDuplicateExpiry => exact execWelocDuplicateExpiry_keeps _ _ h t ht
  | setEndpointId => exact execSetEndpointId_keeps _ _ _ _ h t ht
  | getEndpointId => exact execGetEndpointId_keeps _ _ h t ht
  | getEndpointUuid => exact execGetEndpointUuid_keeps _ _ h t ht
  | getMctpVersionSupport => exact execGetMctpVersionSupport_keeps _ _ _ h t ht
  | getMessageTypeSupport => exact execGetMessageTypeSupport_keeps _ _ h t ht
  | getVendorDefinedMessageSupport => exact execGetVendorDefinedMessageSupport_keeps _ _ _ h t ht
  | mctpUnsupportedCmd => exact execMctpUnsupportedCmd_keeps _ _ _ h t ht
  | entdaa => exact execEntdaa_keeps _ _ _ h t ht
  | setnewda => exact execSetnewda_keeps _ _ _ h t ht
  | rstdaa => exact execRstdaa_keeps _ _ h t ht
  | setmwl => exact execSetmwl_keeps _ _ _ h t ht
  | setmrl => exact execSetmrl_keeps _ _ _ h t ht
  | i3cPrivateRead => exact execI3cPrivateRead_keeps _ _ h t ht
  | i3cHotJoinTimer => exact execI3cHotJoinTimer_keeps _ _ h t ht
  | storeCommitStart => exact execStoreCommitStart_keeps _ h t ht
  | storeCommitEnd => exact execStoreCommitEnd_keeps _ _ h t ht
  | storeTokenTick => exact execStoreTokenTick_keeps _ h t ht
  | fwSlotEraseComplete => exact execFwSlotEraseComplete_keeps _ _ h t ht
  | fnImageWrite => exact execFnImageWrite_keeps _ _ _ _ h t ht
  | restoreDefaults => exact execRestoreDefaults_keeps _ _ _ h t ht
  | brRestore => exact execBrRestore_keeps _ _ _ h t ht
  | brClear => exact execBrClear_keeps _ _ _ h t ht
  | secOwnerClaim => exact execSecOwnerClaim_keeps _ _ _ h t ht
  | secOwnerRevoke => exact execSecOwnerRevoke_keeps _ _ _ h t ht
  | regionRunWrite => exact execRegionRunWrite_keeps _ _ _ _ _ h t ht
  | logCursorWrite => exact execLogCursorWrite_keeps _ _ _ h t ht
  | getVersion => exact execGetVersion_keeps _ _ h t ht
  | getCapabilities => exact execGetCapabilities_keeps _ _ h t ht
  | negotiateAlgorithms => exact execNegotiateAlgorithms_keeps _ _ _ h t ht
  | getDigests => exact execGetDigests_keeps _ _ h t ht
  | getCertificate => exact execGetCertificate_keeps _ _ _ _ _ h t ht
  | challenge => exact execChallenge_keeps _ _ _ _ h t ht
  | getMeasurements => exact execGetMeasurements_keeps _ _ _ _ _ h t ht
  | keyExchange => exact execKeyExchange_keeps _ _ _ h t ht
  | finish => exact execFinish_keeps _ _ _ _ h t ht
  | heartbeat => exact execHeartbeat_keeps _ _ h t ht
  | keyUpdate => exact execKeyUpdate_keeps _ _ _ h t ht
  | endSession => exact execEndSession_keeps _ _ h t ht
  | chunkSend => exact execChunkSend_keeps _ _ _ _ _ _ _ h t ht
  | chunkGet => exact execChunkGet_keeps _ _ _ _ h t ht
  | vendorDefinedRequest _ _ body => exact execVendorDefinedRequest_keeps _ _ body _ h t ht
  | spdmUnsupportedRequest => exact execSpdmUnsupportedRequest_keeps _ _ _ h t ht
  | getTdispVersion => exact execGetTdispVersion_keeps _ _ _ h t ht
  | getTdispCapabilities => exact execGetTdispCapabilities_keeps _ _ _ h t ht
  | lockInterfaceRequest => exact execLockInterfaceRequest_keeps _ _ _ h t ht
  | getDeviceInterfaceReport => exact execGetDeviceInterfaceReport_keeps _ _ _ h t ht
  | getDeviceInterfaceState => exact execGetDeviceInterfaceState_keeps _ _ _ h t ht
  | startInterfaceRequest => exact execStartInterfaceRequest_keeps _ _ _ h t ht
  | stopInterfaceRequest => exact execStopInterfaceRequest_keeps _ _ _ h t ht
  | tdispUnsupportedRequest => exact execTdispUnsupportedRequest_keeps _ _ _ _ h t ht
  | ideKmKeyProg => exact execIdeKmKeyProg_keeps _ _ _ _ _ _ h t ht
  | ideStreamFail => exact execIdeStreamFail_keeps _ _ h t ht
  | doeDiscovery => exact execDoeDiscovery_keeps _ _ h t ht
  | regionClearComplete => exact execRegionClearComplete_keeps _ _ h t ht
  | entropyHealthFail => exact execEntropyHealthFail_keeps _ h t ht
  | domainClockGate => exact execDomainClockGate_keeps _ _ h t ht
  | domainDrainStart => exact execDomainDrainStart_keeps _ _ h t ht
  | domainDrainComplete => exact execDomainDrainComplete_keeps _ _ h t ht
  | domainPowerOffComplete => exact execDomainPowerOffComplete_keeps _ _ h t ht
  | gatePacketArrival => exact execGatePacketArrival_keeps _ _ _ h t ht
  | domainWakeComplete => exact execDomainWakeComplete_keeps _ _ h t ht
  | domainWakeWindow => exact execDomainWakeWindow_keeps _ h t ht
  | headlandClockIdleStop => exact execHeadlandClockIdleStop_keeps _ h t ht
  | dvfsTick => exact execDvfsTick_keeps _ _ h t ht
  | pstateChangeComplete => exact execPstateChangeComplete_keeps _ _ h t ht
  | avsReadback => exact execAvsReadback_keeps _ _ h t ht
  | currentLimitTrip => exact execCurrentLimitTrip_keeps _ h t ht
  | currentLimitRelease => exact execCurrentLimitRelease_keeps _ h t ht
  | dieTempSample => exact execDieTempSample_keeps _ _ h t ht
  | thermalTrip => exact execThermalTrip_keeps _ _ h t ht
  | supplyWarning => exact execSupplyWarning_keeps _ _ _ h t ht
  | supplyWarningRecover => exact execSupplyWarningRecover_keeps _ h t ht
  | supplyResetLevel => exact execSupplyResetLevel_keeps _ _ _ h t ht
  | powerOnReset => exact execPowerOnReset_keeps _ h t ht
  | rstNAssert => exact execRstNAssert_keeps _ h t ht
  | perstAssert => exact execPerstAssert_keeps _ h t ht
  | perstDeassert => exact execPerstDeassert_keeps _ h t ht
  | tapResetRelease => exact execTapResetRelease_keeps _ h t ht
  | bringupStepRun => exact execBringupStepRun_keeps _ _ _ h t ht
  | bringupAttemptEnd => exact execBringupAttemptEnd_keeps _ _ _ _ _ _ h t ht
  | bringupAttemptTimeout => exact execBringupAttemptTimeout_keeps _ _ _ h t ht
  | controlSramCe kind => exact execControlSramCe_keeps kind _ h t ht
  | controlSramUe => exact execControlSramUe_keeps _ _ h t ht
  | bridgeLossTimeout => exact execBridgeLossTimeout_keeps _ h t ht
  | hostWindowCompletion => exact execHostWindowCompletion_keeps _ _ _ _ h t ht
  | rstNDeassert => exact execRstNDeassert_keeps _ h t ht
  | tapReset => exact execTapReset_keeps _ h t ht
  | bridgeLoss => exact execBridgeLoss_keeps _ h t ht
  | dupDevidExpiry => exact execDupDevidExpiry_keeps _ h t ht

theorem step_of_waiting {c : Instr} {rest : List Instr} {s : State} (h : s.pending = c :: rest) :
    step s = exec c { s with pending := rest } := by
  rw [step, h]

theorem step_of_idle {s : State} (h : s.pending = []) : step s = .next s.tickNs := by
  rw [step, h]

/-- One step from a state in order leaves the tiers in order, the fuses no less burnt, the messages sent still sent. -/
theorem step_keeps {s t : State} (inv : s.Inv) (h : step s = .next t) : t.Inv ∧ s.fuses.Grew t.fuses ∧ s.out <+: t.out := by
  cases queue : s.pending with
  | nil =>
    rw [step_of_idle queue] at h
    cases h
    have kept := State.tickNs_keeps s (.start inv)
    exact ⟨kept.tiers, kept.fuses, kept.out⟩
  | cons c rest =>
    rw [step_of_waiting queue] at h
    have kept := exec_keeps c (State.Keeps.start (s := { s with pending := rest }) inv) h
    exact ⟨kept.tiers, kept.fuses, kept.out⟩

/-- Settles O1. -/
theorem stepRunsFront : Obligations.StepRunsFront :=
  ⟨fun _ _ _ => step_of_waiting, fun _ => step_of_idle⟩

/-- Settles O3: the tiers are part of what every command keeps. -/
theorem everyStepKeepsTheTiers : Obligations.EveryStepKeepsTheTiers :=
  fun _ _ inv h => (step_keeps inv h).1

/-- Settles O4: no command takes a burnt fuse back. -/
theorem fusesAreOnlyBurnt : Obligations.FusesAreOnlyBurnt :=
  fun _ _ inv h => (step_keeps inv h).2.1

/-- Settles O5: every command appends to the record of messages or leaves it. -/
theorem outputOnlyGrows : Obligations.OutputOnlyGrows :=
  fun _ _ inv h => (step_keeps inv h).2.2

/-- Settles O6: every command answers a next state and keeps the queue it runs with. -/
theorem commandsLeaveTheQueue : Obligations.CommandsLeaveTheQueue := by
  intro c s inv
  obtain ⟨t, ht⟩ := exec_next c s
  exact ⟨t, ht, (exec_keeps c (.start inv) ht).pending⟩

end Sys2Proof.Machine
end

section
/-! Reads and writes of memory: what they leave of each byte and of a line's poison (spec/10 R251, R254, R281; spec/04 R114). -/
namespace Sys2Proof.Machine

theorem State.meet_peek (s : State) (n : Option Nat) (status x : Nat) : (s.meet n status).peek x = s.peek x :=
  State.peek_congr (State.meet_mem s n status) x

/-- Noting a status that a stage met leaves the memory as it was. -/
theorem State.meet_ite_mem (s : State) (n : Option Nat) (status : Nat) :
    (if status = 0 then s else s.meet n status).mem = s.mem := by
  split
  · rfl
  · exact State.meet_mem s n status

/-- `t` is `s` with the tiers still in order, every unit in service, and byte `x` reading as before. -/
structure State.ReadsAlike (s t : State) (x : Nat) : Prop where
  tiers : t.mem.Ok
  units : t.UnitsIn
  byte : t.peek x = s.peek x

theorem State.ReadsAlike.of_mem {s t u : State} {x : Nat} (h : s.ReadsAlike t x) (same : u.mem = t.mem) : s.ReadsAlike u x :=
  ⟨same ▸ h.tiers, State.units_congr same h.units, (State.peek_congr same x).trans h.byte⟩

theorem State.ReadsAlike.readPiece {s t : State} {x : Nat} (h : s.ReadsAlike t x) (who : Requester) (a n hint : Nat) :
    s.ReadsAlike (t.readPiece who a n hint).2.2 x := by
  obtain ⟨units, byte⟩ := State.readPiece_peek t who a n hint h.tiers h.units
  exact ⟨(State.readPiece_keeps t who a n hint (.start h.tiers)).tiers, units, (byte x).trans h.byte⟩

theorem State.ReadsAlike.writePiece {s t : State} {x : Nat} (h : s.ReadsAlike t x) (who : Requester) (a : Nat) (bs : List Byte)
    (hint : Nat) (outside : ¬ Reached who.stage a bs.length x) : s.ReadsAlike (t.writePiece who a bs hint).2 x := by
  obtain ⟨units, byte⟩ := State.writePiece_peek t who a bs hint h.tiers h.units
  exact ⟨(State.writePiece_keeps t who a bs hint (.start h.tiers)).tiers, units, (byte x outside).trans h.byte⟩

/-- A part of an extent reaches no byte that the whole extent does not reach. -/
theorem Reached.of_part {who : Option Nat} {a n b k x : Nat} (low : a ≤ b) (high : b + k ≤ a + n) (h : Reached who b k x) :
    Reached who a n x := by
  unfold Reached at h ⊢
  split at h <;> rename_i stage
  · rw [if_pos stage]
    omega
  · rw [if_neg stage]
    omega

/-- The bytes that a piece of a write stores are as many as the piece is long. -/
theorem linePieces_part_length {fuel a : Nat} {bs : List Byte} {p : Nat × Nat} (h : p ∈ linePieces fuel a bs.length) :
    ((bs.drop (p.1 - a)).take p.2).length = p.2 := by
  obtain ⟨low, high⟩ := linePieces_mem h
  simp only [List.length_take, List.length_drop]
  omega

/-- Settles O9: each piece of the read leaves every byte, and noting a status leaves the memory. -/
theorem readsChangeNoByte : Obligations.ReadsChangeNoByte := by
  intro s who a n hint x inv units
  have start : s.ReadsAlike (([], s) : List Byte × State).2 x := ⟨inv, units, rfl⟩
  refine (List.foldlRecOn (motive := fun acc : List Byte × State => s.ReadsAlike acc.2 x) _ _ start fun acc alike p _ => ?_).byte
  exact (alike.readPiece who p.1 p.2 hint).of_mem (State.meet_ite_mem _ _ _)

/-- Settles O10: each piece of the write reaches no byte beyond those the write reaches. -/
theorem writesChangeOnlyTheirBytes : Obligations.WritesChangeOnlyTheirBytes := by
  intro s who a bs hint x inv units outside
  have unreached : ¬ Reached who.stage a bs.length x := by
    unfold Reached
    split at outside <;> simp_all only [if_true, if_false, Bool.false_eq_true] <;> omega
  have start : s.ReadsAlike s x := ⟨inv, units, rfl⟩
  refine (List.foldlRecOn (motive := fun t : State => s.ReadsAlike t x) _ _ start fun t alike p piece => ?_).byte
  have partLength := linePieces_part_length piece
  refine (alike.writePiece who p.1 ((bs.drop (p.1 - a)).take p.2) hint ?_).of_mem (State.meet_ite_mem _ _ _)
  obtain ⟨low, high⟩ := linePieces_mem piece
  rw [partLength]
  exact fun reached => unreached (reached.of_part low high)

/-- A write that is not discarded stores its bytes in the line, made resident before. -/
theorem State.touchWrite_stored {s : State} {l a : Nat} {bs : List Byte} (hint : Nat) (who : Option Nat)
    (taken : s.poisoned l = false ∨ (a % 256 == 0 && bs.length == 256) = true) :
    ∃ t : State, (t.resident l).isSome
      ∧ s.touchWrite l a bs hint who = (false, t.storeLine l a bs (a % 256 == 0 && bs.length == 256)) := by
  have notDiscarded : (s.poisoned l && !(a % 256 == 0 && bs.length == 256)) = false := by
    rcases taken with h | h <;> simp [h]
  unfold State.touchWrite
  simp only [notDiscarded, Bool.false_eq_true, if_false]
  refine ⟨_, ?_, rfl⟩
  have there : ((match s.resident l with
      | some g => (s.tick1 grnHit).hit g hint who true
      | none => (s.tick1 grnMiss).allocate l hint none).resident l).isSome := by
    split
    next g found => exact (State.resident_mem found).2 ▸ State.hit_resident _ _ _ _ _
    next => exact State.allocate_resident _ _ _ _
  split
  · exact there
  · exact there

theorem State.touchWrite_discarded {s : State} {l a : Nat} {bs : List Byte} (hint : Nat) (who : Option Nat)
    (poisoned : s.poisoned l = true) (part : ¬ (a % 256 = 0 ∧ bs.length = 256)) : s.touchWrite l a bs hint who = (true, s) := by
  refine if_pos ?_
  simp only [poisoned, Bool.true_and, Bool.not_eq_true', Bool.and_eq_false_iff, beq_eq_false_iff_ne]
  omega

/-- A whole line stored in a resident line takes its poison away. -/
theorem State.storeLine_clean_poisoned {s : State} {l : Nat} (a : Nat) (bs : List Byte) (there : (s.resident l).isSome) :
    (s.storeLine l a bs true).poisoned l = false := by
  obtain ⟨g, found⟩ := Option.isSome_iff_exists.mp there
  obtain ⟨-, number⟩ := State.resident_mem found
  have kept : ∀ g : GLine, (if g.line == l then
      { g with dirty := ((List.range bs.length).map (fun i => (a + i, bs.getD i 0))).filter (fun c => c.1 / 256 == l)
                  ++ g.dirty.filter (fun c => !(decide (a ≤ c.1) && decide (c.1 < a + bs.length))), poison := false }
      else g).line = g.line := by
    intro g
    split <;> rfl
  unfold State.poisoned State.resident State.storeLine
  dsimp only [State.resident] at found ⊢
  simp only [if_true]
  rw [find_map_line _ _ kept, found]
  simp [number]

/-- Settles O11: what a write stores is the line's newest, and a whole line is stored clean. -/
theorem lineWrites : Obligations.LineWrites := by
  refine ⟨fun s a bs hint who i _ within clean inside => ?_, fun s a bs hint who _ poisoned => ⟨fun start whole => ?_, fun part => ?_⟩⟩
  · obtain ⟨t, there, stored⟩ := State.touchWrite_stored (a := a) (bs := bs) hint who (.inl clean)
    rw [stored, State.storeLine_peek _ _ _ _ _ there, if_pos (by omega), Nat.add_sub_cancel_left]
    exact ⟨rfl, rfl⟩
  · have line : (a % 256 == 0 && bs.length == 256) = true := by simp [start, whole]
    obtain ⟨t, there, stored⟩ := State.touchWrite_stored (s := s) (l := a / 256) hint who (.inr line)
    rw [stored, line]
    exact State.storeLine_clean_poisoned a bs there
  · exact State.touchWrite_discarded hint who poisoned part

end Sys2Proof.Machine
end

section
/-! The state after reset, the hedgerow and the outcomes of stages and rings (spec/14 R391, R394; spec/04 R102; spec/16 R437). -/
namespace Sys2Proof.Machine

/-- Settles O2: every field stands at its default. -/
theorem resetState : Obligations.ResetState :=
  ⟨⟨rfl, List.nodup_nil, fun _ h => nomatch h⟩, rfl, rfl, rfl, fun _ => rfl, fun _ => rfl, fun _ => rfl, fun _ => rfl, rfl, fun _ => rfl,
    fun _ => rfl⟩

/-- Settles O12: one row of Table 16.3 at a time. -/
theorem hedgerowRows : Obligations.HedgerowRows := by
  intro g secure fn
  refine ⟨rfl, fun clearing => ?_, fun closed => ?_, fun isOpen notShared => ?_, fun stranger => ?_, fun clear openPasses securePasses owner => ?_⟩
  · simp [hedge, clearing]
  · simp [hedge, closed]
  · simp [hedge, isOpen, notShared]
  · simp [hedge, stranger]
  · cases secure
    · simp [hedge, clear, owner, openPasses rfl]
    · rcases securePasses rfl with passes | passes <;> simp [hedge, clear, owner, passes]

/-- What the end of a stage leaves of the stages, the rings, the clock and the bytes at rest, before its record is set. -/
structure State.EndKeeps (s t : State) : Prop where
  stages : t.dsp.stages = s.dsp.stages
  hif : t.hif = s.hif
  time : t.time = s.time
  stalled : t.mem.stalled = s.mem.stalled
  cells : t.mem.cells = s.mem.cells

theorem State.EndKeeps.refl (s : State) : s.EndKeeps s := ⟨rfl, rfl, rfl, rfl, rfl⟩

theorem State.EndKeeps.trans {s t u : State} (h : s.EndKeeps t) (k : t.EndKeeps u) : s.EndKeeps u :=
  ⟨k.stages.trans h.stages, k.hif.trans h.hif, k.time.trans h.time, k.stalled.trans h.stalled, k.cells.trans h.cells⟩

theorem State.thawAfter_endKeeps (s : State) (n : Nat) (st : Stage) : s.EndKeeps (s.thawAfter n st) := by
  unfold State.thawAfter
  split <;> exact ⟨rfl, rfl, rfl, rfl, rfl⟩

theorem State.discardMarked_endKeeps (s : State) (n : Nat) : s.EndKeeps (s.discardMarked n) := by
  unfold State.discardMarked
  dsimp only
  split <;> exact ⟨rfl, rfl, rfl, rfl, rfl⟩

theorem State.settleSets_endKeeps (s : State) (n : Nat) (st : Stage) (status : Nat) : s.EndKeeps (s.settleSets n st status) := by
  unfold State.settleSets
  extract_lets t out
  have released : s.EndKeeps t := by
    unfold t
    split <;> exact ⟨rfl, rfl, rfl, rfl, rfl⟩
  split
  · exact .refl s
  split
  · exact released
  split
  · exact released
  split
  · exact released
  split
  · exact released.trans ⟨rfl, rfl, rfl, rfl, rfl⟩
  · exact released.trans ⟨rfl, rfl, rfl, rfl, rfl⟩

theorem State.settleTable_of_no_run {s : State} {n : Nat} (st : Stage) (h : s.kv.runs.find n = none) : s.settleTable n st = s := by
  rw [State.settleTable, h]

/-- The state in which a stage's outcome is decided: its lines, sets, readers and windows are given back. -/
def State.atEnd (s : State) (n : Nat) (st : Stage) (status : Nat) : State :=
  (((((s.settleTable n st).thawAfter n st).leaveReleases n).discardMarked n).endShares n).settleSets n st status

theorem State.atEnd_endKeeps {s : State} {n : Nat} (st : Stage) (status : Nat) (h : s.kv.runs.find n = none) :
    s.EndKeeps (s.atEnd n st status) := by
  unfold State.atEnd
  rw [State.settleTable_of_no_run st h]
  have thawed : s.EndKeeps ((s.thawAfter n st).leaveReleases n) := (State.thawAfter_endKeeps s n st).trans ⟨rfl, rfl, rfl, rfl, rfl⟩
  have shared : s.EndKeeps ((((s.thawAfter n st).leaveReleases n).discardMarked n).endShares n) :=
    (thawed.trans (State.discardMarked_endKeeps _ n)).trans ⟨rfl, rfl, rfl, rfl, rfl⟩
  exact shared.trans (State.settleSets_endKeeps _ n st status)

/-- The record of a stage as its outcome leaves it (R391). -/
def Stage.ended (st : Stage) (status time : Nat) : Stage :=
  { st with phase := .complete, status := status, arrival := none, doneTime := time }

/-- The decision of a stage that works through no sequence table. -/
theorem State.finish_of_running {s : State} {n : Nat} {st : Stage} (status : Nat) (found : s.stage n = some st)
    (running : st.done = false) (noRun : s.kv.runs.find n = none) :
    s.finish n status =
      (let t := (s.atEnd n st status).setStage n (st.ended status s.time)
       if status = 0 ∨ status = 0x0C then t
       else t.setRing st.ring { t.ring st.ring with failed := (t.ring st.ring).failed ++ [st.seq] }) := by
  have kept := State.atEnd_endKeeps st status noRun
  have same : (s.atEnd n st status).stage n = some st := by rw [State.stage, kept.stages]; exact found
  rw [State.atEnd] at kept same ⊢
  simp only [State.finish, found, running, Bool.false_eq_true, if_false, same, Option.getD_some, kept.time, Stage.ended]

theorem State.finish_stage {s : State} {n : Nat} {st : Stage} (status : Nat) (found : s.stage n = some st)
    (running : st.done = false) (noRun : s.kv.runs.find n = none) : (s.finish n status).stage n = some (st.ended status s.time) := by
  rw [State.finish_of_running status found running noRun]
  dsimp only
  split <;> simp [State.stage, State.setStage, State.setRing]

theorem State.finish_of_done {s : State} {n : Nat} {st : Stage} (status : Nat) (found : s.stage n = some st) (done : st.done = true) :
    s.finish n status = s := by
  simp only [State.finish, found, done, if_true]

/-- Settles O13: the ladder of statuses, the record that a decision leaves, the stop of a ring. -/
theorem outcomes : Obligations.Outcomes := by
  refine ⟨fun met own => ⟨fun h4 => ?_, fun h4 h3 => ?_, fun h4 h3 x found => ?_, fun h4 h3 h1 h2 h8 => ?_, fun none => ?_⟩,
    fun s n status st found running noRun => ⟨?_, fun status' => ?_⟩, fun s r seq status => ⟨fun serving => ?_, fun notRunning notDraining => ?_⟩⟩
  · simp [worstOf, h4]
  · simp [worstOf, h4, h3]
  · simp [worstOf, h4, h3, found]
  · have noneOfTables : met.find? (fun x => x == 1 || x == 2) = none := by
      rw [List.find?_eq_none]
      rintro x member
      simp only [Bool.or_eq_true, beq_iff_eq]
      rintro (rfl | rfl)
      · exact h1 member
      · exact h2 member
    simp [worstOf, h4, h3, h8, noneOfTables]
  · subst none
    by_cases own0 : own = 0 <;> simp [worstOf, own0]
  · exact ⟨_, State.finish_stage status found running noRun, rfl, rfl, rfl, rfl, rfl⟩
  · exact State.finish_of_done status' (State.finish_stage status found running noRun) rfl
  · exact if_pos serving
  · exact if_neg (not_or.mpr ⟨notRunning, notDraining⟩)

end Sys2Proof.Machine
end

section
/-! The interrupts that a change of status raises (spec/00 R14; spec/14 R383). -/
namespace Sys2Proof.Machine

theorem State.bump_ctr_other (s : State) {a b : Nat} (n : Nat) (h : b ≠ a) : (s.bump a n).ctr b = s.ctr b :=
  Map.get_put_other _ _ _ h.symm

theorem State.tick1_ctr_other (s : State) {a b : Nat} (h : b ≠ a) : (s.tick1 a).ctr b = s.ctr b :=
  s.bump_ctr_other 1 h

/-- The messages of the bits that rise in a change, block by block. -/
def State.raiseEdges (new old : State) : State :=
  statBlocks.foldl (fun s b => (risingEdges b.1 b.2.1 old new).foldl (fun s _ => s.msix 0 (bits (new.reg b.2.2).toNat 0 12)) s) new

theorem State.settle_of_reached {new old : State} (h : (new.mem.stalled && !old.mem.stalled) = false) :
    new.settle old = if new.kvStat true = old.kvStat true then new.raiseEdges old else (new.raiseEdges old).notifySecure :=
  if_neg (by simp [h])

theorem State.settle_of_kvStat {new old : State} (h : (new.mem.stalled && !old.mem.stalled) = false)
    (same : new.kvStat true = old.kvStat true) : new.settle old = new.raiseEdges old := by
  rw [State.settle_of_reached h, if_pos same]

/-- What holds of the new state and is kept by every message holds of the settled one. -/
theorem State.settle_induction {P : State → Prop} {new old : State} (start : P new) (msix : ∀ t f v, P t → P (t.msix f v))
    (h : (new.mem.stalled && !old.mem.stalled) = false) : P (new.settle old) := by
  have edges : P (new.raiseEdges old) :=
    List.foldlRecOn _ _ start fun t ht b _ => List.foldlRecOn _ _ ht fun t ht _ _ => msix t _ _ ht
  rw [State.settle_of_reached h]
  split
  · exact edges
  · unfold State.notifySecure
    dsimp only
    split
    · exact msix _ _ _ edges
    · exact edges

/-- What sending a message can do: nothing, count a missing vector, leave the entry pending, send. -/
theorem State.msix_cases (s : State) (f v : Nat) :
    s.msix f v = s ∨ s.msix f v = s.tick1 hifIrqNovec
    ∨ s.msix f v
      = { s with hif := { s.hif with msix := s.hif.msix.put (f, v) { s.hif.msix.get {} (f, v) with pending := true } } }
    ∨ s.msix f v
      = (s.tick1 hifIrqSent).emit (.msix f v (s.hif.msix.get {} (f, v)).addr (s.hif.msix.get {} (f, v)).data) := by
  by_cases range : (if f = 0 then 2048 else 32) ≤ v
  · exact .inr (.inl (if_pos range))
  · rw [State.msix, if_neg range]
    dsimp only
    split
    · exact .inl rfl
    · split
      · exact .inr (.inr (.inl rfl))
      · exact .inr (.inr (.inr rfl))

theorem State.msix_ctr (s : State) (f v : Nat) {a : Nat} (sent : a ≠ hifIrqSent) (novec : a ≠ hifIrqNovec) :
    (s.msix f v).ctr a = s.ctr a := by
  rcases s.msix_cases f v with h | h | h | h <;> rw [h]
  · exact State.tick1_ctr_other s novec
  · rfl
  · exact State.tick1_ctr_other s sent

/-- Two states whose MSI-X entries agree but for their pending bits. -/
def State.SameEntries (s t : State) : Prop :=
  ∀ k, (t.hif.msix.get {} k).addr = (s.hif.msix.get {} k).addr ∧ (t.hif.msix.get {} k).data = (s.hif.msix.get {} k).data
    ∧ (t.hif.msix.get {} k).masked = (s.hif.msix.get {} k).masked

theorem State.msix_sameEntries {s t : State} (f v : Nat) (h : s.SameEntries t) : s.SameEntries (t.msix f v) := by
  intro k
  rcases t.msix_cases f v with done | done | done | done <;> rw [done]
  · exact h k
  · exact h k
  · by_cases same : (f, v) = k
    · subst same
      simp only [Map.get_put_same]
      exact h (f, v)
    · simp only [Map.get_put_other _ _ _ same]
      exact h k
  · exact h k

/-- Where no block has a rising edge no message is sent. -/
theorem State.raiseEdges_of_none {new old : State} (none : ∀ b ∈ statBlocks, risingEdges b.1 b.2.1 old new = []) :
    new.raiseEdges old = new :=
  List.foldlRecOn (motive := fun t => t = new) _ _ rfl fun t ht b hb => by rw [none b hb]; exact ht

theorem mem_risingEdges {stat : State → Nat} {en i : Nat} {old new : State} :
    i ∈ risingEdges stat en old new ↔ i < 8 ∧ bit (stat new) i = true ∧ bit (new.reg en).toNat i = true
      ∧ ¬ (bit (stat old) i = true ∧ bit (old.reg en).toNat i = true) := by
  simp only [risingEdges, List.mem_filter, List.mem_range, Bool.and_eq_true, Bool.not_eq_true', ← Bool.not_eq_true, and_assoc]

/-- The enables of the blocks stand at addresses of their own. -/
theorem statBlocks_nodup : statBlocks.Nodup :=
  List.Pairwise.of_map (S := (· ≠ ·)) (fun b => b.2.1) (fun _ _ differ same => differ (congrArg (fun b => b.2.1) same)) (by decide)

/-- A fold of steps of which those of one member alone do something is that step. -/
theorem foldl_eq_of_only {α β : Type} (f : β → α → β) {b : α} : ∀ (l : List α) (x : β), l.Nodup → b ∈ l →
    (∀ y, ∀ b' ∈ l, b' ≠ b → f y b' = y) → l.foldl f x = f x b
  | [], _, _, member, _ => nomatch member
  | a :: l, x, nodup, member, others => by
    obtain ⟨fresh, nodup⟩ := List.nodup_cons.mp nodup
    rw [List.foldl_cons]
    by_cases first : a = b
    · subst first
      refine List.foldlRecOn (motive := fun y => y = f x a) _ _ rfl fun y hy c hc => ?_
      rw [others y c (List.mem_cons_of_mem _ hc) fun same => fresh (same ▸ hc)]
      exact hy
    · rw [others x a List.mem_cons_self first]
      exact foldl_eq_of_only f l x nodup (List.mem_of_ne_of_mem (Ne.symm first) member)
        fun y b' hb' => others y b' (List.mem_cons_of_mem _ hb')

theorem State.raiseEdges_of_one {new old : State} {b : (State → Nat) × Nat × Nat} (hb : b ∈ statBlocks)
    (alone : ∀ b' ∈ statBlocks, b' ≠ b → risingEdges b'.1 b'.2.1 old new = []) :
    new.raiseEdges old
      = (risingEdges b.1 b.2.1 old new).foldl (fun s _ => s.msix 0 (bits (new.reg b.2.2).toNat 0 12)) new :=
  foldl_eq_of_only _ _ _ statBlocks_nodup hb fun y b' hb' other => by rw [alone b' hb' other]; rfl

section
variable {s : State} {v : Nat} {e : MsixEntry} (vector : v < 2048) (entry : s.hif.msix.get {} (0, v) = e)

include vector in
theorem State.msix_of_disabled (disabled : s.msixEnabled 0 = false) : s.msix 0 v = s := by
  simp [State.msix, disabled, Nat.not_le_of_lt vector]

include vector entry

theorem State.msix_of_unmasked (enabled : s.msixEnabled 0 = true) (entryOpen : e.masked = false) (fnOpen : s.msixMasked 0 = false) :
    s.msix 0 v = (s.tick1 hifIrqSent).emit (.msix 0 v e.addr e.data) := by
  simp only [State.msix, if_true, if_neg (Nat.not_le_of_lt vector), enabled, Bool.not_true, Bool.false_eq_true, if_false, entry, entryOpen,
    fnOpen, Bool.or_self]

theorem State.msix_of_masked (enabled : s.msixEnabled 0 = true) (masked : e.masked = true ∨ s.msixMasked 0 = true) :
    s.msix 0 v = { s with hif := { s.hif with msix := s.hif.msix.put (0, v) { e with pending := true } } } := by
  have either : (e.masked || s.msixMasked 0) = true := Bool.or_eq_true _ _ ▸ masked
  simp only [State.msix, if_true, if_neg (Nat.not_le_of_lt vector), enabled, Bool.not_true, Bool.false_eq_true, if_false, entry, either]

end

/-- A message for each of some bits on an open vector: as many as there are bits. -/
theorem State.foldl_msix_out {v : Nat} {e : MsixEntry} (vector : v < 2048) (entryOpen : e.masked = false) : ∀ (l : List Nat) (s : State),
    s.hif.msix.get {} (0, v) = e → s.msixEnabled 0 = true → s.msixMasked 0 = false →
    (l.foldl (fun s _ => s.msix 0 v) s).out = s.out ++ List.replicate l.length (.msix 0 v e.addr e.data)
  | [], s, _, _, _ => (List.append_nil _).symm
  | _ :: l, s, entry, enabled, fnOpen => by
    rw [List.foldl_cons, State.msix_of_unmasked vector entry enabled entryOpen fnOpen, List.length_cons, List.replicate_succ]
    have rest := State.foldl_msix_out vector entryOpen l ((s.tick1 hifIrqSent).emit (.msix 0 v e.addr e.data)) entry enabled fnOpen
    exact rest.trans (List.append_assoc _ _ _)

/-- Messages on a masked vector leave its entry pending, and send nothing. -/
theorem State.foldl_msix_pending {v : Nat} {e : MsixEntry} (vector : v < 2048) (s : State) (entry : s.hif.msix.get {} (0, v) = e)
    (enabled : s.msixEnabled 0 = true) (masked : e.masked = true ∨ s.msixMasked 0 = true) (l : List Nat) (some : l ≠ []) :
    (l.foldl (fun s _ => s.msix 0 v) s).out = s.out
      ∧ (l.foldl (fun s _ => s.msix 0 v) s).hif.msix.get {} (0, v) = { e with pending := true } := by
  obtain ⟨i, l, rfl⟩ := List.exists_cons_of_ne_nil some
  rw [List.foldl_cons, State.msix_of_masked vector entry enabled masked]
  have step : ∀ t : State, (t.out = s.out ∧ t.hif.msix.get {} (0, v) = { e with pending := true }) ∧ t.hif.cfg = s.hif.cfg →
      ((t.msix 0 v).out = s.out ∧ (t.msix 0 v).hif.msix.get {} (0, v) = { e with pending := true }) ∧ (t.msix 0 v).hif.cfg = s.hif.cfg := by
    rintro t ⟨⟨out, entry'⟩, cfg⟩
    have cfgReg : t.cfgReg 0 .msixControl = s.cfgReg 0 .msixControl := by rw [State.cfgReg, cfg]; rfl
    have enabled' : t.msixEnabled 0 = true := by rw [State.msixEnabled, cfgReg]; exact enabled
    have masked' : ({ e with pending := true } : MsixEntry).masked = true ∨ t.msixMasked 0 = true := by
      rw [State.msixMasked, cfgReg]; exact masked
    rw [State.msix_of_masked vector entry' enabled' masked']
    exact ⟨⟨out, Map.get_put_same _ _ _ _⟩, cfg⟩
  refine (List.foldlRecOn (motive := fun t : State => (t.out = s.out ∧ t.hif.msix.get {} (0, v) = { e with pending := true })
    ∧ t.hif.cfg = s.hif.cfg) l _ ?_ fun t ht _ _ => step t ht).1
  exact ⟨⟨rfl, Map.get_put_same _ _ _ _⟩, rfl⟩

/-- Settles O8: what every message keeps, by induction over the messages of a change; then the block whose bits rise alone. -/
theorem interrupts : Obligations.Interrupts := by
  refine ⟨fun old new reached => ⟨(State.settle_delivered new old reached).state, fun a sent novec => ?_, ?_,
      (State.settle_delivered new old reached).mono, fun none same => ?_⟩, fun old new stalled before => ?_,
    fun stat en i old new => mem_risingEdges, fun old new b v e hb reached alone same vector small entry => ?_⟩
  · exact State.settle_induction (P := fun t => t.ctr a = new.ctr a) rfl
      (fun t f v ht => (State.msix_ctr t f v sent novec).trans ht) reached
  · exact State.settle_induction (P := new.SameEntries) (fun _ => ⟨rfl, rfl, rfl⟩) (fun t f v => State.msix_sameEntries f v) reached
  · rw [State.settle_of_kvStat reached same, State.raiseEdges_of_none none]
  · exact State.settle_stalled new old (by simp [stalled, before])
  · rw [State.settle_of_kvStat reached same, State.raiseEdges_of_one hb alone, ← vector]
    refine ⟨fun enabled entryOpen fnOpen => ⟨fun i one => ?_, ?_⟩, fun enabled masked some => ?_, fun disabled => ?_⟩
    · rw [one]
      exact State.msix_of_unmasked small entry.symm enabled entryOpen fnOpen
    · exact State.foldl_msix_out small entryOpen _ new entry.symm enabled fnOpen
    · exact State.foldl_msix_pending small new entry.symm enabled masked _ some
    · exact List.foldlRecOn (motive := fun t => t = new) _ _ rfl fun t ht _ _ => by
        subst ht
        exact State.msix_of_disabled small disabled

end Sys2Proof.Machine
end

section
/-! Register accesses: views, plain registers, ring pages, words and their shadow (spec/00 R10-R13; spec/14 R379, R385). -/
namespace Sys2Proof.Machine

/-! ### Views -/

/-- A bit that is not RW keeps its value through any view (R11). -/
theorem viewWrite_readOnly {rw : Word32} {i : Nat} (view : View) (old value : Word32) (small : i < 32) (bit : rw.getLsbD i = false) :
    (viewWrite view old value rw).getLsbD i = old.getLsbD i := by
  cases view <;> simp only [viewWrite, BitVec.getLsbD_or, BitVec.getLsbD_and, BitVec.getLsbD_not, bit, small, decide_true, Bool.not_false,
    Bool.and_true, Bool.and_false, Bool.or_false]

/-- What each view writes in an RW bit (Table 0.9). -/
theorem viewWrite_writable {rw : Word32} {i : Nat} (view : View) (old value : Word32) (small : i < 32) (bit : rw.getLsbD i = true) :
    (viewWrite view old value rw).getLsbD i = match view with
      | .plain => value.getLsbD i
      | .set => old.getLsbD i || value.getLsbD i
      | .clear => old.getLsbD i && !value.getLsbD i
      | .toggle => old.getLsbD i != value.getLsbD i := by
  cases view <;> simp only [viewWrite, BitVec.getLsbD_or, BitVec.getLsbD_and, BitVec.getLsbD_not, BitVec.getLsbD_xor, bit, small, decide_true,
    Bool.not_true, Bool.true_and, Bool.and_true, Bool.and_false, Bool.false_or, bne]

theorem splitView_viewOffset {a : Nat} (view : View) (low : a % 0x1000 < 0x400) : splitView (a + viewOffset view) = (view, a) := by
  have page : (a + viewOffset view) % 0x1000 / 0x400 = (match view with | .plain => 0 | .set => 1 | .clear => 2 | .toggle => 3) := by
    cases view <;> simp only [viewOffset] <;> omega
  cases view <;> simp [splitView, page] <;> simp [viewOffset]

theorem barView_viewOffset {fn bar a : Nat} (view : View) (low : a % 0x1000 < 0x400) (viewed : unviewed fn bar (a + viewOffset view) = false) :
    barView fn bar (a + viewOffset view) = (view, a) := by
  rw [barView, viewed]
  exact splitView_viewOffset view low

theorem splitView_of_plain {a : Nat} (low : a % 0x1000 < 0x400) : splitView a = (.plain, a) :=
  splitView_viewOffset .plain low

theorem splitView_place (a : Nat) : (splitView a).2 % 0x1000 = a % 0x400 := by
  simp only [splitView]
  omega

theorem splitView_view (a : Nat) : (splitView a).1 = .plain ↔ a % 0x1000 < 0x400 := by
  constructor
  · intro plain
    rcases Nat.lt_or_ge (a % 0x1000) 0x400 with low | high
    · exact low
    have otherView : ¬ a % 0x1000 / 0x400 = 0 := by omega
    simp only [splitView, if_neg otherView] at plain
    split at plain
    · cases plain
    · split at plain <;> cases plain
  · intro low
    rw [splitView_of_plain low]

/-- Ring pages have all four views. -/
theorem barView_bar2 (fn a : Nat) : barView fn 2 a = splitView a := rfl

/-- A place of a page keeps its page and its offset in the plain view. -/
theorem barView_ringPage (fn page : Nat) {off : Nat} (view : View) (low : off < 0x400) :
    barView fn 2 (page * 0x1000 + (off + viewOffset view)) = (view, page * 0x1000 + off) := by
  rw [barView_bar2, ← Nat.add_assoc]
  exact splitView_viewOffset view (by omega)

/-! ### Plain registers -/

@[simp] theorem State.ideRefused_pf (s : State) (ide : Bool) : s.ideRefused 0 ide = false := rfl

/-- Each plain register stands below its page's aliases, and each of its views is one of R10. -/
theorem plainReg_viewed {a : Nat} {rw : Word32} (view : View) (h : (a, rw) ∈ plainRegs) :
    a % 0x1000 < 0x400 ∧ unviewed 0 0 (a + viewOffset view) = false := by
  have every : ∀ v ∈ [View.plain, .set, .clear, .toggle], ∀ p ∈ plainRegs,
      p.1 % 0x1000 < 0x400 ∧ unviewed 0 0 (p.1 + viewOffset v) = false := by decide
  exact every view (by cases view <;> decide) (a, rw) h

theorem plainReg_find {a : Nat} {rw : Word32} (h : (a, rw) ∈ plainRegs) : plainRegs.find? (fun r => r.1 == a) = some (a, rw) := by
  have every : ∀ p ∈ plainRegs, plainRegs.find? (fun r => r.1 == p.1) = some p := by decide
  exact every (a, rw) h

theorem State.pfWrite_plainReg (s : State) {a : Nat} {rw : Word32} (view : View) (value : Word32) (h : (a, rw) ∈ plainRegs) :
    s.pfWrite a view value = s.setReg a (viewWrite view (s.reg a) value rw) := by
  rw [State.pfWrite, plainReg_find h]

theorem exec_registerWrite_plainReg (s : State) {a : Nat} {rw value : Word32} {view : View} {ide : Bool} (normal : s.hif.safeMode = false)
    (h : (a, rw) ∈ plainRegs) :
    exec (.registerWrite 0 0 (a / 0x1000) (a % 0x1000 + viewOffset view) value ide) s
      = .next ((s.setReg a (viewWrite view (s.reg a) value rw)).settle s) := by
  obtain ⟨low, viewed⟩ := plainReg_viewed view h
  have address : a / 0x1000 * 0x1000 + (a % 0x1000 + viewOffset view) = a + viewOffset view := by omega
  change execRegisterWrite 0 0 _ _ _ _ _ = _
  simp [execRegisterWrite, address, barView_viewOffset view low viewed, normal, State.pfWrite_plainReg s view value h, answer]

/-! ### Ring pages -/

theorem exec_registerWrite_ringPage (s : State) (fn page : Nat) {off : Nat} (view : View) (value : Word32) (ide : Bool) (low : off < 0x400) :
    exec (.registerWrite fn 2 page (off + viewOffset view) value ide) s
      = .next ((s.ringWrite fn (page * 0x1000 + off) view value ide).settle s) := by
  change execRegisterWrite _ _ _ _ _ _ _ = _
  simp only [execRegisterWrite, barView_ringPage fn page view low, if_true, answer]

theorem page_of_place (page : Nat) {off : Nat} (low : off < 0x1000) :
    (page * 0x1000 + off) / 0x1000 = page ∧ (page * 0x1000 + off) % 0x1000 = off := by
  omega

/-- A write to a word of a ring page that is neither a doorbell nor HIF_RING_CMD. -/
theorem State.Reaches.ringWrite_eq {s : State} {fn page r off : Nat} {ide : Bool} (h : s.Reaches fn page ide r) (view : View)
    (value : Word32) (low : off < 0x400) (other : off ∉ [0x0, 0x4, 0x104]) :
    s.ringWrite fn (page * 0x1000 + off) view value ide
      = if (s.ring r).st = .disabled ∧ (s.ring r).write off view value ≠ s.ring r then s.setRing r ((s.ring r).write off view value)
        else s := by
  obtain ⟨pageEq, offEq⟩ := page_of_place page (off := off) (by omega)
  simp only [List.mem_cons, List.not_mem_nil, or_false, not_or] at other
  obtain ⟨notTail, notHead, notCmd⟩ := other
  simp only [State.ringWrite, pageEq, offEq, notTail, notHead, notCmd, if_false, h.reach_eq]

/-- HIF_RING_CMD in the plain view takes its value as it stands. -/
theorem exec_registerWrite_ringCmd (s : State) (fn page : Nat) (value : Word32) (ide : Bool) :
    exec (.registerWrite fn 2 page 0x104 value ide) s
      = .next ((s.ringCommand fn page ide (woValue .plain value)).settle s) := by
  refine (exec_registerWrite_ringPage s fn page (off := 0x104) .plain value ide (by decide)).trans ?_
  obtain ⟨pageEq, offEq⟩ := page_of_place page (off := 0x104) (by decide)
  simp only [State.ringWrite, pageEq, offEq, if_true, show ¬ (0x104 = 0) by decide, show ¬ (0x104 = 4) by decide, if_false]

theorem exec_registerWrite_tail (s : State) (fn page : Nat) (view : View) (value : Word32) (ide : Bool) :
    exec (.registerWrite fn 2 page (viewOffset view) value ide) s = exec (.hifDbSqTail fn page view value ide) s := by
  obtain ⟨pageEq, offEq⟩ := page_of_place page (off := 0) (by decide)
  have written := exec_registerWrite_ringPage s fn page (off := 0) view value ide (by decide)
  rw [Nat.zero_add] at written
  rw [written]
  simp only [State.ringWrite, pageEq, offEq, if_true]
  rfl

theorem exec_registerWrite_head (s : State) (fn page : Nat) (view : View) (value : Word32) (ide : Bool) :
    exec (.registerWrite fn 2 page (0x4 + viewOffset view) value ide) s = exec (.hifDbCqHead fn page view value ide) s := by
  obtain ⟨pageEq, offEq⟩ := page_of_place page (off := 0x4) (by decide)
  rw [exec_registerWrite_ringPage s fn page (off := 0x4) view value ide (by decide)]
  simp only [State.ringWrite, pageEq, offEq, show ¬ (0x4 = 0) by decide, if_false, if_true]
  rfl

/-! ### Reads -/

theorem exec_registerLowWordRead_of_normal {s : State} {fn bar offset : Nat} {ide : Bool} (normal : s.hif.safeMode = false)
    (stream : s.ideRefused fn ide = false) :
    exec (.registerLowWordRead fn ⟨bar, offset, ide⟩) s
      = .next (((s.wordRead fn bar (barView fn bar offset).2).2.emit
          (.pcieData fn .data (toLE 4 (s.wordRead fn bar (barView fn bar offset).2).1))).settle s) := by
  change execRegisterLowWordRead _ _ _ = _
  simp only [execRegisterLowWordRead, normal, stream, Bool.false_eq_true, if_false, answer]

theorem State.wordRead_low {s : State} {fn bar a v : Nat} (h : s.wide fn bar a = some v) :
    s.wordRead fn bar a = (v % 2 ^ 32, { s with hif := { s.hif with shadow := s.hif.shadow.put fn (BitVec.ofNat 32 (v / 2 ^ 32)) } }) := by
  rw [State.wordRead, h]

theorem State.wordRead_high {s : State} {fn bar a : Nat} (low : s.wide fn bar a = none) (above : 4 ≤ a)
    (high : (s.wide fn bar (a - 4)).isSome) : s.wordRead fn bar a = ((s.hif.shadow.get 0 fn).toNat, s) := by
  rw [State.wordRead, low]
  exact if_pos ⟨above, high⟩

theorem State.wordRead_word {s : State} {fn bar a : Nat} (low : s.wide fn bar a = none) (notHigh : a < 4 ∨ s.wide fn bar (a - 4) = none)
    (noPort : a < 0x401000 ∨ 0x401080 ≤ a) : s.wordRead fn bar a = (s.barWord fn bar a, s) := by
  have word : ¬ (4 ≤ a ∧ (s.wide fn bar (a - 4)).isSome) := by
    rintro ⟨above, high⟩
    rcases notHigh with small | none
    · omega
    · simp [none] at high
  simp only [State.wordRead, low, if_neg word, if_neg (show ¬ (fn = 0 ∧ bar = 0 ∧ 0x401000 ≤ a ∧ a < 0x401080) by omega)]

/-- In safe mode a doorbell through the plain view is counted, and no other write of a ring page does anything (R379). -/
theorem State.ringWrite_of_safeMode {s : State} (fn a : Nat) (view : View) (value : Word32) (ide : Bool) (safe : s.hif.safeMode = true) :
    s.ringWrite fn a view value ide = if view = .plain ∧ a % 0x1000 ∈ [0x0, 0x4] then s.tick1 hifDbDropped else s := by
  have dropped : ∀ page, s.reach fn page ide = .dropped := fun page => by simp [State.reach, safe]
  have noCommand : ∀ v, s.ringCommand fn (a / 0x1000) ide v = s := fun v => by
    simp only [State.ringCommand, State.ringCmd, dropped]
    split <;> rfl
  by_cases tail : a % 0x1000 = 0
  · simp [State.ringWrite, State.doorbell, dropped, tail]
  · by_cases head : a % 0x1000 = 4
    · simp [State.ringWrite, State.doorbell, dropped, head]
    · simp [State.ringWrite, dropped, noCommand, tail, head]

theorem exec_registerWrite_of_safeMode {s : State} (fn bar page offset : Nat) (value : Word32) (ide : Bool) (safe : s.hif.safeMode = true) :
    exec (.registerWrite fn bar page offset value ide) s
      = .next ((if bar = 2 ∧ offset % 0x1000 ∈ [0x0, 0x4] then s.tick1 hifDbDropped else s).settle s) := by
  change execRegisterWrite _ _ _ _ _ _ _ = _
  by_cases ringPage : bar = 2
  · subst ringPage
    have place := splitView_place (page * 0x1000 + offset)
    have view := splitView_view (page * 0x1000 + offset)
    have doorbell : (splitView (page * 0x1000 + offset)).1 = .plain ∧ (splitView (page * 0x1000 + offset)).2 % 0x1000 ∈ [0x0, 0x4]
        ↔ offset % 0x1000 ∈ [0x0, 0x4] := by
      simp only [place, view, List.mem_cons, List.not_mem_nil, or_false]
      omega
    simp only [execRegisterWrite, barView_bar2, if_true, State.ringWrite_of_safeMode _ _ _ _ _ safe, doorbell, true_and, answer]
  · simp [execRegisterWrite, ringPage, safe, answer]

theorem exec_registerLowWordRead_of_safeMode {s : State} (fn bar offset : Nat) (ide : Bool) (safe : s.hif.safeMode = true) :
    exec (.registerLowWordRead fn ⟨bar, offset, ide⟩) s
      = .next ((s.emit (.pcieData fn .data (toLE 4
          (if fn = 0 ∧ bar = 0 ∧ (barView fn bar offset).2 = 0 then s.hifStat else 0)))).settle s) := by
  change execRegisterLowWordRead _ _ _ = _
  simp only [execRegisterLowWordRead, safe, if_true, answer]

theorem exec_registerLowWordRead_of_refused {s : State} (fn bar offset : Nat) (ide : Bool) (normal : s.hif.safeMode = false)
    (off : s.ideRefused fn ide = true) :
    exec (.registerLowWordRead fn ⟨bar, offset, ide⟩) s = .next (((s.ideRefuse fn).emit (.pcieData fn .unsupported [])).settle s) := by
  change execRegisterLowWordRead _ _ _ = _
  simp only [execRegisterLowWordRead, normal, off, Bool.false_eq_true, if_false, if_true, answer]

/-- Settles O7: the views bit by bit, then each kind of register with its lemma. -/
theorem registerAccesses : Obligations.RegisterAccesses := by
  refine ⟨fun old value rw i small => ⟨fun readOnly v => viewWrite_readOnly v old value small readOnly, fun writable =>
      ⟨viewWrite_writable .plain old value small writable, viewWrite_writable .set old value small writable,
        viewWrite_writable .clear old value small writable, viewWrite_writable .toggle old value small writable⟩⟩,
    fun fn bar a view low viewed => barView_viewOffset view low viewed,
    fun s a rw value view ide normal plain => exec_registerWrite_plainReg s normal plain,
    fun s view value normal => ?_, fun s fn page off r view value ide reaches low other => ⟨fun disabled changes => ?_, fun kept => ?_⟩,
    fun s fn page value ide => ⟨fun view => ⟨exec_registerWrite_tail s fn page view value ide, exec_registerWrite_head s fn page view value ide⟩, exec_registerWrite_ringCmd .., exec_registerWrite_ringCmd ..,
      exec_registerWrite_ringCmd .., exec_registerWrite_ringCmd ..⟩,
    fun s fn bar offset a ide normal stream place => ?_,
    fun s a counter => ?_, fun s fn page r found => ⟨?_, ?_, fun off low => ?_⟩, fun s fn page off none low => ?_,
    fun s a rw plain => ?_, fun s fn bar page offset value ide => ⟨fun safe => ⟨exec_registerWrite_of_safeMode fn bar page offset value ide safe,
      exec_registerLowWordRead_of_safeMode fn bar offset ide safe⟩, fun normal off =>
      exec_registerLowWordRead_of_refused fn bar offset ide normal off⟩⟩
  · change execMemUeAckWrite view value s = _
    rw [execMemUeAckWrite, normal]
    rfl
  · rw [exec_registerWrite_ringPage s fn page view value ide low, reaches.ringWrite_eq view value low other, if_pos ⟨disabled, changes⟩]
  · rw [exec_registerWrite_ringPage s fn page view value ide low, reaches.ringWrite_eq view value low other, if_neg fun takes => kept.elim (fun on => on takes.1) takes.2]
  · subst place
    rw [exec_registerLowWordRead_of_normal normal stream]
    refine ⟨fun v wide => ?_, fun low above high => ?_, fun low notHigh noPort => ?_⟩
    · rw [State.wordRead_low wide]
    · rw [State.wordRead_high low above high]
    · rw [State.wordRead_word low notHigh noPort]
  · simp [State.wide, State.low64, counter]
  · obtain ⟨pageEq, offEq⟩ := page_of_place page (off := 0x110) (by decide)
    simp [State.wide, pageEq, offEq, found]
  · obtain ⟨pageEq, offEq⟩ := page_of_place page (off := 0x118) (by decide)
    simp [State.wide, pageEq, offEq, found]
  · obtain ⟨pageEq, offEq⟩ := page_of_place page low
    simp [State.barWord, pageEq, offEq, found]
  · obtain ⟨pageEq, offEq⟩ := page_of_place page low
    simp [State.barWord, pageEq, none]
  · have listed : (plainRegs.map Prod.fst).contains a = true := by
      rw [List.contains_iff_mem]
      exact List.mem_map_of_mem (f := Prod.fst) plain
    simp only [State.barWord, State.pfWord, listed, if_true]

end Sys2Proof.Machine
end

section
/-! Values that a floating-point format holds are encoded as they stand (spec/02 R33, R34, R45, R46). -/
namespace Sys2Proof.Machine

/-- The finite value of an encoding, by its sign, exponent and fraction fields (R33). -/
def FpParams.finite (p : FpParams) (neg : Bool) (ex fr : Nat) : Fp :=
  if ex = 0 then .fin neg fr (if fr = 0 then 0 else 1 - (p.bias : Int) - (p.fbits : Int))
  else .fin neg (2 ^ p.fbits + fr) ((ex : Int) - (p.bias : Int) - (p.fbits : Int))

/-- An encoding whose value is finite is read field by field. -/
theorem decodeFp_of_isFin {f : Fmt} {x : Nat} (fin : (decodeFp f x).isFin = true) :
    decodeFp f x = f.params.finite (bit x (f.params.ebits + f.params.fbits)) (bits x f.params.fbits f.params.ebits) (bits x 0 f.params.fbits) := by
  unfold decodeFp at fin ⊢
  dsimp only at fin ⊢
  split at fin
  · rfl
  · split at fin
    · cases fin
    next notNan => exact if_neg notNan
  next =>
    split at fin
    · split at fin <;> cases fin
    next notSpecial => exact if_neg notSpecial

/-- The floating-point formats of Table 2.1. -/
abbrev floatFormats : List Fmt := [Fmt.e4m3, .e5m2, .e2m1, .bf16, .fp16, .fp32, .fp64]

theorem width_eq_params {f : Fmt} (h : f ∈ floatFormats) : f.width = 1 + f.params.ebits + f.params.fbits := by
  have every : ∀ f ∈ floatFormats, f.width = 1 + f.params.ebits + f.params.fbits := by decide
  exact every f h

/-- The magnitude bits of an encoding are its exponent field above its fraction field. -/
theorem fields_eq_mod (x eb fb : Nat) : bits x fb eb * 2 ^ fb + bits x 0 fb = x % 2 ^ (eb + fb) := by
  simp only [bits, Nat.shiftRight_eq_div_pow, Nat.pow_zero, Nat.div_one]
  rw [Nat.add_comm eb, Nat.pow_add, Nat.mod_mul, Nat.mul_comm (x / 2 ^ fb % 2 ^ eb), Nat.add_comm]

/-- A finite encoding lies at or below the largest finite one (Table 2.2). -/
theorem magnitude_le_maxCode {f : Fmt} {x : Nat} (h : f ∈ floatFormats) (fin : (decodeFp f x).isFin = true) :
    x % 2 ^ (f.params.ebits + f.params.fbits) ≤ f.maxCode := by
  rw [← fields_eq_mod]
  have exSmall : bits x f.params.fbits f.params.ebits < 2 ^ f.params.ebits := Nat.mod_lt _ (Nat.two_pow_pos _)
  have frSmall : bits x 0 f.params.fbits < 2 ^ f.params.fbits := Nat.mod_lt _ (Nat.two_pow_pos _)
  have ieee : ∀ {ex fr : Nat} {neg : Bool} {v : Fp} {top : Nat}, (if ex = top then if fr = 0 then Fp.inf neg else .nan else v).isFin = true →
      ex ≠ top := by
    rintro ex fr neg v top fin rfl
    rw [if_pos rfl] at fin
    split at fin <;> cases fin
  simp only [floatFormats, List.mem_cons, List.not_mem_nil, or_false] at h
  rcases h with rfl | rfl | rfl | rfl | rfl | rfl | rfl
  · have notNan : ¬ (bits x 3 4 = 15 ∧ bits x 0 3 = 7) := fun nan => by
      simp [decodeFp, Fmt.params, nan, Fp.isFin] at fin
    simp only [Fmt.params, Fmt.maxCode] at *
    omega
  case inr.inr.inl =>
    simp only [Fmt.params, Fmt.maxCode] at *
    omega
  all_goals
    have notTop := ieee fin
    simp only [Fmt.params, Fmt.maxCode] at *
    omega

theorem bit_eq_decide_top {x n : Nat} (small : x < 2 ^ (1 + n)) : bit x n = decide (2 ^ n ≤ x) := by
  rw [bit, Nat.testBit_eq_decide_div_mod_eq]
  have twice : 2 ^ (1 + n) = 2 * 2 ^ n := by rw [Nat.add_comm, Nat.pow_succ, Nat.mul_comm]
  have top : x / 2 ^ n < 2 := Nat.div_lt_of_lt_mul (by omega)
  have reached : 2 ^ n ≤ x ↔ 1 ≤ x / 2 ^ n := by
    rw [Nat.le_div_iff_mul_le (Nat.two_pow_pos n), Nat.one_mul]
  rw [decide_eq_decide, reached]
  generalize x / 2 ^ n = y at top ⊢
  omega

/-- The sign bit over the magnitude gives the encoding back. -/
theorem signed_magnitude {f : Fmt} {x : Nat} (h : f ∈ floatFormats) (small : x < 2 ^ f.width) :
    f.signed (bit x (f.params.ebits + f.params.fbits)) (x % 2 ^ (f.params.ebits + f.params.fbits)) = x := by
  have width := width_eq_params h
  rw [Nat.add_assoc] at width
  rw [width] at small
  rw [bit_eq_decide_top small, Fmt.signed, width, Nat.add_sub_cancel_left]
  have twice : 2 ^ (1 + (f.params.ebits + f.params.fbits)) = 2 * 2 ^ (f.params.ebits + f.params.fbits) := by
    rw [Nat.add_comm 1, Nat.pow_succ, Nat.mul_comm]
  generalize 2 ^ (f.params.ebits + f.params.fbits) = k at *
  by_cases top : k ≤ x
  · simp only [top, decide_true, if_true]
    rw [Nat.mod_eq_sub_mod top, Nat.mod_eq_of_lt (by omega)]
    omega
  · simp only [top, decide_false, Bool.false_eq_true, if_false]
    exact Nat.mod_eq_of_lt (by omega)

/-- Rounding moves nothing where the value already stands at its own position. -/
theorem roundShift_zero (mode : Round) (neg : Bool) (u m : Nat) : roundShift mode neg u m 0 = (m, false) := by
  simp [roundShift]

/-- A nonzero value whose significand fits the format at its position `q` is encoded exactly. -/
theorem encodeFp_exact {f : Fmt} (mode : Round) (sat neg : Bool) (u : Nat) {m q k : Nat} (some : m ≠ 0)
    (position : max (Fp.expo m ((q : Int) + (1 - (f.params.bias : Int) - (f.params.fbits : Int))) - (f.params.fbits : Int))
        (1 - (f.params.bias : Int) - (f.params.fbits : Int)) = (q : Int) + (1 - (f.params.bias : Int) - (f.params.fbits : Int)))
    (code : q * 2 ^ f.params.fbits + m = k) (fits : k ≤ f.maxCode) :
    encodeFp f mode sat u (.fin neg m ((q : Int) + (1 - (f.params.bias : Int) - (f.params.fbits : Int)))) = (f.signed neg k, 0) := by
  have offset : ((q : Int) + (1 - (f.params.bias : Int) - (f.params.fbits : Int)) - (1 - (f.params.bias : Int) - (f.params.fbits : Int))).toNat = q := by
    omega
  simp only [encodeFp, some, if_false, position, Int.sub_self, roundShift_zero, offset, Nat.shiftLeft_eq, code, Nat.not_lt.mpr fits,
    Bool.false_and, Bool.false_eq_true]
  rfl

theorem log2_of_leading {m n : Nat} (low : 2 ^ n ≤ m) (high : m < 2 ^ (n + 1)) : Nat.log2 m = n :=
  (Nat.log2_eq_iff (by have := Nat.two_pow_pos n; omega)).mpr ⟨low, high⟩

/-- A finite value of a format is encoded by its own fields: zero, subnormal, normal. -/
theorem encodeFp_finite {f : Fmt} (mode : Round) (sat neg : Bool) (u : Nat) {ex fr : Nat} (frSmall : fr < 2 ^ f.params.fbits)
    (fits : ex * 2 ^ f.params.fbits + fr ≤ f.maxCode) :
    encodeFp f mode sat u (f.params.finite neg ex fr) = (f.signed neg (ex * 2 ^ f.params.fbits + fr), 0) := by
  unfold FpParams.finite
  by_cases sub : ex = 0
  · subst sub
    rw [if_pos rfl, Nat.zero_mul, Nat.zero_add] at *
    by_cases zero : fr = 0
    · subst zero
      rfl
    · have below : (Nat.log2 fr : Int) < f.params.fbits := by
        exact_mod_cast (Nat.log2_lt zero).mpr frSmall
      rw [if_neg zero]
      have exact := encodeFp_exact (f := f) mode sat neg u (q := 0) zero (by simp only [Fp.expo]; omega) (by rw [Nat.zero_mul, Nat.zero_add]) fits
      simpa using exact
  · rw [if_neg sub]
    have leading : Nat.log2 (2 ^ f.params.fbits + fr) = f.params.fbits :=
      log2_of_leading (Nat.le_add_right _ _) (by rw [Nat.pow_succ]; omega)
    have position : ((ex : Int) - (f.params.bias : Int) - (f.params.fbits : Int))
        = ((ex - 1 : Nat) : Int) + (1 - (f.params.bias : Int) - (f.params.fbits : Int)) := by
      omega
    rw [position]
    refine encodeFp_exact mode sat neg u (by have := Nat.two_pow_pos f.params.fbits; omega) ?_ ?_ fits
    · simp only [Fp.expo, leading]
      omega
    · obtain ⟨k, rfl⟩ := Nat.exists_eq_succ_of_ne_zero sub
      rw [Nat.succ_sub_one, Nat.succ_mul]
      omega

theorem nanCode_isNan {f : Fmt} {x : Nat} (h : f ∈ floatFormats) (nan : (decodeFp f x).isNan = true) :
    (decodeFp f f.nanCode).isNan = true := by
  have every : ∀ f ∈ floatFormats, f = .e2m1 ∨ (decodeFp f f.nanCode).isNan = true := by decide
  rcases every f h with rfl | canonical
  · simp only [decodeFp] at nan
    split at nan <;> cases nan
  · exact canonical

/-- E2M1 alone, which holds no NaN, raises a flag for one. -/
theorem encodeFp_nan {f : Fmt} {x : Nat} (mode : Round) (sat : Bool) (u : Nat) (nan : (decodeFp f x).isNan = true) :
    encodeFp f mode sat u (decodeFp f x) = (f.nanCode, 0) := by
  cases value : decodeFp f x with
  | nan =>
    cases f with
    | e2m1 =>
      simp only [decodeFp] at value
      split at value <;> cases value
    | _ => rfl
  | inf => rw [value] at nan; cases nan
  | fin => rw [value] at nan; cases nan

/-- Settles O14: a finite value is encoded by its own fields, a NaN by the canonical one. -/
theorem representableValuesAreKept : Obligations.RepresentableValuesAreKept := by
  intro f mode sat u x format small
  refine ⟨fun fin => ?_, fun nan => ⟨encodeFp_nan mode sat u nan, nanCode_isNan format nan⟩⟩
  have magnitude := fields_eq_mod x f.params.ebits f.params.fbits
  have fits := magnitude_le_maxCode format fin
  have frSmall : bits x 0 f.params.fbits < 2 ^ f.params.fbits := Nat.mod_lt _ (Nat.two_pow_pos _)
  rw [decodeFp_of_isFin fin, encodeFp_finite mode sat _ u frSmall (magnitude ▸ fits), magnitude,
    signed_magnitude format small]

end Sys2Proof.Machine
end

section
/-! Integer reductions over the tree of the ranks (spec/11 R326). -/
namespace Sys2Proof.Machine

theorem treeLevel_length {α : Type} (f : α → α → α × Flags) : ∀ l : List α, (treeLevel f l).1.length = (l.length + 1) / 2
  | [] => by simp [treeLevel]
  | [_] => by simp [treeLevel]
  | _ :: _ :: rest => by
    simp only [treeLevel, List.length_cons, treeLevel_length f rest]
    omega

/-- What each level keeps, the whole tree keeps: from a list of at most `2^fuel` values it leaves one, related to them, and no flag. -/
theorem treeReduce_of_levels {α : Type} {f : α → α → α × Flags} {R : List α → List α → Prop} {Ok : Nat → α → Prop}
    (refl : ∀ l, R l l) (trans : ∀ {a b c}, R a b → R b c → R a c)
    (level : ∀ n l, (∀ x ∈ l, Ok (n + 1) x) →
      (treeLevel f l).2 = 0 ∧ R l (treeLevel f l).1 ∧ ∀ x ∈ (treeLevel f l).1, Ok n x) :
    ∀ n l, l ≠ [] → l.length ≤ 2 ^ n → (∀ x ∈ l, Ok n x) → ∃ m, treeReduce f n l = ([m], 0) ∧ R l [m] := by
  have one : ∀ l : List α, l ≠ [] → l.length ≤ 1 → ∃ m, l = [m] := fun l some short =>
    List.length_eq_one_iff.mp (Nat.le_antisymm short (List.length_pos_iff.mpr some))
  intro n
  induction n with
  | zero =>
    intro l some short _
    obtain ⟨m, rfl⟩ := one l some short
    exact ⟨m, rfl, refl _⟩
  | succ n ih =>
    intro l some short ok
    by_cases single : l.length ≤ 1
    · obtain ⟨m, rfl⟩ := one l some single
      exact ⟨m, rfl, refl _⟩
    · obtain ⟨noFlag, related, ok'⟩ := level n l ok
      have half := treeLevel_length f l
      have left : (treeLevel f l).1 ≠ [] := List.length_pos_iff.mp (by omega)
      obtain ⟨m, reduced, related'⟩ := ih _ left (by rw [half]; rw [Nat.pow_succ] at short; omega) ok'
      refine ⟨m, ?_, trans related related'⟩
      rw [treeReduce, if_neg single]
      simp only [noFlag, reduced]
      rfl

theorem rankOrder_perm {α : Type} (id : Nat) (xs : List α) : (rankOrder id xs).Perm xs := by
  have swap := List.perm_append_comm (l₁ := xs.drop (id % xs.length)) (l₂ := xs.take (id % xs.length))
  rwa [List.take_append_drop] at swap

/-- The 64 bits of an integer within INT64 name it. -/
theorem signed_unsigned_64 {v : Int} (low : -(2 ^ 63) ≤ v) (high : v < 2 ^ 63) : signed (unsigned v 64) 64 = v := by
  have small : unsigned v 64 % 2 ^ 64 = unsigned v 64 := Nat.mod_eq_of_lt (by unfold unsigned; omega)
  have value : (unsigned v 64 : Int) = v % 2 ^ 64 := Int.toNat_of_nonneg (Int.emod_nonneg _ (by decide))
  unfold signed
  rw [small]
  push_cast
  split <;> omega

/-- A sum within INT64 is as it is, and raises nothing. -/
theorem op2Int_add {a b : Int} (low : -(2 ^ 63) ≤ a + b) (high : a + b < 2 ^ 63) : op2Int 0 true a b = (a + b, 0) := by
  have range : (-(2 ^ 63) : Int) ≤ a + b ∧ a + b ≤ 2 ^ 63 - 1 := ⟨low, by omega⟩
  simp only [op2Int, if_true, fitInt64, encodeInt, Fmt.intRange, if_pos range, Fmt.width, signed_unsigned_64 low high]

/-- A value `n` levels above the root of a tree of sums: were all its `2^n` neighbours as large, their sum would fit. -/
abbrev SumFits (n : Nat) (x : Int) : Prop := -(2 ^ 60) ≤ x * 2 ^ n ∧ x * 2 ^ n ≤ 2 ^ 60

theorem SumFits.bounds {n : Nat} {x : Int} (h : SumFits n x) : -(2 ^ 60) ≤ x ∧ x ≤ 2 ^ 60 := by
  obtain ⟨low, high⟩ := h
  have one : (1 : Int) ≤ 2 ^ n := Int.pow_pos (by decide)
  rcases Int.le_total 0 x with pos | neg
  · have grows := Int.mul_le_mul_of_nonneg_left one pos
    constructor <;> omega
  · have grows := Int.mul_le_mul_of_nonpos_left neg one
    constructor <;> omega

theorem mul_two_pow_succ (x : Int) (n : Nat) : x * 2 ^ (n + 1) = 2 * (x * 2 ^ n) := by
  rw [Int.pow_succ, ← Int.mul_assoc, Int.mul_comm _ 2]

theorem SumFits.of_succ {n : Nat} {x : Int} (h : SumFits (n + 1) x) : SumFits n x := by
  have twice := mul_two_pow_succ x n
  obtain ⟨low, high⟩ := h
  constructor <;> omega

theorem SumFits.add {n : Nat} {a b : Int} (ha : SumFits (n + 1) a) (hb : SumFits (n + 1) b) : SumFits n (a + b) := by
  have sum : (a + b) * 2 ^ n = a * 2 ^ n + b * 2 ^ n := Int.add_mul _ _ _
  obtain ⟨lowA, highA⟩ := ha
  obtain ⟨lowB, highB⟩ := hb
  rw [mul_two_pow_succ] at *
  constructor <;> omega

theorem treeLevel_add (n : Nat) : ∀ l : List Int, (∀ x ∈ l, SumFits (n + 1) x) →
    (treeLevel (op2Int 0 true) l).2 = 0 ∧ l.sum = (treeLevel (op2Int 0 true) l).1.sum
      ∧ ∀ x ∈ (treeLevel (op2Int 0 true) l).1, SumFits n x
  | [], _ => by simp [treeLevel]
  | [x], ok => by simpa [treeLevel] using (ok x List.mem_cons_self).of_succ
  | a :: b :: rest, ok => by
    obtain ⟨noFlag, sum, ok'⟩ := treeLevel_add n rest fun x h => ok x (by simp [h])
    have fits : SumFits n (a + b) := (ok a (by simp)).add (ok b (by simp))
    obtain ⟨low, high⟩ := fits.bounds
    have added : op2Int 0 true a b = (a + b, 0) := op2Int_add (by omega) (by omega)
    simp only [treeLevel, added, noFlag, List.sum_cons, sum, List.mem_cons, forall_eq_or_imp]
    exact ⟨rfl, (Int.add_assoc _ _ _).symm, fits, ok'⟩

/-- The values of `l'` are among those of `l`, and what stands in order `r` to all of them does to all of `l`. -/
structure SameBounds (r : Int → Int → Prop) (l l' : List Int) : Prop where
  among : ∀ x ∈ l', x ∈ l
  bounds : ∀ c, (∀ x ∈ l', r c x) → ∀ x ∈ l, r c x

theorem SameBounds.refl (r : Int → Int → Prop) (l : List Int) : SameBounds r l l := ⟨fun _ h => h, fun _ h => h⟩

theorem SameBounds.trans {r : Int → Int → Prop} {a b c : List Int} (h : SameBounds r a b) (k : SameBounds r b c) : SameBounds r a c :=
  ⟨fun x hx => h.among x (k.among x hx), fun d hd => h.bounds d (k.bounds d hd)⟩

/-- A level that joins neighbours by a choice between them keeps the bounds. -/
theorem treeLevel_choice {f : Int → Int → Int × Flags} {g : Int → Int → Int} {r : Int → Int → Prop} (exact : ∀ a b, f a b = (g a b, 0))
    (chosen : ∀ a b, g a b = a ∨ g a b = b) (both : ∀ c a b, r c (g a b) → r c a ∧ r c b) :
    ∀ l : List Int, (treeLevel f l).2 = 0 ∧ SameBounds r l (treeLevel f l).1
  | [] => by simpa [treeLevel] using SameBounds.refl r []
  | [x] => by simpa [treeLevel] using SameBounds.refl r [x]
  | a :: b :: rest => by
    obtain ⟨noFlag, kept⟩ := treeLevel_choice exact chosen both rest
    simp only [treeLevel, exact, noFlag]
    refine ⟨rfl, fun x member => ?_, fun c bound x member => ?_⟩
    · rcases List.mem_cons.mp member with rfl | member
      · rcases chosen a b with same | same <;> simp [same]
      · simp [kept.among x member]
    · obtain ⟨first, others⟩ := List.forall_mem_cons.mp bound
      obtain ⟨left, right⟩ := both c a b first
      simp only [List.mem_cons] at member
      rcases member with rfl | rfl | member
      · exact left
      · exact right
      · exact kept.bounds c others x member

theorem sum_of_perm {l l' : List Int} (perm : l.Perm l') : l.sum = l'.sum := by
  rw [List.sum_eq_foldr, List.sum_eq_foldr]
  exact perm.foldr_eq' (fun x _ y _ z => Int.add_left_comm y x z) 0

section
variable {id : Nat} {xs : List Int} (some : xs ≠ []) (short : xs.length ≤ 512)
include some short

/-- The choice that is left over the ranks is one rank's element and a bound of all. -/
theorem treeReduce_choice {f : Int → Int → Int × Flags} {g : Int → Int → Int} {r : Int → Int → Prop} (reflexive : ∀ a, r a a)
    (exact : ∀ a b, f a b = (g a b, 0)) (chosen : ∀ a b, g a b = a ∨ g a b = b) (both : ∀ c a b, r c (g a b) → r c a ∧ r c b) :
    ∃ m, treeReduce f 9 (rankOrder id xs) = ([m], 0) ∧ m ∈ xs ∧ ∀ x ∈ xs, r m x := by
  have perm := rankOrder_perm id xs
  have there : rankOrder id xs ≠ [] := fun empty => some (List.nil_perm.mp (empty ▸ perm))
  obtain ⟨m, reduced, kept⟩ := treeReduce_of_levels (Ok := fun _ _ => True) (SameBounds.refl r) SameBounds.trans
    (fun _ l _ => ⟨(treeLevel_choice exact chosen both l).1, (treeLevel_choice exact chosen both l).2, fun _ _ => trivial⟩)
    9 (rankOrder id xs) there (by rw [perm.length_eq]; exact short) (fun _ _ => trivial)
  refine ⟨m, reduced, perm.mem_iff.mp (kept.among m List.mem_cons_self), fun x member => ?_⟩
  refine kept.bounds m (fun y same => ?_) x (perm.mem_iff.mpr member)
  rw [List.mem_singleton.mp same]
  exact reflexive m

theorem treeReduce_sum (small : ∀ x ∈ xs, -(2 ^ 40) ≤ x ∧ x ≤ 2 ^ 40) : treeReduce (op2Int 0 true) 9 (rankOrder id xs) = ([xs.sum], 0) := by
  have perm := rankOrder_perm id xs
  have there : rankOrder id xs ≠ [] := fun empty => some (List.nil_perm.mp (empty ▸ perm))
  obtain ⟨m, reduced, sum⟩ := treeReduce_of_levels (R := fun l l' => l.sum = l'.sum) (Ok := SumFits) (fun _ => rfl) Eq.trans treeLevel_add
    9 (rankOrder id xs) there (by rw [perm.length_eq]; exact short) fun x member => by
      obtain ⟨low, high⟩ := small x (perm.mem_iff.mp member)
      constructor <;> omega
  rw [reduced, ← sum_of_perm perm, sum, List.sum_singleton]

end

/-- Settles O45: ADD keeps the sum of a level, MIN and MAX its bounds; the order of the ranks is one of the same elements. -/
theorem integerReductions : Obligations.IntegerReductions := by
  intro id xs some short small
  refine ⟨treeReduce_sum some short small, ?_, ?_⟩
  · exact treeReduce_choice some short (g := min) (r := (· ≤ ·)) Int.le_refl (fun _ _ => rfl) (fun a b => by omega) fun _ _ _ => Int.le_min.mp
  · exact treeReduce_choice some short (g := max) (r := (· ≥ ·)) Int.le_refl (fun _ _ => rfl) (fun a b => by omega) fun _ _ _ => Int.max_le.mp

end Sys2Proof.Machine
end

section
/-! Little-endian fields of structures, and the record that a commit writes (spec/00 R6, R17; spec/15 R421, R422). -/
namespace Sys2Proof.Machine

@[simp] theorem toLE_length : ∀ n x, (toLE n x).length = n
  | 0, _ => rfl
  | n + 1, x => congrArg (· + 1) (toLE_length n (x / 256))

theorem ofLE_toLE : ∀ n x, ofLE (toLE n x) = x % 256 ^ n
  | 0, x => (Nat.mod_one x).symm
  | n + 1, x => by
    rw [toLE, ofLE, ofLE_toLE n (x / 256), Nat.pow_succ', Nat.mod_mul, BitVec.toNat_ofNat]

/-- A field of a structure that is laid out as its pieces, one after another. -/
theorem field_at {off n x : Nat} {before after : List Byte} (place : before.length = off) (small : x < 256 ^ n) :
    field (before ++ (toLE n x ++ after)) off n = x := by
  rw [field, ← place, List.drop_left, List.take_left' (toLE_length n x), ofLE_toLE, Nat.mod_eq_of_lt small]

theorem putBytes_at {off : Nat} {before old new after : List Byte} (place : before.length = off) (size : new.length = old.length) :
    putBytes (before ++ (old ++ after)) off new = before ++ (new ++ after) := by
  rw [putBytes, ← place, List.take_left, size, ← List.drop_drop, List.drop_left, List.drop_left, List.append_assoc]

theorem crcBit_lt {c : Nat} (h : c < 2 ^ 32) : crcBit c < 2 ^ 32 := by
  unfold crcBit
  split
  · exact Nat.xor_lt_two_pow (by omega) (by decide)
  · omega

theorem crcByte_lt {c : Nat} (b : Byte) (h : c < 2 ^ 32) : crcByte c b < 2 ^ 32 := by
  have mixed : c ^^^ b.toNat < 2 ^ 32 := Nat.xor_lt_two_pow h (Nat.lt_of_lt_of_le b.isLt (by decide))
  exact crcBit_lt (crcBit_lt (crcBit_lt (crcBit_lt (crcBit_lt (crcBit_lt (crcBit_lt (crcBit_lt mixed)))))))

theorem crc32c_lt (bs : List Byte) : crc32c bs < 2 ^ 32 :=
  Nat.xor_lt_two_pow (List.foldlRecOn (motive := (· < 2 ^ 32)) bs _ (by decide) fun _ h b _ => crcByte_lt b h) (by decide)

/-- The value of an entry stands padded to whole words. -/
theorem entryEncode_length (e : StoreEntry) : (entryEncode e).length % 4 = 0 := by
  simp only [entryEncode, List.length_append, toLE_length, List.length_replicate, roundUp, ceilDiv]
  omega

theorem flatMap_entryEncode_length (es : List StoreEntry) : (es.flatMap entryEncode).length % 4 = 0 := by
  induction es with
  | nil => rfl
  | cons e es ih =>
    have first := entryEncode_length e
    rw [List.flatMap_cons, List.length_append]
    omega

/-- What stands before the COMMIT field of a record, and after it up to its CRC. -/
def recordHead (seq : Nat) (es : List StoreEntry) : List Byte :=
  toLE 4 0x5254534B ++ (toLE 2 1 ++ (toLE 2 0 ++ (toLE 4 seq ++ (toLE 4 (64 + (es.flatMap entryEncode).length + 4) ++ toLE 4 es.length))))
def recordRest (inc : Nat) (es : List StoreEntry) : List Byte :=
  toLE 4 inc ++ (List.replicate 36 0#8 ++ es.flatMap entryEncode)

@[simp] theorem recordHead_length (seq : Nat) (es : List StoreEntry) : (recordHead seq es).length = 20 := by
  simp [recordHead]

theorem recordRest_length (inc : Nat) (es : List StoreEntry) : (recordRest inc es).length = 40 + (es.flatMap entryEncode).length := by
  simp only [recordRest, List.length_append, toLE_length, List.length_replicate]
  omega

theorem recordBytes_eq (seq inc commit : Nat) (es : List StoreEntry) :
    recordBytes seq inc commit es = recordHead seq es ++ (toLE 4 commit ++ (recordRest inc es
      ++ toLE 4 (crc32c (recordHead seq es ++ (toLE 4 0xFFFFFFFF ++ recordRest inc es))))) := by
  simp only [recordBytes, recordHead, recordRest, List.append_assoc]

/-- The fields of a committed record before its COMMIT field. -/
theorem committed_fields {seq : Nat} {es : List StoreEntry} (size : 64 + (es.flatMap entryEncode).length + 4 ≤ 2 ^ 20) (after : List Byte) :
    field (recordHead seq es ++ after) 0 4 = 0x5254534B ∧ field (recordHead seq es ++ after) 4 2 = 1
    ∧ field (recordHead seq es ++ after) 0x0C 4 = 64 + (es.flatMap entryEncode).length + 4 := by
  simp only [recordHead, List.append_assoc]
  refine ⟨field_at (before := []) rfl (by decide), field_at (before := toLE 4 0x5254534B) rfl (by decide), ?_⟩
  have front := field_at (before := toLE 4 0x5254534B ++ (toLE 2 1 ++ (toLE 2 0 ++ toLE 4 seq))) (off := 0x0C) (n := 4)
    (x := 64 + (es.flatMap entryEncode).length + 4) (after := toLE 4 es.length ++ after) (by simp) (by omega)
  simpa only [List.append_assoc] using front

/-- Settles O55: each field that R422 compares, at its place; the CRC takes COMMIT as all ones, as the check does. -/
theorem committedRecordsAreValid : Obligations.CommittedRecordsAreValid := by
  intro seq inc es size
  have words := flatMap_entryEncode_length es
  have rest := recordRest_length inc es
  have head := recordHead_length seq es
  have replaced : ∀ (v : Nat) (after : List Byte), putBytes (recordHead seq es ++ (toLE 4 v ++ after)) 0x14 (toLE 4 0) =
      recordHead seq es ++ (toLE 4 0 ++ after) := fun v after => putBytes_at head (by simp)
  rw [recordBytes_eq, replaced, bankValid_iff]
  generalize crc : crc32c (recordHead seq es ++ (toLE 4 0xFFFFFFFF ++ recordRest inc es)) = c
  have crcSmall : c < 256 ^ 4 := crc ▸ crc32c_lt _
  obtain ⟨magic, version, len⟩ := committed_fields (seq := seq) size (toLE 4 0 ++ (recordRest inc es ++ toLE 4 c))
  rw [len, Nat.add_sub_cancel]
  have covered : (recordHead seq es ++ (toLE 4 0 ++ recordRest inc es)).length = 64 + (es.flatMap entryEncode).length := by
    simp only [List.length_append, toLE_length, head, rest]
    omega
  have whole : recordHead seq es ++ (toLE 4 0 ++ (recordRest inc es ++ toLE 4 c))
      = (recordHead seq es ++ (toLE 4 0 ++ recordRest inc es)) ++ (toLE 4 c ++ []) := by
    simp only [List.append_assoc, List.append_nil]
  refine ⟨magic, version, by omega, by omega, by omega, ?_, field_at head (by decide), ?_⟩
  · rw [whole, List.length_append, covered]
    rfl
  · rw [whole, field_at covered crcSmall, List.take_left' covered, putBytes_at head (by simp), crc]

end Sys2Proof.Machine
end

section
/-! What accesses to memory leave of the rest of the device (spec/10 R251, R253; spec/04 R102; spec/16 R437). -/
namespace Sys2Proof.Machine

/-- `t` is `s` after accesses to memory: beside the memory itself they count, log, send messages and note statuses at stages. -/
structure State.Accessed (s t : State) : Prop where
  state : t = { s with
    mem := t.mem, ctrs := t.ctrs, evlog := t.evlog, out := t.out
    hif := { s.hif with msix := t.hif.msix }, sec := { s.sec with denials := t.sec.denials }, dsp := { s.dsp with stages := t.dsp.stages } }
  stages : ∀ n, t.stage n = (s.stage n).map fun st => { st with met := ((t.stage n).map Stage.met).getD [] }

theorem State.stages_of_same {s t : State} (h : t.dsp.stages = s.dsp.stages) (n : Nat) :
    t.stage n = (s.stage n).map fun st => { st with met := ((t.stage n).map Stage.met).getD [] } := by
  have same : t.stage n = s.stage n := by rw [State.stage, h]; rfl
  rw [same]
  cases s.stage n <;> rfl

theorem State.Accessed.refl (s : State) : s.Accessed s := ⟨rfl, State.stages_of_same rfl⟩

theorem State.Accessed.trans {s t u : State} (h : s.Accessed t) (k : t.Accessed u) : s.Accessed u := by
  refine ⟨by rw [k.state, h.state], fun n => ?_⟩
  rw [k.stages n, h.stages n]
  cases s.stage n <;> rfl

/-- An access that leaves the stages alone. -/
theorem State.Accessed.of_state {s t : State} (h : t = { s with
    mem := t.mem, ctrs := t.ctrs, evlog := t.evlog, out := t.out
    hif := { s.hif with msix := t.hif.msix }, sec := { s.sec with denials := t.sec.denials } }) : s.Accessed t :=
  ⟨by rw [h], State.stages_of_same (by rw [h])⟩

section
variable {s t : State} (h : s.Accessed t)
include h

theorem State.Accessed.hif_rings : t.hif.rings = s.hif.rings := by rw [h.state]
theorem State.Accessed.cores : t.cores = s.cores := by rw [h.state]
theorem State.Accessed.kv : t.kv = s.kv := by rw [h.state]
theorem State.Accessed.time : t.time = s.time := by rw [h.state]
theorem State.Accessed.lnk : t.lnk = s.lnk := by rw [h.state]
theorem State.Accessed.flt : t.flt = s.flt := by rw [h.state]
theorem State.Accessed.ring (r : Nat) : t.ring r = s.ring r := by rw [State.ring, h.hif_rings]; rfl

theorem State.Accessed.tick1 (a : Nat) : s.Accessed (t.tick1 a) := h.trans (.of_state rfl)

theorem State.Accessed.log (code source data : Nat) (w : Bool) : s.Accessed (t.log code source data w) := h.trans (.of_state rfl)

theorem State.Accessed.emit (m : OutMsg) : s.Accessed (t.emit m) := h.trans (.of_state rfl)

theorem State.Accessed.stall : s.Accessed t.stall := h.trans (.of_state rfl)

theorem State.Accessed.msix (f v : Nat) : s.Accessed (t.msix f v) := by
  refine h.trans ?_
  rcases t.msix_cases f v with e | e | e | e <;> rw [e] <;> exact .of_state rfl

theorem State.Accessed.notifySecure : s.Accessed t.notifySecure := by
  unfold State.notifySecure
  dsimp only
  split
  · exact h.msix _ _
  · exact h

theorem State.Accessed.logDenial (fn : Nat) (w : Bool) (d a : Nat) : s.Accessed (t.logDenial fn w d a) := by
  refine h.trans ?_
  unfold State.logDenial
  dsimp only
  split <;> exact .of_state rfl

theorem State.Accessed.deny (w : Bool) (fn a : Nat) : s.Accessed (t.deny w fn a) := by
  unfold State.deny
  split
  · exact h
  next i g _ =>
    have logged := h.logDenial fn w i a
    dsimp only
    split
    · exact (logged.tick1 secDeniedOut).notifySecure
    · split
      · exact (logged.tick1 secDeniedIn).notifySecure
      · exact logged.tick1 secDeniedOpen

theorem State.Accessed.poisonRead (w : Bool) (fn a : Nat) : s.Accessed (t.poisonRead w fn a) := by
  have logged := h.log 0x0102 fn a w
  unfold State.poisonRead
  dsimp only
  split
  · exact (logged.tick1 secPoisonRead).notifySecure
  · exact logged.tick1 memPoisonRead

theorem State.Accessed.meet (n : Option Nat) (status : Nat) : s.Accessed (t.meet n status) := by
  refine h.trans ?_
  unfold State.meet
  split
  · exact .refl t
  next n =>
    split
    · exact .refl t
    next st found =>
      split
      · exact .refl t
      · refine ⟨rfl, fun m => ?_⟩
        by_cases same : n = m
        · subst same
          simp [found]
        · simp only [State.setStage_stage, if_neg same]
          exact State.stages_of_same rfl m

theorem State.Accessed.meet_ite (n : Option Nat) (status : Nat) : s.Accessed (if status = 0 then t else t.meet n status) := by
  split
  · exact h
  · exact h.meet n status

theorem State.Accessed.evict (g : GLine) : s.Accessed (t.evict g) := by
  refine h.trans ?_
  unfold State.evict State.writeback
  repeat' split
  all_goals exact .of_state rfl

theorem State.Accessed.makeRoom (l : Nat) (cls : LineClass) : s.Accessed (t.makeRoom l cls) := by
  unfold State.makeRoom
  dsimp only
  split
  · split
    · exact h.evict _
    · exact h
  split
  · split
    · exact h.evict _
    · exact h
  · exact h

theorem State.Accessed.allocate (l hint : Nat) (mark : Option Nat) : s.Accessed (t.allocate l hint mark) :=
  (h.makeRoom l ((t.hintClass hint).getD .normal)).trans (.of_state rfl)

theorem State.Accessed.touchRead (l hint : Nat) (who : Option Nat) : s.Accessed (t.touchRead l hint who) := by
  unfold State.touchRead
  split
  · exact (h.tick1 grnHit).trans (.of_state rfl)
  · exact (h.tick1 grnMiss).allocate l hint _

theorem State.Accessed.touchWrite (l a : Nat) (bs : List Byte) (hint : Nat) (who : Option Nat) :
    s.Accessed (t.touchWrite l a bs hint who).2 := by
  have resident : s.Accessed (match t.resident l with
      | some g => (t.tick1 grnHit).hit g hint who true
      | none => (t.tick1 grnMiss).allocate l hint none) := by
    split
    · exact (h.tick1 grnHit).trans (.of_state rfl)
    · exact (h.tick1 grnMiss).allocate l hint none
  unfold State.touchWrite
  dsimp only
  split
  · exact h
  · split
    · exact resident.trans (.of_state rfl)
    · exact resident.trans (.of_state rfl)

theorem State.Accessed.lineGet (a n hint : Nat) (mark : Option Nat) : s.Accessed (t.lineGet a n hint mark).2.2 := by
  unfold State.lineGet
  dsimp only
  repeat' split
  · exact h.stall
  · exact h.tick1 grnMiss
  · exact h.touchRead _ hint mark
  · exact h.touchRead _ hint mark

theorem State.Accessed.shareBlock (n a : Nat) (bs : List Byte) : s.Accessed (t.shareBlock n a bs) := by
  unfold State.shareBlock
  extract_lets ring here mine foreign old0 old late rest new src u
  have noted : s.Accessed u := h.trans (.of_state rfl)
  split
  · exact List.foldlRecOn (motive := s.Accessed) _ _ noted fun _ hv _ _ => hv.trans (.of_state rfl)
  · exact noted

theorem State.Accessed.share (who : Option Nat) (a : Nat) (bs : List Byte) : s.Accessed (t.share who a bs) := by
  unfold State.share
  split
  · exact h
  next n => exact List.foldlRecOn (motive := s.Accessed) _ _ h fun _ hv p _ => hv.shareBlock n p.1 _

theorem State.Accessed.readPiece (who : Requester) (a n hint : Nat) : s.Accessed (t.readPiece who a n hint).2.2 := by
  unfold State.readPiece
  extract_lets l zeros u st
  split
  · split
    · exact h.poisonRead _ _ _
    · split
      · exact (h.emit _).poisonRead _ _ _
      · exact h.emit _
  · exact h
  · split
    · dsimp only
      split
      · exact h.deny _ _ _
      · exact h
    · have got := h.lineGet a n hint who.stage
      generalize t.lineGet a n hint who.stage = r at got ⊢
      obtain ⟨bs, bad, u⟩ := r
      dsimp only
      split
      · exact got.poisonRead _ _ _
      · exact got

theorem State.Accessed.writePiece (who : Requester) (a : Nat) (bs : List Byte) (hint : Nat) : s.Accessed (t.writePiece who a bs hint).2 := by
  unfold State.writePiece
  extract_lets l
  split
  · split
    · exact h
    · exact h.trans (.of_state rfl)
  · exact h
  · split
    · dsimp only
      split
      · exact h.deny _ _ _
      · exact h
    · split
      · exact h.stall
      · split
        · exact h
        · have written := h.touchWrite (a / 256) a bs hint who.stage
          generalize t.touchWrite l a bs hint who.stage = r at written ⊢
          obtain ⟨discarded, u⟩ := r
          dsimp only
          split
          · exact written
          · exact written.share _ _ _

theorem State.Accessed.readFor (who : Requester) (a n hint : Nat) : s.Accessed (t.readFor who a n hint).2 := by
  have start : s.Accessed (([], t) : List Byte × State).2 := h
  exact List.foldlRecOn (motive := fun acc : List Byte × State => s.Accessed acc.2) _ _ start
    fun _ hacc p _ => (hacc.readPiece who p.1 p.2 hint).meet_ite _ _

theorem State.Accessed.writeFor (who : Requester) (a : Nat) (bs : List Byte) (hint : Nat) : s.Accessed (t.writeFor who a bs hint) :=
  List.foldlRecOn (motive := s.Accessed) _ _ h fun _ hu p _ => (hu.writePiece who p.1 _ hint).meet_ite _ _

end

end Sys2Proof.Machine
end

section
/-! Ring commands and the reset of a ring (spec/14 R386, Table 14.5, R395; spec/18 R479). -/
namespace Sys2Proof.Machine

/-! ### Status words whose bits only fall -/

theorem bit_wordOf : ∀ (l : List Bool) (i : Nat), bit (wordOf l) i = l.getD i false
  | [], i => by simp [bit, wordOf]
  | b :: l, 0 => by cases b <;> simp [bit, wordOf, b2n, Nat.testBit_zero]
  | b :: l, i + 1 => by
    have shifted : (b2n b + 2 * wordOf l) / 2 = wordOf l := by
      cases b <;> simp only [b2n, if_true, if_false, Bool.false_eq_true] <;> omega
    rw [bit, wordOf, Nat.testBit_succ, shifted, List.getD_cons_succ, ← bit_wordOf l i, bit]

/-- Where no bit of a block's status rises and its enables stand, no bit has an edge. -/
theorem risingEdges_of_falling {stat : State → Nat} {en : Nat} {old new : State} (enable : new.reg en = old.reg en)
    (falling : ∀ i, bit (stat new) i = true → bit (stat old) i = true) : risingEdges stat en old new = [] := by
  refine List.eq_nil_iff_forall_not_mem.mpr fun i member => ?_
  obtain ⟨-, status, enabled, new⟩ := mem_risingEdges.mp member
  exact new ⟨falling i status, enable ▸ enabled⟩

theorem Map.get_mem {κ α : Type} [DecidableEq κ] : ∀ {m : Map κ α} {d : α} {k : κ}, m.get d k ≠ d → (k, m.get d k) ∈ m
  | [], _, _, h => absurd rfl h
  | (k', a) :: m, d, k, h => by
    unfold Map.get at h ⊢
    split at h <;> rename_i same
    · subst same
      simp
    · simp only [if_neg same]
      exact List.mem_cons_of_mem _ (Map.get_mem h)

/-- An entry of a table after one is put is that one or an entry of the table before. -/
theorem Map.mem_put {κ α : Type} [DecidableEq κ] : ∀ {m : Map κ α} {k : κ} {a : α} {p : κ × α}, p ∈ m.put k a → p = (k, a) ∨ p ∈ m
  | [], _, _, _, h => .inl (List.mem_singleton.mp h)
  | (k', b) :: m, k, a, p, h => by
    unfold Map.put at h
    split at h
    · exact (List.mem_cons.mp h).imp id (List.mem_cons_of_mem _)
    · rcases List.mem_cons.mp h with rfl | h
      · exact .inr List.mem_cons_self
      · exact (Map.mem_put h).imp id (List.mem_cons_of_mem _)

/-- A ring that is not DISABLED is listed. -/
theorem State.ring_mem {s : State} {r : Nat} (enabled : (s.ring r).st ≠ .disabled) : (r, s.ring r) ∈ s.hif.rings :=
  Map.get_mem fun same => enabled (congrArg Ring.st same)

/-- Changing one ring so that RING_STOPPED does not rise raises no interrupt. -/
theorem State.settle_setRing {s : State} {r : Nat} {x : Ring} (stops : x.st = .stopped → (s.ring r).st = .stopped) :
    (s.setRing r x).settle s = s.setRing r x := by
  have reached : ((s.setRing r x).mem.stalled && !s.mem.stalled) = false := Bool.and_not_self _
  have fewer : ((s.setRing r x).hif.rings.any fun p => p.2.st == .stopped) = true → (s.hif.rings.any fun p => p.2.st == .stopped) = true := by
    simp only [List.any_eq_true, beq_iff_eq]
    rintro ⟨p, member, stopped⟩
    rcases Map.mem_put member with rfl | before
    · have was := stops stopped
      exact ⟨_, State.ring_mem (by simp [was]), was⟩
    · exact ⟨p, before, stopped⟩
  rw [State.settle_of_kvStat reached rfl]
  refine State.raiseEdges_of_none fun b member => ?_
  simp only [statBlocks, List.mem_cons, List.not_mem_nil, or_false] at member
  rcases member with rfl | rfl | rfl | rfl | rfl | rfl
  · refine risingEdges_of_falling rfl fun i => ?_
    simp only [State.hifStat, bit_wordOf, State.setRing_hif_notReady, State.setRing_hif_safeMode]
    match i with
    | 0 | 1 | 3 => exact id
    | 2 => exact fewer
    | _ + 4 => exact id
  all_goals exact risingEdges_of_falling rfl fun i => id

/-! ### Commands of a ring that a function reaches -/

section
variable {s : State} {fn page r : Nat} {ide : Bool} (h : s.Reaches fn page ide r)
include h

theorem State.Reaches.ringCmd_eq (act : Nat → Ring → Option State) :
    s.ringCmd fn page ide act = (act r (s.ring r)).getD (s.tick1 hifCmdIgnored) := by
  rw [State.ringCmd, h.reach_eq]

theorem State.Reaches.exec_enable :
    exec (.enable fn page ide) s = .next (((s.enableRing fn r (s.ring r)).getD (s.tick1 hifCmdIgnored)).settle s) := by
  change answer s (s.ringCmd fn page ide _) = _
  rw [h.ringCmd_eq]
  rfl

theorem State.Reaches.exec_resume :
    exec (.resume fn page ide) s = .next (((s.resumeRing r (s.ring r)).getD (s.tick1 hifCmdIgnored)).settle s) := by
  change answer s (s.ringCmd fn page ide _) = _
  rw [h.ringCmd_eq]
  rfl

theorem State.Reaches.exec_drain :
    exec (.drain fn page ide) s = .next (((s.drainCmd r (s.ring r)).getD (s.tick1 hifCmdIgnored)).settle s) := by
  change answer s (s.ringCmd fn page ide _) = _
  rw [h.ringCmd_eq]
  rfl

theorem State.Reaches.exec_reset :
    exec (.reset fn page ide) s = .next (((s.resetCmd r (s.ring r)).getD (s.tick1 hifCmdIgnored)).settle s) := by
  change answer s (s.ringCmd fn page ide _) = _
  rw [h.ringCmd_eq]
  rfl

end

theorem State.enableRing_of_ignored {s : State} {r : Nat} {x : Ring} (fn : Nat) (ignored : x.st ≠ .disabled ∨ s.fatal = true) :
    s.enableRing fn r x = none := by
  refine if_neg fun taken => ?_
  rcases ignored with enabled | fatal
  · exact enabled taken.1
  · exact taken.2 fatal

theorem State.resumeRing_of_ignored {s : State} {r : Nat} {x : Ring} (ignored : x.st ≠ .stopped ∨ s.fatal = true) :
    s.resumeRing r x = none := by
  refine if_neg fun taken => ?_
  rcases ignored with serving | fatal
  · exact serving taken.1
  · exact taken.2 fatal

/-- RESUME of a stopped ring lowers RING_STOPPED before a kept entry is written. -/
theorem State.resumeRing_of_stopped {s : State} {r : Nat} (stopped : (s.ring r).st = .stopped) (alive : s.fatal = false) :
    s.resumeRing r (s.ring r) =
      (let t := s.setRing r { s.ring r with st := .running, fetchFault := false, cqFault := false }
       some (if (s.ring r).kept.isSome then (t.writeEntry r).settle t else t)) := by
  have settled := State.settle_setRing (s := s) (r := r) (x := { s.ring r with st := .running, fetchFault := false, cqFault := false })
    (fun h => nomatch h)
  simp only [State.resumeRing, settled]
  exact if_pos ⟨stopped, by simp [alive]⟩

@[simp] theorem State.setRing_stagesOf (s : State) (i r : Nat) (x : Ring) : (s.setRing i x).stagesOf r = s.stagesOf r := rfl

/-- A DRAINING ring with nothing left becomes DISABLED. -/
theorem State.drainRing_of_empty {s : State} {r : Nat} (draining : (s.ring r).st = .draining) (noStage : s.stagesOf r = [])
    (noEntry : (s.ring r).kept = none) (noFetch : (s.ring r).fetching = 0) :
    s.drainRing r = s.setRing r { s.ring r with st := .disabled } :=
  if_pos ⟨draining, by simp [noStage], by simp [noEntry], noFetch⟩

theorem State.drainRing_of_busy {s : State} {r : Nat} (busy : s.stagesOf r ≠ [] ∨ (s.ring r).kept.isSome ∨ (s.ring r).fetching ≠ 0) :
    s.drainRing r = s := by
  refine if_neg fun ⟨_, noStage, noEntry, noFetch⟩ => ?_
  rcases busy with stage | entry | fetch
  · exact stage (List.isEmpty_iff.mp noStage)
  · simp [Option.isNone_iff_eq_none.mp noEntry] at entry
  · exact fetch noFetch

/-! ### The stages of a ring that is reset -/

/-- The rings of `t` are those of `s`, but for the failures noted at them. -/
def State.SameRings (s t : State) : Prop := ∀ r, ∃ failed, t.ring r = { s.ring r with failed := failed }

theorem State.SameRings.of_rings {s t : State} (h : t.hif.rings = s.hif.rings) : s.SameRings t := fun r =>
  ⟨(s.ring r).failed, by rw [State.ring, h]; rfl⟩

theorem State.SameRings.refl (s : State) : s.SameRings s := .of_rings rfl

theorem State.SameRings.trans {s t u : State} (h : s.SameRings t) (k : t.SameRings u) : s.SameRings u := fun r => by
  obtain ⟨_, ht⟩ := h r
  obtain ⟨failed, hu⟩ := k r
  exact ⟨failed, by rw [hu, ht]⟩

theorem State.settleTable_accessed (s : State) (n : Nat) (st : Stage) : ∃ kv, ({ s with kv := kv } : State).Accessed (s.settleTable n st) := by
  unfold State.settleTable
  split
  · exact ⟨s.kv, .refl s⟩
  · exact ⟨_, (State.Accessed.refl _).writeFor _ _ _ _⟩

theorem State.settleTable_rings (s : State) (n : Nat) (st : Stage) : (s.settleTable n st).hif.rings = s.hif.rings := by
  obtain ⟨_, accessed⟩ := s.settleTable_accessed n st
  exact accessed.hif_rings

theorem State.atEnd_rings (s : State) (n : Nat) (st : Stage) (status : Nat) : (s.atEnd n st status).hif.rings = s.hif.rings := by
  unfold State.atEnd
  rw [(State.settleSets_endKeeps _ n st status).hif]
  change (State.discardMarked _ n).hif.rings = _
  rw [(State.discardMarked_endKeeps _ n).hif]
  change (State.thawAfter _ n st).hif.rings = _
  rw [(State.thawAfter_endKeeps _ n st).hif, State.settleTable_rings]

/-- The decision of a stage's outcome: its record, and the failure noted at its ring. -/
theorem State.finish_of_open {s : State} {n : Nat} {st : Stage} (status : Nat) (found : s.stage n = some st) (running : st.done = false) :
    s.finish n status =
      (let t := s.atEnd n st status
       let x := (t.stage n).getD st
       let t := t.setStage n (x.ended status t.time)
       if status = 0 ∨ status = 0x0C then t
       else t.setRing x.ring { t.ring x.ring with failed := (t.ring x.ring).failed ++ [x.seq] }) := by
  simp only [State.finish, found, running, Bool.false_eq_true, if_false]
  rfl

theorem State.finish_sameRings (s : State) (n status : Nat) : s.SameRings (s.finish n status) := by
  cases found : s.stage n with
  | none => rw [State.finish, found]; exact .refl s
  | some st =>
    cases done : st.done with
    | true => rw [State.finish_of_done status found done]; exact .refl s
    | false =>
      rw [State.finish_of_open status found done]
      have ended : s.SameRings ((s.atEnd n st status).setStage n
          ((((s.atEnd n st status).stage n).getD st).ended status (s.atEnd n st status).time)) :=
        .of_rings (s.atEnd_rings n st status)
      dsimp only
      split
      · exact ended
      · refine ended.trans fun r => ?_
        rw [State.setRing_ring]
        split
        next same => exact ⟨_, by rw [same]⟩
        · exact ⟨_, rfl⟩

/-- Beyond the statuses that the write of its table meets, the state of a stage's end knows the stage as it was. -/
theorem State.atEnd_stage (s : State) (n : Nat) (st : Stage) (status m : Nat) :
    (s.atEnd n st status).time = s.time
    ∧ (s.atEnd n st status).stage m
      = (s.stage m).map fun x => { x with met := (((s.atEnd n st status).stage m).map Stage.met).getD [] } := by
  obtain ⟨kv, accessed⟩ := s.settleTable_accessed n st
  have thawed := (State.thawAfter_endKeeps (s.settleTable n st) n st).trans (u := ((s.settleTable n st).thawAfter n st).leaveReleases n)
    ⟨rfl, rfl, rfl, rfl, rfl⟩
  have shared := (thawed.trans (State.discardMarked_endKeeps _ n)).trans (u := State.endShares _ n) ⟨rfl, rfl, rfl, rfl, rfl⟩
  have ended := shared.trans (State.settleSets_endKeeps _ n st status)
  have same : (s.atEnd n st status).stage m = (s.settleTable n st).stage m := by rw [State.stage, State.atEnd, ended.stages]; rfl
  refine ⟨ended.time.trans accessed.time, ?_⟩
  rw [same]
  exact accessed.stages m

/-- A decision leaves a stage complete with its status and the time, the rest of its record as it was. -/
theorem State.finish_record {s : State} {n : Nat} {st : Stage} (status : Nat) (found : s.stage n = some st) (running : st.done = false) :
    ∃ met, (s.finish n status).stage n = some (({ st with met := met } : Stage).ended status s.time) := by
  obtain ⟨time, stage⟩ := s.atEnd_stage n st status n
  rw [found] at stage
  obtain ⟨met, record⟩ : ∃ met, (s.atEnd n st status).stage n = some { st with met := met } := ⟨_, stage⟩
  refine ⟨met, ?_⟩
  rw [State.finish_of_open status found running]
  dsimp only
  rw [record, time]
  split <;> simp [State.stage, State.setStage, State.setRing]

theorem State.finish_decides {s : State} {n : Nat} {st : Stage} (status : Nat) (found : s.stage n = some st) (running : st.done = false) :
    ((s.finish n status).stage n).map (fun x => (x.phase, x.status)) = some (.complete, status) := by
  obtain ⟨met, record⟩ := State.finish_record status found running
  rw [record]
  rfl

theorem State.endStage_sameRings (s : State) (n : Nat) : s.SameRings (s.endStage n) := by
  unfold State.endStage
  split
  · exact .refl s
  next st _ =>
    dsimp only
    repeat' split
    all_goals first
      | exact .refl s
      | exact State.finish_sameRings s _ _
      | exact .of_rings rfl
      | exact (State.SameRings.of_rings rfl).trans (State.finish_sameRings _ _ _)

theorem State.endStage_of_waiting {s : State} {n : Nat} {st : Stage} (found : s.stage n = some st) (waiting : st.phase ≠ .running)
    (undecided : st.phase ≠ .complete) : s.endStage n = s.finish n (if st.phase = .admitted then s.endedBy else 0x07) := by
  have notDone : st.done = false := by simpa [Stage.done] using undecided
  simp only [State.endStage, found, notDone, Bool.false_eq_true, if_false, waiting, and_false, ne_eq, not_false_eq_true, if_true]

theorem State.resetRing_eq {s : State} {r : Nat} (taken : (s.ring r).st = .running ∨ (s.ring r).st = .stopped ∨ (s.ring r).st = .draining) :
    s.resetRing r = (s.stagesOf r).foldl (fun t p => t.endStage p.1)
      (s.setRing r { s.ring r with st := .resetting, tail := (s.ring r).sqHead, fetching := 0, aborting := false }) :=
  if_pos taken

/-- A ring that enters RESETTING drops its waiting descriptors; what ends its stages does not bring it out (R395 step 1). -/
theorem State.resetRing_ring {s : State} {r : Nat} (taken : (s.ring r).st = .running ∨ (s.ring r).st = .stopped ∨ (s.ring r).st = .draining) :
    ∃ failed, (s.resetRing r).ring r = { s.ring r with
      st := .resetting, tail := (s.ring r).sqHead, fetching := 0, aborting := false, failed := failed } := by
  rw [State.resetRing_eq taken]
  obtain ⟨failed, same⟩ := List.foldlRecOn (motive := fun t : State => (s.setRing r { s.ring r with
      st := .resetting, tail := (s.ring r).sqHead, fetching := 0, aborting := false }).SameRings t) (s.stagesOf r) _
    (.refl _) (fun t same p _ => same.trans (t.endStage_sameRings p.1)) r
  rw [State.setRing_ring, if_pos rfl] at same
  exact ⟨failed, same⟩

/-! ### The end of a reset (R395 steps 5 and 6) -/

/-- Release some retained sets. -/
def State.releaseSets (s : State) (l : List ((Bool × Nat) × RetSet)) : State := l.foldl (fun s p => s.releaseSet p.1.1 p.1.2) s

theorem Map.mem_del {κ α : Type} [DecidableEq κ] : ∀ {m : Map κ α} {k : κ} {p : κ × α}, p ∈ m.del k ↔ p ∈ m ∧ p.1 ≠ k
  | [], _, _ => by simp [Map.del]
  | (k', b) :: m, k, p => by
    unfold Map.del
    split <;> rename_i same
    · rw [Map.mem_del, List.mem_cons]
      constructor
      · exact fun ⟨member, other⟩ => ⟨.inr member, other⟩
      · rintro ⟨rfl | member, other⟩
        · exact absurd same other
        · exact ⟨member, other⟩
    · rw [List.mem_cons, List.mem_cons, Map.mem_del]
      constructor
      · rintro (rfl | ⟨member, other⟩)
        · exact ⟨.inl rfl, same⟩
        · exact ⟨.inr member, other⟩
      · rintro ⟨rfl | member, other⟩
        · exact .inl rfl
        · exact .inr ⟨member, other⟩

/-- Only the sets and the frames of their tiles change. -/
theorem State.releaseSets_eq (l : List ((Bool × Nat) × RetSet)) (s : State) : s.releaseSets l
    = { s with dsp := { s.dsp with sets := (s.releaseSets l).dsp.sets }, cores := (s.releaseSets l).cores } := by
  refine List.foldlRecOn (motive := fun t : State => t = { s with dsp := { s.dsp with sets := t.dsp.sets }, cores := t.cores }) l _ rfl
    fun t ht p _ => ?_
  rw [ht]
  rfl

theorem State.mem_releaseSets_sets : ∀ {l : List ((Bool × Nat) × RetSet)} {s : State} {p : (Bool × Nat) × RetSet},
    p ∈ (s.releaseSets l).dsp.sets ↔ p ∈ s.dsp.sets ∧ ∀ q ∈ l, p.1 ≠ q.1
  | [], _, _ => by simp [State.releaseSets]
  | q :: l, s, p => by
    change p ∈ ((s.releaseSet q.1.1 q.1.2).releaseSets l).dsp.sets ↔ _
    rw [State.mem_releaseSets_sets]
    change p ∈ s.dsp.sets.del q.1 ∧ _ ↔ _
    rw [Map.mem_del, List.forall_mem_cons]
    exact and_assoc

theorem exec_ringResetComplete {s : State} {r : Nat} (resetting : (s.ring r).st = .resetting) (noStage : s.stagesOf r = []) :
    exec (.ringResetComplete r) s = .next (((s.releaseSets (s.dsp.sets.filter fun p => p.2.ring == r)).setRing r
      { s.ring r with st := .disabled, sqHead := 0, cqTail := 0, tail := 0, head := 0 }).settle s) := by
  change execRingResetComplete r s = _
  rw [execRingResetComplete]
  exact congrArg (fun t : State => Host.Outcome.next (t.settle s)) (if_pos ⟨resetting, by simp [noStage]⟩)

/-- Settles O16: each command through the ring it reaches; the end of each stage; the sets left after the reset. -/
theorem ringCommandsAndResets : Obligations.RingCommandsAndResets := by
  refine ⟨fun s fn page r ide reaches => ⟨fun disabled alive valid => ?_, fun disabled alive invalid => ?_, fun ignored => ?_,
      fun s' s'eq stopped alive => ⟨fun noEntry => ?_, fun entry => ?_⟩, fun ignored => ?_, fun running busy => ?_,
      fun running noStage noEntry noFetch => ?_, fun notRunning => ?_, fun taken => ?_, fun ignored => ?_⟩,
    fun s r taken => ?_, fun s n st found => ⟨fun unstarted => ?_, fun admitted fatal => ?_⟩, fun s r resetting noStage => ?_⟩
  · rw [reaches.exec_enable, State.enableRing, if_pos ⟨disabled, by simp [alive]⟩, if_pos valid]
    rfl
  · rw [reaches.exec_enable, State.enableRing, if_pos ⟨disabled, by simp [alive]⟩, if_neg (by simp [invalid])]
    rfl
  · rw [reaches.exec_enable, State.enableRing_of_ignored fn ignored]
    rfl
  · subst s'eq
    rw [reaches.exec_resume, State.resumeRing_of_stopped stopped alive]
    simp only [noEntry, Option.isSome_none, Bool.false_eq_true, if_false, Option.getD_some]
    exact congrArg _ (State.settle_setRing fun h => nomatch h)
  · subst s'eq
    rw [reaches.exec_resume, State.resumeRing_of_stopped stopped alive]
    simp only [entry, if_true, Option.getD_some]
  · rw [reaches.exec_resume, State.resumeRing_of_ignored ignored]
    rfl
  · rw [reaches.exec_drain, State.drainCmd, if_pos running, State.drainRing_of_busy (by simpa using busy)]
    rfl
  · rw [reaches.exec_drain, State.drainCmd, if_pos running,
      State.drainRing_of_empty (by simp) (by simpa using noStage) (by simpa using noEntry) (by simpa using noFetch)]
    refine ⟨_, rfl, ?_, fun r' other => ?_, ?_, ?_, ?_⟩
    · simp
    · simp [Ne.symm other]
    all_goals simp
  · rw [reaches.exec_drain, State.drainCmd, if_neg notRunning]
    rfl
  · rw [reaches.exec_reset, State.resetCmd, if_pos taken]
    rfl
  · rw [reaches.exec_reset, State.resetCmd, if_neg (by rcases ignored with h | h <;> simp [h])]
    rfl
  · obtain ⟨failed, ring⟩ := State.resetRing_ring taken
    refine ⟨by rw [ring], ?_, State.fetchCount_of_not_running (by rw [ring]; simp), fun noStage => ?_⟩
    · rw [ring]
      simp [Ring.waiting, Ring.entries]
    · rw [State.resetRing_eq taken, noStage]
      rfl
  · have waiting : st.phase ≠ .running ∧ st.phase ≠ .complete := by rcases unstarted with h | h | h <;> simp [h]
    have notDone : st.done = false := by simpa [Stage.done] using waiting.2
    have status : (if st.phase = .admitted then s.endedBy else 0x07) = 7 := by
      rcases unstarted with h | h | ⟨h, alive⟩
      · simp [h]
      · simp [h]
      · simp [h, State.endedBy, alive]
    rw [State.endStage_of_waiting found waiting.1 waiting.2, status]
    exact State.finish_decides 7 found notDone
  · have notDone : st.done = false := by simp [Stage.done, admitted]
    rw [State.endStage_of_waiting found (by simp [admitted]) (by simp [admitted]), if_pos admitted, State.endedBy, if_pos fatal]
    exact State.finish_decides 0x0B found notDone
  · rw [exec_ringResetComplete resetting noStage, State.releaseSets_eq]
    refine ⟨_, rfl, ?_, fun p member => ?_, fun r' other => ?_, ?_, ?_, ?_⟩
    · simp
    · have left : p ∈ (s.releaseSets (s.dsp.sets.filter fun p => p.2.ring == r)).dsp.sets := by simpa using member
      obtain ⟨before, kept⟩ := State.mem_releaseSets_sets.mp left
      exact ⟨before, fun ofRing => kept p (List.mem_filter.mpr ⟨before, by simpa using ofRing⟩) rfl⟩
    · simp [Ne.symm other]
      rfl
    all_goals simp

end Sys2Proof.Machine
end

section
/-! Fetching and the arrival of descriptors (spec/14 R388, R389, R394; spec/16 R441). -/
namespace Sys2Proof.Machine

/-! ### What a visit asks for -/

/-- The limits of R388 on a visit that is not passed over. -/
theorem State.fetchCount_limits {s : State} {r : Nat} (visited : 0 < s.fetchCount r) :
    (s.ring r).st = .running ∧ s.fetchCount r ≤ 16 ∧ s.fetchCount r ≤ (s.ring r).waiting ∧ s.fetchCount r ≤ (s.ring r).allowance
    ∧ ((s.ring r).next - (s.ring r).headSeq).toNat + s.fetchCount r ≤ (s.ring r).entries - 1
    ∧ s.slotsOfFn (s.owner r) + s.fetchCount r ≤ max 1 (s.fn (s.owner r)).slots ∧ s.slotsHeld + s.fetchCount r ≤ 2048 := by
  have running : (s.ring r).st = .running := by
    refine Decidable.byContradiction fun notRunning => ?_
    rw [State.fetchCount_of_not_running notRunning] at visited
    exact absurd visited (by decide)
  refine ⟨running, ?_⟩
  unfold State.fetchCount at visited ⊢
  dsimp only at visited ⊢
  split at visited
  · exact absurd visited (by decide)
  next served =>
    rw [if_neg served]
    refine ⟨?_, ?_, ?_, ?_, ?_, ?_⟩ <;> omega

/-- The state in which a visit asks `k` descriptors of a ring. -/
def State.visit (s : State) (r k : Nat) : State :=
  ({ s with hif := { s.hif with lastVisited := r } } : State).setRing r { s.ring r with fetching := (s.ring r).fetching + k }

/-- A read of `n` descriptors from a place of a ring's queue in host memory. -/
def State.askHost (t s : State) (r place n : Nat) : State :=
  t.emit (.hostRead (s.owner r) ((s.ring r).sqBase.toNat + 256 * place) (256 * n) (s.hostStream (s.owner r)))

theorem exec_fetchDescriptors_of_turn {s : State} {r : Nat}
    (turn : nextInTurn s.hif.lastVisited ((s.hif.rings.map Prod.fst).filter (fun q => decide (0 < s.fetchCount q))) = some r) :
    exec .fetchDescriptors s = .next ((if (s.ring r).locSq || s.hostBlocked (s.owner r) then s.visit r (s.fetchCount r)
      else
        let first := min (s.fetchCount r) ((s.ring r).entries - (s.ring r).fetchPlace)
        let asked := (s.visit r (s.fetchCount r)).askHost s r (s.ring r).fetchPlace first
        if s.fetchCount r = first then asked
        else asked.emit (.hostRead (s.owner r) (s.ring r).sqBase.toNat (256 * (s.fetchCount r - first)) (s.hostStream (s.owner r)))).settle
          s) := by
  change execFetchDescriptors s = _
  rw [execFetchDescriptors, turn]
  rfl

/-- Settles O17: the limits of a visit, then the reads that it makes, whole or in two parts. -/
theorem fetching : Obligations.Fetching := by
  refine ⟨fun s r visited => State.fetchCount_limits visited, ?_, fun s passedOver => exec_fetchDescriptors_of_passedOver passedOver,
    fun s => rfl⟩
  rintro s _ r _ _ turn rfl rfl rfl
  rw [exec_fetchDescriptors_of_turn turn]
  refine ⟨fun noHost => ?_, fun host bound whole => ?_, fun host bound wraps => ?_⟩
  · have unasked : ((s.ring r).locSq || s.hostBlocked (s.owner r)) = true := by simpa using noHost
    rw [if_pos unasked]
    rfl
  · have first : min (s.fetchCount r) ((s.ring r).entries - (s.ring r).fetchPlace) = s.fetchCount r :=
      Nat.min_eq_left (Nat.le_sub_of_add_le' whole)
    rw [if_neg (by simp [host, bound])]
    simp only [first, if_true] <;> rfl
  · have first : min (s.fetchCount r) ((s.ring r).entries - (s.ring r).fetchPlace) = (s.ring r).entries - (s.ring r).fetchPlace :=
      Nat.min_eq_right (Nat.sub_le_iff_le_add'.mpr (Nat.le_of_lt wraps))
    have short : ¬ s.fetchCount r = (s.ring r).entries - (s.ring r).fetchPlace := fun same => by
      have place : (s.ring r).fetchPlace < (s.ring r).entries := Nat.mod_lt _ (Nat.two_pow_pos _)
      change (s.ring r).entries < (s.ring r).fetchPlace + s.fetchCount r at wraps
      omega
    rw [if_neg (by simp [host, bound])]
    simp only [first, if_neg short] <;> rfl

/-! ### Arrivals -/

theorem Map.find_of_not_listed {κ α : Type} [DecidableEq κ] : ∀ {m : Map κ α} {k : κ}, (∀ p ∈ m, p.1 ≠ k) → m.find k = none
  | [], _, _ => rfl
  | (k', a) :: m, k, h => by
    rw [Map.find, if_neg (h (k', a) List.mem_cons_self)]
    exact Map.find_of_not_listed fun p member => h p (List.mem_cons_of_mem _ member)

/-- Of more numbers than a table lists, the lowest that it does not list. -/
theorem Map.exists_not_listed {α : Type} (m : Map Nat α) {k : Nat} (room : m.length < k) :
    ∃ i, (List.range k).find? (fun i => !(m.any (fun p => p.1 == i))) = some i ∧ m.find i = none := by
  cases lowest : (List.range k).find? (fun i => !(m.any (fun p => p.1 == i))) with
  | some i =>
    have free := List.find?_some lowest
    refine ⟨i, rfl, Map.find_of_not_listed fun p member same => ?_⟩
    simp only [Bool.not_eq_true', List.any_eq_false, beq_iff_eq] at free
    exact free p member same
  | none =>
    have listed : List.range k ⊆ m.map Prod.fst := fun i small => by
      have taken := List.find?_eq_none.mp lowest i small
      simp only [Bool.not_eq_true', Bool.not_eq_false, List.any_eq_true, beq_iff_eq] at taken
      obtain ⟨p, member, rfl⟩ := taken
      exact List.mem_map_of_mem member
    have many := List.nodup_range.length_le_of_subset listed
    rw [List.length_range, List.length_map] at many
    omega

/-- While a slot is free, the lowest free one holds no stage. -/
theorem State.stage_freeSlot {s : State} (room : s.dsp.stages.length < 2048) : s.stage s.freeSlot = none := by
  obtain ⟨i, lowest, free⟩ := Map.exists_not_listed s.dsp.stages room
  rw [State.stage, State.freeSlot, lowest]
  exact free

/-- A stage that takes a ring's next sequence number for the bytes given (R389). -/
def State.newStage (s : State) (r : Nat) (bytes : List Byte) : Stage :=
  { ring := r, seq := (s.ring r).next, secure := (s.ring r).secure, fn := s.owner r, desc := bytes }

theorem State.takeStage_eq (s : State) (r : Nat) (bytes : List Byte) : s.takeStage r bytes = (s.freeSlot,
    ((s.setRing r { s.ring r with next := (s.ring r).next + 1, allowance := (s.ring r).allowance - 1 }).setStage s.freeSlot
      (s.newStage r bytes)).tick1 hifDescFetched) := rfl

theorem State.arrive_eq (s : State) (r : Nat) (bytes : List Byte) : s.arrive r bytes = (s.takeStage r bytes).2.setRing r
    { s.ring r with
        next := (s.ring r).next + 1, allowance := (s.ring r).allowance - 1
        sqHead := ((s.ring r).sqHead + 1) % 2 ^ (s.ring r).log2, fetching := (s.ring r).fetching - 1 } := by
  have ring : (s.takeStage r bytes).2.ring r
      = { s.ring r with next := (s.ring r).next + 1, allowance := (s.ring r).allowance - 1 } := by
    simp [State.takeStage_eq]
  rw [State.arrive]
  simp only [ring, Ring.entries]

section
variable {s : State} {r : Nat}

theorem exec_descriptorArrival_of_host {bytes : List Byte} (host : (s.ring r).locSq = false) (bound : s.hostBlocked (s.owner r) = false)
    (asked : (s.ring r).fetching ≠ 0) (one : bytes.length = 256) :
    exec (.descriptorArrival r bytes) s = .next ((s.arrive r bytes).settle s) := by
  change execDescriptorArrival r bytes s = _
  have single : min (s.ring r).fetching (bytes.length / 256) = 1 := by omega
  have whole : (bytes.drop (256 * 0)).take 256 = bytes := by rw [Nat.mul_zero, List.drop_zero, ← one, List.take_length]
  simp only [execDescriptorArrival, host, bound, Bool.false_eq_true, if_false, single, List.range_one, List.foldl_cons, List.foldl_nil,
    whole, answer]

theorem exec_descriptorArrival_of_unbound (given : List Byte) (host : (s.ring r).locSq = false)
    (unbound : s.hostBlocked (s.owner r) = true) (asked : (s.ring r).fetching ≠ 0) :
    exec (.descriptorArrival r given) s = .next ((s.fetchFails r 8).settle s) := by
  change execDescriptorArrival r given s = _
  simp only [execDescriptorArrival, host, unbound, Bool.false_eq_true, if_false, if_true, asked, answer]

theorem exec_descriptorArrival_of_local (given : List Byte) (loc : (s.ring r).locSq = true) (one : (s.ring r).fetching = 1) :
    exec (.descriptorArrival r given) s = .next ((match s.readPlace r with
      | (.inl bytes, t) => t.arrive r bytes
      | (.inr status, t) => t.fetchFails r status).settle s) := by
  change execDescriptorArrival r given s = _
  simp only [execDescriptorArrival, loc, if_true, one, State.arriveLocal, Nat.one_ne_zero, if_false, answer] <;> rfl

end

/-- The stage of a failed fetch stands with its number, and FETCH_FAULT. -/
def State.fetchFault (s : State) (r : Nat) : State :=
  let t := (s.takeStage r []).2.setStage s.freeSlot { s.newStage r [] with fetchFailed := true, forceStop := true }
  t.setRing r { t.ring r with fetchFault := true, fetching := 0 }

/-- The state of a failed fetch, before its stage's outcome is decided. -/
def State.fetchFailing (s : State) (r status : Nat) : State :=
  if status = 8 then (s.fetchFault r).aer ((s.fetchFault r).owner r) aerPoisoned else s.fetchFault r

theorem State.fetchFails_eq (s : State) (r status : Nat) : s.fetchFails r status = (s.fetchFailing r status).finish s.freeSlot status := by
  simp only [State.fetchFails, State.takeStage_eq, State.tick1_stage, State.setStage_stage, if_true] <;> rfl

theorem State.fetchFailing_frame (s : State) (r status : Nat) :
    (s.fetchFailing r status).stage s.freeSlot = some { s.newStage r [] with fetchFailed := true, forceStop := true }
    ∧ (s.fetchFailing r status).ring r = { s.ring r with
        next := (s.ring r).next + 1, allowance := (s.ring r).allowance - 1, fetchFault := true, fetching := 0 }
    ∧ (s.fetchFailing r status).kv = s.kv ∧ (s.fetchFailing r status).mem = s.mem := by
  have stage : (s.fetchFault r).stage s.freeSlot = some { s.newStage r [] with fetchFailed := true, forceStop := true } := by
    simp [State.fetchFault, State.takeStage_eq]
  have ring : (s.fetchFault r).ring r = { s.ring r with
      next := (s.ring r).next + 1, allowance := (s.ring r).allowance - 1, fetchFault := true, fetching := 0 } := by
    simp [State.fetchFault, State.takeStage_eq]
  unfold State.fetchFailing
  split <;> exact ⟨stage, ring, rfl, rfl⟩

/-- The end of a stage that works through no sequence table stores nothing and waits for no line. -/
theorem State.finish_mem {s : State} {n : Nat} (status : Nat) (noRun : s.kv.runs.find n = none) :
    (s.finish n status).mem.stalled = s.mem.stalled ∧ (s.finish n status).mem.cells = s.mem.cells := by
  cases found : s.stage n with
  | none => rw [State.finish, found]; exact ⟨rfl, rfl⟩
  | some st =>
    cases done : st.done with
    | true => rw [State.finish_of_done status found done]; exact ⟨rfl, rfl⟩
    | false =>
      have kept := State.atEnd_endKeeps st status noRun
      rw [State.finish_of_running status found done noRun]
      dsimp only
      split <;> exact ⟨kept.stalled, kept.cells⟩

/-- Nothing waits for a line by a change that leaves the flag of the memory as it was. -/
theorem State.stalled_same {s t : State} (h : t.mem.stalled = s.mem.stalled) : (t.mem.stalled && !s.mem.stalled) = false := by
  rw [h, Bool.and_not_self]

/-- Settles O19: an arrival takes a slot and a number; a failed fetch decides its stage, which leaves its ring's place. -/
theorem descriptorsArrive : Obligations.DescriptorsArrive := by
  refine ⟨fun s r bytes host bound asked one room => ⟨?_, State.stage_freeSlot room⟩, fun s s' r bytes given loc one place => ?_,
    fun s s' r status given loc one place => ?_, fun s r given => exec_descriptorArrival_of_unbound given,
    fun s r how asked noData room noRun => ?_⟩
  · rw [exec_descriptorArrival_of_host host bound asked one, State.arrive_eq]
    rfl
  · rw [exec_descriptorArrival_of_local given loc one, place]
  · rw [exec_descriptorArrival_of_local given loc one, place]
  · obtain ⟨stage, ring, kv, mem⟩ := s.fetchFailing_frame r (if how = .poison then 8 else 3)
    have noRun' : (s.fetchFailing r (if how = .poison then 8 else 3)).kv.runs.find s.freeSlot = none := by rw [kv]; exact noRun
    have record := State.finish_stage (if how = .poison then 8 else 3) stage rfl noRun'
    obtain ⟨noted, same⟩ := State.finish_sameRings (s.fetchFailing r (if how = .poison then 8 else 3)) s.freeSlot
      (if how = .poison then 8 else 3) r
    have reached := (State.finish_mem (if how = .poison then 8 else 3) noRun').1
    rw [mem] at reached
    rw [← State.fetchFails_eq] at record same reached
    have fault : exec (.descriptorFetchFault r how) s = .next ((s.fetchFails r (if how = .poison then 8 else 3)).settle s) := by
      change execDescriptorFetchFault r how s = _
      simp only [execDescriptorFetchFault, asked, noData, or_self, if_false, answer]
    refine ⟨_, _, fault, (State.settle_stage _ _ _ (State.stalled_same reached)).trans record, rfl, rfl, rfl, rfl, ?_⟩
    rw [State.settle_ring _ _ _ (State.stalled_same reached), same, ring]
    exact ⟨rfl, rfl, rfl⟩

end Sys2Proof.Machine
end

section
/-! Admission: checks 1 to 7, the chain block and the level table (spec/04 R98; spec/05 R123; spec/12 R349). -/
namespace Sys2Proof.Machine

theorem State.Accessed.stage_of_found {s t : State} (h : s.Accessed t) {n : Nat} {st : Stage} (found : s.stage n = some st) :
    ∃ met, t.stage n = some { st with met := met } :=
  ⟨_, by rw [h.stages n, found]; rfl⟩

/-- A refusal decides the stage with the status, the check and the WHERE it names. -/
theorem State.refuseWith_record {s : State} {n : Nat} {x : Stage} (found : s.stage n = some x) (running : x.done = false) (st : Stage)
    (r : Nat × Nat × Nat) (addr : Nat) : ∃ y, (s.refuseWith n st r addr).stage n = some y ∧ y.phase = .complete ∧ y.status = r.1
      ∧ y.check = r.2.1 ∧ y.whr = r.2.2 := by
  have marked : (s.setStage n { x with check := r.2.1, whr := r.2.2 }).stage n = some { x with check := r.2.1, whr := r.2.2 } := by simp
  obtain ⟨met, decided⟩ := State.finish_record r.1 marked running
  simp only [State.refuseWith, State.refuse, found]
  split
  · obtain ⟨met', denied⟩ := ((State.Accessed.refl _).deny st.secure st.fn addr).stage_of_found decided
    exact ⟨_, denied, rfl, rfl, rfl, rfl⟩
  · exact ⟨_, decided, rfl, rfl, rfl, rfl⟩

theorem State.refuseWith_mem {s : State} {n : Nat} (noRun : s.kv.runs.find n = none) (st : Stage) (r : Nat × Nat × Nat) (addr : Nat) :
    (s.refuseWith n st r addr).mem.stalled = s.mem.stalled ∧ (s.refuseWith n st r addr).mem.cells = s.mem.cells := by
  have refused : (s.refuse n r.1 r.2.1 r.2.2).mem.stalled = s.mem.stalled ∧ (s.refuse n r.1 r.2.1 r.2.2).mem.cells = s.mem.cells := by
    unfold State.refuse
    split
    · exact ⟨rfl, rfl⟩
    next x _ => exact State.finish_mem (s := s.setStage n { x with check := r.2.1, whr := r.2.2 }) r.1 noRun
  unfold State.refuseWith
  split
  · rw [State.deny_mem]; exact refused
  · exact refused

section
variable {s : State} {n : Nat} {st : Stage}

theorem exec_admitStage_of_passed (found : s.stage n = some st) (fetched : st.phase = .fetched) (whole : st.fetchFailed = false)
    (pass : admissionChecks s st = none) (free : (s.ring st.ring).aborting = false) : exec (.admitStage n) s
      = .next ((if usesChain st.desc ∨ dOpcode st.desc = 0x11 then s.setStage n { st with phase := .chainWait }
          else s.accept n st none).settle s) := by
  change execAdmitStage n s = _
  simp only [execAdmitStage, found, fetched, whole, pass, free, Bool.false_eq_true, ne_eq, not_true, or_self, false_and, if_false, answer]

theorem exec_admitStage_of_refused {r : Nat × Nat × Nat} (found : s.stage n = some st) (fetched : st.phase = .fetched)
    (whole : st.fetchFailed = false) (refused : admissionChecks s st = some r) (free : (s.ring st.ring).aborting = false) :
    exec (.admitStage n) s = .next ((s.refuseWith n st r (whereAddr st.desc r.2.2)).settle s) := by
  change execAdmitStage n s = _
  simp only [execAdmitStage, found, fetched, whole, refused, free, Bool.false_eq_true, ne_eq, not_true, or_self, if_false, answer]

/-- While a fence aborts the ring a stage that is no fence ends with ABORTED_BY_FENCE, whatever its checks give (R117). -/
theorem exec_admitStage_of_aborting (found : s.stage n = some st) (fetched : st.phase = .fetched) (whole : st.fetchFailed = false)
    (aborting : (s.ring st.ring).aborting = true) (noFence : st.isFence = false) :
    exec (.admitStage n) s = .next ((s.finish n 0x0C).settle s) := by
  change execAdmitStage n s = _
  simp only [execAdmitStage, found, fetched, whole, aborting, noFence, Bool.false_eq_true, ne_eq, not_true, not_false_eq_true, or_self,
    and_self, if_false, if_true, answer]
  split <;> rfl

theorem exec_admitStage_of_fence (found : s.stage n = some st) (fetched : st.phase = .fetched) (whole : st.fetchFailed = false)
    (aborting : (s.ring st.ring).aborting = true) (fence : st.isFence = true) (pass : admissionChecks s st = none) :
    exec (.admitStage n) s
      = .next (((s.setRing st.ring { s.ring st.ring with aborting := false }).accept n st none).settle s) := by
  have opcode : dOpcode st.desc = 0x13 := by simpa [Stage.isFence, Stage.opcode, whole] using fence
  have noChain : usesChain st.desc = false := by simp [usesChain, opcode, tileWalker]
  change execAdmitStage n s = _
  simp only [execAdmitStage, found, fetched, whole, aborting, fence, pass, opcode, noChain, Bool.false_eq_true, ne_eq, not_true, and_false,
    or_self, if_false, if_true, answer] <;> rfl

theorem exec_chainBlockCheck_of_chain (found : s.stage n = some st) (waits : st.phase = .chainWait) (noTable : dOpcode st.desc ≠ 0x11) :
    exec (.chainBlockCheck n) s = .next ((match s.readChain n st with
      | (.inr status, t) => t.failCheck8 n st status 4
      | (.inl b, t) => t.settleCheck9 n { st with chain := b } (check9 t { st with chain := b })).settle s) := by
  change execChainBlockCheck n s = _
  simp only [execChainBlockCheck, found, waits, noTable, ne_eq, not_true, if_false, answer] <;> rfl

theorem exec_chainBlockCheck_of_table (found : s.stage n = some st) (waits : st.phase = .chainWait) (table : dOpcode st.desc = 0x11) :
    exec (.chainBlockCheck n) s = .next ((match s.readLevels n st with
      | (.inr status, t) => t.failCheck8 n st status 10
      | (.inl b, t) => t.settleCheck9 n { st with table := b } (levelChecks t st b)).settle s) := by
  change execChainBlockCheck n s = _
  simp only [execChainBlockCheck, found, waits, table, ne_eq, not_true, if_false, if_true, answer] <;> rfl

theorem State.accept_stage (s : State) (n : Nat) (st : Stage) (counts : Option Arrival) : (s.accept n st counts).stage n = some { st with
    phase := .admitted, cls := dPriority st.desc, admOrder := s.dsp.admCount, admTime := s.time, arrival := counts
    fnVers := (stageFns st.desc st.chain).filterMap fun f => (s.fnImage st.secure f).map fun x => (f, x.version, x.image) } := by
  change (s.setStage n _).stage n = _
  rw [State.setStage_stage, if_pos rfl]

theorem State.settleCheck9_of_pass (noArrival : dOpcode st.desc ≠ 1 ∨ cArrival st.chain = false) :
    s.settleCheck9 n st none = s.accept n st none := by
  refine if_neg fun ⟨one, arrival⟩ => ?_
  rcases noArrival with other | none
  · exact other one
  · rw [none] at arrival; exact absurd arrival (by decide)

end

theorem exec_admitStage_decides {s : State} {n : Nat} {st : Stage} (found : s.stage n = some st) (whole : st.fetchFailed = false)
    (noRun : s.kv.runs.find n = none) (status check whr : Nat) (fetched : st.phase = .fetched)
    (free : (s.ring st.ring).aborting = false) (refused : admissionChecks s st = some (status, check, whr)) :
    ∃ t x, exec (.admitStage n) s = .next t ∧ t.stage n = some x ∧ x.phase = .complete ∧ x.status = status ∧ x.check = check
      ∧ x.whr = whr ∧ t.mem.cells = s.mem.cells := by
  have open_ : st.done = false := by simp [Stage.done, fetched]
  obtain ⟨x, record, phase, stat, chk, whr'⟩ := State.refuseWith_record found open_ st (status, check, whr) (whereAddr st.desc whr)
  obtain ⟨reached, cells⟩ := State.refuseWith_mem noRun st (status, check, whr) (whereAddr st.desc whr)
  have alive := State.stalled_same reached
  refine ⟨_, x, exec_admitStage_of_refused found fetched whole refused free, ?_, phase, stat, chk, whr', ?_⟩
  · rw [State.settle_stage _ _ _ alive, record]
  · rw [State.settle_mem _ _ alive, cells]

/-- Settles O20: the checks in their order; what is read settles the rest. -/
theorem admission : Obligations.Admission := by
  refine ⟨fun s n st found whole noRun => ⟨fun fetched free pass noChain noTable => ⟨?_, _, State.accept_stage s n st none, rfl,
    rfl, rfl, rfl, rfl, rfl⟩, fun fetched free pass reads => ?_, exec_admitStage_decides found whole noRun,
    fun fetched aborting noFence => exec_admitStage_of_aborting found fetched whole aborting noFence,
    fun fetched aborting fence pass => exec_admitStage_of_fence found fetched whole aborting fence pass,
    fun b s' st' waits noTable read same => ?_, fun b s' st' waits table read same => ?_, fun status s' waits noTable read => ?_,
    fun status s' waits table read => ?_⟩, fun s n status check whr st x found running => State.refuseWith_record found running st _ _⟩
  · rw [exec_admitStage_of_passed found fetched whole pass free, if_neg (by simp [noChain, noTable])]
  · rw [exec_admitStage_of_passed found fetched whole pass free, if_pos reads]
  · subst same
    rw [exec_chainBlockCheck_of_chain found waits noTable, read]
    dsimp only
    refine ⟨fun pass noArrival => ?_, fun pass one arrival room => ?_, fun pass one arrival full => ?_, fun c refused => by rw [refused]⟩
    · rw [pass, State.settleCheck9_of_pass noArrival]
    · rw [pass, State.settleCheck9, if_pos ⟨one, arrival⟩, if_pos room]
    · rw [pass, State.settleCheck9, if_pos ⟨one, arrival⟩, if_neg (Nat.not_lt.mpr full)]
  · subst same
    rw [exec_chainBlockCheck_of_table found waits table, read]
    dsimp only
    refine ⟨fun pass => ?_, fun c refused => by rw [refused]⟩
    rw [pass, State.settleCheck9_of_pass (.inl (by rw [table]; decide))]
  · rw [exec_chainBlockCheck_of_chain found waits noTable, read]
  · rw [exec_chainBlockCheck_of_table found waits table, read]

end Sys2Proof.Machine
end

section
/-! The start and the end of a stage (spec/04 R102, R111, R113; spec/17 R458). -/
namespace Sys2Proof.Machine

/-! ### What a knock leaves -/

/-- `t` is `s` but for its power state and its counters. -/
def State.SamePowerAside (s t : State) : Prop := t = { s with pwr := t.pwr, ctrs := t.ctrs }

theorem State.SamePowerAside.refl (s : State) : s.SamePowerAside s := rfl

theorem State.SamePowerAside.trans {s t u : State} (h : s.SamePowerAside t) (k : t.SamePowerAside u) : s.SamePowerAside u := by
  unfold State.SamePowerAside at h k ⊢
  rw [k, h]

theorem State.SamePowerAside.foldl {α : Type} {f : State → α → State} (each : ∀ (t : State) a, t.SamePowerAside (f t a)) :
    ∀ (l : List α) (s : State), s.SamePowerAside (l.foldl f s)
  | [], s => .refl s
  | a :: l, s => (each s a).trans (State.SamePowerAside.foldl each l (f s a))

theorem State.beginWake_samePowerAside (s : State) (d : Nat) : s.SamePowerAside (s.beginWake d) := by
  unfold State.beginWake
  extract_lets used begun
  split
  · exact .refl s
  · rfl

theorem State.knock_samePowerAside (s : State) (d : Nat) : s.SamePowerAside (s.knock d) := by
  have wakes : s.SamePowerAside ({ s with pwr := { s.pwr with knocks := s.pwr.knocks ++ [d] } } : State).startWakes :=
    State.SamePowerAside.trans (t := { s with pwr := { s.pwr with knocks := s.pwr.knocks ++ [d] } }) rfl
      (State.SamePowerAside.foldl State.beginWake_samePowerAside _ _)
  unfold State.knock
  split
  · rfl
  · rfl
  · split
    · exact .refl s
    · exact wakes
  · split
    · exact .refl s
    · exact wakes
  · exact .refl s

/-! ### The start -/

section
variable {s : State} {n : Nat} {st : Stage}

theorem exec_stageStart_of_held (found : s.stage n = some st)
    (held : s.orderMet st = false ∨ (s.ring st.ring).starts = false ∨ (st.opcode = 0x0A ∧ s.kvTurn n st = false) ∨ s.setCheck st = none) :
    exec (.stageStart n) s = .next (s.settle s) := by
  change execStageStart n s = _
  simp only [execStageStart, found, answer]
  split
  · rfl
  next ready =>
    rcases held with order | ring | ⟨retrieve, turn⟩ | noCheck
    · exact absurd (.inr (.inl (by simp [order]))) ready
    · exact absurd (.inr (.inr (.inl (by simp [ring])))) ready
    · exact absurd (.inr (.inr (.inr ⟨retrieve, by simp [turn]⟩))) ready
    · rw [noCheck]

/-- A stage that may start, by what the check of its consumed set gives. -/
theorem exec_stageStart_of_ready {bad : Nat} (found : s.stage n = some st) (admitted : st.phase = .admitted) (order : s.orderMet st = true)
    (ring : (s.ring st.ring).starts = true) (turn : st.opcode = 0x0A → s.kvTurn n st = true) (check : s.setCheck st = some bad) :
    exec (.stageStart n) s = .next ((
      let run : Stage := { st with phase := .running, startTime := s.time }
      if bad ≠ 0 then (s.setStage n run).finishWorst n bad
      else match (s.setStage n run).beginSet n run with
        | none => (s.setStage n run).finishWorst n 2
        | some t =>
          let (ok, t) := t.readMask n run
          if !ok then t
          else match t.stage n with
            | none => t
            | some st =>
              let t := (t.engineDomains st).foldl State.knock t
              if st.opcode = 0x0A then t.startRetrieve n st else t).settle s) := by
  have ready : ¬ (st.phase ≠ .admitted ∨ (!s.orderMet st) = true ∨ (!(s.ring st.ring).starts) = true
      ∨ (st.opcode = 0x0A ∧ (!s.kvTurn n st) = true)) := by
    simp only [admitted, order, ring, ne_eq, not_true, Bool.not_true, Bool.false_eq_true, false_or, Bool.not_eq_true', not_and,
      Bool.not_eq_false]
    exact turn
  change execStageStart n s = _
  simp only [execStageStart, found, if_neg ready, check, answer] <;> rfl

/-- A stage that reads no mask and uses no retained set starts at once, and its record is all that changes beside the power state. -/
theorem exec_stageStart_of_plain (found : s.stage n = some st) (admitted : st.phase = .admitted) (order : s.orderMet st = true)
    (ring : (s.ring st.ring).starts = true) (noIn : cRetIn st.chain = 0) (noOut : cRetOut st.chain = 0)
    (noMask : readsMask st.opcode = false ∨ dBatch st.desc = 0) (noRetrieve : st.opcode ≠ 0x0A) :
    ∃ t, exec (.stageStart n) s = .next (t.settle s)
      ∧ (s.setStage n { st with phase := .running, startTime := s.time }).SamePowerAside t := by
  have check : s.setCheck st = some 0 := by simp [State.setCheck, noIn]
  have begun : (s.setStage n { st with phase := .running, startTime := s.time }).beginSet n
      { st with phase := .running, startTime := s.time } = some (s.setStage n { st with phase := .running, startTime := s.time }) := by
    simp [State.beginSet, noOut]
  have unmasked : (!readsMask ({ st with phase := .running, startTime := s.time } : Stage).opcode || dBatch st.desc == 0) = true := by
    change (!readsMask st.opcode || dBatch st.desc == 0) = true
    rcases noMask with none | zero
    · simp [none]
    · simp [zero]
  have noRetrieve' : ¬ ({ st with phase := .running, startTime := s.time } : Stage).opcode = 0x0A := noRetrieve
  rw [exec_stageStart_of_ready found admitted order ring (fun retrieve => absurd retrieve noRetrieve) check]
  simp only [ne_eq, not_true, if_false, begun, State.readMask, unmasked, if_true, Bool.not_true, Bool.false_eq_true, State.setStage_stage,
    if_neg noRetrieve']
  exact ⟨_, rfl, .foldl State.knock_samePowerAside _ _⟩

/-! ### The end -/

theorem exec_stageComplete_of_walker (found : s.stage n = some st) (running : st.phase = .running) (walker : tileWalker st.opcode = true) :
    exec (.stageComplete n) s = .next ((if s.tilesOver n st then s.finishWorst n (if st.ending then s.endedBy
        else if st.opcode = 0x0A then tableStatus (s.kv.runs.get { table := [] } n).table else 0) else s).settle s) := by
  change execStageComplete n s = _
  simp only [execStageComplete, found, running, walker, ne_eq, not_true, if_false, if_true, answer]

theorem exec_stageComplete_of_ending (found : s.stage n = some st) (running : st.phase = .running) (engine : tileWalker st.opcode = false)
    (ending : st.ending = true) : exec (.stageComplete n) s = .next ((s.endEngine n st).settle s) := by
  change execStageComplete n s = _
  simp only [execStageComplete, found, running, engine, ending, Bool.false_eq_true, ne_eq, not_true, if_false, if_true, answer]

/-- A stage that works through no sequence table and is not ended early ends with the worst it met. -/
theorem State.finishWorst_of_running (own : Nat) (found : s.stage n = some st) (undone : st.done = false) (whole : st.ending = false)
    (noRun : s.kv.runs.find n = none) : s.finishWorst n own = s.finish n (worstOf st.met own) := by
  simp only [State.finishWorst, found, undone, State.settleTable_of_no_run st noRun, whole, Bool.false_and, Bool.false_eq_true, if_false,
    Option.getD_some]

theorem State.finish_ring_other {r : Nat} (status : Nat) (found : s.stage n = some st) (undone : st.done = false)
    (noRun : s.kv.runs.find n = none) (other : r ≠ st.ring) : (s.finish n status).ring r = s.ring r := by
  have rings : (s.atEnd n st status).ring r = s.ring r := by rw [State.ring, State.atEnd_rings]; rfl
  rw [State.finish_of_running status found undone noRun]
  dsimp only
  split
  · exact rings
  · rw [State.setRing_ring, if_neg (Ne.symm other)]
    exact rings

end

/-- Settles O21: a stage starts when nothing holds it, and ends with the worst of what it met. -/
theorem stageLife : Obligations.StageLife := by
  refine ⟨fun s n st run found admitted same => ?_, fun s n st found running => ⟨fun walker finished => ?_, fun walker finished whole noRetrieve noRun => ?_,
    fun walker left => ?_, exec_stageComplete_of_ending found running⟩⟩
  · subst same
    refine ⟨fun s1 s2 run2 order ring turn check begun mask record => ?_, fun order ring noIn noOut noMask noRetrieve => ?_,
      fun bad order ring turn check refused => ?_, fun order ring turn check live => ?_, exec_stageStart_of_held found⟩
    · rw [exec_stageStart_of_ready found admitted order ring turn check]
      simp only [ne_eq, not_true, if_false, begun, mask, Bool.not_true, Bool.false_eq_true, record]
    · obtain ⟨t, started, aside⟩ := exec_stageStart_of_plain found admitted order ring noIn noOut noMask noRetrieve
      have mem : t.mem = s.mem := by rw [aside]; rfl
      have alive : (t.mem.stalled && !s.mem.stalled) = false := State.stalled_same (by rw [mem])
      refine ⟨_, started, ?_, fun m other => ?_, ?_, ?_, ?_, ?_⟩
      · rw [State.settle_stage _ _ _ alive, aside]
        exact (State.setStage_stage s n n _).trans (if_pos rfl)
      · rw [State.settle_stage _ _ _ alive, aside]
        exact (State.setStage_stage s n m _).trans (if_neg (Ne.symm other))
      · rw [State.settle_mem _ _ alive, mem]
      · rw [State.settle_hif_rings _ _ alive, aside]; rfl
      · rw [State.settle_cores _ _ alive, aside]; rfl
      · rw [State.settle_regs _ _ alive, aside]; rfl
    · rw [exec_stageStart_of_ready found admitted order ring turn check]
      simp only [ne_eq, refused, not_false_eq_true, if_true]
    · rw [exec_stageStart_of_ready found admitted order ring turn check]
      simp only [ne_eq, not_true, if_false, live]
  · rw [exec_stageComplete_of_walker found running walker, if_pos finished]
  · have undone : st.done = false := by simp [Stage.done, running]
    have alive := State.stalled_same (State.finish_mem (worstOf st.met 0) noRun).1
    rw [exec_stageComplete_of_walker found running walker, if_pos finished, if_neg (by simp [whole]), if_neg noRetrieve,
      State.finishWorst_of_running 0 found undone whole noRun]
    refine ⟨_, _, rfl, (State.settle_stage _ _ _ alive).trans (State.finish_stage _ found undone noRun), rfl, rfl, rfl, rfl, ?_,
      fun r other => ?_⟩
    · rw [State.settle_mem _ _ alive]
      exact (State.finish_mem _ noRun).2
    · rw [State.settle_ring _ _ _ alive]
      exact State.finish_ring_other _ found undone noRun other
  · rw [exec_stageComplete_of_walker found running walker, if_neg (by simp [left])]

end Sys2Proof.Machine
end

section
/-! Completion entries (spec/14 R390, R391, R392, R394). -/
namespace Sys2Proof.Machine

/-! ### What the end of a write leaves -/

/-- `t` keeps of `s` the CQ place and the kept entry of a ring, and every stage. -/
structure State.SamePlace (r : Nat) (s t : State) : Prop where
  cqTail : (t.ring r).cqTail = (s.ring r).cqTail
  kept : (t.ring r).kept = (s.ring r).kept
  stages : t.dsp.stages = s.dsp.stages

section
variable {r : Nat} {s t : State}

theorem State.SamePlace.refl (s : State) : State.SamePlace r s s := ⟨rfl, rfl, rfl⟩

theorem State.SamePlace.trans {u : State} (h : State.SamePlace r s t) (k : State.SamePlace r t u) : State.SamePlace r s u :=
  ⟨k.cqTail.trans h.cqTail, k.kept.trans h.kept, k.stages.trans h.stages⟩

theorem State.SamePlace.setRing {x : Ring} (h : State.SamePlace r s t) (cqTail : x.cqTail = (t.ring r).cqTail)
    (kept : x.kept = (t.ring r).kept) : State.SamePlace r s (t.setRing r x) :=
  h.trans ⟨by simp [cqTail], by simp [kept], rfl⟩

theorem State.SamePlace.tick1 (h : State.SamePlace r s t) (a : Nat) : State.SamePlace r s (t.tick1 a) := h.trans ⟨rfl, rfl, rfl⟩

theorem State.SamePlace.stopRing (h : State.SamePlace r s t) (seq : Word32) (status : Nat) : State.SamePlace r s (t.stopRing r seq status) := by
  unfold State.stopRing
  dsimp only
  split
  · exact (h.setRing (x := { t.ring r with st := .stopped, stopSeq := seq }) rfl rfl).trans ⟨rfl, rfl, rfl⟩
  · exact h

theorem State.SamePlace.ringMessage (h : State.SamePlace r s t) : State.SamePlace r s (t.ringMessage r) := by
  unfold State.ringMessage
  dsimp only
  split
  · exact h
  · refine (h.setRing (x := { t.ring r with unsignalled := 0, unsigStopped := false }) rfl rfl).trans ?_
    generalize t.setRing r _ = u
    rcases u.msix_cases (t.owner r) (bits (t.ring r).irq.toNat 0 12) with e | e | e | e <;> rw [e] <;> exact ⟨rfl, rfl, rfl⟩

theorem State.SamePlace.countEntry (h : State.SamePlace r s t) (stopped irq : Bool) :
    State.SamePlace r s (t.countEntry r stopped irq) := by
  unfold State.countEntry
  split
  · exact h
  · extract_lets x y u
    have counted : State.SamePlace r s u := h.setRing rfl rfl
    split
    · exact counted.ringMessage
    · exact counted

theorem State.SamePlace.drainRing (h : State.SamePlace r s t) : State.SamePlace r s (t.drainRing r) := by
  unfold State.drainRing
  dsimp only
  split
  · exact h.setRing rfl rfl
  · exact h

end

/-- An entry whose write is over: its place and its slot are free, the CQ place moves on. -/
def State.placeTaken (s : State) (r slot : Nat) : State :=
  ({ s with dsp := { s.dsp with stages := s.dsp.stages.del slot }
            flt := { s.flt with stopNext := s.flt.stopNext.filter (· != r) } } : State).setRing r
    { s.ring r with cqTail := ((s.ring r).cqTail + 1) % (s.ring r).entries, writeSeq := (s.ring r).writeSeq + 1, kept := none }

theorem State.entryWritten_samePlace (s : State) (r slot : Nat) (e : List Byte) :
    State.SamePlace r (s.placeTaken r slot) (s.entryWritten r slot e) := by
  unfold State.entryWritten
  extract_lets x stopped status dsp flt freed placed written w ring ended
  have counted : State.SamePlace r (s.placeTaken r slot) w := by
    unfold w
    split
    · exact ((State.SamePlace.refl _).tick1 _).tick1 _
    · exact (State.SamePlace.refl _).tick1 _
  refine State.SamePlace.drainRing (State.SamePlace.countEntry ?_ _ _)
  unfold ended
  split
  · split
    · exact counted.stopRing _ _
    · exact counted.setRing rfl rfl
  · exact counted

theorem State.nextEntry_spec {s : State} {r n : Nat} {st : Stage} (next : s.nextEntry r = some (n, st)) :
    st.ring = r ∧ st.seq = (s.ring r).writeSeq ∧ st.phase = .complete := by
  have holds := List.find?_some next
  simpa [Stage.done, and_assoc] using holds

theorem State.entryBytes_length (s : State) (st : Stage) : (s.entryBytes st).length = 32 := by
  simp [State.entryBytes]

/-! ### The commands -/

section
variable {s : State} {r n : Nat} {st : Stage}

theorem exec_cqEntryWrite_of_open (next : s.nextEntry r = some (n, st)) (free : (s.ring r).kept = none ∨ (s.ring r).st ≠ .stopped) :
    exec (.cqEntryWrite r) s = .next ((
      let e := (s.ring r).kept.getD (s.entryBytes st)
      if (s.storeEntry r e).1 then (s.storeEntry r e).2.entryWritten r n e else (s.storeEntry r e).2.cqFault r e).settle s) := by
  have open_ : ¬ ((s.ring r).kept.isSome = true ∧ (s.ring r).st = .stopped) := by
    rintro ⟨kept, stopped⟩
    rcases free with none | running
    · rw [none] at kept; exact absurd kept (by decide)
    · exact running stopped
  change execCqEntryWrite r s = _
  simp only [execCqEntryWrite, if_neg open_, State.writeEntry, next, answer]

theorem State.storeEntry_of_host {e : List Byte} (host : (s.ring r).locCq = false) (bound : s.hostBlocked (s.owner r) = false) :
    (s.storeEntry r e).1 = true ∧ (s.storeEntry r e).2.out = s.out
      ++ [.hostWrite (s.owner r) ((s.ring r).cqBase.toNat + 32 * (s.ring r).cqTail) e (s.hostStream (s.owner r))] := by
  simp only [State.storeEntry, host, bound, Bool.false_eq_true, if_false, true_and]
  split <;> rfl

theorem exec_cqWriteFault_of_next (next : s.nextEntry r = some (n, st)) :
    exec (.cqWriteFault r) s = .next ((s.cqFault r ((s.ring r).kept.getD (s.entryBytes st))).settle s) := by
  change execCqWriteFault r s = _
  simp only [execCqWriteFault, next, answer]

end

/-- A ring that runs or drains, and that stops. -/
theorem State.stopRing_of_serving {s : State} {r : Nat} (seq : Word32) (status : Nat)
    (serving : (s.ring r).st = .running ∨ (s.ring r).st = .draining) : s.stopRing r seq status
      = ((s.setRing r { s.ring r with st := .stopped, stopSeq := seq }).tick1 hifRingStops).log 0x0701 r (seq.toNat + status * 2 ^ 32)
          (s.ring r).secure := if_pos serving

/-- Settles O22: the entry that stands next is written or kept; the frame of what follows a write gives the place and the slots. -/
theorem completionEntries : Obligations.CompletionEntries := by
  refine ⟨fun s r n st e next same => ?_, fun s r n e => ?_, fun s r none => ?_, fun s r n st e next same => ?_, fun s r counted => ?_⟩
  · subst same
    obtain ⟨ring, seq, complete⟩ := State.nextEntry_spec next
    refine ⟨seq, complete, ring, s.entryBytes_length st, fun free => ⟨fun t stored => ?_, fun t failed => ?_⟩, State.storeEntry_of_host,
      fun kept stopped => ?_⟩
    · simp only [exec_cqEntryWrite_of_open next free, stored, if_true]
    · simp only [exec_cqEntryWrite_of_open next free, failed, Bool.false_eq_true, if_false]
    · change execCqEntryWrite r s = _
      simp only [execCqEntryWrite, kept, stopped, and_self, if_true, answer]
  · obtain ⟨cqTail, kept, stages⟩ := s.entryWritten_samePlace r n e
    refine ⟨?_, ?_, ?_, fun m other => ?_⟩
    · rw [cqTail, State.placeTaken, State.setRing_ring, if_pos rfl]
      rfl
    · rw [kept, State.placeTaken, State.setRing_ring, if_pos rfl]
    · rw [State.stage, stages]
      exact (Map.find_del _ n n).trans (if_pos rfl)
    · rw [State.stage, stages]
      exact (Map.find_del _ n m).trans (if_neg (Ne.symm other))
  · change execCqEntryWrite r s = _
    simp only [execCqEntryWrite, State.writeEntry, none, ite_self, answer]
  · subst same
    refine ⟨exec_cqWriteFault_of_next next, fun serving => ⟨_, exec_cqWriteFault_of_next next, ?_⟩⟩
    rw [State.cqFault, State.stopRing_of_serving _ _ (by simpa using serving)]
    simp
  · change execIrqDelayExpiry r s = _
    simp only [execIrqDelayExpiry, State.ringMessage, if_neg counted, answer]

end Sys2Proof.Machine
end

section
/-! The function table and the region descriptors (spec/14 R381; spec/16 R433, R434, R436). -/
namespace Sys2Proof.Machine

/-! ### What messages leave -/

/-- `t` is `s` after messages of interrupts: pending bits, the two interrupt counters and the record of messages apart, it is `s`. -/
structure State.Messaged (s t : State) : Prop where
  state : t = { s with hif := { s.hif with msix := t.hif.msix }, ctrs := t.ctrs, out := t.out }
  ctr : ∀ a, a ≠ hifIrqSent → a ≠ hifIrqNovec → t.ctr a = s.ctr a

theorem State.Messaged.refl (s : State) : s.Messaged s := ⟨rfl, fun _ _ _ => rfl⟩

theorem State.Messaged.msix {s t : State} (h : s.Messaged t) (f v : Nat) : s.Messaged (t.msix f v) := by
  refine ⟨?_, fun a sent novec => (State.msix_ctr t f v sent novec).trans (h.ctr a sent novec)⟩
  rcases t.msix_cases f v with e | e | e | e <;> rw [e, h.state] <;> rfl

theorem State.Messaged.notifySecure {s t : State} (h : s.Messaged t) : s.Messaged t.notifySecure := by
  unfold State.notifySecure
  dsimp only
  split
  · exact h.msix _ _
  · exact h

theorem State.settle_messaged {new old : State} (alive : (new.mem.stalled && !old.mem.stalled) = false) : new.Messaged (new.settle old) :=
  State.settle_induction (.refl new) (fun _ f v h => h.msix f v) alive

theorem State.Messaged.settle {s new old : State} (h : s.Messaged new) (alive : (new.mem.stalled && !old.mem.stalled) = false) :
    s.Messaged (new.settle old) :=
  State.settle_induction h (fun _ f v h => h.msix f v) alive

/-! ### The function table -/

section
variable {s : State} {f off : Nat} {view : View} {value : Word32}

theorem exec_hifFnTableWrite_of_pf (normal : s.hif.safeMode = false) :
    exec (.hifFnTableWrite 0 f off view value) s = .next ((s.fnTableWrite f off view value).settle s) := by
  change execHifFnTableWrite 0 f off view value s = _
  simp [execHifFnTableWrite, normal, answer]

/-- A write to a word that an entry has, of a function that there is. -/
theorem State.fnTableWrite_of_word (small : f ≤ 64) (word : off ∈ [0x00, 0x04, 0x08, 0x10, 0x14]) :
    s.fnTableWrite f off view value =
      (let put := { s with hif := { s.hif with fns := s.hif.fns.put f ((s.fn f).write off view value) } }
       if f = 0 then (if off = 0x00 ∨ off = 0x04 then s else put)
       else if s.fnRefused f ((s.fn f).write off view value) then s.tick1 hifCmdIgnored else put) := by
  refine if_neg ?_
  simp only [List.contains_iff_mem.mpr word, Bool.not_true, Bool.false_eq_true, false_or, Nat.not_lt]
  exact small

end

/-! ### REG_CTRL -/

section
variable {s : State} {i : Nat} {new : Region}

theorem exec_regCtrlWrite_of_normal {view : View} {value : Word32} (normal : s.hif.safeMode = false)
    (same : new = (s.region i).withCtrl (viewWrite view (BitVec.ofNat 32 (s.region i).ctrl) value regCtrlRw).toNat) :
    exec (.regCtrlWrite i view value) s = .next ((
      if (s.region i).secure ∨ new.secure ∨ (s.regRefusal i new).isSome then s.regionRefused i (regionAddr i)
      else (s.applyRegion i new).regionAccepted).settle s) := by
  change execRegCtrlWrite i view value s = _
  simp only [execRegCtrlWrite, normal, Bool.false_eq_true, if_false, State.regCtrlWrite, ← same, answer]

theorem State.regionRefused_of_secure (addr : Nat) (secure : (s.region i).secure = true) : s.regionRefused i addr
    = (({ s with sec := { s.sec with regionErr := true } } : State).tick1 secRegionRefused).log 0x0301 0 addr :=
  if_pos secure

theorem State.regionRefused_of_open (addr : Nat) (openOld : (s.region i).secure = false) : s.regionRefused i addr
    = ({ s with sec := { s.sec with regionErr := true } } : State).tick1 secRegionRefused :=
  if_neg (Bool.eq_false_iff.mp openOld)

/-- An Open descriptor that takes an Open word: it is cleared where it becomes VALID, else it stands as the word has it. -/
theorem State.applyRegion_of_open (openOld : (s.region i).secure = false) (openNew : new.secure = false) :
    s.applyRegion i new = (
      let t := if (s.region i).valid && !new.valid then (s.setRegion i new).rekey (s.region i) else s.setRegion i new
      if new.valid && !(s.region i).valid then t.startClearing i else t) := by
  simp only [State.applyRegion, openOld, openNew, Bool.not_false, Bool.and_true, Bool.false_and, bne_self_eq_false, Bool.or_false]

theorem State.applyRegion_region_other (openOld : (s.region i).secure = false) (openNew : new.secure = false) {j : Nat} (other : j ≠ i) :
    (s.applyRegion i new).region j = s.region j := by
  rw [State.applyRegion_of_open openOld openNew]
  have kept : ∀ x, (s.setRegion i x).region j = s.region j := fun x => by simp [Ne.symm other]
  dsimp only
  split
  · have cleared : ∀ t : State, t.region j = s.region j → (t.startClearing i).region j = s.region j := fun t same => by
      rw [← same]
      exact (State.setRegion_region (t.rekey (t.region i)) i j _).trans (if_neg (Ne.symm other))
    refine cleared _ ?_
    split <;> exact kept new
  · split <;> exact kept new

/-- A descriptor that becomes VALID is cleared, and no Granary line of its extent is left. -/
theorem State.applyRegion_of_becomes_valid (openOld : (s.region i).secure = false) (openNew : new.secure = false)
    (valid : new.valid = true) (before : (s.region i).valid = false) :
    (s.applyRegion i new).region i = { new with clearing := true }
    ∧ ∀ g ∈ (s.applyRegion i new).mem.lines, g.line * 256 < new.lo ∨ new.hi ≤ g.line * 256 := by
  have clears : s.applyRegion i new = (s.setRegion i new).startClearing i := by
    simp only [State.applyRegion_of_open openOld openNew, valid, before, Bool.false_and, Bool.false_eq_true, if_false, Bool.not_false,
      Bool.and_true, if_true]
  have holds : (s.setRegion i new).region i = new := by simp
  rw [clears]
  refine ⟨?_, fun g member => ?_⟩
  · refine (State.setRegion_region ((s.setRegion i new).rekey ((s.setRegion i new).region i)) i i _).trans ?_
    rw [if_pos rfl, holds]
  · have outside := (List.mem_filter.mp member).2
    rw [holds] at outside
    simp only [Bool.not_eq_true', Bool.and_eq_false_iff, decide_eq_false_iff_not, Nat.not_le, Nat.not_lt] at outside
    exact outside

theorem State.applyRegion_of_stands (openOld : (s.region i).secure = false) (openNew : new.secure = false)
    (stands : new.valid = false ∨ (s.region i).valid = true) : (s.applyRegion i new).region i = new := by
  have noClearing : (new.valid && !(s.region i).valid) = false := by
    rcases stands with h | h <;> simp [h]
  have holds : (s.setRegion i new).region i = new := by simp
  rw [State.applyRegion_of_open openOld openNew]
  simp only [noClearing, Bool.false_eq_true, if_false]
  split <;> exact holds

end

/-! ### The end of a clearing -/

/-- A byte of memory of which the cells at some addresses have been dropped. -/
theorem cellGet_filter (keep : Nat → Bool) (a : Nat) : ∀ {m : List Host.Cell} {lo : Option Nat}, cellsRising lo m = true →
    cellGet (m.filter fun c => keep c.1) a = if keep a then cellGet m a else unlisted
  | [], _, _ => by simp [cellGet]
  | (b, w) :: m, lo, rising => by
    have rest : cellsRising (some b) m = true := (Bool.and_eq_true_iff.mp rising).2
    have ih := cellGet_filter keep a rest
    rw [List.filter_cons]
    by_cases here : b = a
    · subst here
      split
      next => simp [cellGet]
      next dropped => rw [ih, if_neg dropped]
    · by_cases below : a < b
      · have none : cellGet m a = unlisted := cellGet_below rest (Nat.le_of_lt below)
        split
        · simp [cellGet, here, below]
        · rw [ih, none]; simp [cellGet, here, below]
      · have later : cellGet ((b, w) :: m) a = cellGet m a := by simp [cellGet, here, below]
        rw [later, ← ih]
        split
        · simp [cellGet, here, below]
        · rfl

theorem cellGet_cellsZero {m : List Host.Cell} (canonical : Memory.wf m = true) (a k x : Nat) :
    cellGet (cellsZero m a k) x = if a ≤ x ∧ x < a + k then 0#8 else cellGet m x := by
  refine (cellGet_filter (fun b => !(decide (a ≤ b) && decide (b < a + k))) x canonical).trans ?_
  by_cases inside : a ≤ x ∧ x < a + k
  · simp [inside, unlisted]
  · rw [if_neg inside, if_pos (by simp only [Bool.not_eq_true', Bool.and_eq_false_iff, decide_eq_false_iff_not]; omega)]

theorem Region.lo_le_hi (r : Region) : r.lo ≤ r.hi := Nat.mul_le_mul_right _ (Nat.le_add_right _ _)

/-- Whether a line lies in a descriptor's extent. -/
def Region.holdsLine (r : Region) (l : Nat) : Bool := decide (r.lo ≤ l * 256) && decide (l * 256 < r.hi)

/-- The memory after the clearing of an extent. -/
def Mem.cleared (m : Mem) (r : Region) : Mem := { m with
  cells := cellsZero m.cells r.lo (r.hi - r.lo)
  rekeyed := cutRange r.lo (r.hi - r.lo) m.rekeyed
  poison := m.poison.filter (fun l => !r.holdsLine l)
  units := m.units.map (fun (u : Nat × MemUnit) => (u.1, { u.2 with poisonTable := u.2.poisonTable.filter (fun l => !r.holdsLine l) })) }

/-- The state in which a clearing has ended, before its bytes are counted. -/
def State.clearingEnded (s : State) (i : Nat) : State :=
  let r := s.region i
  ({ s.setRegion i { r with clearing := false } with mem := s.mem.cleared r } : State).log 0x0302 i (r.hi - r.lo) r.secure

theorem State.clearingEnded_stalled (s : State) (i : Nat) : (s.clearingEnded i).mem.stalled = s.mem.stalled := rfl

theorem exec_regionClearComplete_of_clearing {s : State} {i : Nat} (clearing : (s.region i).clearing = true) :
    exec (.regionClearComplete i) s = .next ((
      let n := (s.region i).hi - (s.region i).lo
      if (s.region i).secure then ((s.clearingEnded i).bump secClearBytesS n).notifySecure
      else (s.clearingEnded i).bump secClearBytes n).settle s) := by
  change execRegionClearComplete i s = _
  simp only [execRegionClearComplete, clearing, Bool.not_true, Bool.false_eq_true, if_false, answer] <;> rfl

/-- The end of a clearing, with what its count leaves. -/
theorem exec_regionClearComplete_frame {s : State} {i : Nat} (clearing : (s.region i).clearing = true) :
    ∃ a t, a = (if (s.region i).secure then secClearBytesS else secClearBytes) ∧ exec (.regionClearComplete i) s = .next t
      ∧ ((s.clearingEnded i).bump a ((s.region i).hi - (s.region i).lo)).Messaged t := by
  have ran := exec_regionClearComplete_of_clearing clearing
  dsimp only at ran
  cases secure : (s.region i).secure with
  | false =>
    rw [secure, if_neg Bool.false_ne_true] at ran
    exact ⟨_, _, (if_neg Bool.false_ne_true).symm, ran, (State.Messaged.refl _).settle (State.stalled_same (s.clearingEnded_stalled i))⟩
  | true =>
    rw [secure, if_pos rfl] at ran
    have notified := (State.Messaged.refl ((s.clearingEnded i).bump secClearBytesS ((s.region i).hi - (s.region i).lo))).notifySecure
    refine ⟨_, _, (if_pos rfl).symm, ran, notified.settle (State.stalled_same ?_)⟩
    rw [notified.state]
    exact s.clearingEnded_stalled i

/-- Settles O23: the words of the table, the rows of REG_CTRL, the end of a clearing. -/
theorem protectionTables : Obligations.ProtectionTables := by
  refine ⟨⟨fun s f off view value normal vf small word => ⟨fun taken => ?_, fun refused => ?_⟩, fun s off view value normal =>
    ⟨fun word => ?_, fun ringField => ?_, fun fn f other => ?_⟩, fun s i view value new normal same => ⟨fun openOld openNew accepted => ?_,
    fun secure => ?_, fun openOld refused => ?_⟩⟩, fun s i inv clearing => ?_⟩
  · rw [exec_hifFnTableWrite_of_pf normal, State.fnTableWrite_of_word small word]
    simp only [Nat.ne_of_gt vf, if_false, taken, Bool.false_eq_true]
  · rw [exec_hifFnTableWrite_of_pf normal, State.fnTableWrite_of_word small word]
    simp only [Nat.ne_of_gt vf, if_false, refused, if_true]
  · have noRing : ¬ (off = 0x00 ∨ off = 0x04) := by
      simp only [List.mem_cons, List.not_mem_nil, or_false] at word
      omega
    rw [exec_hifFnTableWrite_of_pf normal, State.fnTableWrite_of_word (Nat.zero_le _) (List.mem_cons_of_mem _ (List.mem_cons_of_mem _ word))]
    simp only [if_true, if_neg noRing]
  · have word : off ∈ [0x00, 0x04, 0x08, 0x10, 0x14] := by
      rcases ringField with h | h <;> simp [h]
    rw [exec_hifFnTableWrite_of_pf normal, State.fnTableWrite_of_word (Nat.zero_le _) word]
    simp only [if_true, if_pos ringField]
  · change execHifFnTableWrite fn f off view value s = _
    simp only [execHifFnTableWrite, ne_eq, other, not_false_eq_true, true_or, if_true, answer]
  · refine ⟨?_, rfl, fun valid before => State.applyRegion_of_becomes_valid openOld openNew valid before,
      State.applyRegion_of_stands openOld openNew, fun j other => State.applyRegion_region_other openOld openNew other⟩
    rw [exec_regCtrlWrite_of_normal normal same, if_neg (by simp [openOld, openNew, accepted])]
  · rw [exec_regCtrlWrite_of_normal normal same, if_pos (.inl secure), State.regionRefused_of_secure _ secure]
  · rw [exec_regCtrlWrite_of_normal normal same, if_pos (.inr refused), State.regionRefused_of_open _ openOld]
  · obtain ⟨a, t, counter, ran, messaged⟩ := exec_regionClearComplete_frame clearing
    have span : (s.region i).lo + ((s.region i).hi - (s.region i).lo) = (s.region i).hi := Nat.add_sub_cancel' (s.region i).lo_le_hi
    have mem : t.mem = s.mem.cleared (s.region i) := by rw [messaged.state]; rfl
    have region : ∀ j, t.region j = if i = j then { s.region i with clearing := false } else s.region j := fun j => by
      rw [messaged.state]
      exact State.setRegion_region s i j _
    have counted : t.ctr a = ctrAdd a (s.ctr a) ((s.region i).hi - (s.region i).lo) := by
      rw [messaged.ctr a (by rw [counter]; split <;> decide) (by rw [counter]; split <;> decide)]
      exact Map.get_put_same _ _ _ _
    refine ⟨t, ran, ?_, fun j other => ?_, fun b low high => ?_, fun b outside => ?_, fun l member => ?_, fun open_ => ?_, fun secure => ?_,
      ?_, ?_, ?_, ?_⟩
    · rw [region, if_pos rfl]
    · rw [region, if_neg (Ne.symm other)]
    · rw [mem, Mem.cleared, cellGet_cellsZero inv.cells, span, if_pos ⟨low, high⟩]
    · rw [mem, Mem.cleared, cellGet_cellsZero inv.cells, span, if_neg (by omega)]
    · rw [mem] at member
      obtain ⟨before, outside⟩ := List.mem_filter.mp member
      refine ⟨before, ?_⟩
      simp only [Region.holdsLine, Bool.not_eq_true', Bool.and_eq_false_iff, decide_eq_false_iff_not, Nat.not_le, Nat.not_lt] at outside
      exact outside
    · rw [if_neg (by simp [open_])] at counter
      rw [← counter]; exact counted
    · rw [if_pos secure] at counter
      rw [← counter]; exact counted
    · rw [messaged.state]; rfl
    · rw [messaged.state]; rfl
    · rw [messaged.state]; rfl
    · rw [messaged.state]; rfl

end Sys2Proof.Machine
end

section
/-! Class changes and key requests (spec/06 R156; spec/13 R368; spec/14 R397). -/
namespace Sys2Proof.Machine

/-- What a view writes over zeros: the clear view nothing, the others the value as it stands. -/
theorem woValue_eq (view : View) (value : Word32) : woValue view value = if view = .clear then 0 else value.toNat := by
  have whole : value.toNat &&& 0xFFFFFFFF = value.toNat :=
    (Nat.and_two_pow_sub_one_eq_mod value.toNat 32).trans (Nat.mod_eq_of_lt value.isLt)
  cases view <;> simp [woValue, viewWrite, whole]

theorem bits_eq (v lo w : Nat) : bits v lo w = v / 2 ^ lo % 2 ^ w := by rw [bits, Nat.shiftRight_eq_div_pow]

theorem bits_zero (v k : Nat) : bits v 0 k = v % 2 ^ k := by rw [bits_eq, Nat.pow_zero, Nat.div_one]

theorem State.dspReprio_eq (s : State) (v : Nat) :
    s.dspReprio v = if s.owner (v % 65536) = 0 then s.reprio (v % 65536) (v / 65536 % 8) else s.tick1 dspReprioDenied := by
  simp only [State.dspReprio, bits_zero, bits_eq v 16, Nat.reducePow]

theorem State.vfReprio_eq (s : State) (f v : Nat) : s.vfReprio f v = if v % 1024 < (s.fn f).ringCount
    then s.reprio ((s.fn f).ringBase + v % 1024) (v / 65536 % 8) else s.tick1 dspReprioDenied := by
  simp only [State.vfReprio, bits_zero, bits_eq v 16, Nat.reducePow]

section
variable {s : State} {f v : Nat}

theorem State.keyRequest_of_own {x : EncStream} (stream : s.vid.encs.find (v % 64) = some x) (own : x.fn = f) :
    s.keyRequest f v = { s with vid := { s.vid with encs := s.vid.encs.put (v % 64) { x with keyReq := true } } } := by
  simp only [State.keyRequest, bits_zero, stream, own, ne_eq, not_true, if_false, Nat.reducePow]

theorem State.keyRequest_of_other (other : ∀ x, s.vid.encs.find (v % 64) = some x → x.fn ≠ f) :
    s.keyRequest f v = s.tick1 vidKeyReqDenied := by
  simp only [State.keyRequest, bits_zero, Nat.reducePow]
  cases stream : s.vid.encs.find (v % 64) with
  | none => rfl
  | some x => exact if_pos (other x stream)

theorem State.reprio_stage {r cls n : Nat} {st : Stage} (found : s.stage n = some st) : (s.reprio r cls).stage n
    = some (if st.ring = r ∧ (st.phase = .admitted ∨ st.phase = .running) then { st with cls := cls } else st) := by
  have mapped : ∀ m : Map Nat Stage, m.find n = some st →
      Map.find (m.map fun p => if p.2.ring = r ∧ (p.2.phase = .admitted ∨ p.2.phase = .running) then (p.1, { p.2 with cls := cls }) else p) n
        = some (if st.ring = r ∧ (st.phase = .admitted ∨ st.phase = .running) then { st with cls := cls } else st) := by
    intro m
    induction m with
    | nil => exact fun none => absurd none (by simp)
    | cons p m ih =>
      obtain ⟨k, x⟩ := p
      intro here
      by_cases same : k = n
      · have value : x = st := by simpa [Map.find, same] using here
        subst value
        rw [List.map_cons]
        split <;> simp [Map.find, same]
      · have later : Map.find m n = some st := by simpa [Map.find, same] using here
        rw [List.map_cons, ← ih later]
        split <;> simp [Map.find, same]
  exact mapped s.dsp.stages found

section
variable {view : View} {value : Word32} {ide : Bool}

theorem exec_dspReprio_of_normal (normal : s.hif.safeMode = false) :
    exec (.dspReprio view value) s = .next ((s.dspReprio (woValue view value)).settle s) := by
  change execDspReprio view value s = _
  simp only [execDspReprio, normal, Bool.false_eq_true, if_false, answer]

theorem exec_vidKeyReq_of_normal (normal : s.hif.safeMode = false) :
    exec (.vidKeyReq view value) s = .next ((s.keyRequest 0 (woValue view value)).settle s) := by
  change execVidKeyReq view value s = _
  simp only [execVidKeyReq, normal, Bool.false_eq_true, if_false, answer]

variable (normal : s.hif.safeMode = false) (vf : f ≠ 0) (stream : s.ideRefused f ide = false)
include normal vf stream

theorem exec_hifVfReprio_of_plain : exec (.hifVfReprio f .plain value ide) s = .next ((s.vfReprio f value.toNat).settle s) := by
  change execHifVfReprio f .plain value ide s = _
  simp only [execHifVfReprio, normal, vf, stream, Bool.false_eq_true, or_self, ne_eq, not_true, if_false, answer]

theorem exec_hifVfKeyReq_of_plain : exec (.hifVfKeyReq f .plain value ide) s = .next ((s.keyRequest f value.toNat).settle s) := by
  change execHifVfKeyReq f .plain value ide s = _
  simp only [execHifVfKeyReq, normal, vf, stream, Bool.false_eq_true, or_self, ne_eq, not_true, if_false, answer]

theorem exec_hifVf_of_other_view (other : view ≠ .plain) : exec (.hifVfReprio f view value ide) s = .next (s.settle s)
    ∧ exec (.hifVfKeyReq f view value ide) s = .next (s.settle s) := by
  constructor
  · change execHifVfReprio f view value ide s = _
    simp only [execHifVfReprio, normal, vf, stream, other, Bool.false_eq_true, or_self, ne_eq, not_false_eq_true, if_false, if_true, answer]
  · change execHifVfKeyReq f view value ide s = _
    simp only [execHifVfKeyReq, normal, vf, stream, other, Bool.false_eq_true, or_self, ne_eq, not_false_eq_true, if_false, if_true, answer]

end
end

/-- Settles O24: the PF's registers, the VF's, the stages that take the class, safe mode. -/
theorem classAndKeyRequests : Obligations.ClassAndKeyRequests := by
  refine ⟨fun s view value v normal same => ?_, fun s f value v ide normal vf stream same => ?_,
    fun s r cls n st found => State.reprio_stage found, fun s f view value ide safe => ?_⟩
  · rw [← woValue_eq] at same
    subst same
    rw [exec_dspReprio_of_normal normal, exec_vidKeyReq_of_normal normal, State.dspReprio_eq]
    exact ⟨fun own => by rw [if_pos own], fun other => by rw [if_neg other], fun x found own => by rw [State.keyRequest_of_own found own],
      fun other => by rw [State.keyRequest_of_other other]⟩
  · subst same
    rw [exec_hifVfReprio_of_plain normal vf stream, exec_hifVfKeyReq_of_plain normal vf stream, State.vfReprio_eq]
    exact ⟨fun own => by rw [if_pos own], fun beyond => by rw [if_neg (Nat.not_lt.mpr beyond)],
      fun x found own => by rw [State.keyRequest_of_own found own], fun other => by rw [State.keyRequest_of_other other],
      fun view other => exec_hifVf_of_other_view normal vf stream other⟩
  · change execDspReprio view value s = _ ∧ execVidKeyReq view value s = _ ∧ execHifVfReprio f view value ide s = _
      ∧ execHifVfKeyReq f view value ide s = _
    simp only [execDspReprio, execVidKeyReq, execHifVfReprio, execHifVfKeyReq, safe, true_or, if_true, answer, and_self]

end Sys2Proof.Machine
end

section
/-! Accesses within one line of device memory (spec/10 R251, R264, R281; spec/16 R437). -/
namespace Sys2Proof.Machine

/-! ### The lines of an extent -/

/-- An extent within a line is one piece. -/
theorem linePieces_of_line {a n : Nat} (some_ : 0 < n) (within : a % 256 + n ≤ 256) (fuel : Nat) : linePieces (fuel + 1) a n = [(a, n)] := by
  have fits : min n (256 - a % 256) = n := by omega
  simp only [linePieces, Nat.ne_of_gt some_, if_false, fits, Nat.sub_self]
  cases fuel <;> rfl

/-- With fuel for every line of an extent, each of its addresses lies in the line of a piece. -/
theorem linePieces_line_mem : ∀ {fuel a n i : Nat}, i < n → a % 256 + n ≤ 256 * fuel →
    (a + i) / 256 ∈ (linePieces fuel a n).map (fun p => p.1 / 256)
  | 0, a, n, i, inside, enough => by omega
  | fuel + 1, a, n, i, inside, enough => by
    have some_ : n ≠ 0 := by omega
    simp only [linePieces, if_neg some_, List.map_cons, List.mem_cons]
    by_cases first : i < min n (256 - a % 256)
    · left; omega
    · right
      have rest : (a + min n (256 - a % 256)) % 256 + (n - min n (256 - a % 256)) ≤ 256 * fuel := by omega
      have later := linePieces_line_mem (fuel := fuel) (a := a + min n (256 - a % 256)) (n := n - min n (256 - a % 256))
        (i := i - min n (256 - a % 256)) (by omega) rest
      rwa [show a + min n (256 - a % 256) + (i - min n (256 - a % 256)) = a + i by omega] at later

/-! ### What stands before an access -/

/-- The hedgerow passes a request or gives one of two statuses. -/
theorem hedge_values (r : Option Region) (secure : Bool) (fn : Nat) : hedge r secure fn = 0 ∨ hedge r secure fn = 3 ∨ hedge r secure fn = 4 := by
  unfold hedge
  repeat' split
  all_goals simp

section
variable {s : State} {a : Nat}

/-- An address of device memory lies below the host window. -/
theorem State.lt_of_device (real : s.place a ≠ .reserved) (device : s.place a ≠ .host) : a < 2 ^ 47 := by
  refine Decidable.byContradiction fun high => ?_
  have window : s.place a = if a < 2 ^ 48 then .host else .reserved := if_pos (Nat.le_of_not_lt high)
  rw [window] at real device
  split at real
  next inside => exact device (if_pos inside)
  · exact real rfl

variable (real : s.place a ≠ .reserved) (device : s.place a ≠ .host)
include real device

/-- A read within a line of device memory: by the extents that the device holds, the hedgerow, the line. -/
theorem State.readPiece_of_device (who : Requester) (n hint : Nat) : s.readPiece who a n hint = (
    let st := if touches s.kvExtents a n then 3 else hedge ((s.regionAt a).map Prod.snd) who.secure who.fn
    if st ≠ 0 then (List.replicate n 0#8, st, if st = 4 then s.deny who.secure who.fn a else s)
    else
      let (bs, bad, t) := s.lineGet a n hint who.stage
      (bs, if bad then 8 else 0, if bad then t.poisonRead who.secure who.fn a else t)) := by
  unfold State.readPiece
  extract_lets
  split
  · contradiction
  · contradiction
  · rfl

theorem State.writePiece_of_device (who : Requester) (bs : List Byte) (hint : Nat) : s.writePiece who a bs hint = (
    let st := if touches s.kvExtents a bs.length || touches s.poolExtents a bs.length then 3
      else hedge ((s.regionAt a).map Prod.snd) who.secure who.fn
    if st ≠ 0 then (st, if st = 4 then s.deny who.secure who.fn a else s)
    else if s.lineAway (a / 256) then (0, s.stall)
    else if s.lineOut (a / 256) then (8, s)
    else
      let (discarded, t) := s.touchWrite (a / 256) a bs hint who.stage
      (if discarded then 8 else 0, if discarded then t else t.share who.stage a bs)) := by
  unfold State.writePiece
  extract_lets
  split
  · contradiction
  · contradiction
  · rfl

end

section
variable {s : State} {a n hint : Nat}

/-- A line within reach that is not poisoned and stands under its own key is read as it is. -/
theorem State.lineGet_of_reached (mark : Option Nat) (near : s.lineAway (a / 256) = false) (served : s.lineOut (a / 256) = false)
    (whole : s.poisoned (a / 256) = false) (own : touches s.mem.rekeyed a n = false ∨ (s.resident (a / 256)).isSome) :
    s.lineGet a n hint mark = (s.peeks a n, false, s.touchRead (a / 256) hint mark) := by
  have plain : s.plain a n = s.peeks a n := by
    refine if_neg fun ⟨other, absent⟩ => ?_
    rcases own with untouched | resident
    · rw [untouched] at other; exact absurd other (by decide)
    · rw [Option.isNone_iff_eq_none.mp absent] at resident; exact absurd resident (by decide)
  simp only [State.lineGet, near, served, whole, plain, Bool.false_eq_true, if_false]

/-- A resident line is within reach. -/
theorem State.reached_of_resident {l : Nat} (resident : (s.resident l).isSome) : s.lineAway l = false ∧ s.lineOut l = false := by
  have present : (s.resident l).isNone = false := by simpa [Option.isSome_iff_ne_none] using resident
  simp [State.lineAway, State.lineOut, present]

/-- A write within a line is discarded where the line is poisoned and the write a part of it. -/
theorem State.touchWrite_fst (l : Nat) (bs : List Byte) (who : Option Nat) :
    (s.touchWrite l a bs hint who).1 = (s.poisoned l && !(a % 256 == 0 && bs.length == 256)) := by
  unfold State.touchWrite
  extract_lets whole
  split
  next discarded => exact discarded.symm
  next stored => exact (Bool.eq_false_iff.mpr stored).symm

end

@[simp] theorem State.meet_none (s : State) (status : Nat) : s.meet none status = s := rfl
@[simp] theorem State.share_none (s : State) (a : Nat) (bs : List Byte) : s.share none a bs = s := rfl

/-- A status that no stage notes leaves nothing, but for poison, which is logged. -/
theorem State.writeDone_none {s : State} {who : Requester} {a status : Nat} (noStage : who.stage = none) (noPoison : status ≠ 8) :
    s.writeDone who a status = s := by
  simp [State.writeDone, noStage, noPoison]

end Sys2Proof.Machine
end

section
/-! Configuration space, the host window and BAR4 (spec/14 R379, R382; spec/16 R437). -/
namespace Sys2Proof.Machine

/-! ### Configuration space -/

section
variable {s : State} {f : Nat} {reg : ConfigReg}

theorem exec_pcieConfigRequest_of_retry (w : Option Word32) (notReady : s.hif.notReady = true) (normal : s.hif.safeMode = false) :
    exec (.pcieConfigRequest f ⟨reg, w⟩) s = .next ((s.emit (.configData f reg true 0)).settle s) := by
  change execPcieConfigRequest f ⟨reg, w⟩ s = _
  simp only [execPcieConfigRequest, notReady, normal, Bool.not_false, and_self, if_true, answer]

theorem exec_pcieConfigRequest_of_open (w : Option Word32) (ready : s.hif.notReady = false ∨ s.hif.safeMode = true) :
    exec (.pcieConfigRequest f ⟨reg, w⟩) s = .next ((match w with
      | some v => (s.configWrite f reg v).emit (.configData f reg false 0)
      | none => s.fresh.2.emit (.configData f reg false (s.configWord f reg))).settle s) := by
  have noRetry : ¬ (s.hif.notReady = true ∧ (!s.hif.safeMode) = true) := by
    rintro ⟨notReady, normal⟩
    rcases ready with h | h
    · rw [h] at notReady; exact absurd notReady (by decide)
    · rw [h] at normal; exact absurd normal (by decide)
  change execPcieConfigRequest f ⟨reg, w⟩ s = _
  simp only [execPcieConfigRequest, if_neg noRetry, answer] <;> rfl

@[simp] theorem State.cfgReg_setCfg (s : State) (f : Nat) (r : ConfigReg) (v : Word32) : (s.setCfg f r v).cfgReg f r = v :=
  Map.get_put_same _ _ _ _

/-- The RW bits of a register that holds what software writes. -/
theorem State.configWord_configWrite (v : Word32) (held : reg ∈ [ConfigReg.command, .deviceControl, .linkControl]) :
    (s.configWrite f reg v).configWord f reg = v &&& cfgRw reg := by
  simp only [List.mem_cons, List.not_mem_nil, or_false] at held
  rcases held with rfl | rfl | rfl <;> exact State.cfgReg_setCfg _ _ _ _

/-- An error bit written as one is cleared. -/
theorem State.configWord_configWrite_error (v : Word32) (errors : reg ∈ [ConfigReg.aerUncorrectable, .aerCorrectable]) :
    (s.configWrite f reg v).configWord f reg = s.configWord f reg &&& ~~~v := by
  simp only [List.mem_cons, List.not_mem_nil, or_false] at errors
  rcases errors with rfl | rfl <;> exact State.cfgReg_setCfg _ _ _ _

theorem State.bar4Bytes_configWrite {v : Word32} {k : Nat} (code : k = v.toNat / 256 % 64) (low : 10 ≤ k) (high : k ≤ 20) :
    (s.configWrite 0 .bar4Size v).bar4Bytes 0 = 2 ^ (20 + k) := by
  have field : bits v.toNat 8 6 = k := (bits_eq _ _ _).trans code.symm
  simp only [State.configWrite, field, low, high, and_self, if_true, State.bar4Bytes]

end

/-! ### The host window -/

section
variable {s : State} {a : Nat} {bytes : List Byte}

/-- The lines of a completion, and the lines that stay poisoned beside them. -/
def completionLines (a n : Nat) : List Nat := (linePieces (n / 256 + 2) a n).map (fun p => p.1 / 256)
def State.otherBad (s : State) (lines : List Nat) : List Nat := s.mem.hostBad.filter (fun l => !lines.contains l)

theorem exec_hostWindowCompletion_of_window (how : Completion) (low : 2 ^ 47 ≤ a) (high : a + bytes.length ≤ 2 ^ 48) :
    exec (.hostWindowCompletion a how bytes) s = .next ((
      if how = .data then ({ s with mem := { s.mem with
        hostBad := s.otherBad (completionLines a bytes.length), cells := cellsPut s.mem.cells a bytes } } : State)
      else { s with mem := { s.mem with
        hostBad := s.otherBad (completionLines a bytes.length) ++ completionLines a bytes.length } }).settle s) := by
  have window : ¬ (a < 2 ^ 47 ∨ 2 ^ 48 < a + bytes.length) := by omega
  change execHostWindowCompletion a how bytes s = _
  simp only [execHostWindowCompletion, if_neg window, answer] <;> rfl

theorem hostWindow_data (inv : s.Inv) (low : 2 ^ 47 ≤ a) (high : a + bytes.length ≤ 2 ^ 48) :
    ∃ t, exec (.hostWindowCompletion a .data bytes) s = .next t
      ∧ (∀ i, i < bytes.length → cellGet t.mem.cells (a + i) = bytes.getD i 0)
      ∧ (∀ x, x < a ∨ a + bytes.length ≤ x → cellGet t.mem.cells x = cellGet s.mem.cells x)
      ∧ t.mem.lines = s.mem.lines ∧ t.hif.rings = s.hif.rings := by
  rw [exec_hostWindowCompletion_of_window .data low high, if_pos rfl]
  refine ⟨_, rfl, fun i inside => ?_, fun x outside => ?_, ?_, ?_⟩
  · simpa using cellGet_puts_same inv.cells bytes inside
  · simpa using cellGet_puts_other inv.cells bytes outside
  · simp
  · simp

theorem hostWindow_failed {how : Completion} (low : 2 ^ 47 ≤ a) (high : a + bytes.length ≤ 2 ^ 48) (failed : how ≠ .data) :
    ∃ t, exec (.hostWindowCompletion a how bytes) s = .next t
      ∧ (∀ i, i < bytes.length → (a + i) / 256 ∈ t.mem.hostBad) ∧ t.mem.cells = s.mem.cells := by
  rw [exec_hostWindowCompletion_of_window how low high, if_neg failed]
  refine ⟨_, rfl, fun i inside => ?_, ?_⟩
  · rw [State.settle_mem]
    · exact List.mem_append_right _ (linePieces_line_mem inside (by omega))
    · exact Bool.and_not_self _
  · simp

end

/-! ### BAR4 -/

theorem State.Accessed.wait {s t : State} (h : s.Accessed t) (w : Waiting) : s.Accessed (t.wait w) := h.trans (.of_state rfl)

theorem State.Accessed.writeDone {s t : State} (h : s.Accessed t) (who : Requester) (a status : Nat) : s.Accessed (t.writeDone who a status) := by
  unfold State.writeDone
  split
  · exact h
  · split
    · exact (h.log _ _ _ _).meet _ _
    · exact h.meet _ _

theorem State.Accessed.bar4Put {s t : State} (h : s.Accessed t) (who : Requester) (a : Nat) (bs : List Byte) :
    s.Accessed (t.bar4Put who a bs) := by
  unfold State.bar4Put
  split
  · exact h
  · split
    · exact h.wait _
    · exact (h.writePiece _ _ _ _).writeDone _ _ _

theorem State.Accessed.fnSecure {s t : State} (h : s.Accessed t) (f : Nat) : t.fnSecure f = s.fnSecure f := by rw [h.state]; rfl

/-- The pieces of a BAR4 write all come from the requester that the function is at its start. -/
theorem State.bar4Put_foldl (s : State) (f : Nat) (bytes : Nat × Nat → List Byte) : ∀ (l : List (Nat × Nat)) (t : State), s.Accessed t →
    l.foldl (fun t p => t.bar4Put (t.bar4Who f) p.1 (bytes p)) t = l.foldl (fun t p => t.bar4Put (s.bar4Who f) p.1 (bytes p)) t
  | [], _, _ => rfl
  | p :: l, t, h => by
    have same : t.bar4Who f = s.bar4Who f := by rw [State.bar4Who, h.fnSecure]; rfl
    rw [List.foldl_cons, List.foldl_cons, same]
    exact State.bar4Put_foldl s f bytes l _ (h.bar4Put _ _ _)

section
variable {s : State} {f off a : Nat} {who : Requester} {ide : Bool} (normal : s.hif.safeMode = false) (stream : s.ideRefused f ide = false)
  (place : a = (s.fn f).bar4 + off) (by_ : who = ⟨s.fnSecure f, f, none⟩)
include normal stream place by_

theorem exec_bar4Read_of_open {n : Nat} (within : off + n ≤ s.bar4Bytes f) :
    exec (.bar4Read f off n ide) s = .next ((s.bar4Ask who a n).settle s) := by
  subst place by_
  change execBar4Read f off n ide s = _
  simp only [execBar4Read, Nat.not_lt.mpr within, normal, stream, Bool.false_eq_true, if_false, State.bar4Who, answer]

theorem exec_bar4Write_of_open {bytes : List Byte} (within : off + bytes.length ≤ s.bar4Bytes f) :
    exec (.bar4Write f off bytes ide) s = .next (((linePieces (bytes.length / 256 + 2) a bytes.length).foldl
      (fun t p => t.bar4Put who p.1 ((bytes.drop (p.1 - a)).take p.2)) s).settle s) := by
  subst place by_
  change execBar4Write f off bytes ide s = _
  simp only [execBar4Write, Nat.not_lt.mpr within, normal, stream, Bool.false_eq_true, if_false, answer]
  rw [State.bar4Put_foldl s f (fun p => (bytes.drop (p.1 - ((s.fn f).bar4 + off))).take p.2) _ s (.refl s)]
  rfl

end

section
variable {s : State} {a : Nat} {who : Requester}

/-- A BAR4 read within one line. -/
theorem State.bar4Ask_of_line {n : Nat} (some_ : 0 < n) (within : a % 256 + n ≤ 256) :
    s.bar4Ask who a n = if s.bar4Waits who a n false then s.wait (.bar4 who (a / 256) a n)
      else (s.bar4Piece who a n).2.2.emit (.pcieData who.fn (if (s.bar4Piece who a n).2.1 then .poison else .data) (s.bar4Piece who a n).1) := by
  simp only [State.bar4Ask, linePieces_of_line some_ within, List.find?_cons, List.find?_nil]
  cases s.bar4Waits who a n false with
  | true => rfl
  | false =>
    simp only [State.bar4Read, linePieces_of_line some_ within, List.foldl_cons, List.foldl_nil, List.nil_append, Bool.false_or,
      Bool.false_eq_true, if_false]

theorem linePieces_foldl_line {f : State → Nat → List Byte → State} {bytes : List Byte} (some_ : 0 < bytes.length)
    (within : a % 256 + bytes.length ≤ 256) (fuel : Nat) : (linePieces (fuel + 1) a bytes.length).foldl
      (fun t p => f t p.1 ((bytes.drop (p.1 - a)).take p.2)) s = f s a bytes := by
  rw [linePieces_of_line some_ within]
  simp

/-- A hub that serves leaves no address of its memory unserved. -/
theorem State.unserved_of_serves (serves : s.hubServes a = true) : s.unserved who a = false := by
  simp [State.unserved, serves]

/-- The status before the line, of a hub that serves. -/
theorem State.requestStatus_of_serves {n : Nat} {write : Bool} (serves : s.hubServes a = true) : s.requestStatus who a n write
    = if touches s.kvExtents a n || (write && touches s.poolExtents a n) then 3 else hedge ((s.regionAt a).map Prod.snd) who.secure who.fn := by
  simp only [State.requestStatus, State.unserved_of_serves serves, serves, Bool.not_true, Bool.and_false, Bool.false_eq_true, if_false]

theorem State.bar4Waits_of_reached {n : Nat} {write : Bool} (free : s.lineWaits (a / 256) = false) (near : s.lineAway (a / 256) = false) :
    s.bar4Waits who a n write = false := by
  simp [State.bar4Waits, free, near]

theorem State.bar4Waits_of_refused {n : Nat} {write : Bool} (refused : s.requestStatus who a n write ≠ 0) :
    s.bar4Waits who a n write = false := by
  simp [State.bar4Waits, refused]

variable (real : s.place a ≠ .reserved) (device : s.place a ≠ .host)
include real device

/-- A piece of a served address of device memory is neither of the host window nor of a reserved range. -/
theorem State.bar4_reaches (served : s.unserved who a = false) : ¬ (2 ^ 47 ≤ a ∨ s.place a = .reserved ∨ s.unserved who a = true) := by
  rintro (high | reserved | unserved)
  · exact absurd (State.lt_of_device real device) (Nat.not_lt.mpr high)
  · exact real reserved
  · rw [served] at unserved; exact absurd unserved (by decide)

theorem State.bar4Waits_of_serves {n : Nat} {write : Bool} (serves : s.hubServes a = true)
    (waits : s.lineWaits (a / 256) = true ∨ s.lineAway (a / 256) = true) : s.bar4Waits who a n write = (s.requestStatus who a n write == 0) := by
  have low : decide (a < 2 ^ 47) = true := decide_eq_true (State.lt_of_device real device)
  have there : (s.place a != .reserved) = true := bne_iff_ne.mpr real
  have line : (s.lineWaits (a / 256) || s.lineAway (a / 256)) = true := by simpa using waits
  simp only [State.bar4Waits, low, there, line, Bool.true_and, Bool.and_true]

/-- A piece of a BAR4 access to device memory that is served reaches the line. -/
theorem State.bar4Piece_of_served (n : Nat) (served : s.unserved who a = false) : s.bar4Piece who a n
    = ((s.readPiece who a n 0).1, (s.readPiece who a n 0).2.1 == 8, (s.readPiece who a n 0).2.2) :=
  if_neg (State.bar4_reaches real device served)

theorem State.bar4Put_of_served {bytes : List Byte} (served : s.unserved who a = false) : s.bar4Put who a bytes
    = if s.bar4Waits who a bytes.length true then s.wait (.write who a 0 bytes)
      else (s.writePiece who a bytes 0).2.writeDone who a (s.writePiece who a bytes 0).1 :=
  if_neg (State.bar4_reaches real device served)

end

/-- A permitted BAR4 read of a line within reach answers its bytes, and one that waits answers none yet. -/
theorem bar4Read_of_passed {s : State} {a n : Nat} {who : Requester} (noStage : who.stage = none) (some_ : 0 < n) (within : a % 256 + n ≤ 256)
    (real : s.place a ≠ .reserved) (device : s.place a ≠ .host) (served : s.unserved who a = false) (noKv : touches s.kvExtents a n = false)
    (passed : hedge ((s.regionAt a).map Prod.snd) who.secure who.fn = 0) :
    (s.lineWaits (a / 256) = false → s.lineAway (a / 256) = false → s.lineOut (a / 256) = false → s.poisoned (a / 256) = false →
      touches s.mem.rekeyed a n = false →
      s.bar4Ask who a n = (s.touchRead (a / 256) 0 none).emit (.pcieData who.fn .data (s.peeks a n)))
    ∧ (s.hubServes a = true → s.lineWaits (a / 256) = true ∨ s.lineAway (a / 256) = true →
      s.bar4Ask who a n = s.wait (.bar4 who (a / 256) a n)) := by
  refine ⟨fun free near there whole own => ?_, fun serves waits => ?_⟩
  · rw [State.bar4Ask_of_line some_ within, State.bar4Waits_of_reached free near, if_neg Bool.false_ne_true,
      State.bar4Piece_of_served real device n served, State.readPiece_of_device real device]
    simp [noKv, passed, State.lineGet_of_reached _ near there whole (.inl own), noStage]
  · rw [State.bar4Ask_of_line some_ within, State.bar4Waits_of_serves real device serves waits, State.requestStatus_of_serves serves]
    simp [noKv, passed]

/-- A BAR4 read that the hedgerow refuses answers zeros, and the denial is counted. -/
theorem bar4Read_of_denied {s : State} {a n st : Nat} {who : Requester} (some_ : 0 < n) (within : a % 256 + n ≤ 256)
    (real : s.place a ≠ .reserved) (device : s.place a ≠ .host) (serves : s.hubServes a = true) (noKv : touches s.kvExtents a n = false)
    (denied : hedge ((s.regionAt a).map Prod.snd) who.secure who.fn = st) (refused : st ≠ 0) :
    s.bar4Ask who a n
      = (if st = 4 then s.deny who.secure who.fn a else s).emit (.pcieData who.fn .data (List.replicate n 0#8)) := by
  have noWait : s.bar4Waits who a n false = false := by
    refine State.bar4Waits_of_refused ?_
    rw [State.requestStatus_of_serves serves]
    simp [noKv, denied, refused]
  have noPoison : st ≠ 8 := by
    have values := hedge_values ((s.regionAt a).map Prod.snd) who.secure who.fn
    omega
  rw [State.bar4Ask_of_line some_ within, noWait, if_neg Bool.false_ne_true,
    State.bar4Piece_of_served real device n (State.unserved_of_serves serves), State.readPiece_of_device real device]
  simp [noKv, denied, refused, noPoison]

theorem bar4Read_of_reserved {s : State} {a n : Nat} {who : Requester} (some_ : 0 < n) (within : a % 256 + n ≤ 256)
    (reserved : s.place a = .reserved) : s.bar4Ask who a n = s.emit (.pcieData who.fn .data (List.replicate n 0#8)) := by
  rw [State.bar4Ask_of_line some_ within, if_neg (by simp [State.bar4Waits, reserved])]
  simp [State.bar4Piece, reserved]

/-- A BAR4 write within one line: stored, waiting, or refused. -/
theorem bar4Write_of_line {s : State} {a : Nat} {who : Requester} {bytes : List Byte} (noStage : who.stage = none)
    (real : s.place a ≠ .reserved) (device : s.place a ≠ .host) (serves : s.hubServes a = true)
    (noKv : touches s.kvExtents a bytes.length = false) (noPool : touches s.poolExtents a bytes.length = false) :
    (hedge ((s.regionAt a).map Prod.snd) who.secure who.fn = 0 →
      (s.lineWaits (a / 256) = false → s.lineAway (a / 256) = false → s.lineOut (a / 256) = false → s.poisoned (a / 256) = false →
        s.bar4Put who a bytes = (s.touchWrite (a / 256) a bytes 0 none).2)
      ∧ (s.lineWaits (a / 256) = true ∨ s.lineAway (a / 256) = true → s.bar4Put who a bytes = s.wait (.write who a 0 bytes)))
    ∧ (∀ st, hedge ((s.regionAt a).map Prod.snd) who.secure who.fn = st → st ≠ 0 →
      s.bar4Put who a bytes = if st = 4 then s.deny who.secure who.fn a else s) := by
  have served := State.unserved_of_serves (who := who) serves
  refine ⟨fun passed => ⟨fun free near there whole => ?_, fun waits => ?_⟩, fun st denied refused => ?_⟩
  · have taken : (s.touchWrite (a / 256) a bytes 0 none).1 = false := by rw [State.touchWrite_fst, whole, Bool.false_and]
    rw [State.bar4Put_of_served real device served, State.bar4Waits_of_reached free near, if_neg Bool.false_ne_true,
      State.writePiece_of_device real device]
    simp [noKv, noPool, passed, near, there, noStage, taken, State.writeDone]
  · rw [State.bar4Put_of_served real device served, State.bar4Waits_of_serves real device serves waits, State.requestStatus_of_serves serves]
    simp [noKv, noPool, passed]
  · have noWait : s.bar4Waits who a bytes.length true = false := by
      refine State.bar4Waits_of_refused ?_
      rw [State.requestStatus_of_serves serves]
      simp [noKv, noPool, denied, refused]
    have noPoison : st ≠ 8 := by
      have values := hedge_values ((s.regionAt a).map Prod.snd) who.secure who.fn
      omega
    rw [State.bar4Put_of_served real device served, noWait, if_neg Bool.false_ne_true, State.writePiece_of_device real device]
    simp [noKv, noPool, denied, refused, State.writeDone_none noStage noPoison]

/-- Settles O25: the configuration space, the host window, BAR4 read and written. -/
theorem hostAccesses : Obligations.HostAccesses := by
  refine ⟨fun s f reg w => ⟨exec_pcieConfigRequest_of_retry w, fun open_ => ⟨?_, ?_⟩⟩,
    fun s f reg v => ⟨rfl, State.configWord_configWrite v, State.configWord_configWrite_error v, fun k => State.bar4Bytes_configWrite⟩,
    fun s a bytes => hostWindow_data, fun s a how bytes => hostWindow_failed,
    fun s f off n a who ide normal stream place by_ within => ?_, fun s f off a who ide bytes normal stream place by_ within => ?_⟩
  · rintro rfl
    rw [exec_pcieConfigRequest_of_open none open_]
    rfl
  · rintro v rfl
    rw [exec_pcieConfigRequest_of_open (some v) open_]
  · have asked := exec_bar4Read_of_open normal stream place by_ within
    have fn : who.fn = f := by rw [by_]
    have noStage : who.stage = none := by rw [by_]
    refine ⟨asked, fun some_ line real device served noKv passed => ?_, fun st some_ line real device serves noKv denied refused => ?_,
      fun some_ line reserved => ?_⟩
    · obtain ⟨reached, waits⟩ := bar4Read_of_passed noStage some_ line real device served noKv (fn ▸ passed)
      rw [fn] at reached
      refine ⟨fun free near there whole own => ?_, fun serves away => ?_⟩
      · rw [asked, reached free near there whole own]
      · rw [asked, waits serves away]
    · rw [asked, bar4Read_of_denied some_ line real device serves noKv (fn ▸ denied) refused, fn]
    · rw [asked, bar4Read_of_reserved some_ line reserved, fn]
  · have put := exec_bar4Write_of_open normal stream place by_ within
    have fn : who.fn = f := by rw [by_]
    have noStage : who.stage = none := by rw [by_]
    refine ⟨put, fun some_ line real device serves noKv noPool => ?_⟩
    rw [linePieces_foldl_line (f := fun t b bs => t.bar4Put who b bs) some_ line] at put
    obtain ⟨passes, denies⟩ := bar4Write_of_line noStage real device serves noKv noPool
    rw [fn] at passes denies
    refine ⟨fun passed => ⟨fun free near there whole => ?_, fun waits => ?_⟩, fun st denied refused => ?_⟩
    · rw [put, (passes passed).1 free near there whole]
    · rw [put, (passes passed).2 waits]
    · rw [put, denies st denied refused]

end Sys2Proof.Machine
end

section
/-! What the end of a stage leaves of the rest of the device, and the ends that a failure of an interface brings (spec/14 R391, R395; spec/16 R439). -/
namespace Sys2Proof.Machine

theorem Map.mem_of_find {κ α : Type} [DecidableEq κ] : ∀ {m : Map κ α} {k : κ} {a : α}, m.find k = some a → (k, a) ∈ m
  | [], _, _, found => absurd found (by simp)
  | (k', b) :: m, k, a, found => by
    rw [Map.find] at found
    split at found
    next same => rw [← Option.some.inj found, ← same]; exact List.mem_cons_self
    next => exact List.mem_cons_of_mem _ (Map.mem_of_find found)

/-! ### The frame of an end -/

/-- `t` is `s` after stages have ended: the rings, the stages with their sets and barriers, the cores, the key-value runs, the memory and
the records apart it is `s`; every set is one that there was, and the live sequences of each function stay. -/
structure State.Ends (s t : State) : Prop where
  state : t = { s with
    hif := { s.hif with rings := t.hif.rings, msix := t.hif.msix }, dsp := { t.dsp with admCount := s.dsp.admCount }
    cores := { s.cores with core := t.cores.core }, mem := t.mem, sec := { s.sec with denials := t.sec.denials }
    kv := { s.kv with seqs := t.kv.seqs, runs := t.kv.runs, releases := t.kv.releases }, ctrs := t.ctrs, evlog := t.evlog, out := t.out }
  sets : ∀ p ∈ t.dsp.sets, ∃ q ∈ s.dsp.sets, q.2.ring = p.2.ring
  seqs : ∀ f, s.seqsOf f ⊆ t.seqsOf f

theorem State.Ends.refl (s : State) : s.Ends s := ⟨rfl, fun p member => ⟨p, member, rfl⟩, fun _ _ member => member⟩

theorem State.Ends.trans {s t u : State} (h : s.Ends t) (k : t.Ends u) : s.Ends u := by
  refine ⟨by rw [k.state, h.state], fun p member => ?_, fun f _ live => k.seqs f (h.seqs f live)⟩
  obtain ⟨q, there, same⟩ := k.sets p member
  obtain ⟨q', there', same'⟩ := h.sets q there
  exact ⟨q', there', same'.trans same⟩

/-- An end that leaves the sets and the sequences alone. -/
theorem State.Ends.of_state {s t : State} (state : t = { s with
    hif := { s.hif with rings := t.hif.rings, msix := t.hif.msix }, dsp := { t.dsp with admCount := s.dsp.admCount }
    cores := { s.cores with core := t.cores.core }, mem := t.mem, sec := { s.sec with denials := t.sec.denials }
    kv := { s.kv with seqs := t.kv.seqs, runs := t.kv.runs, releases := t.kv.releases }, ctrs := t.ctrs, evlog := t.evlog, out := t.out })
    (sets : t.dsp.sets = s.dsp.sets) (seqs : t.kv.seqs = s.kv.seqs) : s.Ends t :=
  ⟨state, fun p member => ⟨p, sets ▸ member, rfl⟩, fun f => by rw [State.seqsOf, State.seqsOf, seqs]; exact List.Subset.refl _⟩

theorem State.Accessed.ends {s t : State} (h : s.Accessed t) : s.Ends t :=
  .of_state (by rw [h.state]) (by rw [h.state]) (by rw [h.state])

theorem State.Ends.foldl {α : Type} {f : State → α → State} (each : ∀ (t : State) a, t.Ends (f t a)) (l : List α) (s : State) :
    s.Ends (l.foldl f s) :=
  List.foldlRecOn (motive := fun t : State => s.Ends t) l f (.refl s) fun t h a _ => h.trans (each t a)

theorem State.setStage_ends (s : State) (n : Nat) (x : Stage) : s.Ends (s.setStage n x) := .of_state rfl rfl rfl
theorem State.setRing_ends (s : State) (r : Nat) (x : Ring) : s.Ends (s.setRing r x) := .of_state rfl rfl rfl
theorem State.tick1_ends (s : State) (a : Nat) : s.Ends (s.tick1 a) := .of_state rfl rfl rfl

theorem State.settleTable_ends (s : State) (n : Nat) (st : Stage) : s.Ends (s.settleTable n st) := by
  unfold State.settleTable
  split
  · exact .refl s
  · exact State.Ends.trans (t := { s with kv := { s.kv with runs := s.kv.runs.del n } }) (.of_state rfl rfl rfl)
      ((State.Accessed.refl _).writeFor _ _ _ _).ends

/-- A thaw takes no sequence from a function. -/
theorem State.thaw_ends (s : State) (secure : Bool) : s.Ends (s.thaw secure) := by
  refine ⟨rfl, fun p member => ⟨p, member, rfl⟩, fun f k member => ?_⟩
  obtain ⟨p, held, rfl⟩ := List.mem_map.mp member
  obtain ⟨there, live⟩ := List.mem_filter.mp held
  have thawed := List.mem_map_of_mem (f := fun p : Nat × KvSeq =>
    if p.2.st = .frozen ∧ p.2.secure = secure then (p.1, { p.2 with st := .live }) else p) there
  refine List.mem_map.mpr ⟨_, List.mem_filter.mpr ⟨thawed, ?_⟩, ?_⟩
  · simp only [Bool.and_eq_true] at live
    split <;> simp [live]
  · split <;> rfl

theorem State.thawAfter_ends (s : State) (n : Nat) (st : Stage) : s.Ends (s.thawAfter n st) := by
  unfold State.thawAfter
  split
  · exact s.thaw_ends _
  · exact .refl s

theorem State.discardMarked_ends (s : State) (n : Nat) : s.Ends (s.discardMarked n) := by
  unfold State.discardMarked
  dsimp only
  split
  · exact .refl s
  · exact .of_state rfl rfl rfl

theorem State.releaseSet_ends (s : State) (secure : Bool) (id : Nat) : s.Ends (s.releaseSet secure id) :=
  ⟨rfl, fun p member => ⟨p, (Map.mem_del.mp member).1, rfl⟩, fun _ _ member => member⟩

theorem State.settleSets_ends (s : State) (n : Nat) (st : Stage) (status : Nat) : s.Ends (s.settleSets n st status) := by
  unfold State.settleSets
  extract_lets t out
  have released : s.Ends t := by
    unfold t
    split
    · exact s.releaseSet_ends _ _
    · exact .refl s
  split
  · exact .refl s
  · split
    · exact released
    · split
      · exact released
      next x found =>
        split
        · exact released
        · split
          · exact released.trans (t.releaseSet_ends _ _)
          · refine released.trans ⟨rfl, fun p member => ?_, fun _ _ member => member⟩
            rcases Map.mem_put member with rfl | there
            · exact ⟨_, Map.mem_of_find found, rfl⟩
            · exact ⟨p, there, rfl⟩

theorem State.atEnd_ends (s : State) (n : Nat) (st : Stage) (status : Nat) : s.Ends (s.atEnd n st status) := by
  have table := (s.settleTable_ends n st).trans (State.thawAfter_ends _ n st)
  have left := table.trans (u := ((s.settleTable n st).thawAfter n st).leaveReleases n) (.of_state rfl rfl rfl)
  have shared := (left.trans (State.discardMarked_ends _ n)).trans (u := State.endShares _ n) (.of_state rfl rfl rfl)
  exact shared.trans (State.settleSets_ends _ n st status)

theorem State.finish_ends (s : State) (n status : Nat) : s.Ends (s.finish n status) := by
  cases found : s.stage n with
  | none => rw [State.finish, found]; exact .refl s
  | some st =>
    cases done : st.done with
    | true => rw [State.finish_of_done status found done]; exact .refl s
    | false =>
      rw [State.finish_of_open status found done]
      extract_lets t x y
      have decided : s.Ends y := (s.atEnd_ends n st status).trans (State.setStage_ends _ _ _)
      split
      · exact decided
      · exact decided.trans (State.setRing_ends _ _ _)

theorem State.finishWorst_ends (s : State) (n own : Nat) : s.Ends (s.finishWorst n own) := by
  unfold State.finishWorst
  split
  · exact .refl s
  next st _ =>
    extract_lets t
    have settled : s.Ends t := by
      unfold t
      split
      · exact .refl s
      · exact s.settleTable_ends n st
    exact settled.trans (t.finish_ends n _)

/-- What holds of a stage of a ring that is reset, marked, without its tasks or its arrival, and is kept by its end, holds once it is ended. -/
theorem State.endStage_induction {P : State → Prop} {s : State} {n : Nat} (start : P s) (mark : ∀ x, P (s.setStage n x))
    (drop : ∀ x p, P ((s.setStage n x).dropTasks n p)) (withdraw : ∀ secure, P (s.withdrawBarrier n secure))
    (finish : ∀ t status, P t → P (t.finish n status)) : P (s.endStage n) := by
  unfold State.endStage
  split
  · exact start
  next st _ =>
    split
    · exact start
    · split
      · exact finish _ _ (withdraw _)
      · split
        · exact finish _ _ start
        · dsimp only
          split
          · split
            · exact finish _ _ (drop _ _)
            · exact drop _ _
          · split
            · exact finish _ _ (mark _)
            · split
              · split
                · exact finish _ _ (mark _)
                · split
                  · exact finish _ _ (mark _)
                  · exact mark _
              · exact mark _

theorem State.endStage_ends (s : State) (n : Nat) : s.Ends (s.endStage n) :=
  State.endStage_induction (.refl s) (s.setStage_ends n) (fun x _ => (s.setStage_ends n x).trans (.of_state rfl rfl rfl))
    (fun _ => .of_state rfl rfl rfl) fun t status h => h.trans (t.finish_ends n status)

theorem State.resetRing_ends (s : State) (r : Nat) : s.Ends (s.resetRing r) := by
  unfold State.resetRing
  dsimp only
  split
  · exact (s.setRing_ends r _).trans (.foldl (fun (t : State) (p : Nat × Stage) => t.endStage_ends p.1) _ _)
  · exact .refl s

theorem State.resetRings_ends (s : State) (f : Nat) : s.Ends (s.resetRings f) := .foldl State.resetRing_ends _ _

end Sys2Proof.Machine
end

section
/-! Resets of functions, and the Secure objects that end with them (spec/14 R386; spec/16 R439, R440). -/
namespace Sys2Proof.Machine

/-! ### Streams that close -/

/-- `t` is `s` but for the video streams, the ingest entries, the power state and the counters. -/
def State.SameStreamsAside (s t : State) : Prop := t = { s with vid := t.vid, ing := t.ing, pwr := t.pwr, ctrs := t.ctrs }

theorem State.SameStreamsAside.refl (s : State) : s.SameStreamsAside s := rfl

theorem State.SameStreamsAside.trans {s t u : State} (h : s.SameStreamsAside t) (k : t.SameStreamsAside u) : s.SameStreamsAside u := by
  unfold State.SameStreamsAside at h k ⊢
  rw [k, h]

theorem State.setEntry_eq (s : State) (n i : Nat) (e : IngEntry) : s.setEntry n i e = { s with ing := (s.setEntry n i e).ing } := by
  unfold State.setEntry
  split <;> rfl

/-- An entry that becomes ready, and one that goes to an engine, leave the streams. -/
theorem State.missAll_eq (s : State) (h : Nat) :
    s.missAll h = { s with ing := (s.missAll h).ing, pwr := (s.missAll h).pwr, ctrs := (s.missAll h).ctrs } := by
  have ready : ∀ (t : State) (n i : Nat) (e : IngEntry), t.readyEntry n i e
      = { t with ing := (t.readyEntry n i e).ing, ctrs := (t.readyEntry n i e).ctrs } := fun t n i e => by
    rw [State.readyEntry, State.setEntry_eq]
    rfl
  have assign : ∀ t : State, t.assignEngines = { t with
      ing := t.assignEngines.ing, pwr := t.assignEngines.pwr, ctrs := t.assignEngines.ctrs } := fun t => by
    refine List.foldlRecOn (motive := fun u : State => u = { t with ing := u.ing, pwr := u.pwr, ctrs := u.ctrs }) _ _ rfl fun u same e _ => ?_
    split
    · split
      · exact same
      next g _ _ =>
        rw [(State.knock_samePowerAside _ _ : _ = _), State.setEntry_eq, same]
    · exact same
  have missed : ∀ (l : List (Nat × Nat × IngEntry)) (f : State → Nat × Nat × IngEntry → State), (∀ t e, f t e = t ∨ ∃ n i x, f t e = t.readyEntry n i x) →
      l.foldl f s = { s with ing := (l.foldl f s).ing, ctrs := (l.foldl f s).ctrs } := fun l f each =>
    List.foldlRecOn (motive := fun u : State => u = { s with ing := u.ing, ctrs := u.ctrs }) l f rfl fun u same e _ => by
      rcases each u e with stays | ⟨n, i, x, becomes⟩
      · rw [stays]; exact same
      · rw [becomes, ready, same]
  rw [State.missAll, assign, missed _ _ fun t e => ?_]
  split
  · exact .inl rfl
  · dsimp only
    split
    · exact .inr ⟨_, _, _, rfl⟩
    · exact .inl rfl

theorem State.closeDec_sameStreamsAside (s : State) (i : Nat) : s.SameStreamsAside (s.closeDec i) := by
  have missed : s.SameStreamsAside (s.missAll (streamHandle i (s.vid.decGen.get 0 i))) := by
    unfold State.SameStreamsAside
    rw [State.missAll_eq]
  unfold State.closeDec
  dsimp only
  split
  · exact missed
  · exact missed.trans rfl

theorem State.closeDec_streams (s : State) (i j : Nat) :
    (s.closeDec i).vid.decs.find j = (if i = j then none else s.vid.decs.find j) ∧ (s.closeDec i).vid.encs = s.vid.encs := by
  have vid : (s.missAll (streamHandle i (s.vid.decGen.get 0 i))).vid = s.vid := by rw [State.missAll_eq]
  unfold State.closeDec
  dsimp only
  rw [vid]
  split
  next absent =>
    rw [vid]
    refine ⟨?_, rfl⟩
    split
    next same => rw [← same, absent]
    · rfl
  · exact ⟨Map.find_del _ _ _, rfl⟩

theorem State.closeEnc_sameStreamsAside (s : State) (i : Nat) : s.SameStreamsAside (s.closeEnc i) := by
  unfold State.closeEnc
  split <;> rfl

theorem State.closeEnc_streams (s : State) (i j : Nat) :
    (s.closeEnc i).vid.encs.find j = (if i = j then none else s.vid.encs.find j) ∧ (s.closeEnc i).vid.decs = s.vid.decs := by
  unfold State.closeEnc
  split
  next absent =>
    refine ⟨?_, rfl⟩
    split
    next same => rw [← same, Option.isNone_iff_eq_none.mp absent]
    · rfl
  · exact ⟨Map.find_del _ _ _, rfl⟩

theorem State.SameStreamsAside.foldl {f : State → Nat → State} (each : ∀ t i, State.SameStreamsAside t (f t i)) (l : List Nat) (s : State) :
    s.SameStreamsAside (l.foldl f s) :=
  List.foldlRecOn (motive := fun t : State => s.SameStreamsAside t) l f (.refl s) fun t h i _ => h.trans (each t i)

/-- Of the streams closed one after another, none is left. -/
theorem find_foldl_none {α : Type} {f : State → Nat → State} {map : State → Map Nat α} (each : ∀ t i j, (map (f t i)).find j = if i = j then none else (map t).find j) :
    ∀ (l : List Nat) (s : State) (j : Nat), j ∈ l ∨ (map s).find j = none → (map (l.foldl f s)).find j = none
  | [], _, _, closed => closed.resolve_left (by simp)
  | i :: l, s, j, closed => by
    refine find_foldl_none each l (f s i) j ?_
    rw [each]
    rcases closed with listed | absent
    · rcases List.mem_cons.mp listed with rfl | later
      · exact .inr (if_pos rfl)
      · exact .inl later
    · exact .inr (by rw [absent, ite_self])

/-! ### Channels that stop -/

theorem State.Ends.withPace {s t : State} (h : s.Ends t) (p : Map Nat PaceChan) : ({ s with pace := p } : State).Ends { t with pace := p } :=
  ⟨by rw [h.state], h.sets, h.seqs⟩

/-- `t` is `s` after ends, and with other channels. -/
def State.EndsChans (s t : State) : Prop := ({ s with pace := t.pace } : State).Ends t

theorem State.EndsChans.trans {s t u : State} (h : s.EndsChans t) (k : t.EndsChans u) : s.EndsChans u :=
  (State.Ends.withPace h u.pace).trans k

theorem State.Ends.pace {s t : State} (h : s.Ends t) : t.pace = s.pace := by rw [h.state]

theorem State.Ends.chans {s t : State} (h : s.Ends t) : s.EndsChans t := by
  unfold State.EndsChans
  rw [h.pace]
  exact h

theorem State.staleCommit_ends (s : State) (c n : Nat) : s.Ends (s.staleCommit c n) :=
  (s.finishWorst_ends n 0x0A).trans (State.tick1_ends _ _)

theorem State.setChan_endsChans (s : State) (c : Nat) (x : PaceChan) : s.EndsChans (s.setChan c x) := .refl _

theorem State.dropCommit_endsChans (s : State) (c : Nat) : s.EndsChans (s.dropCommit c) := by
  have pending : s.EndsChans (s.dropPending c) := by
    unfold State.dropPending
    split
    · exact State.Ends.chans (.refl s)
    · exact (s.setChan_endsChans c _).trans (State.staleCommit_ends _ _ _).chans
  refine pending.trans ?_
  change (s.dropPending c).EndsChans ((s.dropPending c).dropLater c)
  unfold State.dropLater
  split
  · exact State.Ends.chans (.refl _)
  · exact (State.setChan_endsChans _ c _).trans (State.staleCommit_ends _ _ _).chans

theorem State.Ends.chan {s t : State} (h : s.Ends t) (d : Nat) : t.chan d = s.chan d := by rw [State.chan, h.pace]; rfl

theorem State.dropCommit_chan_other (s : State) {c d : Nat} (other : c ≠ d) : (s.dropCommit c).chan d = s.chan d := by
  have pending : ∀ t : State, (t.dropPending c).chan d = t.chan d := fun t => by
    unfold State.dropPending
    split
    · rfl
    · rw [(State.staleCommit_ends _ _ _).chan, State.setChan_chan, if_neg other]
  rw [State.dropCommit, State.dropLater]
  split
  · exact pending s
  · rw [(State.staleCommit_ends _ _ _).chan, State.setChan_chan, if_neg other, pending]

theorem State.stopChan_endsChans (s : State) (c : Nat) : s.EndsChans (s.stopChan c) :=
  (s.dropCommit_endsChans c).trans (State.setChan_endsChans _ _ _)

theorem State.stopChan_running (s : State) (c d : Nat) : ((s.stopChan c).chan d).running = if c = d then false else (s.chan d).running := by
  rw [State.stopChan, State.setChan_chan]
  split
  · rfl
  next other => rw [State.dropCommit_chan_other s other]

theorem stopChan_foldl_running : ∀ (l : List Nat) (s : State) (d : Nat), d ∈ l ∨ (s.chan d).running = false →
    ((l.foldl State.stopChan s).chan d).running = false
  | [], _, _, stopped => stopped.resolve_left (by simp)
  | c :: l, s, d, stopped => by
    refine stopChan_foldl_running l (s.stopChan c) d ?_
    rw [State.stopChan_running]
    rcases stopped with listed | already
    · rcases List.mem_cons.mp listed with rfl | later
      · exact .inr (if_pos rfl)
      · exact .inl later
    · exact .inr (by rw [already, ite_self])

theorem stopChan_foldl_endsChans (l : List Nat) (s : State) : s.EndsChans (l.foldl State.stopChan s) :=
  List.foldlRecOn (motive := fun t : State => s.EndsChans t) l _ (State.Ends.chans (.refl s)) fun _ h c _ => h.trans (State.stopChan_endsChans _ c)

/-! ### The Secure objects of a function -/

/-- Its retained sets, its decode streams, its encode streams, its channels, its sequences. -/
def State.endSets (s : State) (f : Nat) : State := s.releaseSets (s.dsp.sets.filter fun p => s.owner p.2.ring == f)
def State.endDecs (s : State) (f : Nat) : State := ((s.vid.decs.filter fun p => p.2.secure && p.2.fn == f).map Prod.fst).foldl State.closeDec s
def State.endEncs (s : State) (f : Nat) : State := ((s.vid.encs.filter fun p => p.2.secure && p.2.fn == f).map Prod.fst).foldl State.closeEnc s
def State.endChans (s : State) (f : Nat) : State :=
  ((s.pace.filter fun p => p.2.running && p.2.secure && p.2.fn == f).map Prod.fst).foldl State.stopChan s
def State.endSeqs (s : State) (f : Nat) : State :=
  if (s.seqsOf f).isEmpty then s else s.startRelease none true ((s.seqsOf f).flatMap fun k => s.namedPages k none) (s.seqsOf f)

theorem State.endSecure_eq (s : State) (f : Nat) : s.endSecure f = ((((s.endSets f).endDecs f).endEncs f).endChans f).endSeqs f := by
  simp only [State.endSecure, State.endSeqs, State.endChans, State.endEncs, State.endDecs, State.endSets, State.releaseSets, List.foldl_map]

theorem State.startRelease_kv (s : State) (stage : Option Nat) (secure : Bool) (pages seqs : List Nat) :
    s.startRelease stage secure pages seqs = { s with kv := (s.startRelease stage secure pages seqs).kv } := by
  have paged : ∀ t : State, pages.foldl (fun s n => s.releasePage secure n) t
      = { t with kv := (pages.foldl (fun s n => s.releasePage secure n) t).kv } := fun t =>
    List.foldlRecOn (motive := fun u : State => u = { t with kv := u.kv }) pages _ rfl fun u same n _ => by rw [same]; rfl
  have named : ∀ t : State, seqs.foldl (fun s k => s.setKvSeq k { s.kvSeq k with st := .releasing, relAt := s.dsp.admCount }) t
      = { t with kv := (seqs.foldl (fun s k => s.setKvSeq k { s.kvSeq k with st := .releasing, relAt := s.dsp.admCount }) t).kv } := fun t =>
    List.foldlRecOn (motive := fun u : State => u = { t with kv := u.kv }) seqs _ rfl fun u same n _ => by rw [same]; rfl
  rw [State.startRelease, named, paged]

theorem State.setKvSeq_kvSeq (s : State) (k j : Nat) (q : KvSeq) : (s.setKvSeq k q).kvSeq j = if k = j then q else s.kvSeq j :=
  Map.get_put _ _ _ _ _

/-- A sequence that a release names is RELEASING. -/
theorem State.startRelease_releasing (s : State) (stage : Option Nat) (secure : Bool) (pages : List Nat) {seqs : List Nat} {k : Nat}
    (named : k ∈ seqs) : ((s.startRelease stage secure pages seqs).kvSeq k).st = .releasing := by
  have marked : ∀ (l : List Nat) (t : State), k ∈ l ∨ (t.kvSeq k).st = .releasing →
      ((l.foldl (fun s k => s.setKvSeq k { s.kvSeq k with st := .releasing, relAt := s.dsp.admCount }) t).kvSeq k).st = .releasing := by
    intro l
    induction l with
    | nil => exact fun t h => h.resolve_left (by simp)
    | cons i l ih =>
      intro t h
      refine ih _ ?_
      rw [State.setKvSeq_kvSeq]
      by_cases same : i = k
      · exact .inr (by rw [if_pos same])
      · rw [if_neg same]
        exact h.imp_left fun listed => (List.mem_cons.mp listed).resolve_left (Ne.symm same)
  exact marked seqs _ (.inl named)

/-- What the end of a function's Secure objects leaves of each. -/
theorem State.endSecure_ends (s : State) (f : Nat) :
    (∀ p ∈ (s.endSecure f).dsp.sets, s.owner p.2.ring ≠ f)
    ∧ (∀ i x, s.vid.decs.find i = some x → x.secure = true → x.fn = f → (s.endSecure f).vid.decs.find i = none)
    ∧ (∀ i x, s.vid.encs.find i = some x → x.secure = true → x.fn = f → (s.endSecure f).vid.encs.find i = none)
    ∧ (∀ c, (s.chan c).running = true → (s.chan c).secure = true → (s.chan c).fn = f → ((s.endSecure f).chan c).running = false)
    ∧ (∀ k ∈ s.seqsOf f, ((s.endSecure f).kvSeq k).st = .releasing) := by
  have sets : s.endSets f = { s with dsp := { s.dsp with sets := (s.endSets f).dsp.sets }, cores := (s.endSets f).cores } :=
    State.releaseSets_eq _ s
  have decs : (s.endSets f).SameStreamsAside ((s.endSets f).endDecs f) := .foldl State.closeDec_sameStreamsAside _ _
  have encs : ((s.endSets f).endDecs f).SameStreamsAside (((s.endSets f).endDecs f).endEncs f) := .foldl State.closeEnc_sameStreamsAside _ _
  have streams : (s.endSets f).SameStreamsAside (((s.endSets f).endDecs f).endEncs f) := decs.trans encs
  have chans : (((s.endSets f).endDecs f).endEncs f).EndsChans ((((s.endSets f).endDecs f).endEncs f).endChans f) :=
    stopChan_foldl_endsChans _ _
  have seqs : ∀ t : State, t.endSeqs f = { t with kv := (t.endSeqs f).kv } := fun t => by
    unfold State.endSeqs
    split
    · rfl
    · exact State.startRelease_kv _ _ _ _ _
  have vid : ((((s.endSets f).endDecs f).endEncs f).endChans f).vid = (((s.endSets f).endDecs f).endEncs f).vid := by rw [chans.state]
  have decsKept : (((s.endSets f).endDecs f).endEncs f).vid.decs = ((s.endSets f).endDecs f).vid.decs :=
    List.foldlRecOn (motive := fun t : State => t.vid.decs = ((s.endSets f).endDecs f).vid.decs) _ _ rfl fun t same i _ =>
      (t.closeEnc_streams i 0).2.trans same
  have encsKept : ((s.endSets f).endDecs f).vid.encs = s.vid.encs :=
    List.foldlRecOn (motive := fun t : State => t.vid.encs = s.vid.encs) _ _ (by rw [sets]) fun t same i _ =>
      (t.closeDec_streams i 0).2.trans same
  rw [State.endSecure_eq]
  refine ⟨fun p member => ?_, fun i x found secure own => ?_, fun i x found secure own => ?_, fun c running secure own => ?_, fun k live => ?_⟩
  · rw [seqs] at member
    obtain ⟨q, there, same⟩ := chans.sets p member
    have left : q ∈ (s.endSets f).dsp.sets := by
      have unchanged : (((s.endSets f).endDecs f).endEncs f).dsp = (s.endSets f).dsp := by rw [(streams : _ = _)]
      rwa [← unchanged]
    obtain ⟨before, other⟩ := State.mem_releaseSets_sets.mp left
    rw [← same]
    exact fun own => other q (List.mem_filter.mpr ⟨before, by simpa using own⟩) rfl
  · rw [seqs]
    change ((((s.endSets f).endDecs f).endEncs f).endChans f).vid.decs.find i = none
    rw [vid, decsKept]
    refine find_foldl_none (map := fun t => t.vid.decs) (fun t i j => (t.closeDec_streams i j).1) _ _ i (.inl ?_)
    have there : (i, x) ∈ (s.endSets f).vid.decs := by rw [sets]; exact Map.mem_of_find found
    exact List.mem_map_of_mem (List.mem_filter.mpr ⟨there, by simp [secure, own]⟩)
  · rw [seqs]
    change ((((s.endSets f).endDecs f).endEncs f).endChans f).vid.encs.find i = none
    rw [vid]
    refine find_foldl_none (map := fun t => t.vid.encs) (fun t i j => (t.closeEnc_streams i j).1) _ _ i (.inl ?_)
    have there : (i, x) ∈ ((s.endSets f).endDecs f).vid.encs := by rw [encsKept]; exact Map.mem_of_find found
    exact List.mem_map_of_mem (List.mem_filter.mpr ⟨there, by simp [secure, own]⟩)
  · have paced : ∀ t : State, (t.endSeqs f).pace = t.pace := fun t => by rw [seqs]
    rw [State.chan, paced]
    refine stopChan_foldl_running _ _ c (.inl ?_)
    have pace : (((s.endSets f).endDecs f).endEncs f).pace = s.pace := by rw [(streams : _ = _), sets]
    have there : (c, s.chan c) ∈ (((s.endSets f).endDecs f).endEncs f).pace := by
      rw [pace]
      refine Map.get_mem fun absent => ?_
      rw [State.chan, absent] at running
      exact absurd running (by decide)
    exact List.mem_map_of_mem (List.mem_filter.mpr ⟨there, by simp [running, secure, own]⟩)
  · have kept : s.seqsOf f = (((s.endSets f).endDecs f).endEncs f).seqsOf f := by rw [(streams : _ = _), sets]; rfl
    have named := chans.seqs f (kept ▸ live)
    have some_ : ((((s.endSets f).endDecs f).endEncs f).endChans f).seqsOf f ≠ [] := List.ne_nil_of_mem named
    rw [State.endSeqs, if_neg (by simpa using some_)]
    exact State.startRelease_releasing _ _ _ _ named

/-- The interfaces, the fuses, the keys and the sessions stand at the end of a function's Secure objects. -/
theorem State.endSecure_td (s : State) (f : Nat) :
    (s.endSecure f).hif.td = s.hif.td ∧ (s.endSecure f).sec.ide = s.sec.ide ∧ (s.endSecure f).fuses = s.fuses
    ∧ (s.endSecure f).sec.sessions = s.sec.sessions := by
  have sets : s.endSets f = { s with dsp := { s.dsp with sets := (s.endSets f).dsp.sets }, cores := (s.endSets f).cores } :=
    State.releaseSets_eq _ s
  have decs : (s.endSets f).SameStreamsAside ((s.endSets f).endDecs f) := .foldl State.closeDec_sameStreamsAside _ _
  have encs : ((s.endSets f).endDecs f).SameStreamsAside (((s.endSets f).endDecs f).endEncs f) := .foldl State.closeEnc_sameStreamsAside _ _
  have chans : (((s.endSets f).endDecs f).endEncs f).EndsChans ((((s.endSets f).endDecs f).endEncs f).endChans f) :=
    stopChan_foldl_endsChans _ _
  have seqs : ∀ t : State, t.endSeqs f = { t with kv := (t.endSeqs f).kv } := fun t => by
    unfold State.endSeqs
    split
    · rfl
    · exact State.startRelease_kv _ _ _ _ _
  rw [State.endSecure_eq, seqs, chans.state, (decs.trans encs : _ = _), sets]
  exact ⟨rfl, rfl, rfl, rfl⟩

/-! ### The interfaces -/

theorem State.tdi_of_td {s t : State} (h : t.hif.td = s.hif.td) (f : Nat) : t.tdi f = s.tdi f := by rw [State.tdi, h]; rfl

section
variable {s : State} {f : Nat}

theorem State.leaveTd_of_run (x : TdState) (runs : s.tdi f = .run) : s.leaveTd f x = ((s.resetRings f).endSecure f).setTd f x := if_pos runs
theorem State.leaveTd_of_stopped (x : TdState) (other : s.tdi f ≠ .run) : s.leaveTd f x = s.setTd f x := if_neg other

theorem State.leaveTd_td (s : State) (f : Nat) (x : TdState) :
    (∀ g, (s.leaveTd f x).tdi g = if f = g then x else s.tdi g) ∧ (s.leaveTd f x).sec.ide = s.sec.ide := by
  by_cases runs : s.tdi f = .run
  · obtain ⟨td, ide, -⟩ := (s.resetRings f).endSecure_td f
    have reset := (s.resetRings_ends f).state
    rw [State.leaveTd_of_run x runs]
    refine ⟨fun g => ?_, ?_⟩
    · rw [State.setTd_tdi, State.tdi_of_td td, State.tdi_of_td (s := s) (by rw [reset])]
    · rw [State.setTd_sec, ide, reset]
  · rw [State.leaveTd_of_stopped x runs]
    exact ⟨fun g => State.setTd_tdi s f g x, rfl⟩

theorem State.tdError_of_bound (bound : s.tdi f = .locked ∨ s.tdi f = .run) : s.tdError f = s.leaveTd f .error := if_pos bound
theorem State.tdError_of_free (free : ¬ (s.tdi f = .locked ∨ s.tdi f = .run)) : s.tdError f = s := if_neg free

end

/-! ### The rings and the configuration space -/

theorem State.resetRing_st (s : State) (r : Nat) : ((s.resetRing r).ring r).st
    = if (s.ring r).st = .running ∨ (s.ring r).st = .stopped ∨ (s.ring r).st = .draining then .resetting else (s.ring r).st := by
  split
  next taken =>
    obtain ⟨failed, ring⟩ := State.resetRing_ring taken
    rw [ring]
  next left => rw [State.resetRing, if_neg left]

theorem State.resetRing_st_other (s : State) {q r : Nat} (other : q ≠ r) : ((s.resetRing q).ring r).st = (s.ring r).st := by
  by_cases taken : (s.ring q).st = .running ∨ (s.ring q).st = .stopped ∨ (s.ring q).st = .draining
  · rw [State.resetRing_eq taken]
    obtain ⟨failed, same⟩ := List.foldlRecOn (motive := fun t : State => (s.setRing q { s.ring q with
        st := .resetting, tail := (s.ring q).sqHead, fetching := 0, aborting := false }).SameRings t) (s.stagesOf q) _
      (.refl _) (fun t same p _ => same.trans (t.endStage_sameRings p.1)) r
    rw [same, State.setRing_ring, if_neg other]
  · rw [State.resetRing, if_neg taken]

theorem resetRings_st : ∀ (l : List Nat) (s : State) (r : Nat),
    (r ∈ l ∧ ((s.ring r).st = .running ∨ (s.ring r).st = .stopped ∨ (s.ring r).st = .draining)) ∨ (s.ring r).st = .resetting →
    ((l.foldl State.resetRing s).ring r).st = .resetting
  | [], _, _, h => h.resolve_left fun ⟨listed, _⟩ => absurd listed (by simp)
  | q :: l, s, r, h => by
    refine resetRings_st l (s.resetRing q) r ?_
    by_cases same : q = r
    · subst same
      right
      rw [State.resetRing_st]
      rcases h with ⟨_, taken⟩ | already
      · rw [if_pos taken]
      · rw [if_neg (by simp [already]), already]
    · rw [State.resetRing_st_other s same]
      exact h.imp_left fun ⟨listed, taken⟩ => ⟨(List.mem_cons.mp listed).resolve_left (Ne.symm same), taken⟩

theorem Map.get_filter_key {κ α : Type} [DecidableEq κ] (keep : κ → Bool) (d : α) (k : κ) : ∀ m : Map κ α,
    Map.get (m.filter fun p => keep p.1) d k = if keep k then Map.get m d k else d
  | [] => by simp
  | (k', a) :: m => by
    have ih := Map.get_filter_key keep d k m
    rw [List.filter_cons]
    by_cases same : k' = k
    · subst same
      split
      next kept => simp [Map.get]
      next dropped => rw [ih, if_neg dropped]
    · have later : Map.get ((k', a) :: m) d k = Map.get m d k := by simp [Map.get, same]
      rw [later, ← ih]
      split
      · simp [Map.get, same]
      · rfl

theorem State.clearConfig_cfgReg (s : State) (f g : Nat) (r : ConfigReg) :
    (s.clearConfig f).cfgReg g r = if g = f then 0 else s.cfgReg g r := by
  refine (Map.get_filter_key (fun k : Nat × ConfigReg => k.1 != f) 0 (g, r) s.hif.cfg).trans ?_
  by_cases same : g = f <;> simp [same, State.cfgReg]

/-- Settles O26: what a reset of a function does, part by part. -/
theorem functionResets : Obligations.FunctionResets := by
  refine ⟨fun s f => rfl, fun s => rfl, fun s f r listed own taken => ?_, fun s f => ⟨fun locked => ?_, fun runs => ?_, fun bound => ?_, fun free => ?_⟩,
    fun s f => s.endSecure_ends f, fun s f r => ⟨?_, fun g other => ?_⟩⟩
  · exact resetRings_st _ s r (.inl ⟨List.mem_filter.mpr ⟨listed, by simpa using own⟩, taken⟩)
  · rw [State.tdError_of_bound (.inl locked), State.leaveTd_of_stopped _ (by rw [locked]; decide)]
  · rw [State.tdError_of_bound (.inr runs), State.leaveTd_of_run _ runs]
  · rw [State.tdError_of_bound bound, (s.leaveTd_td f .error).1, if_pos rfl]
  · refine State.tdError_of_free ?_
    rcases free with h | h <;> simp [h]
  · rw [State.clearConfig_cfgReg, if_pos rfl]
  · rw [State.clearConfig_cfgReg, if_neg other]

end Sys2Proof.Machine
end

section
/-! Device interfaces, IDE streams and the entropy source (spec/16 R438, R439, R441, R443). -/
namespace Sys2Proof.Machine

/-- A TDISP request for a VF that is heard is answered. -/
theorem State.tdisp_of_heard {s : State} {n vf : Nat} (act : State → Nat × List Byte × State) (heard : s.doeSession n = true) (low : 1 ≤ vf)
    (high : vf ≤ 64) : s.tdisp n vf act = (act s).2.2.emit (.spdm .doe (tdispMsg (act s).1 vf (act s).2.1)) := by
  have some_ : (vf == 0) = false := by simp; omega
  simp only [State.tdisp, heard, some_, Nat.not_lt.mpr high, decide_false, Bool.not_true, Bool.or_false, Bool.false_eq_true, if_false]

/-- Settles O27: each request in each state of the interface. -/
theorem deviceInterface : Obligations.DeviceInterface := by
  intro s n vf heard low high
  have tells : ∀ act : State → Nat × List Byte × State, answer s (s.tdisp n vf act)
      = .next (((act s).2.2.emit (.spdm .doe (tdispMsg (act s).1 vf (act s).2.1))).settle s) := fun act => by
    rw [State.tdisp_of_heard act heard low high, answer]
  have starts : exec (.startInterfaceRequest n vf) s = answer s (s.tdisp n vf fun s =>
      if s.tdi vf ≠ .locked then tdispError 0x04 s else (0x06, [], s.setTd vf .run)) := rfl
  have locks : exec (.lockInterfaceRequest n vf) s = answer s (s.tdisp n vf fun s =>
      if s.tdi vf ≠ .unlocked then tdispError 0x04 s
      else if s.ringsBusy vf then tdispError 0x104 s
      else (0x03, (List.range 32).map (Config.freeByte s.freeCount 0), s.fresh.2.setTd vf .locked)) := rfl
  rw [starts, locks, tells, tells]
  refine ⟨tells _, tells _, fun unlocked idle => ?_, fun unlocked busy => ?_, fun other => ?_, tells _, tells _, fun locked => ?_, fun other => ?_,
    tells _, ?_, fun code => tells _⟩
  · simp only [unlocked, idle, ne_eq, not_true, Bool.false_eq_true, if_false]
  · simp only [unlocked, busy, ne_eq, not_true, if_false, if_true, tdispError]
  · simp only [ne_eq, other, not_false_eq_true, if_true, tdispError]
  · simp only [locked, ne_eq, not_true, if_false]
  · simp only [ne_eq, other, not_false_eq_true, if_true, tdispError]
  · rw [(s.leaveTd_td vf .unlocked).1, if_pos rfl]

/-! ### A stream that fails -/

theorem State.tdError_td (s : State) (f : Nat) : (∀ g, (s.tdError f).tdi g
      = if f = g ∧ (s.tdi f = .locked ∨ s.tdi f = .run) then .error else s.tdi g) ∧ (s.tdError f).sec.ide = s.sec.ide := by
  by_cases bound : s.tdi f = .locked ∨ s.tdi f = .run
  · rw [State.tdError_of_bound bound]
    refine ⟨fun g => ?_, (s.leaveTd_td f .error).2⟩
    rw [(s.leaveTd_td f .error).1]
    simp [bound]
  · rw [State.tdError_of_free bound]
    exact ⟨fun g => (if_neg fun h => bound h.2).symm, rfl⟩

/-- After the failure of a stream no interface bound to it is locked or runs, and the others stand. -/
theorem tdError_foldl : ∀ (l : List Nat) (s : State), (∀ f ∈ l, (l.foldl State.tdError s).tdi f ≠ .locked ∧ (l.foldl State.tdError s).tdi f ≠ .run)
    ∧ (∀ f, f ∉ l → (l.foldl State.tdError s).tdi f = s.tdi f)
    ∧ (∀ f, s.tdi f ≠ .locked ∧ s.tdi f ≠ .run → (l.foldl State.tdError s).tdi f ≠ .locked ∧ (l.foldl State.tdError s).tdi f ≠ .run)
    ∧ (l.foldl State.tdError s).sec.ide = s.sec.ide
  | [], s => ⟨fun _ member => absurd member (by simp), fun _ _ => rfl, fun _ free => free, rfl⟩
  | g :: l, s => by
    obtain ⟨bound, others, free, ide⟩ := tdError_foldl l (s.tdError g)
    obtain ⟨td, ide'⟩ := s.tdError_td g
    have freed : ∀ f, f = g ∨ (s.tdi f ≠ .locked ∧ s.tdi f ≠ .run) → (s.tdError g).tdi f ≠ .locked ∧ (s.tdError g).tdi f ≠ .run := by
      intro f h
      rw [td]
      split
      · exact ⟨by decide, by decide⟩
      next stays =>
        rcases h with rfl | free
        · exact ⟨fun h => stays ⟨rfl, .inl h⟩, fun h => stays ⟨rfl, .inr h⟩⟩
        · exact free
    refine ⟨fun f member => ?_, fun f absent => ?_, fun f h => free f (freed f (.inr h)), ide.trans ide'⟩
    · rcases List.mem_cons.mp member with same | later
      · exact free f (freed f (.inl same))
      · exact bound f later
    · rw [List.foldl_cons, others f (fun later => absent (List.mem_cons_of_mem _ later)), td,
        if_neg fun h : g = f ∧ _ => absent (h.1 ▸ List.mem_cons_self)]

/-- Settles O28: keys, failures, discovery, entropy. -/
theorem streamsAndEntropy : Obligations.StreamsAndEntropy := by
  refine ⟨fun s n k set vfs key heard small => ?_, fun s t k x found same => ?_, fun s hears => ?_, fun s healthy => ?_⟩
  · change execIdeKmKeyProg n k set vfs key s = _
    simp only [execIdeKmKeyProg, heard, Nat.not_le.mpr small, decide_false, Bool.not_true, Bool.or_false, Bool.false_eq_true, if_false, answer]
  · obtain ⟨bound, others, -, ide⟩ := tdError_foldl x.vfs
      { s with sec := { s.sec with ide := s.sec.ide.put k { x with failed := true, keys := [] } } }
    rw [← same] at bound others ide
    refine ⟨?_, ?_, bound, others⟩
    · change execIdeStreamFail k s = _
      simp only [execIdeStreamFail, found, ← same, answer]
    · rw [ide]
      exact Map.find_put_same _ _ _
  · change execDoeDiscovery 0 s = _ ∧ execDoeDiscovery 1 s = _ ∧ execDoeDiscovery 2 s = _
    simp only [execDoeDiscovery, hears, Bool.not_true, Bool.false_eq_true, if_false, answer]
    exact ⟨rfl, rfl, rfl⟩
  · change execEntropyHealthFail s = _
    simp only [execEntropyHealthFail, healthy, Bool.false_eq_true, if_false, answer]

end Sys2Proof.Machine
end

section
/-! What accesses leave of the waiting requests and the memory units, and what messages of the light links leave of the device (spec/10
R264, R272; spec/11 R299, R311). -/
namespace Sys2Proof.Machine

/-! ### Waiting requests and units -/

/-- `t` has the waiting requests of `s`, and each unit stands and copies as in `s`. -/
structure State.SameUnits (s t : State) : Prop where
  waiting : t.mem.waiting = s.mem.waiting
  units : ∀ u, (t.unit u).st = (s.unit u).st ∧ (t.unit u).copying = (s.unit u).copying

theorem State.SameUnits.refl (s : State) : s.SameUnits s := ⟨rfl, fun _ => ⟨rfl, rfl⟩⟩

theorem State.SameUnits.trans {s t u : State} (h : s.SameUnits t) (k : t.SameUnits u) : s.SameUnits u :=
  ⟨k.waiting.trans h.waiting, fun n => ⟨(k.units n).1.trans (h.units n).1, (k.units n).2.trans (h.units n).2⟩⟩

/-- A change that leaves the waiting requests and the units of the memory. -/
theorem State.SameUnits.of_units {s t : State} (waiting : t.mem.waiting = s.mem.waiting) (units : t.mem.units = s.mem.units) : s.SameUnits t :=
  ⟨waiting, fun u => by rw [State.unit, units]; exact ⟨rfl, rfl⟩⟩

theorem State.SameUnits.of_mem {s t : State} (h : t.mem = s.mem) : s.SameUnits t := .of_units (by rw [h]) (by rw [h])

theorem State.SameUnits.foldl {α : Type} {f : State → α → State} (each : ∀ (t : State) a, t.SameUnits (f t a)) (l : List α) (s : State) :
    s.SameUnits (l.foldl f s) :=
  List.foldlRecOn (motive := fun t : State => s.SameUnits t) l f (.refl s) fun t h a _ => h.trans (each t a)

theorem State.clearPoison_sameUnits (s : State) (l : Nat) : s.SameUnits (s.clearPoison l) := by
  refine ⟨rfl, fun u => ?_⟩
  have cleared : (s.clearPoison l).unit u = { s.unit u with poisonTable := (s.unit u).poisonTable.filter (· != l) } :=
    Map.get_map s.mem.units {} u (fun x : MemUnit => { x with poisonTable := x.poisonTable.filter (· != l) }) rfl
  rw [cleared]
  exact ⟨rfl, rfl⟩

theorem State.evict_sameUnits (s : State) (g : GLine) : s.SameUnits (s.evict g) := by
  have written : s.SameUnits (s.writeback g) := by
    unfold State.writeback
    dsimp only
    split
    · exact .refl s
    · split
      · exact .of_mem rfl
      · exact (State.SameUnits.of_units rfl rfl : s.SameUnits { s with mem := { s.mem with
          cells := g.dirty.foldr (fun c m => cellPut m c.1 c.2) s.mem.cells } }).trans
          ((State.clearPoison_sameUnits _ _).trans (.of_mem rfl))
  exact written.trans (.of_units rfl rfl)

theorem State.makeRoom_sameUnits (s : State) (l : Nat) (cls : LineClass) : s.SameUnits (s.makeRoom l cls) := by
  unfold State.makeRoom
  dsimp only
  split
  · split
    · exact s.evict_sameUnits _
    · exact .refl s
  · split
    · split
      · exact s.evict_sameUnits _
      · exact .refl s
    · exact .refl s

theorem State.allocate_sameUnits (s : State) (l hint : Nat) (mark : Option Nat) : s.SameUnits (s.allocate l hint mark) :=
  (s.makeRoom_sameUnits l _).trans (.of_units rfl rfl)

theorem State.touchRead_sameUnits (s : State) (l hint : Nat) (who : Option Nat) : s.SameUnits (s.touchRead l hint who) := by
  unfold State.touchRead
  split
  · exact .of_units rfl rfl
  · exact State.SameUnits.trans (t := s.tick1 grnMiss) (.of_mem rfl) (State.allocate_sameUnits _ _ _ _)

theorem State.touchWrite_sameUnits (s : State) (l a : Nat) (bs : List Byte) (hint : Nat) (who : Option Nat) :
    s.SameUnits (s.touchWrite l a bs hint who).2 := by
  unfold State.touchWrite
  extract_lets whole t u
  have found : s.SameUnits t := by
    unfold t
    split
    · exact .of_units rfl rfl
    · exact State.SameUnits.trans (t := s.tick1 grnMiss) (.of_mem rfl) (State.allocate_sameUnits _ _ _ _)
  have cleared : s.SameUnits u := by
    unfold u
    split
    · exact found.trans (State.clearPoison_sameUnits _ _)
    · exact found
  split
  · exact .refl s
  · exact cleared.trans (.of_units rfl rfl)

theorem State.lineGet_sameUnits (s : State) (a n hint : Nat) (mark : Option Nat) : s.SameUnits (s.lineGet a n hint mark).2.2 := by
  unfold State.lineGet
  extract_lets l zeros
  split
  · exact .of_units rfl rfl
  · split
    · exact .of_mem rfl
    · split <;> exact State.touchRead_sameUnits _ _ _ _

theorem State.readPiece_sameUnits (s : State) (who : Requester) (a n hint : Nat) : s.SameUnits (s.readPiece who a n hint).2.2 := by
  have got := s.lineGet_sameUnits a n hint who.stage
  unfold State.readPiece
  extract_lets l zeros st t
  split
  · split
    · exact .of_mem (State.poisonRead_mem _ _ _ _)
    · split
      · exact .of_mem (State.poisonRead_mem _ _ _ _)
      · exact .of_mem rfl
  · exact .refl s
  · split
    · dsimp only
      split
      · exact .of_mem (State.deny_mem _ _ _ _)
      · exact .refl s
    · dsimp only
      split
      · exact got.trans (.of_mem (State.poisonRead_mem _ _ _ _))
      · exact got

theorem State.shareBlock_sameUnits (s : State) (n a : Nat) (bs : List Byte) : s.SameUnits (s.shareBlock n a bs) := by
  unfold State.shareBlock
  extract_lets ring here mine foreign old0 old late rest new src t
  split
  · exact State.SameUnits.trans (t := t) (.of_units rfl rfl) (.foldl (fun t (c : Host.Cell) => State.SameUnits.of_units (t := t.storeLine (a / 256) c.1 [c.2] false) rfl rfl) _ _)
  · exact .of_units rfl rfl

theorem State.share_sameUnits (s : State) (who : Option Nat) (a : Nat) (bs : List Byte) : s.SameUnits (s.share who a bs) := by
  cases who with
  | none => exact .refl s
  | some n => exact .foldl (fun t _ => t.shareBlock_sameUnits n _ _) _ _

theorem State.writePiece_sameUnits (s : State) (who : Requester) (a : Nat) (bs : List Byte) (hint : Nat) :
    s.SameUnits (s.writePiece who a bs hint).2 := by
  have stored := s.touchWrite_sameUnits (a / 256) a bs hint who.stage
  unfold State.writePiece
  extract_lets l st
  split
  · split
    · exact .refl s
    · exact .of_units rfl rfl
  · exact .refl s
  · split
    · dsimp only
      split
      · exact .of_mem (State.deny_mem _ _ _ _)
      · exact .refl s
    · split
      · exact .of_units rfl rfl
      · split
        · exact .refl s
        · dsimp only
          split
          · exact stored
          · exact stored.trans (State.share_sameUnits _ _ _ _)

theorem State.writeFor_sameUnits (s : State) (who : Requester) (a : Nat) (bs : List Byte) (hint : Nat) :
    s.SameUnits (s.writeFor who a bs hint) := by
  refine .foldl (fun t p => ?_) _ _
  dsimp only
  split
  · exact t.writePiece_sameUnits _ _ _ _
  · exact (t.writePiece_sameUnits _ _ _ _).trans (.of_mem (State.meet_mem _ _ _))

/-! ### The end of a stage -/

theorem State.settleTable_sameUnits (s : State) (n : Nat) (st : Stage) : s.SameUnits (s.settleTable n st) := by
  unfold State.settleTable
  split
  · exact .refl s
  · exact State.SameUnits.trans (t := { s with kv := { s.kv with runs := s.kv.runs.del n } }) (.of_mem rfl)
      (State.writeFor_sameUnits _ _ _ _ _)

theorem State.thawAfter_mem (s : State) (n : Nat) (st : Stage) : (s.thawAfter n st).mem = s.mem := by
  unfold State.thawAfter
  split <;> rfl

theorem State.discardMarked_sameUnits (s : State) (n : Nat) : s.SameUnits (s.discardMarked n) := by
  unfold State.discardMarked
  dsimp only
  split
  · exact .refl s
  · exact .of_units rfl rfl

theorem State.settleSets_mem (s : State) (n : Nat) (st : Stage) (status : Nat) : (s.settleSets n st status).mem = s.mem := by
  unfold State.settleSets
  extract_lets t out
  have released : t.mem = s.mem := by
    unfold t
    split <;> rfl
  split
  · rfl
  split
  · exact released
  split
  · exact released
  split
  · exact released
  split <;> exact released

theorem State.atEnd_sameUnits (s : State) (n : Nat) (st : Stage) (status : Nat) : s.SameUnits (s.atEnd n st status) := by
  have thawed := (s.settleTable_sameUnits n st).trans (.of_mem (State.thawAfter_mem _ n st))
  have left := thawed.trans (u := ((s.settleTable n st).thawAfter n st).leaveReleases n) (.of_mem rfl)
  have shared := (left.trans (State.discardMarked_sameUnits _ n)).trans (u := State.endShares _ n) (.of_units rfl rfl)
  exact shared.trans (.of_mem (State.settleSets_mem _ n st status))

theorem State.finish_sameUnits (s : State) (n status : Nat) : s.SameUnits (s.finish n status) := by
  cases found : s.stage n with
  | none => rw [State.finish, found]; exact .refl s
  | some st =>
    cases done : st.done with
    | true => rw [State.finish_of_done status found done]; exact .refl s
    | false =>
      rw [State.finish_of_open status found done]
      dsimp only
      split <;> exact (s.atEnd_sameUnits n st status).trans (.of_mem rfl)

theorem State.endStage_sameUnits (s : State) (n : Nat) : s.SameUnits (s.endStage n) :=
  State.endStage_induction (.refl s) (fun _ => .of_mem rfl) (fun _ _ => .of_mem rfl) (fun _ => .of_mem rfl)
    fun t status h => h.trans (t.finish_sameUnits n status)

/-! ### Messages of the light links -/

/-- `t` is `s` but for the light links, the counters and the record of messages. -/
def State.SameLinksAside (s t : State) : Prop := t = { s with lnk := t.lnk, ctrs := t.ctrs, out := t.out }

theorem State.SameLinksAside.refl (s : State) : s.SameLinksAside s := rfl

theorem State.SameLinksAside.trans {s t u : State} (h : s.SameLinksAside t) (k : t.SameLinksAside u) : s.SameLinksAside u := by
  unfold State.SameLinksAside at h k ⊢
  rw [k, h]

theorem State.SameLinksAside.foldl {α : Type} {f : State → α → State} (each : ∀ (t : State) a, t.SameLinksAside (f t a)) (l : List α) (s : State) :
    s.SameLinksAside (l.foldl f s) :=
  List.foldlRecOn (motive := fun t : State => s.SameLinksAside t) l f (.refl s) fun t h a _ => h.trans (each t a)

theorem State.emitCtrl_sameLinksAside (s : State) (d : Nat) (nak : Bool) (x : Nat × Nat × Nat × List Byte) :
    s.SameLinksAside (s.emitCtrl d nak x) := by
  unfold State.emitCtrl
  split <;> rfl

theorem State.transmit_sameLinksAside (s : State) (d : Nat) (msg : List Byte) (nak : Bool) (on : Option Nat) :
    s.SameLinksAside (s.transmit d msg nak on) := by
  unfold State.transmit
  extract_lets p q x port t
  have owed : s.SameLinksAside t := by
    unfold t
    split <;> rfl
  exact (owed.trans (u := t.setPeer d { p with sendSeq := p.sendSeq + 1, sent := p.sent ++ [x], ackDue := false }) rfl).trans
    (State.emitCtrl_sameLinksAside _ _ _ _)

theorem State.queueMsg_sameLinksAside (s : State) (d : Nat) (msg : List Byte) : s.SameLinksAside (s.queueMsg d msg) := by
  unfold State.queueMsg
  dsimp only
  split
  · exact s.transmit_sameLinksAside d msg _ _
  · rfl

theorem State.strand_sameLinksAside (s : State) (dst : Nat) (m : List Byte) : s.SameLinksAside (s.strand dst m) := by
  unfold State.strand
  split <;> rfl

theorem State.sendMsg_sameLinksAside (s : State) (dst kind tag : Nat) (body : List Byte) : s.SameLinksAside (s.sendMsg dst kind tag body) := by
  unfold State.sendMsg
  split
  · exact .refl s
  · split
    · exact s.strand_sameLinksAside _ _
    · exact s.queueMsg_sameLinksAside _ _

end Sys2Proof.Machine
end

section
/-! Errors in control SRAM and fatal events (spec/18 R476-R479). -/
namespace Sys2Proof.Machine

/-! ### Lost lines, cores, streams and channels -/

theorem State.poisonLine_memory (s : State) (u l : Nat) :
    (s.poisonLine u l).mem.lines = s.mem.lines ∧ l ∈ (s.poisonLine u l).mem.poison := by
  have listed : l ∈ (if s.mem.poison.contains l then s.mem.poison else s.mem.poison ++ [l]) := by
    split
    next there => simpa using there
    next => simp
  unfold State.poisonLine
  extract_lets t x
  repeat' split
  all_goals exact ⟨rfl, listed⟩

/-- A line whose state is lost leaves the Granary and is poisoned at rest. -/
theorem State.loseLine_resident {s : State} {l : Nat} (there : (s.resident l).isSome) :
    (s.loseLine l).resident l = none ∧ (s.loseLine l).poisoned l = true := by
  have present : ¬ (s.resident l).isNone = true := by simpa [Option.isSome_iff_ne_none] using there
  obtain ⟨t, lines, lost⟩ : ∃ t : State, t.mem.lines = s.mem.lines.filter (fun g => g.line != l)
      ∧ s.loseLine l = (t.poisonLine (unitOf l) l).log 0x0101 (unitOf l) (l * 256) (s.lineSecure l) := by
    rw [State.loseLine, if_neg present]
    refine ⟨_, ?_, rfl⟩
    split
    · rw [State.notify_mem]; rfl
    · rfl
  obtain ⟨kept, poisoned⟩ := t.poisonLine_memory (unitOf l) l
  have absent : (s.loseLine l).resident l = none := by
    rw [lost, State.resident, State.log_mem, kept, lines, List.find?_eq_none]
    intro g member
    simpa using (List.mem_filter.mp member).2
  refine ⟨absent, ?_⟩
  rw [State.poisoned, absent, lost, State.log_mem]
  simpa using poisoned

theorem State.withdraw_core {s : State} {c : Nat} (part : Nat) (real : c < s.coreCount) (there : (s.core c).withdrawn = false) :
    ((s.withdraw c part).core c).withdrawn = true ∧ ((s.withdraw c part).core c).slots = [] := by
  have works : ¬ ((s.core c).withdrawn = true ∨ s.coreCount ≤ c) := by
    rw [there]
    simpa using real
  rw [State.withdraw, if_neg works]
  simp

theorem State.loseStream_closed (s : State) (i : Nat) :
    (s.loseStream false i).vid.decs.find i = none ∧ (s.loseStream true i).vid.encs.find i = none := by
  constructor
  · rw [State.loseStream, if_neg Bool.false_ne_true]
    split
    next absent => exact absent
    next => rw [State.log_vid, (State.closeDec_streams _ i i).1, if_pos rfl]
  · rw [State.loseStream, if_pos rfl]
    split
    next absent => exact absent
    next => rw [State.log_vid, (State.closeEnc_streams _ i i).1, if_pos rfl]

theorem State.loseChan_stopped (s : State) (c : Nat) : ((s.loseChan c).chan c).running = false := by
  unfold State.loseChan
  dsimp only
  split
  next stopped => simpa using stopped
  next =>
    rw [State.log_chan, State.setChan_chan, if_pos rfl]

/-! ### Fatal events -/

/-- A device that is fatal: its code and time, no ring that serves, no read that waits. -/
structure State.Stopped (s : State) (code time : Nat) : Prop where
  code : s.flt.diagFatal = code
  time : s.flt.diagFatalTime = time
  rings : ∀ r, (s.ring r).st ≠ .running ∧ (s.ring r).st ≠ .draining
  reads : ∀ w ∈ s.mem.waiting, w.2.isRead = false

section
variable {s t : State} {code time : Nat} (h : s.Stopped code time)
include h

/-- A fatal device stays so by a change that leaves the rings' states, the waiting requests and the fault's record. -/
theorem State.Stopped.keeps (flt : t.flt = s.flt) (rings : ∀ r, (t.ring r).st = (s.ring r).st) (waiting : t.mem.waiting = s.mem.waiting) :
    t.Stopped code time :=
  ⟨by rw [flt]; exact h.code, by rw [flt]; exact h.time, fun r => by rw [rings]; exact h.rings r, by rw [waiting]; exact h.reads⟩

theorem State.Stopped.of_ends (ends : s.Ends t) (rings : s.SameRings t) (units : s.SameUnits t) : t.Stopped code time :=
  h.keeps (by rw [ends.state]) (fun r => by obtain ⟨failed, same⟩ := rings r; rw [same]) units.waiting

theorem State.Stopped.endStage (n : Nat) : (s.endStage n).Stopped code time :=
  h.of_ends (s.endStage_ends n) (s.endStage_sameRings n) (s.endStage_sameUnits n)

theorem State.Stopped.finish (n status : Nat) : (s.finish n status).Stopped code time :=
  h.of_ends (s.finish_ends n status) (s.finish_sameRings n status) (s.finish_sameUnits n status)

theorem State.Stopped.loseSlot (slot : Option Nat) : (s.loseSlot slot).Stopped code time := by
  unfold State.loseSlot
  split
  · exact h
  next n st _ =>
    have marked : (s.setStage n { st with lost := true }).Stopped code time := h.keeps rfl (fun _ => rfl) rfl
    split
    · exact h
    · dsimp only
      split
      · exact marked
      · exact marked.finish n 0x0B

theorem State.Stopped.endAll : s.endAll.Stopped code time :=
  List.foldlRecOn (motive := fun t : State => t.Stopped code time) _ _ h fun _ k p _ => k.endStage p.1

theorem State.Stopped.leaveFabric : s.leaveFabric.Stopped code time := by
  refine List.foldlRecOn (motive := fun t : State => t.Stopped code time) _ _ h fun t k d _ => ?_
  have aside := t.sendMsg_sameLinksAside d 0x02 0 []
  exact k.keeps (by rw [(aside : _ = _)]) (fun r => by rw [(aside : _ = _)]; rfl) (by rw [(aside : _ = _)])

end

/-- The states of the rings behind a map of every ring. -/
theorem State.ring_map (s : State) (f : Ring → Ring) (fresh : f {} = {}) (r : Nat) :
    Map.get (s.hif.rings.map fun p => (p.1, f p.2)) {} r = f (s.ring r) :=
  Map.get_map s.hif.rings {} r f fresh

/-- The ring as step 1 of a fatal event leaves it. -/
def Ring.halted (x : Ring) : Ring := if x.st == .running || x.st == .draining then { x with st := .stopped, fetching := 0 } else x

theorem Ring.halted_st (x : Ring) : x.halted.st ≠ .running ∧ x.halted.st ≠ .draining := by
  unfold Ring.halted
  split
  · exact ⟨by simp, by simp⟩
  next other => simpa using other

/-- The rings and the waiting requests behind step 1 (R479). -/
theorem State.stopAll_frame (s : State) : s.stopAll.hif.rings = s.hif.rings.map (fun p => (p.1, p.2.halted))
    ∧ s.stopAll.mem.waiting = s.mem.waiting.filter (fun w => !w.2.isRead) ∧ s.stopAll.flt.diagFatal = s.flt.diagFatal
    ∧ s.stopAll.flt.diagFatalTime = s.flt.diagFatalTime := by
  have rings : s.hif.rings.map (fun (p : Nat × Ring) =>
      if p.2.st == .running || p.2.st == .draining then (p.1, { p.2 with st := .stopped, fetching := 0 }) else p)
      = s.hif.rings.map (fun p => (p.1, p.2.halted)) := by
    refine List.map_congr_left fun p _ => ?_
    rw [Ring.halted]
    split <;> rfl
  rw [State.stopAll, rings]
  refine List.foldlRecOn (motive := fun t : State => t.hif.rings = s.hif.rings.map (fun p => (p.1, p.2.halted))
    ∧ t.mem.waiting = s.mem.waiting.filter (fun w => !w.2.isRead) ∧ t.flt.diagFatal = s.flt.diagFatal
    ∧ t.flt.diagFatalTime = s.flt.diagFatalTime) _ _ ⟨rfl, rfl, rfl, rfl⟩ fun t h w _ => ?_
  split <;> exact h

theorem State.stopAll_stopped (s : State) : s.stopAll.Stopped s.flt.diagFatal s.flt.diagFatalTime := by
  obtain ⟨rings, waiting, code, time⟩ := s.stopAll_frame
  refine ⟨code, time, fun r => ?_, fun w member => ?_⟩
  · rw [State.ring, rings, State.ring_map s Ring.halted rfl]
    exact Ring.halted_st _
  · rw [waiting] at member
    simpa using (List.mem_filter.mp member).2

/-- The first fatal event of a device. -/
theorem State.fatalEvent_stopped {s : State} (code a : Nat) (slot : Option Nat) (works : s.fatal = false) :
    (s.fatalEvent code a slot).Stopped code s.time := by
  rw [State.fatalEvent, if_neg (Bool.eq_false_iff.mp works)]
  have left := (((State.stopAll_stopped { s with flt := { s.flt with diagFatal := code, diagFatalTime := s.time } }).loseSlot
    slot).endAll).leaveFabric
  exact left.keeps (t := State.log _ 0x0704 code a) rfl (fun _ => rfl) rfl

/-- Settles O29: each kind of structure, and what a fatal event leaves. -/
theorem controlSram : Obligations.ControlSram := by
  refine ⟨fun s w => rfl, fun s l => ⟨rfl, State.loseLine_resident⟩, fun s c part => ⟨rfl, State.withdraw_core part⟩,
    fun s encode i => ⟨rfl, s.loseStream_closed i⟩, fun s c => ⟨rfl, s.loseChan_stopped c⟩, fun s t code a slot works real same => ?_,
    fun s => rfl, fun s lost => ?_, fun s code a slot fatal => if_pos fatal⟩
  · have stopped : t.Stopped code s.time := by
      rw [same]
      exact State.fatalEvent_stopped (s := s.tick1 telSramUe) code a slot works
    refine ⟨by rw [same]; rfl, stopped.code, stopped.time, ?_, stopped.rings, fun r => State.fetchCount_of_not_running (stopped.rings r).1,
      stopped.reads⟩
    rw [State.fatal, stopped.code]
    simpa using real
  · change execBridgeLossTimeout s = _
    simp only [execBridgeLossTimeout, lost, if_true, answer]

end Sys2Proof.Machine
end

section
/-! Memory requests within a line, and the lines that arrive (spec/10 R251, R254, R261, R264). -/
namespace Sys2Proof.Machine

/-! ### Requests -/

section
variable {s : State} {who : Requester} {a hint : Nat}

theorem exec_memoryRead_of_line {n : Nat} (some_ : 0 < n) (within : a % 256 + n ≤ 256) :
    exec (.memoryRead who a n hint) s = .next ((s.requestRead who a n hint).settle s) := by
  change execMemoryRead who a n hint s = _
  rw [execMemoryRead, linePieces_of_line some_ within]
  rfl

theorem exec_memoryWrite_of_line {bytes : List Byte} (some_ : 0 < bytes.length) (within : a % 256 + bytes.length ≤ 256) :
    exec (.memoryWrite who a bytes hint) s = .next ((s.requestWrite who a bytes hint).settle s) := by
  change execMemoryWrite who a bytes hint s = _
  rw [execMemoryWrite, linePieces_foldl_line (f := fun t b bs => t.requestWrite who b bs hint) some_ within, answer]

variable (real : s.place a ≠ .reserved) (device : s.place a ≠ .host)
include real device

theorem State.requestRead_of_device (n : Nat) : s.requestRead who a n hint = (
    let st := s.requestStatus who a n false
    if st ≠ 0 then ((if st = 4 then s.deny who.secure who.fn a else s).meet who.stage st).emit (.memData who a (List.replicate n 0#8))
    else if !s.hubServes a then (s.tick1 grnHit).emit (.memData who a (s.peeks a n))
    else if (s.resident (a / 256)).isSome ∧ !s.lineWaits (a / 256) then s.memRead who a n hint
    else if (s.unitOfLine (a / 256)).st = .out then s.memRead who a n hint
    else s.wait (.read who a n hint)) := by
  unfold State.requestRead
  extract_lets
  split
  · contradiction
  · contradiction
  · rfl

theorem State.requestWrite_of_device (bs : List Byte) : s.requestWrite who a bs hint = (
    let st := s.requestStatus who a bs.length true
    if st ≠ 0 then (if st = 4 then s.deny who.secure who.fn a else s).meet who.stage st
    else if !s.hubServes a then s.scratchPut a bs
    else if s.lineWaits (a / 256) then s.wait (.write who a hint bs)
    else if (s.resident (a / 256)).isSome ∨ (s.unitOfLine (a / 256)).st = .out then s.memWrite who a bs hint
    else if a % 256 = 0 ∧ bs.length = 256 ∧ !s.lineHeld (a / 256) then s.memWrite who a bs hint
    else s.wait (.write who a hint bs)) := by
  unfold State.requestWrite
  extract_lets
  split
  · contradiction
  · contradiction
  · rfl

omit real device in
/-- What a request that passes before a hub that serves has met of the extents and the hedgerow: nothing. -/
theorem State.passes_of_requestStatus {n : Nat} {write : Bool} (serves : s.hubServes a = true) (passed : s.requestStatus who a n write = 0) :
    (touches s.kvExtents a n || (write && touches s.poolExtents a n)) = false
    ∧ hedge ((s.regionAt a).map Prod.snd) who.secure who.fn = 0 := by
  rw [State.requestStatus_of_serves serves] at passed
  split at passed
  · exact absurd passed (by decide)
  next free => exact ⟨Bool.eq_false_iff.mpr free, passed⟩

/-- A read of a resident line that is not poisoned gives its newest bytes. -/
theorem State.memRead_of_resident {n : Nat} (serves : s.hubServes a = true) (passed : s.requestStatus who a n false = 0)
    (resident : (s.resident (a / 256)).isSome) (whole : s.poisoned (a / 256) = false) :
    s.memRead who a n hint = (s.touchRead (a / 256) hint who.stage).emit (.memData who a (s.peeks a n)) := by
  obtain ⟨free, hedge⟩ := State.passes_of_requestStatus serves passed
  have noKv : touches s.kvExtents a n = false := by simpa using free
  obtain ⟨near, there⟩ := State.reached_of_resident resident
  rw [State.memRead, State.readPiece_of_device real device]
  simp [noKv, hedge, State.lineGet_of_reached who.stage near there whole (.inr resident)]

/-- A write to a line within reach that is not poisoned is stored. -/
theorem State.memWrite_of_reached {bs : List Byte} (serves : s.hubServes a = true) (passed : s.requestStatus who a bs.length true = 0)
    (near : s.lineAway (a / 256) = false) (there : s.lineOut (a / 256) = false) (whole : s.poisoned (a / 256) = false) :
    s.memWrite who a bs hint = (s.touchWrite (a / 256) a bs hint who.stage).2.share who.stage a bs := by
  obtain ⟨free, hedge⟩ := State.passes_of_requestStatus serves passed
  have free' : (touches s.kvExtents a bs.length || touches s.poolExtents a bs.length) = false := by simpa using free
  have taken : (s.touchWrite (a / 256) a bs hint who.stage).1 = false := by rw [State.touchWrite_fst, whole, Bool.false_and]
  rw [State.memWrite, State.writePiece_of_device real device]
  simp only [free', hedge, near, there, taken, Bool.false_eq_true, if_false, ne_eq, not_true, State.writeDone, if_true]

end

/-- The bytes, the waits and the refusals of a read within a line. -/
theorem memoryRead_of_line {s : State} {who : Requester} {a n hint st : Nat} (some_ : 0 < n) (within : a % 256 + n ≤ 256)
    (real : s.place a ≠ .reserved) (device : s.place a ≠ .host) (status : st = s.requestStatus who a n false) :
    (st ≠ 0 → exec (.memoryRead who a n hint) s = .next ((((if st = 4 then s.deny who.secure who.fn a else s).meet who.stage st).emit
      (.memData who a (List.replicate n 0#8))).settle s))
    ∧ (st = 0 → s.hubServes a = false →
      exec (.memoryRead who a n hint) s = .next (((s.tick1 grnHit).emit (.memData who a (s.peeks a n))).settle s))
    ∧ (st = 0 → s.hubServes a = true → (s.resident (a / 256)).isSome → s.lineWaits (a / 256) = false → s.poisoned (a / 256) = false →
      exec (.memoryRead who a n hint) s
        = .next (((s.touchRead (a / 256) hint who.stage).emit (.memData who a (s.peeks a n))).settle s))
    ∧ (st = 0 → s.hubServes a = true → s.resident (a / 256) = none ∨ s.lineWaits (a / 256) = true →
      (s.unit (unitOf (a / 256))).st ≠ .out →
      exec (.memoryRead who a n hint) s = .next (({ s with mem := { s.mem with
        waiting := s.mem.waiting ++ [(unitOf (a / 256), .read who a n hint)] } } : State).settle s)) := by
  rw [exec_memoryRead_of_line some_ within, State.requestRead_of_device real device, ← status]
  refine ⟨fun refused => ?_, ?_, ?_, ?_⟩
  · simp only [ne_eq, refused, not_false_eq_true, if_true]
  · rintro rfl alone
    simp only [ne_eq, not_true, if_false, alone, Bool.not_false, if_true]
  · rintro rfl serves resident free whole
    simp only [ne_eq, not_true, if_false, serves, Bool.not_true, Bool.false_eq_true, resident, free, Bool.not_false, and_self, if_true,
      State.memRead_of_resident real device serves status.symm resident whole]
  · rintro rfl serves held inService
    have notServed : ¬ ((s.resident (a / 256)).isSome = true ∧ (!s.lineWaits (a / 256)) = true) := by
      rintro ⟨there, free⟩
      rcases held with absent | waits
      · rw [absent] at there; exact absurd there (by decide)
      · rw [waits] at free; exact absurd free (by decide)
    simp only [ne_eq, not_true, if_false, serves, Bool.not_true, Bool.false_eq_true, if_neg notServed,
      if_neg (show ¬ (s.unitOfLine (a / 256)).st = .out from inService)]
    rfl

theorem memoryWrite_of_line {s : State} {who : Requester} {a hint st : Nat} {bytes : List Byte} (some_ : 0 < bytes.length)
    (within : a % 256 + bytes.length ≤ 256) (real : s.place a ≠ .reserved) (device : s.place a ≠ .host)
    (status : st = s.requestStatus who a bytes.length true) :
    (st ≠ 0 → exec (.memoryWrite who a bytes hint) s
      = .next (((if st = 4 then s.deny who.secure who.fn a else s).meet who.stage st).settle s))
    ∧ (st = 0 → s.hubServes a = false → exec (.memoryWrite who a bytes hint) s = .next ((s.scratchPut a bytes).settle s))
    ∧ (st = 0 → s.hubServes a = true → s.lineWaits (a / 256) = false → s.poisoned (a / 256) = false →
      (s.resident (a / 256)).isSome ∨ (bytes.length = 256 ∧ s.lineHeld (a / 256) = false ∧ (s.unit (unitOf (a / 256))).st ≠ .out) →
      exec (.memoryWrite who a bytes hint) s
        = .next (((s.touchWrite (a / 256) a bytes hint who.stage).2.share who.stage a bytes).settle s))
    ∧ (st = 0 → s.hubServes a = true →
      s.lineWaits (a / 256) = true ∨ (s.resident (a / 256) = none ∧ (s.unit (unitOf (a / 256))).st ≠ .out
        ∧ (bytes.length ≠ 256 ∨ s.lineHeld (a / 256) = true)) →
      exec (.memoryWrite who a bytes hint) s = .next (({ s with mem := { s.mem with
        waiting := s.mem.waiting ++ [(unitOf (a / 256), .write who a hint bytes)] } } : State).settle s)) := by
  rw [exec_memoryWrite_of_line some_ within, State.requestWrite_of_device real device, ← status]
  refine ⟨fun refused => ?_, ?_, ?_, ?_⟩
  · simp only [ne_eq, refused, not_false_eq_true, if_true]
  · rintro rfl alone
    simp only [ne_eq, not_true, if_false, alone, Bool.not_false, if_true]
  · rintro rfl serves free whole reach
    simp only [ne_eq, not_true, if_false, serves, free, Bool.not_true, Bool.false_eq_true]
    rcases reach with resident | ⟨line, near, inService⟩
    · obtain ⟨close, there⟩ := State.reached_of_resident resident
      rw [if_pos (.inl resident), State.memWrite_of_reached real device serves status.symm close there whole]
    · have start : a % 256 = 0 := by omega
      have close : s.lineAway (a / 256) = false := by rw [State.lineAway, near, Bool.false_and]
      have there : s.lineOut (a / 256) = false := by simp [State.lineOut, inService]
      rw [if_pos (show a % 256 = 0 ∧ bytes.length = 256 ∧ (!s.lineHeld (a / 256)) = true from ⟨start, line, by rw [near]; rfl⟩), ite_self,
        State.memWrite_of_reached real device serves status.symm close there whole]
  · rintro rfl serves held
    simp only [ne_eq, not_true, if_false, serves, Bool.not_true, Bool.false_eq_true]
    rcases held with waits | ⟨absent, inService, part⟩
    · rw [if_pos waits]; rfl
    · have noHit : ¬ ((s.resident (a / 256)).isSome = true ∨ (s.unitOfLine (a / 256)).st = .out) := by
        rw [absent]
        rintro (there | out)
        · exact absurd there (by decide)
        · exact inService out
      have noLine : ¬ (a % 256 = 0 ∧ bytes.length = 256 ∧ (!s.lineHeld (a / 256)) = true) := by
        rintro ⟨-, line, near⟩
        rcases part with short | far
        · exact short line
        · rw [far] at near; exact absurd near (by decide)
      rw [if_neg noHit, if_neg noLine, ite_self]
      rfl

theorem atomicRequest_of_block {s : State} {who : Requester} {a op fmt st : Nat} {wrap : Bool} {bytes : List Byte} {fl : Flags} {s' : State}
    (there : atomicExists a op fmt bytes.length = true) (serves : s.hubServes a = true) (status : st = s.atomicStatus who a bytes.length)
    (applied : (fl, s') = s.atomicApply who a op (atomFmt fmt) wrap bytes) :
    (st ≠ 0 → exec (.atomicRequest who a op fmt wrap bytes) s
      = .next (((if st = 4 then s.deny who.secure who.fn a else s).meet who.stage st).settle s))
    ∧ (st = 0 → (s.resident (a / 256)).isSome → s.lineWaits (a / 256) = false →
      (who.stage = none → exec (.atomicRequest who a op fmt wrap bytes) s = .next (s'.settle s))
      ∧ (∀ k, who.stage = some k → exec (.atomicRequest who a op fmt wrap bytes) s = .next ((s'.raise k fl).settle s)))
    ∧ (st = 0 → s.resident (a / 256) = none ∨ s.lineWaits (a / 256) = true →
      exec (.atomicRequest who a op fmt wrap bytes) s = .next (({ s with mem := { s.mem with
        waiting := s.mem.waiting ++ [(unitOf (a / 256), .atomic who a op fmt wrap bytes)] } } : State).settle s)) := by
  have asked : exec (.atomicRequest who a op fmt wrap bytes) s = .next ((
      if st ≠ 0 then s.memAtomic who a op fmt wrap bytes
      else if (s.resident (a / 256)).isSome ∧ !s.lineWaits (a / 256) then s.memAtomic who a op fmt wrap bytes
      else s.wait (.atomic who a op fmt wrap bytes)).settle s) := by
    change execAtomicRequest who a op fmt wrap bytes s = _
    simp only [execAtomicRequest, there, if_true, State.requestAtomic, serves, Bool.not_true, Bool.and_false, Bool.false_and,
      Bool.false_eq_true, if_false, ← status, answer]
  rw [asked]
  refine ⟨fun refused => ?_, ?_, ?_⟩
  · rw [if_pos refused, State.memAtomic]
    by_cases denied : st = 4
    · subst denied
      simp [State.atomicFor, ← status]
    · simp [State.atomicFor, ← status, denied, refused]
  · rintro rfl resident free
    have close := (State.reached_of_resident resident).1
    have atomic : s.atomicFor who a op (atomFmt fmt) wrap bytes = (0, fl, s') := by
      simp [State.atomicFor, ← status, close, ← applied]
    rw [if_neg (by simp), if_pos ⟨resident, by rw [free]; rfl⟩, State.memAtomic, atomic]
    exact ⟨fun noStage => by simp only [noStage, if_true], fun k stage => by simp only [stage, if_true]⟩
  · rintro rfl held
    have notServed : ¬ ((s.resident (a / 256)).isSome = true ∧ (!s.lineWaits (a / 256)) = true) := by
      rintro ⟨there, free⟩
      rcases held with absent | waits
      · rw [absent] at there; exact absurd there (by decide)
      · rw [waits] at free; exact absurd free (by decide)
    rw [if_neg (by simp), if_neg notServed]
    rfl

/-! ### A line that arrives -/

/-- Nothing waits for a line, and its unit answers. -/
structure State.LineFree (s : State) (l : Nat) : Prop where
  waits : ∀ w ∈ s.mem.waiting, w.2.line ≠ l
  near : s.lineHeld l = false

theorem State.lineHeld_of_sameUnits {s t : State} (h : s.SameUnits t) (l : Nat) : t.lineHeld l = s.lineHeld l := by
  obtain ⟨st, copying⟩ := h.units (unitOf l)
  rw [State.lineHeld, State.lineHeld, st, copying]

theorem State.LineFree.keeps {s t : State} {l : Nat} (h : s.LineFree l) (same : s.SameUnits t) : t.LineFree l :=
  ⟨by rw [same.waiting]; exact h.waits, by rw [State.lineHeld_of_sameUnits same]; exact h.near⟩

theorem State.memRead_sameUnits (s : State) (who : Requester) (a n hint : Nat) : s.SameUnits (s.memRead who a n hint) := by
  have read := s.readPiece_sameUnits who a n hint
  unfold State.memRead
  dsimp only
  split
  · exact read.trans (.of_mem rfl)
  · exact read.trans (.of_mem (State.meet_mem _ _ _))

theorem State.writeDone_mem (s : State) (who : Requester) (a status : Nat) : (s.writeDone who a status).mem = s.mem := by
  unfold State.writeDone
  split
  · rfl
  · rw [State.meet_mem]
    split <;> rfl

theorem State.memWrite_sameUnits (s : State) (who : Requester) (a : Nat) (bs : List Byte) (hint : Nat) : s.SameUnits (s.memWrite who a bs hint) :=
  (s.writePiece_sameUnits who a bs hint).trans (.of_mem (State.writeDone_mem _ _ _ _))

theorem State.raise_mem (s : State) (n : Nat) (f : Flags) : (s.raise n f).mem = s.mem := by
  unfold State.raise
  split
  · rfl
  · split <;> rfl

theorem State.atomicFor_sameUnits (s : State) (who : Requester) (a op : Nat) (f : Fmt) (wrap : Bool) (bs : List Byte) :
    s.SameUnits (s.atomicFor who a op f wrap bs).2.2 := by
  unfold State.atomicFor
  dsimp only
  split
  · exact .of_mem (State.deny_mem _ _ _ _)
  · split
    · exact .refl s
    · split
      · exact .of_units rfl rfl
      · unfold State.atomicApply
        dsimp only
        split <;> exact .of_units rfl rfl

theorem State.memAtomic_sameUnits (s : State) (who : Requester) (a op fmt : Nat) (wrap : Bool) (bs : List Byte) :
    s.SameUnits (s.memAtomic who a op fmt wrap bs) := by
  have applied := s.atomicFor_sameUnits who a op (atomFmt fmt) wrap bs
  unfold State.memAtomic
  dsimp only
  split
  · split
    · exact applied
    · exact applied.trans (.of_mem (State.raise_mem _ _ _))
  · exact applied.trans (.of_mem (State.meet_mem _ _ _))

theorem State.bar4Read_sameUnits (s : State) (who : Requester) (a n : Nat) : s.SameUnits (s.bar4Read who a n) := by
  have piece : ∀ (t : State) (a n : Nat), t.SameUnits (t.bar4Piece who a n).2.2 := fun t a n => by
    unfold State.bar4Piece
    extract_lets zeros
    split
    · exact .refl t
    · exact t.readPiece_sameUnits who a n 0
  unfold State.bar4Read
  refine State.SameUnits.trans ?_ (.of_mem (State.emit_mem _ _))
  exact List.foldlRecOn (motive := fun acc : List Byte × Bool × State => s.SameUnits acc.2.2) _ _ (.refl s)
    fun acc h p _ => h.trans (piece acc.2.2 p.1 p.2)

/-- A request that is served makes nothing wait for a line that is free. -/
theorem State.LineFree.serve {s : State} {l : Nat} (h : s.LineFree l) (w : Waiting) : (s.serve w).LineFree l := by
  cases w with
  | read who a n hint => exact h.keeps (s.memRead_sameUnits who a n hint)
  | write who a hint bs => exact h.keeps (s.memWrite_sameUnits who a bs hint)
  | atomic who a op fmt wrap bs => exact h.keeps (s.memAtomic_sameUnits who a op fmt wrap bs)
  | bar4 who k a n =>
    change (s.bar4Ask who a n).LineFree l
    unfold State.bar4Ask
    split
    next p found =>
      have waits := List.find?_some found
      simp only [State.bar4Waits, Bool.and_eq_true, Bool.or_eq_true] at waits
      refine ⟨fun w member => ?_, h.near⟩
      rcases List.mem_append.mp member with before | new
      · exact h.waits w before
      · rw [List.mem_singleton.mp new]
        intro same
        have here : p.1 / 256 = l := same
        rw [here, State.lineWaits, State.lineAway, h.near, List.any_eq_true] at waits
        rcases waits.2 with ⟨w', there, line⟩ | away
        · exact h.waits w' there (by simpa using line)
        · exact absurd away (by simp)
    next => exact h.keeps (s.bar4Read_sameUnits who a n)

theorem State.serveLine_lineFree {s : State} {l : Nat} (near : s.lineHeld l = false) : (s.serveLine l).LineFree l := by
  refine List.foldlRecOn (motive := fun t : State => t.LineFree l) _ _ ⟨fun w member => ?_, near⟩ fun t h w _ => h.serve w.2
  simpa using (List.mem_filter.mp member).2

theorem State.setUnit_unit_same (s : State) (u : Nat) (x : MemUnit) : (s.setUnit u x).unit u = x := by simp

/-- What a controller finds at a line leaves whether its unit is in service. -/
theorem State.found_unit_st (s : State) (u l : Nat) (ecc : EccResult) (v : Nat) : ((s.found u l ecc).unit v).st = (s.unit v).st := by
  have set : ∀ (t : State) (x : MemUnit), x.st = (t.unit u).st → ((t.setUnit u x).unit v).st = (t.unit v).st := fun t x same => by
    rw [State.setUnit_unit]
    split
    next here => rw [same, here]
    next => rfl
  have remap : ∀ (t : State) (row : Nat), ((t.startRemap u row).unit v).st = (t.unit v).st := fun t row => by
    unfold State.startRemap
    dsimp only
    split
    · rfl
    · split
      · rfl
      · exact set t _ rfl
  have correct : ∀ again, ((s.correct u l again).unit v).st = (s.unit v).st := fun again => by
    unfold State.correct
    extract_lets _ _ _ _ _ _ t
    have noted : (t.unit v).st = (s.unit v).st := set _ _ rfl
    split
    · rw [remap, noted]
    · exact noted
  have uncorrected : ((s.uncorrected u l).unit v).st = (s.unit v).st := by
    have counted : ∀ t : State, t.mem = s.mem → ((t.poisonLine u l).unit v).st = (s.unit v).st := fun t same => by
      have units : ∀ p, (({ t with mem := { t.mem with poison := p } } : State).unit v) = s.unit v := fun p => by
        rw [State.unit, State.unit, same]
      unfold State.poisonLine
      extract_lets _ y x
      split
      · rw [units]
      · split
        · rw [units]
        · split
          · exact congrArg MemUnit.st (units _)
          · exact (set y { x with poisonTable := x.poisonTable ++ [l] } rfl).trans (congrArg MemUnit.st (units _))
    rw [State.uncorrected, remap]
    split
    · exact counted _ (State.notify_mem _)
    · exact counted _ rfl
  cases ecc with
  | clean => rfl
  | corrected => exact correct false
  | corrected_again => exact correct true
  | uncorrected => exact uncorrected

theorem State.serveAtomics_lineHeld (s : State) (l k : Nat) : (s.serveAtomics l).lineHeld k = s.lineHeld k := by
  unfold State.serveAtomics
  extract_lets head rest t
  have atomics : ∀ w ∈ head, ∃ who a op fmt wrap bs, w = Waiting.atomic who a op fmt wrap bs := fun w member => by
    have atomic := List.all_eq_true.mp List.all_takeWhile w member
    cases w with
    | atomic who a op fmt wrap bs => exact ⟨who, a, op, fmt, wrap, bs, rfl⟩
    | read | write | bar4 => exact absurd atomic (by simp)
  refine List.foldlRecOn (motive := fun u : State => u.lineHeld k = s.lineHeld k) head _ rfl fun u h w member => ?_
  obtain ⟨who, a, op, fmt, wrap, bs, rfl⟩ := atomics w member
  exact (State.lineHeld_of_sameUnits (u.memAtomic_sameUnits who a op fmt wrap bs) k).trans h

/-- When a line arrives nothing waits for it any more. -/
theorem State.lineRead_waiting {s : State} {l : Nat} (ecc : EccResult) (near : s.lineHeld l = false) :
    ∀ w ∈ (s.lineRead l ecc true).mem.waiting, w.2.line ≠ l := by
  have held : ((s.found (unitOf l) l ecc).setUnit (unitOf l)
      { (s.found (unitOf l) l ecc).unit (unitOf l) with copying := (s.unit (unitOf l)).copying }).lineHeld l = false := by
    rw [← near, State.lineHeld, State.lineHeld, State.setUnit_unit_same, State.found_unit_st]
  exact (State.serveLine_lineFree ((State.serveAtomics_lineHeld _ l l).trans held)).waits

/-- Settles O30: reads, writes and atomics within a line, and the line that arrives. -/
theorem memoryRequests : Obligations.MemoryRequests := by
  refine ⟨fun s who a n hint st => memoryRead_of_line, fun s who a hint st bytes => memoryWrite_of_line,
    fun s who a op fmt st wrap bytes fl s' => atomicRequest_of_block, fun s l ecc waits near inService => ?_⟩
  have ready : (!s.lineWaits l || s.lineHeld l || (s.unitOfLine l).st != .service) = false := by
    simp [waits, near, State.unitOfLine, inService]
  refine ⟨?_, State.lineRead_waiting ecc near, fun u who a op fmt wrap bytes first => ?_⟩
  · change execMissFillComplete l ecc s = _
    simp only [execMissFillComplete, ready, Bool.false_eq_true, if_false, answer]
  · change execAtomicApplyMc l ecc s = _
    simp only [execAtomicApplyMc, ready, first, Bool.false_eq_true, if_false, answer]

end Sys2Proof.Machine
end

section
/-! Atomics (spec/10 R260, R261). -/
namespace Sys2Proof.Machine

theorem unsigned_signed_32 {a : Nat} (small : a < 2 ^ 32) : unsigned (signed a 32) 32 = a := by
  unfold unsigned signed
  split <;> omega

/-- Sums of two's complement numbers wrap. -/
theorem unsigned_add_signed_32 (a b : Nat) : unsigned (signed a 32 + signed b 32) 32 = (a + b) % 2 ^ 32 := by
  unfold unsigned signed
  split <;> split <;> omega

theorem encodeInt_wrap_fst (f : Fmt) (v : Int) : (encodeInt f true v).1 = unsigned v f.width := by
  unfold encodeInt
  dsimp only
  split <;> rfl

theorem atomElem_int32 {a b : Nat} (smallA : a < 2 ^ 32) (smallB : b < 2 ^ 32) :
    (atomElem .int32 0 true a b).1 = (a + b) % 2 ^ 32
    ∧ (atomElem .int32 1 true a b).1 = (if signed a 32 ≤ signed b 32 then a else b)
    ∧ (atomElem .int32 2 true a b).1 = (if signed a 32 ≤ signed b 32 then b else a) := by
  refine ⟨?_, ?_, ?_⟩
  · exact (encodeInt_wrap_fst .int32 (signed a 32 + signed b 32)).trans (unsigned_add_signed_32 a b)
  · change unsigned (min (signed a 32) (signed b 32)) 32 = _
    rw [Int.min_def]
    split
    · exact unsigned_signed_32 smallA
    · exact unsigned_signed_32 smallB
  · change unsigned (max (signed a 32) (signed b 32)) 32 = _
    rw [Int.max_def]
    split
    · exact unsigned_signed_32 smallB
    · exact unsigned_signed_32 smallA

/-- An atomic gives as many bytes as it takes, in whole elements. -/
theorem atomBytes_length (f : Fmt) (op : Nat) (wrap : Bool) (old new : List Byte) (whole : new.length % (f.width / 8) = 0) :
    (atomBytes f op wrap old new).1.length = new.length := by
  have each : ∀ k, ((List.range k).foldl (fun (acc : List Byte × Flags) i =>
      let (c, fl) := atomElem f op wrap (field old (i * (f.width / 8)) (f.width / 8)) (field new (i * (f.width / 8)) (f.width / 8))
      (acc.1 ++ toLE (f.width / 8) c, acc.2 ||| fl)) ([], 0)).1.length = k * (f.width / 8) := by
    intro k
    induction k with
    | zero => simp
    | succ k ih =>
      rw [List.range_succ, List.foldl_append, List.foldl_cons, List.foldl_nil]
      simp only [List.length_append, ih, toLE_length, Nat.succ_mul]
  exact (each _).trans (Nat.div_mul_cancel (Nat.dvd_of_mod_eq_zero whole))

theorem State.atomicApply_peek {s : State} (who : Requester) {a : Nat} (op : Nat) {f : Fmt} (wrap : Bool) {bytes : List Byte} {i : Nat}
    (inv : s.Inv) (within : a % 256 + bytes.length ≤ 256) (inside : i < bytes.length) (whole : bytes.length % (f.width / 8) = 0) :
    (s.atomicApply who a op f wrap bytes).2.peek (a + i) = (atomBytes f op wrap (s.peeks a bytes.length) bytes).1.getD i 0 := by
  have long : i < (atomBytes f op wrap (s.peeks a bytes.length) bytes).1.length := by rw [atomBytes_length _ _ _ _ _ whole]; exact inside
  have line : (a + i) / 256 = a / 256 := by omega
  unfold State.atomicApply
  dsimp only
  split
  next g found =>
    have there : ((((s.tick1 grnHit).tick1 atomGrn).hit g 0 who.stage true).resident (a / 256)).isSome :=
      (State.resident_mem found).2 ▸ State.hit_resident _ _ _ _ _
    rw [State.storeLine_peek _ _ _ _ _ there, if_pos ⟨Nat.le_add_right _ _, by omega, line⟩, Nat.add_sub_cancel_left]
  next absent =>
    have rest : (((s.tick1 grnMiss).tick1 atomMc).storeRest a (atomBytes f op wrap (s.peeks a bytes.length) bytes).1).resident ((a + i) / 256)
        = none := by rw [line]; exact absent
    rw [State.peek, rest]
    exact cellGet_puts_same inv.cells _ long

/-- Settles O31: the elements of a 32-bit integer, and the bytes that every reader finds. -/
theorem atomicsApply : Obligations.AtomicsApply :=
  ⟨fun _ _ => atomElem_int32, fun _ who _ op _ wrap _ _ inv within inside _ whole => State.atomicApply_peek who op wrap inv within inside whole⟩

end Sys2Proof.Machine
end

section
/-! The memory controllers (spec/10 R270-R278, R287; spec/18 R482-R484). -/
namespace Sys2Proof.Machine

/-! ### What an uncorrected error leaves -/

/-- `t` is `s` after an error is handled: poison and units, counters, events and messages apart it is `s`. -/
def State.Marked (s t : State) : Prop := t = { s with
  mem := { s.mem with poison := t.mem.poison, units := t.mem.units }, hif := { s.hif with msix := t.hif.msix }
  ctrs := t.ctrs, evlog := t.evlog, out := t.out }

theorem State.Marked.refl (s : State) : s.Marked s := rfl

theorem State.Marked.trans {s t u : State} (h : s.Marked t) (k : t.Marked u) : s.Marked u := by
  unfold State.Marked at h k ⊢
  rw [k, h]

theorem State.Messaged.marked {s t : State} (h : s.Messaged t) : s.Marked t := by
  unfold State.Marked
  rw [h.state]

theorem State.startRemap_marked (s : State) (u row : Nat) : s.Marked (s.startRemap u row) := by
  unfold State.startRemap
  dsimp only
  split
  · exact .refl s
  · split <;> rfl

theorem State.poisonLine_marked (s : State) (u l : Nat) : s.Marked (s.poisonLine u l) := by
  unfold State.poisonLine
  extract_lets
  repeat' split
  all_goals rfl

theorem State.uncorrected_marked (s : State) (u l : Nat) : s.Marked (s.uncorrected u l) := by
  have counted : s.Marked (if s.lineSecure l then (s.tick1 secUe).notifySecure else s.tick1 memUeOpenCnt) := by
    split
    · exact State.Marked.trans (t := s.tick1 secUe) rfl ((State.Messaged.refl _).notifySecure).marked
    · rfl
  exact (counted.trans (State.poisonLine_marked _ u l)).trans (State.startRemap_marked _ u _)

theorem State.Marked.lineSecure {s t : State} (h : s.Marked t) (l : Nat) : t.lineSecure l = s.lineSecure l := by
  rw [(h : _ = _)]
  rfl

/-! ### The commands -/

section
variable {s : State} {u : Nat}

/-- The unit's scrubber moves on, and the read is counted. -/
def State.scrubbed (s : State) (u : Nat) (forced : Bool) : State :=
  if forced then ((s.setUnit u { s.unit u with scrubPos := ((s.unit u).scrubPos + 1) % s.unitLines u }).tick1 scrubLines).tick1 scrubForced
  else (s.setUnit u { s.unit u with scrubPos := ((s.unit u).scrubPos + 1) % s.unitLines u }).tick1 scrubLines

theorem exec_scrubRead_of_due {l : Nat} (ecc : EccResult) (forced : Bool) (serves : (s.unit u).st = .service) (on : s.obj 0x6000 1 24 ≠ 0)
    (lines : s.unitLines u ≠ 0) (line : l = scrubLine u (s.unit u).scrubPos) :
    exec (.scrubRead u ecc forced) s = .next ((
      let b := s.scrubbed u forced
      if (if u < 8 then s.mem.poison.contains l else (s.unit u).poisonTable.contains l) then b
      else if ecc = .uncorrected then (b.uncorrected u l).log 0x0101 u (l * 256) (b.lineSecure l) else b.found u l ecc).settle s) := by
  subst line
  have due : ¬ ((s.unit u).st ≠ .service ∨ s.obj 0x6000 1 24 = 0 ∨ s.unitLines u = 0) := by simp [serves, on, lines]
  change execScrubRead u ecc forced s = _
  cases forced <;> simp only [execScrubRead, if_neg due, State.scrub, State.scrubbed, Bool.false_eq_true, if_false, if_true, answer] <;> rfl

theorem exec_ceRateTick (s : State) : exec .ceRateTick s = .next ((
    let n := (s.mem.ceSecond.map Prod.snd).sum
    let t := if decide (s.mem.ceLimit < n) ∧ !s.mem.ceRate then s.log 0x0103 (worstUnit s.mem.ceSecond) n else s
    ({ t with mem := { t.mem with ceRate := decide (s.mem.ceLimit < n), ceSecond := [], ceLimit := t.obj 0x6000 3 1000 } } : State)).settle s) :=
  rfl

theorem exec_unitRetrainStart_of_service {cause : Nat} (serves : (s.unit u).st = .service) (known : retrainCause u cause = true) :
    exec (.unitRetrainStart u cause) s = .next ((s.retrainStart u cause).settle s) := by
  change execUnitRetrainStart u cause s = _
  simp only [execUnitRetrainStart, serves, known, and_self, if_true, answer]

theorem exec_unitRetrainAttemptEnd_of_retraining (passed : Bool) (retrains : (s.unit u).st = .retraining) :
    exec (.unitRetrainAttemptEnd u passed) s = .next ((s.attemptEnd u passed).settle s) := by
  change execUnitRetrainAttemptEnd u passed s = _
  simp only [execUnitRetrainAttemptEnd, retrains, if_true, answer]

end

/-- What a reading below the rate's range does to a unit. -/
theorem MemUnit.read_of_cooler {x : MemUnit} {c low : Nat} (cooler : refreshOf c < x.refresh) (range : low = if x.refresh = 2 then 95 else 85) :
    x.read (some c) = if c + 3 ≤ low
      then (if 9 ≤ x.cool then { x with temp := min c 0xFE, refresh := x.refresh - 1, cool := 0 }
        else { x with temp := min c 0xFE, cool := x.cool + 1 })
      else { x with temp := min c 0xFE, cool := 0 } := by
  subst range
  exact if_neg (Nat.not_le.mpr cooler)

/-- Settles O32: remaps, scrubs, readings, rates and retraining. -/
theorem memoryUnits : Obligations.MemoryUnits := by
  refine ⟨fun s u row copies => ?_, fun s b u l ecc forced marked serves on lines line moved known => ?_, fun s u => ⟨rfl, fun c warm => ?_,
    fun c low cooler range => ?_, rfl, rfl, rfl, rfl⟩, fun s n sum => ?_, fun s u cause recent serves known latest => ?_,
    fun s u n retrains count => ?_, fun s u n => rfl⟩
  · change execRowRemapComplete u s = _
    simp only [execRowRemapComplete, copies, State.remapped, answer]
  · subst known
    change b = s.scrubbed u forced at moved
    rw [exec_scrubRead_of_due ecc forced serves on lines line, ← moved]
    refine ⟨fun none => ?_, fun unmarked corrected => ?_, fun unmarked uncorrected => ?_⟩
    · rcases none with known | clean
      · simp only [known, if_true]
      · subst clean
        simp only [reduceCtorEq, if_false, State.found, ite_self]
    · rcases corrected with rfl | rfl <;> simp only [unmarked, Bool.false_eq_true, reduceCtorEq, if_false, State.found] <;> rfl
    · rw [(b.uncorrected_marked u l).lineSecure]
      simp only [unmarked, Bool.false_eq_true, if_false, uncorrected, if_true]
  · change execMemTempRead u (some c) s = _
    simp only [execMemTempRead, MemUnit.read, if_pos warm, answer]
  · change (_ → _ → execMemTempRead u (some c) s = _) ∧ (_ → _ → execMemTempRead u (some c) s = _)
      ∧ (_ → execMemTempRead u (some c) s = _)
    rw [execMemTempRead, MemUnit.read_of_cooler cooler range]
    refine ⟨fun below few => ?_, fun below ten => ?_, fun above => ?_⟩
    · rw [if_pos below, if_neg (Nat.not_le.mpr few), answer]
    · rw [if_pos below, if_pos ten, answer]
    · rw [if_neg (Nat.not_le.mpr above), answer]
  · subst sum
    rw [exec_ceRateTick]
    refine ⟨fun within => ?_, fun above stands => ?_, fun above fresh => ?_⟩
    · simp only [Nat.not_lt.mpr within, decide_false, Bool.false_eq_true, false_and, if_false]
    · simp only [above, decide_true, stands, Bool.not_true, Bool.false_eq_true, and_false, if_false]
    · simp only [above, decide_true, fresh, Bool.not_false, and_self, if_true]
      rfl
  · subst latest
    rw [exec_unitRetrainStart_of_service serves known, State.retrainStart]
    exact ⟨fun few => by rw [if_neg (Nat.not_le.mpr few)], fun many => by rw [if_pos many]⟩
  · subst count
    rw [exec_unitRetrainAttemptEnd_of_retraining _ retrains, exec_unitRetrainAttemptEnd_of_retraining _ retrains, State.attemptEnd,
      State.attemptEnd]
    refine ⟨?_, fun more => ?_, fun last => ?_⟩
    · rw [if_pos rfl]
    · rw [if_neg Bool.false_ne_true, if_neg (Nat.not_le.mpr more)]
    · rw [if_neg Bool.false_ne_true, if_pos last]

end Sys2Proof.Machine
end

section
/-! Placement and gleaning (spec/06 R143-R152). -/
namespace Sys2Proof.Machine

/-! ### What a scan that keeps one element ends with -/

theorem foldl_pick_mem {α β : Type} {f : Option β → α → Option β} {g : α → β} {x : β}
    (pick : ∀ best p, f best p = some (g p) ∨ f best p = best) :
    ∀ (l : List α) (start : Option β), l.foldl f start = some x → (∃ p ∈ l, g p = x) ∨ start = some x
  | [], _, h => .inr h
  | p :: l, start, h => by
    rcases foldl_pick_mem pick l _ h with ⟨q, member, same⟩ | last
    · exact .inl ⟨q, List.mem_cons_of_mem p member, same⟩
    · rcases pick start p with e | e
      · exact .inl ⟨p, List.mem_cons_self, Option.some.inj (e.symm.trans last)⟩
      · exact .inr (e.symm.trans last)

theorem ite_either {α : Type} {c : Prop} [Decidable c] (a b : α) : (if c then a else b) = a ∨ (if c then a else b) = b := by
  split
  · exact .inl rfl
  · exact .inr rfl

theorem foldl_pick_least {α : Type} {f : Option α → α → Option α} {key : α → Nat} (first : ∀ p, f none p = some p)
    (next : ∀ b p, f (some b) p = if key p < key b then some p else some b) {x : α} :
    ∀ (l : List α) (b : α), l.foldl f (some b) = some x → key x ≤ key b ∧ ∀ p ∈ l, key x ≤ key p
  | [], b, h => ⟨(Option.some.inj h ▸ Nat.le_refl _), by simp⟩
  | p :: l, b, h => by
    rw [List.foldl_cons, next] at h
    split at h
    · obtain ⟨least, rest⟩ := foldl_pick_least first next l p h
      exact ⟨by omega, List.forall_mem_cons.mpr ⟨least, rest⟩⟩
    · obtain ⟨least, rest⟩ := foldl_pick_least first next l b h
      exact ⟨least, List.forall_mem_cons.mpr ⟨by omega, rest⟩⟩

theorem State.gleanPick_mem {s : State} {ps : List (Nat × Task)} {p : Nat × Task} (h : s.gleanPick ps = some p) : p ∈ ps := by
  have found := foldl_pick_mem (g := id) (fun best p => ?_) ps none h
  · simpa using found
  · cases best with
    | none => exact .inl rfl
    | some b => exact ite_either _ _

theorem Core.firstArrival_mem {x : Core} {p : Nat × Task} (h : x.firstArrival = some p) : p ∈ x.slots ∧ p.2.st = .inTransit := by
  have member : p ∈ x.slots.filter (fun p => p.2.st == .inTransit) := by
    unfold Core.firstArrival at h
    have found := foldl_pick_mem (g := id) (fun best p => ?_) _ none h
    · simpa using found
    · cases best with
      | none => exact .inl rfl
      | some b => exact ite_either _ _
  simpa using member

theorem Core.firstArrival_least {x : Core} {p q : Nat × Task} (h : x.firstArrival = some p) (slot : q ∈ x.slots)
    (moving : q.2.st = .inTransit) : p.2.arrives ≤ q.2.arrives := by
  have member : q ∈ x.slots.filter (fun p => p.2.st == .inTransit) := by simp [slot, moving]
  unfold Core.firstArrival at h
  generalize x.slots.filter (fun p => p.2.st == .inTransit) = l at h member
  cases l with
  | nil => simp at member
  | cons b l =>
    obtain ⟨least, rest⟩ := foldl_pick_least (key := fun p => p.2.arrives) (fun _ => rfl) (fun _ _ => rfl) l b h
    rcases List.mem_cons.mp member with rfl | other
    · exact least
    · exact rest q other

/-! ### Placement -/

theorem State.findCore_takes {s : State} {d : List Byte} {cls c : Nat} (h : s.findCore d cls = some c) :
    s.coreTakes (dMask d) cls c = true :=
  List.find?_some h

theorem State.placeFirst_of_core {s : State} {n c : Nat} {st : Stage} {rest : List (Nat × Stage)} {rc : Nat × Nat}
    (tile : nextTile st = some rc) (free : s.findCore st.desc st.cls = some c) :
    s.placeFirst ((n, st) :: rest) = s.placeOn n st rc c := by
  simp only [State.placeFirst, tile, free]

theorem State.placeFirst_of_full {s : State} {n : Nat} {st : Stage} {rest : List (Nat × Stage)} {rc : Nat × Nat}
    (tile : nextTile st = some rc) (full : s.findCore st.desc st.cls = none) :
    s.placeFirst ((n, st) :: rest) = (s.setStage n { st with held := true }).placeFirst rest := by
  simp only [State.placeFirst, tile, full]

theorem State.knocks_samePowerAside (s : State) (d e : Nat) : s.SamePowerAside ((s.knock d).knock e) :=
  (s.knock_samePowerAside d).trans ((s.knock d).knock_samePowerAside e)

/-- The task that a placed tile becomes. -/
def State.placed (s : State) (n : Nat) (st : Stage) (rc : Nat × Nat) : Task :=
  { stage := n, r := rc.1, c := rc.2, len := s.chainLen n st rc, order := s.cores.placeOrder }

theorem State.placeOn_core (s : State) (n : Nat) (st : Stage) (rc : Nat × Nat) (c : Nat) :
    (s.placeOn n st rc c).core c
      = { s.core c with slots := (s.core c).slots.put (s.core c).freeSlot (s.placed n st rc) } := by
  unfold State.placeOn
  extract_lets
  rw [(State.knocks_samePowerAside _ _ _ : _ = _)]
  exact (State.setCore_core _ _ _ _).trans (if_pos rfl)

theorem State.placeOn_stage (s : State) (n : Nat) (st : Stage) (rc : Nat × Nat) (c : Nat) :
    (s.placeOn n st rc c).stage n = some { st with issued := st.issued ++ [rc], held := false } := by
  unfold State.placeOn
  extract_lets
  rw [(State.knocks_samePowerAside _ _ _ : _ = _)]
  exact (State.setStage_stage _ _ _ _).trans (if_pos rfl)

/-! ### Gleaning -/

/-- The task given up by a victim stands in transit at the thief. -/
def State.givenUp (s : State) (victim thief slot : Nat) (task : Task) : State :=
  let t := s.setCore victim { s.core victim with slots := (s.core victim).slots.del slot }
  t.setCore thief { t.core thief with
    slots := (t.core thief).slots.put (t.core thief).freeSlot { task with
      st := .inTransit, arrives := s.time + s.cyclesNs thief (tierTransfer (tierOf thief victim)) } }

theorem State.serveGlean_some {s : State} {victim thief slot : Nat} {task : Task}
    (pick : s.gleanPick (s.gleanable victim thief) = some (slot, task)) (c : Nat) :
    (s.serveGlean victim thief).core c = (s.givenUp victim thief slot task).core c := by
  simp only [State.serveGlean, pick]
  split <;> rfl

theorem State.serveGlean_core {s : State} {v thief slot : Nat} {task : Task} (other : v ≠ thief)
    (pick : s.gleanPick (s.gleanable v thief) = some (slot, task)) :
    ((s.serveGlean v thief).core v).slots = (s.core v).slots.del slot
    ∧ ((s.serveGlean v thief).core thief).slots = (s.core thief).slots.put (s.core thief).freeSlot
        { task with st := .inTransit, arrives := s.time + s.cyclesNs thief (tierTransfer (tierOf thief v)) } := by
  rw [State.serveGlean_some pick, State.serveGlean_some pick]
  simp [State.givenUp, other, other.symm]

theorem State.gleanable_of_mem {s : State} {v thief : Nat} {p : Nat × Task} (h : p ∈ s.gleanable v thief) :
    p.2.st = .waiting ∧ p.2.begun = false := by
  simp only [State.gleanable, List.mem_filter, Bool.and_eq_true, beq_iff_eq, Bool.not_eq_true'] at h
  exact h.2.1

theorem exec_gleanTransferComplete {s : State} {c slot : Nat} {task : Task} (first : (s.core c).firstArrival = some (slot, task)) :
    ∃ t, exec (.gleanTransferComplete c) s = .next (t.settle s)
      ∧ (s.setCore c { s.core c with slots := (s.core c).slots.put slot { task with st := .waiting } }).SamePowerAside t := by
  refine ⟨_, ?_, (State.knock_samePowerAside _ (192 + c / 12)).trans (State.knock_samePowerAside _ (2 * c + 1))⟩
  change execGleanTransferComplete c s = _
  simp only [execGleanTransferComplete, first, answer]

theorem exec_gleanTransferComplete_keeps {s : State} {c slot : Nat} {task : Task} (first : (s.core c).firstArrival = some (slot, task)) :
    ∃ t, exec (.gleanTransferComplete c) s = .next t
      ∧ (t.core c).slots = (s.core c).slots.put slot { task with st := .waiting }
      ∧ (∀ c', c' ≠ c → t.core c' = s.core c') ∧ t.mem = s.mem ∧ t.dsp = s.dsp := by
  obtain ⟨t, run, aside⟩ := exec_gleanTransferComplete first
  have mem : t.mem = s.mem := by rw [(aside : _ = _)]; rfl
  have core : ∀ j, t.core j = State.core _ j := fun j => congrArg (fun x : State => x.cores.core.get {} j) aside
  have alive : (t.mem.stalled && !s.mem.stalled) = false := by rw [mem]; exact Bool.and_not_self _
  refine ⟨_, run, ?_, fun c' other => ?_, ?_, ?_⟩
  · rw [State.settle_core _ _ _ alive, core]
    exact congrArg Core.slots ((State.setCore_core _ _ _ _).trans (if_pos rfl))
  · rw [State.settle_core _ _ _ alive, core]
    exact (State.setCore_core _ _ _ _).trans (if_neg (Ne.symm other))
  · rw [State.settle_mem _ _ alive, mem]
  · rw [State.settle_dsp _ _ alive, (aside : _ = _)]
    rfl

/-- Settles O33: a scan that finds a core places the tile there; a task given up or arrived moves between slots, with the knocks aside. -/
theorem placementAndGleaning : Obligations.PlacementAndGleaning := by
  unfold Obligations.PlacementAndGleaning
  refine ⟨fun s n st rest rc ready tile => ⟨fun c free => ⟨?_, State.findCore_takes free, s.placed n st rc, ?_, rfl, rfl, rfl, rfl,
    State.placeOn_stage s n st rc c⟩, fun full => ?_⟩, fun s idle => ?_, fun s c v gleans victim fresh => ?_, fun s v thief least => ?_,
    fun s v thief slot task other pick => ?_, fun s v thief pick => ?_, fun s c idle => ?_, fun s c slot task first => ?_, fun _ _ _ => rfl⟩
  · change answer s (s.placeFirst s.ready) = _
    rw [ready, State.placeFirst_of_core tile free]
    rfl
  · rw [State.placeOn_core, Map.find_put, if_pos rfl]
  · change answer s (s.placeFirst s.ready) = _
    rw [ready, State.placeFirst_of_full tile full]
    rfl
  · change answer s (s.placeFirst s.ready) = _
    rw [idle]
    rfl
  · change execGleanRequest c s = _
    simp [execGleanRequest, gleans, victim, fresh, answer]
  · change execGleanServe v s = _
    simp only [execGleanServe, least, answer]
  · obtain ⟨waiting, fresh⟩ := State.gleanable_of_mem (State.gleanPick_mem pick)
    exact ⟨waiting, fresh, State.serveGlean_core other pick⟩
  · simp only [State.serveGlean, pick]
  · change execGleanRequest c s = _
    rcases idle with off | alone
    · simp [execGleanRequest, off, answer]
    · simp [execGleanRequest, alone, answer]
  · exact ⟨(Core.firstArrival_mem first).2, fun p slot moving => Core.firstArrival_least first slot moving,
      exec_gleanTransferComplete_keeps first⟩

end Sys2Proof.Machine
end

section
/-! Tasks in their passes (spec/03 R61-R84; spec/06 R153, R157; spec/09 R233). -/
namespace Sys2Proof.Machine

/-! ### What leaves the cores as they are -/

theorem State.readElems_accessed (s : State) (who : Requester) (t : TDesc) (r e0 n : Nat) : s.Accessed (s.readElems who t r e0 n).2 :=
  (State.Accessed.refl s).readFor who _ _ _

theorem State.raise_cores (s : State) (n : Nat) (f : Flags) : (s.raise n f).cores = s.cores := by
  unfold State.raise
  split
  · rfl
  · split <;> rfl

theorem State.startWords_cores (s : State) (n : Nat) (st : Stage) (t : Task) (c cols : Nat) :
    (s.startWords n st t c cols).2.cores = s.cores := by
  unfold State.startWords
  dsimp only
  split
  · have read := (s.readElems_accessed (st.who n) (dTd st.desc 3) 0 ((tileCols st.desc t.c).1 + c) cols).cores
    dsimp only
    split
    · rw [State.raise_cores, read]
    · exact read
  · split
    · refine List.foldlRecOn (motive := fun acc : List Word64 × State => acc.2.cores = s.cores) _ _ rfl fun acc same row _ => ?_
      split
      · exact same
      · rw [State.raise_cores, (State.readElems_accessed _ _ _ _ _ _).cores, same]
    · rfl

theorem State.kvCount_cores (s : State) (secure : Bool) (a n : Nat) : (s.kvCount secure a n).cores = s.cores := by
  unfold State.kvCount
  repeat' split
  all_goals rfl

theorem State.markFirst_cores (s : State) (n : Nat) : (s.markFirst n).cores = s.cores := by
  unfold State.markFirst
  split
  · rfl
  · dsimp only
    split <;> rfl

theorem State.knock_cores (s : State) (d : Nat) : (s.knock d).cores = s.cores := by
  rw [(s.knock_samePowerAside d : _ = _)]

/-! ### A task in its slot -/

/-- The task in a slot of a core is as `P` says. -/
def State.SlotIs (s : State) (c slot : Nat) (P : Task → Prop) : Prop := ∃ x, (s.core c).slots.find slot = some x ∧ P x

section
variable {s t : State} {c slot : Nat} {P : Task → Prop}

theorem State.SlotIs.of_cores (h : s.SlotIs c slot P) (same : t.cores = s.cores) : t.SlotIs c slot P := by
  rw [State.SlotIs, State.core, same]
  exact h

theorem State.SlotIs.setCore (h : s.SlotIs c slot P) {x : Core} (slots : x.slots = (s.core c).slots) : (s.setCore c x).SlotIs c slot P := by
  rw [State.SlotIs, State.setCore_core, if_pos rfl, slots]
  exact h

theorem State.setTask_slotIs {task : Task} (h : P task) : (s.setTask c slot task).SlotIs c slot P := by
  refine ⟨task, ?_, h⟩
  simp [State.setTask]

end

/-- A task stands in its passes, as the task `t` that entered them. -/
def Task.Entered (t x : Task) : Prop :=
  x.st = .passes ∧ x.begun = true ∧ x.ended = false ∧ x.stage = t.stage ∧ x.r = t.r ∧ x.c = t.c ∧ x.k = t.k

section
variable {s : State} {c slot : Nat} {t : Task} (h : s.SlotIs c slot t.Entered)
include h

theorem State.SlotIs.decideKeep (st : Stage) : (s.decideKeep c slot st).SlotIs c slot t.Entered := by
  obtain ⟨x, found, entered⟩ := h
  simp only [State.decideKeep, found]
  split
  · exact ⟨x, found, entered⟩
  · refine State.SlotIs.of_cores (State.setTask_slotIs (P := t.Entered) ?_) (State.kvCount_cores _ _ _ _)
    exact entered

theorem State.SlotIs.seed (st : Stage) (task : Task) : (s.seed c slot st task).SlotIs c slot t.Entered :=
  State.SlotIs.of_cores (s := s.setCore c { s.core c with staging := some (slot, seedContext (dSeed st.desc) task.r task.c task.k) })
    (h.setCore rfl) rfl

theorem State.SlotIs.preload (st : Stage) (x : Task) (p : PassSpec) (entered : t.Entered x) :
    (s.preload c slot st x p).SlotIs c slot t.Entered := by
  unfold State.preload
  split
  · exact h
  · exact State.setTask_slotIs (task := { x with acc := _ }) entered

theorem State.SlotIs.startPass (st : Stage) (x : Task) (entered : t.Entered x) : (s.startPass c slot st x).SlotIs c slot t.Entered := by
  unfold State.startPass
  split
  next =>
    refine h.setCore ?_
    unfold Core.endPass
    split <;> rfl
  next p _ =>
    have begun : (s.setCore c ((s.core c).beginPass st x p)).SlotIs c slot t.Entered := h.setCore rfl
    exact begun.preload st x p entered

theorem State.SlotIs.firstPass (st : Stage) : (s.firstPass c slot st).SlotIs c slot t.Entered := by
  obtain ⟨x, found, entered⟩ := h
  simp only [State.firstPass, found]
  split
  · exact ⟨x, found, entered⟩
  · exact (State.SlotIs.startPass ⟨x, found, entered⟩ st x entered).of_cores (State.knock_cores _ _)

end

theorem State.enterPasses_slot (s : State) (c slot : Nat) (st : Stage) (old task : Task) :
    (s.enterPasses c slot st old task).SlotIs c slot task.Entered := by
  unfold State.enterPasses
  extract_lets n
  split
  extract_lets restoring t s1 s2 s3 s4 s5
  have put : s1.SlotIs c slot task.Entered := State.setTask_slotIs ⟨rfl, rfl, rfl, rfl, rfl, rfl, rfl⟩
  have kept : s2.SlotIs c slot task.Entered := by
    unfold s2
    split
    · exact put
    · exact put.decideKeep st
  have seeded : s3.SlotIs c slot task.Entered := by
    unfold s3
    split
    · exact kept.seed st t
    · exact kept
  have emptied : s4.SlotIs c slot task.Entered := by
    refine seeded.setCore ?_
    split <;> rfl
  have first : s5.SlotIs c slot task.Entered := by
    unfold s5
    split
    · exact emptied
    · exact emptied.firstPass st
  split
  · exact first
  · exact first.of_cores (State.markFirst_cores _ _)

/-! ### The commands -/

section
variable {s : State} {c slot : Nat} {task : Task} {st : Stage}

theorem exec_taskStart_of_next (can : s.canStart c = true) (next : s.nextTask c = some (slot, task))
    (found : s.stage task.stage = some st) (pipe : s.drainHoldsBack c st = false) :
    exec (.taskStart c) s = .next ((if task.begun ∨ task.st = .suspended then
        s.enterPasses c slot st task { task with pass := if task.st = .suspended then task.pass else 0 }
      else match s.beginChain task.stage st task with
        | (none, s) => s.tileDone c slot task.stage
        | (some t', s) => s.enterPasses c slot ((s.stage task.stage).getD st) task t').settle s) := by
  change execTaskStart c s = _
  simp only [execTaskStart, can, next, found, pipe, Bool.not_true, Bool.false_eq_true, if_false, answer] <;> rfl

theorem exec_taskStart_of_waits (h : s.canStart c = false ∨ s.nextTask c = none
      ∨ (∃ slot task st, s.nextTask c = some (slot, task) ∧ s.stage task.stage = some st ∧ s.drainHoldsBack c st = true)) :
    exec (.taskStart c) s = .next (s.settle s) := by
  change execTaskStart c s = _
  rcases h with off | idle | ⟨slot, task, st, next, found, pipe⟩
  · simp only [execTaskStart, off, Bool.not_false, if_true, answer]
  · simp only [execTaskStart, idle, ite_self, answer]
  · simp only [execTaskStart, next, found, pipe, if_true, ite_self, answer]

theorem exec_arrayPassComplete_of_pass {p : PassSpec} (work : s.atWork c = some (slot, task, st)) (array : st.alone = false)
    (power : (s.domain (2 * c)).powered = true) (rows : (s.core c).rowsHeld = false) (pass : (passesOf st task)[task.pass]? = some p) :
    exec (.arrayPassComplete c) s = .next (((
      (if st.opcode = 0x02 ∨ st.opcode = 0x0A then (task.acc, s) else s.passWork c task.stage st task p).2.setTask c slot { task with
        acc := (if st.opcode = 0x02 ∨ st.opcode = 0x0A then (task.acc, s) else s.passWork c task.stage st task p).1
        pass := task.pass + 1 }).startPass c slot st { task with
        acc := (if st.opcode = 0x02 ∨ st.opcode = 0x0A then (task.acc, s) else s.passWork c task.stage st task p).1
        pass := task.pass + 1 }).settle s) := by
  change execArrayPassComplete c s = _
  simp only [execArrayPassComplete, work, array, power, rows, pass, Bool.not_true, Bool.false_eq_true, or_self, if_false, answer]

theorem exec_arrayPassComplete_of_waits
    (h : s.atWork c = none ∨ (s.core c).rowsHeld = true ∨ (s.domain (2 * c)).powered = false) :
    exec (.arrayPassComplete c) s = .next (s.settle s) := by
  change execArrayPassComplete c s = _
  rcases h with idle | rows | off
  · simp only [execArrayPassComplete, idle, answer]
  · simp only [execArrayPassComplete, rows, or_true, if_true, answer]
    split <;> rfl
  · simp only [execArrayPassComplete, off, Bool.not_false, or_true, true_or, if_true, answer]
    split <;> rfl

/-- A row of the harrow that may end: of a task in rows, which has its context where it draws. -/
theorem exec_harrowRowEnd_of_row (work : s.atWork c = some (slot, task, st)) (alone : st.alone = true)
    (row : task.pass < (tileRows st.desc task.r).2)
    (lanes : (st.opcode = 0x04 ∨ st.opcode = 0x08) → st.draws task.k task.len = true → (s.core c).ownsLanes slot = true) :
    exec (.harrowRowEnd c) s = .next ((if st.byRow = false then s.setTask c slot { task with pass := task.pass + 1 }
      else
        let (acc, t) := s.rowWork c slot task.stage st task task.pass
        if st.ending then t.dropEnding c slot task.stage
        else if task.pass + 1 < (tileRows st.desc task.r).2 then t.preemptAt c slot st { task with acc := acc, pass := task.pass + 1 }
        else t.setTask c slot { task with acc := acc, pass := task.pass + 1 }).settle s) := by
  change execHarrowRowEnd c s = _
  have ends : ¬ ((!st.alone) = true ∨ (tileRows st.desc task.r).2 ≤ task.pass
      ∨ ((st.opcode == 0x04 || st.opcode == 0x08) && st.draws task.k task.len) = true ∧ (!(s.core c).ownsLanes slot) = true) := by
    rintro (array | last | ⟨draws, free⟩)
    · simp [alone] at array
    · omega
    · simp only [Bool.and_eq_true, Bool.or_eq_true, beq_iff_eq] at draws
      simp [lanes draws.1 draws.2] at free
  simp only [execHarrowRowEnd, work, answer]
  rw [if_neg ends]
  simp only [Bool.not_eq_true']

theorem exec_taskPassesEnd_of_whole (work : s.atWork c = some (slot, task, st)) (passed : s.passesOver c slot st task = true) :
    exec (.taskPassesEnd c) s = .next ((
      let (t, u) := s.wholeWork c slot task.stage st task
      let v := u.setCore c (u.core c).restArrays
      if st.ending then v.dropEnding c slot task.stage
      else if t.k + 1 < t.len then
        (v.setCore c ((v.core c).freeLanes slot)).preemptAt c slot st { t with k := t.k + 1, pass := 0, st := .waiting }
      else v.setTask c slot { t with ended := true }).settle s) := by
  change execTaskPassesEnd c s = _
  simp only [execTaskPassesEnd, work, passed, Bool.not_true, Bool.false_eq_true, if_false, answer]

end

/-- Settles O34: each command's branch, and the task that stands in its slot whatever spills, contexts and passes begin with it. -/
theorem tasksRun : Obligations.TasksRun := by
  unfold Obligations.TasksRun
  refine ⟨fun s s' c slot task st can next found pipe => ⟨fun begun => ?_, fun task' fresh here begin => ?_, fun fresh here begin => ?_⟩,
    fun s c slot st old task => s.enterPasses_slot c slot st old task, fun s c waits => exec_taskStart_of_waits waits,
    fun s c slot task st p work array power rows pass => ⟨fun acc s' task' attend retrieve done result => ?_,
      fun task' whole result => ?_⟩, fun s c waits => exec_arrayPassComplete_of_waits waits,
    fun s c slot rows task st work alone count row lanes => ⟨fun whole => ?_, fun acc s' task' byRow done result => ?_⟩,
    fun s s' v c slot task task' st work passed whole rest => ?_, fun s c a clock => ?_, fun s c x staging lanes => ?_⟩
  · rw [exec_taskStart_of_next can next found pipe, if_pos begun]
  · rw [exec_taskStart_of_next can next found pipe, if_neg (by simp [fresh, here]), begin]
  · rw [exec_taskStart_of_next can next found pipe, if_neg (by simp [fresh, here]), begin]
  · rw [exec_arrayPassComplete_of_pass work array power rows pass, if_neg (by simp [attend, retrieve]), done, result]
  · rw [exec_arrayPassComplete_of_pass work array power rows pass, if_pos whole, result]
  · subst count
    rw [exec_harrowRowEnd_of_row work alone row lanes, if_pos whole]
  · subst count
    have run := exec_harrowRowEnd_of_row work alone row lanes
    rw [if_neg (by simp [byRow]), done] at run
    subst result
    dsimp only at run
    refine ⟨fun ending => ?_, fun live more => ?_, fun live last => ?_⟩
    · rw [run, if_pos ending]
    · rw [run, if_neg (by simp [live]), if_pos more]
    · rw [run, if_neg (by simp [live]), if_neg (by omega)]
  · have run := exec_taskPassesEnd_of_whole work passed
    rw [whole] at run
    dsimp only at run
    rw [← rest] at run
    refine ⟨fun ending => ?_, fun live more => ?_, fun live last => ?_⟩
    · rw [run, if_pos ending]
    · rw [run, if_neg (by simp [live]), if_pos more]
    · rw [run, if_neg (by simp [live]), if_neg (by omega)]
  · change answer s (if _ then _ else _) = _
    rw [if_pos clock]
    rfl
  · change execLaneContextTakeover c s = _
    simp only [execLaneContextTakeover, staging, lanes, answer]

end Sys2Proof.Machine
end

section
/-! Spills, restores, drains and pre-emption (spec/03 R74; spec/04 R105; spec/06 R157-R162). -/
namespace Sys2Proof.Machine

/-! ### A slot that is left, a slot that is suspended -/

theorem Core.leaveLanes_slots (x : Core) : x.leaveLanes.slots = x.slots := by
  unfold Core.leaveLanes
  split <;> rfl

theorem Core.freeFrame_slots (x : Core) (j : Option Nat) : (x.freeFrame j).slots = x.slots := by
  unfold Core.freeFrame
  split <;> rfl

theorem Core.dropTask_free (x : Core) (slot : Nat) : (x.dropTask slot).slots.find slot = none := by
  unfold Core.dropTask
  split
  next free => exact free
  next t found =>
    exact (Map.find_del _ _ _).trans (if_pos rfl)

theorem State.tileDone_free (s : State) (c slot n : Nat) : ((s.tileDone c slot n).core c).slots.find slot = none := by
  have free : ((s.setCore c ((s.core c).dropTask slot)).core c).slots.find slot = none := by
    rw [State.setCore_core, if_pos rfl]
    exact Core.dropTask_free _ _
  unfold State.tileDone
  dsimp only
  split
  · exact free
  · exact free

theorem State.writeRaw_cores (s : State) (a : Nat) (bs : List Byte) : (s.writeRaw a bs).cores = s.cores := by
  unfold State.writeRaw
  refine List.foldlRecOn (motive := fun t : State => t.cores = s.cores) _ _ rfl fun t same p _ => ?_
  split
  · exact same
  · split
    · exact same
    · exact ((State.Accessed.refl t).touchWrite _ _ _ _ _).cores.trans same

theorem State.writeHeader_cores (s : State) (c j : Nat) (t : Task) : (s.writeHeader c j t).cores = s.cores := by
  unfold State.writeHeader
  split
  · exact State.writeRaw_cores _ _ _
  · rfl

theorem State.suspend_slot {s : State} {c slot j : Nat} {t : Task} (live : (s.stage t.stage).isSome) :
    (s.suspend c slot j t).SlotIs c slot (fun x => x.st = .suspended ∧ x.frame = some j ∧ x.stage = t.stage) := by
  obtain ⟨st, found⟩ := Option.isSome_iff_exists.mp live
  unfold State.suspend
  rw [found]
  dsimp only
  refine State.SlotIs.of_cores (State.SlotIs.of_cores (State.SlotIs.of_cores (t := State.writeHeader _ c j _) ?_
    (State.writeHeader_cores _ _ _ _)) (State.writeRaw_cores _ _ _)) rfl
  refine ⟨_, (congrArg (fun x => x.slots.find slot) (s.setCore_core c c _)).trans (by rw [if_pos rfl, Map.find_put, if_pos rfl]), ?_⟩
  exact ⟨rfl, rfl, rfl⟩

/-! ### The pre-emption point -/

section
variable {s : State} {c slot : Nat} {task h : Task} {st : Stage}

theorem State.preemptor_higher {cls : Nat} (found : s.preemptor c cls = some h) : h.st = .waiting ∧ cls < s.taskClass h := by
  unfold State.preemptor at found
  have member := foldl_pick_mem (g := Prod.snd) (fun best p => ?_) _ none found
  · obtain ⟨p, slot, rfl⟩ := member.resolve_right (by simp)
    simpa using (List.mem_filter.mp slot).2
  · cases best with
    | none => exact .inl rfl
    | some b => exact ite_either _ _

theorem State.preemptAt_of_none (none : s.preemptor c st.cls = none) : s.preemptAt c slot st task = s.setTask c slot task := by
  simp only [State.preemptAt, none]

theorem State.preemptAt_of_refused (refused : task.refused = true) : s.preemptAt c slot st task = s.setTask c slot task := by
  unfold State.preemptAt
  split
  · rfl
  · simp only [refused, if_true]

theorem State.preemptAt_of_full (higher : s.preemptor c st.cls = some h) (fresh : task.refused = false)
    (full : (s.core c).freeFrameNo = none) :
    s.preemptAt c slot st task = (s.setTask c slot { task with refused := true }).tick1 dspPreemptRefused := by
  simp only [State.preemptAt, higher, fresh, full, Bool.false_eq_true, if_false]

theorem State.preemptAt_of_frame {j : Nat} (higher : s.preemptor c st.cls = some h) (fresh : task.refused = false)
    (free : (s.core c).freeFrameNo = some j) :
    s.preemptAt c slot st task = (s.suspend c slot j task).markPreempted h.stage := by
  simp only [State.preemptAt, higher, fresh, free, Bool.false_eq_true, if_false]

end

/-! ### The commands -/

section
variable {s : State} {c slot : Nat} {task : Task} {st : Stage}

theorem exec_spillComplete_of_wait (running : (s.core c).running = some (slot, task)) (found : s.stage task.stage = some st)
    (wait : task.spillWait = true) :
    exec (.spillComplete c) s = .next ((
      let needs := taskNeeds st { task with st := if task.restoring then .suspended else .waiting }
      let u := (s.makeSpace c st.cls needs.1 needs.2).setTask c slot { task with spillWait := false }
      (if task.restoring then u else u.decideKeep c slot st).markFirst task.stage).settle s) := by
  change execSpillComplete c s = _
  simp only [execSpillComplete, running, found, wait, Bool.not_true, Bool.false_eq_true, if_false, answer]

theorem exec_restoreComplete_of_frame {j : Nat} (ok : Bool) (running : (s.core c).running = some (slot, task))
    (restoring : task.restoring = true) (spilled : task.spillWait = false) (frame : task.frame = some j) :
    exec (.restoreComplete c ok) s = .next ((
      let h := (s.frameRead task.stage (s.frameAddr c j) 4096).2
      if s.poisonIn (s.frameAddr c j) 4096 = true then h.abandon c slot task.stage 8
      else if ok = false then h.abandon c slot task.stage 1
      else if task.savedLanes.isSome ∧ (s.core c).lanes.isSome then s
      else match h.stage task.stage with
        | none => s
        | some st => (h.restoreTask c slot j task).firstPass c slot st).settle s) := by
  change execRestoreComplete c ok s = _
  simp only [execRestoreComplete, running, restoring, spilled, frame, Bool.not_true, Bool.false_eq_true, or_self, if_false,
    Bool.not_eq_true', answer] <;> rfl

theorem exec_taskDrainStart_of_ended (running : (s.core c).running = some (slot, task)) (free : (s.core c).draining = none)
    (found : s.stage task.stage = some st) (ended : task.ended = true) :
    exec (.taskDrainStart c) s = .next ((
      let u := (s.homeTile c task.stage st task).setTask c slot { task with st := .draining }
      let v := u.setCore c ((u.core c).emptyPipe false)
      if st.alone = false ∧ st.draws task.k task.len = true then v.seed c slot st task else v).settle s) := by
  change execTaskDrainStart c s = _
  simp only [execTaskDrainStart, running, free, found, ended, Bool.not_true, Bool.false_eq_true, if_false, Bool.and_eq_true,
    Bool.not_eq_true', answer]

theorem exec_taskDrainEnd_of_draining (draining : (s.core c).draining = some (slot, task)) (found : s.stage task.stage = some st) :
    exec (.taskDrainEnd c) s = .next ((
      if st.draws task.k task.len = true ∧ st.opcode ∉ [0x04, 0x07, 0x08] ∧ (s.core c).ownsLanes slot = false then s
      else ((s.drainWork c slot task.stage st task).tick1 (coreReg c coreTasksDone)).tileDone c slot task.stage).settle s) := by
  change execTaskDrainEnd c s = _
  simp only [execTaskDrainEnd, draining, found, Bool.and_eq_true, Bool.not_eq_true', ← Bool.not_eq_true, List.contains_iff_mem,
    and_assoc, answer]

end

/-- Settles O35: each command's branch; a task given up, delivered or suspended through what that leaves of its slot. -/
theorem spillsAndPreemption : Obligations.SpillsAndPreemption := by
  unfold Obligations.SpillsAndPreemption
  refine ⟨fun s u c slot acc ret task st running found wait needs result => ?_,
    fun s h c slot j task running restoring spilled frame read => ?_, fun s c slot n status => State.tileDone_free _ _ _ _,
    fun s u c slot task st running free found ended result => ?_, fun s u c slot task st draining found result => ?_,
    fun s c slot st task => ⟨State.preemptAt_of_none, fun h => State.preemptor_higher, State.preemptAt_of_refused,
      fun h => State.preemptAt_of_full, fun h j higher fresh free live => ⟨State.preemptAt_of_frame higher fresh free,
        State.suspend_slot live⟩⟩⟩
  · rw [exec_spillComplete_of_wait running found wait, needs, result]
  · have run := fun ok => exec_restoreComplete_of_frame ok running restoring spilled frame
    rw [← read] at run
    refine ⟨fun bad ok => ?_, fun good => ?_, fun good saved taken => ?_, fun st good lanes live => ?_⟩
    · rw [run, if_pos bad]
    · rw [run, if_neg (by simp [good]), if_pos rfl]
    · rw [run, if_neg (by simp [good]), if_neg (by simp), if_pos ⟨saved, taken⟩]
    · have free : ¬ (task.savedLanes.isSome ∧ (s.core c).lanes.isSome) := by
        rcases lanes with e | e <;> simp [e]
      rw [run, if_neg (by simp [good]), if_neg (by simp), if_neg free, live]
  · rw [exec_taskDrainStart_of_ended running free found ended, ← result]
  · have run := exec_taskDrainEnd_of_draining draining found
    rw [← result] at run
    refine ⟨fun done => ?_, fun draws other free => ?_, ?_⟩
    · rw [run, if_neg]
      rintro ⟨draws, other, free⟩
      rcases done with e | e | e
      · simp [e] at draws
      · exact other e
      · simp [e] at free
    · rw [run, if_pos ⟨draws, other, free⟩]
    · rw [result]
      exact State.tileDone_free _ _ _ _

end Sys2Proof.Machine
end

section
/-! Stages that order others (spec/04 R116-R118; spec/05 R140; spec/06 R165; spec/11 R318). -/
namespace Sys2Proof.Machine

/-! ### Ends while no sequence table is worked through -/

/-- What ends leave while no stage works through a sequence table: no byte changes, nothing waits for a line, and what is decided stays. -/
structure State.Decided (s t : State) : Prop where
  runs : t.kv.runs = s.kv.runs
  barriers : t.dsp.barriers = s.dsp.barriers
  lnk : t.lnk = s.lnk
  stalled : t.mem.stalled = s.mem.stalled
  cells : t.mem.cells = s.mem.cells
  stage : ∀ m st, s.stage m = some st → ∃ x, t.stage m = some x ∧ (st.done = true → x = st)

theorem State.Decided.refl (s : State) : s.Decided s := ⟨rfl, rfl, rfl, rfl, rfl, fun _ st found => ⟨st, found, fun _ => rfl⟩⟩

theorem State.Decided.trans {s t u : State} (h : s.Decided t) (k : t.Decided u) : s.Decided u := by
  refine ⟨k.runs.trans h.runs, k.barriers.trans h.barriers, k.lnk.trans h.lnk, k.stalled.trans h.stalled, k.cells.trans h.cells,
    fun m st found => ?_⟩
  obtain ⟨x, there, same⟩ := h.stage m st found
  obtain ⟨y, here, same'⟩ := k.stage m x there
  refine ⟨y, here, fun done => ?_⟩
  have e := same done
  rw [← e]
  exact same' (e ▸ done)

theorem State.setRing_decided (s : State) (r : Nat) (x : Ring) : s.Decided (s.setRing r x) :=
  ⟨rfl, rfl, rfl, rfl, rfl, fun _ st found => ⟨st, found, fun _ => rfl⟩⟩

theorem State.atEnd_runs_barriers {s : State} {n : Nat} (st : Stage) (status : Nat) (noRun : s.kv.runs.find n = none) :
    (s.atEnd n st status).kv.runs = s.kv.runs ∧ (s.atEnd n st status).dsp.barriers = s.dsp.barriers := by
  have thawed : (s.thawAfter n st).kv.runs = s.kv.runs ∧ (s.thawAfter n st).dsp.barriers = s.dsp.barriers := by
    unfold State.thawAfter
    split <;> exact ⟨rfl, rfl⟩
  have discarded : ∀ t : State, (t.discardMarked n).kv.runs = t.kv.runs ∧ (t.discardMarked n).dsp.barriers = t.dsp.barriers := fun t => by
    unfold State.discardMarked
    dsimp only
    split <;> exact ⟨rfl, rfl⟩
  have settled : ∀ t : State, (t.settleSets n st status).kv.runs = t.kv.runs ∧ (t.settleSets n st status).dsp.barriers = t.dsp.barriers :=
    fun t => by
    unfold State.settleSets
    dsimp only
    repeat' split
    all_goals exact ⟨rfl, rfl⟩
  have ends : s.atEnd n st status = ((((s.thawAfter n st).leaveReleases n).discardMarked n).endShares n).settleSets n st status := by
    rw [State.atEnd, State.settleTable_of_no_run st noRun]
  rw [ends]
  constructor
  · rw [(settled _).1]
    change (State.discardMarked _ n).kv.runs = _
    rw [(discarded _).1]
    exact thawed.1
  · rw [(settled _).2]
    change (State.discardMarked _ n).dsp.barriers = _
    rw [(discarded _).2]
    exact thawed.2

theorem State.finish_decided {s : State} {n : Nat} (status : Nat) (noRun : s.kv.runs.find n = none) : s.Decided (s.finish n status) := by
  obtain ⟨stalled, cells⟩ := State.finish_mem status noRun
  have lnk : (s.finish n status).lnk = s.lnk := by rw [(s.finish_ends n status).state]
  cases found : s.stage n with
  | none => rw [State.finish, found]; exact .refl s
  | some st =>
    cases done : st.done with
    | true => rw [State.finish_of_done status found done]; exact .refl s
    | false =>
      have ended : ∀ m x, s.stage m = some x → ∃ y, (s.finish n status).stage m = some y ∧ (x.done = true → y = x) := fun m x there => by
        by_cases same : n = m
        · subst same
          refine ⟨_, State.finish_stage status found done noRun, fun closed => ?_⟩
          rw [Option.some.inj (found.symm.trans there), closed] at done
          cases done
        · refine ⟨x, ?_, fun _ => rfl⟩
          have kept : (s.atEnd n st status).stage m = some x := by
            rw [State.stage, (State.atEnd_endKeeps st status noRun).stages]
            exact there
          rw [State.finish_of_running status found done noRun]
          dsimp only
          split <;> simp [same, kept]
      obtain ⟨runs, barriers⟩ := State.atEnd_runs_barriers st status noRun
      refine ⟨?_, ?_, lnk, stalled, cells, ended⟩
      · rw [State.finish_of_running status found done noRun]
        dsimp only
        split <;> exact runs
      · rw [State.finish_of_running status found done noRun]
        dsimp only
        split <;> exact barriers

theorem State.fencePassed_decided (s : State) (r : Nat) (seq : Word32) : s.Decided (s.fencePassed r seq) := State.setRing_decided s _ _

theorem State.Decided.done {s t : State} (h : s.Decided t) {m : Nat} (done : (s.stage m).map Stage.done = some true) :
    (t.stage m).map Stage.done = some true := by
  obtain ⟨st, found, closed⟩ := Option.map_eq_some_iff.mp done
  obtain ⟨x, here, same⟩ := h.stage m st found
  rw [here, same closed]
  exact congrArg some closed

/-- Decisions one after another, while no table is worked through. -/
theorem State.Decided.foldl {α : Type} {f : State → α → State} (each : ∀ (t : State) a, t.kv.runs = [] → t.Decided (f t a)) :
    ∀ (l : List α) (s : State), s.kv.runs = [] → s.Decided (l.foldl f s)
  | [], s, _ => .refl s
  | a :: l, s, idle => (each s a idle).trans (State.Decided.foldl each l (f s a) ((each s a idle).runs.trans idle))

/-! ### FENCE -/

section
variable {s : State} {n : Nat} {st : Stage}

/-- A failure that a fence sees: of a stage of its ring since the fence before, or of a window that a SYSTEM fence waits for. -/
def State.fenceFails (s : State) (st : Stage) : Prop :=
  (∃ q ∈ (s.ring st.ring).failed, (s.ring st.ring).sinceFence q = true ∧ seqBefore q st.seq = true)
  ∨ (op1 st.desc 0xE0 = 1 ∧ ∃ w ∈ s.lnk.outWins, w.before st.ring st.seq = true ∧ (s.ring st.ring).sinceFence w.seq = true ∧ w.status ≠ some 0)

/-- A SYSTEM fence takes the records of the windows it waited for, with their flags. -/
def State.takeWindows (s : State) (n : Nat) (st : Stage) : State :=
  ({ s with lnk := { s.lnk with outWins := s.lnk.outWins.filter (fun w => !w.before st.ring st.seq) } } : State).raise n
    ((s.lnk.outWins.filter (fun w => w.before st.ring st.seq)).foldl (fun (f : Flags) (w : OutWin) => f ||| w.flags) 0)

/-- The state in which a fence that waits for nothing more is decided. -/
def State.fenceTaken (s : State) (n : Nat) (st : Stage) : State := if op1 st.desc 0xE0 = 1 then s.takeWindows n st else s

open Classical in
theorem exec_fenceComplete_of_ready (found : s.stage n = some st) (fence : st.isFence = true) (ready : s.fenceReady st = true)
    (windows : op1 st.desc 0xE0 = 1 → ∀ w ∈ s.lnk.outWins, w.before st.ring st.seq = true → w.status.isSome) :
    exec (.fenceComplete n) s = .next ((
      if s.fenceFails st ∧ op1 st.desc 0xE1 = 1 then
        (((s.fenceTaken n st).finish n 0x0C).fencePassed st.ring st.seq).abortUpTo st.ring st.seq
      else ((s.fenceTaken n st).finish n 0).fencePassed st.ring st.seq).settle s) := by
  have passes : ¬ ((!st.isFence) = true ∨ (!s.fenceReady st) = true
      ∨ (op1 st.desc 0xE0 = 1 ∧ (s.lnk.outWins.filter (fun w => w.before st.ring st.seq)).any (fun w => w.status.isNone) = true)) := by
    rintro (other | held | ⟨system, waits⟩)
    · simp [fence] at other
    · simp [ready] at held
    · obtain ⟨w, member, waits⟩ := List.any_eq_true.mp waits
      obtain ⟨there, before⟩ := List.mem_filter.mp member
      have ended := windows system w there before
      rw [Option.isNone_iff_eq_none.mp waits] at ended
      cases ended
  have fails : ((s.ring st.ring).failed.any (fun q => (s.ring st.ring).sinceFence q && seqBefore q st.seq)
      || (decide (op1 st.desc 0xE0 = 1)
        && (s.lnk.outWins.filter (fun w => w.before st.ring st.seq)).any (fun w => (s.ring st.ring).sinceFence w.seq && w.status != some 0)))
        = true ↔ s.fenceFails st := by
    simp only [Bool.or_eq_true, List.any_eq_true, Bool.and_eq_true, decide_eq_true_eq, List.mem_filter, bne_iff_ne, and_assoc,
      State.fenceFails]
  change execFenceComplete n s = _
  simp only [execFenceComplete, found, answer]
  rw [if_neg passes]
  simp only [fails, State.fenceTaken, State.takeWindows]

theorem exec_fenceComplete_of_held (found : s.stage n = some st) (held : s.fenceReady st = false) :
    exec (.fenceComplete n) s = .next (s.settle s) := by
  change execFenceComplete n s = _
  simp only [execFenceComplete, found, held, Bool.not_false, true_or, or_true, if_true, answer]

theorem exec_fenceComplete_of_window {w : OutWin} (found : s.stage n = some st) (system : op1 st.desc 0xE0 = 1)
    (member : w ∈ s.lnk.outWins) (before : w.before st.ring st.seq = true) (waits : w.status = none) :
    exec (.fenceComplete n) s = .next (s.settle s) := by
  have open' : (s.lnk.outWins.filter (fun w => w.before st.ring st.seq)).any (fun w => w.status.isNone) = true :=
    List.any_eq_true.mpr ⟨w, List.mem_filter.mpr ⟨member, before⟩, by rw [waits]; rfl⟩
  change execFenceComplete n s = _
  simp only [execFenceComplete, found, answer, open', system, true_and, or_true, if_true]

theorem State.fenceReady_open (ready : s.fenceReady st = true) : st.done = false := by
  simp only [State.fenceReady, Bool.and_eq_true, Bool.or_eq_true, beq_iff_eq] at ready
  obtain ⟨⟨e | e, _⟩, _⟩ := ready <;> simp [Stage.done, e]

theorem State.abortUpTo_decided (idle : s.kv.runs = []) (r : Nat) (seq : Word32) : s.Decided (s.abortUpTo r seq) := by
  have aborted := fun l : List (Nat × Stage) => State.Decided.foldl (f := fun (t : State) (p : Nat × Stage) => t.finish p.1 0x0C)
    (fun t p none => State.finish_decided _ (by rw [none]; rfl)) l s idle
  unfold State.abortUpTo
  extract_lets later isNext hit t
  split
  · exact (aborted hit).trans (State.setRing_decided _ _ _)
  · exact aborted hit

theorem State.abortUpTo_lastFence (s : State) (r : Nat) (seq : Word32) (k : Nat) :
    ((s.abortUpTo r seq).ring k).lastFence = (s.ring k).lastFence := by
  have aborted : ∀ l : List (Nat × Stage), s.SameRings (l.foldl (fun (t : State) (p : Nat × Stage) => t.finish p.1 0x0C) s) := fun l =>
    List.foldlRecOn _ _ (.refl s) fun t same p _ => same.trans (State.finish_sameRings t _ _)
  have same : ∀ l : List (Nat × Stage), ((l.foldl (fun (t : State) (p : Nat × Stage) => t.finish p.1 0x0C) s).ring k).lastFence = (s.ring k).lastFence :=
    fun l => by
      obtain ⟨failed, e⟩ := aborted l k
      rw [e]
  unfold State.abortUpTo
  extract_lets later isNext hit t
  split
  · rw [State.setRing_ring]
    split
    next e => subst e; exact same hit
    · exact same hit
  · exact same hit

end

/-! ### BARRIER, SPILL_HINT and the arrival time-out -/

section
variable {s : State} {n : Nat} {st : Stage}

/-- The device with the barrier generations `m`. -/
def State.withBarriers (s : State) (m : Map (Bool × Nat) BarrierGen) : State := { s with dsp := { s.dsp with barriers := m } }

/-- An arrival at a barrier whose generation has its COUNT. -/
def State.arriveBarrier (s : State) (n : Nat) (st : Stage) (arrived : List Nat) : State :=
  if op2 st.desc 0xE2 ≤ arrived.length then
    ((s.setStage n { st with phase := .running }).withBarriers (s.dsp.barriers.del (st.secure, op2 st.desc 0xE0))).releaseBarriers arrived
  else (s.setStage n { st with phase := .running }).withBarriers
    (s.dsp.barriers.put (st.secure, op2 st.desc 0xE0) ⟨op2 st.desc 0xE2, arrived⟩)

theorem exec_barrierArrive_of_held (found : s.stage n = some st) (held : s.fenceReady st = false) :
    exec (.barrierArrive n) s = .next (s.settle s) := by
  change execBarrierArrive n s = _
  simp only [execBarrierArrive, found, held, Bool.not_false, true_or, or_true, if_true, answer]

theorem exec_barrierArrive_of_ready {g : BarrierGen} (found : s.stage n = some st) (barrier : st.isBarrier = true)
    (ready : s.fenceReady st = true) (gen : g = s.dsp.barriers.get ⟨op2 st.desc 0xE2, []⟩ (st.secure, op2 st.desc 0xE0))
    (new : n ∉ g.arrived) :
    exec (.barrierArrive n) s = .next ((if g.count ≠ op2 st.desc 0xE2 then (s.finish n 2).fencePassed st.ring st.seq
      else s.arriveBarrier n st (g.arrived ++ [n])).settle s) := by
  subst gen
  have passes : ¬ ((!st.isBarrier) = true ∨ (!s.fenceReady st) = true
      ∨ (s.dsp.barriers.get ⟨op2 st.desc 0xE2, []⟩ (st.secure, op2 st.desc 0xE0)).arrived.contains n = true) := by
    simp [barrier, ready, new]
  change execBarrierArrive n s = _
  simp only [execBarrierArrive, found, answer]
  rw [if_neg passes]
  rfl

theorem State.releaseBarriers_decided (idle : s.kv.runs = []) (slots : List Nat) : s.Decided (s.releaseBarriers slots) :=
  State.Decided.foldl (fun t m none => by
    split
    · exact .refl t
    · exact (State.finish_decided 0 (by rw [none]; rfl)).trans (State.fencePassed_decided _ _ _)) slots s idle

theorem State.releaseBarriers_done : ∀ (slots : List Nat) (s : State), s.kv.runs = [] → (∀ m ∈ slots, (s.stage m).isSome) →
    ∀ m ∈ slots, ((s.releaseBarriers slots).stage m).map Stage.done = some true
  | [], _, _, _, _, member => by cases member
  | k :: slots, s, idle, live, m, member => by
    obtain ⟨st, found⟩ := Option.isSome_iff_exists.mp (live k List.mem_cons_self)
    have step : s.releaseBarriers (k :: slots) = ((s.finish k 0).fencePassed st.ring st.seq).releaseBarriers slots := by
      simp only [State.releaseBarriers, List.foldl_cons, found]
    have decided : s.Decided ((s.finish k 0).fencePassed st.ring st.seq) :=
      (State.finish_decided 0 (by rw [idle]; rfl)).trans (State.fencePassed_decided _ _ _)
    have idle' := decided.runs.trans idle
    rw [step]
    rcases List.mem_cons.mp member with rfl | later
    · have closed : (((s.finish m 0).fencePassed st.ring st.seq).stage m).map Stage.done = some true := by
        cases done : st.done with
        | true => rw [State.finish_of_done 0 found done]; exact (congrArg _ found).trans (congrArg some done)
        | false => exact congrArg (Option.map Stage.done) (State.finish_stage 0 found done (by rw [idle]; rfl))
      exact (State.releaseBarriers_decided idle' slots).done closed
    · refine State.releaseBarriers_done slots _ idle' (fun j there => ?_) m later
      obtain ⟨x, here⟩ := Option.isSome_iff_exists.mp (live j (List.mem_cons_of_mem _ there))
      obtain ⟨y, kept, _⟩ := decided.stage j x here
      rw [kept]
      rfl

theorem exec_spillHintRun_of_running (found : s.stage n = some st) (hint : st.opcode = 0x15) (running : st.phase = .running) :
    exec (.spillHintRun n) s = .next (((((List.range 96).filter (s.maskHas (field st.desc 0xE4 12))).foldl (fun s c =>
      (s.hintTiles st.secure c (op1 st.desc 0xE0)).foldl (fun s u => match u with
        | .tile key i => s.spillTile c key i
        | .scores _ => s) s) s).finishWorst n 0).settle s) := by
  change execSpillHintRun n s = _
  simp only [execSpillHintRun, found, hint, running, ne_eq, not_true, or_self, if_false, answer] <;> rfl

theorem exec_arrivalTimeout_of_waiting (found : s.stage n = some st) (running : st.phase = .running) (arrival : st.arrival.isSome)
    (timed : cArrTimeout st.chain ≠ 0) (issues : st.noIssue = false) (left : st.issued.length < (gridFor st.desc).r * (gridFor st.desc).c) :
    exec (.arrivalTimeout n) s = .next (((s.setStage n { st with noIssue := true }).meet (some n) 0x0B).settle s) := by
  have waits : ¬ (st.phase ≠ .running ∨ st.arrival.isNone = true ∨ cArrTimeout st.chain = 0 ∨ st.noIssue = true
      ∨ (gridFor st.desc).r * (gridFor st.desc).c ≤ st.issued.length) := by
    rw [Option.isSome_iff_exists] at arrival
    obtain ⟨a, e⟩ := arrival
    simp [running, e, timed, issues, left]
  change execArrivalTimeout n s = _
  simp only [execArrivalTimeout, found, answer]
  rw [if_neg waits]

end

/-! ### What the commands leave -/

section
variable {s : State} {n : Nat} {st : Stage}

/-- A fence completes with its status and is its ring's latest, and with ABORTED_BY_FENCE it ends the stages up to the next. -/
theorem State.finish_fence (found : s.stage n = some st) (ready : s.fenceReady st = true) (idle : s.kv.runs = []) (status : Nat) :
    s.Decided ((s.finish n status).fencePassed st.ring st.seq)
    ∧ ((s.finish n status).fencePassed st.ring st.seq).stage n = some (st.ended status s.time)
    ∧ (((s.finish n status).fencePassed st.ring st.seq).ring st.ring).lastFence = some st.seq := by
  have noRun : s.kv.runs.find n = none := by rw [idle]; rfl
  refine ⟨(State.finish_decided status noRun).trans (State.fencePassed_decided _ _ _),
    State.finish_stage status found (State.fenceReady_open ready) noRun, ?_⟩
  rw [State.fencePassed, State.setRing_ring, if_pos rfl]

theorem exec_fenceComplete_of_clean (found : s.stage n = some st) (fence : st.isFence = true) (ready : s.fenceReady st = true)
    (idle : s.kv.runs = []) (local' : op1 st.desc 0xE0 = 0) (clean : (s.ring st.ring).failed = []) :
    ∃ t x, exec (.fenceComplete n) s = .next t ∧ t.stage n = some x ∧ x.phase = .complete ∧ x.status = 0
      ∧ (t.ring st.ring).lastFence = some st.seq ∧ t.mem.cells = s.mem.cells ∧ t.lnk = s.lnk := by
  have run := exec_fenceComplete_of_ready found fence ready (by simp [local'])
  have passes : ¬ s.fenceFails st := by simp [State.fenceFails, clean, local']
  rw [if_neg (fun h => passes h.1), State.fenceTaken, if_neg (by simp [local'])] at run
  obtain ⟨decided, stage, latest⟩ := State.finish_fence found ready idle 0
  have alive := State.stalled_same decided.stalled
  refine ⟨_, st.ended 0 s.time, run, ?_, rfl, rfl, ?_, ?_, ?_⟩
  · rw [State.settle_stage _ _ _ alive]
    exact stage
  · rw [State.settle_ring _ _ _ alive]
    exact latest
  · rw [State.settle_mem _ _ alive]
    exact decided.cells
  · rw [State.settle_lnk _ _ alive]
    exact decided.lnk

theorem exec_fenceComplete_of_failed (found : s.stage n = some st) (fence : st.isFence = true) (ready : s.fenceReady st = true)
    (idle : s.kv.runs = []) (local' : op1 st.desc 0xE0 = 0) (abort : op1 st.desc 0xE1 = 1)
    (failed : ∃ q ∈ (s.ring st.ring).failed, (s.ring st.ring).sinceFence q = true ∧ seqBefore q st.seq = true) :
    ∃ t x, exec (.fenceComplete n) s = .next t ∧ t.stage n = some x ∧ x.phase = .complete ∧ x.status = 0x0C
      ∧ (t.ring st.ring).lastFence = some st.seq := by
  have run := exec_fenceComplete_of_ready found fence ready (by simp [local'])
  rw [if_pos ⟨.inl failed, abort⟩, State.fenceTaken, if_neg (by simp [local'])] at run
  obtain ⟨decided, stage, latest⟩ := State.finish_fence found ready idle 0x0C
  have aborted := State.abortUpTo_decided (decided.runs.trans idle) st.ring st.seq
  have alive := State.stalled_same (decided.trans aborted).stalled
  obtain ⟨x, here, same⟩ := aborted.stage n _ stage
  refine ⟨_, x, run, ?_, ?_, ?_, ?_⟩
  · rw [State.settle_stage _ _ _ alive]
    exact here
  · rw [same rfl]
    rfl
  · rw [same rfl]
    rfl
  · rw [State.settle_ring _ _ _ alive, State.abortUpTo_lastFence]
    exact latest

theorem State.arriveBarrier_waits {g : BarrierGen} (count : g.count = op2 st.desc 0xE2) (more : g.arrived.length + 1 < g.count) :
    s.arriveBarrier n st (g.arrived ++ [n]) = (s.setStage n { st with phase := .running }).withBarriers
      (s.dsp.barriers.put (st.secure, op2 st.desc 0xE0) ⟨g.count, g.arrived ++ [n]⟩) := by
  have fewer : ¬ op2 st.desc 0xE2 ≤ (g.arrived ++ [n]).length := by
    rw [List.length_append, List.length_singleton]
    omega
  rw [State.arriveBarrier, if_neg fewer, ← count]

/-- The last arrival completes every barrier of its generation, which is over. -/
theorem State.arriveBarrier_releases {g : BarrierGen} (count : g.count = op2 st.desc 0xE2)
    (last : g.count ≤ g.arrived.length + 1) (idle : s.kv.runs = []) (live : ∀ m ∈ g.arrived, (s.stage m).isSome) :
    (s.arriveBarrier n st (g.arrived ++ [n])).mem.stalled = s.mem.stalled
    ∧ (∀ m ∈ g.arrived ++ [n], ((s.arriveBarrier n st (g.arrived ++ [n])).stage m).map Stage.done = some true)
    ∧ (s.arriveBarrier n st (g.arrived ++ [n])).dsp.barriers.find (st.secure, op2 st.desc 0xE0) = none := by
  have enough : op2 st.desc 0xE2 ≤ (g.arrived ++ [n]).length := by
    rw [List.length_append, List.length_singleton]
    omega
  rw [State.arriveBarrier, if_pos enough]
  generalize taken : (s.setStage n { st with phase := .running }).withBarriers (s.dsp.barriers.del (st.secure, op2 st.desc 0xE0)) = t
  have idle' : t.kv.runs = [] := by rw [← taken]; exact idle
  have stage : ∀ m, t.stage m = if n = m then some { st with phase := .running } else s.stage m := fun m => by
    rw [← taken]
    exact State.setStage_stage s n m _
  have decided := State.releaseBarriers_decided idle' (g.arrived ++ [n])
  refine ⟨?_, State.releaseBarriers_done _ t idle' fun m member => ?_, ?_⟩
  · rw [decided.stalled, ← taken]
    rfl
  · rw [stage]
    split
    · rfl
    next other =>
      refine live m ?_
      simpa [Ne.symm other] using member
  · rw [decided.barriers, ← taken]
    exact (Map.find_del _ _ _).trans (if_pos rfl)

theorem exec_barrierArrive_cases {g : BarrierGen} (found : s.stage n = some st) (barrier : st.isBarrier = true)
    (ready : s.fenceReady st = true) (gen : g = s.dsp.barriers.get ⟨op2 st.desc 0xE2, []⟩ (st.secure, op2 st.desc 0xE0))
    (new : n ∉ g.arrived) :
    (g.count = op2 st.desc 0xE2 → g.arrived.length + 1 < g.count →
      ∃ t x, exec (.barrierArrive n) s = .next t ∧ t.stage n = some x ∧ x.phase = .running
        ∧ t.dsp.barriers.get ⟨0, []⟩ (st.secure, op2 st.desc 0xE0) = ⟨g.count, g.arrived ++ [n]⟩)
    ∧ (g.count = op2 st.desc 0xE2 → g.count ≤ g.arrived.length + 1 → s.kv.runs = [] → (∀ m ∈ g.arrived, (s.stage m).isSome) →
      ∃ t, exec (.barrierArrive n) s = .next t ∧ (∀ m ∈ g.arrived ++ [n], (t.stage m).map Stage.done = some true)
        ∧ t.dsp.barriers.find (st.secure, op2 st.desc 0xE0) = none)
    ∧ (g.count ≠ op2 st.desc 0xE2 → s.kv.runs.find n = none →
      ∃ t x, exec (.barrierArrive n) s = .next t ∧ t.stage n = some x ∧ x.phase = .complete ∧ x.status = 2
        ∧ t.dsp.barriers = s.dsp.barriers) := by
  have run := exec_barrierArrive_of_ready found barrier ready gen new
  refine ⟨fun count more => ?_, fun count last idle live => ?_, fun wrong noRun => ?_⟩
  · have waits := State.arriveBarrier_waits (s := s) (n := n) count more
    have alive : ((s.arriveBarrier n st (g.arrived ++ [n])).mem.stalled && !s.mem.stalled) = false :=
      State.stalled_same (by rw [waits]; rfl)
    rw [if_neg (Classical.not_not.mpr count)] at run
    refine ⟨_, { st with phase := .running }, run, ?_, rfl, ?_⟩
    · rw [State.settle_stage _ _ _ alive, waits]
      exact (State.setStage_stage s n n _).trans (if_pos rfl)
    · rw [State.settle_dsp _ _ alive, waits]
      exact (Map.get_put _ _ _ _ _).trans (if_pos rfl)
  · obtain ⟨stalled, done, gone⟩ := State.arriveBarrier_releases count last idle live
    have alive := State.stalled_same stalled
    rw [if_neg (Classical.not_not.mpr count)] at run
    refine ⟨_, run, fun m member => ?_, ?_⟩
    · rw [State.settle_stage _ _ _ alive]
      exact done m member
    · rw [State.settle_dsp _ _ alive]
      exact gone
  · have decided := (State.finish_decided 2 noRun).trans (State.fencePassed_decided _ st.ring st.seq)
    have alive := State.stalled_same decided.stalled
    rw [if_pos wrong] at run
    refine ⟨_, st.ended 2 s.time, run, ?_, rfl, rfl, ?_⟩
    · rw [State.settle_stage _ _ _ alive]
      exact State.finish_stage 2 found (State.fenceReady_open ready) noRun
    · rw [State.settle_dsp _ _ alive]
      exact decided.barriers

theorem exec_spillHintRun_of_nothing (found : s.stage n = some st) (hint : st.opcode = 0x15) (running : st.phase = .running)
    (met : st.met = []) (noRun : s.kv.runs.find n = none) (nothing : ∀ c, s.hintTiles st.secure c (op1 st.desc 0xE0) = []) :
    ∃ t x, exec (.spillHintRun n) s = .next t ∧ t.stage n = some x ∧ x.phase = .complete ∧ x.status = 0 ∧ t.mem.cells = s.mem.cells := by
  have run := exec_spillHintRun_of_running found hint running
  have still : ∀ l : List Nat, l.foldl (fun s c => (s.hintTiles st.secure c (op1 st.desc 0xE0)).foldl (fun s u => match u with
        | .tile key i => s.spillTile c key i
        | .scores _ => s) s) s = s := fun l => by
    refine List.foldlRecOn (motive := fun t => t = s) _ _ rfl fun t same c _ => ?_
    rw [same, nothing]
    rfl
  have open' : st.done = false := by simp [Stage.done, running]
  have worst : s.finishWorst n 0 = s.finish n 0 := by
    have notEnded : (0 == s.endedBy) = false := by
      unfold State.endedBy
      split <;> rfl
    simp only [State.finishWorst, found, open', State.settleTable_of_no_run st noRun, notEnded, Bool.and_false, Bool.false_eq_true,
      if_false, Option.getD_some, met]
    rfl
  rw [still, worst] at run
  obtain ⟨stalled, cells⟩ := State.finish_mem 0 noRun
  have alive := State.stalled_same stalled
  refine ⟨_, st.ended 0 s.time, run, ?_, rfl, rfl, ?_⟩
  · rw [State.settle_stage _ _ _ alive]
    exact State.finish_stage 0 found open' noRun
  · rw [State.settle_mem _ _ alive]
    exact cells

end

open Classical in
/-- Settles O36: each command's branch; a fence, a barrier and a hint through what deciding a stage leaves while no table is worked through. -/
theorem orderingStages : Obligations.OrderingStages := by
  unfold Obligations.OrderingStages
  refine ⟨⟨fun s n st found hint running => exec_spillHintRun_of_running found hint running,
    fun s n st found hint running met noRun nothing => exec_spillHintRun_of_nothing found hint running met noRun nothing,
    fun s n st found running arrival timed issues left fresh => ?_⟩,
    fun s u n st system failed found fence ready isSystem isFailed other taken windows => ?_,
    fun s n st found fence ready idle => ⟨exec_fenceComplete_of_clean found fence ready idle,
      exec_fenceComplete_of_failed found fence ready idle, fun system ⟨w, member, before, waits⟩ =>
        exec_fenceComplete_of_window found system member before waits⟩,
    fun s n st found held => ⟨exec_fenceComplete_of_held found held, exec_barrierArrive_of_held found held⟩,
    fun s n st g found barrier ready gen new => exec_barrierArrive_cases found barrier ready gen new⟩
  · rw [exec_arrivalTimeout_of_waiting found running arrival timed issues left]
    simp [State.meet, fresh]
  · have run := exec_fenceComplete_of_ready found fence ready (fun e => windows (isSystem.mpr e))
    have fails : failed ↔ s.fenceFails st := by rw [isFailed, State.fenceFails, isSystem]
    have state : s.fenceTaken n st = u := by
      unfold State.fenceTaken
      split
      next e => exact (taken (isSystem.mpr e)).symm
      next e => exact (other (fun h => e (isSystem.mp h))).symm
    rw [state, ← fails] at run
    refine ⟨fun passes => ?_, fun fail abort => ?_⟩
    · rw [run, if_neg]
      rintro ⟨fail, abort⟩
      exact passes.elim (fun h => h fail) (fun h => h abort)
    · rw [run, if_pos ⟨fail, abort⟩]

end Sys2Proof.Machine
end

section
/-! The key-value store's appends and releases (spec/07 R189-R207). -/
namespace Sys2Proof.Machine

/-! ### The commands -/

section
variable {s s' : State} {n : Nat} {st : Stage}

theorem exec_kvAppendStart_of_table {tab : List Byte} (found : s.stage n = some st) (running : st.phase = .running)
    (append : st.opcode = 0x09) (turn : s.kvTurn n st = true) (read : s.readTable n st (dTd st.desc 0).n = (.inl tab, s')) :
    exec (.kvAppendStart n) s = .next (
      let r := (List.range (dTd st.desc 0).n).foldl (fun (acc : List Byte × State) i => acc.2.appendEntry n st acc.1 i) (tab, s')
      (r.2.setTable n r.1).settle s) := by
  change execKvAppendStart n s = _
  simp only [execKvAppendStart, found, running, append, turn, read, ne_eq, not_true, Bool.not_true, Bool.false_eq_true, or_self, if_false,
    answer]

theorem exec_kvReleaseStart_of_table {tab : List Byte} (found : s.stage n = some st) (running : st.phase = .running)
    (release : st.opcode = 0x0B) (turn : s.kvTurn n st = true) (read : s.readTable n st (op2 st.desc 0xE2) = (.inl tab, s')) :
    exec (.kvReleaseStart n) s = .next (
      let r := (List.range (op2 st.desc 0xE2)).foldl (fun acc i => s'.releaseEntry st acc i) (tab, [], [])
      (((s'.setTable n r.1).countTable st.secure r.1).startRelease (some n) st.secure r.2.1 r.2.2).settle s) := by
  change execKvReleaseStart n s = _
  simp only [execKvReleaseStart, found, running, release, turn, read, ne_eq, not_true, Bool.not_true, Bool.false_eq_true, or_self, if_false,
    answer]

/-- A table that cannot be read ends the stage, of an append or of a release. -/
theorem exec_kvStart_of_unread {status : Nat} (found : s.stage n = some st) (running : st.phase = .running) (turn : s.kvTurn n st = true) :
    (st.opcode = 0x09 → s.readTable n st (dTd st.desc 0).n = (.inr status, s') →
      exec (.kvAppendStart n) s = .next ((s'.failTable n ((s'.stage n).getD st) status).settle s))
    ∧ (st.opcode = 0x0B → s.readTable n st (op2 st.desc 0xE2) = (.inr status, s') →
      exec (.kvReleaseStart n) s = .next ((s'.failTable n ((s'.stage n).getD st) status).settle s)) := by
  refine ⟨fun append read => ?_, fun release read => ?_⟩
  · change execKvAppendStart n s = _
    simp only [execKvAppendStart, found, running, append, turn, read, ne_eq, not_true, Bool.not_true, Bool.false_eq_true, or_self, if_false,
      answer]
  · change execKvReleaseStart n s = _
    simp only [execKvReleaseStart, found, running, release, turn, read, ne_eq, not_true, Bool.not_true, Bool.false_eq_true, or_self,
      if_false, answer]

theorem exec_kvStart_of_held (found : s.stage n = some st) (held : s.kvTurn n st = false) :
    exec (.kvAppendStart n) s = .next (s.settle s) ∧ exec (.kvReleaseStart n) s = .next (s.settle s) := by
  constructor
  · change execKvAppendStart n s = _
    simp only [execKvAppendStart, found, held, Bool.not_false, or_true, if_true, answer]
  · change execKvReleaseStart n s = _
    simp only [execKvReleaseStart, found, held, Bool.not_false, or_true, if_true, answer]

theorem exec_kvAppendComplete_of_run {r : KvRun} (found : s.stage n = some st) (run : s.kv.runs.find n = some r)
    (running : st.phase = .running) (append : st.opcode = 0x09) :
    exec (.kvAppendComplete n) s = .next ((s.showAppended.finishWorst n (tableStatus r.table)).settle s) := by
  change execKvAppendComplete n s = _
  simp only [execKvAppendComplete, found, run, running, append, and_self, if_true, answer]

theorem exec_kvReleaseComplete_of_due {r : KvRelease} (one : s.kv.releases = [r]) (stage : r.stage = some n ∨ r.stage = none)
    (free : r.readers = []) :
    exec (.kvReleaseComplete n) s = .next ((({ s with kv := { s.kv with releases := [] } } : State).endRelease r).settle s) := by
  have due : (r.readers.isEmpty && (r.stage == some n || r.stage.isNone)) = true := by
    rcases stage with e | e <;> simp [free, e]
  change execKvReleaseComplete n s = _
  simp only [execKvReleaseComplete, one, List.filter_cons, List.filter_nil, due, Bool.not_true, Bool.false_eq_true, if_false, if_true,
    List.foldl_cons, List.foldl_nil, answer]

theorem exec_kvReleaseComplete_of_readers (waits : ∀ r ∈ s.kv.releases, r.readers ≠ []) :
    exec (.kvReleaseComplete n) s = .next (s.settle s) := by
  have held : ∀ r ∈ s.kv.releases, (r.readers.isEmpty && (r.stage == some n || r.stage.isNone)) = false := fun r member => by
    simp [waits r member]
  have none : s.kv.releases.filter (fun r => r.readers.isEmpty && (r.stage == some n || r.stage.isNone)) = [] :=
    List.filter_eq_nil_iff.mpr fun r member => by simp only [held r member, Bool.false_eq_true, not_false_iff]
  have all : s.kv.releases.filter (fun r => !(r.readers.isEmpty && (r.stage == some n || r.stage.isNone))) = s.kv.releases :=
    List.filter_eq_self.mpr fun r member => by simp only [held r member, Bool.not_false]
  change execKvReleaseComplete n s = _
  simp only [execKvReleaseComplete, none, all, List.foldl_nil, answer]

end

/-! ### What is shown, released and thawed -/

theorem Map.get_of_absent {κ α : Type} [DecidableEq κ] : ∀ {m : Map κ α} {d : α} {k : κ}, m.find k = none → m.get d k = d
  | [], _, _, _ => rfl
  | (k', a) :: m, d, k, absent => by
    by_cases same : k' = k
    · simp [Map.find, same] at absent
    · rw [Map.get, if_neg same]
      exact Map.get_of_absent (by simpa [Map.find, same] using absent)

theorem State.showAppended_windrow (s : State) (k : Nat) (key : Nat × Nat) :
    ((s.showAppended.kvSeq k).winds.get {} key) = ((s.kvSeq k).winds.get {} key).shown := by
  have seq : s.showAppended.kvSeq k = { s.kvSeq k with winds := (s.kvSeq k).winds.map (fun w => (w.1, w.2.shown)) } :=
    Map.get_map _ _ _ (fun q : KvSeq => { q with winds := q.winds.map (fun w => (w.1, w.2.shown)) }) rfl
  rw [seq]
  exact Map.get_map _ _ _ Windrow.shown rfl

theorem State.showAppended_visible (s : State) (k : Nat) (key : Nat × Nat) : ((s.showAppended.kvSeq k).winds.get {} key).visible
    = if (((s.kvSeq k).winds.find key).isSome) then
        ((s.kvSeq k).winds.get {} key).first + ((s.kvSeq k).winds.get {} key).toks.length else 0 := by
  rw [State.showAppended_windrow]
  cases found : (s.kvSeq k).winds.find key with
  | none => rw [Map.get_of_absent found]; rfl
  | some w => rfl

theorem State.startRelease_releases (s : State) (stage : Option Nat) (secure : Bool) (pages seqs : List Nat) :
    (s.startRelease stage secure pages seqs).kv.releases = s.kv.releases ++ [⟨stage, secure, s.kvReaders secure, pages, seqs⟩] := by
  have paged : ∀ t : State, (pages.foldl (fun s n => s.releasePage secure n) t).kv.releases = t.kv.releases
      ∧ (pages.foldl (fun s n => s.releasePage secure n) t).dsp = t.dsp := fun t =>
    List.foldlRecOn (motive := fun u : State => u.kv.releases = t.kv.releases ∧ u.dsp = t.dsp) pages _ ⟨rfl, rfl⟩ fun u same n _ => by
      refine ⟨?_, same.2⟩
      rw [← same.1, State.releasePage, State.setKvPool]
      dsimp only
      split <;> rfl
  have named : ∀ t : State, (seqs.foldl (fun s k => s.setKvSeq k { s.kvSeq k with st := .releasing, relAt := s.dsp.admCount }) t).kv.releases
        = t.kv.releases
      ∧ (seqs.foldl (fun s k => s.setKvSeq k { s.kvSeq k with st := .releasing, relAt := s.dsp.admCount }) t).dsp = t.dsp := fun t =>
    List.foldlRecOn (motive := fun u : State => u.kv.releases = t.kv.releases ∧ u.dsp = t.dsp) seqs _ ⟨rfl, rfl⟩ fun u same n _ =>
      ⟨same.1, same.2⟩
  unfold State.startRelease
  dsimp only
  rw [(named _).1, (paged _).1, State.kvReaders, (named _).2, (paged _).2]
  rfl

theorem State.mem_kvReaders {s : State} {m : Nat} {st : Stage} (found : s.stage m = some st) (live : st.phase = .admitted ∨ st.phase = .running)
    (reads : st.opcode = 0x02 ∨ st.opcode = 0x0A) : m ∈ s.kvReaders st.secure := by
  refine List.mem_map.mpr ⟨(m, st), List.mem_filter.mpr ⟨Map.mem_of_find found, ?_⟩, rfl⟩
  simpa using ⟨live, reads⟩

theorem State.setKvPool_kvPool (s : State) (secure : Bool) (p : KvPool) : (s.setKvPool secure p).kvPool secure = p := by
  cases secure <;> rfl

theorem State.releasePage_page (s : State) (secure : Bool) (p : Nat) : ((s.releasePage secure p).kvPool secure).pages.get {} p
    = { ((s.kvPool secure).pages.get {} p) with st := .releasing, relAt := s.dsp.admCount } := by
  rw [State.releasePage, State.setKvPool_kvPool]
  exact (Map.get_put _ _ _ _ _).trans (if_pos rfl)

theorem State.kvCount_kv (s : State) (secure : Bool) (a n : Nat) : (s.kvCount secure a n).kv = s.kv := by
  unfold State.kvCount
  repeat' split
  all_goals rfl

theorem State.freePage_page (s : State) (secure : Bool) (p : Nat) :
    ((s.freePage secure p).kvPool secure).pages.get {} p = { gen := ((s.kvPool secure).pages.get {} p).gen + 1 } := by
  have pages : ((s.freePage secure p).kvPool secure).pages
      = (s.kvPool secure).pages.put p { gen := ((s.kvPool secure).pages.get {} p).gen + 1 } := by
    rw [State.freePage, State.kvPool, State.kvCount_kv]
    change (State.kvPool (State.setKvPool s secure _) secure).pages = _
    rw [State.setKvPool_kvPool]
    split <;> rfl
  rw [pages]
  exact (Map.get_put _ _ _ _ _).trans (if_pos rfl)

/-- What a thaw makes of a sequence. -/
def KvSeq.thawed (q : KvSeq) (secure : Bool) : KvSeq := if q.st = .frozen ∧ q.secure = secure then { q with st := .live } else q

theorem State.thaw_kvSeq (s : State) (secure : Bool) (k : Nat) : (s.thaw secure).kvSeq k = (s.kvSeq k).thawed secure := by
  have seqs : (s.thaw secure).kv.seqs = s.kv.seqs.map (fun p => (p.1, p.2.thawed secure)) := by
    refine List.map_congr_left fun p _ => ?_
    unfold KvSeq.thawed
    split <;> rfl
  rw [State.kvSeq, seqs]
  exact Map.get_map _ _ _ (fun q : KvSeq => q.thawed secure) rfl

theorem KvSeq.thawed_frozen {q : KvSeq} {secure : Bool} (frozen : (q.thawed secure).st = .frozen) : (q.thawed secure).secure ≠ secure := by
  unfold KvSeq.thawed at frozen ⊢
  split at frozen
  · cases frozen
  next cold =>
    rw [if_neg cold]
    exact fun same => cold ⟨frozen, same⟩

theorem State.atEnd_seqs (s : State) (n : Nat) (st : Stage) (status : Nat) :
    (s.atEnd n st status).kv.seqs = ((s.settleTable n st).thawAfter n st).kv.seqs := by
  have discarded : ∀ t : State, (t.discardMarked n).kv = t.kv := fun t => by
    unfold State.discardMarked
    dsimp only
    split <;> rfl
  have settled : ∀ t : State, (t.settleSets n st status).kv = t.kv := fun t => by
    unfold State.settleSets
    dsimp only
    repeat' split
    all_goals rfl
  unfold State.atEnd
  rw [settled]
  change (State.discardMarked _ n).kv.seqs = _
  rw [discarded]
  rfl

theorem State.settleTable_releases (s : State) (n : Nat) (st : Stage) : (s.settleTable n st).kv.releases = s.kv.releases := by
  unfold State.settleTable
  split
  · rfl
  · rw [((State.Accessed.refl _).writeFor _ _ _ _).kv]

/-- The end of an admitted KV_RELEASE whose release waits for no reader leaves no FROZEN sequence in its world. -/
theorem State.finish_release_thaws {s : State} {n k : Nat} {st : Stage} (status : Nat) (found : s.stage n = some st)
    (live : st.phase = .admitted ∨ st.phase = .running) (release : st.opcode = 0x0B) (alone : ∀ r ∈ s.kv.releases, r.stage ≠ some n)
    (frozen : ((s.finish n status).kvSeq k).st = .frozen) : ((s.finish n status).kvSeq k).secure ≠ st.secure := by
  have undone : st.done = false := by rcases live with e | e <;> simp [Stage.done, e]
  have fetched : st.phase ≠ .fetched := by rcases live with e | e <;> simp [e]
  have none : ((s.settleTable n st).kv.releases.any (fun r => r.stage == some n)) = false := by
    rw [State.settleTable_releases, List.any_eq_false]
    exact fun r member => by simpa using alone r member
  have thaws : (s.settleTable n st).thawAfter n st = (s.settleTable n st).thaw st.secure := by
    unfold State.thawAfter
    exact if_pos ⟨release, fetched, by rw [none]; rfl⟩
  have seqs : (s.finish n status).kv.seqs = ((s.settleTable n st).thaw st.secure).kv.seqs := by
    rw [State.finish_of_open status found undone, ← thaws, ← State.atEnd_seqs s n st status]
    dsimp only
    split <;> rfl
  have seq : (s.finish n status).kvSeq k = ((s.settleTable n st).kvSeq k).thawed st.secure := by
    rw [State.kvSeq, seqs]
    exact State.thaw_kvSeq _ _ _
  rw [seq] at frozen ⊢
  exact KvSeq.thawed_frozen frozen

/-- Settles O37: each command's branch; what is shown, released and thawed by reads of the sequences and pages after each update. -/
theorem keyValueStages : Obligations.KeyValueStages := by
  unfold Obligations.KeyValueStages
  refine ⟨fun s s' n st tab found running turn =>
      ⟨fun append read => exec_kvAppendStart_of_table found running append turn read,
        fun release read => exec_kvReleaseStart_of_table found running release turn read,
        fun status => (exec_kvStart_of_unread found running turn).1, fun status => (exec_kvStart_of_unread found running turn).2⟩,
    fun s n st found held => exec_kvStart_of_held found held,
    fun s n st r found run running append => ⟨exec_kvAppendComplete_of_run found run running append, s.showAppended_visible⟩,
    fun s n r one stage free => exec_kvReleaseComplete_of_due one stage free, fun s n waits => exec_kvReleaseComplete_of_readers waits,
    fun s stage secure pages seqs m st found live world reads => ⟨_, s.startRelease_releases stage secure pages seqs, rfl, rfl, rfl, ?_⟩,
    fun s secure p => ⟨s.releasePage_page secure p, s.freePage_page secure p⟩,
    fun s n status k st found live release alone frozen => State.finish_release_thaws status found live release alone frozen⟩
  subst world
  exact State.mem_kvReaders found live reads

end Sys2Proof.Machine
end

section
/-! Frames and flits that arrive (spec/11 R293-R299, R304, R314, R317; spec/17 R458). -/
namespace Sys2Proof.Machine

/-! ### The flit that arrives next -/

section
variable (s : State) (p type : Nat)

theorem State.arrival_state : (s.arrival p type).2 = { s with lnk := { s.lnk with ports := (s.arrival p type).2.lnk.ports } } := by
  unfold State.arrival
  dsimp only
  split <;> rfl

theorem State.arrival_port : ∃ arriving, (s.arrival p type).2.port p = { s.port p with arriving := arriving } := by
  unfold State.arrival
  dsimp only
  split
  · exact ⟨_, (State.setPort_port s p p _).trans (if_pos rfl)⟩
  · exact ⟨_, rfl⟩

theorem State.arrival_peer (d : Nat) : (s.arrival p type).2.peer d = s.peer d := by
  rw [State.arrival_state]
  rfl

theorem State.arrival_carriesAll : (s.arrival p type).2.carriesAll p = s.carriesAll p := by
  obtain ⟨arriving, port⟩ := s.arrival_port p type
  rw [State.carriesAll, port, State.arrival_state]
  rfl

end

/-! ### Control flits -/

section
variable {s : State} {p d : Nat}

theorem exec_linkFrameRx_of_active (corrected : Nat) (bad types : List Nat) (active : (s.port p).st = .active) :
    exec (.linkFrameRx p corrected bad types) s = .next ((
      let u := (((s.setPort p { s.port p with
          frame := (s.port p).frame + 1
          arriving := ((List.range (s.port p).perFrame).map (fun n => (types.getD n 0, (s.port p).frame, n,
            (codewordsOf n).any (fun w => bad.contains w)))).filter (fun f => f.1 == 1 || f.1 == 2) }).bump
        (lnkPort p lnkFecCorr) corrected).bump (lnkPort p lnkFecUncorr) bad.length).bump (lnkPort p lnkBadType)
          (types.filter (· == 3)).length
      if 2 ^ 44 ≤ (s.port p).frame + 1 then u.portRetrain p 4 else u).settle s) := by
  change execLinkFrameRx p corrected bad types s = _
  simp only [execLinkFrameRx, active, ne_eq, not_true, if_false, answer]

/-- What a control flit does, from its damage to its messages. -/
def State.controlFlit (s u : State) (p d : Nat) (damaged : Bool) (bytes : List Byte) : State :=
  let q := s.peer d
  let seq := extSeq q.recvSeq (field bytes 2 2)
  if q.st = .lost then u
  else if damaged then u.sendNak d
  else if field bytes 0xFC 4 ≠ crc32c (bytes.take 0xFC) then (u.tick1 (lnkPort p lnkCrcFail)).sendNak d
  else if (bytes.drop 0xE8).take 16 ≠ ctrlTag (s.port p).key seq (bytes.take 0xE8) then (u.tagFail p).sendNak d
  else if seq ≠ q.recvSeq then u.sendNak d
  else
    let msgs := messagesOf 14 ((bytes.drop 8).take (min 224 (field bytes 1 1)))
    (if s.carriesAll p then msgs else msgs.filter (fun m => field m 0 1 == 0x0C
      && (field m 2 2 == 0xFFFF || field m 2 2 == s.lnk.devid))).foldl State.routeMsg
        (((u.setPeer d { q with recvSeq := q.recvSeq + 1, ackDue := q.ackDue || !msgs.isEmpty }).makePresent d).takeAck p d bytes)

theorem exec_controlFlitRx_of_active {s' : State} {frame n : Nat} {damaged : Bool} (bytes : List Byte) (active : (s.port p).st = .active)
    (far : s.farEnd p = some d) (arrives : s.arrival p 1 = ((frame, n, damaged), s')) :
    exec (.controlFlitRx p bytes) s = .next ((s.controlFlit (s'.tick1 (lnkPort p lnkRx)) p d damaged bytes).settle s) := by
  have peer : (s'.tick1 (lnkPort p lnkRx)).peer d = s.peer d := by
    have same := s.arrival_peer p 1 d
    rw [arrives] at same
    exact same
  have devid : s'.lnk.devid = s.lnk.devid := by
    have same := congrArg (fun t : State => t.lnk.devid) (s.arrival_state p 1)
    rw [arrives] at same
    exact same
  change execControlFlitRx p bytes s = _
  simp only [execControlFlitRx, active, far, arrives, peer, answer, State.controlFlit]
  change _ = Host.Outcome.next (State.settle (if _ then _ else _) s)
  rw [← devid]
  rfl

theorem exec_controlReplayTimeout_of_matched (matched : ∀ p, p < 32 → (s.port p).mismatched = true → (s.port p).peer ≠ some d) :
    exec (.controlReplayTimeout d) s = .next ((s.resendFrom d 0).settle s) := by
  have none : (List.range 32).filter (fun p => (s.port p).mismatched && (s.port p).peer == some d) = [] := by
    refine List.filter_eq_nil_iff.mpr fun p member => ?_
    simpa using matched p (List.mem_range.mp member)
  change execControlReplayTimeout d s = _
  simp only [execControlReplayTimeout, none, List.foldl_nil, answer]

theorem exec_creditReturn_of_active (active : (s.port p).st = .active) (far : s.farEnd p = some d) :
    exec (.creditReturn p) s = .next ((if 512 ≤ (s.peer d).sent.length then s
      else if 0 < (s.port p).owed then s.transmit d [] false (some p)
      else if (s.peer d).ackDue then s.transmit d []
      else s).settle s) := by
  change execCreditReturn p s = _
  simp only [execCreditReturn, active, far, ne_eq, not_true, false_or, answer]

/-! ### Data flits -/

theorem exec_dataFlit_of_kind {kind : Nat} (bytes : List Byte) (listed : kind ≤ 3) :
    exec (if kind = 0 then Instr.dataFlitWrite p bytes else if kind = 1 then .dataFlitAtomic p bytes
      else if kind = 2 then .dataFlitReadData p bytes else .dataFlitReadPoison p bytes) s = .next ((s.flitOfKind kind p bytes).settle s) := by
  match kind, listed with
  | 0, _ => rfl
  | 1, _ => rfl
  | 2, _ => rfl
  | 3, _ => rfl

theorem State.flitOfKind_of_arrival {s' : State} {frame n kind : Nat} {damaged : Bool} {bytes clear : List Byte}
    (arrives : s.arrival p 2 = ((frame, n, damaged), s')) (plain : clear = s'.linkCipher p frame n false bytes) :
    s.flitOfKind kind p bytes = if field clear 6 1 = kind ∨ 3 < field clear 6 1 then s'.dataFlitIn p clear else s := by
  simp only [State.flitOfKind, arrives, plain]

theorem State.landFlit_of_window {h : Nat} {w : LinkWindow} {bytes : List Byte} (handle : h = field bytes 0 2 % 4096)
    (found : s.window h = some w) : s.landFlit bytes = if w.takes bytes then s.applyFlit h w bytes else s.tick1 lnkWinDrop := by
  have same : bits (field bytes 0 2) 0 12 = h := by rw [handle]; exact bits_zero _ 12
  simp only [State.landFlit, same, found]

theorem State.landFlit_of_none {h : Nat} {bytes : List Byte} (handle : h = field bytes 0 2 % 4096) (none : s.window h = none) :
    s.landFlit bytes = s.tick1 lnkWinDrop := by
  have same : bits (field bytes 0 2) 0 12 = h := by rw [handle]; exact bits_zero _ 12
  simp only [State.landFlit, same, none]

theorem State.dataFlitIn_of_active {u freed : State} (bytes : List Byte) (active : (s.port p).st = .active)
    (counted : u = s.tick1 (lnkPort p lnkRx)) (free : freed = u.setPort p { u.port p with owed := (u.port p).owed + 1 }) :
    s.dataFlitIn p bytes = (
      if s.carriesAll p = false then freed.tick1 lnkWinDrop
      else if field bytes 2 2 % 1024 ≠ s.lnk.devid then freed.forwardFlit bytes
      else match u.flitGate bytes with
        | some dom => ({ u with lnk := { u.lnk with gated := u.lnk.gated ++ [(dom, p, bytes)] } } : State).knock dom
        | none => freed.landFlit bytes) := by
  subst free counted
  have dst : bits (field bytes 2 2) 0 10 = field bytes 2 2 % 1024 := bits_zero _ 10
  simp only [State.dataFlitIn, active, ne_eq, not_true, if_false, dst, Bool.not_eq_true'] <;> rfl

end

/-- Settles O38: each command's branch, with what the arrival of a flit leaves of its port and its peers. -/
theorem flitsArrive : Obligations.FlitsArrive := by
  unfold Obligations.FlitsArrive
  refine ⟨fun s u p corrected bad types active counted => ?_, fun s s' u p d frame n seq damaged bytes active far arrives counted number => ?_,
    fun s d matched => exec_controlReplayTimeout_of_matched matched, fun s p d active far => ⟨fun room owed => ?_,
      fun room none due => ?_, fun full => ?_⟩,
    fun s s' u freed p frame n kind h damaged bytes clear c active listed row arrives plain counted free handle => ?_⟩
  · rw [exec_linkFrameRx_of_active corrected bad types active, counted]
  · have run := exec_controlFlitRx_of_active bytes active far arrives
    rw [← counted] at run
    subst number
    refine ⟨fun lost => ?_, fun live bad => ?_, fun live whole => ⟨fun crc => ?_, fun crc => ⟨fun tag => ?_, fun tag => ⟨fun other => ?_,
      fun msgs next packed => ?_⟩⟩⟩⟩
    · rw [run, State.controlFlit, if_pos lost]
    · rw [run, State.controlFlit, if_neg live, if_pos bad]
    · rw [run, State.controlFlit, if_neg live, if_neg (by simp [whole]), if_pos crc]
    · rw [run, State.controlFlit, if_neg live, if_neg (by simp [whole]), if_neg (Classical.not_not.mpr crc), if_pos tag]
    · rw [run, State.controlFlit, if_neg live, if_neg (by simp [whole]), if_neg (Classical.not_not.mpr crc), if_neg (Classical.not_not.mpr tag), if_pos other]
    · rw [run, State.controlFlit, if_neg live, if_neg (by simp [whole]), if_neg (Classical.not_not.mpr crc), if_neg (Classical.not_not.mpr tag),
        if_neg (Classical.not_not.mpr next), packed]
  · rw [exec_creditReturn_of_active active far, if_neg (by omega), if_pos owed]
  · rw [exec_creditReturn_of_active active far, if_neg (by omega), if_neg (by omega), if_pos due]
  · rw [exec_creditReturn_of_active active far]
    rcases full with full | ⟨none, idle⟩
    · rw [if_pos full]
    · simp [none, idle]
  · have run : exec c s = .next ((s.flitOfKind kind p bytes).settle s) := by
      rw [row]
      exact exec_dataFlit_of_kind bytes listed
    have state : s' = { s with lnk := { s.lnk with ports := s'.lnk.ports } } := by
      have same := s.arrival_state p 2
      rw [arrives] at same
      exact same
    have carries := s.arrival_carriesAll p 2
    obtain ⟨arriving, port⟩ := s.arrival_port p 2
    rw [arrives] at carries port
    have devid : s'.lnk.devid = s.lnk.devid := by rw [state]
    have taken := State.dataFlitIn_of_active clear (by rw [port]; exact active) counted free
    have window : freed.window h = s.window h := by
      rw [free, counted, State.window, State.window, ← show s'.lnk.windows = s.lnk.windows by rw [state]]
      rfl
    rw [State.flitOfKind_of_arrival arrives plain] at run
    refine ⟨fun other few => ?_, fun mine => ?_⟩
    · rw [run, if_neg (by omega)]
    · rw [if_pos mine, taken, carries, devid] at run
      refine ⟨fun off => ?_, fun all away => ?_, fun all here => ⟨fun dom gate => ?_, fun w gate found takes => ?_, fun gate none => ?_⟩⟩
      · rw [run, if_pos off]
      · rw [run, if_neg (by simp [all]), if_pos away]
      · rw [run, if_neg (by simp [all]), if_neg (Classical.not_not.mpr here), gate]
      · rw [run, if_neg (by simp [all]), if_neg (Classical.not_not.mpr here), gate]
        dsimp only
        rw [State.landFlit_of_window handle (window.trans found), if_pos takes]
      · rw [run, if_neg (by simp [all]), if_neg (Classical.not_not.mpr here), gate]
        dsimp only
        rcases none with none | ⟨w, found, refuses⟩
        · rw [State.landFlit_of_none handle (window.trans none)]
        · rw [State.landFlit_of_window handle (window.trans found), if_neg (by simp [refuses])]

end Sys2Proof.Machine
end

section
/-! What a WRITE flit stores (spec/11 R294, R317). -/
namespace Sys2Proof.Machine

section
variable {s : State} {w : LinkWindow} {a : Nat} {bs : List Byte}

/-- A flit's bytes within one line that the hedgerow passes, that is not poisoned and whose memory answers, are stored and counted. -/
theorem State.flitWrite_of_line (some_ : 0 < bs.length) (within : a % 256 + bs.length ≤ 256) (device : s.place a ≠ .reserved)
    (local' : s.place a ≠ .host) (noKv : touches s.kvExtents a bs.length = false) (noPool : touches s.poolExtents a bs.length = false)
    (passes : hedge ((s.regionAt a).map Prod.snd) w.secure 0x7E = 0) (whole : s.poisoned (a / 256) = false)
    (near : s.lineAway (a / 256) = false) (served : s.lineOut (a / 256) = false) :
    s.flitWrite w a bs = (bs.length, false, (s.touchWrite (a / 256) a bs 0 none).2.countLanded a bs.length) := by
  have stored : s.writePiece (peerWho w.secure) a bs 0 = (0, (s.touchWrite (a / 256) a bs 0 none).2) := by
    have taken : (s.touchWrite (a / 256) a bs 0 none).1 = false := by rw [State.touchWrite_fst, whole, Bool.false_and]
    rw [State.writePiece_of_device device local']
    simp only [noKv, noPool, Bool.or_self, Bool.false_eq_true, if_false, peerWho, passes, ne_eq, not_true, near, served, taken,
      State.share_none]
  simp only [State.flitWrite, linePieces_of_line some_ within, List.foldl_cons, List.foldl_nil, Nat.sub_self, List.drop_zero,
    List.take_length, stored, if_true, Nat.zero_add]

theorem State.touchWrite_found {i : Nat} (hint : Nat) (who : Option Nat) (whole : s.poisoned (a / 256) = false) (inside : i < bs.length)
    (within : a % 256 + bs.length ≤ 256) : (s.touchWrite (a / 256) a bs hint who).2.peek (a + i) = bs.getD i 0 := by
  obtain ⟨t, there, stored⟩ := State.touchWrite_stored (a := a) (bs := bs) hint who (.inl whole)
  rw [stored, State.storeLine_peek _ _ _ _ _ there, if_pos (by omega), Nat.add_sub_cancel_left]

/-- A WRITE flit of a window in memory stores its bytes, and the window counts what was applied. -/
theorem State.applyFlit_of_write {h : Nat} {bytes : List Byte} (home : w.home = .memory) (kind : field bytes 6 1 = 0) (open' : w.total = none) :
    s.applyFlit h w bytes = (
      let r := s.flitWrite w (w.base + field bytes 10 6) ((bytes.drop 16).take (field bytes 8 1 + 1))
      r.2.2.setWindow h { w with applied := w.applied + r.1, poison := w.poison || r.2.1, flags := w.flags ||| 0 }) := by
  simp only [State.applyFlit, home, kind, open', Nat.zero_ne_one, if_false, reduceCtorEq]

end

/-- Settles O39: within one line the flit is one piece, which is stored whole and counted. -/
theorem flitsLand : Obligations.FlitsLand := by
  intro s h w bytes a n _ found home kind base length some_ within open' device local' noKv noPool passes whole near served
  subst length
  have landed := State.flitWrite_of_line some_ within device local' noKv noPool passes whole near served
  rw [State.applyFlit_of_write home kind open', ← base, landed]
  refine ⟨?_, fun i inside => ?_⟩
  · dsimp only
    rw [Bool.or_false, show w.flags ||| 0 = w.flags from BitVec.or_zero]
    exact (Map.find_put _ _ _ _).trans (if_pos rfl)
  · refine (State.touchWrite_found 0 none whole inside within).trans ?_
    have short : i < field bytes 8 1 + 1 := by
      have := List.length_take_le (field bytes 8 1 + 1) (bytes.drop 16)
      omega
    simp [short]

end Sys2Proof.Machine
end

section
/-! What messages, flits and ends leave of the peers, the ports and the windows of the light links (spec/11 R297-R299, R311, R314-R317). -/
namespace Sys2Proof.Machine

/-- No window that a DEVID opened is open, and no request of it waits for one. -/
def State.NoWindows (s : State) (k : Nat) : Prop := (∀ w ∈ s.lnk.windows, w.2.peer ≠ k) ∧ (∀ w ∈ s.lnk.winWait, w.1 ≠ k)

/-- `t` is `s` as its links' ends stand: each peer's state, incarnation and ports, the peer of each port; and no window is opened for a
DEVID that has none and waits for none. -/
structure State.Linked (s t : State) : Prop where
  peer : ∀ d, (t.peer d).st = (s.peer d).st ∧ (t.peer d).incarnation = (s.peer d).incarnation ∧ (t.peer d).ports = (s.peer d).ports
  port : ∀ p, (t.port p).peer = (s.port p).peer
  windows : ∀ k, s.NoWindows k → t.NoWindows k

theorem State.Linked.refl (s : State) : s.Linked s := ⟨fun _ => ⟨rfl, rfl, rfl⟩, fun _ => rfl, fun _ h => h⟩

theorem State.Linked.trans {s t u : State} (h : s.Linked t) (k : t.Linked u) : s.Linked u := by
  refine ⟨fun d => ?_, fun p => (k.port p).trans (h.port p), fun i none => k.windows i (h.windows i none)⟩
  obtain ⟨st, inc, ports⟩ := h.peer d
  obtain ⟨st', inc', ports'⟩ := k.peer d
  exact ⟨st'.trans st, inc'.trans inc, ports'.trans ports⟩

/-- A change that leaves the peers, the ports and the windows. -/
theorem State.Linked.of_tables {s t : State} (peers : t.lnk.peers = s.lnk.peers) (ports : t.lnk.ports = s.lnk.ports)
    (windows : t.lnk.windows = s.lnk.windows) (waits : t.lnk.winWait = s.lnk.winWait) : s.Linked t := by
  refine ⟨fun d => ?_, fun p => ?_, fun k => ?_⟩
  · rw [State.peer, peers]; exact ⟨rfl, rfl, rfl⟩
  · rw [State.port, ports]; rfl
  · unfold State.NoWindows; rw [windows, waits]; exact id

theorem State.Linked.of_lnk {s t : State} (h : t.lnk = s.lnk) : s.Linked t :=
  .of_tables (congrArg _ h) (congrArg _ h) (congrArg _ h) (congrArg _ h)

theorem State.Accessed.linked {s t : State} (h : s.Accessed t) : s.Linked t := .of_lnk h.lnk

theorem State.Ends.linked {s t : State} (h : s.Ends t) : s.Linked t := .of_lnk (by rw [h.state])

theorem State.Linked.foldl {α : Type} {f : State → α → State} (each : ∀ (t : State) a, t.Linked (f t a)) (l : List α) (s : State) :
    s.Linked (l.foldl f s) :=
  List.foldlRecOn (motive := fun t : State => s.Linked t) l f (.refl s) fun t h a _ => h.trans (each t a)

section
variable (s : State)

theorem State.setPeer_linked {d : Nat} {x : Peer} (st : x.st = (s.peer d).st) (inc : x.incarnation = (s.peer d).incarnation)
    (ports : x.ports = (s.peer d).ports) : s.Linked (s.setPeer d x) := by
  refine ⟨fun k => ?_, fun _ => rfl, fun _ none => none⟩
  rw [State.setPeer_peer]
  split
  next same => subst same; exact ⟨st, inc, ports⟩
  · exact ⟨rfl, rfl, rfl⟩

theorem State.setPort_linked {p : Nat} {x : Port} (peer : x.peer = (s.port p).peer) : s.Linked (s.setPort p x) := by
  refine ⟨fun _ => ⟨rfl, rfl, rfl⟩, fun k => ?_, fun _ none => none⟩
  rw [State.setPort_port]
  split
  next same => subst same; exact peer
  · rfl

/-! ### Messages -/

theorem State.emitCtrl_linked (d : Nat) (nak : Bool) (x : Nat × Nat × Nat × List Byte) : s.Linked (s.emitCtrl d nak x) := by
  unfold State.emitCtrl
  split
  · exact .refl s
  next q _ =>
    exact (s.setPort_linked (p := q) (x := { s.port q with place := max (s.port q).place ((s.port q).perFrame * (s.port q).frame) + 1 }) rfl).trans
      (.of_lnk rfl)

theorem State.transmit_linked (d : Nat) (msg : List Byte) (nak : Bool) (on : Option Nat) : s.Linked (s.transmit d msg nak on) := by
  unfold State.transmit
  extract_lets p q x port t
  have owed : s.Linked t := by
    unfold t
    split
    · exact s.setPort_linked rfl
    · exact .refl s
  have same := owed.peer d
  exact (owed.trans (t.setPeer_linked (x := { p with sendSeq := p.sendSeq + 1, sent := p.sent ++ [x], ackDue := false })
    same.1.symm same.2.1.symm same.2.2.symm)).trans (State.emitCtrl_linked _ _ _ _)

theorem State.queueMsg_linked (d : Nat) (msg : List Byte) : s.Linked (s.queueMsg d msg) := by
  unfold State.queueMsg
  dsimp only
  split
  · exact s.transmit_linked d msg _ _
  · exact s.setPeer_linked rfl rfl rfl

theorem State.sendMsg_linked (dst kind tag : Nat) (body : List Byte) : s.Linked (s.sendMsg dst kind tag body) := by
  unfold State.sendMsg
  split
  · exact .refl s
  · split
    · unfold State.strand
      split
      · exact .of_lnk rfl
      · exact .of_tables rfl rfl rfl rfl
    · exact s.queueMsg_linked _ _

theorem State.routeDrop_linked (src dst : Nat) : s.Linked (s.routeDrop src dst) := by
  unfold State.routeDrop
  dsimp only
  split
  · exact .of_lnk rfl
  · exact State.Linked.trans (t := s.tick1 lnkRouteDrop) (.of_lnk rfl) (State.sendMsg_linked _ _ _ _ _)

/-! ### Data flits -/

theorem State.flitOut_linked (p : Nat) (e : Nat × List Byte) : s.Linked (s.flitOut p e) := by
  unfold State.flitOut
  extract_lets _ t
  split
  next frame n placed moved =>
    extract_lets counted
    have held : s.Linked t := .of_tables rfl rfl rfl rfl
    have taken : t.Linked placed := by
      have same := congrArg (fun x : Nat × Nat × State => x.2.2) moved
      exact (show placed = _ from same.symm) ▸ t.setPort_linked rfl
    have noted : placed.Linked counted := by
      unfold counted
      split
      · exact .refl _
      · exact .of_lnk rfl
    exact ((held.trans taken).trans noted).trans ((counted.setPort_linked (p := p)
      (x := { counted.port p with credits := (counted.port p).credits - 1 }) rfl).trans (.of_lnk rfl))

theorem State.drainHeld_linked : ∀ (k : Nat) (s : State), s.Linked (s.drainHeld k)
  | 0, s => .refl s
  | k + 1, s => by
    unfold State.drainHeld
    split
    · exact .refl s
    next p e _ => exact (s.flitOut_linked p e).trans (State.drainHeld_linked k _)

theorem State.sendFlit_linked (dst : Nat) (bytes : List Byte) : s.Linked (s.sendFlit dst bytes) :=
  State.Linked.trans (t := { s with lnk := { s.lnk with held := s.lnk.held ++ [(dst, bytes)] } }) (.of_tables rfl rfl rfl rfl)
    (State.drainHeld_linked _ _)

theorem State.sendCodes_linked (cls dst h : Nat) (f : Fmt) (off : Nat) (cs : List Nat) : s.Linked (s.sendCodes cls dst h f off cs) :=
  List.foldlRecOn (motive := fun acc : Nat × State => s.Linked acc.2) _ _ (.refl s) fun _ same _ _ =>
    same.trans (State.Linked.foldl (fun t _ => t.sendFlit_linked _ _) _ _)

/-! ### Windows -/

theorem State.answerWindow_linked (src tag : Nat) (b : List Byte) {t : State} (h : s.Linked t) (mine : ∀ k, s.NoWindows k → src ≠ k) :
    s.Linked (t.answerWindow src tag b) := by
  unfold State.answerWindow
  extract_lets base len secure st
  split
  · refine (h.trans ?_).trans (State.sendMsg_linked _ _ _ _ _)
    split
    · exact ((State.Accessed.refl t).deny _ _ _).linked
    · exact .refl t
  · split
    · refine ⟨h.peer, h.port, fun k none => ⟨(h.windows k none).1, fun w member => ?_⟩⟩
      rcases List.mem_append.mp member with there | new
      · exact (h.windows k none).2 w there
      · rw [List.mem_singleton.mp new]
        exact mine k none
    next i _ =>
      have granted : s.Linked (t.setWindow i
          { peer := src, base := base, length := len, secure := secure, cls := bits (field b 12 1) 0 3, kind := field b 13 1, tag := tag }) := by
        refine ⟨h.peer, h.port, fun k none => ⟨fun w member => ?_, (h.windows k none).2⟩⟩
        rcases Map.mem_put member with rfl | there
        · exact mine k none
        · exact (h.windows k none).1 w there
      exact granted.trans (State.sendMsg_linked _ _ _ _ _)

theorem State.serveWaiting_linked : s.Linked s.serveWaiting := by
  have start : s.Linked { s with lnk := { s.lnk with winWait := [] } } :=
    ⟨fun _ => ⟨rfl, rfl, rfl⟩, fun _ => rfl, fun k none => ⟨none.1, by simp⟩⟩
  exact List.foldlRecOn (motive := fun t : State => s.Linked t) _ _ start fun t h w member =>
    s.answerWindow_linked w.1 w.2.1 w.2.2 h fun k none => none.2 w member

theorem State.closeWindow_linked (h : Nat) : s.Linked (s.closeWindow h) := by
  refine State.Linked.trans (t := { s with lnk := { s.lnk with windows := s.lnk.windows.del h } })
    ⟨fun _ => ⟨rfl, rfl, rfl⟩, fun _ => rfl, fun k none => ⟨fun w member => none.1 w (Map.mem_del.mp member).1, none.2⟩⟩
    (State.serveWaiting_linked _)

/-! ### The ends of COPY and COLLECTIVE -/

theorem State.fillCopies_linked (hub : Nat) : ∀ (k : Nat) (s : State), s.Linked (s.fillCopies hub k)
  | 0, s => .refl s
  | k + 1, s => by
    unfold State.fillCopies
    dsimp only
    split
    · exact .refl s
    next n _ r _ =>
      split
      · exact .refl s
      · exact State.Linked.trans (t := { s with lnk := { s.lnk with copies := s.lnk.copies.put n { r with busy := r.busy + 1 } } })
          (.of_tables rfl rfl rfl rfl) (State.fillCopies_linked hub k _)

theorem State.endCopy_linked (n own : Nat) : s.Linked (s.endCopy n own) := by
  unfold State.endCopy
  extract_lets hs _ t
  have over' : s.Linked t := .of_tables rfl rfl rfl rfl
  have closed := over'.trans (State.Linked.foldl State.closeWindow_linked hs t)
  have ended := closed.trans (State.finishWorst_ends (hs.foldl State.closeWindow t) n own).linked
  exact (ended.trans (State.fillCopies_linked 0 8 _)).trans (State.fillCopies_linked 1 8 _)

theorem State.toMembers_linked (r : CollRun) (rank : Nat) (body : Nat → List Byte) : s.Linked (s.toMembers r rank body) :=
  State.Linked.foldl (fun t _ => t.sendMsg_linked _ _ _ _) _ _

theorem State.setColl_linked (n : Nat) (r : CollRun) : s.Linked (s.setColl n r) := .of_tables rfl rfl rfl rfl

theorem State.raise_linked (n : Nat) (f : Flags) : s.Linked (s.raise n f) := by
  unfold State.raise
  split
  · exact .refl s
  · split
    · exact .refl s
    · exact .of_lnk rfl

theorem State.readStream_accessed (who : Requester) (t : TDesc) (k n : Nat) : s.Accessed (s.readStream who t k n).2 :=
  List.foldlRecOn (motive := fun acc : List Nat × State => s.Accessed acc.2) _ _ (.refl s) fun _ same _ _ =>
    same.trans (State.readElems_accessed _ _ _ _ _ _)

theorem State.writeStream_accessed (who : Requester) (t : TDesc) (k : Nat) (cs : List Nat) : s.Accessed (s.writeStream who t k cs) :=
  List.foldlRecOn (motive := fun u : State => s.Accessed u) _ _ (.refl s) fun _ same _ _ => same.writeFor _ _ _ _

theorem State.spreadResults_linked (n : Nat) (st : Stage) (r : CollRun) (k : Nat) (cs : List Nat) (own : Bool) (dests : List (Nat × Nat)) :
    s.Linked (s.spreadResults n st r k cs own dests) := by
  unfold State.spreadResults
  dsimp only
  generalize written : (if own = true then _ else s) = t
  have kept : s.Linked t := by
    rw [← written]
    split
    · exact (s.writeStream_accessed _ _ _ _).linked.trans (State.setColl_linked _ _ _)
    · exact .refl s
  exact kept.trans (State.Linked.foldl (fun u _ => u.sendCodes_linked _ _ _ _ _ _) _ _)

theorem State.finalRound_linked (n : Nat) : s.Linked (s.finalRound n) := by
  unfold State.finalRound
  split
  · dsimp only
    split
    · exact .refl s
    · exact (s.setColl_linked _ _).trans (State.toMembers_linked _ _ _ _)
  · exact .refl s

theorem State.collData_linked (n : Nat) (st : Stage) (r : CollRun) : s.Linked (s.collData n st r) := by
  unfold State.collData
  extract_lets d a rank r' t others u
  have begun : s.Linked t := s.setColl_linked _ _
  have sent : t.Linked u := by
    unfold u
    split
    · exact State.Linked.foldl (fun v p => (v.readStream_accessed _ _ _ _).linked.trans (State.sendCodes_linked _ _ _ _ _ _ _)) _ _
    · split
      · exact ((t.readStream_accessed _ _ _ _).linked.trans (State.raise_linked _ _ _)).trans (State.spreadResults_linked _ _ _ _ _ _ _ _)
      · exact .refl t
  exact (begun.trans sent).trans (u.finalRound_linked n)

theorem State.startColls_linked (hub : Nat) : ∀ (k : Nat) (s : State), s.Linked (s.startColls hub k)
  | 0, s => .refl s
  | k + 1, s => by
    unfold State.startColls
    dsimp only
    split
    · exact .refl s
    · split
      · exact .refl s
      · exact (s.collData_linked _ _ _).trans (State.startColls_linked hub k _)

theorem State.endColl_linked (n own : Nat) : s.Linked (s.endColl n own) := by
  unfold State.endColl
  extract_lets hs _ t
  have over' : s.Linked t := .of_tables rfl rfl rfl rfl
  have closed := over'.trans (State.Linked.foldl State.closeWindow_linked hs t)
  have ended := closed.trans (State.finishWorst_ends (hs.foldl State.closeWindow t) n own).linked
  exact ((ended.trans (u := (State.finishWorst _ n own).tick1 collDone) (.of_lnk rfl)).trans (State.startColls_linked 0 2 _)).trans
    (State.startColls_linked 1 2 _)

/-! ### A peer that is lost -/

theorem State.dropHeld_linked (d : Nat) : s.Linked (s.dropHeld d) := by
  unfold State.dropHeld
  extract_lets lost flits msgs _ t u
  have cut : s.Linked t := .of_tables rfl rfl rfl rfl
  have flown : t.Linked u := State.Linked.foldl (fun v _ => v.routeDrop_linked _ _) _ _
  exact (cut.trans flown).trans (State.Linked.foldl (fun v _ => v.routeDrop_linked _ _) _ _)

theorem State.dropForwarded_linked (p : Peer) : s.Linked (s.dropForwarded p) :=
  State.Linked.foldl (fun v _ => v.routeDrop_linked _ _) _ _

theorem State.meet_linked (n : Option Nat) (status : Nat) : s.Linked (s.meet n status) := ((State.Accessed.refl s).meet n status).linked

theorem State.loseStages_linked (d : Nat) : s.Linked (s.loseStages d) := by
  unfold State.loseStages
  extract_lets cs gs t u
  have copies : s.Linked t := State.Linked.foldl (fun v n => (v.meet_linked _ _).trans (State.endCopy_linked _ _ _)) _ _
  have colls : t.Linked u := State.Linked.foldl (fun v n => (v.meet_linked _ _).trans (State.endColl_linked _ _ _)) _ _
  refine (copies.trans colls).trans (State.Linked.foldl (fun v p => ?_) _ _)
  split
  · exact .refl v
  next st _ => exact State.Linked.trans (t := v.setStage p.1 { st with noIssue := true }) (.of_lnk rfl) (State.meet_linked _ _ _)

/-- A PRESENT peer that is lost keeps its incarnation, and has no port and no window any more. -/
theorem State.losePeer_lost {d : Nat} (cause : Nat) (present : (s.peer d).st = .present) :
    ((s.losePeer d cause).peer d).st = .lost ∧ ((s.losePeer d cause).peer d).incarnation = (s.peer d).incarnation
    ∧ ((s.losePeer d cause).peer d).ports = [] ∧ (s.losePeer d cause).NoWindows d
    ∧ ∀ p, ((s.losePeer d cause).port p).peer = (s.port p).peer := by
  unfold State.losePeer
  rw [if_neg (by simp [present])]
  extract_lets t u _ v
  have after := (((v.dropHeld_linked d).trans (State.dropForwarded_linked _ (s.peer d))).trans (State.loseStages_linked _ d)).trans
    (State.serveWaiting_linked _)
  have peer : v.peer d = { s.peer d with
      st := .lost, ports := [], ctrl := none, sendSeq := 0, sent := [], queued := [], recvSeq := 0, ackDue := false, nakDue := false } :=
    (State.setPeer_peer t d d _).trans (if_pos rfl)
  obtain ⟨st, inc, ports⟩ := after.peer d
  rw [peer] at st inc ports
  refine ⟨st, inc, ports, after.windows d ⟨fun w member => ?_, fun w member => ?_⟩, fun i => after.port i⟩
  · simpa using (List.mem_filter.mp member).2
  · simpa using (List.mem_filter.mp member).2

end

end Sys2Proof.Machine
end

section
/-! Peers and the time master (spec/11 R297, R307-R311). -/
namespace Sys2Proof.Machine

/-! ### HELLO -/

theorem Map.get_map_keyed {κ α : Type} [DecidableEq κ] (f : κ → α → α) : ∀ (m : Map κ α) (d : α) (k : κ), f k d = d →
    Map.get (m.map (fun p => (p.1, f p.1 p.2))) d k = f k (m.get d k)
  | [], _, _, still => still.symm
  | (k', a) :: m, d, k, still => by
    rw [List.map_cons, Map.get, Map.get]
    split
    next same => rw [same]
    · exact Map.get_map_keyed f m d k still

/-- A peer's entry once another than `d` has lost a port. -/
def Peer.without (x : Peer) (k port d : Nat) : Peer :=
  if k = d then x else { x with ports := x.ports.filter (· != port), ctrl := x.ctrl.filter (· != port) }

section
variable {s : State} {p d : Nat}

theorem State.freePort_peer {k : Nat} (other : k ≠ 1024 + p) : (s.freePort p d).peer k = (s.peer k).without k p d := by
  have peers : (s.freePort p d).lnk.peers
      = (s.lnk.peers.filter (fun q => q.1 != 1024 + p)).map (fun q => (q.1, q.2.without q.1 p d)) := by
    refine List.map_congr_left fun q _ => ?_
    unfold Peer.without
    split <;> rfl
  rw [State.peer, peers, Map.get_map_keyed (fun k (x : Peer) => x.without k p d) _ _ _ (by unfold Peer.without; split <;> rfl),
    Map.get_filter_key (fun k => k != 1024 + p), if_pos (by simpa using other)]
  rfl

/-- A refused HELLO makes the port mismatched, and no DEVID's. -/
theorem State.refuseHello_mismatched (s : State) (p : Nat) (b : List Byte) :
    ((s.refuseHello p b).port p).mismatched = true
    ∧ (∀ d, d < 1024 → (s.port p).mismatched = false → p ∉ ((s.refuseHello p b).peer d).ports) := by
  refine ⟨?_, fun d small matched => ?_⟩
  · exact congrArg Port.mismatched ((State.setPort_port _ p p _).trans (if_pos rfl))
  · have peer : (s.refuseHello p b).peer d = (s.freePort p 1024).peer d := by
      unfold State.refuseHello
      dsimp only
      rw [if_neg (by simp [matched])]
      rfl
    rw [peer, State.freePort_peer (by omega), Peer.without, if_neg (by omega)]
    simp

/-- The state in which an accepted HELLO finds its peer: the port is the peer's, which is LOST where a new incarnation speaks. -/
def State.greeted (s : State) (port d : Nat) (b : List Byte) : State :=
  let inc := field b 8 4
  let wired := match trayPeer s.lnk.tpos port with
    | none => true
    | some (a, q) => field b 2 1 == a && field b 3 1 == q
  let s := s.setPort port { s.port port with
    peer := some d, farPort := field b 3 1, tpos := field b 2 1, miswired := !wired, mismatched := false }
  let s := if wired then s else s.log 0x0205 port (d + 2 ^ 63)
  let s := if s.present d && decide ((s.peer d).incarnation < inc) then s.losePeer d 3 else s
  (s.freePort port d).keepCtrl (some d)

theorem State.greeted_peer (small : d < 1024) (b : List Byte) :
    ((s.greeted p d b).peer d).st = (if (s.peer d).st = .present ∧ (s.peer d).incarnation < field b 8 4 then .lost else (s.peer d).st)
    ∧ ((s.greeted p d b).peer d).incarnation = (s.peer d).incarnation ∧ ((s.greeted p d b).port p).peer = some d := by
  unfold State.greeted
  extract_lets inc wired _ t u v
  have logged : u.lnk = t.lnk := by
    unfold u
    split <;> rfl
  have peer : u.peer d = s.peer d := by rw [State.peer, logged]; rfl
  have port : (u.port p).peer = some d := by
    rw [State.port, logged]
    exact congrArg Port.peer ((State.setPort_port s p p _).trans (if_pos rfl))
  have met : (v.peer d).st = (if (s.peer d).st = .present ∧ (s.peer d).incarnation < field b 8 4 then .lost else (s.peer d).st)
      ∧ (v.peer d).incarnation = (s.peer d).incarnation ∧ (v.port p).peer = some d := by
    unfold v
    simp only [State.present, peer, Bool.and_eq_true, beq_iff_eq, decide_eq_true_eq]
    split
    next new =>
      obtain ⟨st, inc, _, _, ports⟩ := u.losePeer_lost (d := d) 3 (by rw [peer]; exact new.1)
      exact ⟨st, by rw [inc, peer], (ports p).trans port⟩
    · exact ⟨by rw [peer], by rw [peer], port⟩
  have kept : ((v.freePort p d).keepCtrl (some d)).peer d = { v.peer d with ctrl := (v.freePort p d).ctrlPort d } := by
    refine (State.setPeer_peer _ d d _).trans ((if_pos rfl).trans ?_)
    rw [State.freePort_peer (by omega), Peer.without, if_pos rfl]
  rw [kept]
  exact met

/-- The entry that an accepted HELLO writes for a peer which it does not leave LOST: a new incarnation's streams start anew (R300). -/
def Peer.heard (x : Peer) (port : Nat) (b : List Byte) : Peer :=
  { (if x.st = .lost ∨ x.st = .absent then {} else x : Peer) with
    st := x.st, incarnation := field b 8 4, serial := field b 12 8, ports := sortBy id (port :: x.ports.filter (· != port))
    master := field b 20 2, hops := field b 22 1 }

/-- What an accepted HELLO does with the entry `x` that it finds for its peer. -/
def State.greetPeer (t : State) (port d : Nat) (b : List Byte) (x : Peer) : State :=
  let st := match x.st with
    | .absent => .joining
    | .lost => if x.incarnation < field b 8 4 then .joining else .lost
    | .joining => .present
    | .present => .present
  if st = .lost then t
  else if x.st = .joining then (t.setPeer d (x.heard port b)).makePresent d
  else (t.setPeer d (x.heard port b)).setPeer d { x.heard port b with st := st }

theorem State.takeHello_eq (s : State) (p d : Nat) (b : List Byte) :
    s.takeHello p d b = (s.greeted p d b).greetPeer p d b ((s.greeted p d b).peer d) := rfl

theorem State.takeHello_of_lost {b : List Byte} {x : Peer} (found : (s.greeted p d b).peer d = x) (lost : x.st = .lost)
    (old : field b 8 4 ≤ x.incarnation) : s.takeHello p d b = s.greeted p d b := by
  have still : ¬ x.incarnation < field b 8 4 := Nat.not_lt.mpr old
  rw [State.takeHello_eq, found]
  simp only [State.greetPeer, lost, still, if_false, if_true]

theorem State.takeHello_of_new {b : List Byte} {x : Peer} (found : (s.greeted p d b).peer d = x)
    (new : x.st = .absent ∨ (x.st = .lost ∧ x.incarnation < field b 8 4)) :
    s.takeHello p d b = ((s.greeted p d b).setPeer d (x.heard p b)).setPeer d { x.heard p b with st := .joining } := by
  rw [State.takeHello_eq, found]
  rcases new with absent | ⟨lost, new⟩
  · simp only [State.greetPeer, absent, reduceCtorEq, if_false]
  · simp only [State.greetPeer, lost, new, reduceCtorEq, if_false, if_true]

theorem State.takeHello_of_joining {b : List Byte} {x : Peer} (found : (s.greeted p d b).peer d = x) (joining : x.st = .joining) :
    s.takeHello p d b = ((s.greeted p d b).setPeer d (x.heard p b)).makePresent d := by
  rw [State.takeHello_eq, found]
  simp only [State.greetPeer, joining, reduceCtorEq, if_false, if_true]

theorem State.takeHello_of_present {b : List Byte} {x : Peer} (found : (s.greeted p d b).peer d = x) (present : x.st = .present) :
    s.takeHello p d b = ((s.greeted p d b).setPeer d (x.heard p b)).setPeer d { x.heard p b with st := .present } := by
  rw [State.takeHello_eq, found]
  simp only [State.greetPeer, present, reduceCtorEq, if_false]

theorem State.setPeer_port (s : State) (d : Nat) (x : Peer) (j : Nat) : (s.setPeer d x).port j = s.port j := rfl

theorem State.makePresent_joining (joining : (s.peer d).st = .joining) :
    ((s.makePresent d).peer d).st = .present ∧ (s.makePresent d).lnk.ports = s.lnk.ports := by
  unfold State.makePresent
  rw [if_pos joining]
  extract_lets first _ t
  have ports : t.lnk.ports = s.lnk.ports := by
    unfold t
    split <;> rfl
  exact ⟨congrArg Peer.st ((State.setPeer_peer t d d _).trans (if_pos rfl)), ports⟩

theorem State.takeHello_port (s : State) (p d : Nat) (b : List Byte) (small : d < 1024) : ((s.takeHello p d b).port p).peer = some d := by
  have port := (s.greeted_peer (p := p) small b).2.2
  generalize found : (s.greeted p d b).peer d = x
  cases st : x.st with
  | absent => rw [State.takeHello_of_new found (.inl st), State.setPeer_port, State.setPeer_port, port]
  | lost =>
    by_cases new : x.incarnation < field b 8 4
    · rw [State.takeHello_of_new found (.inr ⟨st, new⟩), State.setPeer_port, State.setPeer_port, port]
    · rw [State.takeHello_of_lost found st (Nat.not_lt.mp new), port]
  | joining =>
    have joining : (((s.greeted p d b).setPeer d (x.heard p b)).peer d).st = .joining := by
      rw [State.setPeer_peer, if_pos rfl]
      exact st
    rw [State.takeHello_of_joining found st, State.port, (State.makePresent_joining joining).2]
    exact (congrArg Port.peer (State.setPeer_port _ d _ p)).trans port
  | present => rw [State.takeHello_of_present found st, State.setPeer_port, State.setPeer_port, port]

/-- A peer that an accepted HELLO makes JOINING begins its streams anew. -/
theorem State.takeHello_joins {b : List Byte} {x : Peer} (found : (s.greeted p d b).peer d = x)
    (new : x.st = .absent ∨ (x.st = .lost ∧ x.incarnation < field b 8 4)) :
    ((s.takeHello p d b).peer d).st = .joining ∧ ((s.takeHello p d b).peer d).recvSeq = 0 := by
  rw [State.takeHello_of_new found new, State.setPeer_peer, if_pos rfl]
  have fresh : x.st = .lost ∨ x.st = .absent := new.elim .inr fun h => .inl h.1
  exact ⟨rfl, by simp [Peer.heard, fresh]⟩

/-- What an accepted HELLO makes of a peer in each state. -/
theorem State.takeHello_cases (s : State) (p d : Nat) (b : List Byte) (small : d < 1024) :
    ((s.peer d).st = .absent → ((s.takeHello p d b).peer d).st = .joining)
    ∧ ((s.peer d).st = .joining → ((s.takeHello p d b).peer d).st = .present)
    ∧ ((s.peer d).st = .lost → field b 8 4 ≤ (s.peer d).incarnation → ((s.takeHello p d b).peer d).st = .lost)
    ∧ ((s.peer d).st = .lost ∨ (s.peer d).st = .present → (s.peer d).incarnation < field b 8 4 →
      ((s.takeHello p d b).peer d).st = .joining ∧ ((s.takeHello p d b).peer d).recvSeq = 0)
    ∧ ((s.takeHello p d b).port p).peer = some d := by
  obtain ⟨st, inc, -⟩ := s.greeted_peer (p := p) small b
  generalize found : (s.greeted p d b).peer d = x at st inc
  have same : ∀ k, (s.peer d).st = k → k ≠ .present → x.st = k := fun k e other => by
    rw [st, if_neg (by simp [e, other]), e]
  refine ⟨fun absent => (State.takeHello_joins found (.inl (same _ absent (by simp)))).1, fun joining => ?_, fun lost old => ?_,
    fun known new => State.takeHello_joins found (.inr ⟨?_, by rw [inc]; exact new⟩), s.takeHello_port p d b small⟩
  · have here := same _ joining (by simp)
    rw [State.takeHello_of_joining found here]
    refine (State.makePresent_joining ?_).1
    rw [State.setPeer_peer, if_pos rfl]
    exact here
  · have here := same _ lost (by simp)
    rw [State.takeHello_of_lost found here (by rw [inc]; exact old), found]
    exact here
  · rcases known with lost | present
    · exact same _ lost (by simp)
    · rw [st, if_pos ⟨present, new⟩]

theorem exec_hello_of_active {src : Nat} {body : List Byte} (active : (s.port p).st = .active) :
    exec (.hello p src body) s = .next ((
      let t := s.tick1 (lnkPort p lnkRx)
      let b := msgBody body
      if s.fatal then t
      else if msgOk 0x01 body = false then t.tick1 lnkBadMsg
      else
        let bad := t.refuseHello p b
        if field b 4 4 ≠ s.lnk.domain then bad.tick1 lnkDomainMismatch
        else if field b 0 2 = s.lnk.devid ∨ (s.present (field b 0 2) = true ∧ (s.peer (field b 0 2)).serial ≠ field b 12 8) then
          ({ bad with lnk := { bad.lnk with dupDevid := true } } : State).log 0x0205 p (field b 0 2)
        else t.takeHello p (field b 0 2) b).settle s) := by
  change answer s (if (s.port p).st ≠ .active then _ else _) = _
  rw [if_neg (Classical.not_not.mpr active)]
  change answer s (if s.fatal = true then _ else _) = _
  split
  · rfl
  · cases whole : msgOk 0x01 body with
    | false => rfl
    | true =>
      simp only [Bool.not_true, Bool.true_eq_false, Bool.false_eq_true, if_false]
      change answer s (if field (msgBody body) 4 4 ≠ s.lnk.domain then _ else if field (msgBody body) 0 2 = s.lnk.devid then _
        else if s.present (field (msgBody body) 0 2) = true ∧ (s.peer (field (msgBody body) 0 2)).serial ≠ field (msgBody body) 12 8 then _
        else _) = _
      by_cases own : field (msgBody body) 0 2 = s.lnk.devid
      · simp only [own, if_true, true_or] <;> rfl
      · simp only [own, if_false, false_or] <;> rfl

end

/-! ### Time -/

section
variable {s : State} {src : Nat} {body : List Byte}

theorem State.onMsg_of_present {kind : Nat} (act : Nat → List Byte → State) (whole : msgOk kind body = true) (present : s.present src = true)
    (alive : s.fatal = false) : s.onMsg src kind body act = act (msgTag body) (msgBody body) := by
  have here : ¬ ((s.peer src).st = .lost ∨ s.fatal = true) := by
    rw [State.present, beq_iff_eq] at present
    simp [present, alive]
  unfold State.onMsg
  rw [whole, if_neg (by simp), if_neg here]

theorem State.onMsg_of_bad {kind : Nat} (act : Nat → List Byte → State) (bad : msgOk kind body = false) :
    s.onMsg src kind body act = s.tick1 lnkBadMsg := by
  unfold State.onMsg
  rw [bad]
  rfl

theorem exec_time_of_present (whole : msgOk 0x03 body = true) (present : s.present src = true) (alive : s.fatal = false) :
    exec (.time src body) s = .next ((
      let b := msgBody body
      let t := field b 0 8; let echo := field b 8 8; let at_ := field b 16 8
      let u := if echo ≠ 0 ∧ s.timeHops.2 = some src then
          let v := s.followTime (t + ((s.time - echo) - (t - at_)) / 2)
          ({ v with lnk := { v.lnk with synced := true } } : State)
        else s
      u.setPeer src { s.peer src with stamp := (t, s.time) }).settle s) := by
  change answer s (s.onMsg src 0x03 body _) = _
  rw [State.onMsg_of_present _ whole present alive]
  simp only [present, Bool.not_true, Bool.false_eq_true, if_false, answer]

theorem State.followTime_ahead {theirs : Nat} (new : s.lnk.synced = false) (far : s.time + 1000000 < theirs) :
    s.followTime theirs = { s with time := theirs, lnk := { s.lnk with slew := 0, slewPhase := 0 } } := by
  unfold State.followTime
  exact if_pos ⟨by omega, new⟩

theorem State.followTime_slews {theirs : Nat} (slews : s.lnk.synced = true ∨ theirs ≤ s.time + 1000000) :
    s.followTime theirs = { s with lnk := { s.lnk with slew := (theirs : Int) - s.time } } := by
  unfold State.followTime
  refine if_neg ?_
  rintro ⟨far, new⟩
  rcases slews with e | e
  · rw [e] at new
    cases new
  · omega

theorem State.tickTime_time (s : State) : s.time ≤ s.tickTime.time ∧ s.tickTime.time ≤ s.time + 2
    ∧ (s.lnk.slew = 0 → s.tickTime.time = s.time + 1) ∧ (s.lnk.slewPhase + 1 < 10000 → s.tickTime.time = s.time + 1) := by
  unfold State.tickTime
  split
  · exact ⟨Nat.le_succ _, Nat.le_succ _, fun _ => rfl, fun _ => rfl⟩
  next slews =>
    split
    · exact ⟨Nat.le_succ _, Nat.le_succ _, fun _ => rfl, fun _ => rfl⟩
    next due =>
      refine ⟨?_, ?_, fun none => absurd none slews, fun early => absurd early due⟩
      · split
        · exact Nat.le_add_right _ _
        · exact Nat.le_refl _
      · split
        · exact Nat.le_refl _
        · exact Nat.le_add_right _ _

theorem exec_message_of_length (s : State) (src : Nat) (body : List Byte) :
    (body.length ≠ 26 → exec (.time src body) s = .next ((s.tick1 lnkBadMsg).settle s)
      ∧ exec (.winReq src body) s = .next ((s.tick1 lnkBadMsg).settle s)
      ∧ exec (.winDone src body) s = .next ((s.tick1 lnkBadMsg).settle s)
      ∧ exec (.readReq src body) s = .next ((s.tick1 lnkBadMsg).settle s)
      ∧ exec (.coll src body) s = .next ((s.tick1 lnkBadMsg).settle s))
    ∧ (body.length ≠ 10 → exec (.winGrant src body) s = .next ((s.tick1 lnkBadMsg).settle s)
      ∧ exec (.winDeny src body) s = .next ((s.tick1 lnkBadMsg).settle s)
      ∧ exec (.winEnd src body) s = .next ((s.tick1 lnkBadMsg).settle s)
      ∧ exec (.readEnd src body) s = .next ((s.tick1 lnkBadMsg).settle s)
      ∧ exec (.routeDrop src body) s = .next ((s.tick1 lnkBadMsg).settle s))
    ∧ (body.length = 10 → exec (.routeDrop src body) s = .next (s.settle s)) := by
  have counted : ∀ kind act, msgOk kind body = false → answer s (s.onMsg src kind body act) = .next ((s.tick1 lnkBadMsg).settle s) :=
    fun kind act bad => congrArg (answer s) (State.onMsg_of_bad act bad)
  have long : ∀ kind, (msgLen kind).getD 16 = 32 → body.length ≠ 26 → msgOk kind body = false := fun kind len other => by
    rw [msgOk, len]
    simpa using other
  have short : ∀ kind, (msgLen kind).getD 16 = 16 → body.length ≠ 10 → msgOk kind body = false := fun kind len other => by
    rw [msgOk, len]
    simpa using other
  refine ⟨fun other => ⟨counted 0x03 _ (long _ rfl other), counted 0x04 _ (long _ rfl other), counted 0x08 _ (long _ rfl other),
    counted 0x09 _ (long _ rfl other), counted 0x0B _ (long _ rfl other)⟩,
    fun other => ⟨counted 0x05 _ (short _ rfl other), counted 0x06 _ (short _ rfl other), counted 0x07 _ (short _ rfl other),
      counted 0x0A _ (short _ rfl other), counted 0x0E _ (short _ rfl other)⟩, fun whole => ?_⟩
  have good : msgOk 0x0E body = true := by
    rw [msgOk, whole]
    rfl
  change answer s (s.onMsg src 0x0E body _) = _
  unfold State.onMsg
  rw [good, Bool.not_true, if_neg Bool.false_ne_true, ite_self]
  rfl

end

/-- Settles O40: a HELLO by the rows of its table, a loss by what messages and ends leave of the peers, time by its three branches. -/
theorem peersAndTime : Obligations.PeersAndTime := by
  unfold Obligations.PeersAndTime
  refine ⟨⟨fun s p src body down => ?_, fun s p src body active alive whole domain other serial => ?_,
      fun s u p src body active alive whole domain clash refused => ?_, fun s p src body active => ⟨fun fatal => ?_, fun alive bad => ?_⟩,
      fun s p src body active alive whole domain => ⟨?_, s.refuseHello_mismatched p _⟩, fun s p d b small => s.takeHello_cases p d b small,
      fun s d present => ⟨rfl, fun up => ?_, fun down => ?_, fun cause => ?_⟩, fun s d lost => ?_, fun s => rfl, fun s alive => ?_,
      fun s => rfl, fun s src body whole present alive other => ?_,
      fun s u src t echo at_ body whole present alive ours echoed stamped follows answered followed => ?_⟩,
    ⟨fun s theirs new far => ?_, fun s theirs slews => ?_, State.tickTime_time⟩, exec_message_of_length⟩
  · change answer s (if (s.port p).st ≠ .active then _ else _) = _
    rw [if_pos down]
    rfl
  · rw [exec_hello_of_active active]
    have accepted : ¬ (field (msgBody body) 0 2 = s.lnk.devid ∨ (s.present (field (msgBody body) 0 2) = true
        ∧ (s.peer (field (msgBody body) 0 2)).serial ≠ field (msgBody body) 12 8)) := by
      rintro (e | ⟨present, differs⟩)
      · exact other e
      · exact differs (serial present)
    simp only [alive, whole, domain, accepted, Bool.false_eq_true, Bool.true_eq_false, ne_eq, not_true, if_false]
  · rw [exec_hello_of_active active, refused]
    simp only [alive, whole, domain, clash, Bool.false_eq_true, Bool.true_eq_false, ne_eq, not_true, if_false, if_true]
  · rw [exec_hello_of_active active]
    simp only [fatal, if_true]
  · rw [exec_hello_of_active active]
    simp only [alive, bad, Bool.false_eq_true, if_false, if_true]
  · rw [exec_hello_of_active active]
    simp only [alive, whole, domain, Bool.false_eq_true, Bool.true_eq_false, ne_eq, not_false_eq_true, if_false, if_true]
  · change answer s (if _ then _ else _) = _
    rw [if_pos up]
    rfl
  · change answer s (if _ then _ else _) = _
    rw [if_neg (by simp [down])]
    rfl
  · obtain ⟨st, _, ports, windows, _⟩ := s.losePeer_lost cause present
    exact ⟨st, ports, windows.1⟩
  · change answer s (if _ then _ else _) = _
    rw [if_pos lost]
    rfl
  · change answer s (if _ then _ else _) = _
    rw [if_neg (by simp [alive])]
    rfl
  · rw [exec_time_of_present whole present alive]
    simp only [other, and_false, if_false]
  · rw [exec_time_of_present whole present alive]
    subst ours echoed stamped
    simp only [follows, answered, ne_eq, not_false_eq_true, and_self, if_true, followed]
  · rw [State.followTime_ahead new far]
    exact ⟨rfl, rfl⟩
  · rw [State.followTime_slews slews]
    exact ⟨rfl, rfl⟩

end Sys2Proof.Machine
end

section
/-! An ACTIVE port that PORT_ENABLE rules out (spec/11 R304, R332). -/
namespace Sys2Proof.Machine

/-- Port 0 is ACTIVE and has just been ruled out by PORT_ENABLE. -/
def State.ruledOut : State :=
  { objs := [((0x5001, 1), [0])], lnk := { ports := [(0, { st := .active })] } }

theorem State.ruledOut_portRetrain : ((State.ruledOut.portRetrain 0 (causeCode .lockLost)).port 0).st = .disabled := rfl

/-- Refutes O41: an ACTIVE port that falls out while PORT_ENABLE rules it out is DISABLED, not in RETRAIN (R304, R332). -/
theorem not_portsAndLasers : ¬ Obligations.PortsAndLasers := by
  unfold Obligations.PortsAndLasers
  intro h
  obtain ⟨⟨training, -⟩, -⟩ := h
  obtain ⟨-, -, -, -, -, -, falls, -⟩ := training State.ruledOut 0
  obtain ⟨-, retrain, -⟩ := falls rfl .lockLost
  rw [State.ruledOut_portRetrain] at retrain
  cases retrain

end Sys2Proof.Machine
end

section
/-! Windows and reads of the light links (spec/11 R313, R314, R317, R319). -/
namespace Sys2Proof.Machine

/-! ### Messages that are whole -/

theorem msgOk_of_long {kind : Nat} {body : List Byte} (long : (msgLen kind).getD 16 = 32) (whole : body.length = 26) :
    msgOk kind body = true := by
  rw [msgOk, long, whole]
  rfl

theorem msgOk_of_short {kind : Nat} {body : List Byte} (short : (msgLen kind).getD 16 = 16) (whole : body.length = 10) :
    msgOk kind body = true := by
  rw [msgOk, short, whole]
  rfl

/-! ### What messages and flits leave -/

/-- `t` is `s` after messages and flits have been sent, or have begun to wait for a port: the ports, the peers' streams and what waits
apart, with the counters and the record of messages, it is `s`. -/
def State.Sent (s t : State) : Prop := t = { s with
  lnk := { s.lnk with ports := t.lnk.ports, peers := t.lnk.peers, heldMsgs := t.lnk.heldMsgs, held := t.lnk.held, turns := t.lnk.turns }
  ctrs := t.ctrs, out := t.out }

theorem State.Sent.refl (s : State) : s.Sent s := rfl

theorem State.Sent.trans {s t u : State} (h : s.Sent t) (k : t.Sent u) : s.Sent u := by
  unfold State.Sent at h k ⊢
  rw [k, h]

theorem State.Sent.foldl {α : Type} {f : State → α → State} (each : ∀ (t : State) a, t.Sent (f t a)) (l : List α) (s : State) :
    s.Sent (l.foldl f s) :=
  List.foldlRecOn (motive := fun t : State => s.Sent t) l f (.refl s) fun t h a _ => h.trans (each t a)

theorem State.emitCtrl_sent (s : State) (d : Nat) (nak : Bool) (x : Nat × Nat × Nat × List Byte) : s.Sent (s.emitCtrl d nak x) := by
  unfold State.emitCtrl
  split <;> rfl

theorem State.transmit_sent (s : State) (d : Nat) (msg : List Byte) (nak : Bool) (on : Option Nat) : s.Sent (s.transmit d msg nak on) := by
  unfold State.transmit
  extract_lets p q x port t
  have owed : s.Sent t := by
    unfold t
    split <;> rfl
  exact (owed.trans (u := t.setPeer d { p with sendSeq := p.sendSeq + 1, sent := p.sent ++ [x], ackDue := false }) rfl).trans
    (State.emitCtrl_sent _ _ _ _)

theorem State.queueMsg_sent (s : State) (d : Nat) (msg : List Byte) : s.Sent (s.queueMsg d msg) := by
  unfold State.queueMsg
  dsimp only
  split
  · exact s.transmit_sent d msg _ _
  · rfl

theorem State.sendMsg_sent (s : State) (dst kind tag : Nat) (body : List Byte) : s.Sent (s.sendMsg dst kind tag body) := by
  unfold State.sendMsg
  split
  · exact .refl s
  · split
    · unfold State.strand
      split <;> rfl
    · exact s.queueMsg_sent _ _

theorem State.flitOut_sent (s : State) (p : Nat) (e : Nat × List Byte) : s.Sent (s.flitOut p e) := by
  unfold State.flitOut
  extract_lets _ t
  split
  next frame n placed moved =>
    extract_lets counted
    have taken : t.Sent placed := by
      have same := congrArg (fun x : Nat × Nat × State => x.2.2) moved
      exact (show placed = _ from same.symm) ▸ rfl
    have noted : placed.Sent counted := by
      unfold counted
      split <;> rfl
    exact ((State.Sent.trans (t := t) rfl taken).trans noted).trans (State.Sent.trans
      (t := counted.setPort p { counted.port p with credits := (counted.port p).credits - 1 }) rfl rfl)

theorem State.drainHeld_sent : ∀ (k : Nat) (s : State), s.Sent (s.drainHeld k)
  | 0, s => .refl s
  | k + 1, s => by
    unfold State.drainHeld
    split
    · exact .refl s
    next p e _ => exact (s.flitOut_sent p e).trans (State.drainHeld_sent k _)

theorem State.sendFlit_sent (s : State) (dst : Nat) (bytes : List Byte) : s.Sent (s.sendFlit dst bytes) :=
  State.Sent.trans (t := { s with lnk := { s.lnk with held := s.lnk.held ++ [(dst, bytes)] } }) rfl (State.drainHeld_sent _ _)

theorem State.closeWindow_closed {s : State} (h : Nat) (none : s.lnk.winWait = []) : (s.closeWindow h).window h = .none := by
  rw [State.window, State.closeWindow, State.serveWaiting]
  dsimp only
  rw [none]
  exact (Map.find_del _ _ _).trans (if_pos rfl)

/-- A window that is done is closed, where no request waits for its place. -/
theorem State.doneWindow_closed {s : State} {h : Nat} (none : s.lnk.winWait = []) : (s.doneWindow h).window h = .none := by
  unfold State.doneWindow
  split
  next closed => exact closed
  next w _ =>
    extract_lets status
    have waits : (s.sendMsg w.peer 0x08 w.tag
        (toLE 2 h ++ toLE 6 w.applied ++ toLE 1 status ++ toLE 4 w.flags.toNat)).lnk.winWait = s.lnk.winWait := by
      rw [(s.sendMsg_sent _ _ _ _ : _ = _)]
    exact State.closeWindow_closed h (waits.trans none)

/-! ### Requests for windows and reads -/

theorem State.freeHandle_free {s : State} {h : Nat} (free : s.freeHandle = some h) : s.window h = none ∧ h < 4096 := by
  unfold State.freeHandle at free
  refine ⟨?_, List.mem_range.mp (List.mem_of_find?_eq_some free)⟩
  simpa using List.find?_some free

section
variable {s : State} {src tag : Nat} {b : List Byte}

theorem State.answerWindow_granted {h : Nat} (passes : s.windowCheck (bit (field b 11 1) 0) (field b 0 6) (field b 6 5) = 0)
    (idle : s.lnk.winWait = []) (free : s.freeHandle = some h) : s.answerWindow src tag b =
      (s.setWindow h { peer := src, base := field b 0 6, length := field b 6 5, secure := bit (field b 11 1) 0
                       cls := field b 12 1 % 8, kind := field b 13 1, tag := tag }).sendMsg src 0x05 tag (toLE 2 h) := by
  have cls : bits (field b 12 1) 0 3 = field b 12 1 % 8 := bits_zero _ 3
  simp only [State.answerWindow, passes, idle, free, cls, List.isEmpty_nil, ne_eq, not_true, if_false, if_true]

theorem State.answerWindow_waits (passes : s.windowCheck (bit (field b 11 1) 0) (field b 0 6) (field b 6 5) = 0)
    (waits : s.lnk.winWait ≠ [] ∨ s.freeHandle = none) :
    s.answerWindow src tag b = { s with lnk := { s.lnk with winWait := s.lnk.winWait ++ [(src, tag, b)] } } := by
  have none : (if s.lnk.winWait.isEmpty = true then s.freeHandle else none) = .none := by
    rcases waits with e | e
    · rw [if_neg (by simpa using e)]
    · rw [e, ite_self]
  simp only [State.answerWindow, passes, none, ne_eq, not_true, if_false]

theorem State.answerWindow_denied {st : Nat} (check : s.windowCheck (bit (field b 11 1) 0) (field b 0 6) (field b 6 5) = st)
    (fails : st ≠ 0) : s.answerWindow src tag b =
      (if st = 4 then s.deny (bit (field b 11 1) 0) 0x7E (field b 0 6) else s).sendMsg src 0x06 tag (toLE 1 st) := by
  simp only [State.answerWindow, check, fails, ne_eq, not_false_eq_true, if_true]

end

section
variable {s : State} {src : Nat} {body : List Byte}

theorem exec_winReq_of_present (present : s.present src = true) (alive : s.fatal = false) (whole : body.length = 26) :
    exec (.winReq src body) s = .next ((s.answerWindow src (msgTag body) (msgBody body)).settle s) := by
  change answer s (s.onMsg src 0x04 body _) = _
  rw [State.onMsg_of_present _ (msgOk_of_long rfl whole) present alive]
  rfl

theorem exec_readReq_of_present {st : Nat} (present : s.present src = true) (alive : s.fatal = false) (whole : body.length = 26)
    (check : st = if 2 ^ 20 < field (msgBody body) 6 4 then 3
      else s.windowCheck (bit (field (msgBody body) 18 1) 0) (field (msgBody body) 0 6) (field (msgBody body) 6 4)) :
    exec (.readReq src body) s = .next ((if st ≠ 0 then
        (if st = 4 then s.deny (bit (field (msgBody body) 18 1) 0) 0x7E (field (msgBody body) 0 6) else s).sendMsg src 0x0A (msgTag body)
          (toLE 2 (field (msgBody body) 10 2) ++ toLE 1 st)
      else (s.serveRead src (field (msgBody body) 10 2) (field (msgBody body) 12 6) (field (msgBody body) 19 1 % 8)
        (bit (field (msgBody body) 18 1) 0) (field (msgBody body) 0 6) (field (msgBody body) 6 4)).sendMsg src 0x0A (msgTag body)
          (toLE 2 (field (msgBody body) 10 2) ++ toLE 1 0)).settle s) := by
  have cls : bits (field (msgBody body) 19 1) 0 3 = field (msgBody body) 19 1 % 8 := bits_zero _ 3
  change answer s (s.onMsg src 0x09 body _) = _
  rw [State.onMsg_of_present _ (msgOk_of_long rfl whole) present alive]
  simp only [← check, cls, answer]

/-- A WIN_DONE notes the outcome of the window of a peer that it names. -/
def State.noteDone (s : State) (src : Nat) (b : List Byte) : State :=
  { s with lnk := { s.lnk with outWins := s.lnk.outWins.map (fun (w : OutWin) =>
      if w.peer = src ∧ w.handle = field b 0 2 ∧ w.status.isNone then
        { w with status := some (field b 8 1), flags := BitVec.ofNat 32 (field b 9 4) }
      else w) } }

theorem exec_winDone_of_present (present : s.present src = true) (alive : s.fatal = false) (whole : body.length = 26) :
    exec (.winDone src body) s = .next ((s.noteDone src (msgBody body)).settle s) := by
  change answer s (s.onMsg src 0x08 body _) = _
  rw [State.onMsg_of_present _ (msgOk_of_long rfl whole) present alive]
  rfl

theorem State.noteDone_settled (s : State) (src : Nat) (b : List Byte) :
    ((s.noteDone src b).settle s).lnk = (s.noteDone src b).lnk ∧ ((s.noteDone src b).settle s).dsp = s.dsp
    ∧ ((s.noteDone src b).settle s).mem = s.mem :=
  have still : ((s.noteDone src b).mem.stalled && !s.mem.stalled) = false := Bool.and_not_self _
  ⟨State.settle_lnk _ _ still, State.settle_dsp _ _ still, State.settle_mem _ _ still⟩

/-! ### The ends of windows and reads -/

theorem exec_winEnd_of_window {w : LinkWindow} (present : s.present src = true) (alive : s.fatal = false) (whole : body.length = 10)
    (found : s.window (field (msgBody body) 0 2) = some w) (peer : w.peer = src) (home : w.home = .memory) :
    exec (.winEnd src body) s = .next ((
      let u := s.setWindow (field (msgBody body) 0 2) { w with total := some (field (msgBody body) 2 6) }
      if field (msgBody body) 2 6 = w.applied then u.doneWindow (field (msgBody body) 0 2) else u).settle s) := by
  change answer s (s.onMsg src 0x07 body _) = _
  rw [State.onMsg_of_present _ (msgOk_of_short rfl whole) present alive]
  simp only [found, peer, home, ne_eq, not_true, or_self, if_false, Option.some.injEq, answer]

theorem exec_winEnd_of_other (present : s.present src = true) (alive : s.fatal = false) (whole : body.length = 10)
    (other : ∀ w, s.window (field (msgBody body) 0 2) = some w → w.peer ≠ src ∨ w.home ≠ .memory) :
    exec (.winEnd src body) s = .next (s.settle s) := by
  change answer s (s.onMsg src 0x07 body _) = _
  rw [State.onMsg_of_present _ (msgOk_of_short rfl whole) present alive]
  cases found : s.window (field (msgBody body) 0 2) with
  | none => simp only [found, answer]
  | some w => simp only [found, other w found, if_true, answer]

theorem exec_winGrant_of_copy {n : Nat} {run : CopyRun} {st : Stage} (present : s.present src = true) (alive : s.fatal = false)
    (whole : body.length = 10) (stage : s.stage n = some st)
    (found : s.lnk.copies.find? (fun p => !p.2.reading && p.2.peer == some src && p.2.tag == msgTag body && p.2.handle.isNone) = some (n, run)) :
    exec (.winGrant src body) s = .next (({ s with lnk := { s.lnk with
        copies := s.lnk.copies.put n { run with handle := some (field (msgBody body) 0 2) }
        outWins := s.lnk.outWins ++ [{ ring := st.ring, seq := st.seq, peer := src, handle := field (msgBody body) 0 2 }] } }
          : State).startPieces.settle s) := by
  change answer s (s.onMsg src 0x05 body _) = _
  rw [State.onMsg_of_present _ (msgOk_of_short rfl whole) present alive]
  simp only [found, stage, answer]

theorem exec_winDeny_of_copy {n : Nat} {run : CopyRun} (present : s.present src = true) (alive : s.fatal = false) (whole : body.length = 10)
    (found : s.lnk.copies.find? (fun p => !p.2.reading && p.2.peer == some src && p.2.tag == msgTag body && p.2.handle.isNone) = some (n, run)) :
    exec (.winDeny src body) s = .next (({ s.meet (some n) (field (msgBody body) 0 1) with lnk := {
      (s.meet (some n) (field (msgBody body) 0 1)).lnk with
        copies := (s.meet (some n) (field (msgBody body) 0 1)).lnk.copies.put n { run with denied := true } } } : State).startPieces.settle s) := by
  change answer s (s.onMsg src 0x06 body _) = _
  rw [State.onMsg_of_present _ (msgOk_of_short rfl whole) present alive]
  simp only [found, answer]

theorem exec_readEnd_of_run {n : Nat} {run : CopyRun} (present : s.present src = true) (alive : s.fatal = false) (whole : body.length = 10)
    (found : s.lnk.copies.find? (fun p => p.2.reading && p.2.peer == some src && p.2.runs.any (fun x => x.1 == msgTag body)) = some (n, run)) :
    exec (.readEnd src body) s = .next ((
      let st := field (msgBody body) 2 1
      let runs := if st = 0 then run.runs.map (fun x => if x.1 = msgTag body then (x.1, x.2.1, x.2.2.1, true) else x)
        else run.runs.filter (fun x => x.1 != msgTag body)
      let t : State := { s with lnk := { s.lnk with copies := s.lnk.copies.put n { run with runs := runs } } }
      (if st = 0 then t else t.meet (some n) st).settleCopy n).settle s) := by
  change answer s (s.onMsg src 0x0A body _) = _
  rw [State.onMsg_of_present _ (msgOk_of_short rfl whole) present alive]
  simp only [found, answer]

end

/-- Settles O42: what a message from a PRESENT peer does, case by case. -/
theorem windows : Obligations.Windows := by
  unfold Obligations.Windows
  refine ⟨fun s src body present alive whole => ⟨fun h passes idle free => ⟨?_, State.freeHandle_free free⟩, fun passes waits => ?_,
      fun fails => ?_, fun fails => ?_, ?_, fun win base len off eb el ew eo small passes => ?_,
      fun st check fails => ?_⟩,
    fun s src body w present alive whole found peer home => ⟨fun more => ?_, fun all => ?_⟩,
    fun s src body present alive whole other => exec_winEnd_of_other present alive whole other,
    fun s h w found total => ⟨?_, State.doneWindow_closed⟩,
    fun s src n body run present alive whole found => ⟨fun st stage => exec_winGrant_of_copy present alive whole stage found, fun u met => ?_⟩,
    fun s src n body run present alive whole found => ⟨fun good => ?_, fun bad => ?_⟩⟩
  · rw [exec_winReq_of_present present alive whole, State.answerWindow_granted passes idle free]
  · rw [exec_winReq_of_present present alive whole, State.answerWindow_waits passes waits]
  · rw [exec_winReq_of_present present alive whole, State.answerWindow_denied fails (by decide), if_neg (by decide)]
  · rw [exec_winReq_of_present present alive whole, State.answerWindow_denied fails (by decide), if_pos rfl]
  · obtain ⟨lnk, dsp, mem⟩ := s.noteDone_settled src (msgBody body)
    exact ⟨_, exec_winDone_of_present present alive whole, by rw [lnk]; rfl, by rw [lnk]; rfl, dsp, mem⟩
  · subst eb el ew eo
    rw [exec_readReq_of_present (st := 0) present alive whole (by rw [if_neg (Nat.not_lt.mpr small), passes])]
    rfl
  · rw [exec_readReq_of_present present alive whole check, if_pos fails]
  · rw [exec_winEnd_of_window present alive whole found peer home, if_neg more]
  · rw [exec_winEnd_of_window present alive whole found peer home, if_pos all, all]
  · change execWinDoneTimeout h s = _
    simp only [execWinDoneTimeout, found, total, if_true, answer]
  · rw [exec_winDeny_of_copy present alive whole found, met]
  · rw [exec_readEnd_of_run present alive whole found]
    simp only [good, if_true]
  · rw [exec_readEnd_of_run present alive whole found]
    simp only [bad, if_false]

end Sys2Proof.Machine
end

section
/-! COPY (spec/11 R315-R319). -/
namespace Sys2Proof.Machine

/-! ### The run of a COPY that ends -/

/-- `t` has the runs and what else the light links keep of `s`; messages may have been sent and windows closed and opened. -/
def State.LinksKept (s t : State) : Prop := t.lnk = { s.lnk with
  ports := t.lnk.ports, peers := t.lnk.peers, heldMsgs := t.lnk.heldMsgs, held := t.lnk.held, turns := t.lnk.turns
  windows := t.lnk.windows, winWait := t.lnk.winWait }

theorem State.LinksKept.refl (s : State) : s.LinksKept s := rfl

theorem State.LinksKept.trans {s t u : State} (h : s.LinksKept t) (k : t.LinksKept u) : s.LinksKept u := by
  unfold State.LinksKept at h k ⊢
  rw [k, h]

theorem State.LinksKept.of_lnk {s t : State} (same : t.lnk = s.lnk) : s.LinksKept t := by
  rw [State.LinksKept, same]

theorem State.LinksKept.copies {s t : State} (h : s.LinksKept t) : t.lnk.copies = s.lnk.copies := by
  rw [(h : _ = _)]

theorem State.LinksKept.colls {s t : State} (h : s.LinksKept t) : t.lnk.colls = s.lnk.colls := by
  rw [(h : _ = _)]

theorem State.Sent.linksKept {s t : State} (h : s.Sent t) : s.LinksKept t := by
  unfold State.Sent at h
  rw [h]
  rfl

theorem State.answerWindow_linksKept (s : State) (src tag : Nat) (b : List Byte) : s.LinksKept (s.answerWindow src tag b) := by
  unfold State.answerWindow
  extract_lets base len secure st
  split
  · refine State.LinksKept.trans ?_ (State.sendMsg_sent _ _ _ _ _).linksKept
    split
    · exact .of_lnk ((State.Accessed.refl s).deny _ _ _).lnk
    · exact .refl s
  · split
    · rfl
    next h _ =>
      exact State.LinksKept.trans (t := s.setWindow h
        { peer := src, base := base, length := len, secure := secure, cls := bits (field b 12 1) 0 3, kind := field b 13 1, tag := tag })
        rfl (State.sendMsg_sent _ _ _ _ _).linksKept

theorem State.closeWindow_linksKept (s : State) (h : Nat) : s.LinksKept (s.closeWindow h) :=
  List.foldlRecOn (motive := fun t : State => s.LinksKept t) _ _ rfl fun t same _ _ => same.trans (State.answerWindow_linksKept t _ _ _)

theorem State.closeWindows_linksKept (s : State) (hs : List Nat) : s.LinksKept (hs.foldl State.closeWindow s) :=
  List.foldlRecOn (motive := fun t : State => s.LinksKept t) _ _ (.refl s) fun t same h _ => same.trans (t.closeWindow_linksKept h)

theorem State.finishWorst_linksKept (s : State) (n own : Nat) : s.LinksKept (s.finishWorst n own) :=
  .of_lnk (by rw [(s.finishWorst_ends n own).state])

theorem Map.find_ne_none_of_mem {κ α : Type} [DecidableEq κ] : ∀ {m : Map κ α} {p : κ × α}, p ∈ m → m.find p.1 ≠ none
  | (k, a) :: m, p, member => by
    rw [Map.find]
    split
    · exact Option.some_ne_none a
    next other =>
      rcases List.mem_cons.mp member with rfl | rest
      · exact absurd rfl other
      · exact Map.find_ne_none_of_mem rest

theorem insertBy_subset {α : Type} {key : α → Nat} {a : α} : ∀ (l : List α), insertBy key a l ⊆ a :: l
  | [] => List.Subset.refl _
  | b :: bs => by
    rw [insertBy]
    split
    · exact List.Subset.refl _
    · intro x member
      rcases List.mem_cons.mp member with rfl | rest
      · exact List.mem_cons_of_mem _ List.mem_cons_self
      · rcases List.mem_cons.mp (insertBy_subset bs rest) with rfl | there
        · exact List.mem_cons_self
        · exact List.mem_cons_of_mem _ (List.mem_cons_of_mem _ there)

theorem sortBy_subset {α : Type} (key : α → Nat) (l : List α) : sortBy key l ⊆ l :=
  List.foldlRecOn (motive := fun acc : List α => acc ⊆ l) l _ (List.nil_subset l) fun acc same _ member =>
    List.Subset.trans (insertBy_subset acc) (List.cons_subset.mpr ⟨member, same⟩)

theorem State.mem_copyQueue {s : State} {hub : Nat} {x : Nat × Stage × CopyRun} (member : x ∈ s.copyQueue hub) :
    s.lnk.copies.find x.1 ≠ none := by
  obtain ⟨p, listed, same⟩ := List.mem_filterMap.mp (sortBy_subset _ _ member)
  obtain ⟨st, -, same⟩ := Option.bind_eq_some_iff.mp same
  split at same
  · rw [← Option.some.inj same]
    exact Map.find_ne_none_of_mem listed
  · exact absurd same (by simp)

/-- Engines take pieces of the runs that are kept only. -/
theorem State.fillCopies_absent {n : Nat} (hub : Nat) : ∀ (k : Nat) {s : State}, s.lnk.copies.find n = none →
    (s.fillCopies hub k).lnk.copies.find n = none
  | 0, _, absent => absent
  | k + 1, s, absent => by
    unfold State.fillCopies
    extract_lets q top
    split
    · exact absent
    next m _ r taken =>
      split
      · exact absent
      · refine State.fillCopies_absent hub k ((Map.find_put _ _ _ _).trans ?_)
        rw [if_neg, absent]
        rintro rfl
        exact State.mem_copyQueue (List.mem_of_find?_eq_some taken) absent

theorem State.endCopy_absent (s : State) (n own : Nat) : (s.endCopy n own).lnk.copies.find n = none := by
  unfold State.endCopy
  extract_lets hs _ t
  have ended := ((t.closeWindows_linksKept hs).trans (State.finishWorst_linksKept _ n own)).copies
  refine State.fillCopies_absent 1 8 (State.fillCopies_absent 0 8 ?_)
  rw [ended]
  exact (Map.find_del _ _ _).trans (if_pos rfl)

/-! ### The pieces -/

theorem State.raise_lnk (s : State) (n : Nat) (f : Flags) : (s.raise n f).lnk = s.lnk := by
  unfold State.raise
  split
  · rfl
  · split <;> rfl

theorem State.copyBytesOf_lnk (s : State) (n : Nat) (st : Stage) (r e0 : Nat) (xs : List Nat) :
    (s.copyBytesOf n st r e0 xs).2.lnk = s.lnk := by
  unfold State.copyBytesOf
  extract_lets o
  split
  · rfl
  · exact s.raise_lnk n _

theorem State.pieceSegments_lnk (s : State) (n : Nat) (st : Stage) (rows : List (Nat × Nat × Nat)) :
    (s.pieceSegments n st rows).2.lnk = s.lnk :=
  List.foldlRecOn (motive := fun acc : List (Nat × List Byte) × State => acc.2.lnk = s.lnk) _ _ rfl fun acc same p _ => by
    have read := (State.readElems_accessed acc.2 (st.who n) (dTd st.desc 0) p.1 p.2.1 p.2.2).lnk
    have taken := State.copyBytesOf_lnk (acc.2.readElems (st.who n) (dTd st.desc 0) p.1 p.2.1 p.2.2).2 n st p.1 p.2.1
      (acc.2.readElems (st.who n) (dTd st.desc 0) p.1 p.2.1 p.2.2).1
    dsimp only
    split
    next u got => exact (congrArg (fun x => x.2.lnk) got).symm.trans (taken.trans (read.trans same))
    next u got => exact (congrArg (fun x => x.2.lnk) got).symm.trans (taken.trans (read.trans same))

section
variable {s : State} {n : Nat} {st : Stage} {run : CopyRun}

theorem State.copyPiece_local (here : run.peer = none) :
    s.copyPiece n st run = (0, (pieceRows (dTd st.desc 2) run.piece).foldl (fun (s : State) p =>
      (s.readElems (st.who n) (dTd st.desc 0) p.1 p.2.1 p.2.2).2.copyElems n st p.1 p.2.1
        (s.readElems (st.who n) (dTd st.desc 0) p.1 p.2.1 p.2.2).1) s) := by
  simp only [State.copyPiece, here]

theorem State.copyPiece_denied (far : run.peer.isSome = true) (denied : run.denied = true) :
    (s.copyPiece n st run).1 = 0 ∧ (s.copyPiece n st run).2.lnk.held = s.lnk.held := by
  obtain ⟨d, peer⟩ := Option.isSome_iff_exists.mp far
  simp only [State.copyPiece, peer, denied, if_true, State.pieceSegments_lnk, and_self]

theorem State.copyEnd_waits (found : s.stage n = some st) (kept : s.lnk.copies.find n = some run)
    (waits : run.piece < copyPieces (dTd st.desc 2) ∨ s.copyHolds run = true) : s.copyEnd n = s := by
  simp only [State.copyEnd, found, kept]
  split
  · rfl
  next all => rw [if_pos (waits.resolve_left all)]

theorem State.copyEnd_granted (found : s.stage n = some st) (kept : s.lnk.copies.find n = some run)
    (all : copyPieces (dTd st.desc 2) ≤ run.piece) (left : s.copyHolds run = false) {d h : Nat} (peer : run.peer = some d)
    (granted : run.handle = some h) :
    s.copyEnd n = (s.sendMsg d 0x07 run.tag (toLE 2 h ++ toLE 6 run.sent)).endCopy n 0 := by
  simp only [State.copyEnd, found, kept, left, peer, granted, if_neg (Nat.not_lt_of_le all), Bool.false_eq_true, if_false]

theorem State.copyEnd_silent (found : s.stage n = some st) (kept : s.lnk.copies.find n = some run)
    (all : copyPieces (dTd st.desc 2) ≤ run.piece) (left : s.copyHolds run = false) (silent : run.peer = none ∨ run.handle = none) :
    s.copyEnd n = s.endCopy n 0 := by
  simp only [State.copyEnd, found, kept, left, if_neg (Nat.not_lt_of_le all), Bool.false_eq_true, if_false]
  split
  next d h peer granted => exact absurd silent (by simp [peer, granted])
  · rfl

/-! ### Starts and pieces that complete -/

theorem exec_copyPieceComplete_idle (found : s.stage n = some st) (kept : s.lnk.copies.find n = some run) (idle : run.busy = 0) :
    exec (.copyPieceComplete n) s = .next ((if st.ending then s.stopCopy n else s.copyEnd n).settle s) := by
  change execCopyPieceComplete n s = _
  simp only [execCopyPieceComplete, found, kept, idle, if_true, answer]

theorem exec_copyPieceComplete_waits (found : s.stage n = some st) (kept : s.lnk.copies.find n = some run) (busy : run.busy ≠ 0)
    (holds : s.copyHolds run = true) (goes : st.ending = false) : exec (.copyPieceComplete n) s = .next (s.settle s) := by
  change execCopyPieceComplete n s = _
  simp only [execCopyPieceComplete, found, kept, if_neg busy, holds, goes, Bool.not_false, Bool.and_self, if_true, answer]

theorem exec_copyPieceComplete_done {k : Nat} {u : State} (found : s.stage n = some st) (kept : s.lnk.copies.find n = some run)
    (busy : run.busy ≠ 0) (goes : s.copyHolds run = false ∨ st.ending = true) (piece : s.copyPiece n st run = (k, u)) :
    exec (.copyPieceComplete n) s
      = .next ((if st.ending then (u.pieceDone n k).stopCopy n else (u.pieceDone n k).copyEnd n).settle s) := by
  change execCopyPieceComplete n s = _
  have passes : ¬(s.copyHolds run && !st.ending) = true := by
    rcases goes with e | e <;> simp [e]
  simp only [execCopyPieceComplete, found, kept, if_neg busy, if_neg passes, piece, answer]

variable (found : s.stage n = some st) (running : st.phase = .running) (copy : st.opcode = 0x0C) (first : s.lnk.copies.find n = none)
include found running copy first

omit found in
theorem exec_copyStart_of_running : exec (.copyStart n) s = execCopyStart n s ∧
    ¬(st.phase ≠ .running ∨ st.opcode ≠ 0x0C ∨ (s.lnk.copies.find n).isSome = true) :=
  ⟨rfl, by simp [running, copy, first]⟩

theorem exec_copyStart_here (dst : (dTd st.desc 2).devid = s.lnk.devid) (src : (dTd st.desc 0).devid = s.lnk.devid) :
    exec (.copyStart n) s = .next (({ s with lnk := { s.lnk with copies := s.lnk.copies.put n {} } } : State).startPieces.settle s) := by
  obtain ⟨same, passes⟩ := exec_copyStart_of_running (n := n) running copy first
  rw [same]
  simp only [execCopyStart, found, answer]
  rw [if_neg passes, if_neg (Classical.not_not.mpr dst), if_neg (Classical.not_not.mpr src)]

theorem exec_copyStart_towards (dst : (dTd st.desc 2).devid ≠ s.lnk.devid) (present : s.present (dTd st.desc 2).devid = true) :
    exec (.copyStart n) s = .next ((({ s with lnk := { s.lnk with
        nextTag := (s.lnk.nextTag + 1) % 65536
        copies := s.lnk.copies.put n { peer := some (dTd st.desc 2).devid, tag := s.lnk.nextTag } } } : State).sendMsg
          (dTd st.desc 2).devid 0x04 s.lnk.nextTag (toLE 6 (dTd st.desc 2).lbase ++ toLE 5 (dTd st.desc 2).span
            ++ toLE 1 (b2n st.secure) ++ toLE 1 st.cls ++ toLE 1 (b2n (copyAtomic st.desc)))).settle s) := by
  obtain ⟨same, passes⟩ := exec_copyStart_of_running (n := n) running copy first
  rw [same]
  simp only [execCopyStart, found, answer]
  rw [if_neg passes, if_pos dst, if_neg (by simp [present])]
  rfl

theorem exec_copyStart_lost (dst : (dTd st.desc 2).devid ≠ s.lnk.devid) (gone : s.present (dTd st.desc 2).devid = false) :
    exec (.copyStart n) s = .next ((s.finishWorst n 9).settle s) := by
  obtain ⟨same, passes⟩ := exec_copyStart_of_running (n := n) running copy first
  rw [same]
  simp only [execCopyStart, found, answer]
  rw [if_neg passes, if_pos dst, if_pos (by simp [gone])]

variable (dst : (dTd st.desc 2).devid = s.lnk.devid) (src : (dTd st.desc 0).devid ≠ s.lnk.devid)
include dst src

theorem exec_copyStart_lost_source (gone : s.present (dTd st.desc 0).devid = false) :
    exec (.copyStart n) s = .next ((s.finishWorst n 9).settle s) := by
  obtain ⟨same, passes⟩ := exec_copyStart_of_running (n := n) running copy first
  rw [same]
  simp only [execCopyStart, found, answer]
  rw [if_neg passes, if_neg (Classical.not_not.mpr dst), if_pos src, if_pos (by simp [gone])]

theorem exec_copyStart_full (present : s.present (dTd st.desc 0).devid = true) (full : s.freeHandle = none) :
    exec (.copyStart n) s = .next (s.settle s) := by
  obtain ⟨same, passes⟩ := exec_copyStart_of_running (n := n) running copy first
  rw [same]
  simp only [execCopyStart, found, answer, full]
  rw [if_neg passes, if_neg (Classical.not_not.mpr dst), if_pos src, if_neg (by simp [present])]

theorem exec_copyStart_from {h : Nat} {u : State} {run : CopyRun} (present : s.present (dTd st.desc 0).devid = true)
    (free : s.freeHandle = some h) (opened : u = s.setWindow h
      { peer := (dTd st.desc 0).devid, base := (dTd st.desc 2).lbase, length := (dTd st.desc 0).rows * (dTd st.desc 0).rowBytes
        secure := st.secure, cls := st.cls, kind := 2, home := .copy n })
    (kept : run = { peer := some (dTd st.desc 0).devid, reading := true, window := h }) :
    exec (.copyStart n) s = .next ((({ u with lnk := { u.lnk with copies := u.lnk.copies.put n run } } : State).requestRuns n st
      (dTd st.desc 0).devid h (sourceRuns (dTd st.desc 0))).settle s) := by
  obtain ⟨same, passes⟩ := exec_copyStart_of_running (n := n) running copy first
  rw [same]
  simp only [execCopyStart, found, answer, free]
  rw [if_neg passes, if_neg (Classical.not_not.mpr dst), if_pos src, if_neg (by simp [present]), opened, kept]

end

/-- Settles O43: each branch of a start and of a piece that completes; a COPY that has ended keeps no run, as free engines take pieces of
the runs that are kept only. -/
theorem copies : Obligations.Copies := by
  unfold Obligations.Copies
  refine ⟨fun s n st found running copy first => ⟨?_, ?_, ?_, fun dst src => ⟨?_, ?_, ?_⟩⟩, fun s n st run found kept =>
    ⟨?_, ?_, ?_, ?_, ?_, ?_, fun all left => ⟨?_, ?_, ?_⟩⟩⟩
  · exact exec_copyStart_here found running copy first
  · exact exec_copyStart_towards found running copy first
  · exact exec_copyStart_lost found running copy first
  · exact exec_copyStart_lost_source found running copy first dst src
  · exact exec_copyStart_full found running copy first dst src
  · exact fun h u run => exec_copyStart_from found running copy first dst src
  · exact exec_copyPieceComplete_idle found kept
  · exact exec_copyPieceComplete_waits found kept
  · exact fun k u => exec_copyPieceComplete_done found kept
  · exact State.copyPiece_local
  · exact State.copyPiece_denied
  · exact State.copyEnd_waits found kept
  · exact fun d h => State.copyEnd_granted found kept all left
  · exact State.copyEnd_silent found kept all left
  · exact s.endCopy_absent n 0

end Sys2Proof.Machine
end

section
/-! COLLECTIVE (spec/11 R322-R327, spec/18 R486). -/
namespace Sys2Proof.Machine

/-! ### The run of a collective that ends -/

/-- `t` keeps no run for slot `n` where `s` keeps none. -/
def State.StillApart (n : Nat) (s t : State) : Prop := s.lnk.colls.find n = none → t.lnk.colls.find n = none

section
variable {s t : State} {n m : Nat}

theorem State.StillApart.trans {u : State} (h : s.StillApart n t) (k : t.StillApart n u) : s.StillApart n u := fun absent => k (h absent)

theorem State.StillApart.of_colls (same : t.lnk.colls = s.lnk.colls) : s.StillApart n t := fun absent => by rw [same, absent]

theorem State.LinksKept.foldl {α : Type} {f : State → α → State} (each : ∀ (t : State) a, t.LinksKept (f t a)) (l : List α) (s : State) :
    s.LinksKept (l.foldl f s) :=
  List.foldlRecOn (motive := fun t : State => s.LinksKept t) l f (.refl s) fun t h a _ => h.trans (each t a)

theorem State.LinksKept.stillApart (h : s.LinksKept t) : s.StillApart n t := .of_colls h.colls

theorem State.setColl_stillApart (other : m ≠ n) (r : CollRun) : s.StillApart n (s.setColl m r) := fun absent =>
  (Map.find_put _ _ _ _).trans (by rw [if_neg other, absent])

theorem State.sendCodes_linksKept (s : State) (cls dst h : Nat) (f : Fmt) (off : Nat) (cs : List Nat) :
    s.LinksKept (s.sendCodes cls dst h f off cs) :=
  List.foldlRecOn (motive := fun acc : Nat × State => s.LinksKept acc.2) _ _ (.refl s) fun _ same _ _ =>
    same.trans (State.Sent.foldl (fun t _ => t.sendFlit_sent _ _) _ _).linksKept

theorem State.toMembers_linksKept (s : State) (r : CollRun) (rank : Nat) (body : Nat → List Byte) : s.LinksKept (s.toMembers r rank body) :=
  (State.Sent.foldl (fun t _ => t.sendMsg_sent _ _ _ _) _ _).linksKept

theorem State.spreadResults_stillApart (other : m ≠ n) (s : State) (st : Stage) (r : CollRun) (k : Nat) (cs : List Nat) (own : Bool)
    (dests : List (Nat × Nat)) : s.StillApart n (s.spreadResults m st r k cs own dests) := by
  unfold State.spreadResults
  extract_lets d o u t
  have written : s.StillApart n t := by
    unfold t
    split
    · exact fun absent => State.setColl_stillApart other _ ((State.StillApart.of_colls (n := n)
        (congrArg Lnk.colls (State.writeStream_accessed _ _ _ _ _).lnk)) absent)
    · exact id
  exact fun absent => (State.LinksKept.foldl (fun u _ => u.sendCodes_linksKept _ _ _ _ _ _) _ _).stillApart (written absent)

theorem State.finalRound_stillApart (other : m ≠ n) (s : State) : s.StillApart n (s.finalRound m) := by
  unfold State.finalRound
  split
  · extract_lets d
    split
    · exact id
    · exact fun absent => (State.toMembers_linksKept _ _ _ _).stillApart (State.setColl_stillApart other _ absent)
  · exact id

theorem State.collData_stillApart (other : m ≠ n) (s : State) (st : Stage) (r : CollRun) : s.StillApart n (s.collData m st r) := by
  unfold State.collData
  extract_lets d a rank r' t others u
  have sent : t.StillApart n u := by
    unfold u
    split
    · exact (State.LinksKept.foldl (fun v p => (State.LinksKept.of_lnk (v.readStream_accessed _ _ _ _).lnk).trans
        (State.sendCodes_linksKept _ _ _ _ _ _ _)) _ _).stillApart
    · split
      · exact ((State.LinksKept.of_lnk (t.readStream_accessed _ _ _ _).lnk).trans (.of_lnk (State.raise_lnk _ _ _))).stillApart.trans
          (State.spreadResults_stillApart other _ _ _ _ _ _ _)
      · exact id
  exact fun absent => u.finalRound_stillApart other (sent (s.setColl_stillApart other _ absent))

theorem State.mem_collQueue {hub : Nat} {x : Nat × Stage × CollRun} (member : x ∈ s.collQueue hub) : s.lnk.colls.find x.1 ≠ none := by
  obtain ⟨p, listed, same⟩ := List.mem_filterMap.mp (sortBy_subset _ _ member)
  obtain ⟨st, -, same⟩ := Option.bind_eq_some_iff.mp same
  split at same
  · rw [← Option.some.inj same]
    exact Map.find_ne_none_of_mem listed
  · exact absurd same (by simp)

/-- Engines take collectives of the runs that are kept only. -/
theorem State.startColls_stillApart (hub : Nat) : ∀ (k : Nat) (s : State), s.StillApart n (s.startColls hub k)
  | 0, _ => id
  | k + 1, s => by
    unfold State.startColls
    extract_lets q top
    split
    · exact id
    next m st r taken =>
      split
      · exact id
      · intro absent
        refine State.startColls_stillApart hub k _ (State.collData_stillApart ?_ s st r absent)
        rintro rfl
        exact State.mem_collQueue (List.mem_of_find?_eq_some taken) absent

theorem State.endColl_absent (s : State) (n own : Nat) : (s.endColl n own).lnk.colls.find n = none := by
  unfold State.endColl
  extract_lets hs _ t
  have ended := ((t.closeWindows_linksKept hs).trans (State.finishWorst_linksKept _ n own)).colls
  refine State.startColls_stillApart 1 2 _ (State.startColls_stillApart 0 2 _ ?_)
  change ((hs.foldl State.closeWindow t).finishWorst n own).lnk.colls.find n = none
  rw [ended]
  exact (Map.find_del _ _ _).trans (if_pos rfl)

end

/-! ### Starts -/

section
variable {s s' u : State} {n status : Nat} {st : Stage} {b : List Byte} {ids : List Nat}

/-- The start of a COLLECTIVE after its member table has been read. -/
def State.beginColl (u : State) (n status : Nat) (st : Stage) (b : List Byte) (ids : List Nat) : State :=
  if status = 3 ∨ status = 4 then (u.finishWorst n status).tick1 collDone
  else if u.memberStatus st b ids ≠ 0 then (u.finishWorst n (u.memberStatus st b ids)).tick1 collDone
  else
    let p := u.openCollWindows n st ⟨ids, collDigest st.desc (b.take (2 * collM st.desc)), [], [], false, [], [], 0, [], false⟩
    let w := (p.2.setColl n p.1).toMembers p.1 (collRank st.desc) (fun i => collBody 0 st.secure (collRank st.desc) (collId st.desc)
      p.1.digest (p.1.opened.get (0, 0) i).1 (p.1.opened.get (0, 0) i).2 0 0)
    let mine := fun (j : EarlyJoin) => j.secure == st.secure && j.id == collId st.desc
    if (w.lnk.early.filter mine).any EarlyJoin.mismatch then (w.dropJoin mine).leaveJoin n st p.1 2
    else ((w.lnk.early.filter mine).foldl (fun s j => s.takeJoin n st j) (w.dropJoin mine)).tryJoin n

theorem exec_collectiveStart_of_read (found : s.stage n = some st) (running : st.phase = .running) (coll : st.opcode = 0x0D)
    (first : s.lnk.colls.find n = none) (room : s.lnk.windows.length + 2 * collM st.desc ≤ 4096)
    (read : s.ctrlRead (st.who n) (opAddr st.desc 0xF0 % 2 ^ 48) (2 * collM st.desc + 4) = (b, status, s'))
    (met : u = if status = 8 then s'.meet (some n) 8 else s')
    (listed : ids = (List.range (collM st.desc)).map (fun i => field b (2 * i) 2)) :
    exec (.collectiveStart n) s = .next ((u.beginColl n status st b ids).settle s) := by
  change execCollectiveStart n s = _
  have passes : ¬(st.phase ≠ .running ∨ st.opcode ≠ 0x0D ∨ (s.lnk.colls.find n).isSome = true
      ∨ 4096 < s.lnk.windows.length + 2 * collM st.desc) := by
    simp [running, coll, first, room]
  simp only [execCollectiveStart, found, answer]
  rw [if_neg passes, read]
  subst met listed
  rfl

theorem State.beginColl_unread (bad : status = 3 ∨ status = 4) :
    u.beginColl n status st b ids = (u.finishWorst n status).tick1 collDone := if_pos bad

variable (read : ¬(status = 3 ∨ status = 4))
include read

theorem State.beginColl_bad (bad : u.memberStatus st b ids ≠ 0) :
    u.beginColl n status st b ids = (u.finishWorst n (u.memberStatus st b ids)).tick1 collDone := by
  rw [State.beginColl, if_neg read, if_pos bad]

variable {r : CollRun} {v w : State} {mine : EarlyJoin → Bool} (good : u.memberStatus st b ids = 0)
  (opened : u.openCollWindows n st ⟨ids, collDigest st.desc (b.take (2 * collM st.desc)), [], [], false, [], [], 0, [], false⟩ = (r, v))
  (told : w = (v.setColl n r).toMembers r (collRank st.desc) (fun i => collBody 0 st.secure (collRank st.desc) (collId st.desc) r.digest
    (r.opened.get (0, 0) i).1 (r.opened.get (0, 0) i).2 0 0))
  (own : mine = fun j => j.secure == st.secure && j.id == collId st.desc)
include good opened told own

theorem State.beginColl_mismatch (wrong : (w.lnk.early.filter mine).any EarlyJoin.mismatch = true) :
    u.beginColl n status st b ids = (w.dropJoin mine).leaveJoin n st r 2 := by
  rw [State.beginColl, if_neg read, if_neg (Classical.not_not.mpr good), opened]
  subst told own
  exact if_pos wrong

theorem State.beginColl_good (right : (w.lnk.early.filter mine).any EarlyJoin.mismatch = false) :
    u.beginColl n status st b ids
      = ((w.lnk.early.filter mine).foldl (fun s j => s.takeJoin n st j) (w.dropJoin mine)).tryJoin n := by
  rw [State.beginColl, if_neg read, if_neg (Classical.not_not.mpr good), opened]
  subst told own
  exact if_neg (by rw [right]; decide)

end

/-! ### A collective at work -/

section
variable {s : State} {n : Nat} {st : Stage} {r : CollRun} (found : s.stage n = some st) (kept : s.lnk.colls.find n = some r)
include found kept

theorem exec_collectiveJoinTimeout_over (early : r.joined st.desc = false) (limit : op4 st.desc 0xEC ≠ 0) :
    exec (.collectiveJoinTimeout n) s = .next ((s.leaveJoin n st r 0x0B).settle s) := by
  change execCollectiveJoinTimeout n s = _
  simp only [execCollectiveJoinTimeout, found, kept, answer, early, limit, Bool.false_eq_true, or_self, if_false]

theorem exec_collectiveJoinTimeout_stands (stands : r.joined st.desc = true ∨ op4 st.desc 0xEC = 0) :
    exec (.collectiveJoinTimeout n) s = .next (s.settle s) := by
  change execCollectiveJoinTimeout n s = _
  simp only [execCollectiveJoinTimeout, found, kept, answer, if_pos stands]

theorem exec_collectivePartialTimeout_of_missing (data : r.data = true) (missing : r.blocks.length < collBlocks st.desc) :
    exec (.collectivePartialTimeout n) s = .next ((((s.meet (some n) 0x0B).setColl n
      { r with blocks := List.range (collBlocks st.desc) }).finalRound n).settle s) := by
  change execCollectivePartialTimeout n s = _
  simp only [execCollectivePartialTimeout, found, kept, answer]
  rw [if_neg (by simp [data, missing])]

theorem exec_collectiveComplete_ending (ending : st.ending = true) : exec (.collectiveComplete n) s = .next ((s.stopColl n st).settle s) := by
  change execCollectiveComplete n s = _
  simp only [execCollectiveComplete, found, kept, answer, ending, if_true]

theorem exec_collectiveComplete_done (goes : st.ending = false) (sent : r.finalSent = true) (finals : collM st.desc ≤ r.finals.length + 1)
    (written : collWrites st.desc ≤ r.written ∨ 0x0B ∈ st.met) (left : s.collHolds st r = false) :
    exec (.collectiveComplete n) s = .next ((s.endColl n 0).settle s) := by
  change execCollectiveComplete n s = _
  simp only [execCollectiveComplete, found, kept, answer, goes, Bool.false_eq_true, if_false]
  rw [if_pos (by simp [sent, finals, written, left])]

theorem exec_collectiveComplete_holds (goes : st.ending = false) (holds : s.collHolds st r = true) :
    exec (.collectiveComplete n) s = .next (s.settle s) := by
  change execCollectiveComplete n s = _
  simp only [execCollectiveComplete, found, kept, answer, goes, Bool.false_eq_true, if_false]
  rw [if_neg (by simp [holds])]

variable {block : Nat} (data : r.data = true) (fresh : block ∉ r.blocks) (listed : block < collBlocks st.desc)
include data fresh listed

theorem exec_collectiveBlockReduce_waits {s' : State} (waits : s.blockCodes n st r block = (none, s')) :
    exec (.collectiveBlockReduce n block) s = .next (s'.settle s) := by
  change execCollectiveBlockReduce n block s = _
  simp only [execCollectiveBlockReduce, found, kept, answer]
  rw [if_neg (by simp [data, fresh, listed]), waits]

theorem exec_collectiveBlockReduce_reduced {cols : List (List Nat)} {s' t x : State} {res : List (Nat × Flags)} {st' : Stage}
    (read : s.blockCodes n st r block = (some cols, s'))
    (results : res = (List.range (cols.getD (collRank st.desc) []).length).map (fun e =>
      reduceElem st.desc (cols.map (fun c => c.getD e 0))))
    (reduced : t = (s'.raise n (res.foldl (fun f x => f ||| x.2) 0)).setColl n { r with blocks := r.blocks ++ [block] })
    (still : t.stage n = some st')
    (spread : x = (t.spreadResults n st' { r with blocks := r.blocks ++ [block] }
      (block * (65536 * 8 / (dTd st.desc 0).fmt.width)) (res.map Prod.fst)
      (collKind st.desc != 4 || collRank st.desc == collRoot st.desc)
      ((r.others (collRank st.desc)).filter (fun p =>
        collKind st.desc == 0 || (collKind st.desc == 4 && p.1 == collRoot st.desc)))).finalRound n) :
    exec (.collectiveBlockReduce n block) s = .next ((if st.ending then x.stopColl n st else x).settle s) := by
  change execCollectiveBlockReduce n block s = _
  simp only [execCollectiveBlockReduce, found, kept, answer]
  rw [if_neg (by simp [data, fresh, listed]), read]
  subst results
  dsimp only
  rw [← reduced, still]
  subst spread
  rfl

end

/-! ### JOINs -/

theorem Map.get_of_find {κ α : Type} [DecidableEq κ] : ∀ {m : Map κ α} {k : κ} {a d : α}, m.find k = some a → m.get d k = a
  | [], _, _, _, found => absurd found (by simp [Map.find])
  | (k', b) :: m, k, a, d, found => by
    rw [Map.find] at found
    rw [Map.get]
    split
    next same => exact Option.some.inj ((if_pos same).symm.trans found)
    next other => exact Map.get_of_find ((if_neg other).symm.trans found)

section
variable {s : State} {n : Nat} {st : Stage} {r : CollRun} {j : EarlyJoin} (kept : s.lnk.colls.find n = some r)
include kept

theorem State.takeJoin_next (later : r.joined st.desc = true ∨ (r.joins.find j.rank).isSome = true) :
    s.takeJoin n st j = s.keepJoin j := by
  simp only [State.takeJoin, kept]
  rw [if_pos (by simpa using later)]

variable (early : r.joined st.desc = false) (first : r.joins.find j.rank = none)
include early first

theorem State.takeJoin_differs (differs : r.digest ≠ j.digest) :
    s.takeJoin n st j = (s.toMembers r (collRank st.desc)
      (fun _ => collBody 1 st.secure (collRank st.desc) (collId st.desc) r.digest 0 0 0 0)).endColl n 2 := by
  simp only [State.takeJoin, kept]
  rw [if_neg (by simp [early, first]), if_pos differs]

theorem State.takeJoin_agrees (agrees : r.digest = j.digest) :
    s.takeJoin n st j = (s.setColl n { r with joins := r.joins.put j.rank (j.digest, j.partials, j.results) }).tryJoin n := by
  simp only [State.takeJoin, kept]
  rw [if_neg (by simp [early, first]), if_neg (Classical.not_not.mpr agrees)]

end

section
variable {s : State} {src id : Nat} {secure : Bool} {body : List Byte} {j : EarlyJoin} {kept : EarlyJoin → Bool}
  (present : s.present src = true) (alive : s.fatal = false) (whole : body.length = 26)
  (world : secure = bit (field (msgBody body) 1 1) 0) (named : id = field (msgBody body) 4 4)
include present alive whole world named

section
variable (join : j = ⟨secure, id, src, field (msgBody body) 2 2, field (msgBody body) 8 4, field (msgBody body) 12 2,
  field (msgBody body) 14 2, false⟩)
include join

theorem exec_coll_join_unknown (unknown : s.findColl secure id = none) (kind : field (msgBody body) 0 1 = 0) :
    exec (.coll src body) s = .next ((s.keepJoin j).settle s) := by
  change answer s (s.onMsg src 0x0B body _) = _
  rw [State.onMsg_of_present _ (msgOk_of_long rfl whole) present alive]
  subst world named join
  simp only [kind, unknown, answer]

theorem exec_coll_join {n : Nat} {st : Stage} (known : s.findColl secure id = some (n, st)) (kind : field (msgBody body) 0 1 = 0) :
    exec (.coll src body) s = .next ((s.takeJoin n st j).settle s) := by
  change answer s (s.onMsg src 0x0B body _) = _
  rw [State.onMsg_of_present _ (msgOk_of_long rfl whole) present alive]
  subst world named join
  simp only [kind, known, answer]

theorem exec_coll_final {n : Nat} {st : Stage} {r : CollRun} (known : s.findColl secure id = some (n, st))
    (run : s.lnk.colls.find n = some r) (kind : field (msgBody body) 0 1 = 2) :
    exec (.coll src body) s = .next (State.settle
      (if field (msgBody body) 20 1 = 0x0B
        then ((s.setColl n { r with finals := dedup (r.finals ++ [j.rank]) }).raise n
          (BitVec.ofNat 32 (field (msgBody body) 16 4))).meet (some n) 0x0B
        else (s.setColl n { r with finals := dedup (r.finals ++ [j.rank]) }).raise n
          (BitVec.ofNat 32 (field (msgBody body) 16 4))) s) := by
  change answer s (s.onMsg src 0x0B body _) = _
  rw [State.onMsg_of_present _ (msgOk_of_long rfl whole) present alive]
  subst world named join
  simp only [kind, known, Map.get_of_find run, answer]

end

theorem exec_coll_mismatch_unknown (own : kept = fun (j : EarlyJoin) => j.secure == secure && j.id == id && j.src == src)
    (unknown : s.findColl secure id = none) (kind : field (msgBody body) 0 1 = 1) :
    exec (.coll src body) s = .next ((s.markJoin kept).settle s) := by
  change answer s (s.onMsg src 0x0B body _) = _
  rw [State.onMsg_of_present _ (msgOk_of_long rfl whole) present alive]
  subst world named own
  simp only [kind, unknown, answer]

theorem exec_coll_mismatch {n : Nat} {st : Stage} {r : CollRun} (known : s.findColl secure id = some (n, st))
    (run : s.lnk.colls.find n = some r) (kind : field (msgBody body) 0 1 = 1) (early : r.joined st.desc = false) :
    exec (.coll src body) s = .next ((s.leaveJoin n st r 2).settle s) := by
  change answer s (s.onMsg src 0x0B body _) = _
  rw [State.onMsg_of_present _ (msgOk_of_long rfl whole) present alive]
  subst world named
  simp only [kind, known, run, early, answer, Bool.false_eq_true, if_false]

end

/-- Settles O44: the branches of the start, of the time-outs, of a block, of the end and of the messages; a collective that has ended keeps no
run, as free engines take collectives of the runs that are kept only. -/
theorem collectives : Obligations.Collectives := by
  unfold Obligations.Collectives
  refine ⟨fun s s' u n status st b ids found running coll first room read met listed => ?_, fun s n st r found kept =>
    ⟨?_, ?_, ?_, ?_, fun goes sent finals written => ⟨?_, ?_⟩, ?_, ?_, ?_⟩, fun s n st r j kept => ⟨?_, fun early fresh => ⟨?_, ?_⟩⟩,
    fun s src id secure body j kept present alive whole world named join own => ⟨fun unknown => ⟨?_, ?_⟩, fun n st r known run => ⟨?_, ?_, ?_⟩⟩⟩
  · rw [exec_collectiveStart_of_read found running coll first room read met listed]
    refine ⟨fun bad => ?_, fun h3 h4 bad => ?_, fun r v w mine h3 h4 good opened told own => ⟨fun wrong => ?_, fun right => ?_⟩⟩
    · rw [State.beginColl_unread bad]
    · rw [State.beginColl_bad (not_or.mpr ⟨h3, h4⟩) bad]
    · rw [State.beginColl_mismatch (not_or.mpr ⟨h3, h4⟩) good opened told own wrong]
    · rw [State.beginColl_good (not_or.mpr ⟨h3, h4⟩) good opened told own right]
  · exact exec_collectiveJoinTimeout_over found kept
  · exact exec_collectiveJoinTimeout_stands found kept
  · exact exec_collectivePartialTimeout_of_missing found kept
  · exact exec_collectiveComplete_ending found kept
  · exact exec_collectiveComplete_done found kept goes sent finals written
  · exact exec_collectiveComplete_holds found kept goes
  · exact s.endColl_absent n 0
  · exact fun block s' data fresh listed => exec_collectiveBlockReduce_waits found kept data fresh listed
  · exact fun block cols s' res t st' x data fresh listed => exec_collectiveBlockReduce_reduced found kept data fresh listed
  · exact State.takeJoin_next kept
  · exact State.takeJoin_differs kept early fresh
  · exact State.takeJoin_agrees kept early fresh
  · exact exec_coll_join_unknown present alive whole world named join unknown
  · exact exec_coll_mismatch_unknown present alive whole world named own unknown
  · exact exec_coll_join present alive whole world named join known
  · exact exec_coll_mismatch present alive whole world named known run
  · exact exec_coll_final present alive whole world named join known run

end Sys2Proof.Machine
end

section
/-! INGEST (spec/12 R338-R348). -/
namespace Sys2Proof.Machine

/-! ### Starts -/

/-- The status that the record area of a sample table gets at the start of an INGEST stage. -/
def State.recordCheck (s : State) (st : Stage) (a k : Nat) : Nat :=
  if a = 0 then 0 else if a >>> 48 ≠ s.lnk.devid then 3 else s.extentCheck st.secure st.secure st.fn (a % 2 ^ 48) (16 * k) true

/-- The start of an INGEST after its sample table has been read. -/
def State.beginIngest (s : State) (n k : Nat) (d : List Byte) (st : Stage) (b tab : List Byte) : State :=
  if field b (64 + 32 * k) 4 ≠ crc32c tab ∨ field tab 0 1 ≠ 1 then s.finishWorst n 1
  else if !tabOk d tab then s.finishWorst n 2
  else if s.recordCheck st (tabStatus tab) k ≠ 0 then
    (if s.recordCheck st (tabStatus tab) k = 4 then s.deny st.secure st.fn (tabStatus tab % 2 ^ 48) else s).finishWorst n
      (s.recordCheck st (tabStatus tab) k)
  else ((List.range k).foldl (fun s i => s.beginEntry n st tab i) (s.putIng n ⟨tab, List.replicate k {}⟩)).assignEngines

section
variable {s s' : State} {n k : Nat} {st : Stage} {d b tab : List Byte}

theorem State.beginIngest_unsound (bad : field b (64 + 32 * k) 4 ≠ crc32c tab ∨ field tab 0 1 ≠ 1) :
    s.beginIngest n k d st b tab = s.finishWorst n 1 := if_pos bad

section
variable (crc : field b (64 + 32 * k) 4 = crc32c tab) (version : field tab 0 1 = 1)
include crc version

theorem State.beginIngest_bad (bad : tabOk d tab = false) : s.beginIngest n k d st b tab = s.finishWorst n 2 := by
  rw [State.beginIngest, if_neg (by simp [crc, version]), if_pos (by simp [bad])]

theorem State.beginIngest_refused (good : tabOk d tab = true) (refused : s.recordCheck st (tabStatus tab) k ≠ 0) :
    s.beginIngest n k d st b tab = (if s.recordCheck st (tabStatus tab) k = 4 then s.deny st.secure st.fn (tabStatus tab % 2 ^ 48)
      else s).finishWorst n (s.recordCheck st (tabStatus tab) k) := by
  rw [State.beginIngest, if_neg (by simp [crc, version]), if_neg (by simp [good]), if_pos refused]

theorem State.beginIngest_good (good : tabOk d tab = true) (passes : s.recordCheck st (tabStatus tab) k = 0) :
    s.beginIngest n k d st b tab
      = ((List.range k).foldl (fun s i => s.beginEntry n st tab i) (s.putIng n ⟨tab, List.replicate k {}⟩)).assignEngines := by
  rw [State.beginIngest, if_neg (by simp [crc, version]), if_neg (by simp [good]), if_neg (by simp [passes])]

end

theorem exec_ingestStart_of_read (found : s.stage n = some st) (running : st.phase = .running) (ingest : st.opcode = 0x10)
    (first : s.ing.runs.find n = none) (size : k = (dTd st.desc 2).n * (dTd st.desc 2).t)
    (read : s.readFor (st.who n) (opAddr st.desc 0xE0 % 2 ^ 48) (64 + 32 * k + 4) 0 = (b, s')) (table : tab = b.take (64 + 32 * k)) :
    exec (.ingestStart n) s = .next ((s'.beginIngest n k st.desc ((s'.stage n).getD st) b tab).settle s) := by
  change execIngestStart n s = _
  have passes : ¬(st.phase ≠ .running ∨ st.opcode ≠ 0x10 ∨ (s.ing.runs.find n).isSome = true) := by simp [running, ingest, first]
  subst size table
  simp only [execIngestStart, found, answer]
  rw [if_neg passes, read]
  rfl

end

/-! ### Live queues -/

section
variable {s : State} {n i q : Nat} {st : Stage} {r : IngRun} {e : IngEntry} (found : s.stage n = some st)
  (run : s.ing.runs.find n = some r) (entry : r.entries[i]? = some e)
include found run entry

theorem State.pollQueue_stands (stands : e.st ≠ .waiting ∨ entKind (tabEntry r.table i) ≠ 1 ∨ st.ending = true
    ∨ s.queueTurn n i (entSrc (tabEntry r.table i)) = false) : s.pollQueue n i = s := by
  simp only [State.pollQueue, found, run, entry]
  rw [if_pos (by simpa using stands)]

section
variable (goes : st.ending = false) (waiting : e.st = .waiting) (live : entKind (tabEntry r.table i) = 1)
  (source : q = entSrc (tabEntry r.table i)) (turn : s.queueTurn n i q = true)
include goes waiting live source turn

theorem State.pollQueue_elsewhere (elsewhere : q >>> 48 ≠ s.lnk.devid) :
    s.pollQueue n i = (s.meet (some n) 3).readyEntry n i { e with outcome := some 5 } := by
  subst source
  simp only [State.pollQueue, found, run, entry]
  rw [if_neg (by simp [goes, waiting, live, turn]), if_neg elsewhere]
  rfl

variable {h : List Byte} {status : Nat} {s' : State} (here : q >>> 48 = s.lnk.devid)
  (read : s.ctrlRead (st.who n) (q % 2 ^ 48) 64 = (h, status, s'))
include here read

theorem State.pollQueue_unread (bad : status ≠ 0) :
    s.pollQueue n i = (s'.meet (some n) status).readyEntry n i { e with outcome := some 5 } := by
  subst source
  simp only [State.pollQueue, found, run, entry]
  rw [if_neg (by simp [goes, waiting, live, turn]), if_pos here, read]
  simp only [if_neg bad]

theorem State.pollQueue_unusable (good : status = 0) (unusable : s'.localQueue h = none) :
    s.pollQueue n i = s'.readyEntry n i { e with outcome := some 5 } := by
  subst source
  simp only [State.pollQueue, found, run, entry]
  rw [if_neg (by simp [goes, waiting, live, turn]), if_pos here, read]
  simp only [if_pos good, unusable]

theorem State.pollQueue_usable {hd : Nat × Nat × Nat} (good : status = 0) (usable : s'.localQueue h = some hd) :
    s.pollQueue n i = s'.takeFrame n i st r.table q hd 65537 e := by
  subst source
  simp only [State.pollQueue, found, run, entry]
  rw [if_neg (by simp [goes, waiting, live, turn]), if_pos here, read]
  simp only [if_pos good, usable]

end

/-! ### Waits that are over, entries that end -/

omit entry in
theorem exec_ingestWaitTimeout_unlimited (unlimited : field r.table 8 4 = 0) : exec (.ingestWaitTimeout n i) s = .next (s.settle s) := by
  change execIngestWaitTimeout n i s = _
  simp only [execIngestWaitTimeout, found, run, answer, if_pos unlimited]

section
variable {u : State} {x : IngEntry} (limited : field r.table 8 4 ≠ 0) (looked : u = s.pollQueue n i)
  (still : (u.ing.runs.find n).bind (fun r => r.entries[i]?) = some x)
include limited looked still

omit entry in
theorem exec_ingestWaitTimeout_goes (goes : x.st ≠ .waiting ∨ (entKind (tabEntry r.table i) = 1
    ∧ u.queueHolds (st.who n) (entSrc (tabEntry r.table i)) = true)) :
    exec (.ingestWaitTimeout n i) s = .next (u.assignEngines.settle s) := by
  change execIngestWaitTimeout n i s = _
  subst looked
  simp only [execIngestWaitTimeout, found, run, answer, if_neg limited, still, if_pos goes]

omit entry in
theorem exec_ingestWaitTimeout_ends (waiting : x.st = .waiting)
    (none : entKind (tabEntry r.table i) ≠ 1 ∨ u.queueHolds (st.who n) (entSrc (tabEntry r.table i)) = false) :
    exec (.ingestWaitTimeout n i) s
      = .next (((u.readyEntry n i { x with outcome := some (if 0 < x.drops then 3 else 4) }).assignEngines).settle s) := by
  change execIngestWaitTimeout n i s = _
  have ends : ¬(x.st ≠ .waiting ∨ (entKind (tabEntry r.table i) = 1
      ∧ u.queueHolds (st.who n) (entSrc (tabEntry r.table i)) = true)) := by
    rcases none with h | h <;> simp [waiting, h]
  subst looked
  simp only [execIngestWaitTimeout, found, run, answer, if_neg limited, still, if_neg ends]

end

theorem exec_ingestEntryComplete_busy {g : Nat} (busy : e.st = .busy g) :
    exec (.ingestEntryComplete n i) s = .next (((s.endEntry n i st r.table e).serveAll.lookAll).settle s) := by
  change execIngestEntryComplete n i s = _
  simp only [execIngestEntryComplete, found, run, entry, busy, answer]

theorem exec_ingestEntryComplete_idle (idle : ∀ g, e.st ≠ .busy g) : exec (.ingestEntryComplete n i) s = .next (s.settle s) := by
  change execIngestEntryComplete n i s = _
  simp only [execIngestEntryComplete, found, run, entry, answer]

end

/-! ### The end of a stage -/

section
variable {s : State} {n : Nat} {st : Stage} {r : IngRun} (found : s.stage n = some st) (run : s.ing.runs.find n = some r)
include found run

theorem exec_ingestComplete_waits (waits : ∃ e ∈ r.entries, e.st ≠ .ended) : exec (.ingestComplete n) s = .next (s.settle s) := by
  change execIngestComplete n s = _
  simp only [execIngestComplete, found, run, answer]
  rw [if_pos (by simpa using waits)]

theorem exec_ingestComplete_ended (ended : ∀ e ∈ r.entries, e.st = .ended) : exec (.ingestComplete n) s = .next ((if st.ending
    then s.endIngest n s.endedBy
    else (((s.zeroInvalid n st r).writeMask n st r).endIngest n r.status).serveAll.lookAll).settle s) := by
  change execIngestComplete n s = _
  simp only [execIngestComplete, found, run, answer]
  rw [if_neg (by simpa using ended)]

end

/-- The outcome `o` stands for one of the entries. -/
theorem IngRun.any_outcome (r : IngRun) (o : Nat) : r.entries.any (fun e => e.outcome == some o) = true ↔ ∃ e ∈ r.entries, e.outcome = some o := by
  simp

theorem IngRun.status_partial {r : IngRun} (lost : ∃ e ∈ r.entries, e.outcome = some 4 ∨ e.outcome = some 5) : r.status = 0x0B := by
  obtain ⟨e, member, outcome⟩ := lost
  refine if_pos ?_
  rw [Bool.or_eq_true, r.any_outcome, r.any_outcome]
  exact outcome.imp (fun h => ⟨e, member, h⟩) fun h => ⟨e, member, h⟩

theorem IngRun.status_stale {r : IngRun} (none : ∀ e ∈ r.entries, e.outcome ≠ some 4 ∧ e.outcome ≠ some 5) (stale : ∃ e ∈ r.entries, e.outcome = some 3) :
    r.status = 0x0A := by
  refine (if_neg ?_).trans (if_pos ((r.any_outcome 3).mpr stale))
  rw [Bool.or_eq_true, r.any_outcome, r.any_outcome]
  rintro (⟨e, member, h⟩ | ⟨e, member, h⟩)
  · exact (none e member).1 h
  · exact (none e member).2 h

theorem IngRun.status_ok {r : IngRun} (none : ∀ e ∈ r.entries, e.outcome ≠ some 3 ∧ e.outcome ≠ some 4 ∧ e.outcome ≠ some 5) : r.status = 0 := by
  refine (if_neg ?_).trans (if_neg fun h => ?_)
  · rw [Bool.or_eq_true, r.any_outcome, r.any_outcome]
    rintro (⟨e, member, h⟩ | ⟨e, member, h⟩)
    · exact (none e member).2.1 h
    · exact (none e member).2.2 h
  · obtain ⟨e, member, h⟩ := (r.any_outcome 3).mp h
    exact (none e member).1 h

/-- Settles O46: the branches of the start, of a look at a live queue, of a wait that is over and of the ends of an entry and of the stage, and
what the outcomes of the entries give. -/
theorem ingest : Obligations.Ingest := by
  unfold Obligations.Ingest
  refine ⟨fun s s' n k a chk st st' tab b found running opcode first size read table after record check => ?_,
    fun s n i q st r e found run entry source => ⟨fun h status s' hd goes waiting live turn here read => ?_, ?_, ?_, ?_, ?_, ?_, ?_⟩,
    fun s n st r found run => ⟨?_, ?_, ?_⟩, fun r => ⟨IngRun.status_partial, IngRun.status_stale, IngRun.status_ok⟩⟩
  · subst record after check
    rw [exec_ingestStart_of_read found running opcode first size read table]
    refine ⟨fun bad => ?_, fun crc version => ⟨fun bad => ?_, fun good refused => ?_, fun good passes => ?_⟩⟩
    · rw [State.beginIngest_unsound bad]
    · rw [State.beginIngest_bad crc version bad]
    · rw [State.beginIngest_refused crc version good refused]
      rfl
    · rw [State.beginIngest_good crc version good passes]
  · refine ⟨fun bad => ?_, fun good unusable => ?_, fun good usable => ?_⟩
    · exact congrArg (fun u : State => Host.Outcome.next (u.assignEngines.settle s))
        (State.pollQueue_unread found run entry goes waiting live source turn here read bad)
    · exact congrArg (fun u : State => Host.Outcome.next (u.assignEngines.settle s))
        (State.pollQueue_unusable found run entry goes waiting live source turn here read good unusable)
    · exact congrArg (fun u : State => Host.Outcome.next (u.assignEngines.settle s))
        (State.pollQueue_usable found run entry goes waiting live source turn here read good usable)
  · exact fun goes waiting live turn elsewhere => congrArg (fun u : State => Host.Outcome.next (u.assignEngines.settle s))
      (State.pollQueue_elsewhere found run entry goes waiting live source turn elsewhere)
  · intro stands
    have looked := State.pollQueue_stands found run entry (source ▸ stands)
    exact ⟨looked, congrArg (fun u : State => Host.Outcome.next (u.assignEngines.settle s)) looked⟩
  · exact exec_ingestWaitTimeout_unlimited found run
  · subst source
    exact fun u x limited looked still => ⟨exec_ingestWaitTimeout_goes found run limited looked still,
      exec_ingestWaitTimeout_ends found run limited looked still⟩
  · exact fun g => exec_ingestEntryComplete_busy found run entry
  · exact exec_ingestEntryComplete_idle found run entry
  · intro goes ended
    rw [exec_ingestComplete_ended found run ended, if_neg (by simp [goes])]
  · intro ending ended
    rw [exec_ingestComplete_ended found run ended, if_pos ending]
  · exact exec_ingestComplete_waits found run

end Sys2Proof.Machine
end

section
/-! PYRAMID (spec/12 R333, R349-R351). -/
namespace Sys2Proof.Machine

section
variable {s : State} {n : Nat} {st : Stage} (found : s.stage n = some st)
include found

theorem exec_pyramidStart_takes (turn : s.pyrTurn (pyrEngine st.desc) n st = true)
    (free : s.ing.pyrs.any (fun p => p.2.engine == pyrEngine st.desc) = false) :
    exec (.pyramidStart n) s
      = .next ((({ s with ing := { s.ing with pyrs := s.ing.pyrs.put n { engine := pyrEngine st.desc } } } : State).knock
          (202 + 6 * pyrEngine st.desc)).settle s) := by
  change execPyramidStart n s = _
  simp only [execPyramidStart, found, answer, turn, free, Bool.not_true, Bool.false_eq_true, or_self, if_false]

theorem exec_pyramidStart_waits (waits : s.pyrTurn (pyrEngine st.desc) n st = false
    ∨ s.ing.pyrs.any (fun p => p.2.engine == pyrEngine st.desc) = true) : exec (.pyramidStart n) s = .next (s.settle s) := by
  change execPyramidStart n s = _
  simp only [execPyramidStart, found, answer]
  rw [if_pos (waits.imp_left fun h => by rw [h]; rfl)]

end

/-- The stage that an engine serves next waits for it, and of those that wait it has the highest class and was admitted first. -/
theorem State.pyrTurn_iff (s : State) (g n : Nat) (st : Stage) : s.pyrTurn g n st = true ↔
    (st.phase = .running ∧ st.opcode = 0x11 ∧ st.ending = false ∧ pyrEngine st.desc = g ∧ s.ing.pyrs.find n = none)
    ∧ ∀ p ∈ s.dsp.stages, s.pyrWaits g p.1 p.2 = true → p.2.cls < st.cls ∨ (p.2.cls = st.cls ∧ st.admOrder ≤ p.2.admOrder) := by
  have waits : s.pyrWaits g n st = true ↔
      st.phase = .running ∧ st.opcode = 0x11 ∧ st.ending = false ∧ pyrEngine st.desc = g ∧ s.ing.pyrs.find n = none := by
    simp [State.pyrWaits, and_assoc]
  rw [State.pyrTurn, Bool.and_eq_true, waits, List.all_eq_true]
  refine and_congr_right fun _ => forall₂_congr fun p _ => ?_
  simp [Decidable.imp_iff_not_or, or_assoc]

/-! ### A level -/

section
variable {s s' t u : State} {n h w : Nat} {st : Stage} {r : PyrRun} {vs : List Word64} {out : List (Fp × Flags)} {fl : Flags}
  (found : s.stage n = some st) (run : s.ing.pyrs.find n = some r)
  (first : r.level = 0 → s.pyrSource n st = (vs, s') ∧ (dTd st.desc 0).h = h ∧ (dTd st.desc 0).w = w)
  (later : r.level ≠ 0 → vs = r.held ∧ s' = s ∧ levelSize st.desc (r.level - 1) = (h, w))
  (computed : out = pyrLevel st.desc r.level ((dTd st.desc 0).n * (dTd st.desc 0).t) (dTd st.desc 0).c h w
    (levelTd st.table r.level).h (levelTd st.table r.level).w vs)
  (flags : fl = out.zipIdx.foldl (fun f x => if st.valid (x.2 / ((dTd st.desc 0).t * (levelTd st.table r.level).h
    * (levelTd st.table r.level).w * (dTd st.desc 0).c)) then f ||| x.1.2 else f) (0 : Flags))
  (written : t = ((s'.raise n fl).writeLevel n st (levelTd st.table r.level) (out.map Prod.fst)).bump pyrElems out.length)
  (kept : u = { t with ing := { t.ing with
    pyrs := t.ing.pyrs.put n { r with level := r.level + 1, held := out.map (fun x => toAcc x.1) } } })
include found run first later computed flags written kept

theorem exec_pyramidLevelComplete_of_level : exec (.pyramidLevelComplete n) s = .next ((if st.ending then u.endPyramid n u.endedBy
    else if r.level + 1 = op1 st.desc 0xE0 then u.endPyramid n 0 else u).settle s) := by
  change execPyramidLevelComplete n s = _
  have values : (if r.level = 0 then s.pyrSource n st else (r.held, s)) = (vs, s') := by
    split
    next top => exact (first top).1
    next below => rw [(later below).1, (later below).2.1]
  have size : (if r.level = 0 then ((dTd st.desc 0).h, (dTd st.desc 0).w) else levelSize st.desc (r.level - 1)) = (h, w) := by
    split
    next top => rw [(first top).2.1, (first top).2.2]
    next below => exact (later below).2.2
  simp only [execPyramidLevelComplete, found, run, answer]
  rw [values, size]
  subst kept written flags computed
  rfl

end

theorem levelSize_succ (d : List Byte) (k : Nat) : levelSize d (k + 1) = (((levelSize d k).1 + 1) / 2, ((levelSize d k).2 + 1) / 2) := rfl

/-- Settles O47: a start by whether the engine's turn has come and it is free, a level by what follows it. -/
theorem pyramids : Obligations.Pyramids := by
  unfold Obligations.Pyramids
  refine ⟨fun s n st found => ⟨exec_pyramidStart_takes found, exec_pyramidStart_waits found⟩, fun s g n st => s.pyrTurn_iff g n st,
    fun s s' t n h w st r vs out fl found run first later computed flags written u kept => ?_, levelSize_succ⟩
  rw [exec_pyramidLevelComplete_of_level found run first later computed flags written kept]
  refine ⟨fun ending => ?_, fun goes last => ?_, fun goes more => ?_⟩
  · rw [if_pos ending]
  · rw [if_neg (by simp [goes]), if_pos last]
  · rw [if_neg (by simp [goes]), if_neg more]

end Sys2Proof.Machine
end

section
/-! Decode and encode streams (spec/13 R357-R368). -/
namespace Sys2Proof.Machine

/-! ### Handles -/

theorem handleStatus_own (secure : Bool) : handleStatus (some secure) secure = 0 := if_pos rfl

theorem handleStatus_none (secure : Bool) : handleStatus none secure = 2 := rfl

theorem handleStatus_other (secure : Bool) : handleStatus (some (!secure)) secure = 4 := if_neg (by simp)

/-! ### Decode streams -/

section
variable {s : State} {n : Nat} {st : Stage} (found : s.stage n = some st) (running : st.phase = .running) (decode : st.opcode = 0x0E)
include found running decode

section
variable (opening : op1 st.desc 0xE0 = 0)
include opening

theorem exec_vdecOpen_opens {g i base : Nat} {x : DecStream} (engine : leastLoad s.decLoad (s.enginesOn 4 0) = some g)
    (free : (List.range 256).find? (fun i => (s.vid.decs.find i).isNone) = some i)
    (room : freeRun (if st.secure then s.framePools.2 else s.framePools.1) (s.poolRuns st.secure)
      (op1 st.desc 0xF0 * decFrameBytes (op2 st.desc 0xEC) (op2 st.desc 0xEE)) = some base)
    (stream : x = { secure := st.secure, fn := st.fn, engine := g, autoRelease := bit (op1 st.desc 0xE2) 1
                    hevc := op1 st.desc 0xE1 == 1, filmGrain := bit (op1 st.desc 0xE2) 0, maxW := op2 st.desc 0xEC
                    maxH := op2 st.desc 0xEE, base := base, record := opAddr st.desc 0xF6 % 2 ^ 48
                    frames := List.replicate (op1 st.desc 0xF0) {}, fed := openBytes st.desc }) :
    exec (.vdecOpen n) s = .next (((({ s with vid := { s.vid with decs := s.vid.decs.put i x } } : State).newRecord (st.who n) x.record
      (streamHandle i (s.vid.decGen.get 0 i))).finishWorst n 0).settle s) := by
  change execVdecOpen n s = _
  subst stream
  simp only [execVdecOpen, found, answer]
  rw [if_neg (by simp [running, decode, opening])]
  simp only [engine, free, room]

theorem exec_vdecOpen_full (full : leastLoad s.decLoad (s.enginesOn 4 0) = none
      ∨ (List.range 256).find? (fun i => (s.vid.decs.find i).isNone) = none
      ∨ freeRun (if st.secure then s.framePools.2 else s.framePools.1) (s.poolRuns st.secure)
        (op1 st.desc 0xF0 * decFrameBytes (op2 st.desc 0xEC) (op2 st.desc 0xEE)) = none) :
    exec (.vdecOpen n) s = .next ((s.finishWorst n 3).settle s) := by
  change execVdecOpen n s = _
  simp only [execVdecOpen, found, answer]
  rw [if_neg (by simp [running, decode, opening])]
  split
  next g i base engine free room => exact absurd full (by rw [engine, free, room]; simp)
  · rfl

end

variable (turn : s.vidTurn st = true)
include turn

section
variable (op : op1 st.desc 0xE0 = 1) (first : s.vid.decRuns.find n = none)
include op first

theorem exec_vdecDecode_of_turn : exec (.vdecDecode n) s = .next ((if handleStatus (s.decOwner st) st.secure ≠ 0
    then s.finishWorst n (handleStatus (s.decOwner st) st.secure)
    else ({ s with vid := { s.vid with
      decRuns := s.vid.decRuns.put n { stream := vidHandle st.desc % 2 ^ 16 } } } : State).serveAll.lookAll).settle s) := by
  have stream : bits (vidHandle st.desc) 0 16 = vidHandle st.desc % 2 ^ 16 := bits_zero _ 16
  change execVdecDecode n s = _
  simp only [execVdecDecode, found, answer]
  rw [if_neg (by simp [running, decode, op, first, turn]), stream]

theorem exec_vdecDecode_own (own : s.decOwner st = some st.secure) : exec (.vdecDecode n) s = .next ((({ s with vid := { s.vid with
    decRuns := s.vid.decRuns.put n { stream := vidHandle st.desc % 2 ^ 16 } } } : State).serveAll.lookAll).settle s) := by
  rw [exec_vdecDecode_of_turn found running decode turn op first, own, handleStatus_own, if_neg (Classical.not_not.mpr rfl)]

theorem exec_vdecDecode_unknown (unknown : s.decOwner st = none) : exec (.vdecDecode n) s = .next ((s.finishWorst n 2).settle s) := by
  rw [exec_vdecDecode_of_turn found running decode turn op first, unknown, handleStatus_none, if_pos (by decide)]

theorem exec_vdecDecode_denied (other : s.decOwner st = some (!st.secure)) :
    exec (.vdecDecode n) s = .next ((s.finishWorst n 4).settle s) := by
  rw [exec_vdecDecode_of_turn found running decode turn op first, other, handleStatus_other, if_pos (by decide)]

end

theorem exec_vdecRelease_own {i : Nat} {x : DecStream} (op : op1 st.desc 0xE0 = 2) (named : s.decStream (vidHandle st.desc) = some (i, x))
    (own : x.secure = st.secure) : exec (.vdecRelease n) s = .next (((({ s with vid := { s.vid with
      decs := s.vid.decs.put i (x.release (op4 st.desc 0xF2)) } } : State).endVdec n i st 0).serveAll.lookAll).settle s) := by
  have mine : handleStatus (s.decOwner st) st.secure = 0 := by
    rw [State.decOwner, named, ← own]
    exact handleStatus_own _
  change execVdecRelease n s = _
  simp only [execVdecRelease, found, answer]
  rw [if_neg (by simp [running, decode, op, turn]), mine, if_neg (Classical.not_not.mpr rfl), named]

theorem exec_vdecClose_own (op : op1 st.desc 0xE0 = 3) (own : s.decOwner st = some st.secure) : exec (.vdecClose n) s
    = .next (((s.endVdec n (vidHandle st.desc % 2 ^ 16) st 0).closeDec (vidHandle st.desc % 2 ^ 16)).settle s) := by
  have stream : bits (vidHandle st.desc) 0 16 = vidHandle st.desc % 2 ^ 16 := bits_zero _ 16
  change execVdecClose n s = _
  simp only [execVdecClose, found, answer]
  rw [if_neg (by simp [running, decode, op, turn]), own, handleStatus_own, if_neg (Classical.not_not.mpr rfl), stream]

end

section
variable {s : State} {n : Nat} {r : DecRun}

section
variable {st : Stage} {x : DecStream} (found : s.stage n = some st) (run : s.vid.decRuns.find n = some r)
  (stream : s.vid.decs.find r.stream = some x)
include found run stream

theorem exec_decodePictureOutput_of_left {u : State} (left : 0 < r.left) (output : u = s.outputPicture n st r x) :
    exec (.decodePictureOutput n) s
      = .next ((if r.left = 1 ∧ st.ending = true then u.endDecode n u.endedBy else u).serveAll.lookAll.settle s) := by
  change execDecodePictureOutput n s = _
  subst output
  simp only [execDecodePictureOutput, found, run, stream, answer]
  rw [if_neg (Nat.ne_of_gt left)]

theorem exec_decodePictureOutput_none (none : r.left = 0) : exec (.decodePictureOutput n) s = .next (s.settle s) := by
  change execDecodePictureOutput n s = _
  simp only [execDecodePictureOutput, found, run, stream, answer, if_pos none]

end

theorem exec_vidPoolWaitTimeout_of_run (run : s.vid.decRuns.find n = some r) : exec (.vidPoolWaitTimeout n) s
    = .next ((if r.waitSince.isSome then (s.endDecode n 0x0B).serveAll else s).settle s) := by
  change execVidPoolWaitTimeout n s = _
  simp only [execVidPoolWaitTimeout, run, answer]

end

/-- A unit's pictures take frames while they want one and one is free. -/
theorem State.codePictures_result (n : Nat) : ∀ (fuel : Nat) {s s' : State} {r r' : DecRun} {x x' : DecStream}, r.coded ≤ r.need →
    r.need - r.coded < fuel → s.codePictures n fuel r x = (r', x', s') →
    r'.need = r.need ∧ r.coded ≤ r'.coded ∧ r'.coded ≤ r.need
    ∧ (r'.coded < r.need → ∀ f, f < x'.frames.length → (x'.frames.getD f {}).free = false)
  | 0, _, _, _, _, _, _, _, enough, _ => absurd enough (Nat.not_lt_zero _)
  | fuel + 1, s, s', r, r', x, x', within, enough, coded => by
    rw [State.codePictures] at coded
    split at coded
    next all =>
      cases coded
      exact ⟨rfl, Nat.le_refl _, within, fun more => absurd more (Nat.not_lt_of_le all)⟩
    next more =>
      extract_lets y at coded
      clear_value y
      split at coded
      next none =>
        cases coded
        refine ⟨rfl, Nat.le_refl _, within, fun _ f listed => ?_⟩
        simpa using List.find?_eq_none.mp none f (List.mem_range.mpr listed)
      next f free =>
        have step := State.codePictures_result n fuel (r := { r with coded := r.coded + 1 }) (Nat.lt_of_not_le more)
          (show r.need - (r.coded + 1) < fuel by omega) coded
        obtain ⟨need, taken, bound, none⟩ := step
        exact ⟨need, Nat.le_trans (Nat.le_succ _) taken, bound, none⟩

/-! ### Encode streams -/

section
variable {s : State} {n : Nat} {st : Stage} (found : s.stage n = some st) (running : st.phase = .running) (encode : st.opcode = 0x0F)
include found running encode

section
variable (opening : op1 st.desc 0xE0 = 0)
include opening

theorem exec_vencOpen_opens {g i : Nat} {x : EncStream} (engine : leastLoad s.encLoad (s.enginesOn 2 1) = some g)
    (free : (List.range 64).find? (fun i => (s.vid.encs.find i).isNone) = some i)
    (stream : x = { secure := st.secure, fn := st.fn, engine := g, cbr := bit (op1 st.desc 0xE1) 0, tenBit := bit (op1 st.desc 0xE1) 2
                    bt2020 := bit (op1 st.desc 0xE1) 3, qp := op1 st.desc 0xE3, width := op2 st.desc 0xEC, height := op2 st.desc 0xEE
                    keyInterval := op2 st.desc 0xF0, target := op4 st.desc 0xF2, record := opAddr st.desc 0xF6 % 2 ^ 48
                    qNext := op1 st.desc 0xE3 }) :
    exec (.vencOpen n) s = .next (((({ s with vid := { s.vid with encs := s.vid.encs.put i x } } : State).newRecord (st.who n) x.record
      (streamHandle i (s.vid.encGen.get 0 i))).finishWorst n 0).settle s) := by
  change execVencOpen n s = _
  subst stream
  simp only [execVencOpen, found, answer]
  rw [if_neg (by simp [running, encode, opening])]
  simp only [engine, free]

theorem exec_vencOpen_full (full : leastLoad s.encLoad (s.enginesOn 2 1) = none
      ∨ (List.range 64).find? (fun i => (s.vid.encs.find i).isNone) = none) :
    exec (.vencOpen n) s = .next ((s.finishWorst n 3).settle s) := by
  change execVencOpen n s = _
  simp only [execVencOpen, found, answer]
  rw [if_neg (by simp [running, encode, opening])]
  split
  next g i engine free => exact absurd full (by rw [engine, free]; simp)
  · rfl

end

variable (turn : s.vidTurn st = true)
include turn

section
variable {i : Nat} {x : EncStream} (named : s.encStream (vidHandle st.desc) = some (i, x)) (own : x.secure = st.secure)
include named own

theorem exec_vencEncode_own (op : op1 st.desc 0xE0 = 1) (first : s.vid.encRuns.find n = none) : exec (.vencEncode n) s
    = .next ((if (dTd st.desc 0).h ≠ x.height ∨ (dTd st.desc 0).w ≠ x.width then s.finishWorst n 2
      else ({ s with vid := { s.vid with
        encRuns := s.vid.encRuns.put n { stream := i, force := bit (op1 st.desc 0xE2) 0 } } } : State).serveEnc x.engine).settle s) := by
  change execVencEncode n s = _
  simp only [execVencEncode, found, answer]
  rw [if_neg (by simp [running, encode, op, first, turn]), named]
  simp only [own, ne_eq, not_true, if_false]

theorem exec_vencClose_own (op : op1 st.desc 0xE0 = 2) :
    exec (.vencClose n) s = .next (((s.endVenc n i st 0).closeEnc i).settle s) := by
  change execVencClose n s = _
  simp only [execVencClose, found, answer]
  rw [if_neg (by simp [running, encode, op, turn]), named]
  simp only [own, ne_eq, not_true, if_false]

end

section
variable {status : Nat} (bad : (s.encStream (vidHandle st.desc) = none ∧ status = 2)
  ∨ (∃ i x, s.encStream (vidHandle st.desc) = some (i, x) ∧ x.secure ≠ st.secure ∧ status = 4))
include bad

theorem exec_vencEncode_bad (op : op1 st.desc 0xE0 = 1) (first : s.vid.encRuns.find n = none) :
    exec (.vencEncode n) s = .next ((s.finishWorst n status).settle s) := by
  change execVencEncode n s = _
  simp only [execVencEncode, found, answer]
  rw [if_neg (by simp [running, encode, op, first, turn])]
  rcases bad with ⟨none, rfl⟩ | ⟨i, x, named, other, rfl⟩
  · simp only [none]
  · simp only [named, if_pos other]

theorem exec_vencClose_bad (op : op1 st.desc 0xE0 = 2) : exec (.vencClose n) s = .next ((s.finishWorst n status).settle s) := by
  change execVencClose n s = _
  simp only [execVencClose, found, answer]
  rw [if_neg (by simp [running, encode, op, turn])]
  rcases bad with ⟨none, rfl⟩ | ⟨i, x, named, other, rfl⟩
  · simp only [none]
  · simp only [named, if_pos other]

end

end

theorem exec_encodeUnitWritten_of_coding {s : State} {n : Nat} {st : Stage} {r : EncRun} {x : EncStream} {key req : Bool}
    (found : s.stage n = some st) (run : s.vid.encRuns.find n = some r) (stream : s.vid.encs.find r.stream = some x)
    (coding : r.coding = some (key, req)) :
    exec (.encodeUnitWritten n) s = .next (((s.writeUnit n st r x key req).serveEnc x.engine).settle s) := by
  change execEncodeUnitWritten n s = _
  simp only [execEncodeUnitWritten, found, run, stream, coding, answer]

/-- Settles O48: the branches of the operations on streams; that a unit waits only where no frame is free is by induction on its pictures. -/
theorem videoStreams : Obligations.VideoStreams := by
  unfold Obligations.VideoStreams
  refine ⟨⟨?_, ?_, fun s n st found running decode turn => ⟨fun op first => ⟨?_, ?_, ?_⟩, ?_, ?_⟩, ?_, ?_, ?_⟩, ?_, ?_, ?_, ?_, ?_⟩
  · exact fun s n g i base st x found running decode opening => exec_vdecOpen_opens found running decode opening
  · exact fun s n st found running decode opening => exec_vdecOpen_full found running decode opening
  · exact exec_vdecDecode_own found running decode turn op first
  · exact exec_vdecDecode_unknown found running decode turn op first
  · exact exec_vdecDecode_denied found running decode turn op first
  · exact fun i x => exec_vdecRelease_own found running decode turn
  · exact exec_vdecClose_own found running decode turn
  · exact fun s n st r x found run stream => ⟨fun u => exec_decodePictureOutput_of_left found run stream,
      exec_decodePictureOutput_none found run stream⟩
  · intro s n r run
    rw [exec_vidPoolWaitTimeout_of_run run]
    exact ⟨fun waits => by rw [if_pos waits], fun none => by rw [none]; rfl⟩
  · exact fun s s' n fuel r r' x x' => State.codePictures_result n fuel
  · exact fun s n g i st x found running encode opening => exec_vencOpen_opens found running encode opening
  · exact fun s n st found running encode opening => exec_vencOpen_full found running encode opening
  · intro s n i st x found running encode turn named own
    refine ⟨fun op first => ?_, exec_vencClose_own found running encode turn named own⟩
    rw [exec_vencEncode_own found running encode turn named own op first]
    exact ⟨fun h w => by rw [if_neg (by simp [h, w])], fun wrong => by rw [if_pos wrong]⟩
  · exact fun s n status st found running encode turn bad => ⟨exec_vencEncode_bad found running encode turn bad,
      exec_vencClose_bad found running encode turn bad⟩
  · exact fun s n st r x key req => exec_encodeUnitWritten_of_coding

end Sys2Proof.Machine
end

section
/-! Paced output (spec/13 R370-R374). -/
namespace Sys2Proof.Machine

/-! ### START, COMMIT and STOP -/

section
variable {s : State} {n c : Nat} {st : Stage} (found : s.stage n = some st) (turn : s.paceTurn n st = true) (named : c = op1 st.desc 0xE1)

section
variable (op : op1 st.desc 0xE0 = 0) {h : List Byte} {status : Nat} {s' : State}
  (read : s.ctrlRead (st.who n) (opAddr st.desc 0xF6 % 2 ^ 48) 64 = (h, status, s'))
include found turn op read

theorem exec_paceStart_bad (bad : status ≠ 0 ∨ s'.localQueue h = none) : exec (.paceStart n) s
    = .next (((if status = 0 then s' else s'.meet (some n) status).finishWorst n 1).settle s) := by
  have none : (if status = 0 then (if status = 0 then s' else s'.meet (some n) status).localQueue h else none) = .none := by
    split
    next good => exact bad.resolve_left (Classical.not_not.mpr good)
    · rfl
  change execPaceStart n s = _
  simp only [execPaceStart, found, answer]
  rw [if_neg (by simp [turn, op]), read]
  dsimp only
  rw [none]

include named in
theorem exec_paceStart_good {slots size base : Nat} {x : PaceChan} (good : status = 0) (usable : s'.localQueue h = some (slots, size, base))
    (set : x = ({ ((s'.dropCommit c).chan c) with
      running := true, secure := st.secure, fn := st.fn, rep := bit (op1 st.desc 0xE2) 0
      total := op2 st.desc 0xE4, active := op2 st.desc 0xE6, num := op4 st.desc 0xE8, den := op2 st.desc 0xEC
      start := if op8 st.desc 0xEE = 0 then (s'.dropCommit c).time else op8 st.desc 0xEE
      queue := opAddr st.desc 0xF6 % 2 ^ 48, slots := slots, slotBytes := size, slotBase := base % 2 ^ 48, last := none } : PaceChan)) :
    exec (.paceStart n) s = .next ((((s'.dropCommit c).setChan c
      { x with frame := x.firstFrame (s'.dropCommit c).time }).finishWorst n 0).settle s) := by
  change execPaceStart n s = _
  subst set named good
  simp only [execPaceStart, found, answer]
  rw [if_neg (by simp [turn, op]), read]
  simp only [if_true, usable]

end

section
variable (op : op1 st.desc 0xE0 = 1)
include found turn named op

theorem exec_paceCommit_of_turn : exec (.paceCommit n) s = .next ((
    if (s.chan c).foreign st then s.finishWorst n 4
    else if !(s.chan c).running then s.finishWorst n 2
    else if (s.chan c).slotBytes < 64 + (dTd st.desc 0).h * roundUp (dTd st.desc 0).c 64 then s.finishWorst n 2
    else if (s.chan c).latch (s.chan c).frame ≤ s.time then
      (s.dropLater c).setChan c { (s.dropLater c).chan c with later := some n }
    else (s.dropCommit c).setChan c { (s.dropCommit c).chan c with pending := some n }).settle s) := by
  change execPaceCommit n s = _
  subst named
  simp only [execPaceCommit, found, answer]
  rw [if_neg (by simp [turn, op])]

theorem exec_paceCommit_denied (other : (s.chan c).foreign st = true) :
    exec (.paceCommit n) s = .next ((s.finishWorst n 4).settle s) := by
  rw [exec_paceCommit_of_turn found turn named op, if_pos other]

variable (own : (s.chan c).foreign st = false)
include own

theorem exec_paceCommit_refused (refused : (s.chan c).running = false
    ∨ (s.chan c).slotBytes < 64 + (dTd st.desc 0).h * roundUp (dTd st.desc 0).c 64) :
    exec (.paceCommit n) s = .next ((s.finishWorst n 2).settle s) := by
  rw [exec_paceCommit_of_turn found turn named op, if_neg (by simp [own])]
  split
  · rfl
  next runs => rw [if_pos (refused.resolve_left (by simpa using runs))]

variable (runs : (s.chan c).running = true) (fits : 64 + (dTd st.desc 0).h * roundUp (dTd st.desc 0).c 64 ≤ (s.chan c).slotBytes)
include runs fits

theorem exec_paceCommit_early (early : s.time < (s.chan c).latch (s.chan c).frame) : exec (.paceCommit n) s
    = .next (((s.dropCommit c).setChan c { (s.dropCommit c).chan c with pending := some n }).settle s) := by
  rw [exec_paceCommit_of_turn found turn named op, if_neg (by simp [own]), if_neg (by simp [runs]), if_neg (Nat.not_lt_of_le fits),
    if_neg (Nat.not_le_of_lt early)]

theorem exec_paceCommit_late (late : (s.chan c).latch (s.chan c).frame ≤ s.time) : exec (.paceCommit n) s
    = .next (((s.dropLater c).setChan c { (s.dropLater c).chan c with later := some n }).settle s) := by
  rw [exec_paceCommit_of_turn found turn named op, if_neg (by simp [own]), if_neg (by simp [runs]), if_neg (Nat.not_lt_of_le fits), if_pos late]

end

section
variable (op : op1 st.desc 0xE0 = 2)
include found turn named op

theorem exec_paceStop_of_turn : exec (.paceStop n) s
    = .next ((if (s.chan c).foreign st then s.finishWorst n 4 else (s.stopChan c).finishWorst n 0).settle s) := by
  change execPaceStop n s = _
  subst named
  simp only [execPaceStop, found, answer]
  rw [if_neg (by simp [turn, op])]

end

end

/-! ### Latches -/

section
variable {s : State} {c : Nat}

theorem exec_paceLatch_stopped (stopped : (s.chan c).running = false) : exec (.paceLatch c) s = .next (s.settle s) := by
  change execPaceLatch c s = _
  simp only [execPaceLatch, stopped, Bool.not_false, if_true, answer]

/-- What a running channel `x` does at a latch, after which it is `next`. -/
def State.showFrame (s : State) (c : Nat) (x next : PaceChan) : State :=
  if x.pending.isNone ∧ (x.rep = false ∨ x.last.isNone) then s.setChan c next
  else
    let (prod, cons, s) := s.prodCons ⟨x.secure, x.fn, x.pending⟩ x.queue
    if x.slots ≤ (prod + (x.copies.filter (fun k => k.queue == x.queue)).length + 2 ^ 32 - cons) % 2 ^ 32 then s.overrun c x next
    else match s.newCopy x with
      | (none, s) => s.setChan c next
      | (some k, s) => s.setChan c { next with copies := x.copies ++ [k], last := some k }

section
variable {x next : PaceChan} (chan : x = s.chan c) (runs : x.running = true)
  (live : ∀ n, x.pending = some n → ∃ st, s.stage n = some st ∧ st.ending = false)
  (moved : next = { x with frame := x.frame + 1, pending := x.later, later := none })
include chan runs live moved

/-- The latch of a running channel whose commit's stage is not ending. -/
theorem exec_paceLatch_of_running : exec (.paceLatch c) s = .next ((s.showFrame c x next).settle s) := by
  change execPaceLatch c s = _
  subst moved
  unfold execPaceLatch State.showFrame answer
  rw [← chan]
  dsimp only
  rw [if_neg (by simp [runs])]
  cases pending : x.pending
  case' none => simp only [Bool.false_eq_true, if_false, pending]
  case' some n =>
    obtain ⟨st, found, goes⟩ := live n pending
    simp only [found, goes, Option.map_some, Option.getD_some, Bool.false_eq_true, if_false, pending]
  all_goals
    split
    · with_reducible rfl
    split
    · with_reducible rfl
    · generalize State.newCopy _ _ = copy
      obtain ⟨_ | k, t⟩ := copy <;> with_reducible rfl

omit chan runs live moved in
theorem State.showFrame_nothing (none : x.pending = none) (blank : x.rep = false ∨ x.last = .none) :
    s.showFrame c x next = s.setChan c next :=
  if_pos ⟨Option.isNone_iff_eq_none.mpr none, blank.imp_right Option.isNone_iff_eq_none.mpr⟩

end

section
variable {x next : PaceChan} {prod cons : Nat} {s' : State} (shows : x.pending ≠ none ∨ (x.rep = true ∧ x.last ≠ none))
  (read : s.prodCons ⟨x.secure, x.fn, x.pending⟩ x.queue = (prod, cons, s'))
include shows read

theorem State.showFrame_shows : s.showFrame c x next =
    if x.slots ≤ (prod + (x.copies.filter (fun k => k.queue == x.queue)).length + 2 ^ 32 - cons) % 2 ^ 32 then s'.overrun c x next
    else match s'.newCopy x with
      | (none, s) => s.setChan c next
      | (some k, s) => s.setChan c { next with copies := x.copies ++ [k], last := some k } := by
  rw [State.showFrame, if_neg, read]
  rintro ⟨none, blank⟩
  rcases shows with h | ⟨rep, last⟩
  · exact h (Option.isNone_iff_eq_none.mp none)
  · exact blank.elim (by simp [rep]) fun h => last (Option.isNone_iff_eq_none.mp h)

theorem State.showFrame_full
    (full : x.slots ≤ (prod + (x.copies.filter (fun k => k.queue == x.queue)).length + 2 ^ 32 - cons) % 2 ^ 32) :
    s.showFrame c x next = s'.overrun c x next := by
  rw [State.showFrame_shows shows read, if_pos full]

theorem State.showFrame_copies {k : PaceCopy} {s'' : State}
    (room : (prod + (x.copies.filter (fun k => k.queue == x.queue)).length + 2 ^ 32 - cons) % 2 ^ 32 < x.slots)
    (copy : s'.newCopy x = (some k, s'')) :
    s.showFrame c x next = s''.setChan c { next with copies := x.copies ++ [k], last := some k } := by
  rw [State.showFrame_shows shows read, if_neg (Nat.not_le_of_lt room), copy]

end

theorem State.newCopy_repeats {x : PaceChan} {k : PaceCopy} (none : x.pending = none) (rep : x.rep = true) (last : x.last = some k) :
    s.newCopy x = (some { k with stage := .none, frame := x.frame, shown := x.lineTime (x.frame + 1) 0 }, s) := by
  simp only [State.newCopy, none, rep, last, if_true, Option.map_some]

theorem State.overrun_stays {x next : PaceChan} (none : x.later = none) :
    s.overrun c x next = (s.setChan c { next with pending := x.pending }).tick1 (paceCtr c paceOverrun) := by
  simp only [State.overrun, none]

theorem State.overrun_stale {x next : PaceChan} {n : Nat} (later : x.later ≠ none) (pending : x.pending = some n) :
    s.overrun c x next = ((s.setChan c next).staleCommit c n).tick1 (paceCtr c paceOverrun) := by
  obtain ⟨m, later⟩ := Option.ne_none_iff_exists'.mp later
  simp only [State.overrun, later, pending]

end

/-! ### Copies that are done -/

section
variable {s : State} {c : Nat} {k : PaceCopy} {rest : List PaceCopy}

theorem exec_paceCopyComplete_of_copy (copies : (s.chan c).copies = k :: rest) : exec (.paceCopyComplete c) s = .next ((match k.stage with
    | none => s.emitFrame c k rest
    | some n => (s.emitFrame c k rest).finishWorst n
        (if (((s.emitFrame c k rest).stage n).map Stage.ending).getD false then (s.emitFrame c k rest).endedBy else 0)).settle s) := by
  change execPaceCopyComplete c s = _
  simp only [execPaceCopyComplete, copies, answer] <;> rfl

theorem State.emitFrame_of_read {s' t v : State} {prod cons base : Nat} (read : s.prodCons k.who k.queue = (prod, cons, s'))
    (slot : base = k.slotBase + (prod % k.slots) * k.slotBytes)
    (written : t = ((s'.copyRows k base (s'.chan c).lastAt).writeFor k.who base k.header 0).writeFor k.who (k.queue + 0x40)
      (toLE 4 ((prod + 1) % 2 ^ 32)) 0)
    (counted : v = (t.setChan c { t.chan c with copies := rest, lastAt := base }).tick1
      (paceCtr c (if k.stage.isSome then paceEmitted else paceRepeated))) :
    s.emitFrame c k rest = (if k.shown < v.time then v.tick1 (paceCtr c paceLate) else v) := by
  subst counted written slot
  rw [State.emitFrame, read]

theorem State.copyRows_eq (s : State) (k : PaceCopy) (base src : Nat) : s.copyRows k base src = k.rows.zipIdx.foldl (fun (s : State) r =>
    if k.stage.isSome then s.writeFor k.who (base + 64 + r.2 * k.pitch) r.1 0
    else (s.readFor k.who (src + 64 + r.2 * k.pitch) r.1.length 0).2.writeFor k.who (base + 64 + r.2 * k.pitch)
      (s.readFor k.who (src + 64 + r.2 * k.pitch) r.1.length 0).1 0) s := by
  rw [State.copyRows]
  refine congrArg (fun f => List.foldl f s k.rows.zipIdx) (funext fun s => funext fun r => ?_)
  by_cases commit : k.stage.isSome = true
  · simp only [if_pos commit]
  · simp only [if_neg commit]

end

/-- The lines of a frame follow one another in time. -/
theorem PaceChan.lineTime_mono (x : PaceChan) (f : Nat) {l l' : Nat} (after : l ≤ l') : x.lineTime f l ≤ x.lineTime f l' :=
  Nat.add_le_add_left (Nat.div_le_div_right (Nat.mul_le_mul_right _ (Nat.add_le_add_left after _))) _

theorem PaceChan.lineTime_zero (x : PaceChan) : x.lineTime 0 0 = x.start := by simp [PaceChan.lineTime]

/-- Settles O49: the branches of the commands, of a latch and of a copy that is done. -/
theorem pacedOutput : Obligations.PacedOutput := by
  unfold Obligations.PacedOutput
  refine ⟨fun s n c st found turn named => ⟨fun h status s' op read => ⟨?_, ?_⟩, fun op own => ⟨fun runs fits => ⟨?_, ?_⟩, ?_⟩,
      fun op own => ⟨?_, (s.stopChan_running c c).trans (if_pos rfl)⟩, fun other => ⟨fun op => ?_, fun op => ?_⟩⟩,
    fun s c => exec_paceLatch_stopped, fun s c x next chan runs live moved => ⟨?_, fun prod cons s' shows read => ⟨?_, ?_⟩⟩,
    fun s x k => State.newCopy_repeats, fun s c x next => ⟨State.overrun_stays, fun n => State.overrun_stale⟩,
    fun s c k rest copies => ⟨?_, ?_⟩, fun s s' t v c prod cons base k rest => State.emitFrame_of_read, State.copyRows_eq,
    fun x f => ⟨rfl, x.lineTime_zero, fun l l' => x.lineTime_mono f⟩⟩
  · exact fun slots size base x => exec_paceStart_good found turn named op read
  · exact exec_paceStart_bad found turn op read
  · exact exec_paceCommit_early found turn named op own runs fits
  · exact exec_paceCommit_late found turn named op own runs fits
  · exact exec_paceCommit_refused found turn named op own
  · rw [exec_paceStop_of_turn found turn named op, if_neg (by simp [own])]
  · exact exec_paceCommit_denied found turn named op other
  · rw [exec_paceStop_of_turn found turn named op, if_pos other]
  · intro none blank
    rw [exec_paceLatch_of_running chan runs live moved, State.showFrame_nothing none blank]
  · intro full
    rw [exec_paceLatch_of_running chan runs live moved, State.showFrame_full shows read full]
  · intro k s'' room copy
    rw [exec_paceLatch_of_running chan runs live moved, State.showFrame_copies shows read room copy]
  · intro own
    rw [exec_paceCopyComplete_of_copy copies, own]
  · rintro n u own rfl
    rw [exec_paceCopyComplete_of_copy copies, own]

end Sys2Proof.Machine
end

section
/-! A Secure object in a transfer that an Open manager continues (spec/15 R401, R412). -/
namespace Sys2Proof.Machine

/-- A manager in no session, which is Open. -/
def openManager : Manager := ⟨.i3c 0, 1, none⟩

/-- A download of 9 bytes to a Secure object, of which nothing is here yet. -/
def secureDownload : Xfer := { manager := openManager, tag := 7, index := 0x1F00, sub := 2, write := true, total := 9 }

/-- The device hears the manager, whose context holds the download. -/
def State.downloading : State :=
  { boot := { ended := [(0, 0)] }, dict := { addrs := [9], eids := [9], xfers := [(0, secureDownload)] } }

/-- The first byte of the download. -/
def downloadSegment : List Byte := segBytes 0x05 0 7 1 0x1F00 2 [1#8]

/-- The bytes staged for transfer 0 after a command. -/
def stagedBytes : Out → Option Nat
  | .next t => (t.dict.xfers.find 0).map Xfer.done
  | _ => none

theorem downloading_refuses : stagedBytes (exec (.writeSeg openManager downloadSegment) State.downloading) = some 0 := by
  decide +kernel

theorem downloading_hears : State.downloading.Hears (State.downloading.hear (mgrKey openManager)) openManager downloadSegment :=
  ⟨by decide +kernel, by decide +kernel, by decide +kernel, rfl, fun l answered => absurd answered (by decide +kernel +revert)⟩

theorem downloading_continues : (State.downloading.hear (mgrKey openManager)).Continues openManager downloadSegment 0 secureDownload :=
  ⟨by decide +kernel, by decide +kernel, by decide +kernel, by decide +kernel, by decide +kernel, by decide +kernel⟩

/-- Refutes O50: a WRITE_SEG to a Secure object from a manager that is Open by then is answered with ABORT, and its bytes are not staged
(R401; checks of R416). -/
theorem not_managerRequests : ¬ Obligations.ManagerRequests := by
  intro all
  obtain ⟨-, continued, -⟩ := all
  have staged := (continued _ _ _ _ _ _ downloading_hears downloading_continues).2.1 (by decide +kernel) rfl (by decide +kernel)
    (by decide +kernel)
  have refused := downloading_refuses
  rw [staged] at refused
  exact absurd refused (by decide +kernel)

end Sys2Proof.Machine
end

section
/-! Objects whose writes act (spec/08 R216, R218; spec/15 R419; spec/16 R434, R444; spec/17 R475; spec/18 R491). -/
namespace Sys2Proof.Machine

theorem getD_of_lt {α : Type} (l : List α) (d : α) {k : Nat} (held : k < l.length) : l.getD k d = l[k] := by
  rw [List.getD_eq_getElem?_getD, List.getElem?_eq_getElem held, Option.getD_some]

theorem getD_of_le {α : Type} (l : List α) (d : α) {k : Nat} (beyond : l.length ≤ k) : l.getD k d = d := by
  rw [List.getD_eq_getElem?_getD, List.getElem?_eq_none beyond, Option.getD_none]

/-! ### A value that is accepted -/

section
variable {s h : State} {m : Manager} {i sub : Nat} {e : ObjRow} {v : List Byte}

theorem State.writeWhole_admitted {t : State} (admits : h.Admits m i sub e v) (applied : h.applyValue m i sub e v = (0, t)) :
    h.writeWhole m i sub e v = (t.ackOf e, t) := by
  have serves : h.fwState i sub = false := by rw [State.fwState, admits.slot]
  rw [State.writeWhole]
  simp only [admits.access, serves, admits.free, admits.fits, admits.slot, applied]
  rfl

theorem managerWrite_admitted {t : State} (reaches : s.reaches m = true) (eid : s.hasEid m.via = true) (heard : h = s.hear (mgrKey m))
    (object : h.checkObject i sub = none) (entry : objEntry i sub = some e) (admits : h.Admits m i sub e v)
    (applied : h.applyValue m i sub e v = (0, t)) :
    answer s (s.managerWrite m i sub v) = .next ((t.sendReply m (segBytes 0x03 1 0 0 i sub []) (t.ackOf e)).settle s) := by
  have written : h.writeWhole m i sub e v = (t.ackOf e, t) := State.writeWhole_admitted admits applied
  subst heard
  simp only [State.managerWrite, reaches, eid, object, entry, written, answer]
  rfl

/-- A value of an object that has no rule of its own. -/
theorem State.applyValue_other (defaults : i ≠ 0x1011) (owner : i ≠ 0x7000) (log : i ≠ 0x9000) (record : i ≠ 0xA000) :
    h.applyValue m i sub e v =
      if 0x7100 ≤ i ∧ i ≤ 0x71FF then h.regionRun (i - 0x7100) sub (ofLE v)
      else if 0x4500 ≤ i ∧ i ≤ 0x45FF then h.fnWrite (i - 0x4500) v
      else if 0x5400 ≤ i ∧ i ≤ 0x57FF ∧ (h.peer (i - 0x5400)).ports ≠ [] then (0x0D, h)
      else h.settingWrite i sub e v (h.mgrSecure m) := by
  unfold State.applyValue
  dsimp only
  split
  · exact absurd rfl defaults
  · exact absurd rfl owner
  · exact absurd rfl owner
  · exact absurd rfl log
  · exact absurd rfl record
  · exact absurd rfl record
  · rfl

theorem State.applyValue_region {d : Nat} (listed : d < 256) :
    h.applyValue m (0x7100 + d) sub e v = h.regionRun d sub (ofLE v) := by
  rw [State.applyValue_other (by omega) (by omega) (by omega) (by omega), if_pos (by omega), Nat.add_sub_cancel_left]

theorem State.applyValue_image {k : Nat} (listed : k < 256) : h.applyValue m (0x4500 + k) sub e v = h.fnWrite k v := by
  rw [State.applyValue_other (by omega) (by omega) (by omega) (by omega), if_neg (by omega), if_pos (by omega), Nat.add_sub_cancel_left]

theorem State.fnWrite_legal {k : Nat} (legal : v = [] ∨ imgLegal v = true) :
    h.fnWrite k v = (0, { h with fnSlots := h.fnSlots.put k { image := v, version := (h.fnSlots.get {} k).version + 1 } }) :=
  if_pos (by simpa using legal)

theorem State.claimOwner_free {k : Nat} (unowned : h.ownerSlot = none)
    (free : (List.range 4).find? (fun k => (h.fuses.owners.getD k {}).digest.isNone) = some k) :
    h.claimOwner v = some ((h.setOwner k { (h.fuses.owners.getD k {}) with digest := some v }).log 0x0304 k 0 true) := by
  simp only [State.claimOwner, unowned, Option.isSome_none, Bool.false_eq_true, if_false, free]

/-- What is written as a word is read back as it. -/
theorem ofLE_word (w : Word32) : ofLE (toLE 4 w.toNat) = w.toNat :=
  (ofLE_toLE 4 _).trans (Nat.mod_eq_of_lt w.isLt)

theorem State.regionRun_ctrl {d w : Nat} {new : Region} (changed : new = (h.region d).withCtrl (w &&& regCtrlRw.toNat))
    (accepted : h.regRefusal d new = none) : h.regionRun d 1 w = (0, h.applyRegion d new) := by
  subst changed
  simp only [State.regionRun, accepted, if_true]

theorem State.regionRun_extent {d w : Nat} (extent : sub ≠ 1) (idle : (h.region d).valid = false) (whole : (h.region d).clearing = false) :
    h.regionRun d sub w
      = (0, h.setRegion d (if sub = 2 then { h.region d with base := w % 2 ^ 27 } else { h.region d with size := w % 2 ^ 27 })) := by
  simp only [State.regionRun, if_neg extent, idle, whole, Bool.false_eq_true, if_false]

end

/-! ### An owner that is revoked -/

/-- `t` holds the fuses and the sessions of `s`. -/
def State.SameSecrets (s t : State) : Prop := t.fuses = s.fuses ∧ t.sec.sessions = s.sec.sessions

section
variable {s t u : State}

theorem State.SameSecrets.refl (s : State) : s.SameSecrets s := ⟨rfl, rfl⟩

theorem State.SameSecrets.trans (h : s.SameSecrets t) (k : t.SameSecrets u) : s.SameSecrets u := ⟨k.1.trans h.1, k.2.trans h.2⟩

theorem State.SameSecrets.foldl {α : Type} {f : State → α → State} (each : ∀ (t : State) a, t.SameSecrets (f t a)) (l : List α) (s : State) :
    s.SameSecrets (l.foldl f s) :=
  List.foldlRecOn (motive := fun t : State => s.SameSecrets t) l f (.refl s) fun t h a _ => h.trans (each t a)

theorem State.leaveTd_sameSecrets (s : State) (f : Nat) (x : TdState) : s.SameSecrets (s.leaveTd f x) := by
  by_cases runs : s.tdi f = .run
  · obtain ⟨-, -, fuses, sessions⟩ := (s.resetRings f).endSecure_td f
    have reset := (s.resetRings_ends f).state
    rw [State.leaveTd_of_run x runs]
    constructor
    · rw [State.setTd_fuses, fuses, reset]
    · rw [State.setTd_sec, sessions, reset]
  · rw [State.leaveTd_of_stopped x runs]
    exact ⟨rfl, rfl⟩

theorem State.clearSecure_sameSecrets (s : State) : s.SameSecrets s.clearSecure :=
  State.SameSecrets.foldl (f := State.startClearing) (fun _ _ => ⟨rfl, rfl⟩) _ _

theorem State.touchStore_sameSecrets (s : State) : s.SameSecrets s.touchStore := by
  unfold State.touchStore
  split <;> exact ⟨rfl, rfl⟩

theorem State.followSettings_sameSecrets (s : State) : s.SameSecrets s.followSettings := by
  unfold State.followSettings
  extract_lets h _ t
  have set : s.SameSecrets t := by
    unfold t
    split <;> exact ⟨rfl, rfl⟩
  exact set.trans (.foldl (f := State.laserOutputs) (fun _ _ => ⟨rfl, rfl⟩) _ _)

theorem State.beginCommit_sameSecrets (s : State) (token : Bool) : s.SameSecrets (s.beginCommit token) := by
  unfold State.beginCommit
  split <;> exact ⟨rfl, rfl⟩

theorem State.wipeSettings_sameSecrets (s : State) : s.SameSecrets s.wipeSettings := by
  unfold State.wipeSettings
  extract_lets t
  have wiped : s.SameSecrets t := by
    refine (State.SameSecrets.foldl (fun u o => ?_) pObjects s).trans
      ((State.touchStore_sameSecrets _).trans (State.followSettings_sameSecrets _))
    split <;> exact ⟨rfl, rfl⟩
  split
  · exact wiped
  · exact wiped.trans (t.beginCommit_sameSecrets true)

/-- The state in which a revoked owner's slot is burnt and its sessions are ended. -/
def State.burntSlot (s : State) (k : Nat) : State :=
  let t := (s.setOwner k { s.fuses.owners.getD k {} with revoked := true }).log 0x0304 k 1 true
  { t with sec := { t.sec with sessions := t.sec.sessions.filter (fun p => !p.2.secure) } }

theorem State.revokeOwner_secrets (revoked : s.revokeOwner = some t) : ∃ k, s.ownerSlot = some k ∧ (s.burntSlot k).SameSecrets t := by
  unfold State.revokeOwner at revoked
  split at revoked
  · exact absurd revoked (by simp)
  next k slot =>
    refine ⟨k, slot, Option.some.inj revoked ▸ ?_⟩
    have left : (s.burntSlot k).SameSecrets ((List.range 65).foldl (fun u f => if u.tdi f = .run then u.leaveTd f .error else u)
        (s.burntSlot k)) := by
      refine .foldl (fun u f => ?_) _ _
      split
      · exact u.leaveTd_sameSecrets f _
      · exact .refl u
    have emptied : ∀ u : State, u.SameSecrets u.emptySecureFns := fun u => ⟨rfl, rfl⟩
    exact ((left.trans (State.clearSecure_sameSecrets _)).trans (emptied _)).trans (State.wipeSettings_sameSecrets _)

theorem State.revokeOwner_burnt (revoked : s.revokeOwner = some t) {k : Nat} {d : List Byte} (slot : s.ownerSlot = some k)
    (owned : (s.fuses.owners.getD k {}).digest = some d) : t.fuses.owners.getD k {} = { digest := some d, revoked := true } := by
  obtain ⟨j, same, fuses, -⟩ := State.revokeOwner_secrets revoked
  obtain rfl := Option.some.inj (slot.symm.trans same)
  have listed : k < s.fuses.owners.length := by
    refine Decidable.byContradiction fun beyond => ?_
    rw [getD_of_le _ _ (Nat.le_of_not_lt beyond)] at owned
    exact absurd owned (by simp)
  rw [fuses]
  change (s.fuses.owners.set k { s.fuses.owners.getD k {} with revoked := true }).getD k {} = _
  rw [getD_of_lt _ _ (by simpa using listed), List.getElem_set_self]
  exact congrArg (fun x => ({ digest := x, revoked := true } : OwnerSlot)) owned

theorem State.revokeOwner_sessions (revoked : s.revokeOwner = some t) : ∀ p ∈ t.sec.sessions, p.2.secure = false := by
  obtain ⟨k, -, -, sessions⟩ := State.revokeOwner_secrets revoked
  intro p member
  rw [sessions] at member
  simpa using (List.mem_filter.mp member).2

end

/-- Settles O51: what each value does once its write is admitted; a revoked owner's slot and the sessions by what the five steps of a
revocation leave. -/
theorem actingObjects : Obligations.ActingObjects := by
  unfold Obligations.ActingObjects
  intro s h m reaches eid heard i sub e v object entry admits done acked
  have write : ∀ {t : State}, h.applyValue m i sub e v = (0, t) → answer s (s.managerWrite m i sub v) = done t := fun applied =>
    (managerWrite_admitted reaches eid heard object entry admits applied).trans (congrFun acked _).symm
  refine ⟨?_, ?_, ?_, ?_, ?_, ?_, ?_, ?_, ?_⟩
  · rintro k listed rfl rfl legal
    exact write ((State.applyValue_image listed).trans (State.fnWrite_legal legal))
  · rintro rfl rfl rfl
    exact write rfl
  · rintro rfl rfl rfl
    exact write rfl
  · rintro rfl rfl rfl
    exact write rfl
  · rintro k rfl rfl whole session unowned free
    refine write ?_
    have claimed : ¬ v.length ≠ 48 ∧ ¬ m.session.isNone = true := ⟨Classical.not_not.mpr whole, by simpa [Option.isSome_iff_ne_none] using session⟩
    simp only [State.applyValue, if_neg claimed.1, if_neg claimed.2, State.claimOwner_free unowned free]
  · rintro t rfl rfl rfl revoked
    refine ⟨write ?_, fun k d => State.revokeOwner_burnt revoked, State.revokeOwner_sessions revoked⟩
    simp only [State.applyValue, revoked]
    rfl
  · rintro d w new rfl listed rfl rfl changed accepted
    exact write ((State.applyValue_region listed).trans (by rw [ofLE_word, State.regionRun_ctrl changed accepted]))
  · rintro d w rfl listed rfl idle whole
    refine ⟨?_, ?_⟩
    · rintro rfl
      exact write ((State.applyValue_region listed).trans (by rw [ofLE_word, State.regionRun_extent (by decide) idle whole, if_pos rfl]))
    · rintro rfl
      exact write ((State.applyValue_region listed).trans (by
        rw [ofLE_word, State.regionRun_extent (by decide) idle whole, if_neg (by decide)]))
  · rintro w rfl rfl rfl
    refine write ?_
    have same : ofLE (toLE 8 w.toNat) = w.toNat := (ofLE_toLE 8 _).trans (Nat.mod_eq_of_lt w.isLt)
    simp only [State.applyValue, same]

end Sys2Proof.Machine
end

section
/-! MCTP control and the I3C target (spec/15 R406-R408). -/
namespace Sys2Proof.Machine

/-! ### MCTP control -/

section
variable {s : State} {via : Transport} {k : Nat} (named : eidIndex via = some k) (up : s.aoUp = true) (hears : s.hears via = true)
include named up hears

theorem State.mctp_of_heard {act : Nat → State → Nat × Nat × List Byte × State} {cmd code : Nat} {data : List Byte} {t : State}
    (acts : act k s = (cmd, code, data, t)) :
    answer s (s.mctp via act) = .next ((t.reply via (.mctp via ([0#8] ++ toLE 1 cmd ++ toLE 1 code ++ data))).settle s) := by
  simp only [State.mctp, named, up, hears, acts, answer]
  rfl

end

theorem State.setEid_eids {s : State} {via : Transport} {k eid : Nat} (held : k < s.dict.eids.length) :
    (s.setEid via k eid).dict.eids = s.dict.eids.set k eid := by
  unfold State.setEid
  split
  next same =>
    rw [getD_of_lt _ _ held] at same
    rw [← same, List.set_getElem_self]
  · rfl

/-! ### The I3C target -/

theorem List.getD_set_self {α : Type} {l : List α} {k : Nat} (held : k < l.length) (a d : α) : (l.set k a).getD k d = a := by
  rw [getD_of_lt _ _ (by simpa using held), List.getElem_set_self]

section
variable {s : State} {bus : Nat}

theorem State.setAddr_addrs (held : bus < s.dict.addrs.length) (a : Nat) : (s.setAddr bus a).dict.addrs = s.dict.addrs.set bus a := by
  unfold State.setAddr
  split
  next same =>
    rw [getD_of_lt _ _ held] at same
    rw [← same, List.set_getElem_self]
  · rfl

theorem State.setAddr_rest (s : State) (bus a : Nat) :
    (s.setAddr bus a).dict.eids = s.dict.eids ∧ (s.setAddr bus a).dict.waiting = s.dict.waiting ∧ (s.setAddr bus a).mem = s.mem := by
  unfold State.setAddr
  split <;> exact ⟨rfl, rfl, rfl⟩

theorem State.loseAddr_eids (held : bus < s.dict.eids.length) (d : Nat) : (s.loseAddr bus).dict.eids.getD bus d = 0 := by
  have eids : (s.loseAddr bus).dict.eids = s.dict.eids.set bus 0 := State.setEid_eids held
  rw [eids, List.getD_set_self held]

theorem State.loseAddr_waiting (s : State) (bus : Nat) : ∀ w ∈ (s.loseAddr bus).dict.waiting, w.1 ≠ bus := fun w member => by
  simpa using (List.mem_filter.mp member).2

theorem State.loseAddr_rest (s : State) (bus : Nat) : (s.loseAddr bus).dict.addrs = s.dict.addrs ∧ (s.loseAddr bus).mem = s.mem := by
  have set : (s.setEid (.i3c bus) bus 0).dict.addrs = s.dict.addrs ∧ (s.setEid (.i3c bus) bus 0).mem = s.mem := by
    unfold State.setEid
    split <;> exact ⟨rfl, rfl⟩
  exact set

section
variable (up : s.aoUp = true)
include up

theorem exec_entdaa_free (a : Nat) (free : s.dict.addrs.getD bus 0 = 0) : exec (.entdaa bus a) s
    = .next (((s.setAddr bus a).emit (.i3c bus 2 (toBE 6 s.provisionedId ++ [6#8, 0#8]))).settle s) := by
  change execEntdaa bus a s = _
  simp only [execEntdaa, up, free, answer, Bool.not_true, Bool.false_eq_true, if_false, if_true]

theorem exec_entdaa_held (a : Nat) (held : s.dict.addrs.getD bus 0 ≠ 0) : exec (.entdaa bus a) s
    = .next ((((s.loseAddr bus).setAddr bus a).emit (.i3c bus 2 (toBE 6 (s.loseAddr bus).provisionedId ++ [6#8, 0#8]))).settle s) := by
  change execEntdaa bus a s = _
  simp only [execEntdaa, up, answer, Bool.not_true, Bool.false_eq_true, if_false, if_neg held]

theorem exec_i3cHotJoinTimer_free (free : s.dict.addrs.getD bus 0 = 0) :
    exec (.i3cHotJoinTimer bus) s = .next ((s.emit (.i3c bus 1 [])).settle s) := by
  change execI3cHotJoinTimer bus s = _
  simp only [execI3cHotJoinTimer, up, free, answer]
  rfl

end

section
variable (hears : s.hears (.i3c bus) = true)
include hears

theorem exec_setnewda_heard (a : Nat) : exec (.setnewda bus a) s = .next ((s.setAddr bus a).settle s) := by
  change execSetnewda bus a s = _
  simp only [execSetnewda, hears, answer]
  rfl

theorem exec_rstdaa_heard : exec (.rstdaa bus) s = .next (((s.loseAddr bus).setAddr bus 0).settle s) := by
  change execRstdaa bus s = _
  simp only [execRstdaa, hears, answer]
  rfl

theorem exec_setmwl_heard {n : Nat} (low : 64 ≤ n) (high : n ≤ 256) :
    exec (.setmwl bus n) s = .next (({ s with dict := { s.dict with mwl := s.dict.mwl.set bus n } } : State).settle s) := by
  change execSetmwl bus n s = _
  simp only [execSetmwl, answer]
  rw [if_neg (by simp [hears, low, high])]

theorem exec_setmrl_heard {n : Nat} (low : 64 ≤ n) (high : n ≤ 256) :
    exec (.setmrl bus n) s = .next (({ s with dict := { s.dict with mrl := s.dict.mrl.set bus n } } : State).settle s) := by
  change execSetmrl bus n s = _
  simp only [execSetmrl, answer]
  rw [if_neg (by simp [hears, low, high])]

/-- RSTDAA takes the address, and with it the endpoint identifier and the announced answers, of its bus alone. -/
theorem exec_rstdaa_forgets (listed : bus < 2) (addrs : s.dict.addrs.length = 2) (eids : s.dict.eids.length = 3) :
    ∃ t, exec (.rstdaa bus) s = .next t ∧ t.dict.addrs.getD bus 1 = 0 ∧ t.dict.eids.getD bus 1 = 0
      ∧ (∀ w ∈ t.dict.waiting, w.1 ≠ bus) ∧ t.dict.addrs.getD (1 - bus) 0 = s.dict.addrs.getD (1 - bus) 0 := by
  obtain ⟨same, mem⟩ := s.loseAddr_rest bus
  obtain ⟨eid, waiting, mem'⟩ := (s.loseAddr bus).setAddr_rest bus 0
  have still : (((s.loseAddr bus).setAddr bus 0).mem.stalled && !s.mem.stalled) = false := by
    rw [mem', mem, Bool.and_not_self]
  have dict := State.settle_dict _ s still
  have taken : ((s.loseAddr bus).setAddr bus 0).dict.addrs = s.dict.addrs.set bus 0 := by
    rw [State.setAddr_addrs (by rw [same, addrs]; exact listed), same]
  refine ⟨_, exec_rstdaa_heard hears, ?_, ?_, ?_, ?_⟩
  · rw [dict, taken, List.getD_set_self (by rw [addrs]; exact listed)]
  · rw [dict, eid, State.loseAddr_eids (by omega)]
  · rw [dict, waiting]
    exact s.loseAddr_waiting bus
  · rw [dict, taken, List.getD_eq_getElem?_getD, List.getD_eq_getElem?_getD, List.getElem?_set_ne (by omega)]

end

theorem exec_i3cPrivateRead_waiting {w : Nat × OutMsg} (oldest : s.dict.waiting.find? (fun w => w.1 == bus) = some w) :
    exec (.i3cPrivateRead bus) s
      = .next ((({ s with dict := { s.dict with waiting := s.dict.waiting.erase w } } : State).emit w.2).settle s) := by
  change execI3cPrivateRead bus s = _
  simp only [execI3cPrivateRead, oldest, answer]

end

/-- Settles O52: each MCTP control command by its answer, each I3C command by what it gives and takes. -/
theorem managementBuses : Obligations.ManagementBuses := by
  unfold Obligations.ManagementBuses
  refine ⟨fun s via k done named up hears answered => ?_, fun s bus listed addrs eids => ⟨fun a up free => ⟨?_, ?_⟩,
    fun a u up held lost => ⟨?_, ?_, ?_⟩, fun hears => ⟨?_, ?_, fun n low high => ⟨?_, ?_⟩⟩, fun w oldest => ?_, fun up free => ?_⟩⟩
  · subst answered
    refine ⟨fun op eid known low high => ⟨?_, fun held => State.setEid_eids held⟩, fun op eid bad => ?_, ?_, ?_, fun ty known => ?_, ?_, ?_, ?_,
      fun cmd => ?_⟩
    · exact State.mctp_of_heard named up hears (if_neg (by omega))
    · exact State.mctp_of_heard named up hears (if_pos bad)
    · exact State.mctp_of_heard named up hears rfl
    · exact State.mctp_of_heard named up hears rfl
    · exact State.mctp_of_heard named up hears (if_pos (by simpa using known))
    · exact State.mctp_of_heard named up hears rfl
    · exact State.mctp_of_heard named up hears rfl
    · exact State.mctp_of_heard named up hears rfl
    · exact State.mctp_of_heard named up hears rfl
  · exact exec_entdaa_free up a free
  · rw [State.setAddr_addrs (by omega), List.getD_set_self (by omega)]
  · subst lost
    exact exec_entdaa_held up a held
  · subst lost
    exact State.loseAddr_eids (by omega) 1
  · subst lost
    exact s.loseAddr_waiting bus
  · exact exec_setnewda_heard hears
  · exact exec_rstdaa_forgets hears listed addrs eids
  · exact exec_setmwl_heard hears low high
  · exact exec_setmrl_heard hears low high
  · exact exec_i3cPrivateRead_waiting oldest
  · exact exec_i3cHotJoinTimer_free up free

end Sys2Proof.Machine
end

section
/-! The persistent store (spec/15 R421, R424, R426, R428). -/
namespace Sys2Proof.Machine

section
variable {s : State}

section
variable (works : s.store.absent = false) (sound : s.store.failed = false)
include works sound

/-- The commit that begins, where there is a store and it works: to the bank that is not the winner. -/
theorem State.beginCommit_store (token : Bool) : (s.beginCommit token).store = { s.store with
    writing := some (if s.store.winner = some 0 then 1 else 0, s.nextSeq, recordBytes s.nextSeq s.incarnation 0xFFFFFFFF s.recordEntries)
    banks := s.store.banks.set (if s.store.winner = some 0 then 1 else 0) [], pending := false, again := false
    tokens := if token then s.store.tokens - 1 else s.store.tokens } := by
  rw [State.beginCommit, if_neg (by simp [works, sound])]

theorem exec_storeCommitStart_due (pending : s.store.pending = true) (idle : s.store.writing = none) (token : s.store.tokens ≠ 0)
    (supplied : s.warned = false) : exec .storeCommitStart s = .next ((s.beginCommit true).settle s)
    ∧ (s.beginCommit true).store.tokens = s.store.tokens - 1 ∧ (s.beginCommit true).store.pending = false
    ∧ ∃ target, (s.beginCommit true).store.writing
        = some (target, s.nextSeq, recordBytes s.nextSeq s.incarnation 0xFFFFFFFF s.recordEntries)
        ∧ s.store.winner ≠ some target ∧ (s.beginCommit true).store.banks = s.store.banks.set target [] := by
  have begun := State.beginCommit_store works sound true
  refine ⟨?_, by rw [begun]; rfl, by rw [begun], _, by rw [begun], ?_, by rw [begun]⟩
  · change execStoreCommitStart s = _
    simp only [execStoreCommitStart, answer]
    rw [if_neg (by simp [pending, idle, token, supplied])]
  · split
    next first => simp [first]
    next other => exact other

end

section
variable {b n : Nat} {image : List Byte} (writing : s.store.writing = some (b, n, image))
include writing

theorem State.endCommit_verified : s.endCommit true = { s with store := { s.store with
    writing := none, again := false, winner := some b, seq := n
    banks := s.store.banks.set b (putBytes image 0x14 (toLE 4 0)) } } := by
  simp only [State.endCommit, writing, if_true]

theorem State.endCommit_again (first : s.store.again = false) :
    s.endCommit false = { s with store := { s.store with again := true } } := by
  simp only [State.endCommit, writing, first, Bool.false_eq_true, if_false, Bool.not_false, if_true]

theorem State.endCommit_failed (second : s.store.again = true) : s.endCommit false
    = ({ s with store := { s.store with writing := none, failed := true, pending := false } } : State).log 0x0601 0 n := by
  simp only [State.endCommit, writing, second, Bool.false_eq_true, if_false, Bool.not_true]

end

theorem exec_storeCommitEnd_of_end {t : State} {verified : Bool} (supplied : s.warned = false) (ended : s.endCommit verified = t)
    (stays : t.boot.restart = false) : exec (.storeCommitEnd verified) s = .next (t.settle s) := by
  change execStoreCommitEnd verified s = _
  subst ended
  simp only [execStoreCommitEnd, supplied, stays, answer, Bool.false_eq_true, false_and, if_false]

theorem exec_fwSlotEraseComplete_erasing {k : Nat} (erasing : (s.store.fw.getD k {}).st = 1) (supplied : s.warned = false) :
    exec (.fwSlotEraseComplete k) s = .next ((s.setFw k { (s.store.fw.getD k {}) with
      st := 0, blocks := (s.store.fw.getD k {}).erasing, erasing := 0, image := [] }).settle s) := by
  change execFwSlotEraseComplete k s = _
  simp only [execFwSlotEraseComplete, answer]
  rw [if_neg (not_or.mpr ⟨Classical.not_not.mpr erasing, by simp [supplied]⟩)]

end

/-- Settles O53: the beginning of a commit, its end by how it reads back, the token and the erased blocks. -/
theorem storeCommits : Obligations.StoreCommits := by
  unfold Obligations.StoreCommits
  refine ⟨fun s pending idle token supplied works sound => exec_storeCommitStart_due works sound pending idle token supplied,
    fun s b n image writing supplied stays => ⟨?_, fun first => ?_, fun second => ?_⟩, fun s => rfl,
    fun s k => exec_fwSlotEraseComplete_erasing⟩
  · exact exec_storeCommitEnd_of_end supplied (State.endCommit_verified writing) stays
  · exact exec_storeCommitEnd_of_end supplied (State.endCommit_again writing first) stays
  · exact exec_storeCommitEnd_of_end supplied (State.endCommit_failed writing second) stays

end Sys2Proof.Machine
end

section
/-! SPDM (spec/16 R442-R446). -/
namespace Sys2Proof.Machine

section
variable {s t : State} {via : Transport}

theorem State.spdm_of_up (up : t.spdmUp via = true) (code p1 p2 : Nat) (body : List Byte) :
    t.spdm via code p1 p2 body = t.headland.spdmSend via (spdmMsg code p1 p2 body) := if_pos up

/-- An answer to a request, where the responder is up in the state that it leaves. -/
theorem answer_spdm (up : t.spdmUp via = true) (code p1 p2 : Nat) (body : List Byte) :
    answer s (t.spdm via code p1 p2 body) = .next ((t.headland.spdmSend via (spdmMsg code p1 p2 body)).settle s) := by
  rw [State.spdm_of_up up, answer]

theorem State.dropSession_find (s : State) (n : Nat) : (s.dropSession n).sec.sessions.find n = none :=
  Map.find_of_not_listed fun p member => by simpa using (List.mem_filter.mp member).2

variable (up : s.spdmUp via = true)
include up

/-! ### What the device is and has -/

theorem exec_getCertificate_part {off len : Nat} (within : off ≤ Config.certChain.length) : exec (.getCertificate via 0 off len) s
    = .next ((s.headland.spdmSend via (spdmMsg 0x02 0 0 (toLE 2 ((Config.certChain.drop off).take len).length
      ++ toLE 2 (Config.certChain.length - off - ((Config.certChain.drop off).take len).length)
      ++ (Config.certChain.drop off).take len))).settle s) := by
  change execGetCertificate via 0 off len s = _
  rw [execGetCertificate, if_neg (by simp [within])]
  exact answer_spdm up _ _ _ _

theorem exec_getCertificate_other {slot : Nat} (other : slot ≠ 0) (off len : Nat) : exec (.getCertificate via slot off len) s
    = .next ((s.headland.spdmSend via (spdmMsg 0x7F 1 0 [])).settle s) := by
  change execGetCertificate via slot off len s = _
  rw [execGetCertificate, if_pos (.inl other)]
  exact answer_spdm up _ _ _ _

theorem exec_challenge_slot (nonce : List Byte) : exec (.challenge via 0 nonce) s
    = .next ((s.fresh.2.headland.spdmSend via (spdmMsg 0x03 0 1 (Config.sha384 Config.certChain ++ s.freeBytes 0 32
      ++ Config.akSign (nonce ++ (Config.sha384 Config.certChain ++ s.freeBytes 0 32))))).settle s) := by
  change execChallenge via 0 nonce s = _
  rw [execChallenge, if_neg (by decide)]
  exact answer_spdm (t := s.fresh.2) up _ _ _ _

theorem exec_getMeasurements_listed {i : Nat} (listed : i ≤ 5 ∨ i = 0xFF) (signed : Bool) (nonce : List Byte) {body : List Byte}
    (blocks : body = (if i = 0 then [] else if i = 0xFF then (range 1 5).flatMap (fun k => toLE 1 k ++ s.measurement k)
      else toLE 1 i ++ s.measurement i)) : exec (.getMeasurements via i signed nonce) s
    = .next ((s.fresh.2.headland.spdmSend via (spdmMsg 0x60 (if i = 0 then 5 else 0) 0
      (body ++ (if signed then s.freeBytes 0 32 ++ Config.akSign (nonce ++ s.freeBytes 0 32 ++ body) else [])))).settle s) := by
  change execGetMeasurements via i signed nonce s = _
  subst blocks
  rw [execGetMeasurements, if_neg (by omega)]
  exact answer_spdm (t := s.fresh.2) up _ _ _ _

/-! ### Sessions -/

theorem exec_keyExchange_opens {n : Nat} (body : List Byte) (healthy : s.sec.entropyFail = false)
    (free : (List.range 4).find? (fun n => (s.sec.sessions.find n).isNone) = some n) : exec (.keyExchange via body) s
    = .next (((s.fresh.2.setSession n { via := via, keyGen := s.freeCount }).headland.spdmSend via (spdmMsg 0x64 0 0
      (toLE 2 n ++ s.freeBytes 0 96 ++ Config.akSign (body ++ s.freeBytes 0 96)))).settle s) := by
  change execKeyExchange via body s = _
  rw [execKeyExchange, if_neg (by simp [up]), if_neg (by simp [healthy]), free]
  exact answer_spdm (t := s.fresh.2.setSession n { via := via, keyGen := s.freeCount }) up _ _ _ _

theorem exec_keyExchange_unhealthy (body : List Byte) (failed : s.sec.entropyFail = true) : exec (.keyExchange via body) s
    = .next ((s.headland.spdmSend via (spdmMsg 0x7F 5 0 [])).settle s) := by
  change execKeyExchange via body s = _
  rw [execKeyExchange, if_neg (by simp [up]), if_pos failed]
  exact answer_spdm up _ _ _ _

section
variable {n : Nat} {x : Session} (found : s.sec.sessions.find n = some x) (carried : x.via = via)
include found carried

theorem exec_finish_verified (root : Option (List Byte)) {secure : Bool} (handshake : x.established = false)
    (world : secure = (match root, s.ownerSlot.bind (fun k => (s.fuses.owners.getD k {}).digest) with
      | some r, some d => Config.sha384 r == d
      | _, _ => false)) : exec (.finish n root true) s
    = .next (((s.setSession n { x with established := true, secure := secure }).headland.spdmSend via (spdmMsg 0x65 0 0 [])).settle s) := by
  change execFinish n root true s = _
  subst carried
  rw [execFinish, found]
  dsimp only
  rw [if_neg (by simp [handshake]), if_neg (by decide)]
  subst world
  exact answer_spdm (t := s.setSession n { x with established := true, secure := _ }) up _ _ _ _

variable (established : x.established = true)
include established

omit up carried in
theorem State.inSession_of_established (act : Session → State) : s.inSession n act = act x := by
  rw [State.inSession, found]
  exact if_pos established

theorem exec_heartbeat_established :
    exec (.heartbeat n) s = .next ((s.headland.spdmSend via (spdmMsg 0x68 0 0 [])).settle s) := by
  change execHeartbeat n s = _
  subst carried
  rw [execHeartbeat, State.inSession_of_established found established]
  exact answer_spdm up _ _ _ _

theorem exec_keyUpdate_draws {op : Nat} (draws : op = 1 ∨ op = 2) : exec (.keyUpdate n op) s
    = .next (((s.fresh.2.setSession n { x with keyGen := s.freeCount }).headland.spdmSend via (spdmMsg 0x69 op 0 [])).settle s) := by
  change execKeyUpdate n op s = _
  subst carried
  rw [execKeyUpdate, State.inSession_of_established found established, if_pos draws]
  exact answer_spdm (t := s.fresh.2.setSession n { x with keyGen := s.freeCount }) up _ _ _ _

theorem exec_keyUpdate_confirms :
    exec (.keyUpdate n 3) s = .next ((s.headland.spdmSend via (spdmMsg 0x69 3 0 [])).settle s) := by
  change execKeyUpdate n 3 s = _
  subst carried
  rw [execKeyUpdate, State.inSession_of_established found established, if_neg (by decide), if_pos rfl]
  exact answer_spdm up _ _ _ _

theorem exec_endSession_established :
    exec (.endSession n) s = .next (((s.dropSession n).headland.spdmSend via (spdmMsg 0x6C 0 0 [])).settle s) := by
  change execEndSession n s = _
  subst carried
  rw [execEndSession, State.inSession_of_established found established]
  exact answer_spdm (t := s.dropSession n) up _ _ _ _

end

/-! ### Chunks -/

/-- A state with other chunks of requests kept. -/
def State.withChunks (s : State) (chunks : List (Transport × Nat × Nat × List Byte)) : State :=
  { s with sec := { s.sec with chunkIn := chunks } }

theorem State.withChunks_up (chunks : List (Transport × Nat × Nat × List Byte)) : (s.withChunks chunks).spdmUp via = true := up

theorem exec_chunkSend_first {h total : Nat} {bytes : List Byte} (bound : total ≤ 65536) (size : bytes.length ≤ 65536) :
    exec (.chunkSend via h 0 false total bytes) s = .next (((s.withChunks
      (s.sec.chunkIn.filter (fun c => !(c.1 == via && c.2.1 == h)) ++ [(via, h, 1, bytes)])).headland.spdmSend via
        (spdmMsg 0x05 0 h (toLE 2 0))).settle s) := by
  change execChunkSend via h 0 false total bytes s = _
  cases found : s.sec.chunkIn.find? (fun c => c.1 == via && c.2.1 == h) <;>
  · simp only [execChunkSend, found, up, Bool.not_true, Bool.false_eq_true, if_false, if_true, List.nil_append]
    rw [if_neg (by simp [bound, size])]
    exact answer_spdm (State.withChunks_up up _) _ _ _ _

theorem exec_chunkSend_next {h number total : Nat} {last : Bool} {bytes sofar : List Byte} (later : 0 < number) (bound : total ≤ 65536)
    (size : (sofar ++ bytes).length ≤ 65536)
    (kept : s.sec.chunkIn.find? (fun c => c.1 == via && c.2.1 == h) = some (via, h, number, sofar)) :
    exec (.chunkSend via h number last total bytes) s = .next (((s.withChunks
      (if last then s.sec.chunkIn.filter (fun c => !(c.1 == via && c.2.1 == h))
        else s.sec.chunkIn.filter (fun c => !(c.1 == via && c.2.1 == h)) ++ [(via, h, number + 1, sofar ++ bytes)])).headland.spdmSend via
        (spdmMsg 0x05 0 h (toLE 2 number))).settle s) := by
  change execChunkSend via h number last total bytes s = _
  simp only [execChunkSend, kept, if_neg (Nat.ne_of_gt later), up, Bool.not_true, Bool.false_eq_true, if_false]
  rw [if_neg (by simp only [List.length_append] at size ⊢; omega)]
  exact answer_spdm (State.withChunks_up up _) _ _ _ _

section
variable {h number size : Nat} {bytes part : List Byte}
  (kept : s.sec.chunkOut.find? (fun c => c.1 == via && c.2.1 == h) = some (via, h, bytes)) (step : size = max 1 Config.dataTransferSize)
  (cut : part = (bytes.drop (number * size)).take size)
include kept step cut

/-- A chunk of an answer that holds bytes; the last one ends the answer. -/
theorem exec_chunkGet_part (some : number * size < bytes.length) : exec (.chunkGet via h number) s
    = .next (((if decide (bytes.length ≤ (number + 1) * size) then { s with sec := { s.sec with
        chunkOut := s.sec.chunkOut.filter (fun c => !(c.1 == via && c.2.1 == h)) } } else s).reply via (.spdm via
          (spdmMsg 0x06 (b2n (decide (bytes.length ≤ (number + 1) * size))) h
            (toLE 2 number ++ toLE 4 part.length ++ part)))).settle s) := by
  have nonempty : part.isEmpty = false := by
    have long : 0 < part.length := by
      rw [cut, List.length_take, List.length_drop]
      omega
    cases part with
    | nil => exact absurd long (Nat.lt_irrefl 0)
    | cons => rfl
  change execChunkGet via h number s = _
  subst step
  simp only [execChunkGet, up, kept, ← cut, nonempty, answer, Bool.not_true, Bool.false_eq_true, if_false]

end

end

/-- Settles O56: each request by its answer and what it leaves. -/
theorem spdmResponder : Obligations.SpdmResponder := by
  unfold Obligations.SpdmResponder
  refine ⟨fun s via done up answered => ?_, fun s n protocol body established => ⟨fun carrier => ?_, fun other up => ?_⟩⟩
  · subst answered
    refine ⟨answer_spdm up _ _ _ _, answer_spdm up _ _ _ _, fun body => answer_spdm up _ _ _ _, answer_spdm up _ _ _ _, ?_,
      fun slot off len other => exec_getCertificate_other up other off len, ?_, ?_, fun n body => exec_keyExchange_opens up body,
      fun body => exec_keyExchange_unhealthy up body, fun n x found carried => ⟨fun root secure => exec_finish_verified up found carried root,
        fun established => ⟨exec_heartbeat_established up found carried established,
          fun op => exec_keyUpdate_draws up found carried established, exec_keyUpdate_confirms up found carried established,
          exec_endSession_established up found carried established, s.dropSession_find n⟩⟩,
      fun h total bytes => exec_chunkSend_first up, fun h number last total bytes sofar => exec_chunkSend_next up,
      fun h number bytes size part kept step cut => ⟨fun more => ?_, fun some last => ?_⟩, fun code => answer_spdm up _ _ _ _⟩
    · rintro off len part within rfl
      exact exec_getCertificate_part up within
    · rintro nonce body rfl
      exact exec_challenge_slot up nonce
    · exact fun i signed nonce body listed => exec_getMeasurements_listed up listed signed nonce
    · have some : number * size < bytes.length := Nat.lt_of_le_of_lt (Nat.mul_le_mul_right _ (Nat.le_succ _)) more
      rw [exec_chunkGet_part up kept step cut some, decide_eq_false (Nat.not_le_of_lt more)]
      rfl
    · rw [exec_chunkGet_part up kept step cut some, decide_eq_true last]
      rfl
  · change execVendorDefinedRequest (some n) protocol body s = _
    simp only [execVendorDefinedRequest, established, Bool.not_true, Bool.false_eq_true, if_false, if_pos carrier, answer]
  · change execVendorDefinedRequest (some n) protocol body s = _
    simp only [execVendorDefinedRequest, established, Bool.not_true, Bool.false_eq_true, if_false, if_neg (Nat.not_le_of_lt other)]
    exact answer_spdm up _ _ _ _

end Sys2Proof.Machine
end

section
/-! Switchable domains (spec/17 R455-R459). -/
namespace Sys2Proof.Machine

theorem State.settle_ctr {new old : State} (reached : (new.mem.stalled && !old.mem.stalled) = false) {a : Nat} (sent : a ≠ hifIrqSent)
    (lost : a ≠ hifIrqNovec) : (new.settle old).ctr a = new.ctr a :=
  State.settle_induction (P := fun t => t.ctr a = new.ctr a) rfl (fun t f v same => (State.msix_ctr t f v sent lost).trans same) reached

/-! ### Knocks and wakes -/

section
variable {s : State} {d : Nat}

theorem State.beginWake_domain_other {e : Nat} (other : e ≠ d) (s : State) : (s.beginWake e).domain d = s.domain d := by
  unfold State.beginWake
  extract_lets used
  split
  · rfl
  · exact (Map.get_put _ _ _ _ _).trans (if_neg other)

theorem State.startWakes_domain (quiet : d ∉ s.pwr.knocks) : s.startWakes.domain d = s.domain d :=
  List.foldlRecOn (motive := fun t : State => t.domain d = s.domain d) s.pwr.knocks State.beginWake rfl fun t same e knocked =>
    (State.beginWake_domain_other (by rintro rfl; exact quiet knocked) t).trans same

/-- A FALLOW domain whose share has room in this window begins to wake. -/
theorem State.beginWake_fallow (fallow : s.domain d = .fallow) (room : ∀ f, domShare d = some f → s.pwr.begun.getD f 0 < s.wakeLimit) :
    (s.beginWake d).domain d = .waking ∧ (s.beginWake d).pwr.gates = s.pwr.gates ∧ (s.beginWake d).mem = s.mem
      ∧ (s.beginWake d).ctrs = (s.tick1 pwrWakes).ctrs := by
  have passes : ¬(s.domain d ≠ .fallow ∨ ((domShare d).isSome = true
      ∧ s.wakeLimit ≤ ((domShare d).map (fun f => s.pwr.begun.getD f 0)).getD 0)) := by
    rintro (h | ⟨share, full⟩)
    · exact h fallow
    · obtain ⟨f, share⟩ := Option.isSome_iff_exists.mp share
      rw [share] at full
      exact absurd (room f share) (Nat.not_lt_of_le full)
  rw [State.beginWake, if_neg passes]
  exact ⟨Map.get_put_same _ _ _ _, rfl, rfl, rfl⟩

theorem State.knock_quiet (fallow : s.domain d = .fallow) (quiet : s.pwr.knocks = []) :
    s.knock d = ({ s with pwr := { s.pwr with knocks := [d] } } : State).beginWake d := by
  simp only [State.knock, fallow, quiet, State.startWakes]
  rfl

/-! ### Domain commands -/

theorem exec_domainClockGate_idle (on : s.domain d = .on) (idle : s.working d = false) :
    exec (.domainClockGate d) s = .next ((s.setDomain d .clockGated).settle s) := by
  change execDomainClockGate d s = _
  rw [execDomainClockGate, if_pos ⟨on, by simp [idle]⟩]
  rfl

theorem exec_domainDrainStart_free (gated : s.domain d = .clockGated) (enabled : s.fallowEnabled = true) (free : s.keptAwake d = false) :
    exec (.domainDrainStart d) s = .next ((s.setDomain d .draining).settle s) := by
  change execDomainDrainStart d s = _
  rw [execDomainDrainStart, if_pos ⟨gated, enabled, by simp [free]⟩]
  rfl

theorem exec_domainDrainStart_kept (kept : s.fallowEnabled = false ∨ s.keptAwake d = true) :
    exec (.domainDrainStart d) s = .next (s.settle s) := by
  change execDomainDrainStart d s = _
  rw [execDomainDrainStart, if_neg (by rcases kept with h | h <;> simp [h])]
  rfl

theorem exec_domainDrainComplete_draining (draining : s.domain d = .draining) :
    exec (.domainDrainComplete d) s = .next ((s.setDomain d .poweringOff).settle s) := by
  change execDomainDrainComplete d s = _
  rw [execDomainDrainComplete, if_pos draining]
  rfl

theorem exec_domainPowerOffComplete_off (off : s.domain d = .poweringOff) :
    exec (.domainPowerOffComplete d) s = .next ((s.setDomain d .fallow).startWakes.settle s) := by
  change execDomainPowerOffComplete d s = _
  rw [execDomainPowerOffComplete, if_pos off]
  rfl

section
variable (packet : Nat)

theorem exec_gatePacketArrival_gated (gated : s.domain d = .clockGated) :
    exec (.gatePacketArrival d packet) s = .next ((s.setDomain d .on).settle s) := by
  change execGatePacketArrival d packet s = _
  simp only [execGatePacketArrival, gated, State.knock, answer]

theorem exec_gatePacketArrival_draining (draining : s.domain d = .draining) :
    exec (.gatePacketArrival d packet) s = .next (((s.setDomain d .on).tick1 pwrDrainCancel).settle s) := by
  change execGatePacketArrival d packet s = _
  simp only [execGatePacketArrival, draining, State.knock, answer]

theorem State.hold_room (room : (s.pwr.gates.get [] d).length < 16) :
    s.hold d packet = { s with pwr := { s.pwr with gates := s.pwr.gates.put d (s.pwr.gates.get [] d ++ [packet]) } } :=
  if_neg (Nat.not_le_of_lt room)

theorem State.hold_full (full : 16 ≤ (s.pwr.gates.get [] d).length) : s.hold d packet = s := if_pos full

theorem State.knock_waking (waking : s.domain d = .waking) : s.knock d = s := by
  simp only [State.knock, waking]

theorem exec_gatePacketArrival_waking (waking : s.domain d = .waking) :
    exec (.gatePacketArrival d packet) s = .next ((s.hold d packet).settle s) := by
  have still : (s.hold d packet).domain d = .waking := by
    unfold State.hold
    extract_lets g
    split <;> exact waking
  change execGatePacketArrival d packet s = _
  simp only [execGatePacketArrival, waking, State.knock_waking still, answer]

theorem exec_gatePacketArrival_fallow (fallow : s.domain d = .fallow) :
    exec (.gatePacketArrival d packet) s = .next (((s.hold d packet).knock d).settle s) := by
  change execGatePacketArrival d packet s = _
  simp only [execGatePacketArrival, fallow, answer]

/-- A packet at the gate of a FALLOW domain is held and wakes it, where no domain waits before it and its share has room. -/
theorem exec_gatePacketArrival_wakes (fallow : s.domain d = .fallow) (room : (s.pwr.gates.get [] d).length < 16) (quiet : s.pwr.knocks = [])
    (share : ∀ f, domShare d = some f → s.pwr.begun.getD f 0 < s.wakeLimit) :
    ∃ t, exec (.gatePacketArrival d packet) s = .next t ∧ t.domain d = .waking
      ∧ t.pwr.gates.get [] d = s.pwr.gates.get [] d ++ [packet] ∧ t.ctr pwrWakes = ctrAdd pwrWakes (s.ctr pwrWakes) 1 := by
  have held := State.hold_room (s := s) packet room
  have knocked := State.knock_quiet (s := s.hold d packet) (d := d) (by rw [held]; exact fallow) (by rw [held]; exact quiet)
  obtain ⟨domain, gates, mem, ctrs⟩ := State.beginWake_fallow
    (s := { s.hold d packet with pwr := { (s.hold d packet).pwr with knocks := [d] } }) (d := d) (by rw [held]; exact fallow)
    (by rw [held]; exact share)
  have still : (((s.hold d packet).knock d).mem.stalled && !s.mem.stalled) = false := by
    rw [knocked, mem, held]
    exact Bool.and_not_self _
  refine ⟨_, exec_gatePacketArrival_fallow packet fallow, ?_, ?_, ?_⟩
  · rw [State.domain, State.settle_pwr _ _ still, knocked]
    exact domain
  · rw [State.settle_pwr _ _ still, knocked, gates, held]
    exact Map.get_put_same _ _ _ _
  · rw [State.settle_ctr still (by decide) (by decide), knocked, State.ctr, ctrs, held]
    exact Map.get_put_same _ _ _ _

end

/-- A domain that has woken is ON with fresh contents, and its gate is empty. -/
def State.woken (s : State) (d : Nat) : State :=
  { (s.setDomain d .on).freshDomain d with
    pwr := { ((s.setDomain d .on).freshDomain d).pwr with gates := ((s.setDomain d .on).freshDomain d).pwr.gates.del d } }

theorem exec_domainWakeComplete_waking (waking : s.domain d = .waking) :
    exec (.domainWakeComplete d) s = .next (((s.woken d).takeGated d).settle s) := by
  change execDomainWakeComplete d s = _
  rw [execDomainWakeComplete, if_neg (Classical.not_not.mpr waking)]
  rfl

theorem State.woken_aside (s : State) (d : Nat) :
    (s.woken d).pwr = { s.pwr with doms := s.pwr.doms.put d .on, gates := s.pwr.gates.del d } ∧ (s.woken d).lnk = s.lnk
      ∧ (s.woken d).mem = s.mem := by
  unfold State.woken State.freshDomain
  split <;> exact ⟨rfl, rfl, rfl⟩

theorem State.takeGated_none (none : ∀ g ∈ s.lnk.gated, g.1 ≠ d) : (s.takeGated d).pwr = s.pwr ∧ (s.takeGated d).mem = s.mem := by
  have mine : s.lnk.gated.filter (fun g => g.1 == d) = [] :=
    List.filter_eq_nil_iff.mpr fun g member => by simpa using none g member
  rw [State.takeGated, mine]
  exact ⟨rfl, rfl⟩

theorem exec_domainWakeComplete_quiet (waking : s.domain d = .waking) (none : ∀ g ∈ s.lnk.gated, g.1 ≠ d) :
    ∃ t, exec (.domainWakeComplete d) s = .next t ∧ t.domain d = .on ∧ t.pwr.gates.find d = .none
      ∧ (∀ d', d' ≠ d → t.domain d' = s.domain d') ∧ t.mem = s.mem := by
  obtain ⟨pwr, lnk, mem⟩ := s.woken_aside d
  obtain ⟨pwr', mem'⟩ := State.takeGated_none (s := s.woken d) (d := d) (by rw [lnk]; exact none)
  have still : (((s.woken d).takeGated d).mem.stalled && !s.mem.stalled) = false := by
    rw [mem', mem]
    exact Bool.and_not_self _
  have after : (((s.woken d).takeGated d).settle s).pwr = { s.pwr with doms := s.pwr.doms.put d .on, gates := s.pwr.gates.del d } := by
    rw [State.settle_pwr _ _ still, pwr', pwr]
  refine ⟨_, exec_domainWakeComplete_waking waking, ?_, ?_, fun e other => ?_, ?_⟩
  · rw [State.domain, after]
    exact Map.get_put_same _ _ _ _
  · rw [after]
    exact (Map.find_del _ _ _).trans (if_pos rfl)
  · rw [State.domain, after]
    exact (Map.get_put _ _ _ _ _).trans (if_neg other.symm)
  · rw [State.settle_mem _ _ still, mem', mem]

end

theorem exec_headlandClockIdleStop_idle {s : State} (idle : s.store.writing = none) (ended : s.boot.running = []) :
    exec .headlandClockIdleStop s = .next (({ s with pwr := { s.pwr with fastClock := false } } : State).settle s) := by
  change execHeadlandClockIdleStop s = _
  simp only [execHeadlandClockIdleStop, idle, ended, answer]
  rfl

/-- Settles O57: each command by the state of the domain; a domain that no gate has knocked is not woken by the wakes of others. -/
theorem powerDomains : Obligations.PowerDomains := by
  unfold Obligations.PowerDomains
  refine ⟨fun s d => ⟨exec_domainClockGate_idle, exec_domainDrainStart_free, fun _ => exec_domainDrainStart_kept,
    exec_domainDrainComplete_draining, fun off => ⟨exec_domainPowerOffComplete_off off, fun quiet => ?_⟩, fun packet =>
    ⟨exec_gatePacketArrival_gated packet, exec_gatePacketArrival_draining packet, fun waking room => ?_, fun waking full => ?_,
      exec_gatePacketArrival_wakes packet⟩, ?_, exec_domainWakeComplete_quiet⟩, fun s => ⟨rfl, exec_headlandClockIdleStop_idle⟩⟩
  · exact (State.startWakes_domain (s := s.setDomain d .fallow) quiet).trans (Map.get_put_same _ _ _ _)
  · rw [exec_gatePacketArrival_waking packet waking, State.hold_room packet room]
  · rw [exec_gatePacketArrival_waking packet waking, State.hold_full packet full]
  · rintro u waking rfl
    exact exec_domainWakeComplete_waking waking

end Sys2Proof.Machine
end

section
/-! Reset causes and lines, and what a device reset keeps (spec/17 R466, R467; spec/20 R505, R509, R524). -/
namespace Sys2Proof.Machine

section
variable {s : State}

/-! ### Causes and lines -/

theorem exec_rstNDeassert_low (low : s.lines.rstN = false) :
    exec .rstNDeassert s = .next ((({ s.setLines { s.lines with rstN := true } with
      time := 0, boot := { s.boot with startTime := 0 } } : State).startStep 0 0).settle s) := by
  change execRstNDeassert s = _
  rw [execRstNDeassert, if_neg (by simp [low])]
  rfl

theorem exec_perstAssert_high (high : s.lines.perst = false) :
    exec .perstAssert s = .next (((s.setLines { s.lines with perst := true }).deviceReset false 3).settle s) := by
  change execPerstAssert s = _
  rw [execPerstAssert, if_neg (by simp [high])]
  rfl

theorem exec_tapResetRelease_inReset (inReset : s.lines.tapOut = false) : exec .tapResetRelease s
    = .next (((s.setLines { s.lines with tapOut := true }).deviceReset false s.boot.lastReset).settle s) := by
  change execTapResetRelease s = _
  rw [execTapResetRelease, if_neg (by simp [inReset])]
  rfl

/-! ### Attempts of the bring-up sequencer -/

/-- An attempt of a step without a port of its own stands among the running ones. -/
theorem State.attempt_running (s : State) {key : Nat × Nat} (portless : key.1 ≠ 15) (alt n : Nat) :
    (s.attempt key alt n).boot.running.find key = some (alt, n) := by
  rw [State.attempt, if_neg portless]
  exact (Map.find_put _ _ _ _).trans (if_pos rfl)

theorem State.startStep_attempt {step unit alt : Nat} (may : s.mayRun step (brKey step unit) = true)
    (unskipped : (s.brRec (brKey step unit).1 (brKey step unit).2).skip = false)
    (first : (s.brAlts step 0).find? (fun a => decide ((s.brRec (brKey step unit).1 (brKey step unit).2).alt ≤ a)) = some alt) :
    s.startStep step unit = (s.openStep step).attempt (brKey step unit) alt 1 := by
  simp only [State.startStep, may, unskipped, first, Bool.not_true, Bool.false_eq_true, if_false, Option.getD_some]

/-- The first step may run in a device out of reset that has begun nothing. -/
theorem State.mayRun_first (rstN : s.lines.rstN = true) (tap : s.lines.tapOut = false) (trip : s.pwr.trip = false)
    (restart : s.boot.restart = false) (ended : s.boot.ended = []) (running : s.boot.running = []) (safe : s.boot.safe = false)
    (mode : s.hif.safeMode = false) : s.mayRun 0 (0, 0) = true := by
  simp only [State.mayRun, State.held, rstN, tap, trip, restart, ended, running, safe, mode]
  rfl

/-- BS00 has one alternative, so whichever its record names its attempt begins. -/
theorem State.startStep_first (may : s.mayRun 0 (0, 0) = true) (unskipped : (s.brRec 0 0).skip = false) :
    ((s.startStep 0 0).boot.running.find (0, 0)).isSome = true := by
  have key : brKey 0 0 = (0, 0) := rfl
  simp only [State.startStep, key, may, unskipped, Bool.not_true, Bool.false_eq_true, if_false]
  rw [State.attempt_running _ (by decide)]
  rfl

/-! ### What a reset keeps -/

theorem State.deviceReset_incarnation (s : State) (code : Nat) :
    (s.deviceReset false code).objs.find (0x5000, 5) = s.objs.find (0x5000, 5) := by
  change (match s.objs.find (0x5000, 5) with | none => [] | some v => [((0x5000, 5), v)] : Map (Nat × Nat) (List Byte)).find _ = _
  cases s.objs.find (0x5000, 5) <;> rfl

theorem State.deviceReset_core (s : State) (code : Nat) : ∀ t, t = s.deviceReset false code →
    t.evlog = s.evlog ∧ t.boot.recs = s.boot.recs ∧ t.boot.starts = s.boot.starts ∧ t.time = s.time
      ∧ t.objs.find (0x5000, 5) = s.objs.find (0x5000, 5) := by
  rintro t rfl
  exact ⟨rfl, rfl, rfl, rfl, s.deviceReset_incarnation code⟩

theorem State.deviceReset_powerOn (s : State) (code : Nat) : ∀ t, t = s.deviceReset true code →
    t.evlog = {} ∧ t.boot.recs = [] ∧ t.boot.starts = 0 ∧ t.time = 0 ∧ t.objs = [] := by
  rintro t rfl
  exact ⟨rfl, rfl, rfl, rfl, rfl⟩

end

/-- Settles O59: each cause is one equation, and a reset names the fields it carries over. -/
theorem resets : Obligations.Resets := by
  unfold Obligations.Resets
  refine ⟨fun s => ⟨rfl, rfl, ?_, exec_perstAssert_high, rfl, exec_tapResetRelease_inReset, rfl⟩, ?_⟩
  · rintro low t rfl
    refine ⟨exec_rstNDeassert_low low, fun tap trip restart ended running safe mode unskipped => ?_⟩
    exact State.startStep_first (State.mayRun_first rfl tap trip restart ended running safe mode) unskipped
  · rintro s powerOn code t rfl
    refine ⟨rfl, rfl, rfl, rfl, rfl, rfl, rfl, rfl, rfl, rfl, rfl, rfl, rfl, fun _ => rfl, fun _ => rfl, fun _ => rfl, fun _ => rfl, rfl,
      ?_, ?_⟩
    · rintro rfl
      exact s.deviceReset_core code _ rfl
    · rintro rfl
      exact s.deviceReset_powerOn code _ rfl

end Sys2Proof.Machine
end

section
/-! The bring-up sequencer (spec/17 R468-R471). -/
namespace Sys2Proof.Machine

theorem brKey_step (step unit : Nat) : (brKey step unit).1 = step := by
  unfold brKey
  split <;> rfl

section
variable {s t : State} {step unit alt n result micros : Nat}

theorem exec_bringupStepRun_attempt (may : s.mayRun step (brKey step unit) = true)
    (unskipped : (s.brRec (brKey step unit).1 (brKey step unit).2).skip = false)
    (first : (s.brAlts step 0).find? (fun a => decide ((s.brRec (brKey step unit).1 (brKey step unit).2).alt ≤ a)) = some alt) :
    exec (.bringupStepRun step unit) s = .next (((s.openStep step).attempt (brKey step unit) alt 1).settle s) := by
  change answer s (s.startStep step unit) = _
  rw [State.startStep_attempt may unskipped first]
  rfl

/-! ### The end of an attempt -/

section
variable (running : s.boot.running.find (brKey step unit) = some (alt, n))
  (charged : t = { s with boot := { s.boot with duration := s.boot.duration.put step (s.boot.duration.get 0 step + micros) } })
include running charged

theorem State.attemptOver_passed (inTime : micros ≤ brLimit step) (can : t.canPass step unit alt result = true) :
    s.attemptOver step unit true result micros = t.stepPass (brKey step unit) unit alt result := by
  subst charged
  simp only [State.attemptOver, running]
  exact if_pos ⟨trivial, Nat.le_trans inTime (Nat.le_add_right _ _), can⟩

/-- What follows an attempt that is reported as failed. -/
theorem State.attemptOver_failed : s.attemptOver step unit false result micros
    = if n < brAttempts step then t.attempt (brKey step unit) alt (n + 1)
      else match (t.brAlts step result).find? (fun a => decide (alt < a)) with
        | some a => t.attempt (brKey step unit) a 1
        | none => t.stepFail (brKey step unit) unit alt := by
  subst charged
  simp only [State.attemptOver, running]
  exact if_neg fun passes => absurd passes.1 Bool.false_ne_true

theorem State.attemptOver_again (left : n < brAttempts step) :
    s.attemptOver step unit false result micros = t.attempt (brKey step unit) alt (n + 1) :=
  (State.attemptOver_failed running charged).trans (if_pos left)

theorem State.attemptOver_next {a : Nat} (last : brAttempts step ≤ n)
    (next : (t.brAlts step result).find? (fun a => decide (alt < a)) = some a) :
    s.attemptOver step unit false result micros = t.attempt (brKey step unit) a 1 := by
  rw [State.attemptOver_failed running charged, if_neg (Nat.not_lt_of_le last), next]

theorem State.attemptOver_fails (last : brAttempts step ≤ n)
    (spent : (t.brAlts step result).find? (fun a => decide (alt < a)) = none) :
    s.attemptOver step unit false result micros = t.stepFail (brKey step unit) unit alt := by
  rw [State.attemptOver_failed running charged, if_neg (Nat.not_lt_of_le last), spent]

end

/-! ### READY -/

/-- Training a port leaves the host interface, the sequencer and what was sent. -/
theorem State.portTrain_aside (s : State) (p : Nat) :
    (s.portTrain p).hif = s.hif ∧ (s.portTrain p).boot = s.boot ∧ (s.portTrain p).out = s.out := by
  unfold State.portTrain State.portBegin
  extract_lets x
  split <;> exact ⟨rfl, rfl, rfl⟩

/-- BS23 makes the device READY and says so; the sequencer's ended steps, its records and safe mode stand. -/
theorem State.passBs23_ready (s : State) : s.passBs23.hif.notReady = false ∧ OutMsg.drs ∈ s.passBs23.out
    ∧ s.passBs23.boot.ended = s.boot.ended ∧ s.passBs23.boot.safe = s.boot.safe := by
  unfold State.passBs23
  extract_lets hif boot ready sent
  have start : sent.hif.notReady = false ∧ OutMsg.drs ∈ sent.out ∧ sent.boot.ended = s.boot.ended ∧ sent.boot.safe = s.boot.safe :=
    ⟨rfl, List.mem_append_right _ (List.mem_singleton.mpr rfl), rfl, rfl⟩
  refine List.foldlRecOn (motive := fun t : State => t.hif.notReady = false ∧ OutMsg.drs ∈ t.out ∧ t.boot.ended = s.boot.ended
    ∧ t.boot.safe = s.boot.safe) _ _ start fun t kept p _ => ?_
  split
  · obtain ⟨hif, boot, out⟩ := t.portTrain_aside p
    rw [hif, boot, out]
    exact kept
  · exact kept

/-- The end of a step without units adds the step to the ended ones. -/
theorem State.endKey_single {step : Nat} (single : (brKeys step).length = 1) (s : State) :
    (s.endKey (step, 0)).hif = s.hif ∧ (s.endKey (step, 0)).out = s.out
      ∧ (s.endKey (step, 0)).boot.ended = s.boot.ended ++ [(step, 0)] ∧ (s.endKey (step, 0)).boot.safe = s.boot.safe := by
  unfold State.endKey State.joinUnits
  rw [if_pos (by simp [single])]
  exact ⟨rfl, rfl, rfl, rfl⟩

theorem State.safeReturn_normal (normal : s.boot.safe = false) : s.safeReturn = s := if_neg (by simp [normal])

theorem State.stepPass_bs23 (alt result : Nat) : s.stepPass (23, 0) 0 alt result
    = ((s.setRec 23 0 { s.brRec 23 0 with alt := alt, fails := 0, last := 1 }).passBs23.endKey (23, 0)).safeReturn := rfl

theorem State.stepPass_ready (alt result : Nat) (normal : s.boot.safe = false) : (s.stepPass (23, 0) 0 alt result).hif.notReady = false
    ∧ OutMsg.drs ∈ (s.stepPass (23, 0) 0 alt result).out
    ∧ (s.stepPass (23, 0) 0 alt result).boot.ended = s.boot.ended ++ [(23, 0)] := by
  rw [State.stepPass_bs23]
  generalize recorded : s.setRec 23 0 { s.brRec 23 0 with alt := alt, fails := 0, last := 1 } = u
  have ended : u.boot.ended = s.boot.ended := recorded ▸ rfl
  have safe : u.boot.safe = false := recorded ▸ normal
  obtain ⟨ready, sent, kept, mode⟩ := u.passBs23_ready
  obtain ⟨hif, out, endedToo, modeToo⟩ := State.endKey_single (step := 23) rfl u.passBs23
  rw [State.safeReturn_normal (modeToo.trans (mode.trans safe)), hif, out, endedToo, kept, ended]
  exact ⟨ready, sent, rfl⟩

end

/-- Settles O60: an attempt's end takes one of four branches, and BS23 is the one step whose effect is spelt out. -/
theorem bringUp : Obligations.BringUp := by
  unfold Obligations.BringUp
  refine ⟨fun s step unit alt may unskipped first => ⟨exec_bringupStepRun_attempt may unskipped first, fun portless _ => ?_⟩, ?_,
    fun s alt result normal => State.stepPass_ready alt result normal⟩
  · exact State.attempt_running _ (by rwa [brKey_step]) _ _
  · intro s t step unit alt n result micros running charged
    refine ⟨fun inTime can => ?_, fun left => ?_, fun a last next => ?_, fun last spent => ?_, fun none limit => ?_⟩
    · exact congrArg (answer s) (State.attemptOver_passed running charged inTime can)
    · exact congrArg (answer s) (State.attemptOver_again running charged left)
    · exact congrArg (answer s) (State.attemptOver_next running charged last next)
    · exact congrArg (answer s) (State.attemptOver_fails running charged last spent)
    · rw [limit]
      rfl

end Sys2Proof.Machine
end

section
/-! Operating points, the current limit, temperatures and supplies (spec/17 R461-R466; spec/20 R508). -/
namespace Sys2Proof.Machine

section
variable {s : State}

/-! ### A decision of the power controller -/

theorem State.nextPoint_down {f p : Nat} {above : Bool} (under : Bool)
    (down : (s.pwr.throttle.getD f {}).active = true ∨ above = true ∨ s.ceiling f < p) : s.nextPoint f p above under = p - 1 :=
  if_pos (by rcases down with h | h | h <;> simp only [h, decide_true, Bool.true_or, Bool.or_true])

theorem State.nextPoint_up {f p : Nat} {above under : Bool} (cool : (s.pwr.throttle.getD f {}).active = false) (below : above = false)
    (room : under = true) (lower : p < s.ceiling f) : s.nextPoint f p above under = p + 1 := by
  rw [State.nextPoint, if_neg (by simp only [cool, below, decide_eq_false (Nat.lt_asymm lower)]; exact Bool.false_ne_true),
    if_pos (by simp only [room, decide_eq_true lower]; rfl)]

theorem State.nextPoint_same {f p : Nat} {above under : Bool} (cool : (s.pwr.throttle.getD f {}).active = false) (below : above = false)
    (full : under = false) (fits : p ≤ s.ceiling f) : s.nextPoint f p above under = p := by
  rw [State.nextPoint, if_neg (by simp only [cool, below, decide_eq_false (Nat.not_lt_of_le fits)]; exact Bool.false_ne_true),
    if_neg (by simp only [full, Bool.false_and]; exact Bool.false_ne_true)]

/-- The targets after a decision of some dies. -/
def State.retarget (s : State) (above under : Bool) (dies : List Nat) : State :=
  dies.foldl (fun s f => s.setTarget f (s.nextPoint f (s.pwr.target.getD f 0) above under)) s

/-- A decision of the first dies moves their targets, each by its own next point, and nothing else. -/
theorem State.retarget_range (above under : Bool) (k : Nat) : k ≤ s.pwr.target.length →
    ∃ points : List Nat, s.retarget above under (List.range k) = { s with pwr := { s.pwr with target := points } }
      ∧ points.length = s.pwr.target.length
      ∧ ∀ f, points.getD f 0 = if f < k then s.nextPoint f (s.pwr.target.getD f 0) above under else s.pwr.target.getD f 0 := by
  induction k with
  | zero => exact fun _ => ⟨s.pwr.target, rfl, rfl, fun _ => rfl⟩
  | succ k ih =>
    intro fits
    obtain ⟨points, moved, length, each⟩ := ih (Nat.le_of_succ_le fits)
    have here : points.getD k 0 = s.pwr.target.getD k 0 := (each k).trans (if_neg (Nat.lt_irrefl k))
    refine ⟨points.set k (s.nextPoint k (s.pwr.target.getD k 0) above under), ?_, List.length_set.trans length, fun f => ?_⟩
    · rw [State.retarget, List.range_succ, List.foldl_append]
      rw [State.retarget] at moved
      rw [moved, ← here]
      rfl
    · by_cases same : f = k
      · subst same
        rw [getD_of_lt _ _ (by rw [List.length_set, length]; exact fits), List.getElem_set_self, if_pos (Nat.lt_succ_self f)]
      · rw [List.getD_eq_getElem?_getD, List.getElem?_set_ne (Ne.symm same), ← List.getD_eq_getElem?_getD, each f]
        exact ite_congr (propext (by omega)) (fun _ => rfl) fun _ => rfl

/-- What a decision starts from: the mean power is kept and the energy counted. -/
def State.metered (s : State) (power : List Nat) : State :=
  ({ s with pwr := { s.pwr with pkgPower := power.sum / power.length } } : State).bump pwrEnergyMj (power.getLastD 0)

/-- Each die at its next point, and whether the power held them there. -/
def State.steered (s : State) (above under : Bool) : State :=
  ({ s.retarget above under (List.range 8) with
    pwr := { (s.retarget above under (List.range 8)).pwr with
      powerHeld := above || ((s.retarget above under (List.range 8)).pwr.powerHeld && (List.range 8).any (fun f =>
        decide ((s.retarget above under (List.range 8)).pwr.target.getD f 0 < (s.retarget above under (List.range 8)).ceiling f))) } }
    : State).writeSetPoint

theorem State.steered_points (above under : Bool) (eight : s.pwr.target.length = 8) :
    (∀ f, f < 8 → (s.steered above under).pwr.target.getD f 0 = s.nextPoint f (s.pwr.target.getD f 0) above under)
      ∧ (s.steered above under).pwr.point = s.pwr.point ∧ (s.steered above under).pwr.doms = s.pwr.doms
      ∧ (s.steered above under).mem = s.mem := by
  obtain ⟨points, moved, -, each⟩ := s.retarget_range above under 8 (Nat.le_of_eq eight.symm)
  rw [State.steered, moved]
  exact ⟨fun f field => (each f).trans (if_pos field), rfl, rfl, rfl⟩

theorem exec_dvfsTick {power : List Nat} (some : power ≠ []) : exec (.dvfsTick power) s = answer s
    (if !s.diesUp || s.frozen then s.metered power
      else (s.metered power).steered (decide (s.setting 0x3000 1 * power.length < power.sum))
        (decide (100 * power.sum < 95 * s.setting 0x3000 1 * power.length))) := by
  change execDvfsTick power s = _
  rw [execDvfsTick, if_neg (by simpa using some)]
  rfl

theorem exec_dvfsTick_held {power : List Nat} (some : power ≠ []) (held : s.diesUp = false ∨ s.frozen = true) :
    exec (.dvfsTick power) s = .next ((s.metered power).settle s) := by
  rw [exec_dvfsTick some, if_pos (by rcases held with h | h <;> simp [h])]
  rfl

theorem exec_dvfsTick_decides {power : List Nat} (some : power ≠ []) (up : s.diesUp = true) (free : s.frozen = false)
    (eight : s.pwr.target.length = 8) : ∃ u, exec (.dvfsTick power) s = .next u
      ∧ (∀ f, f < 8 → u.pwr.target.getD f 0 = s.nextPoint f (s.pwr.target.getD f 0)
          (decide (s.setting 0x3000 1 * power.length < power.sum))
          (decide (100 * power.sum < 95 * s.setting 0x3000 1 * power.length)))
      ∧ u.pwr.point = s.pwr.point ∧ u.pwr.doms = s.pwr.doms ∧ u.mem = s.mem := by
  rw [exec_dvfsTick some, if_neg (by simp [up, free])]
  obtain ⟨targets, point, doms, mem⟩ := State.steered_points (s := s.metered power)
    (decide (s.setting 0x3000 1 * power.length < power.sum)) (decide (100 * power.sum < 95 * s.setting 0x3000 1 * power.length)) eight
  refine ⟨_, rfl, ?_⟩
  have still : (((s.metered power).steered (decide (s.setting 0x3000 1 * power.length < power.sum))
      (decide (100 * power.sum < 95 * s.setting 0x3000 1 * power.length))).mem.stalled && !s.mem.stalled) = false := by
    rw [mem]
    exact Bool.and_not_self _
  rw [State.settle_pwr _ _ still, State.settle_mem _ _ still]
  exact ⟨targets, point, doms, mem⟩

theorem exec_pstateChangeComplete_free (die : Nat) (free : s.frozen = false) (up : s.diesUp = true) :
    exec (.pstateChangeComplete die) s = .next (({ s with pwr := { s.pwr with
      point := s.pwr.point.set die (s.pwr.target.getD die 0) } } : State).writeSetPoint.settle s) := by
  change execPstateChangeComplete die s = _
  rw [execPstateChangeComplete, if_neg (by simp [free, up])]
  rfl

/-! ### The read-back and the current limit -/

theorem exec_avsReadback_silent (up : s.diesUp = true) :
    exec (.avsReadback none) s = .next (({ s with pwr := { s.pwr with avsOk := false } } : State).settle s) := by
  change execAvsReadback none s = _
  rw [execAvsReadback, if_neg (by simp [up])]
  rfl

theorem exec_avsReadback_near (up : s.diesUp = true) {v : Nat} (low : v ≤ s.pwr.setMv + 10) (high : s.pwr.setMv ≤ v + 10) :
    exec (.avsReadback (some v)) s = .next (({ s with pwr := { s.pwr with avsOk := true } } : State).settle s) := by
  change execAvsReadback (some v) s = _
  rw [execAvsReadback, if_neg (by simp [up])]
  exact congrArg (answer s) (if_neg (not_or.mpr ⟨Nat.not_lt_of_le low, Nat.not_lt_of_le high⟩))

theorem exec_avsReadback_off (up : s.diesUp = true) {v : Nat} (off : s.pwr.setMv + 10 < v ∨ v + 10 < s.pwr.setMv) :
    exec (.avsReadback (some v)) s
      = .next ((({ s with pwr := { s.pwr with avsOk := true } } : State).supplyWarn 2 v).settle s) := by
  change execAvsReadback (some v) s = _
  rw [execAvsReadback, if_neg (by simp [up])]
  exact congrArg (answer s) (if_pos off)

theorem exec_currentLimitTrip_first (up : s.diesUp = true) (untripped : s.pwr.currentLimit = none) : exec .currentLimitTrip s
    = .next ((({ s with pwr := { s.pwr with currentLimit := some s.time } } : State).tick1 pwrCurrentLimit).settle s) := by
  change execCurrentLimitTrip s = _
  rw [execCurrentLimitTrip, if_neg (by simp [up, untripped])]
  rfl

theorem exec_currentLimitRelease_tripped {since : Nat} (tripped : s.pwr.currentLimit = some since) : exec .currentLimitRelease s
    = .next ((({ s with pwr := { s.pwr with currentLimit := none } } : State).log 0x0403 0 ((s.time - since) / 1000)).settle s) := by
  change execCurrentLimitRelease s = _
  rw [execCurrentLimitRelease, tripped]
  rfl

/-! ### Supplies -/

section
variable {rail mv : Nat}

theorem exec_supplyWarning_first (below : s.belowWarning rail mv = true) (fresh : s.pwr.rails.find rail = none) :
    exec (.supplyWarning rail mv) s = .next ((({ s with pwr := { s.pwr with
      rails := s.pwr.rails.put rail { lowest := mv, since := s.time } } } : State).tick1 pwrWarnEvents).settle s) := by
  change execSupplyWarning rail mv s = _
  rw [execSupplyWarning, if_pos below, State.supplyWarn, fresh]
  rfl

theorem exec_supplyWarning_again {x : RailWarn} (below : s.belowWarning rail mv = true) (warned : s.pwr.rails.find rail = some x) :
    exec (.supplyWarning rail mv) s = .next (({ s with pwr := { s.pwr with
      rails := s.pwr.rails.put rail { x with lowest := min x.lowest mv } } } : State).settle s) := by
  change execSupplyWarning rail mv s = _
  rw [execSupplyWarning, if_pos below, State.supplyWarn, warned]
  rfl

theorem exec_supplyWarningRecover_one {x : RailWarn} (only : s.pwr.rails = [(rail, x)]) :
    exec .supplyWarningRecover s = .next ((({ s with pwr := { s.pwr with rails := [] } } : State).log 0x0401 rail
      (x.lowest % 2 ^ 16 + min ((s.time - x.since) / 1000) (2 ^ 32 - 1) * 2 ^ 16)).settle s) := by
  change execSupplyWarningRecover s = _
  rw [execSupplyWarningRecover, only]
  rfl

theorem exec_supplyResetLevel_alwaysOn (below : s.belowReset 0 mv = true) :
    exec (.supplyResetLevel 0 mv) s = .next ((s.deviceReset true 2).settle s) := by
  change execSupplyResetLevel 0 mv s = _
  rw [execSupplyResetLevel, if_neg (by simp [below]), if_pos rfl]
  rfl

theorem exec_supplyResetLevel_other (other : rail ≠ 0) (below : s.belowReset rail mv = true) :
    exec (.supplyResetLevel rail mv) s = .next ((s.deviceReset false 4).settle s) := by
  change execSupplyResetLevel rail mv s = _
  rw [execSupplyResetLevel, if_neg (by simp [below]), if_neg other]
  rfl

end

/-! ### Temperatures -/

theorem Hot.read_hot (x : Hot) {t hi : Nat} (lo now : Nat) (hot : hi ≤ t) : (x.read t hi lo now).active = true := by
  rw [Hot.read, if_pos hot]

/-- What a reading of temperatures leaves, the thermal rows, the targets and the event log aside. -/
structure State.Heated (s t : State) : Prop where
  state : t = { s with
    pwr := { s.pwr with throttle := t.pwr.throttle, hard := t.pwr.hard, target := t.pwr.target }
    evlog := t.evlog }

theorem State.logHot_cases (s : State) (old new : Hot) (die row t : Nat) :
    s.logHot old new die row t = { s with evlog := (s.logHot old new die row t).evlog } := by
  unfold State.logHot
  split <;> rfl

/-- A THROTTLE row leaves the 105 °C rows and the targets. -/
theorem State.readThrottle_rest (s : State) (f t : Nat) : s.Heated (s.readThrottle f t)
    ∧ (s.readThrottle f t).pwr.hard = s.pwr.hard ∧ (s.readThrottle f t).pwr.target = s.pwr.target := by
  unfold State.readThrottle
  extract_lets old new
  rw [State.logHot_cases]
  exact ⟨⟨rfl⟩, rfl, rfl⟩

/-- A die's 105 °C row is read by itself; a field die that is hot goes to point 0, unless its point is frozen. -/
theorem State.readHard_rest (s : State) (die t : Nat) : s.Heated (s.readHard die t)
    ∧ (s.readHard die t).pwr.hard = s.pwr.hard.set die ((s.pwr.hard.getD die {}).read t 105 100 s.time)
    ∧ (s.readHard die t).pwr.target
      = if ((s.pwr.hard.getD die {}).read t 105 100 s.time).active && decide (die < 8) && !s.frozen then s.pwr.target.set die 0
        else s.pwr.target := by
  unfold State.readHard
  extract_lets old new rows u
  obtain ⟨events, read⟩ : ∃ events, u = { s with pwr := { s.pwr with hard := s.pwr.hard.set die new }, evlog := events } :=
    ⟨_, State.logHot_cases _ _ _ _ _ _⟩
  have frozen : u.frozen = s.frozen := by rw [read]; rfl
  rw [frozen, read]
  split <;> exact ⟨⟨rfl⟩, rfl, rfl⟩

theorem State.Heated.refl (s : State) : s.Heated s := ⟨rfl⟩

theorem State.Heated.trans {s t u : State} (h : s.Heated t) (k : t.Heated u) : s.Heated u :=
  ⟨by rw [k.state, h.state]⟩

theorem State.Heated.frozen {s t : State} (h : s.Heated t) : t.frozen = s.frozen := by rw [h.state]; rfl

/-- The THROTTLE rows of some dies. -/
theorem State.readThrottle_all (temp : Nat → Nat) (dies : List Nat) (s : State) :
    s.Heated (dies.foldl (fun s f => s.readThrottle f (temp f)) s)
      ∧ (dies.foldl (fun s f => s.readThrottle f (temp f)) s).pwr.hard = s.pwr.hard
      ∧ (dies.foldl (fun s f => s.readThrottle f (temp f)) s).pwr.target = s.pwr.target :=
  List.foldlRecOn (motive := fun t : State => s.Heated t ∧ t.pwr.hard = s.pwr.hard ∧ t.pwr.target = s.pwr.target) _ _
    ⟨.refl s, rfl, rfl⟩ fun t ⟨heated, hard, target⟩ f _ =>
      have ⟨more, sameHard, sameTarget⟩ := t.readThrottle_rest f (temp f)
      ⟨heated.trans more, sameHard.trans hard, sameTarget.trans target⟩

/-- A target at point 0 stays there whatever die goes to point 0 next. -/
theorem getD_set_zero {l : List Nat} {d : Nat} (i : Nat) (zero : l.getD d 1 = 0) : (l.set i 0).getD d 1 = 0 := by
  rw [List.getD_eq_getElem?_getD] at zero ⊢
  by_cases same : i = d
  · subst same
    rw [List.getElem?_set_self']
    cases found : l[i]? with
    | none => rw [found] at zero; exact zero
    | some x => rfl
  · rw [List.getElem?_set_ne same]
    exact zero

/-- The hot dies among the first ones hold their 105 °C row, and the field dies among them go to point 0 unless frozen. -/
structure State.HardRead (s t : State) (temp : Nat → Nat) (k : Nat) : Prop where
  heated : s.Heated t
  hardLength : t.pwr.hard.length = s.pwr.hard.length
  targetLength : t.pwr.target.length = s.pwr.target.length
  active : ∀ d, d < k → 105 ≤ temp d → (t.pwr.hard.getD d {}).active = true
  stopped : ∀ d, d < k → d < 8 → 105 ≤ temp d → s.frozen = false → d < s.pwr.target.length → t.pwr.target.getD d 1 = 0

theorem State.HardRead.next {s t : State} {temp : Nat → Nat} {k : Nat} (h : s.HardRead t temp k) (row : k < s.pwr.hard.length) :
    s.HardRead (t.readHard k (temp k)) temp (k + 1) := by
  obtain ⟨more, hard, target⟩ := t.readHard_rest k (temp k)
  have inHard : k < t.pwr.hard.length := h.hardLength.symm ▸ row
  refine ⟨h.heated.trans more, ?_, ?_, fun d lower hot => ?_, fun d lower field hot free inTarget => ?_⟩
  · rw [hard, List.length_set]
    exact h.hardLength
  · rw [target, apply_ite List.length, List.length_set, ite_self]
    exact h.targetLength
  · rw [hard]
    rcases Nat.lt_succ_iff_lt_or_eq.mp lower with earlier | rfl
    · rw [List.getD_eq_getElem?_getD, List.getElem?_set_ne (Nat.ne_of_gt earlier), ← List.getD_eq_getElem?_getD]
      exact h.active d earlier hot
    · rw [getD_of_lt _ _ (by rwa [List.length_set]), List.getElem_set_self]
      exact Hot.read_hot _ _ _ hot
  · rw [target]
    rcases Nat.lt_succ_iff_lt_or_eq.mp lower with earlier | rfl
    · have zero := h.stopped d earlier field hot free inTarget
      split
      · exact getD_set_zero k zero
      · exact zero
    · rw [if_pos (by simp only [Hot.read_hot _ 100 t.time hot, h.heated.frozen, free, field, decide_true]; rfl),
        getD_of_lt _ _ (by rw [List.length_set, h.targetLength]; exact inTarget), List.getElem_set_self]

theorem State.readHard_range (s : State) (temp : Nat → Nat) (k : Nat) (rows : k ≤ s.pwr.hard.length) :
    s.HardRead ((List.range k).foldl (fun s d => s.readHard d (temp d)) s) temp k := by
  induction k with
  | zero => exact ⟨.refl s, rfl, rfl, fun _ h => absurd h (Nat.not_lt_zero _), fun _ h => absurd h (Nat.not_lt_zero _)⟩
  | succ k ih =>
    rw [List.range_succ, List.foldl_append]
    exact (ih (Nat.le_of_succ_le rows)).next rows

/-- The hottest reading of each die. -/
def hottest (readings : List Nat) : List Nat := (List.range 10).map (fun i => min 255 (((readings.drop (4 * i)).take 4).foldl max 0))

theorem hottest_getD (readings : List Nat) {d : Nat} (die : d < 10) :
    (hottest readings).getD d 0 = min 255 (((readings.drop (4 * d)).take 4).foldl max 0) := by
  rw [hottest, getD_of_lt _ _ (by simpa using die), List.getElem_map, List.getElem_range]

/-- The thermal rows of every die read at their temperatures. -/
def State.sampled (s : State) (temps : List Nat) : State :=
  (List.range 10).foldl (fun s d => s.readHard d (temps.getD d 0))
    ((List.range 8).foldl (fun s f => s.readThrottle f (temps.getD f 0)) { s with pwr := { s.pwr with temps := temps } })

theorem State.sampled_read (s : State) (temps : List Nat) (ten : s.pwr.hard.length = 10) :
    State.HardRead { s with pwr := { s.pwr with temps := temps } } (s.sampled temps) (fun d => temps.getD d 0) 10 := by
  obtain ⟨heated, hard, target⟩ := State.readThrottle_all (fun d => temps.getD d 0) (List.range 8)
    { s with pwr := { s.pwr with temps := temps } }
  have read := State.readHard_range ((List.range 8).foldl (fun s f => s.readThrottle f (temps.getD f 0))
    { s with pwr := { s.pwr with temps := temps } }) (fun d => temps.getD d 0) 10 (by rw [hard]; exact Nat.le_of_eq ten.symm)
  exact ⟨heated.trans read.heated, read.hardLength.trans (congrArg List.length hard),
    read.targetLength.trans (congrArg List.length target), read.active,
    fun d lower field hot free inTarget => read.stopped d lower field hot (heated.frozen.trans free) (target.symm ▸ inTarget)⟩

/-- A trip ends once every die is below 95 °C. -/
def State.untrip (s : State) (temps : List Nat) : State :=
  if s.pwr.trip && temps.all (fun t => decide (t < 95)) then
    ({ s with pwr := { s.pwr with trip := false } } : State).emit (.pin 0 true)
  else s

theorem State.untrip_aside (s : State) (temps : List Nat) :
    (s.untrip temps).pwr = { s.pwr with trip := (s.untrip temps).pwr.trip } ∧ (s.untrip temps).mem = s.mem
      ∧ (s.untrip temps).hif = s.hif := by
  unfold State.untrip
  split <;> exact ⟨rfl, rfl, rfl⟩

theorem State.untrip_cool (s : State) {temps : List Nat} (cool : ∀ t ∈ temps, t < 95) : (s.untrip temps).pwr.trip = false := by
  have all : temps.all (fun t => decide (t < 95)) = true := List.all_eq_true.mpr fun t member => decide_eq_true (cool t member)
  unfold State.untrip
  rw [all, Bool.and_true]
  split
  · rfl
  · next untripped => exact Bool.eq_false_iff.mpr untripped

theorem exec_dieTempSample (s : State) (readings : List Nat) : exec (.dieTempSample readings) s
    = .next (((s.sampled (hottest readings)).untrip (hottest readings)).settle s) := rfl

theorem exec_dieTempSample_reads (s : State) (readings : List Nat) (ten : s.pwr.hard.length = 10) :
    ∃ t, exec (.dieTempSample readings) s = .next t
      ∧ (∀ d, d < 10 → t.pwr.temps.getD d 0 = min 255 (((readings.drop (4 * d)).take 4).foldl max 0))
      ∧ (∀ d, d < 10 → 105 ≤ t.pwr.temps.getD d 0 → (t.pwr.hard.getD d {}).active = true)
      ∧ (∀ d, d < 8 → 105 ≤ t.pwr.temps.getD d 0 → s.frozen = false → d < s.pwr.target.length → t.pwr.target.getD d 1 = 0)
      ∧ ((∀ d, d < 10 → t.pwr.temps.getD d 0 < 95) → t.pwr.trip = false)
      ∧ t.pwr.point = s.pwr.point ∧ t.mem = s.mem ∧ t.hif.rings = s.hif.rings := by
  have read := s.sampled_read (hottest readings) ten
  obtain ⟨pwr, mem, hif⟩ := (s.sampled (hottest readings)).untrip_aside (hottest readings)
  have sameMem := mem.trans (congrArg State.mem read.heated.state)
  have rows : (s.sampled (hottest readings)).pwr.temps = hottest readings ∧ (s.sampled (hottest readings)).pwr.point = s.pwr.point := by
    rw [read.heated.state]
    exact ⟨rfl, rfl⟩
  have still : (((s.sampled (hottest readings)).untrip (hottest readings)).mem.stalled && !s.mem.stalled) = false := by
    rw [sameMem]
    exact Bool.and_not_self _
  have temps : ((s.sampled (hottest readings)).untrip (hottest readings)).pwr.temps = hottest readings :=
    (congrArg Pwr.temps pwr).trans rows.1
  refine ⟨_, exec_dieTempSample s readings, ?_⟩
  rw [State.settle_pwr _ _ still, State.settle_mem _ _ still, State.settle_hif_rings _ _ still, temps]
  refine ⟨fun d => hottest_getD readings, fun d die hot => ?_, fun d field hot free inTarget => ?_, fun cool => ?_, ?_, sameMem, ?_⟩
  · rw [pwr]
    exact read.active d die hot
  · rw [pwr]
    exact read.stopped d (Nat.lt_trans field (by decide)) field hot free inTarget
  · refine State.untrip_cool _ fun t member => ?_
    obtain ⟨d, die, rfl⟩ := List.getElem_of_mem member
    have := cool d (by simpa [hottest] using die)
    rwa [getD_of_lt _ _ die] at this
  · exact (congrArg Pwr.point pwr).trans rows.2
  · rw [hif, read.heated.state]

/-! ### A thermal trip -/

/-- What was sent stands when the interrupts of a change are delivered. -/
theorem State.settle_mem_out {m : OutMsg} {new old : State} (sent : m ∈ new.out)
    (reached : (new.mem.stalled && !old.mem.stalled) = false) : m ∈ (new.settle old).out := by
  refine State.settle_induction (P := fun t => m ∈ t.out) sent (fun t f v before => ?_) reached
  rcases t.msix_cases f v with done | done | done | done <;> rw [done]
  · exact before
  · exact before
  · exact before
  · exact List.mem_append_left _ before

/-- THERMTRIP_N falls and the device is held in core reset. -/
def State.tripped (s : State) (die : Nat) : State :=
  { ((s.log 0x0402 die (4 + s.pwr.temps.getD die 0 * 2 ^ 8)).emit (.pin 0 false)).deviceReset false 5 with
    pwr := { (((s.log 0x0402 die (4 + s.pwr.temps.getD die 0 * 2 ^ 8)).emit (.pin 0 false)).deviceReset false 5).pwr with
      trip := true } }

theorem exec_thermalTrip_first (s : State) (die : Nat) (untripped : s.pwr.trip = false) :
    exec (.thermalTrip die) s = .next ((s.tripped die).settle s) := by
  change execThermalTrip die s = _
  rw [execThermalTrip, if_neg (by simp [untripped])]
  rfl

theorem State.tripped_resets (s : State) (die : Nat) : (s.tripped die).mem.stalled = false ∧ (s.tripped die).pwr.trip = true
    ∧ (s.tripped die).boot.lastReset = 5 ∧ OutMsg.pin 0 false ∈ (s.tripped die).out ∧ (s.tripped die).time = s.time
    ∧ ∀ r, ((s.tripped die).ring r).st = .disabled :=
  ⟨rfl, rfl, rfl, List.mem_append_right _ (List.mem_singleton.mpr rfl), rfl, fun _ => rfl⟩

theorem exec_thermalTrip_holds (s : State) (die : Nat) (untripped : s.pwr.trip = false) :
    ∃ t, exec (.thermalTrip die) s = .next t ∧ t.pwr.trip = true ∧ t.boot.lastReset = 5
      ∧ OutMsg.pin 0 false ∈ t.out ∧ t.time = s.time ∧ (∀ r, (t.ring r).st = .disabled) := by
  obtain ⟨running, trip, code, sent, time, rings⟩ := s.tripped_resets die
  have still : ((s.tripped die).mem.stalled && !s.mem.stalled) = false := by
    rw [running]
    exact Bool.false_and _
  refine ⟨_, exec_thermalTrip_first s die untripped, ?_, ?_, State.settle_mem_out sent still, ?_, fun r => ?_⟩
  · rw [State.settle_pwr _ _ still, trip]
  · rw [State.settle_boot _ _ still, code]
  · rw [State.settle_time _ _ still, time]
  · rw [State.settle_ring _ _ _ still, rings r]

end

/-- Settles O58: a decision and a sample are folds over the dies, each of which touches its own entries; the rest are single branches. -/
theorem powerControl : Obligations.PowerControl := by
  unfold Obligations.PowerControl
  refine ⟨⟨?_, fun s f p above under => ⟨State.nextPoint_down under, State.nextPoint_up, State.nextPoint_same⟩,
    fun s die => exec_pstateChangeComplete_free die, fun s up => ?_, fun s t => exec_currentLimitRelease_tripped⟩, ?_, ?_, ?_⟩
  · rintro s t power some rfl
    exact ⟨exec_dvfsTick_held some, exec_dvfsTick_decides some⟩
  · exact ⟨exec_avsReadback_silent up, fun v => exec_avsReadback_near up, fun v => exec_avsReadback_off up, exec_currentLimitTrip_first up⟩
  · exact fun s readings ten _ => exec_dieTempSample_reads s readings ten
  · exact exec_thermalTrip_holds
  · exact fun s rail mv => ⟨exec_supplyWarning_first, fun x => exec_supplyWarning_again, fun x => exec_supplyWarningRecover_one,
      exec_supplyResetLevel_alwaysOn, exec_supplyResetLevel_other⟩

end Sys2Proof.Machine
end
